-- ==== Sys2Proof/Word.lean ====
section
/-!
DEFINITION. The word types of the ZX48 and the small data types that instruction fields and events are made of.
Every name is the spec's own: guards (R29), sources with their full/empty policy (R30), the Q field (R35), the
deferred record (R173).
-/
namespace Sys2Proof

/-- A 32-bit lane register (R3). -/
abbrev Word := BitVec 32
/-- A register pair, a global address or a doubleword (R28). -/
abbrev DWord := BitVec 64
/-- A byte of memory (R9). -/
abbrev Byte := BitVec 8
/-- A register quad (R28). -/
abbrev QWord := BitVec 128

/-- The guard field of formats T, I and M (R29): predicate p0-p7 and its sense. -/
structure Guard where
  /-- the predicate, 0-7 -/
  p : Nat
  /-- `true`: a lane executes where the predicate is 0 -/
  neg : Bool
  deriving DecidableEq, Repr

/-- The unguarded encoding g = 0b0000 (R29). -/
def Guard.always : Guard := ⟨0, false⟩

/-- A lane-register source with its full/empty policy bit, wa or wb (R30): `trap` is the bit. -/
structure Src where
  r : Nat
  trap : Bool
  deriving DecidableEq, Repr

/-- The scopes of Q[6:4] (R35). -/
inductive Scope where
  | bm | blk | gang | dev | pod | sys
  deriving DecidableEq, Repr

/-- The orders of Q[3:1] (R35). -/
inductive Order where
  | relaxed | acq | rel | acqrel | sc
  deriving DecidableEq, Repr

/-- The Q field (R35). -/
structure QF where
  scope : Scope
  order : Order
  prm : Bool
  deriving DecidableEq, Repr

/-- The Q of the M forms: relaxed, beam scope, no promotion (R34). -/
def QF.plain : QF := ⟨.bm, .relaxed, false⟩

/-- The conditions of ICMP (R116). -/
inductive ICond where
  | eq | ne | lt | le | gt | ge
  deriving DecidableEq, Repr

/-- The conditions of FCMP (R124). -/
inductive FCond where
  | eq | ne | lt | le | gt | ge | un | ord
  deriving DecidableEq, Repr

/-- The rounding modes (R48). -/
inductive RMode where
  | rne | rtz | rdn | rup | sr
  deriving DecidableEq, Repr

/-- The sixteen forms of CVT (R126). -/
inductive CvtKind where
  | i32F32 | i32F32Rtz | z32F32 | z32F32Rtz | f32I32 | f32Z32 | bf16F32 | f32Bf16
  | fp16F32 | f32Fp16 | e4m3F32 | e5m2F32 | f32E4m3 | f32E5m2 | bf16F32Sr | e4m3F32Sr
  deriving DecidableEq, Repr

/-- The modes of SHFL (R130). -/
inductive ShflMode where
  | idx | up | down | xor
  deriving DecidableEq, Repr

/-- The operations of REDUX and SCAN (R132). -/
inductive RedOp where
  | addI32 | minI32 | maxI32 | minZ32 | maxZ32 | and | or | xor | addF32 | minF32 | maxF32
  deriving DecidableEq, Repr

/-- The operations of ATOM and RED (R34). -/
inductive AtomOp where
  | add | addF32 | minI | maxI | minZ | maxZ | minF32 | maxF32 | and | or | xor | exch
  deriving DecidableEq, Repr

/-- The access sizes (R34, R160). -/
inductive MemSize where
  | b8 | b16 | b32 | b64 | b128
  deriving DecidableEq, Repr

/-- The special registers of RDSP (R105). -/
inductive SpReg where
  | wid | lane | beam | bslot | core | sector | quarter | clk | dtime | gen | fstat | psw
  deriving DecidableEq, Repr

/-- The states of a buffer handle (R194, R195). -/
inductive HState where
  | free | filling | full | draining
  deriving DecidableEq, Repr

/-- The operators of a deferred record (R174). -/
inductive DOp where
  | store | addI | addF32 | minI | maxI | minZ | maxZ | minF32 | maxF32 | and | or | xor
  deriving DecidableEq, Repr

/-- A deferred record (R173): 128 bits in the log, in a bin and in a packet. -/
structure Rec where
  value : DWord
  op : DOp
  /-- SZ: `true` for a 64-bit word -/
  sz : Bool
  /-- TAG: cluster-relative core in bits 7:6, BSLOT in bits 5:0 -/
  tag : Nat
  /-- physical address of the word -/
  pa : Nat
  deriving DecidableEq, Repr

/-- What travels in a log, a bin or a bin packet: a record with the core that appended it, and after it those whose records have
coalesced into it (R178), or a commit marker with the core whose log it left and the channels it goes to (R175, R179, R187). -/
inductive BinItem where
  | record (cores : List Nat) (r : Rec)
  | mark (commit : Nat) (core : Nat) (chans : List Nat)
  deriving DecidableEq, Repr

/-- Why a run cannot issue at its PC (R25, R36): the cases of ILLEGAL_INSTRUCTION. -/
inductive FetchError where
  /-- the PC is odd, or a halfword of the instruction lies outside the code (R25) -/
  | outside
  /-- R36 check 1 -/
  | reservedOpcode
  /-- R36 check 2 -/
  | reservedSubOp
  /-- R36 checks 3 and 4 -/
  | badField
  /-- the fetch failed translation with this cause and level (R144); PageFault or ProtectionFault -/
  | translation (cause level : Nat) (va : DWord)
  /-- the code, or a table entry on the way to it, lies in a block that cannot be read, at this address (R152) -/
  | uncorrectable (pa : Nat)
  /-- the page's aperture or pod device refuses the fetch (R315, R317) -/
  | refused (va : DWord)
  deriving DecidableEq, Repr

/-- The kinds of a PCIe AtomicOp that the device completes on BAR2 (R314). -/
inductive PcieAtomic where
  | fetchAdd | swap | cas
  deriving DecidableEq, Repr

/-- What a pod peer's access asks of memory (R141, R165, R317). -/
inductive PodAccess where
  /-- this many bytes -/
  | read (n : Nat)
  | write (data : List Byte)
  /-- ATOM and RED with their operation, and ACAS, which has none; whether the word has 64 bits, the operand or desired value, the
  expected one, and whether the old value goes back -/
  | atomic (op : Option AtomOp) (wide : Bool) (v cmp : DWord) (reply : Bool)
  deriving DecidableEq, Repr

end Sys2Proof
end

