-- ==== Sys2Proof/Config.lean ====
section
/-!
DEFINITION. What the spec leaves to each device or to no rule at all. Each constant is opaque: nothing can evaluate it, so
a statement holds whatever it is. The first argument of `free...` is the state's counter `fresh`, which every use
advances (log 2).
-/
namespace Sys2Proof.Config

/-- A free number: a latency within a bound, or a choice among several (log 2). -/
opaque freeNat : Nat → Nat
/-- A free yes or no: whether a fold yields to refresh or to a read, or a cluster begins a steal round (R82, R184, log 2). -/
opaque freeBool : Nat → Bool
/-- Whether a cache entry is evicted at the end of a clock: the counter `fresh` and a name of the entry (log 7). -/
opaque evicts : Nat → Nat → Bool
/-- Whether the spill lines of a block cannot be read by a fold: by the counter `fresh` and the block (R190, log 48). -/
opaque badSpill : Nat → Nat → Bool
/-- Whether a PCIe AtomicOp of this device ends with an error completion: by the counter `fresh` and the address (R165, log 49). -/
opaque hostError : Nat → Nat → Bool
/-- Whether a granule of a load is seen as it stood before a write through another aperture: by the counter `fresh` and the granule
(R283, log 52). -/
opaque aliasOld : Nat → Nat → Bool
/-- Whether a byte of an engine's destination is written before its operation ends: by the counter `fresh` and a name of the byte
(R278, log 36). -/
opaque writesEarly : Nat → Nat → Bool
/-- Which entry leaves a full cache or TLB: the counter `fresh` and a name of the entry that comes in (log 7). -/
opaque victim : Nat → Nat → Nat
/-- The 512-byte block, by its number among the places of device memory, in which errors beyond the code's reach arise in a
clock, if any: by the counter `fresh` (R152, log 48). -/
opaque badBlock : Nat → Option Nat
/-- The inverse transform of a JPEG block (R208: one fixed function, the same on every ZX48; log 10): the 64 dequantised
coefficients in zigzag order give the 64 samples, row by row. -/
opaque idct : List Int → List (BitVec 8)
/-- What a device-to-device recall brings past the range of its source: by the counter `fresh` and the byte's offset (R207, log 36). -/
opaque recallByte : Nat → Nat → BitVec 8
/-- What a flash block holds that the device has not written, by namespace and byte (log 11). -/
opaque flashByte : Nat → BitVec 8

end Sys2Proof.Config
end

