-- ==== Sys2Proof/Syntax.lean ====
section
/-!
DEFINITION. The instruction type: one constructor for each row of spec/opcode_table.json. The first 181 are the
encoded instructions of R26, R33 and R34, their operands in the order the opcode map lays the fields out from bit 31
down; the other 83 are the steps the device takes by itself, each with what it concerns, those that come from outside
the device last.
-/
namespace Sys2Proof

/-- The instructions and steps of the ZX48 (R26, R33, R34, R336). -/
inductive Instr where
  /-- MOV_S: the 16-bit S form, with the effect of its T form on (d, d, a) (R26). -/
  | movS (d : Nat) (a : Src)
  /-- IADD_S: the 16-bit S form, with the effect of its T form on (d, d, a) (R26). -/
  | iaddS (d : Nat) (a : Src)
  /-- ISUB_S: the 16-bit S form, with the effect of its T form on (d, d, a) (R26). -/
  | isubS (d : Nat) (a : Src)
  /-- IMUL_S: the 16-bit S form, with the effect of its T form on (d, d, a) (R26). -/
  | imulS (d : Nat) (a : Src)
  /-- AND_S: the 16-bit S form, with the effect of its T form on (d, d, a) (R26). -/
  | andS (d : Nat) (a : Src)
  /-- OR_S: the 16-bit S form, with the effect of its T form on (d, d, a) (R26). -/
  | orS (d : Nat) (a : Src)
  /-- XOR_S: the 16-bit S form, with the effect of its T form on (d, d, a) (R26). -/
  | xorS (d : Nat) (a : Src)
  /-- SHL_S: the 16-bit S form, with the effect of its T form on (d, d, a) (R26). -/
  | shlS (d : Nat) (a : Src)
  /-- SHR_S: the 16-bit S form, with the effect of its T form on (d, d, a) (R26). -/
  | shrS (d : Nat) (a : Src)
  /-- SRA_S: the 16-bit S form, with the effect of its T form on (d, d, a) (R26). -/
  | sraS (d : Nat) (a : Src)
  /-- IMIN_S: the 16-bit S form, with the effect of its T form on (d, d, a) (R26). -/
  | iminS (d : Nat) (a : Src)
  /-- IMAX_S: the 16-bit S form, with the effect of its T form on (d, d, a) (R26). -/
  | imaxS (d : Nat) (a : Src)
  /-- FADD_S: the 16-bit S form, with the effect of its T form on (d, d, a) (R26). -/
  | faddS (d : Nat) (a : Src)
  /-- FSUB_S: the 16-bit S form, with the effect of its T form on (d, d, a) (R26). -/
  | fsubS (d : Nat) (a : Src)
  /-- FMUL_S: the 16-bit S form, with the effect of its T form on (d, d, a) (R26). -/
  | fmulS (d : Nat) (a : Src)
  /-- FMAX_S: the 16-bit S form, with the effect of its T form on (d, d, a) (R26). -/
  | fmaxS (d : Nat) (a : Src)
  /-- MOV_B32: d := a (R109). -/
  | movB32 (g : Guard) (a : Src) (d : Nat)
  /-- MOVI: d := sign_extend(imm18) (R109). -/
  | movi (d : Nat) (i18 : Nat)
  /-- MOVHI: d := imm18 << 14 OR d[13:0] (R109). -/
  | movhi (d : Nat) (i18 : Nat)
  /-- IADD: d := a + b (R110). -/
  | iadd (g : Guard) (b : Src) (a : Src) (d : Nat)
  /-- ISUB: d := a - b (R110). -/
  | isub (g : Guard) (b : Src) (a : Src) (d : Nat)
  /-- IADDI: d := a + imm7 (R110). -/
  | iaddi (g : Guard) (i7 : Nat) (a : Src) (d : Nat)
  /-- IMUL: a x b (R110). -/
  | imul (g : Guard) (b : Src) (a : Src) (d : Nat)
  /-- IMAD: a x b + d (R110). -/
  | imad (g : Guard) (b : Src) (a : Src) (d : Nat)
  /-- AND: a AND b (R112). -/
  | and (g : Guard) (b : Src) (a : Src) (d : Nat)
  /-- OR: a OR b (R112). -/
  | or (g : Guard) (b : Src) (a : Src) (d : Nat)
  /-- XOR: a XOR b (R112). -/
  | xor (g : Guard) (b : Src) (a : Src) (d : Nat)
  /-- ANDN: a AND NOT b (R112). -/
  | andn (g : Guard) (b : Src) (a : Src) (d : Nat)
  /-- SHL: a << b (R113). -/
  | shl (g : Guard) (b : Src) (a : Src) (d : Nat)
  /-- SHR: a >> b, zero-filled (R113). -/
  | shr (g : Guard) (b : Src) (a : Src) (d : Nat)
  /-- SRA: a >> b, sign-filled (R113). -/
  | sra (g : Guard) (b : Src) (a : Src) (d : Nat)
  /-- ROTL: a rotated left (R113). -/
  | rotl (g : Guard) (b : Src) (a : Src) (d : Nat)
  /-- IMIN_I32: signed minimum (R119). -/
  | iminI32 (g : Guard) (b : Src) (a : Src) (d : Nat)
  /-- IMAX_I32: signed maximum (R119). -/
  | imaxI32 (g : Guard) (b : Src) (a : Src) (d : Nat)
  /-- IMIN_Z32: unsigned minimum (R119). -/
  | iminZ32 (g : Guard) (b : Src) (a : Src) (d : Nat)
  /-- IMAX_Z32: unsigned maximum (R119). -/
  | imaxZ32 (g : Guard) (b : Src) (a : Src) (d : Nat)
  /-- ICMP_32: p(d) := comparison of 32-bit integers (R116). -/
  | icmp32 (u : Bool) (c : ICond) (b : Src) (a : Src) (pd : Nat)
  /-- ICMP_64: p(d) := comparison of pairs (R116). -/
  | icmp64 (u : Bool) (c : ICond) (b : Src) (a : Src) (pd : Nat)
  /-- SEL: d := a or b by p0-p15 (R117). -/
  | sel (p : Nat) (b : Src) (a : Src) (d : Nat)
  /-- LEA: d := a + (b << sh) (R118). -/
  | lea (sh : Nat) (b : Src) (a : Src) (d : Nat)
  /-- IMULH: high half of the product (R110). -/
  | imulh (u : Bool) (b : Src) (a : Src) (d : Nat)
  /-- IDIV: truncating quotient, a producer (R111). -/
  | idiv (w : Bool) (u : Bool) (b : Src) (a : Src) (d : Nat)
  /-- IREM: remainder, a producer (R111). -/
  | irem (w : Bool) (u : Bool) (b : Src) (a : Src) (d : Nat)
  /-- INEG_I32: unary integer (R114). -/
  | inegI32 (g : Guard) (a : Src) (d : Nat)
  /-- IABS_I32: unary integer (R114). -/
  | iabsI32 (g : Guard) (a : Src) (d : Nat)
  /-- NOT: unary integer (R112). -/
  | notB32 (g : Guard) (a : Src) (d : Nat)
  /-- CLZ_B32: unary integer (R114). -/
  | clzB32 (g : Guard) (a : Src) (d : Nat)
  /-- POPC_B32: unary integer (R114). -/
  | popcB32 (g : Guard) (a : Src) (d : Nat)
  /-- BREV: unary integer (R114). -/
  | brev (g : Guard) (a : Src) (d : Nat)
  /-- INEG_I64: unary integer (R114). -/
  | inegI64 (g : Guard) (a : Src) (d : Nat)
  /-- IABS_I64: unary integer (R114). -/
  | iabsI64 (g : Guard) (a : Src) (d : Nat)
  /-- CLZ_B64: unary integer (R114). -/
  | clzB64 (g : Guard) (a : Src) (d : Nat)
  /-- POPC_B64: unary integer (R114). -/
  | popcB64 (g : Guard) (a : Src) (d : Nat)
  /-- BFX: extracts a bit field; u: sign-extending (.i32) (R115). -/
  | bfx (u : Bool) (b : Src) (a : Src) (d : Nat)
  /-- BFI: inserts a bit field (R115). -/
  | bfi (b : Src) (a : Src) (d : Nat)
  /-- MOV_B64: copies a pair (R109). -/
  | movB64 (a : Src) (d : Nat)
  /-- ISUB_I64: 64-bit ISUB_I64 (R110). -/
  | isubI64 (b : Src) (a : Src) (d : Nat)
  /-- IMUL_I64: 64-bit IMUL_I64 (R110). -/
  | imulI64 (b : Src) (a : Src) (d : Nat)
  /-- IMIN_I64: 64-bit IMIN_I64 (R119). -/
  | iminI64 (b : Src) (a : Src) (d : Nat)
  /-- IMAX_I64: 64-bit IMAX_I64 (R119). -/
  | imaxI64 (b : Src) (a : Src) (d : Nat)
  /-- IMIN_Z64: 64-bit IMIN_Z64 (R119). -/
  | iminZ64 (b : Src) (a : Src) (d : Nat)
  /-- IMAX_Z64: 64-bit IMAX_Z64 (R119). -/
  | imaxZ64 (b : Src) (a : Src) (d : Nat)
  /-- AND_B64: 64-bit AND_B64 (R112). -/
  | andB64 (b : Src) (a : Src) (d : Nat)
  /-- OR_B64: 64-bit OR_B64 (R112). -/
  | orB64 (b : Src) (a : Src) (d : Nat)
  /-- XOR_B64: 64-bit XOR_B64 (R112). -/
  | xorB64 (b : Src) (a : Src) (d : Nat)
  /-- SHL_B64: 64-bit shift by a single register (R113). -/
  | shlB64 (b : Src) (a : Src) (d : Nat)
  /-- SHR_B64: 64-bit shift by a single register (R113). -/
  | shrB64 (b : Src) (a : Src) (d : Nat)
  /-- SRA_B64: 64-bit shift by a single register (R113). -/
  | sraB64 (b : Src) (a : Src) (d : Nat)
  /-- IADD_I64: 64-bit wrapping add (R110). -/
  | iaddI64 (g : Guard) (b : Src) (a : Src) (d : Nat)
  /-- GXLD: d := REG[a], a producer (R135). -/
  | gxld (a : Src) (d : Nat)
  /-- GXST: REG[a] := b (R135). -/
  | gxst (b : Src) (a : Src)
  /-- FADD: FP32 FADD (R120). -/
  | fadd (g : Guard) (b : Src) (a : Src) (d : Nat)
  /-- FSUB: FP32 FSUB (R120). -/
  | fsub (g : Guard) (b : Src) (a : Src) (d : Nat)
  /-- FMUL: FP32 FMUL (R120). -/
  | fmul (g : Guard) (b : Src) (a : Src) (d : Nat)
  /-- FFMA: FP32 FFMA (R120). -/
  | ffma (g : Guard) (b : Src) (a : Src) (d : Nat)
  /-- FMIN: FP32 FMIN (R120). -/
  | fmin (g : Guard) (b : Src) (a : Src) (d : Nat)
  /-- FMAX: FP32 FMAX (R120). -/
  | fmax (g : Guard) (b : Src) (a : Src) (d : Nat)
  /-- FABS: unary FP32 FABS (R121). -/
  | fabs (g : Guard) (a : Src) (d : Nat)
  /-- FNEG: unary FP32 FNEG (R121). -/
  | fneg (g : Guard) (a : Src) (d : Nat)
  /-- FRCP: unary FP32 FRCP (R122). -/
  | frcp (g : Guard) (a : Src) (d : Nat)
  /-- FRSQ: unary FP32 FRSQ (R122). -/
  | frsq (g : Guard) (a : Src) (d : Nat)
  /-- FSQRT: unary FP32 FSQRT (R122). -/
  | fsqrt (g : Guard) (a : Src) (d : Nat)
  /-- FEXP2: unary FP32 FEXP2 (R122). -/
  | fexp2 (g : Guard) (a : Src) (d : Nat)
  /-- FLOG2: unary FP32 FLOG2 (R122). -/
  | flog2 (g : Guard) (a : Src) (d : Nat)
  /-- FRND: rounds to an integral value (R123). -/
  | frnd (g : Guard) (rm : RMode) (a : Src) (d : Nat)
  /-- FCMP: p(d) := comparison of FP32 values (R124). -/
  | fcmp (c : FCond) (b : Src) (a : Src) (pd : Nat)
  /-- FDIV: a / b, a producer (R120). -/
  | fdiv (g : Guard) (b : Src) (a : Src) (d : Nat)
  /-- FADD_DIRECTED: rounded by the qualifier (R120). -/
  | faddDirected (rm : RMode) (b : Src) (a : Src) (d : Nat)
  /-- FSUB_DIRECTED: rounded by the qualifier (R120). -/
  | fsubDirected (rm : RMode) (b : Src) (a : Src) (d : Nat)
  /-- FMUL_DIRECTED: rounded by the qualifier (R120). -/
  | fmulDirected (rm : RMode) (b : Src) (a : Src) (d : Nat)
  /-- FFMA_DIRECTED: rounded by the qualifier (R120). -/
  | ffmaDirected (rm : RMode) (b : Src) (a : Src) (d : Nat)
  /-- BADD2: packed BF16 BADD2 (R125). -/
  | badd2 (g : Guard) (b : Src) (a : Src) (d : Nat)
  /-- BMUL2: packed BF16 BMUL2 (R125). -/
  | bmul2 (g : Guard) (b : Src) (a : Src) (d : Nat)
  /-- BFMA2: packed BF16 BFMA2 (R125). -/
  | bfma2 (g : Guard) (b : Src) (a : Src) (d : Nat)
  /-- CVT: conversion (R126). -/
  | cvt (g : Guard) (k : CvtKind) (a : Src) (d : Nat)
  /-- PLOP: p(d) := table[2 p(a) + p(b)] (R127). -/
  | plop (t : Nat) (pb : Nat) (pa : Nat) (pd : Nat)
  /-- P2G: d := all predicates (R128). -/
  | p2g (g : Guard) (d : Nat)
  /-- G2P: predicates := a (R128). -/
  | g2p (g : Guard) (a : Src)
  /-- VOTE_ANY: OR over the run (R129). -/
  | voteAny (pa : Nat) (pd : Nat)
  /-- VOTE_ALL: AND over the run (R129). -/
  | voteAll (pa : Nat) (pd : Nat)
  /-- VOTE_BALLOT: lane mask of a predicate (R129). -/
  | voteBallot (pa : Nat) (d : Nat)
  /-- VOTE_FIRST: 1 in the lowest lane of the run (R129). -/
  | voteFirst (pd : Nat)
  /-- SHFL: reads another lane (R130). -/
  | shfl (m : ShflMode) (b : Src) (a : Src) (d : Nat)
  /-- PERM: rearranges bytes (R131). -/
  | perm (g : Guard) (b : Src) (a : Src) (d : Nat)
  /-- REDUX: reduction over the run (R132). -/
  | redux (o : RedOp) (a : Src) (d : Nat)
  /-- SCAN: inclusive prefix over the run (R133). -/
  | scan (o : RedOp) (a : Src) (d : Nat)
  /-- BRA: uniform branch (R96). -/
  | bra (sense : Bool) (p : Nat) (disp : Nat)
  /-- BRD: per-lane branch (R97). -/
  | brd (sense : Bool) (p : Nat) (disp : Nat)
  /-- SPLIT: j := mask of the run (R92). -/
  | split (j : Nat)
  /-- JOIN: waits for the lanes of j (R93). -/
  | join (j : Nat)
  /-- BRX: uniform indirect branch; g is the condition (R98). -/
  | brx (g : Guard) (a : Src)
  /-- CALL: g(l) := PC + 4; branch (R99). -/
  | call (l : Nat) (disp : Nat)
  /-- RET: per-lane return (R100). -/
  | ret (g : Guard) (a : Src)
  /-- EXIT: ends executing lanes (R103). -/
  | exit (g : Guard)
  /-- MCALL: one step of macro m per issue (R101). -/
  | mcall (m : Nat) (P0 : Nat) (P1 : Nat) (P2 : Nat)
  /-- YIELD: not eligible for 32 clocks (R104). -/
  | yield (g : Guard)
  /-- TAPE: pushes backward launch records (R74). -/
  | tape (a : Src)
  /-- LAUNCH: appends a launch packet (R75). -/
  | launch (a : Src) (d : Nat)
  /-- LD_32: global access with offset (R160). -/
  | ld32 (g : Guard) (i7 : Nat) (a : Src) (d : Nat)
  /-- LD_64: global access with offset (R160). -/
  | ld64 (g : Guard) (i7 : Nat) (a : Src) (d : Nat)
  /-- LD_128: global access with offset (R160). -/
  | ld128 (g : Guard) (i7 : Nat) (a : Src) (d : Nat)
  /-- ST_32: global access with offset (R160). -/
  | st32 (g : Guard) (i7 : Nat) (a : Src) (d : Nat)
  /-- ST_64: global access with offset (R160). -/
  | st64 (g : Guard) (i7 : Nat) (a : Src) (d : Nat)
  /-- ST_128: global access with offset (R160). -/
  | st128 (g : Guard) (i7 : Nat) (a : Src) (d : Nat)
  /-- LDL_32: local load (R160). -/
  | ldl32 (g : Guard) (i7 : Nat) (a : Src) (d : Nat)
  /-- STL_32: local store (R160). -/
  | stl32 (g : Guard) (i7 : Nat) (a : Src) (d : Nat)
  /-- LD_NARROW: 8- or 16-bit load (R160). -/
  | ldNarrow (z : Bool) (a : Src) (d : Nat)
  /-- ST_NARROW: 8- or 16-bit store (R160). -/
  | stNarrow (z : Bool) (a : Src) (d : Nat)
  /-- LDL_SIZED: local load of 1, 2, 8 or 16 bytes (R160). -/
  | ldlSized (z : MemSize) (a : Src) (d : Nat)
  /-- STL_SIZED: local store of 1, 2, 8 or 16 bytes (R160). -/
  | stlSized (z : MemSize) (a : Src) (d : Nat)
  /-- LDC: constant load; z: 64-bit (R163). -/
  | ldc (z : Bool) (a : Src) (d : Nat)
  /-- PREF: prefetch (R170). -/
  | pref (a : Src)
  /-- CFLUSH: flush a line (R171). -/
  | cflush (a : Src)
  /-- LD_ORDERED: load with order and scope (R162). -/
  | ldOrdered (z : MemSize) (q : QF) (a : Src) (d : Nat)
  /-- ST_ORDERED: store with order and scope (R162). -/
  | stOrdered (z : MemSize) (q : QF) (a : Src) (d : Nat)
  /-- ATOM_32: 32-bit atomic (R164). -/
  | atom32 (o : AtomOp) (q : QF) (a : Src) (d : Nat)
  /-- ATOM_64: 64-bit atomic (R164). -/
  | atom64 (o : AtomOp) (q : QF) (a : Src) (d : Nat)
  /-- RED_32: 32-bit reduction (R164). -/
  | red32 (o : AtomOp) (q : QF) (a : Src) (d : Nat)
  /-- RED_64: 64-bit reduction (R164). -/
  | red64 (o : AtomOp) (q : QF) (a : Src) (d : Nat)
  /-- ACAS_32: 32-bit compare and swap (R166). -/
  | acas32 (q : QF) (a : Src) (d : Nat)
  /-- ACAS_64: 64-bit compare and swap (R166). -/
  | acas64 (q : QF) (a : Src) (d : Nat)
  /-- FENCE: fence (R169). -/
  | fence (q : QF)
  /-- COMMIT_BLK: commit the block's records (R187). -/
  | commitBlk
  /-- COMMIT_GRID: commit the grid's records (R187). -/
  | commitGrid
  /-- COMMIT_POD: commit over the pod (R187). -/
  | commitPod
  /-- DSTAT: state of the log (R192). -/
  | dstat (d : Nat)
  /-- COPY: engine request (R198). -/
  | copy (a : Src) (h : Nat)
  /-- OFFL: engine request (R206). -/
  | offl (a : Src) (h : Nat)
  /-- RECALL: engine request (R207). -/
  | recallCopy (a : Src) (h : Nat)
  /-- DECODE: engine request (R209). -/
  | decode (a : Src) (h : Nat)
  /-- BFREE: frees a handle (R196). -/
  | bfree (h : Nat)
  /-- BTEST: tests a handle (R196). -/
  | btest (st : HState) (h : Nat) (pd : Nat)
  /-- BWAIT_FREE: waits until free (R196). -/
  | bwaitFree (h : Nat)
  /-- BWAIT_FULL: waits until full (R196). -/
  | bwaitFull (h : Nat)
  /-- MMA: matrix multiply-accumulate (R222). -/
  | mma (a : Src) (h : Nat)
  /-- MMA_SIG: MMA over representatives (R241). -/
  | mmaSig (a : Src) (h : Nat)
  /-- ALOAD: loads a slot (R230). -/
  | aload (a : Src) (sl : Nat)
  /-- ACVT: converts a slot (R232). -/
  | acvt (a : Src) (sl : Nat)
  /-- ACLR: clears a slot (R231). -/
  | aclr (sl : Nat)
  /-- QCVT: quantises a tile (R233). -/
  | qcvt (a : Src) (fs : Nat)
  /-- SCBS: sets a scale pair (R227). -/
  | scbs (b : Src) (a : Src) (k : Nat)
  /-- SIG: signatures and buckets (R240). -/
  | sig (a : Src)
  /-- SBWD: gathers or scatters gradients (R242). -/
  | sbwd (a : Src)
  /-- RTAB: loads the rule table (R252). -/
  | rtab (a : Src)
  /-- RULE: runs generations (R247). -/
  | rule (a : Src)
  /-- RGEN: sets GEN (R254). -/
  | rgen (a : Src)
  /-- SYNBAR: arrives and waits (R261). -/
  | synbar (hc : Nat)
  /-- SYNARV: arrives (R261). -/
  | synarv (hc : Nat)
  /-- SYNPUT: broadcasts a word (R262). -/
  | synput (a : Src) (hw : Nat)
  /-- SYNGET: reads a broadcast word (R262). -/
  | synget (hw : Nat) (d : Nat)
  /-- RAND: random word (R136). -/
  | rand (g : Guard) (d : Nat)
  /-- RDSP: reads a special register (R105). -/
  | rdsp (g : Guard) (sp : SpReg) (d : Nat)
  /-- WIDF: reads a field of WID (R106). -/
  | widf (g : Guard) (n : Nat) (d : Nat)
  /-- SYSC: system call (R296). -/
  | sysc (g : Guard) (i7 : Nat) (a : Src) (d : Nat)
  /-- TRET: returns from a handler (R293). -/
  | tret
  /-- BKPT: breakpoint (R297). -/
  | bkpt (g : Guard) (i7 : Nat)
  /-- CSRR: reads a control register (R298). -/
  | csrr (d : Nat) (i18 : Nat)
  /-- CSRW: writes a control register (R298). -/
  | csrw (d : Nat) (i18 : Nat)
  /-- TLBINV_ALL: drops every translation (R299). -/
  | tlbinvAll
  /-- TLBINV_PAGE: drops the translations of pages (R299). -/
  | tlbinvPage (a : Src)
  /-- MCLOAD: rewrites a control-store entry (R300). -/
  | mcload (a : Src) (m : Nat)
  /-- PRODUCER_COMPLETE: producer id of a beam completes (R30). -/
  | producerComplete (core : Nat) (beam : Nat) (id : Nat)
  /-- PAGE_WALK_COMPLETE: walk id of a core ends (R143). -/
  | pageWalkComplete (core : Nat) (id : Nat)
  /-- YIELD_EXPIRY: the hold of YIELD ends (R104). -/
  | yieldExpiry (core : Nat) (beam : Nat)
  /-- DEPENDENCE_POLL: completion words are read again (R67). -/
  | dependencePoll
  /-- DEADLINE_MISS: an overdue packet with MISSDROP retires (R69). -/
  | deadlineMiss (q : Nat)
  /-- PACKET_SELECT: a free acceptance slot chooses (R68). -/
  | packetSelect (part : Nat) (slot : Nat)
  /-- PACKET_ACCEPT: acceptance ends (R66). -/
  | packetAccept (part : Nat) (slot : Nat)
  /-- REWIND_POP: the next tape record is popped (R73). -/
  | rewindPop (q : Nat)
  /-- GANG_DEAL: the next gang is dealt (R80). -/
  | gangDeal (part : Nat)
  /-- GANG_START: the first held gang that fits is placed (R81). -/
  | gangStart (cluster : Nat)
  /-- BLOCK_THREAD_START: placement completes (R72). -/
  | blockThreadStart (gang : Nat)
  /-- STEAL_REQUEST: an idle cluster asks for gangs (R82). -/
  | stealRequest (cluster : Nat)
  /-- STEAL_REPLY: the first victim answers (R82). -/
  | stealReply (thief : Nat) (victims : List Nat)
  /-- STEAL_SHIPMENT_ARRIVAL: shipped gangs arrive (R82). -/
  | stealShipmentArrival (thief : Nat) (gangs : List Nat)
  /-- STEAL_BACKOFF_EXPIRY: the wait after an empty round ends (R82). -/
  | stealBackoffExpiry (cluster : Nat)
  /-- GANG_RETIRE: a finished gang retires (R311). -/
  | gangRetire (gang : Nat)
  /-- GRID_END: a grid ends (R312). -/
  | gridEnd (grid : Nat)
  /-- COMPLETION_WORD_WRITE: the completion word is written (R63). -/
  | completionWordWrite (grid : Nat)
  /-- LOG_DRAIN: the oldest entry of a log enters its bin (R175). -/
  | logDrain (core : Nat)
  /-- BIN_AGE_EXPIRY: an idle bin ships (R179). -/
  | binAgeExpiry (sector : Nat) (bin : Nat)
  /-- BIN_RING_ARRIVAL: a cross-quarter bin arrives (R177). -/
  | binRingArrival (sector : Nat) (items : List BinItem)
  /-- BIN_PACKET_ARRIVAL: an apply engine takes a packet (R180). -/
  | binPacketArrival (ch : Nat) (items : List BinItem)
  /-- APPLY_MARKER_ARRIVAL: the marker of a commit, or a fold request for it (true), starts a fold (R183). -/
  | applyMarkerArrival (ch : Nat) (commit : Nat × Option Nat)
  /-- FOLD_REFRESH_YIELD: refresh pauses a fold (R184). -/
  | foldRefreshYield (ch : Nat)
  /-- FOLD_READ_YIELD: a read pauses a fold (R184). -/
  | foldReadYield (ch : Nat)
  /-- FOLD_COMPLETE: a fold finishes (R183). -/
  | foldComplete (ch : Nat)
  /-- FULL_STATE_NOTICE: a full bit changes (R176). -/
  | fullStateNotice (core : Nat) (ch : Nat) (full : Bool)
  /-- COMMIT_COMPLETE: a commit completes (R187). -/
  | commitComplete (commit : Nat)
  /-- HG_BARRIER_RELEASE: a barrier release arrives (R261). -/
  | hgBarrierRelease (gang : Nat) (ch : Nat) (phase : Nat)
  /-- HG_BROADCAST_DELIVERY: a broadcast word lands (R262). -/
  | hgBroadcastDelivery (core : Nat) (w : Nat) (v : Word)
  /-- HG_COMMIT_MARKER_DELIVERY: a marker enters every log (R187). -/
  | hgCommitMarkerDelivery (commit : Nat)
  /-- COPY_COMPLETE: a copy ends (R195). -/
  | copyComplete (core : Nat) (h : Nat) (inst : Nat)
  /-- DECODE_START: the decode engine takes a request (R208). -/
  | decodeStart (quarter : Nat)
  /-- DECODE_COMPLETE: the decode engine finishes (R211). -/
  | decodeComplete (quarter : Nat)
  /-- MATRIX_QUEUE_DISPATCH: the matrix engine begins an operation (R215). -/
  | matrixQueueDispatch (core : Nat)
  /-- MMA_OPERATION_COMPLETE: an MMA operation finishes (R224). -/
  | mmaOperationComplete (core : Nat)
  /-- MATRIX_SYNC_OP_COMPLETE: a synchronous operation finishes (R228). -/
  | matrixSyncOpComplete (core : Nat)
  /-- RULE_QUEUE_DISPATCH: the rule array begins an operation (R251). -/
  | ruleQueueDispatch (core : Nat)
  /-- RULE_GENERATION: one generation completes (R249). -/
  | ruleGeneration (core : Nat)
  /-- RULE_OP_COMPLETE: a rule operation finishes (R251). -/
  | ruleOpComplete (core : Nat)
  /-- HG_PREEMPT_REQUEST_DELIVERY: a pre-emption request arrives (R301). -/
  | hgPreemptRequestDelivery (gangs : List Nat)
  /-- DRAIN_WATCHDOG_EXPIRY: an unfinished drain switches to save (R302). -/
  | drainWatchdogExpiry (block : Nat)
  /-- PGRACE_EXPIRY: a masked handler's grace ends (R306). -/
  | pgraceExpiry (core : Nat) (beam : Nat)
  /-- SAVE_POOL_ALLOC: a save obtains its area (R307). -/
  | savePoolAlloc (gang : Nat)
  /-- SAVE_WRITE_COMPLETE: a block's save area is written (R305). -/
  | saveWriteComplete (block : Nat)
  /-- GANG_PREEMPTED: a gang leaves its cluster (R301). -/
  | gangPreempted (gang : Nat)
  /-- PREEMPT_OVERDUE: PODUE expires (R309). -/
  | preemptOverdue (gang : Nat)
  /-- RESUME_RESTORE_COMPLETE: a saved gang is restored (R308). -/
  | resumeRestoreComplete (gang : Nat)
  /-- QUIESCE_ACK: QACK of a quarter becomes 1 (R319). -/
  | quiesceAck (q : Nat)
  /-- HG_REBIND_COMPLETE: a rebinding finishes (R323). -/
  | hgRebindComplete
  /-- ABORT: a grid is ended through ABORT (R298). -/
  | abort (grid : Nat)
  /-- ILLEGAL_INSTRUCTION: the selected run cannot issue at its PC (R36). -/
  | illegalInstruction (e : FetchError)
  /-- WRITE_PERFORMED: store id of a beam is performed (R161). -/
  | writePerformed (core : Nat) (beam : Nat) (id : Nat)
  /-- TLBINV_COMPLETE: every TLB has dropped the translations (R299). -/
  | tlbinvComplete (core : Nat) (beam : Nat)
  /-- DBGHALT_WRITE: the host, or a beam, writes DBGHALT register n (R294, R295). -/
  | dbghaltWrite (part : Nat) (n : Nat) (v : Word)
  /-- POD_MARKER_ARRIVAL: a commit marker arrives; the route is the device it is for and the peer it is from (R188). -/
  | podMarkerArrival (route : Nat × Nat) (tag : Nat)
  /-- NVME_COMPLETION: a flash completion is taken; its entry names the command and the submission queue's head (R204). -/
  | nvmeCompletion (qp : Nat) (entry : Nat × Nat) (status : Nat)
  /-- POD_ACCESS_ARRIVAL: a pod peer's access is performed; PA[45:40] is the device it is for and PA[39:0] the place there (R141, R317). -/
  | podAccessArrival (dev : Nat) (off : Nat) (access : PodAccess)
  /-- LQTL_WRITE: the host writes LQTL (R65). -/
  | lqtlWrite (part : Nat) (q : Nat) (v : Word)
  /-- LQ_ENABLE: the host sets LQCTL.EN (R65). -/
  | lqEnable (part : Nat) (q : Nat)
  /-- LQ_DISABLE: the host clears LQCTL.EN (R65). -/
  | lqDisable (part : Nat) (q : Nat)
  /-- HMASK_WRITE: the host writes HMASK register n (R154). -/
  | hmaskWrite (n : Nat) (v : Word)
  /-- DEFSPILL_WRITE: the host writes DEFSPILL (R181). -/
  | defspillWrite (part : Nat) (v : Word)
  /-- MILV_WRITE: the host writes MILVq (R338). -/
  | milvWrite (part : Nat) (q : Nat) (v : Word)
  /-- PARTCFG_WRITE: the PF writes PARTCFG (R323). -/
  | partcfgWrite (v : Word)
  /-- QREQ_WRITE: the PF writes PARTCTL.QREQ (R319). -/
  | qreqWrite (v : Word)
  /-- HGRB_WRITE: the PF writes PARTCTL.HGRB (R323). -/
  | hgrbWrite
  /-- NBND_WRITE: the PF writes NBND (R321). -/
  | nbndWrite (v : Word)
  /-- QCTL_WRITE: the PF writes QCTL (R322). -/
  | qctlWrite (v : Word)
  /-- DTRAP_CLEAR: the host clears DTRAP (R288). -/
  | dtrapClear (part : Nat)
  /-- DFLT_CLEAR: the host clears DFLT (R191). -/
  | dfltClear (part : Nat)
  /-- FQ_ENABLE: the PF sets FQCTL.EN (R204). -/
  | fqEnable (qp : Nat)
  /-- FQ_DISABLE: the PF clears FQCTL.EN (R204). -/
  | fqDisable (qp : Nat)
  /-- CONTROL_REGISTER_WRITE: a BAR0 access of the PF or of VF vf at an offset, of a length: a read, or a write of v (R313). -/
  | controlRegisterWrite (vf : Option Nat) (place : Nat × Nat) (v : Option Word)
  /-- HOST_MEMORY_WRITE: a BAR2 write (R313). -/
  | hostMemoryWrite (part : Nat) (pa : Nat) (data : List Byte)
  /-- HOST_MEMORY_READ: a BAR2 read (R313). -/
  | hostMemoryRead (part : Nat) (pa : Nat) (len : Nat)
  /-- HOST_ATOMIC: a PCIe AtomicOp on BAR2 (R314). -/
  | hostAtomic (part : Nat) (op : PcieAtomic) (wide : Bool) (pa : Nat) (v : DWord) (cmp : DWord)
  /-- BOOT_MEMORY_ACCESS: a BAR4 access; a read names as many bytes as data holds (R315). -/
  | bootMemoryAccess (write : Bool) (off : Nat) (data : List Byte)
  /-- PCIE_RESET: Conventional Reset (R324). -/
  | pcieReset
  /-- PF_FUNCTION_LEVEL_RESET: PF Function Level Reset (R314). -/
  | pfFunctionLevelReset
  /-- VF_FUNCTION_LEVEL_RESET: VF Function Level Reset (R314). -/
  | vfFunctionLevelReset (part : Nat)
  /-- POD_ACKNOWLEDGEMENT_ARRIVAL: an acknowledgement of a commit, with a fault its folds met, arrives by a route as of a marker (R188). -/
  | podAcknowledgementArrival (route : Nat × Nat) (commit : Nat × Option (Nat × Nat))
  /-- POD_DEVICE_UNREACHABLE: a pod member becomes unreachable, or reachable again (R317). -/
  | podDeviceUnreachable (dev : Nat) (down : Bool)
  deriving DecidableEq, Repr

end Sys2Proof
end

