-- ==== Sys2Proof/WellFormed.lean ====
section
/-!
DEFINITION. Well-formed instructions: the ranges and alignments of R28, the guard of R29 and the combinations that
R35 accepts. An instruction that decodes is well-formed; one that is not has no encoding.
-/
namespace Sys2Proof

/-- R28: an index lies inside its range. -/
def below (n x : Nat) : Bool := decide (x < n)
/-- A lane-register field (R28). -/
def reg (r : Nat) : Bool := below 64 r
/-- A pair field: an even register (R28). -/
def pair (r : Nat) : Bool := below 64 r && r % 2 == 0
/-- A quad field: a multiple of 4 (R28). -/
def quad (r : Nat) : Bool := below 64 r && r % 4 == 0
/-- A register, or a pair where `w` is set. -/
def regIf (w : Bool) (r : Nat) : Bool := if w then pair r else reg r
/-- The register, pair or quad that holds an access of this size (R28, R160). -/
def regSize : MemSize → Nat → Bool
  | .b8, r => reg r
  | .b16, r => reg r
  | .b32, r => reg r
  | .b64, r => pair r
  | .b128, r => quad r
/-- A single source (R28). -/
def Src.ok (s : Src) : Bool := reg s.r
/-- A pair source (R28). -/
def Src.okPair (s : Src) : Bool := pair s.r
/-- A source that is a pair where `w` is set. -/
def Src.okIf (s : Src) (w : Bool) : Bool := regIf w s.r
/-- R29: a predicate p0-p7, and not the reserved encoding 0b1000. -/
def Guard.ok (g : Guard) : Bool := below 8 g.p && !(g.p == 0 && g.neg)
/-- The special registers that fill a pair (R33, row 0x72). -/
def SpReg.isPair : SpReg → Bool
  | .wid | .clk | .dtime => true
  | .lane | .beam | .bslot | .core | .sector | .quarter | .gen | .fstat | .psw => false
/-- FRND has no .sr (R33, row 0x26). -/
def RMode.notSr : RMode → Bool
  | .sr => false
  | .rne | .rtz | .rdn | .rup => true
/-- The directed forms have no .rne (R33, row 0x29). -/
def RMode.notRne : RMode → Bool
  | .rne => false
  | .rtz | .rdn | .rup | .sr => true
/-- BTEST names each of the four states (R33, row 0x63). -/
def HState.notOther : HState → Bool
  | .free | .filling | .full | .draining => true
/-- The local forms of row 0x58 have no 32-bit size (R34). -/
def MemSize.notWord : MemSize → Bool
  | .b32 => false
  | .b8 | .b16 | .b64 | .b128 => true
/-- R34: the operations that have a 64-bit form. -/
def AtomOp.wide : AtomOp → Bool
  | .addF32 | .minF32 | .maxF32 => false
  | .add | .minI | .maxI | .minZ | .maxZ | .and | .or | .xor | .exch => true
/-- R34: the operations that RED has. -/
def AtomOp.reduces : AtomOp → Bool
  | .exch => false
  | .add | .addF32 | .minI | .maxI | .minZ | .maxZ | .minF32 | .maxF32 | .and | .or | .xor => true
/-- R35: the orders of LD. -/
def QF.okLoad (q : QF) : Bool := !q.prm && (q.order == .relaxed || q.order == .acq || q.order == .sc)
/-- R35: the orders of ST and RED. -/
def QF.okStore (q : QF) : Bool := !q.prm && (q.order == .relaxed || q.order == .rel || q.order == .sc)
/-- R35: ATOM and ACAS accept every order, with or without .prm. -/
def QF.okAtom (_ : QF) : Bool := true
/-- R35: the orders of FENCE. -/
def QF.okFence (q : QF) : Bool := !q.prm && q.order != .relaxed


/-- The checks of R36 on the fields of an instruction: ranges and alignment (R28), the guard (R29), and the orders
and scopes of R35. An event has no encoding to check. -/
def Instr.wf : Instr → Bool
  | .movS d a => below 32 d && below 32 a.r
  | .iaddS d a => below 32 d && below 32 a.r
  | .isubS d a => below 32 d && below 32 a.r
  | .imulS d a => below 32 d && below 32 a.r
  | .andS d a => below 32 d && below 32 a.r
  | .orS d a => below 32 d && below 32 a.r
  | .xorS d a => below 32 d && below 32 a.r
  | .shlS d a => below 32 d && below 32 a.r
  | .shrS d a => below 32 d && below 32 a.r
  | .sraS d a => below 32 d && below 32 a.r
  | .iminS d a => below 32 d && below 32 a.r
  | .imaxS d a => below 32 d && below 32 a.r
  | .faddS d a => below 32 d && below 32 a.r
  | .fsubS d a => below 32 d && below 32 a.r
  | .fmulS d a => below 32 d && below 32 a.r
  | .fmaxS d a => below 32 d && below 32 a.r
  | .movB32 g a d => g.ok && a.ok && reg d
  | .movi d i18 => reg d && below 262144 i18
  | .movhi d i18 => reg d && below 262144 i18
  | .iadd g b a d => g.ok && b.ok && a.ok && reg d
  | .isub g b a d => g.ok && b.ok && a.ok && reg d
  | .iaddi g i7 a d => g.ok && below 128 i7 && a.ok && reg d
  | .imul g b a d => g.ok && b.ok && a.ok && reg d
  | .imad g b a d => g.ok && b.ok && a.ok && reg d
  | .and g b a d => g.ok && b.ok && a.ok && reg d
  | .or g b a d => g.ok && b.ok && a.ok && reg d
  | .xor g b a d => g.ok && b.ok && a.ok && reg d
  | .andn g b a d => g.ok && b.ok && a.ok && reg d
  | .shl g b a d => g.ok && b.ok && a.ok && reg d
  | .shr g b a d => g.ok && b.ok && a.ok && reg d
  | .sra g b a d => g.ok && b.ok && a.ok && reg d
  | .rotl g b a d => g.ok && b.ok && a.ok && reg d
  | .iminI32 g b a d => g.ok && b.ok && a.ok && reg d
  | .imaxI32 g b a d => g.ok && b.ok && a.ok && reg d
  | .iminZ32 g b a d => g.ok && b.ok && a.ok && reg d
  | .imaxZ32 g b a d => g.ok && b.ok && a.ok && reg d
  | .icmp32 _ _ b a pd => b.ok && a.ok && below 32 pd
  | .icmp64 _ _ b a pd => b.okPair && a.okPair && below 32 pd
  | .sel p b a d => below 16 p && b.ok && a.ok && reg d
  | .lea sh b a d => below 16 sh && b.ok && a.okPair && pair d
  | .imulh _ b a d => b.ok && a.ok && reg d
  | .idiv w _ b a d => b.okIf w && a.okIf w && regIf w d
  | .irem w _ b a d => b.okIf w && a.okIf w && regIf w d
  | .inegI32 g a d => g.ok && a.ok && reg d
  | .iabsI32 g a d => g.ok && a.ok && reg d
  | .notB32 g a d => g.ok && a.ok && reg d
  | .clzB32 g a d => g.ok && a.ok && reg d
  | .popcB32 g a d => g.ok && a.ok && reg d
  | .brev g a d => g.ok && a.ok && reg d
  | .inegI64 g a d => g.ok && a.okPair && pair d
  | .iabsI64 g a d => g.ok && a.okPair && pair d
  | .clzB64 g a d => g.ok && a.okPair && reg d
  | .popcB64 g a d => g.ok && a.okPair && reg d
  | .bfx _ b a d => b.ok && a.ok && reg d
  | .bfi b a d => b.ok && a.ok && reg d
  | .movB64 a d => a.okPair && pair d
  | .isubI64 b a d => b.okPair && a.okPair && pair d
  | .imulI64 b a d => b.okPair && a.okPair && pair d
  | .iminI64 b a d => b.okPair && a.okPair && pair d
  | .imaxI64 b a d => b.okPair && a.okPair && pair d
  | .iminZ64 b a d => b.okPair && a.okPair && pair d
  | .imaxZ64 b a d => b.okPair && a.okPair && pair d
  | .andB64 b a d => b.okPair && a.okPair && pair d
  | .orB64 b a d => b.okPair && a.okPair && pair d
  | .xorB64 b a d => b.okPair && a.okPair && pair d
  | .shlB64 b a d => b.ok && a.okPair && pair d
  | .shrB64 b a d => b.ok && a.okPair && pair d
  | .sraB64 b a d => b.ok && a.okPair && pair d
  | .iaddI64 g b a d => g.ok && b.okPair && a.okPair && pair d
  | .gxld a d => a.ok && reg d
  | .gxst b a => b.ok && a.ok
  | .fadd g b a d => g.ok && b.ok && a.ok && reg d
  | .fsub g b a d => g.ok && b.ok && a.ok && reg d
  | .fmul g b a d => g.ok && b.ok && a.ok && reg d
  | .ffma g b a d => g.ok && b.ok && a.ok && reg d
  | .fmin g b a d => g.ok && b.ok && a.ok && reg d
  | .fmax g b a d => g.ok && b.ok && a.ok && reg d
  | .fabs g a d => g.ok && a.ok && reg d
  | .fneg g a d => g.ok && a.ok && reg d
  | .frcp g a d => g.ok && a.ok && reg d
  | .frsq g a d => g.ok && a.ok && reg d
  | .fsqrt g a d => g.ok && a.ok && reg d
  | .fexp2 g a d => g.ok && a.ok && reg d
  | .flog2 g a d => g.ok && a.ok && reg d
  | .frnd g rm a d => g.ok && rm.notSr && a.ok && reg d
  | .fcmp _ b a pd => b.ok && a.ok && below 32 pd
  | .fdiv g b a d => g.ok && b.ok && a.ok && reg d
  | .faddDirected rm b a d => rm.notRne && b.ok && a.ok && reg d
  | .fsubDirected rm b a d => rm.notRne && b.ok && a.ok && reg d
  | .fmulDirected rm b a d => rm.notRne && b.ok && a.ok && reg d
  | .ffmaDirected rm b a d => rm.notRne && b.ok && a.ok && reg d
  | .badd2 g b a d => g.ok && b.ok && a.ok && reg d
  | .bmul2 g b a d => g.ok && b.ok && a.ok && reg d
  | .bfma2 g b a d => g.ok && b.ok && a.ok && reg d
  | .cvt g _ a d => g.ok && a.ok && reg d
  | .plop t pb pa pd => below 16 t && below 32 pb && below 32 pa && below 32 pd
  | .p2g g d => g.ok && reg d
  | .g2p g a => g.ok && a.ok
  | .voteAny pa pd => below 32 pa && below 32 pd
  | .voteAll pa pd => below 32 pa && below 32 pd
  | .voteBallot pa d => below 32 pa && reg d
  | .voteFirst pd => below 32 pd
  | .shfl _ b a d => b.ok && a.ok && reg d
  | .perm g b a d => g.ok && b.ok && a.ok && reg d
  | .redux _ a d => a.ok && reg d
  | .scan _ a d => a.ok && reg d
  | .bra _ p disp => below 32 p && below 262144 disp
  | .brd _ p disp => below 32 p && below 262144 disp
  | .split j => below 16 j
  | .join j => below 16 j
  | .brx g a => g.ok && a.ok
  | .call l disp => below 32 l && below 262144 disp
  | .ret g a => g.ok && a.ok
  | .exit g => g.ok
  | .mcall m P0 P1 P2 => below 64 m && below 64 P0 && below 64 P1 && below 64 P2
  | .yield g => g.ok
  | .tape a => a.ok
  | .launch a d => a.ok && reg d
  | .ld32 g i7 a d => g.ok && below 128 i7 && a.okPair && reg d
  | .ld64 g i7 a d => g.ok && below 128 i7 && a.okPair && pair d
  | .ld128 g i7 a d => g.ok && below 128 i7 && a.okPair && quad d
  | .st32 g i7 a d => g.ok && below 128 i7 && a.okPair && reg d
  | .st64 g i7 a d => g.ok && below 128 i7 && a.okPair && pair d
  | .st128 g i7 a d => g.ok && below 128 i7 && a.okPair && quad d
  | .ldl32 g i7 a d => g.ok && below 128 i7 && a.ok && reg d
  | .stl32 g i7 a d => g.ok && below 128 i7 && a.ok && reg d
  | .ldNarrow _ a d => a.okPair && reg d
  | .stNarrow _ a d => a.okPair && reg d
  | .ldlSized z a d => z.notWord && a.ok && regSize z d
  | .stlSized z a d => z.notWord && a.ok && regSize z d
  | .ldc z a d => a.okPair && regIf z d
  | .pref a => a.okPair
  | .cflush a => a.okPair
  | .ldOrdered z q a d => q.okLoad && a.okPair && regSize z d
  | .stOrdered z q a d => q.okStore && a.okPair && regSize z d
  | .atom32 _ q a d => q.okAtom && a.okPair && reg d
  | .atom64 o q a d => q.okAtom && a.okPair && pair d && o.wide
  | .red32 o q a d => q.okStore && a.okPair && reg d && o.reduces
  | .red64 o q a d => q.okStore && a.okPair && pair d && (o.wide && o.reduces)
  | .acas32 q a d => q.okAtom && a.okPair && pair d
  | .acas64 q a d => q.okAtom && a.okPair && quad d
  | .fence q => q.okFence
  | .commitBlk  => true
  | .commitGrid  => true
  | .commitPod  => true
  | .dstat d => reg d
  | .copy a h => a.ok && below 64 h
  | .offl a h => a.ok && below 64 h
  | .recallCopy a h => a.ok && below 64 h
  | .decode a h => a.ok && below 64 h
  | .bfree h => below 64 h
  | .btest st h pd => st.notOther && below 64 h && below 32 pd
  | .bwaitFree h => below 64 h
  | .bwaitFull h => below 64 h
  | .mma a h => a.ok && below 64 h
  | .mmaSig a h => a.ok && below 64 h
  | .aload a sl => a.ok && below 24 sl
  | .acvt a sl => a.ok && below 24 sl
  | .aclr sl => below 24 sl
  | .qcvt a fs => a.ok && below 8 fs
  | .scbs b a k => b.ok && a.okPair && below 8 k
  | .sig a => a.ok
  | .sbwd a => a.ok
  | .rtab a => a.ok
  | .rule a => a.ok
  | .rgen a => a.ok
  | .synbar hc => below 64 hc
  | .synarv hc => below 64 hc
  | .synput a hw => a.ok && below 64 hw
  | .synget hw d => below 64 hw && reg d
  | .rand g d => g.ok && reg d
  | .rdsp g sp d => g.ok && regIf (sp.isPair) d
  | .widf g n d => g.ok && below 6 n && reg d
  | .sysc g i7 a d => g.ok && below 128 i7 && a.okPair && pair d
  | .tret  => true
  | .bkpt g i7 => g.ok && below 128 i7
  | .csrr d i18 => reg d && below 262144 i18
  | .csrw d i18 => reg d && below 262144 i18
  | .tlbinvAll  => true
  | .tlbinvPage a => a.okPair
  | .mcload a m => a.ok && below 64 m
  | .producerComplete _ _ _ => true
  | .pageWalkComplete _ _ => true
  | .yieldExpiry _ _ => true
  | .dependencePoll  => true
  | .deadlineMiss _ => true
  | .packetSelect _ _ => true
  | .packetAccept _ _ => true
  | .rewindPop _ => true
  | .gangDeal _ => true
  | .gangStart _ => true
  | .blockThreadStart _ => true
  | .stealRequest _ => true
  | .stealReply _ _ => true
  | .stealShipmentArrival _ _ => true
  | .stealBackoffExpiry _ => true
  | .gangRetire _ => true
  | .gridEnd _ => true
  | .completionWordWrite _ => true
  | .logDrain _ => true
  | .binAgeExpiry _ _ => true
  | .binRingArrival _ _ => true
  | .binPacketArrival _ _ => true
  | .applyMarkerArrival _ _ => true
  | .foldRefreshYield _ => true
  | .foldReadYield _ => true
  | .foldComplete _ => true
  | .fullStateNotice _ _ _ => true
  | .commitComplete _ => true
  | .hgBarrierRelease _ _ _ => true
  | .hgBroadcastDelivery _ _ _ => true
  | .hgCommitMarkerDelivery _ => true
  | .copyComplete _ _ _ => true
  | .decodeStart _ => true
  | .decodeComplete _ => true
  | .matrixQueueDispatch _ => true
  | .mmaOperationComplete _ => true
  | .matrixSyncOpComplete _ => true
  | .ruleQueueDispatch _ => true
  | .ruleGeneration _ => true
  | .ruleOpComplete _ => true
  | .hgPreemptRequestDelivery _ => true
  | .drainWatchdogExpiry _ => true
  | .pgraceExpiry _ _ => true
  | .savePoolAlloc _ => true
  | .saveWriteComplete _ => true
  | .gangPreempted _ => true
  | .preemptOverdue _ => true
  | .resumeRestoreComplete _ => true
  | .quiesceAck _ => true
  | .hgRebindComplete  => true
  | .abort _ => true
  | .illegalInstruction _ => true
  | .writePerformed _ _ _ => true
  | .tlbinvComplete _ _ => true
  | .podMarkerArrival _ _ => true
  | .nvmeCompletion _ _ _ => true
  | .podAccessArrival _ _ _ => true
  | .lqtlWrite _ _ _ => true
  | .lqEnable _ _ => true
  | .lqDisable _ _ => true
  | .hmaskWrite _ _ => true
  | .defspillWrite _ _ => true
  | .milvWrite _ _ _ => true
  | .partcfgWrite _ => true
  | .qreqWrite _ => true
  | .hgrbWrite  => true
  | .nbndWrite _ => true
  | .qctlWrite _ => true
  | .dtrapClear _ => true
  | .dfltClear _ => true
  | .fqEnable _ => true
  | .fqDisable _ => true
  | .dbghaltWrite _ _ _ => true
  | .controlRegisterWrite _ _ _ => true
  | .hostMemoryWrite _ _ _ => true
  | .hostMemoryRead _ _ _ => true
  | .hostAtomic _ _ _ _ _ _ => true
  | .bootMemoryAccess _ _ _ => true
  | .pcieReset  => true
  | .pfFunctionLevelReset  => true
  | .vfFunctionLevelReset _ => true
  | .podAcknowledgementArrival _ _ => true
  | .podDeviceUnreachable _ _ => true

end Sys2Proof
end

