-- ==== Sys2Proof/Decode.lean ====
section
/-!
DEFINITION. Decoding (R24, R26, R27, R33-R36) and, after it, encoding. The decoder is total: it answers an instruction
or the name of the check of R36 that fails. Macro bodies decode the same way, with the registers of R32 substituted
before the ranges are checked.
-/
namespace Sys2Proof

/-- The fields of a 32-bit word in the order of R27, the opcode first: bits 7:1, 13:8, 19:14, 20, 27:21 and 31:28. -/
structure Fields where
  op : Nat
  d : Nat
  a : Nat
  wa : Nat
  mid : Nat
  top : Nat
  deriving DecidableEq, Repr

/-- The fields of a word (R27). -/
def Fields.ofWord (w : Nat) : Fields :=
  ⟨w / 2 % 128, w / 256 % 64, w / 16384 % 64, w / 1048576 % 2, w / 2097152 % 128, w / 268435456 % 16⟩

/-- The word with these fields, bit 0 = 1 (R24, R27). -/
def Fields.word (f : Fields) : Nat :=
  1 + 2 * f.op + 256 * f.d + 16384 * f.a + 1048576 * f.wa + 2097152 * f.mid + 268435456 * f.top

/-- imm18 and disp18, bits 31:14 (R27). -/
def Fields.imm18 (f : Fields) : Nat := f.a + 64 * f.wa + 128 * f.mid + 16384 * f.top

/-- The fields of formats L, B and C: an 18-bit number in bits 31:14 (R27). -/
def Fields.ofImm (op d imm : Nat) : Fields :=
  ⟨op, d, imm % 64, imm / 64 % 2, imm / 128 % 128, imm / 16384⟩

/-- The guard, bits 31:28 (R29). -/
def Fields.guard (f : Fields) : Guard := ⟨f.top % 8, f.top / 8 == 1⟩
/-- Source a with wa (R27, R30). -/
def Fields.srcA (f : Fields) : Src := ⟨f.a, f.wa == 1⟩
/-- Source b with wb (R27, R30). -/
def Fields.srcB (f : Fields) : Src := ⟨f.mid % 64, f.mid / 64 == 1⟩
/-- The sense bit of format B (R27). -/
def Fields.sense (f : Fields) : Bool := f.d / 32 == 1
/-- The index of format B (R27). -/
def Fields.index (f : Fields) : Nat := f.d % 32

/-- The bits of a guard (R29). -/
def Guard.code (g : Guard) : Nat := g.p + 8 * g.neg.toNat
/-- The bits of source b and wb (R27). -/
def Src.code (s : Src) : Nat := s.r + 64 * s.trap.toNat
/-- Q[6:4] (R35). -/
def Scope.code : Scope → Nat
  | .bm => 0 | .blk => 1 | .gang => 2 | .dev => 3 | .pod => 4 | .sys => 5
/-- The scope of Q[6:4]; 6 and 7 are reserved (R35). -/
def Scope.ofCode : Nat → Option Scope
  | 0 => some .bm | 1 => some .blk | 2 => some .gang | 3 => some .dev | 4 => some .pod | 5 => some .sys | _ => none
/-- Q[3:1] (R35). -/
def Order.code : Order → Nat
  | .relaxed => 0 | .acq => 1 | .rel => 2 | .acqrel => 3 | .sc => 4
/-- The order of Q[3:1]; 5 to 7 are reserved (R35). -/
def Order.ofCode : Nat → Option Order
  | 0 => some .relaxed | 1 => some .acq | 2 => some .rel | 3 => some .acqrel | 4 => some .sc | _ => none
/-- The bits of Q (R35). -/
def QF.code (q : QF) : Nat := 16 * q.scope.code + 2 * q.order.code + q.prm.toNat
/-- Q from its bits (R35). -/
def QF.ofCode (n : Nat) : Option QF :=
  match Scope.ofCode (n / 16), Order.ofCode (n / 2 % 8) with
  | some s, some o => some ⟨s, o, n % 2 == 1⟩
  | _, _ => none
/-- sub[2:0] of ICMP (R33). -/
def ICond.code : ICond → Nat
  | .eq => 0 | .ne => 1 | .lt => 2 | .le => 3 | .gt => 4 | .ge => 5
/-- The sub-op of FCMP (R33). -/
def FCond.code : FCond → Nat
  | .eq => 0 | .ne => 1 | .lt => 2 | .le => 3 | .gt => 4 | .ge => 5 | .un => 6 | .ord => 7
/-- FRND's sub-op less 8 (R33); .sr is no FRND mode. -/
def RMode.code : RMode → Nat
  | .rne => 0 | .rtz => 1 | .rdn => 2 | .rup => 3 | .sr => 4
/-- sub[1:0] of row 0x29 (R33); .rne is no directed mode. -/
def RMode.directedCode : RMode → Nat
  | .rtz => 0 | .rdn => 1 | .rup => 2 | .sr => 3 | .rne => 4
/-- The sub-op of CVT (R33). -/
def CvtKind.code : CvtKind → Nat
  | .i32F32 => 0 | .i32F32Rtz => 1 | .z32F32 => 2 | .z32F32Rtz => 3 | .f32I32 => 4 | .f32Z32 => 5 | .bf16F32 => 6
  | .f32Bf16 => 7 | .fp16F32 => 8 | .f32Fp16 => 9 | .e4m3F32 => 10 | .e5m2F32 => 11 | .f32E4m3 => 12 | .f32E5m2 => 13
  | .bf16F32Sr => 14 | .e4m3F32Sr => 15
/-- The sub-op of SHFL (R33). -/
def ShflMode.code : ShflMode → Nat
  | .idx => 0 | .up => 1 | .down => 2 | .xor => 3
/-- The sub-op of REDUX and SCAN (R33). -/
def RedOp.code : RedOp → Nat
  | .addI32 => 0 | .minI32 => 1 | .maxI32 => 2 | .minZ32 => 3 | .maxZ32 => 4 | .and => 5 | .or => 6 | .xor => 7
  | .addF32 => 8 | .minF32 => 9 | .maxF32 => 10
/-- The sub-op of ATOM and RED (R34). -/
def AtomOp.code : AtomOp → Nat
  | .add => 0 | .addF32 => 1 | .minI => 2 | .maxI => 3 | .minZ => 4 | .maxZ => 5 | .minF32 => 6 | .maxF32 => 7
  | .and => 8 | .or => 9 | .xor => 10 | .exch => 11
/-- The number of a special register (R33, row 0x72). -/
def SpReg.code : SpReg → Nat
  | .wid => 0 | .lane => 1 | .beam => 2 | .bslot => 3 | .core => 4 | .sector => 5 | .quarter => 6 | .clk => 7
  | .dtime => 8 | .gen => 9 | .fstat => 10 | .psw => 11
/-- The number of a handle state: BTEST's sub-op less 1 (R33). -/
def HState.code : HState → Nat
  | .free => 0 | .filling => 1 | .full => 2 | .draining => 3
/-- The sub-op of an ordered access (R34). -/
def MemSize.code : MemSize → Nat
  | .b8 => 0 | .b16 => 1 | .b32 => 2 | .b64 => 3 | .b128 => 4
/-- The size number of the local forms of row 0x58, which have no 32-bit size (R34). -/
def MemSize.localCode : MemSize → Nat
  | .b8 => 0 | .b16 => 1 | .b64 => 2 | .b128 => 3 | .b32 => 4

/-- The instruction, where the unused fields are 0 (R36, check 4). -/
def only (unused : Bool) (i : Instr) : Except FetchError Instr :=
  if unused then .ok i else .error .badField

/-- The same, for an instruction with a Q field. -/
def onlyQ (f : Fields) (unused : Bool) (i : QF → Instr) : Except FetchError Instr :=
  match QF.ofCode f.mid with
  | some q => only unused (i q)
  | none => .error .badField

/-- The source with its register replaced (R32). -/
def Src.subst (P : Nat → Nat) (s : Src) : Src := ⟨P s.r, s.trap⟩


/-- The opcode map of R33 and R34: the first two checks of R36, and those of its fourth check that concern fields
an instruction does not use. Ranges and alignment are checked by `Instr.wf`. -/
def decodeFields (f : Fields) : Except FetchError Instr :=
  match f.op with
  | 0 =>
    match f.mid with
    | 0 => .ok (.movB32 f.guard f.srcA f.d)
    | _ => .error .reservedSubOp
  | 1 => .ok (.movi f.d f.imm18)
  | 2 => .ok (.movhi f.d f.imm18)
  | 3 => .ok (.iadd f.guard f.srcB f.srcA f.d)
  | 4 => .ok (.isub f.guard f.srcB f.srcA f.d)
  | 5 => .ok (.iaddi f.guard f.mid f.srcA f.d)
  | 6 => .ok (.imul f.guard f.srcB f.srcA f.d)
  | 7 => .ok (.imad f.guard f.srcB f.srcA f.d)
  | 8 => .ok (.and f.guard f.srcB f.srcA f.d)
  | 9 => .ok (.or f.guard f.srcB f.srcA f.d)
  | 10 => .ok (.xor f.guard f.srcB f.srcA f.d)
  | 11 => .ok (.andn f.guard f.srcB f.srcA f.d)
  | 12 => .ok (.shl f.guard f.srcB f.srcA f.d)
  | 13 => .ok (.shr f.guard f.srcB f.srcA f.d)
  | 14 => .ok (.sra f.guard f.srcB f.srcA f.d)
  | 15 => .ok (.rotl f.guard f.srcB f.srcA f.d)
  | 16 => .ok (.iminI32 f.guard f.srcB f.srcA f.d)
  | 17 => .ok (.imaxI32 f.guard f.srcB f.srcA f.d)
  | 18 => .ok (.iminZ32 f.guard f.srcB f.srcA f.d)
  | 19 => .ok (.imaxZ32 f.guard f.srcB f.srcA f.d)
  | 20 =>
    match f.top with
    | 0 => .ok (.icmp32 false .eq f.srcB f.srcA f.d)
    | 1 => .ok (.icmp32 false .ne f.srcB f.srcA f.d)
    | 2 => .ok (.icmp32 false .lt f.srcB f.srcA f.d)
    | 3 => .ok (.icmp32 false .le f.srcB f.srcA f.d)
    | 4 => .ok (.icmp32 false .gt f.srcB f.srcA f.d)
    | 5 => .ok (.icmp32 false .ge f.srcB f.srcA f.d)
    | 8 => .ok (.icmp32 true .eq f.srcB f.srcA f.d)
    | 9 => .ok (.icmp32 true .ne f.srcB f.srcA f.d)
    | 10 => .ok (.icmp32 true .lt f.srcB f.srcA f.d)
    | 11 => .ok (.icmp32 true .le f.srcB f.srcA f.d)
    | 12 => .ok (.icmp32 true .gt f.srcB f.srcA f.d)
    | 13 => .ok (.icmp32 true .ge f.srcB f.srcA f.d)
    | _ => .error .reservedSubOp
  | 21 =>
    match f.top with
    | 0 => .ok (.icmp64 false .eq f.srcB f.srcA f.d)
    | 1 => .ok (.icmp64 false .ne f.srcB f.srcA f.d)
    | 2 => .ok (.icmp64 false .lt f.srcB f.srcA f.d)
    | 3 => .ok (.icmp64 false .le f.srcB f.srcA f.d)
    | 4 => .ok (.icmp64 false .gt f.srcB f.srcA f.d)
    | 5 => .ok (.icmp64 false .ge f.srcB f.srcA f.d)
    | 8 => .ok (.icmp64 true .eq f.srcB f.srcA f.d)
    | 9 => .ok (.icmp64 true .ne f.srcB f.srcA f.d)
    | 10 => .ok (.icmp64 true .lt f.srcB f.srcA f.d)
    | 11 => .ok (.icmp64 true .le f.srcB f.srcA f.d)
    | 12 => .ok (.icmp64 true .gt f.srcB f.srcA f.d)
    | 13 => .ok (.icmp64 true .ge f.srcB f.srcA f.d)
    | _ => .error .reservedSubOp
  | 22 => .ok (.sel f.top f.srcB f.srcA f.d)
  | 23 => .ok (.lea f.top f.srcB f.srcA f.d)
  | 24 =>
    match f.top with
    | 0 => .ok (.imulh false f.srcB f.srcA f.d)
    | 1 => .ok (.imulh true f.srcB f.srcA f.d)
    | _ => .error .reservedSubOp
  | 25 =>
    match f.top with
    | 0 => .ok (.idiv false false f.srcB f.srcA f.d)
    | 1 => .ok (.idiv false true f.srcB f.srcA f.d)
    | 2 => .ok (.irem false false f.srcB f.srcA f.d)
    | 3 => .ok (.irem false true f.srcB f.srcA f.d)
    | 4 => .ok (.idiv true false f.srcB f.srcA f.d)
    | 5 => .ok (.idiv true true f.srcB f.srcA f.d)
    | 6 => .ok (.irem true false f.srcB f.srcA f.d)
    | 7 => .ok (.irem true true f.srcB f.srcA f.d)
    | _ => .error .reservedSubOp
  | 26 =>
    match f.mid with
    | 0 => .ok (.inegI32 f.guard f.srcA f.d)
    | 1 => .ok (.iabsI32 f.guard f.srcA f.d)
    | 2 => .ok (.notB32 f.guard f.srcA f.d)
    | 3 => .ok (.clzB32 f.guard f.srcA f.d)
    | 4 => .ok (.popcB32 f.guard f.srcA f.d)
    | 5 => .ok (.brev f.guard f.srcA f.d)
    | 6 => .ok (.inegI64 f.guard f.srcA f.d)
    | 7 => .ok (.iabsI64 f.guard f.srcA f.d)
    | 8 => .ok (.clzB64 f.guard f.srcA f.d)
    | 9 => .ok (.popcB64 f.guard f.srcA f.d)
    | _ => .error .reservedSubOp
  | 27 =>
    match f.top with
    | 0 => .ok (.bfx false f.srcB f.srcA f.d)
    | 1 => .ok (.bfx true f.srcB f.srcA f.d)
    | _ => .error .reservedSubOp
  | 28 =>
    match f.top with
    | 0 => .ok (.bfi f.srcB f.srcA f.d)
    | _ => .error .reservedSubOp
  | 29 =>
    match f.top with
    | 0 => only (f.mid == 0) (.movB64 f.srcA f.d)
    | 1 => .ok (.isubI64 f.srcB f.srcA f.d)
    | 2 => .ok (.imulI64 f.srcB f.srcA f.d)
    | 3 => .ok (.iminI64 f.srcB f.srcA f.d)
    | 4 => .ok (.imaxI64 f.srcB f.srcA f.d)
    | 5 => .ok (.iminZ64 f.srcB f.srcA f.d)
    | 6 => .ok (.imaxZ64 f.srcB f.srcA f.d)
    | 7 => .ok (.andB64 f.srcB f.srcA f.d)
    | 8 => .ok (.orB64 f.srcB f.srcA f.d)
    | 9 => .ok (.xorB64 f.srcB f.srcA f.d)
    | 10 => .ok (.shlB64 f.srcB f.srcA f.d)
    | 11 => .ok (.shrB64 f.srcB f.srcA f.d)
    | 12 => .ok (.sraB64 f.srcB f.srcA f.d)
    | _ => .error .reservedSubOp
  | 30 => .ok (.iaddI64 f.guard f.srcB f.srcA f.d)
  | 31 =>
    match f.top with
    | 0 => only (f.mid == 0) (.gxld f.srcA f.d)
    | 1 => only (f.d == 0) (.gxst f.srcB f.srcA)
    | _ => .error .reservedSubOp
  | 32 => .ok (.fadd f.guard f.srcB f.srcA f.d)
  | 33 => .ok (.fsub f.guard f.srcB f.srcA f.d)
  | 34 => .ok (.fmul f.guard f.srcB f.srcA f.d)
  | 35 => .ok (.ffma f.guard f.srcB f.srcA f.d)
  | 36 => .ok (.fmin f.guard f.srcB f.srcA f.d)
  | 37 => .ok (.fmax f.guard f.srcB f.srcA f.d)
  | 38 =>
    match f.mid with
    | 0 => .ok (.fabs f.guard f.srcA f.d)
    | 1 => .ok (.fneg f.guard f.srcA f.d)
    | 2 => .ok (.frcp f.guard f.srcA f.d)
    | 3 => .ok (.frsq f.guard f.srcA f.d)
    | 4 => .ok (.fsqrt f.guard f.srcA f.d)
    | 5 => .ok (.fexp2 f.guard f.srcA f.d)
    | 6 => .ok (.flog2 f.guard f.srcA f.d)
    | 8 => .ok (.frnd f.guard .rne f.srcA f.d)
    | 9 => .ok (.frnd f.guard .rtz f.srcA f.d)
    | 10 => .ok (.frnd f.guard .rdn f.srcA f.d)
    | 11 => .ok (.frnd f.guard .rup f.srcA f.d)
    | _ => .error .reservedSubOp
  | 39 =>
    match f.top with
    | 0 => .ok (.fcmp .eq f.srcB f.srcA f.d)
    | 1 => .ok (.fcmp .ne f.srcB f.srcA f.d)
    | 2 => .ok (.fcmp .lt f.srcB f.srcA f.d)
    | 3 => .ok (.fcmp .le f.srcB f.srcA f.d)
    | 4 => .ok (.fcmp .gt f.srcB f.srcA f.d)
    | 5 => .ok (.fcmp .ge f.srcB f.srcA f.d)
    | 6 => .ok (.fcmp .un f.srcB f.srcA f.d)
    | 7 => .ok (.fcmp .ord f.srcB f.srcA f.d)
    | _ => .error .reservedSubOp
  | 40 => .ok (.fdiv f.guard f.srcB f.srcA f.d)
  | 41 =>
    match f.top with
    | 0 => .ok (.faddDirected .rtz f.srcB f.srcA f.d)
    | 1 => .ok (.faddDirected .rdn f.srcB f.srcA f.d)
    | 2 => .ok (.faddDirected .rup f.srcB f.srcA f.d)
    | 3 => .ok (.faddDirected .sr f.srcB f.srcA f.d)
    | 4 => .ok (.fsubDirected .rtz f.srcB f.srcA f.d)
    | 5 => .ok (.fsubDirected .rdn f.srcB f.srcA f.d)
    | 6 => .ok (.fsubDirected .rup f.srcB f.srcA f.d)
    | 7 => .ok (.fsubDirected .sr f.srcB f.srcA f.d)
    | 8 => .ok (.fmulDirected .rtz f.srcB f.srcA f.d)
    | 9 => .ok (.fmulDirected .rdn f.srcB f.srcA f.d)
    | 10 => .ok (.fmulDirected .rup f.srcB f.srcA f.d)
    | 11 => .ok (.fmulDirected .sr f.srcB f.srcA f.d)
    | 12 => .ok (.ffmaDirected .rtz f.srcB f.srcA f.d)
    | 13 => .ok (.ffmaDirected .rdn f.srcB f.srcA f.d)
    | 14 => .ok (.ffmaDirected .rup f.srcB f.srcA f.d)
    | 15 => .ok (.ffmaDirected .sr f.srcB f.srcA f.d)
    | _ => .error .reservedSubOp
  | 42 => .ok (.badd2 f.guard f.srcB f.srcA f.d)
  | 43 => .ok (.bmul2 f.guard f.srcB f.srcA f.d)
  | 44 => .ok (.bfma2 f.guard f.srcB f.srcA f.d)
  | 45 =>
    match f.mid with
    | 0 => .ok (.cvt f.guard .i32F32 f.srcA f.d)
    | 1 => .ok (.cvt f.guard .i32F32Rtz f.srcA f.d)
    | 2 => .ok (.cvt f.guard .z32F32 f.srcA f.d)
    | 3 => .ok (.cvt f.guard .z32F32Rtz f.srcA f.d)
    | 4 => .ok (.cvt f.guard .f32I32 f.srcA f.d)
    | 5 => .ok (.cvt f.guard .f32Z32 f.srcA f.d)
    | 6 => .ok (.cvt f.guard .bf16F32 f.srcA f.d)
    | 7 => .ok (.cvt f.guard .f32Bf16 f.srcA f.d)
    | 8 => .ok (.cvt f.guard .fp16F32 f.srcA f.d)
    | 9 => .ok (.cvt f.guard .f32Fp16 f.srcA f.d)
    | 10 => .ok (.cvt f.guard .e4m3F32 f.srcA f.d)
    | 11 => .ok (.cvt f.guard .e5m2F32 f.srcA f.d)
    | 12 => .ok (.cvt f.guard .f32E4m3 f.srcA f.d)
    | 13 => .ok (.cvt f.guard .f32E5m2 f.srcA f.d)
    | 14 => .ok (.cvt f.guard .bf16F32Sr f.srcA f.d)
    | 15 => .ok (.cvt f.guard .e4m3F32Sr f.srcA f.d)
    | _ => .error .reservedSubOp
  | 56 => only (f.wa == 0) (.plop f.top f.mid f.a f.d)
  | 57 => only (f.a == 0 && f.wa == 0 && f.mid == 0) (.p2g f.guard f.d)
  | 58 => only (f.d == 0 && f.mid == 0) (.g2p f.guard f.srcA)
  | 59 =>
    match f.top with
    | 0 => only (f.wa == 0 && f.mid == 0) (.voteAny f.a f.d)
    | 1 => only (f.wa == 0 && f.mid == 0) (.voteAll f.a f.d)
    | 2 => only (f.wa == 0 && f.mid == 0) (.voteBallot f.a f.d)
    | 3 => only (f.a == 0 && f.wa == 0 && f.mid == 0) (.voteFirst f.d)
    | _ => .error .reservedSubOp
  | 60 =>
    match f.top with
    | 0 => .ok (.shfl .idx f.srcB f.srcA f.d)
    | 1 => .ok (.shfl .up f.srcB f.srcA f.d)
    | 2 => .ok (.shfl .down f.srcB f.srcA f.d)
    | 3 => .ok (.shfl .xor f.srcB f.srcA f.d)
    | _ => .error .reservedSubOp
  | 61 => .ok (.perm f.guard f.srcB f.srcA f.d)
  | 62 =>
    match f.top with
    | 0 => only (f.mid == 0) (.redux .addI32 f.srcA f.d)
    | 1 => only (f.mid == 0) (.redux .minI32 f.srcA f.d)
    | 2 => only (f.mid == 0) (.redux .maxI32 f.srcA f.d)
    | 3 => only (f.mid == 0) (.redux .minZ32 f.srcA f.d)
    | 4 => only (f.mid == 0) (.redux .maxZ32 f.srcA f.d)
    | 5 => only (f.mid == 0) (.redux .and f.srcA f.d)
    | 6 => only (f.mid == 0) (.redux .or f.srcA f.d)
    | 7 => only (f.mid == 0) (.redux .xor f.srcA f.d)
    | 8 => only (f.mid == 0) (.redux .addF32 f.srcA f.d)
    | 9 => only (f.mid == 0) (.redux .minF32 f.srcA f.d)
    | 10 => only (f.mid == 0) (.redux .maxF32 f.srcA f.d)
    | _ => .error .reservedSubOp
  | 63 =>
    match f.top with
    | 0 => only (f.mid == 0) (.scan .addI32 f.srcA f.d)
    | 1 => only (f.mid == 0) (.scan .minI32 f.srcA f.d)
    | 2 => only (f.mid == 0) (.scan .maxI32 f.srcA f.d)
    | 3 => only (f.mid == 0) (.scan .minZ32 f.srcA f.d)
    | 4 => only (f.mid == 0) (.scan .maxZ32 f.srcA f.d)
    | 5 => only (f.mid == 0) (.scan .and f.srcA f.d)
    | 6 => only (f.mid == 0) (.scan .or f.srcA f.d)
    | 7 => only (f.mid == 0) (.scan .xor f.srcA f.d)
    | 8 => only (f.mid == 0) (.scan .addF32 f.srcA f.d)
    | 9 => only (f.mid == 0) (.scan .minF32 f.srcA f.d)
    | 10 => only (f.mid == 0) (.scan .maxF32 f.srcA f.d)
    | _ => .error .reservedSubOp
  | 64 => .ok (.bra f.sense f.index f.imm18)
  | 65 => .ok (.brd f.sense f.index f.imm18)
  | 66 => only (f.a == 0 && f.wa == 0 && f.mid == 0 && f.top == 0 && !f.sense) (.split f.index)
  | 67 => only (f.a == 0 && f.wa == 0 && f.mid == 0 && f.top == 0 && !f.sense) (.join f.index)
  | 68 => only (f.d == 0 && f.mid == 0) (.brx f.guard f.srcA)
  | 69 => only (!f.sense) (.call f.index f.imm18)
  | 70 => only (f.d == 0 && f.mid == 0) (.ret f.guard f.srcA)
  | 71 => only (f.d == 0 && f.a == 0 && f.wa == 0 && f.mid == 0) (.exit f.guard)
  | 72 => .ok (.mcall f.d (f.imm18 % 64) (f.imm18 / 64 % 64) (f.imm18 / 4096))
  | 73 => only (f.d == 0 && f.a == 0 && f.wa == 0 && f.mid == 0) (.yield f.guard)
  | 74 =>
    match f.top with
    | 0 => only (f.d == 0 && f.mid == 0) (.tape f.srcA)
    | _ => .error .reservedSubOp
  | 75 =>
    match f.top with
    | 0 => only (f.mid == 0) (.launch f.srcA f.d)
    | _ => .error .reservedSubOp
  | 80 => .ok (.ld32 f.guard f.mid f.srcA f.d)
  | 81 => .ok (.ld64 f.guard f.mid f.srcA f.d)
  | 82 => .ok (.ld128 f.guard f.mid f.srcA f.d)
  | 83 => .ok (.st32 f.guard f.mid f.srcA f.d)
  | 84 => .ok (.st64 f.guard f.mid f.srcA f.d)
  | 85 => .ok (.st128 f.guard f.mid f.srcA f.d)
  | 86 => .ok (.ldl32 f.guard f.mid f.srcA f.d)
  | 87 => .ok (.stl32 f.guard f.mid f.srcA f.d)
  | 88 =>
    match f.top with
    | 0 => only (f.mid == 0) (.ldNarrow false f.srcA f.d)
    | 1 => only (f.mid == 0) (.ldNarrow true f.srcA f.d)
    | 2 => only (f.mid == 0) (.stNarrow false f.srcA f.d)
    | 3 => only (f.mid == 0) (.stNarrow true f.srcA f.d)
    | 4 => only (f.mid == 0) (.ldlSized .b8 f.srcA f.d)
    | 5 => only (f.mid == 0) (.ldlSized .b16 f.srcA f.d)
    | 6 => only (f.mid == 0) (.ldlSized .b64 f.srcA f.d)
    | 7 => only (f.mid == 0) (.ldlSized .b128 f.srcA f.d)
    | 8 => only (f.mid == 0) (.stlSized .b8 f.srcA f.d)
    | 9 => only (f.mid == 0) (.stlSized .b16 f.srcA f.d)
    | 10 => only (f.mid == 0) (.stlSized .b64 f.srcA f.d)
    | 11 => only (f.mid == 0) (.stlSized .b128 f.srcA f.d)
    | 12 => only (f.mid == 0) (.ldc false f.srcA f.d)
    | 13 => only (f.mid == 0) (.ldc true f.srcA f.d)
    | 14 => only (f.d == 0 && f.mid == 0) (.pref f.srcA)
    | 15 => only (f.d == 0 && f.mid == 0) (.cflush f.srcA)
    | _ => .error .reservedSubOp
  | 89 =>
    match f.top with
    | 0 => onlyQ f (true) fun q => .ldOrdered .b8 q f.srcA f.d
    | 1 => onlyQ f (true) fun q => .ldOrdered .b16 q f.srcA f.d
    | 2 => onlyQ f (true) fun q => .ldOrdered .b32 q f.srcA f.d
    | 3 => onlyQ f (true) fun q => .ldOrdered .b64 q f.srcA f.d
    | 4 => onlyQ f (true) fun q => .ldOrdered .b128 q f.srcA f.d
    | _ => .error .reservedSubOp
  | 90 =>
    match f.top with
    | 0 => onlyQ f (true) fun q => .stOrdered .b8 q f.srcA f.d
    | 1 => onlyQ f (true) fun q => .stOrdered .b16 q f.srcA f.d
    | 2 => onlyQ f (true) fun q => .stOrdered .b32 q f.srcA f.d
    | 3 => onlyQ f (true) fun q => .stOrdered .b64 q f.srcA f.d
    | 4 => onlyQ f (true) fun q => .stOrdered .b128 q f.srcA f.d
    | _ => .error .reservedSubOp
  | 91 =>
    match f.top with
    | 0 => onlyQ f (true) fun q => .atom32 .add q f.srcA f.d
    | 1 => onlyQ f (true) fun q => .atom32 .addF32 q f.srcA f.d
    | 2 => onlyQ f (true) fun q => .atom32 .minI q f.srcA f.d
    | 3 => onlyQ f (true) fun q => .atom32 .maxI q f.srcA f.d
    | 4 => onlyQ f (true) fun q => .atom32 .minZ q f.srcA f.d
    | 5 => onlyQ f (true) fun q => .atom32 .maxZ q f.srcA f.d
    | 6 => onlyQ f (true) fun q => .atom32 .minF32 q f.srcA f.d
    | 7 => onlyQ f (true) fun q => .atom32 .maxF32 q f.srcA f.d
    | 8 => onlyQ f (true) fun q => .atom32 .and q f.srcA f.d
    | 9 => onlyQ f (true) fun q => .atom32 .or q f.srcA f.d
    | 10 => onlyQ f (true) fun q => .atom32 .xor q f.srcA f.d
    | 11 => onlyQ f (true) fun q => .atom32 .exch q f.srcA f.d
    | _ => .error .reservedSubOp
  | 92 =>
    match f.top with
    | 0 => onlyQ f (true) fun q => .atom64 .add q f.srcA f.d
    | 2 => onlyQ f (true) fun q => .atom64 .minI q f.srcA f.d
    | 3 => onlyQ f (true) fun q => .atom64 .maxI q f.srcA f.d
    | 4 => onlyQ f (true) fun q => .atom64 .minZ q f.srcA f.d
    | 5 => onlyQ f (true) fun q => .atom64 .maxZ q f.srcA f.d
    | 8 => onlyQ f (true) fun q => .atom64 .and q f.srcA f.d
    | 9 => onlyQ f (true) fun q => .atom64 .or q f.srcA f.d
    | 10 => onlyQ f (true) fun q => .atom64 .xor q f.srcA f.d
    | 11 => onlyQ f (true) fun q => .atom64 .exch q f.srcA f.d
    | _ => .error .reservedSubOp
  | 93 =>
    match f.top with
    | 0 => onlyQ f (true) fun q => .red32 .add q f.srcA f.d
    | 1 => onlyQ f (true) fun q => .red32 .addF32 q f.srcA f.d
    | 2 => onlyQ f (true) fun q => .red32 .minI q f.srcA f.d
    | 3 => onlyQ f (true) fun q => .red32 .maxI q f.srcA f.d
    | 4 => onlyQ f (true) fun q => .red32 .minZ q f.srcA f.d
    | 5 => onlyQ f (true) fun q => .red32 .maxZ q f.srcA f.d
    | 6 => onlyQ f (true) fun q => .red32 .minF32 q f.srcA f.d
    | 7 => onlyQ f (true) fun q => .red32 .maxF32 q f.srcA f.d
    | 8 => onlyQ f (true) fun q => .red32 .and q f.srcA f.d
    | 9 => onlyQ f (true) fun q => .red32 .or q f.srcA f.d
    | 10 => onlyQ f (true) fun q => .red32 .xor q f.srcA f.d
    | _ => .error .reservedSubOp
  | 94 =>
    match f.top with
    | 0 => onlyQ f (true) fun q => .red64 .add q f.srcA f.d
    | 2 => onlyQ f (true) fun q => .red64 .minI q f.srcA f.d
    | 3 => onlyQ f (true) fun q => .red64 .maxI q f.srcA f.d
    | 4 => onlyQ f (true) fun q => .red64 .minZ q f.srcA f.d
    | 5 => onlyQ f (true) fun q => .red64 .maxZ q f.srcA f.d
    | 8 => onlyQ f (true) fun q => .red64 .and q f.srcA f.d
    | 9 => onlyQ f (true) fun q => .red64 .or q f.srcA f.d
    | 10 => onlyQ f (true) fun q => .red64 .xor q f.srcA f.d
    | _ => .error .reservedSubOp
  | 95 =>
    match f.top with
    | 0 => onlyQ f (true) fun q => .acas32 q f.srcA f.d
    | 1 => onlyQ f (true) fun q => .acas64 q f.srcA f.d
    | 2 => onlyQ f (f.d == 0 && f.a == 0 && f.wa == 0) fun q => .fence q
    | _ => .error .reservedSubOp
  | 96 =>
    match f.top with
    | 0 => only (f.d == 0 && f.a == 0 && f.wa == 0 && f.mid == 0) (.commitBlk)
    | 1 => only (f.d == 0 && f.a == 0 && f.wa == 0 && f.mid == 0) (.commitGrid)
    | 2 => only (f.d == 0 && f.a == 0 && f.wa == 0 && f.mid == 0) (.commitPod)
    | _ => .error .reservedSubOp
  | 97 =>
    match f.top with
    | 0 => only (f.a == 0 && f.wa == 0 && f.mid == 0) (.dstat f.d)
    | _ => .error .reservedSubOp
  | 98 =>
    match f.top with
    | 0 => only (f.mid == 0) (.copy f.srcA f.d)
    | 1 => only (f.mid == 0) (.offl f.srcA f.d)
    | 2 => only (f.mid == 0) (.recallCopy f.srcA f.d)
    | 3 => only (f.mid == 0) (.decode f.srcA f.d)
    | _ => .error .reservedSubOp
  | 99 =>
    match f.top with
    | 0 => only (f.a == 0 && f.wa == 0 && f.mid == 0) (.bfree f.d)
    | 1 => only (f.wa == 0 && f.mid == 0) (.btest .free f.a f.d)
    | 2 => only (f.wa == 0 && f.mid == 0) (.btest .filling f.a f.d)
    | 3 => only (f.wa == 0 && f.mid == 0) (.btest .full f.a f.d)
    | 4 => only (f.wa == 0 && f.mid == 0) (.btest .draining f.a f.d)
    | 5 => only (f.a == 0 && f.wa == 0 && f.mid == 0) (.bwaitFree f.d)
    | 6 => only (f.a == 0 && f.wa == 0 && f.mid == 0) (.bwaitFull f.d)
    | _ => .error .reservedSubOp
  | 104 =>
    match f.top with
    | 0 => only (f.mid == 0) (.mma f.srcA f.d)
    | 1 => only (f.mid == 0) (.mmaSig f.srcA f.d)
    | _ => .error .reservedSubOp
  | 105 =>
    match f.top with
    | 0 => only (f.mid == 0) (.aload f.srcA f.d)
    | 1 => only (f.mid == 0) (.acvt f.srcA f.d)
    | 2 => only (f.a == 0 && f.wa == 0 && f.mid == 0) (.aclr f.d)
    | 3 => only (f.mid == 0) (.qcvt f.srcA f.d)
    | _ => .error .reservedSubOp
  | 106 =>
    match f.top with
    | 0 => .ok (.scbs f.srcB f.srcA f.d)
    | _ => .error .reservedSubOp
  | 107 =>
    match f.top with
    | 0 => only (f.d == 0 && f.mid == 0) (.sig f.srcA)
    | 1 => only (f.d == 0 && f.mid == 0) (.sbwd f.srcA)
    | _ => .error .reservedSubOp
  | 108 =>
    match f.top with
    | 0 => only (f.d == 0 && f.mid == 0) (.rtab f.srcA)
    | 1 => only (f.d == 0 && f.mid == 0) (.rule f.srcA)
    | 2 => only (f.d == 0 && f.mid == 0) (.rgen f.srcA)
    | _ => .error .reservedSubOp
  | 112 =>
    match f.top with
    | 0 => only (f.a == 0 && f.wa == 0 && f.mid == 0) (.synbar f.d)
    | 1 => only (f.a == 0 && f.wa == 0 && f.mid == 0) (.synarv f.d)
    | 2 => only (f.mid == 0) (.synput f.srcA f.d)
    | 3 => only (f.wa == 0 && f.mid == 0) (.synget f.a f.d)
    | _ => .error .reservedSubOp
  | 113 => only (f.a == 0 && f.wa == 0 && f.mid == 0) (.rand f.guard f.d)
  | 114 =>
    match f.mid with
    | 0 => only (f.a == 0 && f.wa == 0) (.rdsp f.guard .wid f.d)
    | 1 => only (f.a == 0 && f.wa == 0) (.rdsp f.guard .lane f.d)
    | 2 => only (f.a == 0 && f.wa == 0) (.rdsp f.guard .beam f.d)
    | 3 => only (f.a == 0 && f.wa == 0) (.rdsp f.guard .bslot f.d)
    | 4 => only (f.a == 0 && f.wa == 0) (.rdsp f.guard .core f.d)
    | 5 => only (f.a == 0 && f.wa == 0) (.rdsp f.guard .sector f.d)
    | 6 => only (f.a == 0 && f.wa == 0) (.rdsp f.guard .quarter f.d)
    | 7 => only (f.a == 0 && f.wa == 0) (.rdsp f.guard .clk f.d)
    | 8 => only (f.a == 0 && f.wa == 0) (.rdsp f.guard .dtime f.d)
    | 9 => only (f.a == 0 && f.wa == 0) (.rdsp f.guard .gen f.d)
    | 10 => only (f.a == 0 && f.wa == 0) (.rdsp f.guard .fstat f.d)
    | 11 => only (f.a == 0 && f.wa == 0) (.rdsp f.guard .psw f.d)
    | _ => .error .reservedSubOp
  | 115 => only (f.a == 0 && f.wa == 0) (.widf f.guard f.mid f.d)
  | 120 => .ok (.sysc f.guard f.mid f.srcA f.d)
  | 121 => only (f.d == 0 && f.a == 0 && f.wa == 0 && f.mid == 0 && f.top == 0) (.tret)
  | 122 => only (f.d == 0 && f.a == 0 && f.wa == 0) (.bkpt f.guard f.mid)
  | 123 => .ok (.csrr f.d f.imm18)
  | 124 => .ok (.csrw f.d f.imm18)
  | 125 =>
    match f.top with
    | 0 => only (f.d == 0 && f.a == 0 && f.wa == 0 && f.mid == 0) (.tlbinvAll)
    | 1 => only (f.d == 0 && f.mid == 0) (.tlbinvPage f.srcA)
    | _ => .error .reservedSubOp
  | 126 =>
    match f.top with
    | 0 => only (f.mid == 0) (.mcload f.srcA f.d)
    | _ => .error .reservedSubOp
  | _ => .error .reservedOpcode

/-- R26: a 16-bit halfword. Every one with bit 0 = 0 is an instruction. -/
def decodeShort (h : Nat) : Instr :=
  let d := h / 32 % 32
  let a : Src := ⟨h / 1024 % 32, h / 32768 % 2 == 1⟩
  match h / 2 % 16 with
  | 0 => .movS d a
  | 1 => .iaddS d a
  | 2 => .isubS d a
  | 3 => .imulS d a
  | 4 => .andS d a
  | 5 => .orS d a
  | 6 => .xorS d a
  | 7 => .shlS d a
  | 8 => .shrS d a
  | 9 => .sraS d a
  | 10 => .iminS d a
  | 11 => .imaxS d a
  | 12 => .faddS d a
  | 13 => .fsubS d a
  | 14 => .fmulS d a
  | _ => .fmaxS d a


/-- The fields of a 32-bit instruction, written from the same tables; `none` for a 16-bit form and for an event. -/
def encodeFields : Instr → Option Fields
  | .movS _ _ => none
  | .iaddS _ _ => none
  | .isubS _ _ => none
  | .imulS _ _ => none
  | .andS _ _ => none
  | .orS _ _ => none
  | .xorS _ _ => none
  | .shlS _ _ => none
  | .shrS _ _ => none
  | .sraS _ _ => none
  | .iminS _ _ => none
  | .imaxS _ _ => none
  | .faddS _ _ => none
  | .fsubS _ _ => none
  | .fmulS _ _ => none
  | .fmaxS _ _ => none
  | .movB32 g a d => some ⟨0, d, a.r, a.trap.toNat, 0, g.code⟩
  | .movi d i18 => some (Fields.ofImm 1 d i18)
  | .movhi d i18 => some (Fields.ofImm 2 d i18)
  | .iadd g b a d => some ⟨3, d, a.r, a.trap.toNat, b.code, g.code⟩
  | .isub g b a d => some ⟨4, d, a.r, a.trap.toNat, b.code, g.code⟩
  | .iaddi g i7 a d => some ⟨5, d, a.r, a.trap.toNat, i7, g.code⟩
  | .imul g b a d => some ⟨6, d, a.r, a.trap.toNat, b.code, g.code⟩
  | .imad g b a d => some ⟨7, d, a.r, a.trap.toNat, b.code, g.code⟩
  | .and g b a d => some ⟨8, d, a.r, a.trap.toNat, b.code, g.code⟩
  | .or g b a d => some ⟨9, d, a.r, a.trap.toNat, b.code, g.code⟩
  | .xor g b a d => some ⟨10, d, a.r, a.trap.toNat, b.code, g.code⟩
  | .andn g b a d => some ⟨11, d, a.r, a.trap.toNat, b.code, g.code⟩
  | .shl g b a d => some ⟨12, d, a.r, a.trap.toNat, b.code, g.code⟩
  | .shr g b a d => some ⟨13, d, a.r, a.trap.toNat, b.code, g.code⟩
  | .sra g b a d => some ⟨14, d, a.r, a.trap.toNat, b.code, g.code⟩
  | .rotl g b a d => some ⟨15, d, a.r, a.trap.toNat, b.code, g.code⟩
  | .iminI32 g b a d => some ⟨16, d, a.r, a.trap.toNat, b.code, g.code⟩
  | .imaxI32 g b a d => some ⟨17, d, a.r, a.trap.toNat, b.code, g.code⟩
  | .iminZ32 g b a d => some ⟨18, d, a.r, a.trap.toNat, b.code, g.code⟩
  | .imaxZ32 g b a d => some ⟨19, d, a.r, a.trap.toNat, b.code, g.code⟩
  | .icmp32 u c b a pd => some ⟨20, pd, a.r, a.trap.toNat, b.code, 8 * u.toNat + c.code⟩
  | .icmp64 u c b a pd => some ⟨21, pd, a.r, a.trap.toNat, b.code, 8 * u.toNat + c.code⟩
  | .sel p b a d => some ⟨22, d, a.r, a.trap.toNat, b.code, p⟩
  | .lea sh b a d => some ⟨23, d, a.r, a.trap.toNat, b.code, sh⟩
  | .imulh u b a d => some ⟨24, d, a.r, a.trap.toNat, b.code, u.toNat⟩
  | .idiv w u b a d => some ⟨25, d, a.r, a.trap.toNat, b.code, 4 * w.toNat + u.toNat⟩
  | .irem w u b a d => some ⟨25, d, a.r, a.trap.toNat, b.code, 2 + 4 * w.toNat + u.toNat⟩
  | .inegI32 g a d => some ⟨26, d, a.r, a.trap.toNat, 0, g.code⟩
  | .iabsI32 g a d => some ⟨26, d, a.r, a.trap.toNat, 1, g.code⟩
  | .notB32 g a d => some ⟨26, d, a.r, a.trap.toNat, 2, g.code⟩
  | .clzB32 g a d => some ⟨26, d, a.r, a.trap.toNat, 3, g.code⟩
  | .popcB32 g a d => some ⟨26, d, a.r, a.trap.toNat, 4, g.code⟩
  | .brev g a d => some ⟨26, d, a.r, a.trap.toNat, 5, g.code⟩
  | .inegI64 g a d => some ⟨26, d, a.r, a.trap.toNat, 6, g.code⟩
  | .iabsI64 g a d => some ⟨26, d, a.r, a.trap.toNat, 7, g.code⟩
  | .clzB64 g a d => some ⟨26, d, a.r, a.trap.toNat, 8, g.code⟩
  | .popcB64 g a d => some ⟨26, d, a.r, a.trap.toNat, 9, g.code⟩
  | .bfx u b a d => some ⟨27, d, a.r, a.trap.toNat, b.code, u.toNat⟩
  | .bfi b a d => some ⟨28, d, a.r, a.trap.toNat, b.code, 0⟩
  | .movB64 a d => some ⟨29, d, a.r, a.trap.toNat, 0, 0⟩
  | .isubI64 b a d => some ⟨29, d, a.r, a.trap.toNat, b.code, 1⟩
  | .imulI64 b a d => some ⟨29, d, a.r, a.trap.toNat, b.code, 2⟩
  | .iminI64 b a d => some ⟨29, d, a.r, a.trap.toNat, b.code, 3⟩
  | .imaxI64 b a d => some ⟨29, d, a.r, a.trap.toNat, b.code, 4⟩
  | .iminZ64 b a d => some ⟨29, d, a.r, a.trap.toNat, b.code, 5⟩
  | .imaxZ64 b a d => some ⟨29, d, a.r, a.trap.toNat, b.code, 6⟩
  | .andB64 b a d => some ⟨29, d, a.r, a.trap.toNat, b.code, 7⟩
  | .orB64 b a d => some ⟨29, d, a.r, a.trap.toNat, b.code, 8⟩
  | .xorB64 b a d => some ⟨29, d, a.r, a.trap.toNat, b.code, 9⟩
  | .shlB64 b a d => some ⟨29, d, a.r, a.trap.toNat, b.code, 10⟩
  | .shrB64 b a d => some ⟨29, d, a.r, a.trap.toNat, b.code, 11⟩
  | .sraB64 b a d => some ⟨29, d, a.r, a.trap.toNat, b.code, 12⟩
  | .iaddI64 g b a d => some ⟨30, d, a.r, a.trap.toNat, b.code, g.code⟩
  | .gxld a d => some ⟨31, d, a.r, a.trap.toNat, 0, 0⟩
  | .gxst b a => some ⟨31, 0, a.r, a.trap.toNat, b.code, 1⟩
  | .fadd g b a d => some ⟨32, d, a.r, a.trap.toNat, b.code, g.code⟩
  | .fsub g b a d => some ⟨33, d, a.r, a.trap.toNat, b.code, g.code⟩
  | .fmul g b a d => some ⟨34, d, a.r, a.trap.toNat, b.code, g.code⟩
  | .ffma g b a d => some ⟨35, d, a.r, a.trap.toNat, b.code, g.code⟩
  | .fmin g b a d => some ⟨36, d, a.r, a.trap.toNat, b.code, g.code⟩
  | .fmax g b a d => some ⟨37, d, a.r, a.trap.toNat, b.code, g.code⟩
  | .fabs g a d => some ⟨38, d, a.r, a.trap.toNat, 0, g.code⟩
  | .fneg g a d => some ⟨38, d, a.r, a.trap.toNat, 1, g.code⟩
  | .frcp g a d => some ⟨38, d, a.r, a.trap.toNat, 2, g.code⟩
  | .frsq g a d => some ⟨38, d, a.r, a.trap.toNat, 3, g.code⟩
  | .fsqrt g a d => some ⟨38, d, a.r, a.trap.toNat, 4, g.code⟩
  | .fexp2 g a d => some ⟨38, d, a.r, a.trap.toNat, 5, g.code⟩
  | .flog2 g a d => some ⟨38, d, a.r, a.trap.toNat, 6, g.code⟩
  | .frnd g rm a d => some ⟨38, d, a.r, a.trap.toNat, 8 + rm.code, g.code⟩
  | .fcmp c b a pd => some ⟨39, pd, a.r, a.trap.toNat, b.code, c.code⟩
  | .fdiv g b a d => some ⟨40, d, a.r, a.trap.toNat, b.code, g.code⟩
  | .faddDirected rm b a d => some ⟨41, d, a.r, a.trap.toNat, b.code, rm.directedCode⟩
  | .fsubDirected rm b a d => some ⟨41, d, a.r, a.trap.toNat, b.code, 4 + rm.directedCode⟩
  | .fmulDirected rm b a d => some ⟨41, d, a.r, a.trap.toNat, b.code, 8 + rm.directedCode⟩
  | .ffmaDirected rm b a d => some ⟨41, d, a.r, a.trap.toNat, b.code, 12 + rm.directedCode⟩
  | .badd2 g b a d => some ⟨42, d, a.r, a.trap.toNat, b.code, g.code⟩
  | .bmul2 g b a d => some ⟨43, d, a.r, a.trap.toNat, b.code, g.code⟩
  | .bfma2 g b a d => some ⟨44, d, a.r, a.trap.toNat, b.code, g.code⟩
  | .cvt g k a d => some ⟨45, d, a.r, a.trap.toNat, k.code, g.code⟩
  | .plop t pb pa pd => some ⟨56, pd, pa, 0, pb, t⟩
  | .p2g g d => some ⟨57, d, 0, 0, 0, g.code⟩
  | .g2p g a => some ⟨58, 0, a.r, a.trap.toNat, 0, g.code⟩
  | .voteAny pa pd => some ⟨59, pd, pa, 0, 0, 0⟩
  | .voteAll pa pd => some ⟨59, pd, pa, 0, 0, 1⟩
  | .voteBallot pa d => some ⟨59, d, pa, 0, 0, 2⟩
  | .voteFirst pd => some ⟨59, pd, 0, 0, 0, 3⟩
  | .shfl m b a d => some ⟨60, d, a.r, a.trap.toNat, b.code, m.code⟩
  | .perm g b a d => some ⟨61, d, a.r, a.trap.toNat, b.code, g.code⟩
  | .redux o a d => some ⟨62, d, a.r, a.trap.toNat, 0, o.code⟩
  | .scan o a d => some ⟨63, d, a.r, a.trap.toNat, 0, o.code⟩
  | .bra sense p disp => some (Fields.ofImm 64 (p + 32 * sense.toNat) disp)
  | .brd sense p disp => some (Fields.ofImm 65 (p + 32 * sense.toNat) disp)
  | .split j => some ⟨66, j, 0, 0, 0, 0⟩
  | .join j => some ⟨67, j, 0, 0, 0, 0⟩
  | .brx g a => some ⟨68, 0, a.r, a.trap.toNat, 0, g.code⟩
  | .call l disp => some (Fields.ofImm 69 (l) disp)
  | .ret g a => some ⟨70, 0, a.r, a.trap.toNat, 0, g.code⟩
  | .exit g => some ⟨71, 0, 0, 0, 0, g.code⟩
  | .mcall m P0 P1 P2 => some (Fields.ofImm 72 m (P0 + 64 * P1 + 4096 * P2))
  | .yield g => some ⟨73, 0, 0, 0, 0, g.code⟩
  | .tape a => some ⟨74, 0, a.r, a.trap.toNat, 0, 0⟩
  | .launch a d => some ⟨75, d, a.r, a.trap.toNat, 0, 0⟩
  | .ld32 g i7 a d => some ⟨80, d, a.r, a.trap.toNat, i7, g.code⟩
  | .ld64 g i7 a d => some ⟨81, d, a.r, a.trap.toNat, i7, g.code⟩
  | .ld128 g i7 a d => some ⟨82, d, a.r, a.trap.toNat, i7, g.code⟩
  | .st32 g i7 a d => some ⟨83, d, a.r, a.trap.toNat, i7, g.code⟩
  | .st64 g i7 a d => some ⟨84, d, a.r, a.trap.toNat, i7, g.code⟩
  | .st128 g i7 a d => some ⟨85, d, a.r, a.trap.toNat, i7, g.code⟩
  | .ldl32 g i7 a d => some ⟨86, d, a.r, a.trap.toNat, i7, g.code⟩
  | .stl32 g i7 a d => some ⟨87, d, a.r, a.trap.toNat, i7, g.code⟩
  | .ldNarrow z a d => some ⟨88, d, a.r, a.trap.toNat, 0, z.toNat⟩
  | .stNarrow z a d => some ⟨88, d, a.r, a.trap.toNat, 0, 2 + z.toNat⟩
  | .ldlSized z a d => some ⟨88, d, a.r, a.trap.toNat, 0, 4 + z.localCode⟩
  | .stlSized z a d => some ⟨88, d, a.r, a.trap.toNat, 0, 8 + z.localCode⟩
  | .ldc z a d => some ⟨88, d, a.r, a.trap.toNat, 0, 12 + z.toNat⟩
  | .pref a => some ⟨88, 0, a.r, a.trap.toNat, 0, 14⟩
  | .cflush a => some ⟨88, 0, a.r, a.trap.toNat, 0, 15⟩
  | .ldOrdered z q a d => some ⟨89, d, a.r, a.trap.toNat, q.code, z.code⟩
  | .stOrdered z q a d => some ⟨90, d, a.r, a.trap.toNat, q.code, z.code⟩
  | .atom32 o q a d => some ⟨91, d, a.r, a.trap.toNat, q.code, o.code⟩
  | .atom64 o q a d => some ⟨92, d, a.r, a.trap.toNat, q.code, o.code⟩
  | .red32 o q a d => some ⟨93, d, a.r, a.trap.toNat, q.code, o.code⟩
  | .red64 o q a d => some ⟨94, d, a.r, a.trap.toNat, q.code, o.code⟩
  | .acas32 q a d => some ⟨95, d, a.r, a.trap.toNat, q.code, 0⟩
  | .acas64 q a d => some ⟨95, d, a.r, a.trap.toNat, q.code, 1⟩
  | .fence q => some ⟨95, 0, 0, 0, q.code, 2⟩
  | .commitBlk  => some ⟨96, 0, 0, 0, 0, 0⟩
  | .commitGrid  => some ⟨96, 0, 0, 0, 0, 1⟩
  | .commitPod  => some ⟨96, 0, 0, 0, 0, 2⟩
  | .dstat d => some ⟨97, d, 0, 0, 0, 0⟩
  | .copy a h => some ⟨98, h, a.r, a.trap.toNat, 0, 0⟩
  | .offl a h => some ⟨98, h, a.r, a.trap.toNat, 0, 1⟩
  | .recallCopy a h => some ⟨98, h, a.r, a.trap.toNat, 0, 2⟩
  | .decode a h => some ⟨98, h, a.r, a.trap.toNat, 0, 3⟩
  | .bfree h => some ⟨99, h, 0, 0, 0, 0⟩
  | .btest st h pd => some ⟨99, pd, h, 0, 0, 1 + st.code⟩
  | .bwaitFree h => some ⟨99, h, 0, 0, 0, 5⟩
  | .bwaitFull h => some ⟨99, h, 0, 0, 0, 6⟩
  | .mma a h => some ⟨104, h, a.r, a.trap.toNat, 0, 0⟩
  | .mmaSig a h => some ⟨104, h, a.r, a.trap.toNat, 0, 1⟩
  | .aload a sl => some ⟨105, sl, a.r, a.trap.toNat, 0, 0⟩
  | .acvt a sl => some ⟨105, sl, a.r, a.trap.toNat, 0, 1⟩
  | .aclr sl => some ⟨105, sl, 0, 0, 0, 2⟩
  | .qcvt a fs => some ⟨105, fs, a.r, a.trap.toNat, 0, 3⟩
  | .scbs b a k => some ⟨106, k, a.r, a.trap.toNat, b.code, 0⟩
  | .sig a => some ⟨107, 0, a.r, a.trap.toNat, 0, 0⟩
  | .sbwd a => some ⟨107, 0, a.r, a.trap.toNat, 0, 1⟩
  | .rtab a => some ⟨108, 0, a.r, a.trap.toNat, 0, 0⟩
  | .rule a => some ⟨108, 0, a.r, a.trap.toNat, 0, 1⟩
  | .rgen a => some ⟨108, 0, a.r, a.trap.toNat, 0, 2⟩
  | .synbar hc => some ⟨112, hc, 0, 0, 0, 0⟩
  | .synarv hc => some ⟨112, hc, 0, 0, 0, 1⟩
  | .synput a hw => some ⟨112, hw, a.r, a.trap.toNat, 0, 2⟩
  | .synget hw d => some ⟨112, d, hw, 0, 0, 3⟩
  | .rand g d => some ⟨113, d, 0, 0, 0, g.code⟩
  | .rdsp g sp d => some ⟨114, d, 0, 0, sp.code, g.code⟩
  | .widf g n d => some ⟨115, d, 0, 0, n, g.code⟩
  | .sysc g i7 a d => some ⟨120, d, a.r, a.trap.toNat, i7, g.code⟩
  | .tret  => some ⟨121, 0, 0, 0, 0, 0⟩
  | .bkpt g i7 => some ⟨122, 0, 0, 0, i7, g.code⟩
  | .csrr d i18 => some (Fields.ofImm 123 d i18)
  | .csrw d i18 => some (Fields.ofImm 124 d i18)
  | .tlbinvAll  => some ⟨125, 0, 0, 0, 0, 0⟩
  | .tlbinvPage a => some ⟨125, 0, a.r, a.trap.toNat, 0, 1⟩
  | .mcload a m => some ⟨126, m, a.r, a.trap.toNat, 0, 0⟩
  | .producerComplete _ _ _ => none
  | .pageWalkComplete _ _ => none
  | .yieldExpiry _ _ => none
  | .dependencePoll  => none
  | .deadlineMiss _ => none
  | .packetSelect _ _ => none
  | .packetAccept _ _ => none
  | .rewindPop _ => none
  | .gangDeal _ => none
  | .gangStart _ => none
  | .blockThreadStart _ => none
  | .stealRequest _ => none
  | .stealReply _ _ => none
  | .stealShipmentArrival _ _ => none
  | .stealBackoffExpiry _ => none
  | .gangRetire _ => none
  | .gridEnd _ => none
  | .completionWordWrite _ => none
  | .logDrain _ => none
  | .binAgeExpiry _ _ => none
  | .binRingArrival _ _ => none
  | .binPacketArrival _ _ => none
  | .applyMarkerArrival _ _ => none
  | .foldRefreshYield _ => none
  | .foldReadYield _ => none
  | .foldComplete _ => none
  | .fullStateNotice _ _ _ => none
  | .commitComplete _ => none
  | .hgBarrierRelease _ _ _ => none
  | .hgBroadcastDelivery _ _ _ => none
  | .hgCommitMarkerDelivery _ => none
  | .copyComplete _ _ _ => none
  | .decodeStart _ => none
  | .decodeComplete _ => none
  | .matrixQueueDispatch _ => none
  | .mmaOperationComplete _ => none
  | .matrixSyncOpComplete _ => none
  | .ruleQueueDispatch _ => none
  | .ruleGeneration _ => none
  | .ruleOpComplete _ => none
  | .hgPreemptRequestDelivery _ => none
  | .drainWatchdogExpiry _ => none
  | .pgraceExpiry _ _ => none
  | .savePoolAlloc _ => none
  | .saveWriteComplete _ => none
  | .gangPreempted _ => none
  | .preemptOverdue _ => none
  | .resumeRestoreComplete _ => none
  | .quiesceAck _ => none
  | .hgRebindComplete  => none
  | .abort _ => none
  | .illegalInstruction _ => none
  | .writePerformed _ _ _ => none
  | .tlbinvComplete _ _ => none
  | .podMarkerArrival _ _ => none
  | .nvmeCompletion _ _ _ => none
  | .podAccessArrival _ _ _ => none
  | .lqtlWrite _ _ _ => none
  | .lqEnable _ _ => none
  | .lqDisable _ _ => none
  | .hmaskWrite _ _ => none
  | .defspillWrite _ _ => none
  | .milvWrite _ _ _ => none
  | .partcfgWrite _ => none
  | .qreqWrite _ => none
  | .hgrbWrite  => none
  | .nbndWrite _ => none
  | .qctlWrite _ => none
  | .dtrapClear _ => none
  | .dfltClear _ => none
  | .fqEnable _ => none
  | .fqDisable _ => none
  | .dbghaltWrite _ _ _ => none
  | .controlRegisterWrite _ _ _ => none
  | .hostMemoryWrite _ _ _ => none
  | .hostMemoryRead _ _ _ => none
  | .hostAtomic _ _ _ _ _ _ => none
  | .bootMemoryAccess _ _ _ => none
  | .pcieReset  => none
  | .pfFunctionLevelReset  => none
  | .vfFunctionLevelReset _ => none
  | .podAcknowledgementArrival _ _ => none
  | .podDeviceUnreachable _ _ => none

/-- The operation number, the two-address register and the source of a 16-bit form (R26). -/
def encodeShort : Instr → Option (Nat × Nat × Src)
  | .movS d a => some (0, d, a)
  | .iaddS d a => some (1, d, a)
  | .isubS d a => some (2, d, a)
  | .imulS d a => some (3, d, a)
  | .andS d a => some (4, d, a)
  | .orS d a => some (5, d, a)
  | .xorS d a => some (6, d, a)
  | .shlS d a => some (7, d, a)
  | .shrS d a => some (8, d, a)
  | .sraS d a => some (9, d, a)
  | .iminS d a => some (10, d, a)
  | .imaxS d a => some (11, d, a)
  | .faddS d a => some (12, d, a)
  | .fsubS d a => some (13, d, a)
  | .fmulS d a => some (14, d, a)
  | .fmaxS d a => some (15, d, a)
  | .movB32 _ _ _ => none
  | .movi _ _ => none
  | .movhi _ _ => none
  | .iadd _ _ _ _ => none
  | .isub _ _ _ _ => none
  | .iaddi _ _ _ _ => none
  | .imul _ _ _ _ => none
  | .imad _ _ _ _ => none
  | .and _ _ _ _ => none
  | .or _ _ _ _ => none
  | .xor _ _ _ _ => none
  | .andn _ _ _ _ => none
  | .shl _ _ _ _ => none
  | .shr _ _ _ _ => none
  | .sra _ _ _ _ => none
  | .rotl _ _ _ _ => none
  | .iminI32 _ _ _ _ => none
  | .imaxI32 _ _ _ _ => none
  | .iminZ32 _ _ _ _ => none
  | .imaxZ32 _ _ _ _ => none
  | .icmp32 _ _ _ _ _ => none
  | .icmp64 _ _ _ _ _ => none
  | .sel _ _ _ _ => none
  | .lea _ _ _ _ => none
  | .imulh _ _ _ _ => none
  | .idiv _ _ _ _ _ => none
  | .irem _ _ _ _ _ => none
  | .inegI32 _ _ _ => none
  | .iabsI32 _ _ _ => none
  | .notB32 _ _ _ => none
  | .clzB32 _ _ _ => none
  | .popcB32 _ _ _ => none
  | .brev _ _ _ => none
  | .inegI64 _ _ _ => none
  | .iabsI64 _ _ _ => none
  | .clzB64 _ _ _ => none
  | .popcB64 _ _ _ => none
  | .bfx _ _ _ _ => none
  | .bfi _ _ _ => none
  | .movB64 _ _ => none
  | .isubI64 _ _ _ => none
  | .imulI64 _ _ _ => none
  | .iminI64 _ _ _ => none
  | .imaxI64 _ _ _ => none
  | .iminZ64 _ _ _ => none
  | .imaxZ64 _ _ _ => none
  | .andB64 _ _ _ => none
  | .orB64 _ _ _ => none
  | .xorB64 _ _ _ => none
  | .shlB64 _ _ _ => none
  | .shrB64 _ _ _ => none
  | .sraB64 _ _ _ => none
  | .iaddI64 _ _ _ _ => none
  | .gxld _ _ => none
  | .gxst _ _ => none
  | .fadd _ _ _ _ => none
  | .fsub _ _ _ _ => none
  | .fmul _ _ _ _ => none
  | .ffma _ _ _ _ => none
  | .fmin _ _ _ _ => none
  | .fmax _ _ _ _ => none
  | .fabs _ _ _ => none
  | .fneg _ _ _ => none
  | .frcp _ _ _ => none
  | .frsq _ _ _ => none
  | .fsqrt _ _ _ => none
  | .fexp2 _ _ _ => none
  | .flog2 _ _ _ => none
  | .frnd _ _ _ _ => none
  | .fcmp _ _ _ _ => none
  | .fdiv _ _ _ _ => none
  | .faddDirected _ _ _ _ => none
  | .fsubDirected _ _ _ _ => none
  | .fmulDirected _ _ _ _ => none
  | .ffmaDirected _ _ _ _ => none
  | .badd2 _ _ _ _ => none
  | .bmul2 _ _ _ _ => none
  | .bfma2 _ _ _ _ => none
  | .cvt _ _ _ _ => none
  | .plop _ _ _ _ => none
  | .p2g _ _ => none
  | .g2p _ _ => none
  | .voteAny _ _ => none
  | .voteAll _ _ => none
  | .voteBallot _ _ => none
  | .voteFirst _ => none
  | .shfl _ _ _ _ => none
  | .perm _ _ _ _ => none
  | .redux _ _ _ => none
  | .scan _ _ _ => none
  | .bra _ _ _ => none
  | .brd _ _ _ => none
  | .split _ => none
  | .join _ => none
  | .brx _ _ => none
  | .call _ _ => none
  | .ret _ _ => none
  | .exit _ => none
  | .mcall _ _ _ _ => none
  | .yield _ => none
  | .tape _ => none
  | .launch _ _ => none
  | .ld32 _ _ _ _ => none
  | .ld64 _ _ _ _ => none
  | .ld128 _ _ _ _ => none
  | .st32 _ _ _ _ => none
  | .st64 _ _ _ _ => none
  | .st128 _ _ _ _ => none
  | .ldl32 _ _ _ _ => none
  | .stl32 _ _ _ _ => none
  | .ldNarrow _ _ _ => none
  | .stNarrow _ _ _ => none
  | .ldlSized _ _ _ => none
  | .stlSized _ _ _ => none
  | .ldc _ _ _ => none
  | .pref _ => none
  | .cflush _ => none
  | .ldOrdered _ _ _ _ => none
  | .stOrdered _ _ _ _ => none
  | .atom32 _ _ _ _ => none
  | .atom64 _ _ _ _ => none
  | .red32 _ _ _ _ => none
  | .red64 _ _ _ _ => none
  | .acas32 _ _ _ => none
  | .acas64 _ _ _ => none
  | .fence _ => none
  | .commitBlk  => none
  | .commitGrid  => none
  | .commitPod  => none
  | .dstat _ => none
  | .copy _ _ => none
  | .offl _ _ => none
  | .recallCopy _ _ => none
  | .decode _ _ => none
  | .bfree _ => none
  | .btest _ _ _ => none
  | .bwaitFree _ => none
  | .bwaitFull _ => none
  | .mma _ _ => none
  | .mmaSig _ _ => none
  | .aload _ _ => none
  | .acvt _ _ => none
  | .aclr _ => none
  | .qcvt _ _ => none
  | .scbs _ _ _ => none
  | .sig _ => none
  | .sbwd _ => none
  | .rtab _ => none
  | .rule _ => none
  | .rgen _ => none
  | .synbar _ => none
  | .synarv _ => none
  | .synput _ _ => none
  | .synget _ _ => none
  | .rand _ _ => none
  | .rdsp _ _ _ => none
  | .widf _ _ _ => none
  | .sysc _ _ _ _ => none
  | .tret  => none
  | .bkpt _ _ => none
  | .csrr _ _ => none
  | .csrw _ _ => none
  | .tlbinvAll  => none
  | .tlbinvPage _ => none
  | .mcload _ _ => none
  | .producerComplete _ _ _ => none
  | .pageWalkComplete _ _ => none
  | .yieldExpiry _ _ => none
  | .dependencePoll  => none
  | .deadlineMiss _ => none
  | .packetSelect _ _ => none
  | .packetAccept _ _ => none
  | .rewindPop _ => none
  | .gangDeal _ => none
  | .gangStart _ => none
  | .blockThreadStart _ => none
  | .stealRequest _ => none
  | .stealReply _ _ => none
  | .stealShipmentArrival _ _ => none
  | .stealBackoffExpiry _ => none
  | .gangRetire _ => none
  | .gridEnd _ => none
  | .completionWordWrite _ => none
  | .logDrain _ => none
  | .binAgeExpiry _ _ => none
  | .binRingArrival _ _ => none
  | .binPacketArrival _ _ => none
  | .applyMarkerArrival _ _ => none
  | .foldRefreshYield _ => none
  | .foldReadYield _ => none
  | .foldComplete _ => none
  | .fullStateNotice _ _ _ => none
  | .commitComplete _ => none
  | .hgBarrierRelease _ _ _ => none
  | .hgBroadcastDelivery _ _ _ => none
  | .hgCommitMarkerDelivery _ => none
  | .copyComplete _ _ _ => none
  | .decodeStart _ => none
  | .decodeComplete _ => none
  | .matrixQueueDispatch _ => none
  | .mmaOperationComplete _ => none
  | .matrixSyncOpComplete _ => none
  | .ruleQueueDispatch _ => none
  | .ruleGeneration _ => none
  | .ruleOpComplete _ => none
  | .hgPreemptRequestDelivery _ => none
  | .drainWatchdogExpiry _ => none
  | .pgraceExpiry _ _ => none
  | .savePoolAlloc _ => none
  | .saveWriteComplete _ => none
  | .gangPreempted _ => none
  | .preemptOverdue _ => none
  | .resumeRestoreComplete _ => none
  | .quiesceAck _ => none
  | .hgRebindComplete  => none
  | .abort _ => none
  | .illegalInstruction _ => none
  | .writePerformed _ _ _ => none
  | .tlbinvComplete _ _ => none
  | .podMarkerArrival _ _ => none
  | .nvmeCompletion _ _ _ => none
  | .podAccessArrival _ _ _ => none
  | .lqtlWrite _ _ _ => none
  | .lqEnable _ _ => none
  | .lqDisable _ _ => none
  | .hmaskWrite _ _ => none
  | .defspillWrite _ _ => none
  | .milvWrite _ _ _ => none
  | .partcfgWrite _ => none
  | .qreqWrite _ => none
  | .hgrbWrite  => none
  | .nbndWrite _ => none
  | .qctlWrite _ => none
  | .dtrapClear _ => none
  | .dfltClear _ => none
  | .fqEnable _ => none
  | .fqDisable _ => none
  | .dbghaltWrite _ _ _ => none
  | .controlRegisterWrite _ _ _ => none
  | .hostMemoryWrite _ _ _ => none
  | .hostMemoryRead _ _ _ => none
  | .hostAtomic _ _ _ _ _ _ => none
  | .bootMemoryAccess _ _ _ => none
  | .pcieReset  => none
  | .pfFunctionLevelReset  => none
  | .vfFunctionLevelReset _ => none
  | .podAcknowledgementArrival _ _ => none
  | .podDeviceUnreachable _ _ => none

/-- R32: the registers that a macro step names, with those 61, 62 and 63 replaced by the ones the call names.
The identity on what is no step of a body. -/
def Instr.subst (P : Nat → Nat) : Instr → Instr
  | .movS d a => .movS d a
  | .iaddS d a => .iaddS d a
  | .isubS d a => .isubS d a
  | .imulS d a => .imulS d a
  | .andS d a => .andS d a
  | .orS d a => .orS d a
  | .xorS d a => .xorS d a
  | .shlS d a => .shlS d a
  | .shrS d a => .shrS d a
  | .sraS d a => .sraS d a
  | .iminS d a => .iminS d a
  | .imaxS d a => .imaxS d a
  | .faddS d a => .faddS d a
  | .fsubS d a => .fsubS d a
  | .fmulS d a => .fmulS d a
  | .fmaxS d a => .fmaxS d a
  | .movB32 g a d => .movB32 g (a.subst P) (P d)
  | .movi d i18 => .movi (P d) i18
  | .movhi d i18 => .movhi (P d) i18
  | .iadd g b a d => .iadd g (b.subst P) (a.subst P) (P d)
  | .isub g b a d => .isub g (b.subst P) (a.subst P) (P d)
  | .iaddi g i7 a d => .iaddi g i7 (a.subst P) (P d)
  | .imul g b a d => .imul g (b.subst P) (a.subst P) (P d)
  | .imad g b a d => .imad g (b.subst P) (a.subst P) (P d)
  | .and g b a d => .and g (b.subst P) (a.subst P) (P d)
  | .or g b a d => .or g (b.subst P) (a.subst P) (P d)
  | .xor g b a d => .xor g (b.subst P) (a.subst P) (P d)
  | .andn g b a d => .andn g (b.subst P) (a.subst P) (P d)
  | .shl g b a d => .shl g (b.subst P) (a.subst P) (P d)
  | .shr g b a d => .shr g (b.subst P) (a.subst P) (P d)
  | .sra g b a d => .sra g (b.subst P) (a.subst P) (P d)
  | .rotl g b a d => .rotl g (b.subst P) (a.subst P) (P d)
  | .iminI32 g b a d => .iminI32 g (b.subst P) (a.subst P) (P d)
  | .imaxI32 g b a d => .imaxI32 g (b.subst P) (a.subst P) (P d)
  | .iminZ32 g b a d => .iminZ32 g (b.subst P) (a.subst P) (P d)
  | .imaxZ32 g b a d => .imaxZ32 g (b.subst P) (a.subst P) (P d)
  | .icmp32 u c b a pd => .icmp32 u c (b.subst P) (a.subst P) pd
  | .icmp64 u c b a pd => .icmp64 u c (b.subst P) (a.subst P) pd
  | .sel p b a d => .sel p (b.subst P) (a.subst P) (P d)
  | .lea sh b a d => .lea sh (b.subst P) (a.subst P) (P d)
  | .imulh u b a d => .imulh u (b.subst P) (a.subst P) (P d)
  | .idiv w u b a d => .idiv w u (b.subst P) (a.subst P) (P d)
  | .irem w u b a d => .irem w u (b.subst P) (a.subst P) (P d)
  | .inegI32 g a d => .inegI32 g (a.subst P) (P d)
  | .iabsI32 g a d => .iabsI32 g (a.subst P) (P d)
  | .notB32 g a d => .notB32 g (a.subst P) (P d)
  | .clzB32 g a d => .clzB32 g (a.subst P) (P d)
  | .popcB32 g a d => .popcB32 g (a.subst P) (P d)
  | .brev g a d => .brev g (a.subst P) (P d)
  | .inegI64 g a d => .inegI64 g (a.subst P) (P d)
  | .iabsI64 g a d => .iabsI64 g (a.subst P) (P d)
  | .clzB64 g a d => .clzB64 g (a.subst P) (P d)
  | .popcB64 g a d => .popcB64 g (a.subst P) (P d)
  | .bfx u b a d => .bfx u (b.subst P) (a.subst P) (P d)
  | .bfi b a d => .bfi (b.subst P) (a.subst P) (P d)
  | .movB64 a d => .movB64 (a.subst P) (P d)
  | .isubI64 b a d => .isubI64 (b.subst P) (a.subst P) (P d)
  | .imulI64 b a d => .imulI64 (b.subst P) (a.subst P) (P d)
  | .iminI64 b a d => .iminI64 (b.subst P) (a.subst P) (P d)
  | .imaxI64 b a d => .imaxI64 (b.subst P) (a.subst P) (P d)
  | .iminZ64 b a d => .iminZ64 (b.subst P) (a.subst P) (P d)
  | .imaxZ64 b a d => .imaxZ64 (b.subst P) (a.subst P) (P d)
  | .andB64 b a d => .andB64 (b.subst P) (a.subst P) (P d)
  | .orB64 b a d => .orB64 (b.subst P) (a.subst P) (P d)
  | .xorB64 b a d => .xorB64 (b.subst P) (a.subst P) (P d)
  | .shlB64 b a d => .shlB64 (b.subst P) (a.subst P) (P d)
  | .shrB64 b a d => .shrB64 (b.subst P) (a.subst P) (P d)
  | .sraB64 b a d => .sraB64 (b.subst P) (a.subst P) (P d)
  | .iaddI64 g b a d => .iaddI64 g (b.subst P) (a.subst P) (P d)
  | .gxld a d => .gxld (a.subst P) (P d)
  | .gxst b a => .gxst (b.subst P) (a.subst P)
  | .fadd g b a d => .fadd g (b.subst P) (a.subst P) (P d)
  | .fsub g b a d => .fsub g (b.subst P) (a.subst P) (P d)
  | .fmul g b a d => .fmul g (b.subst P) (a.subst P) (P d)
  | .ffma g b a d => .ffma g (b.subst P) (a.subst P) (P d)
  | .fmin g b a d => .fmin g (b.subst P) (a.subst P) (P d)
  | .fmax g b a d => .fmax g (b.subst P) (a.subst P) (P d)
  | .fabs g a d => .fabs g (a.subst P) (P d)
  | .fneg g a d => .fneg g (a.subst P) (P d)
  | .frcp g a d => .frcp g (a.subst P) (P d)
  | .frsq g a d => .frsq g (a.subst P) (P d)
  | .fsqrt g a d => .fsqrt g (a.subst P) (P d)
  | .fexp2 g a d => .fexp2 g (a.subst P) (P d)
  | .flog2 g a d => .flog2 g (a.subst P) (P d)
  | .frnd g rm a d => .frnd g rm (a.subst P) (P d)
  | .fcmp c b a pd => .fcmp c (b.subst P) (a.subst P) pd
  | .fdiv g b a d => .fdiv g (b.subst P) (a.subst P) (P d)
  | .faddDirected rm b a d => .faddDirected rm (b.subst P) (a.subst P) (P d)
  | .fsubDirected rm b a d => .fsubDirected rm (b.subst P) (a.subst P) (P d)
  | .fmulDirected rm b a d => .fmulDirected rm (b.subst P) (a.subst P) (P d)
  | .ffmaDirected rm b a d => .ffmaDirected rm (b.subst P) (a.subst P) (P d)
  | .badd2 g b a d => .badd2 g (b.subst P) (a.subst P) (P d)
  | .bmul2 g b a d => .bmul2 g (b.subst P) (a.subst P) (P d)
  | .bfma2 g b a d => .bfma2 g (b.subst P) (a.subst P) (P d)
  | .cvt g k a d => .cvt g k (a.subst P) (P d)
  | .plop t pb pa pd => .plop t pb pa pd
  | .p2g g d => .p2g g (P d)
  | .g2p g a => .g2p g (a.subst P)
  | .voteAny pa pd => .voteAny pa pd
  | .voteAll pa pd => .voteAll pa pd
  | .voteBallot pa d => .voteBallot pa (P d)
  | .voteFirst pd => .voteFirst pd
  | .shfl m b a d => .shfl m (b.subst P) (a.subst P) (P d)
  | .perm g b a d => .perm g (b.subst P) (a.subst P) (P d)
  | .redux o a d => .redux o (a.subst P) (P d)
  | .scan o a d => .scan o (a.subst P) (P d)
  | .bra sense p disp => .bra sense p disp
  | .brd sense p disp => .brd sense p disp
  | .split j => .split j
  | .join j => .join j
  | .brx g a => .brx g (a.subst P)
  | .call l disp => .call l disp
  | .ret g a => .ret g (a.subst P)
  | .exit g => .exit g
  | .mcall m P0 P1 P2 => .mcall m P0 P1 P2
  | .yield g => .yield g
  | .tape a => .tape (a.subst P)
  | .launch a d => .launch (a.subst P) (P d)
  | .ld32 g i7 a d => .ld32 g i7 (a.subst P) (P d)
  | .ld64 g i7 a d => .ld64 g i7 (a.subst P) (P d)
  | .ld128 g i7 a d => .ld128 g i7 (a.subst P) (P d)
  | .st32 g i7 a d => .st32 g i7 (a.subst P) (P d)
  | .st64 g i7 a d => .st64 g i7 (a.subst P) (P d)
  | .st128 g i7 a d => .st128 g i7 (a.subst P) (P d)
  | .ldl32 g i7 a d => .ldl32 g i7 (a.subst P) (P d)
  | .stl32 g i7 a d => .stl32 g i7 (a.subst P) (P d)
  | .ldNarrow z a d => .ldNarrow z (a.subst P) (P d)
  | .stNarrow z a d => .stNarrow z (a.subst P) (P d)
  | .ldlSized z a d => .ldlSized z (a.subst P) (P d)
  | .stlSized z a d => .stlSized z (a.subst P) (P d)
  | .ldc z a d => .ldc z (a.subst P) (P d)
  | .pref a => .pref (a.subst P)
  | .cflush a => .cflush (a.subst P)
  | .ldOrdered z q a d => .ldOrdered z q (a.subst P) (P d)
  | .stOrdered z q a d => .stOrdered z q (a.subst P) (P d)
  | .atom32 o q a d => .atom32 o q (a.subst P) (P d)
  | .atom64 o q a d => .atom64 o q (a.subst P) (P d)
  | .red32 o q a d => .red32 o q (a.subst P) (P d)
  | .red64 o q a d => .red64 o q (a.subst P) (P d)
  | .acas32 q a d => .acas32 q (a.subst P) (P d)
  | .acas64 q a d => .acas64 q (a.subst P) (P d)
  | .fence q => .fence q
  | .commitBlk  => .commitBlk
  | .commitGrid  => .commitGrid
  | .commitPod  => .commitPod
  | .dstat d => .dstat (P d)
  | .copy a h => .copy (a.subst P) h
  | .offl a h => .offl (a.subst P) h
  | .recallCopy a h => .recallCopy (a.subst P) h
  | .decode a h => .decode (a.subst P) h
  | .bfree h => .bfree h
  | .btest st h pd => .btest st h pd
  | .bwaitFree h => .bwaitFree h
  | .bwaitFull h => .bwaitFull h
  | .mma a h => .mma (a.subst P) h
  | .mmaSig a h => .mmaSig (a.subst P) h
  | .aload a sl => .aload (a.subst P) sl
  | .acvt a sl => .acvt (a.subst P) sl
  | .aclr sl => .aclr sl
  | .qcvt a fs => .qcvt (a.subst P) fs
  | .scbs b a k => .scbs (b.subst P) (a.subst P) k
  | .sig a => .sig (a.subst P)
  | .sbwd a => .sbwd (a.subst P)
  | .rtab a => .rtab (a.subst P)
  | .rule a => .rule (a.subst P)
  | .rgen a => .rgen (a.subst P)
  | .synbar hc => .synbar hc
  | .synarv hc => .synarv hc
  | .synput a hw => .synput (a.subst P) hw
  | .synget hw d => .synget hw (P d)
  | .rand g d => .rand g (P d)
  | .rdsp g sp d => .rdsp g sp (P d)
  | .widf g n d => .widf g n (P d)
  | .sysc g i7 a d => .sysc g i7 (a.subst P) (P d)
  | .tret  => .tret
  | .bkpt g i7 => .bkpt g i7
  | .csrr d i18 => .csrr (P d) i18
  | .csrw d i18 => .csrw (P d) i18
  | .tlbinvAll  => .tlbinvAll
  | .tlbinvPage a => .tlbinvPage (a.subst P)
  | .mcload a m => .mcload (a.subst P) m
  | .producerComplete core beam id => .producerComplete core beam id
  | .pageWalkComplete core id => .pageWalkComplete core id
  | .yieldExpiry core beam => .yieldExpiry core beam
  | .dependencePoll  => .dependencePoll
  | .deadlineMiss q => .deadlineMiss q
  | .packetSelect part slot => .packetSelect part slot
  | .packetAccept part slot => .packetAccept part slot
  | .rewindPop q => .rewindPop q
  | .gangDeal part => .gangDeal part
  | .gangStart cluster => .gangStart cluster
  | .blockThreadStart gang => .blockThreadStart gang
  | .stealRequest cluster => .stealRequest cluster
  | .stealReply thief victims => .stealReply thief victims
  | .stealShipmentArrival thief gangs => .stealShipmentArrival thief gangs
  | .stealBackoffExpiry cluster => .stealBackoffExpiry cluster
  | .gangRetire gang => .gangRetire gang
  | .gridEnd grid => .gridEnd grid
  | .completionWordWrite grid => .completionWordWrite grid
  | .logDrain core => .logDrain core
  | .binAgeExpiry sector bin => .binAgeExpiry sector bin
  | .binRingArrival sector items => .binRingArrival sector items
  | .binPacketArrival ch items => .binPacketArrival ch items
  | .applyMarkerArrival ch commit => .applyMarkerArrival ch commit
  | .foldRefreshYield ch => .foldRefreshYield ch
  | .foldReadYield ch => .foldReadYield ch
  | .foldComplete ch => .foldComplete ch
  | .fullStateNotice core ch full => .fullStateNotice core ch full
  | .commitComplete commit => .commitComplete commit
  | .hgBarrierRelease gang ch phase => .hgBarrierRelease gang ch phase
  | .hgBroadcastDelivery core w v => .hgBroadcastDelivery core w v
  | .hgCommitMarkerDelivery commit => .hgCommitMarkerDelivery commit
  | .copyComplete core h inst => .copyComplete core h inst
  | .decodeStart quarter => .decodeStart quarter
  | .decodeComplete quarter => .decodeComplete quarter
  | .matrixQueueDispatch core => .matrixQueueDispatch core
  | .mmaOperationComplete core => .mmaOperationComplete core
  | .matrixSyncOpComplete core => .matrixSyncOpComplete core
  | .ruleQueueDispatch core => .ruleQueueDispatch core
  | .ruleGeneration core => .ruleGeneration core
  | .ruleOpComplete core => .ruleOpComplete core
  | .hgPreemptRequestDelivery gangs => .hgPreemptRequestDelivery gangs
  | .drainWatchdogExpiry block => .drainWatchdogExpiry block
  | .pgraceExpiry core beam => .pgraceExpiry core beam
  | .savePoolAlloc gang => .savePoolAlloc gang
  | .saveWriteComplete block => .saveWriteComplete block
  | .gangPreempted gang => .gangPreempted gang
  | .preemptOverdue gang => .preemptOverdue gang
  | .resumeRestoreComplete gang => .resumeRestoreComplete gang
  | .quiesceAck q => .quiesceAck q
  | .hgRebindComplete  => .hgRebindComplete
  | .abort grid => .abort grid
  | .illegalInstruction e => .illegalInstruction e
  | .writePerformed core beam id => .writePerformed core beam id
  | .tlbinvComplete core beam => .tlbinvComplete core beam
  | .podMarkerArrival route tag => .podMarkerArrival route tag
  | .nvmeCompletion qp entry status => .nvmeCompletion qp entry status
  | .podAccessArrival dev off access => .podAccessArrival dev off access
  | .lqtlWrite part q v => .lqtlWrite part q v
  | .lqEnable part q => .lqEnable part q
  | .lqDisable part q => .lqDisable part q
  | .hmaskWrite n v => .hmaskWrite n v
  | .defspillWrite part v => .defspillWrite part v
  | .milvWrite part q v => .milvWrite part q v
  | .partcfgWrite v => .partcfgWrite v
  | .qreqWrite v => .qreqWrite v
  | .hgrbWrite  => .hgrbWrite
  | .nbndWrite v => .nbndWrite v
  | .qctlWrite v => .qctlWrite v
  | .dtrapClear part => .dtrapClear part
  | .dfltClear part => .dfltClear part
  | .fqEnable qp => .fqEnable qp
  | .fqDisable qp => .fqDisable qp
  | .dbghaltWrite part n v => .dbghaltWrite part n v
  | .controlRegisterWrite vf place v => .controlRegisterWrite vf place v
  | .hostMemoryWrite part pa data => .hostMemoryWrite part pa data
  | .hostMemoryRead part pa len => .hostMemoryRead part pa len
  | .hostAtomic part op wide pa v cmp => .hostAtomic part op wide pa v cmp
  | .bootMemoryAccess write off data => .bootMemoryAccess write off data
  | .pcieReset  => .pcieReset
  | .pfFunctionLevelReset  => .pfFunctionLevelReset
  | .vfFunctionLevelReset part => .vfFunctionLevelReset part
  | .podAcknowledgementArrival route commit => .podAcknowledgementArrival route commit
  | .podDeviceUnreachable dev down => .podDeviceUnreachable dev down

/-- A candidate that passes the field checks of R36. -/
def checked (i : Instr) : Except FetchError Instr := if i.wf then .ok i else .error .badField

/-- A 32-bit word (R36, checks 1 to 4). -/
def decodeWord (w : Nat) : Except FetchError Instr :=
  match decodeFields (Fields.ofWord w) with
  | .ok i => checked i
  | .error e => .error e

/-- R32: the register a macro step names. -/
def macroReg (P0 P1 P2 r : Nat) : Nat := if r = 61 then P0 else if r = 62 then P1 else if r = 63 then P2 else r

/-- A control-store word called with P0-P2: the checks come after the substitution (R32). -/
def decodeMacroWord (P0 P1 P2 w : Nat) : Except FetchError Instr :=
  match decodeFields (Fields.ofWord w) with
  | .ok i => checked (i.subst (macroReg P0 P1 P2))
  | .error e => .error e

/-- An instruction of the stream and its length in bytes, from the bytes at its address (R24). A halfword that is not
there makes the fetch fail (R25). -/
def decodeBytes : List Byte → Except FetchError (Instr × Nat)
  | b0 :: b1 :: rest =>
    let h := b0.toNat + 256 * b1.toNat
    if h % 2 = 0 then .ok (decodeShort h, 2)
    else match rest with
      | b2 :: b3 :: _ =>
        match decodeWord (h + 65536 * b2.toNat + 16777216 * b3.toNat) with
        | .ok i => .ok (i, 4)
        | .error e => .error e
      | _ => .error .outside
  | _ => .error .outside

/-- The n low bytes of a number, the lowest first (R9). -/
def bytesLE : Nat → Nat → List Byte
  | 0, _ => []
  | n + 1, w => BitVec.ofNat 8 w :: bytesLE n (w / 256)

/-- The bytes of a well-formed encoded instruction (R24, R26, R27); `none` for an event. -/
def encode (i : Instr) : Option (List Byte) :=
  match encodeFields i with
  | some f => some (bytesLE 4 f.word)
  | none =>
    match encodeShort i with
    | some (op4, d, a) => some (bytesLE 2 (2 * op4 + 32 * d + 1024 * a.r + 32768 * a.trap.toNat))
    | none => none

/-- The instruction that the decoder reads from an instruction whose bits are w, numbered as spec/opcode_table.json
numbers them, in `nbits` bits; the bits above are 0. -/
def decodeTableWord (nbits w : Nat) : Option Instr :=
  match decodeBytes (bytesLE 4 (w % 2 ^ nbits)) with
  | .ok (i, _) => some i
  | .error _ => none


end Sys2Proof
end

