-- ==== Sys2Proof/Machine/Bits.lean ====
section
/-!
DEFINITION. Bit fields, sign extension and byte order (R9), over Nat and BitVec, as the other files use them.
-/
namespace Sys2Proof.Machine

open Sys2Proof

/-- Bits hi:lo of a number. -/
def fld (x hi lo : Nat) : Nat := x / 2 ^ lo % 2 ^ (hi + 1 - lo)

/-- Bit i of a number. -/
def bit (x i : Nat) : Bool := x / 2 ^ i % 2 == 1

/-- x with its bits above n dropped, read as two's complement. -/
def sext (n x : Nat) : Int := if x % 2 ^ n < 2 ^ (n - 1) then ((x % 2 ^ n : Nat) : Int) else ((x % 2 ^ n : Nat) : Int) - 2 ^ n

/-- An integer modulo 2^32. -/
def wordOf (x : Int) : Word := BitVec.ofInt 32 x

/-- An integer modulo 2^64. -/
def dwordOf (x : Int) : DWord := BitVec.ofInt 64 x

/-- The number that bytes hold, the lowest first (R9). -/
def leNat : List Byte → Nat
  | [] => 0
  | b :: t => b.toNat + 256 * leNat t

/-- n bytes from the i-th on; those past the end read 0. -/
def sliceBytes : Nat → Nat → List Byte → List Byte
  | 0, _, _ => []
  | n + 1, i, l => l.getD i 0 :: sliceBytes n (i + 1) l

/-- The number in n bytes from the i-th on. -/
def leAt (l : List Byte) (i n : Nat) : Nat := leNat (sliceBytes n i l)

/-- Bits hi:lo of the number that bytes hold. -/
def bytesFld (l : List Byte) (hi lo : Nat) : Nat := fld (leNat l) hi lo

/-- 0, 1, ..., n - 1, by structural recursion. -/
def upTo : Nat → List Nat
  | 0 => []
  | n + 1 => upTo n ++ [n]

/-- The mask with bit i set for each i of a list below 64 or so. -/
def maskOf : List Nat → Nat
  | [] => 0
  | i :: t => (2 ^ i) ||| maskOf t

/-- The positions below n of the bits set in a mask. -/
def bitsOf (n m : Nat) : List Nat := (upTo n).filter (bit m)

/-- The least element, or a default. -/
def leastD (d : Nat) : List Nat → Nat
  | [] => d
  | x :: t => t.foldl Nat.min x

/-- Ceiling of a division. -/
def cdiv (a b : Nat) : Nat := (a + b - 1) / b

/-- The byte at place i of a 128-byte line. -/
def lineByte (x : BitVec 1024) (i : Nat) : Byte := BitVec.ofNat 8 (x.toNat / 256 ^ i)

/-- A line from its 128 bytes. -/
def lineOf (l : List Byte) : BitVec 1024 := BitVec.ofNat 1024 (leNat l)

/-- n bytes of a line from place i on. -/
def lineBytes (x : BitVec 1024) (i n : Nat) : List Byte := bytesLE n (x.toNat / 256 ^ i)

/-- A line with bytes put at place i. -/
def linePut (x : BitVec 1024) (i : Nat) (l : List Byte) : BitVec 1024 :=
  let hi := x.toNat / 256 ^ (i + l.length)
  let lo := x.toNat % 256 ^ i
  BitVec.ofNat 1024 (lo + 256 ^ i * (leNat l + 256 ^ l.length * hi))

/-- The parity of a number below 2^n. -/
def parity : Nat → Nat → Bool
  | 0, _ => false
  | n + 1, x => (x % 2 == 1) != parity n (x / 2)

/-- Removes the first occurrence of a number. -/
def dropOne (k : Nat) : List Nat → List Nat
  | [] => []
  | x :: t => if x = k then t else x :: dropOne k t

end Sys2Proof.Machine
end

