-- ==== Sys2Proof/Machine/NMap.lean ====
section
/-!
DEFINITION. Finite maps from numbers, held as lists of pairs with rising keys. `look` reads, `put` writes, `del`
removes. Every table of the state that is sparse is such a list.
-/
namespace Sys2Proof.Machine

/-- A finite map keyed by numbers. -/
abbrev NMap (α : Type) := List (Nat × α)

/-- The value at a key. -/
def look {α : Type} : NMap α → Nat → Option α
  | [], _ => none
  | (a, x) :: t, k => if a = k then some x else look t k

/-- The value at a key, or a default. -/
def lookD {α : Type} (m : NMap α) (k : Nat) (d : α) : α :=
  match look m k with
  | some x => x
  | none => d

/-- Writes a key, keeping the keys rising. -/
def put {α : Type} : NMap α → Nat → α → NMap α
  | [], k, v => [(k, v)]
  | (a, x) :: t, k, v =>
    if k < a then (k, v) :: (a, x) :: t
    else if k = a then (k, v) :: t
    else (a, x) :: put t k v

/-- Removes a key. -/
def del {α : Type} : NMap α → Nat → NMap α
  | [], _ => []
  | (a, x) :: t, k => if a = k then del t k else (a, x) :: del t k

/-- Changes the value at a key, where there is one. -/
def alter {α : Type} (m : NMap α) (k : Nat) (f : α → α) : NMap α :=
  match look m k with
  | some x => put m k (f x)
  | none => m

/-- The keys rise strictly, each above `lo` (the canonical form). -/
def risingFrom {α : Type} : Option Nat → NMap α → Bool
  | _, [] => true
  | none, (a, _) :: t => risingFrom (some a) t
  | some lo, (a, _) :: t => decide (lo < a) && risingFrom (some a) t

/-- The keys rise strictly (the canonical form). -/
def rising {α : Type} (m : NMap α) : Bool := risingFrom none m

end Sys2Proof.Machine
end

