-- ==== Sys2Proof/Machine/State.lean ====
section
/-!
DEFINITION. The state of the device, as plain data: what the spec names, under its own names. Tables that are mostly
empty are finite maps; what such a table reads where it lists nothing is said at each field.
-/
namespace Sys2Proof.Machine

open Sys2Proof

/-! ## Lanes and beams -/

/-- STATE of a counter-table entry (R87). -/
inductive LaneState where
  | runnable | waiting | parked | exited
  deriving DecidableEq, Repr

/-- A lane of a beam: the thread's registers and its entry of the counter table (R72, R87). -/
structure Lane where
  /-- registers of the allotment by number; an unlisted one holds 0 -/
  regs : NMap Word
  /-- registers whose full/empty bit says empty (R30) -/
  empty : List Nat
  /-- p0-p31; bit 0 reads 1 (R29) -/
  preds : Word
  fstat : Word
  srctr : Word
  randctr : Word
  pc : Word
  min : Bool
  mstep : Nat
  state : LaneState
  jidx : Nat
  /-- the fault record of a parked lane (R145) -/
  frec : QWord
  deriving DecidableEq, Repr

/-- A lane at thread start before ARGS reaches g0:g1 (R72). -/
def Lane.start : Lane := ⟨[], [], 1, 0, 0, 0, 0, false, 0, .runnable, 0, 0⟩

/-- What a trap carries into its frame (R284, R290, R291). -/
structure Trap where
  code : Nat
  /-- LANES -/
  lanes : Nat
  /-- LANE -/
  lane : Nat
  /-- ADDR -/
  addr : DWord
  /-- REG -/
  reg : Nat
  /-- OFFS -/
  offs : Nat
  /-- REC -/
  record : QWord
  /-- IMM of the header -/
  imm : Nat
  /-- CALLM of the header -/
  callm : Nat
  /-- RUN, PC, MACRO and MSTEP of the header -/
  run : Nat
  pc : Word
  mac : Bool
  mstep : Nat
  /-- the call area, by lane (R289) -/
  args : NMap DWord
  /-- the fault record of the run's lanes where a fetch failed (R144) -/
  frec : Option QWord
  deriving DecidableEq, Repr

/-- One executing lane of an instruction that has issued and not completed (R292). -/
structure PendLane where
  lane : Nat
  /-- EADDR -/
  ea : DWord
  /-- where the access acts: a physical address with its APC in bits 49:48, or a core offset for a local one -/
  target : Nat
  /-- DATA: the captured operands -/
  data : QWord
  /-- the value to be written to the destination -/
  res : QWord
  /-- flags to be set with it (R107) -/
  flags : Word
  deriving DecidableEq, Repr

/-- How an unfinished instruction finishes. -/
inductive PendKind where
  /-- IDIV, IREM, FDIV, GXLD, SYNGET, or an access already performed: the result waits to be written -/
  | result
  /-- LD or LDC of this many bytes, not yet performed; the path it reads by -/
  | load (bytes : Nat) (scope : Scope) (const : Bool)
  /-- LDL of this many bytes, not yet performed -/
  | loadLocal (bytes : Nat)
  /-- ATOM or ACAS, not yet performed -/
  | atomic (bytes : Nat) (op : Option AtomOp) (q : QF)
  /-- an access of the replay queue that stays unfinished until the next trap, with its ACT (R292, R293; log 16) -/
  | parked (act : Nat)
  /-- an access of the replay queue that is still to be issued or completed, with its ACT, before the beam's next issue (R293) -/
  | again (act : Nat)
  deriving DecidableEq, Repr

/-- An instruction that has issued and whose destinations are empty (R30, R292). -/
structure Pend where
  id : Nat
  /-- WORD, after macro substitution -/
  word : Word
  /-- EPC -/
  epc : Word
  /-- the step of the macro it issued in (R101) -/
  mstep : Option Nat
  /-- the run that issued it, which a trap's RUN reports (R290) -/
  run : Nat
  /-- first destination register and how many -/
  dst : Nat
  n : Nat
  kind : PendKind
  lanes : List PendLane
  deriving DecidableEq, Repr

/-- What a buffered write does with its bytes. -/
inductive StoreKind where
  /-- ST -/
  | plain
  /-- STL: the places are local targets -/
  | loc
  /-- RED: the bytes are the operands -/
  | red (op : AtomOp) (q : QF)
  deriving DecidableEq, Repr

/-- A lane's bytes of a buffered write: where they go is a physical address with its page bits, or a local target. -/
structure Piece where
  lane : Nat
  target : Nat
  bytes : List Byte
  deriving DecidableEq, Repr

/-- A ST, STL or RED that has issued and is not yet performed (R161, R162). -/
structure Store where
  id : Nat
  kind : StoreKind
  scope : Scope
  /-- the instruction's PC, macro step and run, for what R165 reports -/
  epc : Word
  mstep : Option Nat
  run : Nat
  /-- the lanes' bytes, in ascending lane order -/
  pieces : List Piece
  deriving DecidableEq, Repr

/-- A translation held by a TLB (R143): page base and size in bits, and the leaf. -/
structure TlbEntry where
  page : Nat
  bits : Nat
  base : Nat
  apc : Nat
  u : Bool
  w : Bool
  c : Bool
  d : Bool
  level : Nat
  deriving DecidableEq, Repr

/-- A translation fault: CAUSE and LEVEL (R144, R145). -/
structure XFault where
  cause : Nat
  level : Nat
  deriving DecidableEq, Repr

/-- What a walk comes to (R143, R144). -/
inductive Walked where
  | leaf (e : TlbEntry)
  /-- the first check that fails -/
  | fault (f : XFault)
  /-- an entry lies in a block that cannot be read, at this address (R152) -/
  | bad (pa : Nat)
  /-- an entry's home lies behind a closed die link (R321) -/
  | shut
  deriving DecidableEq, Repr

/-- What a walk has found for a beam or an engine that waited for it (R90, R143), and an address of its page. -/
structure Told where
  va : Nat
  found : Walked
  deriving DecidableEq, Repr

/-- Why a beam is not eligible although it has a run (R85). -/
inductive Hold where
  | none
  /-- YIELD (R104): not before this clock -/
  | yield (till : Nat)
  /-- SYNBAR (R261): channel and the phase awaited -/
  | barrier (ch : Nat) (phase : Word)
  /-- COMMIT (R187), or a ticket after resumption (R308) -/
  | commit (c : Nat)
  /-- TLBINV (R299): the addresses whose translations go, or all -/
  | tlbinv (vas : Option (List Nat))
  /-- ALOAD, ACVT, ACLR, QCVT, SIG, SBWD, RTAB, RULE, RGEN: until the engine's operation of this number ends (R228, R240,
  R251) -/
  | engine (op : Nat)
  /-- beneath a handler: a rule operation was stopped or withdrawn, and these lanes, which stood behind its instruction at this
  PC, are to issue it again (R255) -/
  | rewind (run : Nat) (pc : Word)
  deriving DecidableEq, Repr

/-- A beam (R84-R94). -/
structure Beam where
  block : Nat
  /-- its index in the block: it holds threads 32 idx to 32 idx + 31 -/
  idx : Nat
  lanes : List Lane
  psw : Word
  flvl : Nat
  framea : DWord
  hold : Hold
  /-- what held the beam when each trap it is handling was taken, to hold it again after the return -/
  under : List Hold
  /-- the commit that must complete before a resumed beam is eligible, in a handler or not (R189, R308) -/
  ticket : Option Nat
  /-- channels on whose ARRIVED the beam stands (R258), bit n for hcn -/
  arr : Nat
  /-- stopped at an instruction boundary for a save, a flush or an ABORT (R298, R303, R304) -/
  stopped : Bool
  /-- the clock after which the beam last issued, plus 1; 0 if it never did (R85) -/
  lastIssue : Nat
  /-- the clock, plus 1, in which the beam has issued or has been found not to issue -/
  tried : Nat
  nextId : Nat
  pend : List Pend
  stores : List Store
  /-- what walks have found for the instruction that is to issue next, or for the trap that is to be taken (R90, R143) -/
  told : List Told
  /-- the lanes that the last handler has ended: they exit once the replay entries are done (R293) -/
  ended : List Nat
  /-- traps waiting to be taken before the next issue, each with the clock in which it became ready (R152, R190, R294) -/
  waiting : List (Nat × Trap)
  deriving DecidableEq, Repr

/-! ## Blocks, gangs, grids -/

/-- Where a block stands in a pre-emption (R301-R305). -/
inductive Leave where
  | none
  | drain (deadline : Nat)
  | flush
  /-- saving: stopping and waiting for R189, R202, R234 -/
  | save
  /-- waiting for the save area of the gang (R307) -/
  | saveWait
  /-- the save area is being written -/
  | saveWrite
  | done
  deriving DecidableEq, Repr

/-- A resident block (R72, R76, R77). -/
structure Block where
  gang : Nat
  /-- index in the gang -/
  k : Nat
  core : Nat
  bslot : Nat
  /-- beam numbers in ascending beam index (R84) -/
  beams : List Nat
  lmbase : Nat
  /-- what it has taken (R77): threads, registers per thread, local bytes, macro entries and their image -/
  thr : Nat
  a : Nat
  lmb : Nat
  macn : Nat
  image : DWord
  /-- the partition in which the image's address was named (R19) -/
  ipart : Nat
  /-- the core's slots bound to a0, a1, ... (R213) -/
  slots : List Nat
  /-- the core's buffer-table entries bound to b0, b1, ... (R193) -/
  handles : List Nat
  /-- scale pairs: base and shift (R227) -/
  scales : NMap (DWord × Nat)
  gen : Word
  /-- table binding: SRC and NE (R252) -/
  tab : Option (Word × Nat)
  retired : Nat
  leave : Leave
  /-- every beam exited by drain (R302, R308) -/
  doneByDrain : Bool
  /-- control-store entries that MCLOAD has made listed for it (R300) -/
  listed : List Nat
  /-- channels that may hold unfolded records which it appended on cores it has left (R187) -/
  past : List Nat
  deriving DecidableEq, Repr

/-- A Heliograph channel of a gang (R258). -/
structure Chan where
  e : Nat
  pend : Nat
  cnt : Nat
  ph : Word
  deriving DecidableEq, Repr

/-- A pre-emption request (R301, R309). -/
structure Preempt where
  since : Nat
  /-- the class-0 gang it makes room for, or none after a supervisor's request -/
  forGang : Option Nat
  overdueAt : Nat
  deriving DecidableEq, Repr

/-- Where a gang stands (R80, R81). -/
inductive GangState where
  /-- in its grid's list: never started, flushed, or saved at this pool address -/
  | listed
  | held (cluster : Nat)
  /-- placement under way, or restoring a save (R81, R308) -/
  | starting
  | resident
  deriving DecidableEq, Repr

/-- What a saved beam keeps beside its save area: what holds it, at each level, the traps that wait for it, and the replay entries that
stay unfinished until its next trap (R189, R265, R292, R294). -/
structure Kept where
  holds : List Hold
  waiting : List (Nat × Trap)
  entries : List Pend
  deriving DecidableEq, Repr

/-- A gang that is not undealt (R76, R80). -/
structure Gang where
  grid : Nat
  coord : Nat
  state : GangState
  cluster : Nat
  c0 : Nat
  blocks : List Nat
  chans : List Chan
  /-- the clock of its start, for R70 -/
  started : Nat
  /-- order of deals (R81) and of entry into a held list (R70) -/
  order : Nat
  entered : Nat
  request : Option Preempt
  requested : Bool
  /-- save area: address, granules -/
  area : Option (Nat × Nat)
  saved : Bool
  /-- flushed, to be restarted (R277, R303) -/
  again : Bool
  /-- by 64 k + beam index -/
  kept : NMap Kept
  /-- `past` of its blocks, by k, while they are not resident (R187) -/
  left : NMap (List Nat)
  deriving DecidableEq, Repr

/-- The packet and header fields a grid runs by (R15, R61). -/
structure Grid where
  part : Nat
  queue : Nat
  tag : Word
  signal : DWord
  deadline : Nat
  cls : Nat
  tapeon : Bool
  args : DWord
  widbase : DWord
  kimg : DWord
  seed : DWord
  /-- the partition in which the packet named its image (R19) -/
  ipart : Nat
  /-- whether an edge of R275 leads to the grid: a completion word, a handle, TAPE or LAUNCH (R276) -/
  edge : Bool
  codeoff : Nat
  codesz : Nat
  mactab : Nat
  macn : Nat
  /-- macro table: entry, length and body offset (R19) -/
  macros : List (Nat × Nat × Nat)
  widw : List Nat
  blklvl : Nat
  ganglvl : Nat
  nblk : Nat
  thr : Nat
  regs : Nat
  depth : Nat
  accs : Nat
  bufs : Nat
  hgch : Nat
  hgbeams : Nat
  lmb : Nat
  expins : Nat
  idem : Bool
  /-- format slot descriptors (R20) -/
  fslots : List DWord
  /-- next gang coordinate to deal and the end of the extent (R18) -/
  next : Nat
  lim : Nat
  /-- gangs returned by save or flush, in ascending gang coordinate (R80) -/
  returned : List Nat
  /-- gangs dealt and not retired -/
  live : Nat
  /-- order of acceptance (R80) -/
  order : Nat
  aborted : Bool
  /-- the end-of-grid commit, once issued (R312) -/
  ending : Option Nat
  /-- popped from the tape by a rewind of its queue (R73) -/
  popped : Bool
  deriving DecidableEq, Repr

/-! ## Queues -/

/-- The packet a queue presents (R66). -/
inductive PacketState where
  | waiting | ready | accepting
  deriving DecidableEq, Repr

/-- A packet at the head of its queue, or a record popped by a rewind (R66, R73). -/
structure Packet where
  bytes : List Byte
  state : PacketState
  popped : Bool
  /-- LAUNCH wrote it (R75, R275) -/
  launched : Bool
  /-- the clock in which it became Ready, and how many class-0 packets of its partition have been chosen since (R71) -/
  since : Nat
  ahead : Nat
  deriving DecidableEq, Repr

/-- A queue's part that no register holds (R66, R73). -/
structure QueueRun where
  head : Option Packet
  /-- the rewind packet in progress, kept at the head -/
  rewind : Option (List Byte)
  /-- ring entries that LAUNCH wrote and that have not been read yet (R75, R275) -/
  launched : List Nat
  deriving DecidableEq, Repr

/-- A reservation of a cluster for a class-0 gang: the gang, the victims that have not left yet, and the blocks that
have left, whose resources stay reserved (R70). -/
structure Reserve where
  gang : Nat
  victims : List Nat
  freed : List Block
  channels : Nat
  deriving DecidableEq, Repr

/-- Free resources as a placement or a steal request sees them (R77, R82): for each core of a cluster the blocks that hold
its resources and the beam numbers kept by saved handlers (R306), and the Heliograph channels taken. -/
structure Room where
  cores : List (List Block × List Nat)
  channels : Nat
  deriving DecidableEq, Repr

/-- A cluster scheduler (R70, R80-R82). -/
structure Cluster where
  /-- held gangs, in order -/
  held : List Nat
  reserved : List Reserve
  /-- the free resources that the steal request under way carries -/
  asked : Option Room
  /-- a steal round is under way -/
  stealing : Bool
  /-- no new round before this clock -/
  backoff : Nat
  deriving DecidableEq, Repr

/-! ## Engines -/

/-- Mode of an accumulator slot (R213). -/
inductive SlotMode where
  | clear | fp32 | res3
  deriving DecidableEq, Repr

/-- An accumulator slot: 256 x 128 elements; an unlisted one is 0 with residues 0 (R45, R213). -/
structure Slot where
  mode : SlotMode
  kcnt : Nat
  /-- element 256 i + j: value or companion, and residue word (R47) -/
  elems : NMap (Word × Word)
  deriving DecidableEq, Repr

/-- A range of bytes an instance records (R194, R195): local by core and offset, or global by virtual address. -/
structure Range where
  loc : Bool
  first : Nat
  len : Nat
  deriving DecidableEq, Repr

/-- A buffer-table entry (R194, R195). -/
structure Handle where
  state : HState
  drn : Nat
  pf : Bool
  err : Nat
  nvs : Nat
  inst : Nat
  eva : DWord
  remain : Nat
  range : Option Range
  /-- the instance has been full without an error (R67, R195) -/
  wasFull : Bool
  /-- whether each earlier instance had been full, by instance number (R67) -/
  past : NMap Bool
  deriving DecidableEq, Repr

/-- A range lock (R197): its range, whether a destination, and the operation that owns it. -/
structure Lock where
  range : Range
  dest : Bool
  /-- the core of the operation that owns it; the table entry of its handle, or 256 plus its own number; and the index that a
  trap reports: the block's own index of the handle -/
  core : Nat
  entry : Nat
  index : Nat
  deriving DecidableEq, Repr

/-- An operation of an engine, with what was captured at its issue. -/
structure EngineOp where
  instr : Instr
  beam : Nat
  block : Nat
  /-- the handle's table entry, where it has one -/
  handle : Option Nat
  /-- the handle's instance, or the operation's own number where its locks are its own -/
  inst : Nat
  /-- the request or parameter block as read at issue -/
  params : List Byte
  /-- numbers captured at issue -/
  args : List Nat
  /-- translations made at issue: virtual page of 64 KiB and target -/
  pages : NMap Nat
  /-- source handle being read: table entry -/
  source : Option Nat
  /-- whether it has read, at its start (R278), what it has read, and the failure it met: trap code and address -/
  ready : Bool
  data : List Byte
  err : Option (Nat × Nat)
  /-- bytes of its destination that it has written so far, by offset (R278) -/
  written : List Nat
  deriving DecidableEq, Repr

/-- A beam that waits for a walk, or 4096 plus the core for its engines, with the rights that checks 4 and 5 ask for: PSW.SUP, and whether the access writes (R144). -/
structure Want where
  key : Nat
  sup : Bool
  write : Bool
  deriving DecidableEq, Repr

/-- A walk in flight (R143): an address of its page, and the beams that wait for it. -/
structure Walk where
  id : Nat
  va : Nat
  wants : List Want
  deriving DecidableEq, Repr

/-- A core's own state. -/
structure Core where
  /-- control store: words by 32 m + s, unlisted 0, and LEN by m (R19, R101) -/
  cstore : NMap Word
  clen : NMap Nat
  slots : NMap Slot
  handles : NMap Handle
  /-- the handles that this clock has changed, as they stood before it (R196) -/
  were : NMap Handle
  locks : List Lock
  copies : List EngineOp
  matrixQ : List EngineOp
  matrixOp : Option EngineOp
  ruleQ : List EngineOp
  ruleOp : Option EngineOp
  /-- rule table bytes, unlisted 0, and the block that loaded it (R252) -/
  ruleTab : NMap Byte
  ruleOwner : Option Nat
  tlb : List TlbEntry
  walks : List Walk
  /-- what walks have found for the core's engines (R143) -/
  told : List Told
  /-- L1 lines by PA / 128, with the constant mark (R147, R163) -/
  l1 : NMap (BitVec 1024 × Bool)
  /-- scale-cache lines by PA / 128 (R219) -/
  scaleCache : NMap (BitVec 1024)
  /-- instruction lines by grid and VA / 128, supervisor code under grid 0 with its VA (R14) -/
  icache : NMap (BitVec 1024)
  /-- the log (R175) -/
  log : List (BinItem × Nat)
  nextSeq : Word
  seqLo : Word
  /-- channels that have received records from this log since its previous marker (R187) -/
  touched : List Nat
  /-- the core's copies of the full bits that are 1 (R176) -/
  fullBits : List Nat
  hw : NMap Word
  /-- beam numbers kept by saved handlers, each with the frame address (R306) -/
  heldBeams : List (Nat × DWord)
  /-- the grid whose block left the core last (R163, R312) -/
  lastGrid : Option Nat
  lamport : Nat
  deriving DecidableEq, Repr

/-- A bin and the clock of its last entry (R177, R179). -/
structure Bin where
  items : List BinItem
  last : Nat
  /-- it is to ship as soon as its channel is not full (R179) -/
  due : Bool
  deriving DecidableEq, Repr

/-- A delta held by an apply engine (R180). -/
structure Delta where
  value : DWord
  op : DOp
  sz : Bool
  pa : Nat
  /-- a fold that yielded to refresh has applied it in its buffer (R184): no later record merges into it -/
  buffered : Bool
  /-- it lies in the spill area, since the delta space had no line for it when it came (R180) -/
  spill : Bool
  deriving DecidableEq, Repr

/-- An apply engine (R180, R183). -/
structure Apply where
  deltas : List Delta
  /-- the full state -/
  full : Bool
  /-- bin packets that wait for the full state to clear -/
  held : List (List BinItem)
  /-- the fold in progress: its commit, and the sector of the bin whose fold request it answers, which is not acknowledged (R179) -/
  fold : Option (Nat × Option Nat)
  /-- the blocks that the fold has yet to write, in the order of its rows (R183), the first fault it has met (R190), and the
  lines of its delta space that it has freed, in the full state since it began (R180) -/
  todo : List Nat
  met : Option (Nat × Nat)
  freed : Nat
  /-- markers and requests that wait for the fold in progress -/
  queued : List (Nat × Option Nat)
  deriving DecidableEq, Repr

/-- A commit in progress (R187-R191). -/
structure Commit where
  part : Nat
  /-- waiting beams -/
  beams : List Nat
  /-- the grid whose end issued it -/
  grid : Option Nat
  /-- the pod device whose marker it is, and that device's own name for it (R188) -/
  origin : Option (Nat × Nat)
  /-- logs that hold its marker, not yet drained past -/
  logs : List Nat
  /-- folds not yet acknowledged: channel numbers -/
  acks : List Nat
  /-- whether it is a COMMIT.pod with peers, and the pod devices that have not acknowledged -/
  pod : Bool
  pods : List Nat
  started : Bool
  /-- a fault of a fold: BLOCK and CAUSE -/
  fault : Option (Nat × Nat)
  /-- sequence numbers ahead of its marker, by core -/
  seqHi : NMap Word
  /-- saved beams that hold its ticket (R189) -/
  tickets : Nat
  /-- the core whose log's marker goes to these channels too: those of `past` of the block that commits (R187) -/
  extra : Nat × List Nat
  /-- a beam that waits for it has been saved in the meantime: its block may have left the core since (R187) -/
  moved : Bool
  done : Bool
  deriving DecidableEq, Repr

/-- A flash command (R204): its identifier once it is submitted, the handle it serves by core, table entry and instance,
its direction, its first logical block, its byte offset in the request's range and its bytes; the range with the pages
translated at issue (R193), and for a Write the bytes that the device gives, `none` where they could not be read. -/
structure FlashCmd where
  cid : Nat
  core : Nat
  entry : Nat
  inst : Nat
  write : Bool
  fua : Bool
  lba : Nat
  off : Nat
  len : Nat
  range : Range
  pages : NMap Nat
  data : Option (List Byte)
  /-- of a Read, the bytes that have reached the range so far, by offset in it (R278) -/
  written : List Nat
  deriving DecidableEq, Repr

/-- A flash queue pair's part that no register holds (R204). -/
structure FlashRun where
  /-- commands submitted and not completed -/
  out : List FlashCmd
  /-- commands that wait for a free submission slot -/
  todo : List FlashCmd
  tail : Nat
  /-- the submission queue's head, as the completions tell it -/
  sqhead : Nat
  /-- the completion queue's head, and the phase tag that a new entry bears there -/
  head : Nat
  phase : Bool
  deriving DecidableEq, Repr

/-! ## The device -/

/-- A step the device is to take: not before this clock. -/
structure Due where
  clk : Nat
  step : Instr
  deriving DecidableEq, Repr

/-- A write of a device register by the PF, applied at the end of its clock, behind the beams' (R318): the bits it keeps and
those it sets. -/
structure PfWrite where
  n : Nat
  keep : Word
  set : Word
  deriving DecidableEq, Repr

/-- What beams have written to a line through one aperture (R283): the bytes that the writes replaced, and wrote, by place in the line,
and the cores that have flushed the line since. -/
structure Alias where
  way : Nat
  bytes : NMap (Byte × Byte)
  flushed : List Nat
  deriving DecidableEq, Repr

/-- What the device has sent outside. -/
inductive Sent where
  /-- a PCIe write: address and bytes -/
  | pcie (addr : Nat) (data : List Byte)
  /-- an MSI-X signal of a partition -/
  | msix (part : Nat)
  /-- a commit marker to, or an acknowledgement for, pod device `dest` from device `src`, by this device's link (R188, R317) -/
  | podMarker (link dest src tag : Nat)
  | podAck (link dest src tag : Nat) (fault : Option (Nat × Nat))
  /-- what completes a read or an AtomicOp of the host, or a pod peer's read: `none` is Unsupported Request or a block that
  cannot be read (R152, R313, R314) -/
  | reply (data : Option (List Byte))
  deriving DecidableEq, Repr

/-- The state of a ZX48. -/
structure State where
  /-- clocks since reset (R105) -/
  clk : Nat
  /-- the model's own: how many free values have been drawn (log 2) -/
  fresh : Nat
  /-- the model's own: the next number for what is numbered by the model -/
  nextKey : Nat
  /-- pools that have issued in this clock, by 8 core + pool (R85; log 1) -/
  issued : List Nat
  /-- every pool has issued that could in this clock: what is left of it comes after its issues (R30, R196, R294) -/
  closed : Bool
  /-- the PF's writes of device registers in this clock (R318) -/
  pfWrites : List PfWrite
  /-- a PARTCFG value that holds from the next clock (R323) -/
  cfgNext : Option Word
  /-- a rebinding in progress: by quarter, where its partition has changed, the broadcast words that the partition's lowest quarter
  held when it began (R323) -/
  rebind : List (Option (NMap Word))
  /-- quarters whose partition has changed since the last rebinding began (R323) -/
  unbound : List Nat
  /-- the model's own: steps to come (log 3) -/
  agenda : List Due
  /-- all memory, by place (log 4) -/
  mem : List Host.Cell
  /-- control registers that no longer hold their reset value, by partition and number (R298) -/
  csr : NMap Word
  /-- 512-byte blocks that are uncorrectable or poisoned (R152) -/
  bad : NMap Bool
  /-- L2 lines by sector, APC and PA / 128, with the dirty mask (R147) -/
  l2 : NMap (BitVec 1024 × BitVec 128)
  /-- beams by 64 core + number -/
  beams : NMap Beam
  blocks : NMap Block
  gangs : NMap Gang
  grids : NMap Grid
  cores : NMap Core
  clusters : NMap Cluster
  /-- queues by number (R64) -/
  queues : NMap QueueRun
  /-- acceptance slots in use: by 2 part + slot, the queue whose packet it accepts (R68) -/
  accepting : NMap Nat
  /-- bins by 256 sector + index: a channel number of the quarter, or 128 + the quarter (R177) -/
  bins : NMap Bin
  /-- apply engines by 32 stack + channel (R180) -/
  applies : NMap Apply
  commits : NMap Commit
  /-- save-pool granules in use, by partition: first and count (R307) -/
  pool : NMap (List (Nat × Nat))
  flash : NMap FlashRun
  /-- bytes of the flash namespaces that have been written, by 2^80 namespace + byte; an unlisted one is free (log 11) -/
  flashMem : NMap Byte
  /-- decode requests waiting or running, by quarter (R208) -/
  decodeQ : NMap (List EngineOp)
  decoding : NMap Bool
  /-- timestamps of .sc accesses by line (R279) -/
  scLines : NMap Nat
  /-- what beams have written to lines, by place of the line, the last first (R283) -/
  aliased : NMap (List Alias)
  /-- pod devices that cannot be reached (R317) -/
  down : List Nat
  sent : List Sent
  deriving DecidableEq, Repr

/-- A core after reset. -/
def Core.reset : Core :=
  { cstore := [], clen := [], slots := [], handles := [], were := [], locks := [], copies := [], matrixQ := [], matrixOp := none,
    ruleQ := [], ruleOp := none, ruleTab := [], ruleOwner := none, tlb := [], walks := [], told := [], l1 := [],
    scaleCache := [], icache := [], log := [], nextSeq := 0, seqLo := 0, touched := [], fullBits := [], hw := [], heldBeams := [],
    lastGrid := none, lamport := 0 }

/-- The device right after reset (R324): nothing resident, every register at its reset value, memory listing nothing. -/
def State.reset : State :=
  { clk := 0, fresh := 0, nextKey := 1, issued := [], closed := false, pfWrites := [], cfgNext := none, rebind := [], unbound := [], agenda := [], mem := [], csr := [], bad := [], l2 := [],
    beams := [], blocks := [], gangs := [], grids := [], cores := [], clusters := [], queues := [], accepting := [],
    bins := [], applies := [], commits := [], pool := [], flash := [], flashMem := [], decodeQ := [], decoding := [], scLines := [], aliased := [],
    down := [], sent := [] }

/-- Why the machine stops. -/
inductive Fault where
  /-- raised by every encoded instruction that is asked for when no run is selected to issue (R85); safe: the machine's
  own step never asks so -/
  | noRun
  deriving DecidableEq, Repr

/-- Why an instruction has no meaning. -/
inductive Refusal where
  /-- raised by an arm of `exec` that has no meaning yet; safe -/
  | notModelled (mnemonic : String)
  deriving DecidableEq, Repr

end Sys2Proof.Machine
end

