-- ==== Sys2Proof/Machine/Csr.lean ====
section
/-!
DEFINITION. The control registers: their numbers, reset values, writable bits and owners (R64, R142, R154, R181, R182,
R191, R203, R285, R288, R295, R298, R316-R322), how they are stored and read, and the partitions they define.
-/
namespace Sys2Proof.Machine

open Sys2Proof

/-- Whose a control register is (R298, R318). -/
inductive CsrOwner where
  /-- one per partition -/
  | partition
  /-- a device register: written from MGR's partition (R318) -/
  | device
  /-- MILVq, of the partition that holds quarter q (R320) -/
  | quarter (q : Nat)
  /-- DBGHALT, of the partition that holds the core (R295) -/
  | core (c : Nat)
  /-- a queue's register, of the partition that owns the queue (R64, R322) -/
  | queue (q : Nat)
  deriving DecidableEq, Repr

/-- The owner of a control register; `none` where the number names none. -/
def csrOwner (n : Nat) : Option CsrOwner :=
  if n = 0x100 ∨ n = 0x101 ∨ n = 0x200 ∨ n = 0x201 ∨ (0x204 ≤ n ∧ n ≤ 0x207) ∨ (0x300 ≤ n ∧ n ≤ 0x30A) ∨
      (0x310 ≤ n ∧ n ≤ 0x313) then some .partition
  else if 0x400 ≤ n ∧ n < 0x460 then some (.core ((n - 0x400) / 2))
  else if n = 0x500 ∨ n = 0x501 ∨ n = 0x520 ∨ n = 0x530 ∨ n = 0x540 ∨ (0x580 ≤ n ∧ n < 0x5C0) then some .device
  else if 0x510 ≤ n ∧ n < 0x514 then some (.quarter (n - 0x510))
  else if 0x800 ≤ n ∧ n < 0x880 ∧ n % 8 < 6 then some .device
  else if 0x3000 ≤ n ∧ n < 0x3400 then some .device
  else if 0x10000 ≤ n ∧ n < 0x11000 then some (.queue ((n - 0x10000) / 16))
  else none

/-- The default masks of HMASK0-5 (R154). -/
def hmaskReset : Nat → Word
  | 0 => 0x04001 | 1 => 0x08002 | 2 => 0x10004 | 3 => 0x20008 | 4 => 0x41000 | 5 => 0x82000 | _ => 0

/-- The value after reset (R324 and the tables of each register). -/
def csrReset (n : Nat) : Word :=
  if n = 0x200 then 0x1000
  else if n = 0x201 then 0x81
  else if n = 0x300 then 1
  else if n = 0x302 then 4096
  else if n = 0x303 then 8192
  else if n = 0x304 then 32
  else if n = 0x305 then 512
  else if n = 0x309 then 65536
  else if n = 0x510 then 0x25F00000
  else if n = 0x520 then 0xFF
  else if n = 0x530 then 0xE4
  else if 0x800 ≤ n ∧ n < 0x880 then hmaskReset (n % 8)
  else if 0x3000 ≤ n ∧ n < 0x3400 ∧ n % 16 = 6 then 0x09C00000
  else 0

/-- The bits a write replaces (Access RW); RW1C bits and side effects are the writer's. -/
def csrMask (n : Nat) : Word :=
  if n = 0x100 then 0xFFFFF001
  else if n = 0x101 then 0xFFFF
  else if n = 0x200 then 0xFFFF
  else if n = 0x201 then 0xFF
  else if n = 0x300 then 0xFFFFFF01
  else if n = 0x301 then 0xFFFF
  else if n = 0x302 ∨ n = 0x303 ∨ n = 0x308 then 0xFFFFFF
  else if n = 0x304 then 0xFF
  else if n = 0x305 then 0x7FF
  else if n = 0x306 then 0xFFFF0000
  else if n = 0x307 then 0xFFFF
  else if n = 0x309 then 0xFFFFFFFF
  else if 0x400 ≤ n ∧ n < 0x460 then 0xFFFFFFFF
  else if n = 0x500 then 0x3FF
  else if 0x510 ≤ n ∧ n < 0x514 then 0xF7FF07FF
  else if n = 0x520 then 0xFF
  else if n = 0x530 then 0xFF
  else if n = 0x540 then 0xFFFFFFFF
  else if 0x580 ≤ n ∧ n < 0x5C0 then 0x9F
  else if 0x800 ≤ n ∧ n < 0x880 then 0xFFFFF
  else if 0x3000 ≤ n ∧ n < 0x3400 then
    match n % 16 with
    | 1 | 3 | 10 => 0xFFFF
    | 6 => 0xFFF00FFF
    | 7 => 0xFFFF
    | 11 => 0xC1
    | 14 | 15 => 0
    | _ => 0xFFFFFFFF
  else if 0x10000 ≤ n ∧ n < 0x11000 then
    match n % 16 with
    | 0 | 1 | 4 => 0xFFFFFFFF
    | 2 => 0xF
    | 5 => 0x9
    | _ => 0
  else 0

/-- Where a register is stored: one per partition, or one for the device. -/
def csrKey (part n : Nat) : Nat :=
  match csrOwner n with
  | some .partition => part * 262144 + n
  | _ => n

/-- The stored bits of a register. -/
def csrGet (s : State) (part n : Nat) : Word := lookD s.csr (csrKey part n) (csrReset n)

/-- Stores a register whole. -/
def csrPut (s : State) (part n : Nat) (v : Word) : State := { s with csr := put s.csr (csrKey part n) v }

/-- The stored bits as a number. -/
def csrN (s : State) (part n : Nat) : Nat := (csrGet s part n).toNat

/-! ## Partitions -/

/-- The partition of a quarter, named by its lowest quarter (R318). -/
def partOfQuarter (s : State) (q : Nat) : Nat := fld (csrN s 0 0x500) (2 * q + 1) (2 * q)

/-- The quarter of a core (R2). -/
def quarterOf (core : Nat) : Nat := core / 12

/-- The partition of a core. -/
def partOfCore (s : State) (core : Nat) : Nat := partOfQuarter s (core / 12)

/-- The partition of a sector or cluster. -/
def partOfSector (s : State) (sec : Nat) : Nat := partOfQuarter s (sec / 3)

/-- Whether the die links carry traffic between two quarters, one way round the ring or the other (R1, R321). -/
def linkReach (s : State) (p q : Nat) : Bool :=
  let open_ := fun k => bit (csrN s 0 0x520) (k % 4)
  let up := (q + 4 - p) % 4
  (upTo up).all (fun i => open_ (p + i)) || (upTo ((4 - up) % 4)).all fun i => open_ (q + i)

/-- The partition that manages the device registers (R318). -/
def mgrPart (s : State) : Nat := partOfQuarter s (fld (csrN s 0 0x500) 9 8)

/-- The cores of a partition, ascending. -/
def coresOf (s : State) (part : Nat) : List Nat := (upTo 48).filter fun c => partOfCore s c == part

/-- The sectors of a partition, ascending. -/
def sectorsOf (s : State) (part : Nat) : List Nat := (upTo 12).filter fun c => partOfSector s c == part

/-- The partition that owns a queue (R322). -/
def partOfQueue (s : State) (q : Nat) : Nat := partOfQuarter s (fld (csrN s 0 0x530) (2 * (q / 64) + 1) (2 * (q / 64)))

/-- Control register number of register k of a queue (R64). -/
def lq (q k : Nat) : Nat := 0x10000 + 16 * q + k

/-- Control register number of register j of a flash queue pair (R203). -/
def fq (k j : Nat) : Nat := 0x3000 + 16 * k + j

/-- LQCTL.RUN: the grids of a queue that are accepted and not retired (R64). -/
def queueRunning (s : State) (q : Nat) : Nat := (s.grids.filter fun g => g.2.queue == q).length

/-- LQCTL.IDLE (R65). -/
def queueIdle (s : State) (q : Nat) : Bool :=
  csrGet s 0 (lq q 3) == csrGet s 0 (lq q 4) && queueRunning s q == 0 &&
    match look s.queues q with
    | none => true
    | some r => r.head.isNone && r.rewind.isNone

/-- FQCTL.IDLE (R203). -/
def flashIdle (s : State) (k : Nat) : Bool :=
  match look s.flash k with
  | none => true
  | some r => r.out.isEmpty

/-- What reading a register gives (R298): the stored bits with those that the device computes; RUN of LQCTL reads 255 where more
grids run than its 8 bits can say. DESIGN CHOICE (log 51). -/
def csrRead (s : State) (part n : Nat) : Word :=
  if n = 0x30A then 0
  else if 0x10000 ≤ n ∧ n < 0x11000 ∧ n % 16 = 5 then
    let q := (n - 0x10000) / 16
    csrGet s part n ||| BitVec.ofNat 32 (256 * (Nat.min (queueRunning s q) 255) + 2 * (queueIdle s q).toNat)
  else if 0x3000 ≤ n ∧ n < 0x3400 ∧ n % 16 = 11 then
    csrGet s part n ||| BitVec.ofNat 32 (2 * (flashIdle s ((n - 0x3000) / 16)).toNat)
  else csrGet s part n

/-- Whether a supervisor of a partition may name the register (R298, R318, R320, R322). -/
def csrMine (s : State) (part : Nat) (o : CsrOwner) : Bool :=
  match o with
  | .partition => true
  | .device => mgrPart s == part
  | .quarter q => partOfQuarter s q == part
  | .core c => partOfCore s c == part
  | .queue q => partOfQueue s q == part

end Sys2Proof.Machine
end

