-- ==== Sys2Proof/Machine/Phys.lean ====
section
/-!
DEFINITION. Physical memory and the caches: the map from physical addresses to places (R153-R155, R320), bytes of memory
(R9), the near tier, the home slice, the sector's local copies and L1 (R147-R150), and the blocks found uncorrectable
(R152). Memory is one list in canonical form; an unlisted byte reads 0 (log 4).
-/
namespace Sys2Proof.Machine

open Sys2Proof

/-! ## Memory as bytes -/

/-- What a byte reads that nothing has written (log 4). -/
def unwritten : Byte := 0

/-- The canonical form: places rise and no byte equals what an unlisted one reads. -/
def memWf (m : List Host.Cell) : Bool := rising m && m.all fun c => c.2 != unwritten

/-- The byte at a place. -/
def memGet (m : List Host.Cell) (k : Nat) : Byte := lookD m k unwritten

/-- Writes a byte, keeping the canonical form. -/
def memSet (m : List Host.Cell) (k : Nat) (v : Byte) : List Host.Cell :=
  if v == unwritten then del m k else put m k v

/-- n bytes from a place on. -/
def memBytes (m : List Host.Cell) (k : Nat) : Nat → List Byte
  | 0 => []
  | n + 1 => memGet m k :: memBytes m (k + 1) n

/-- Writes bytes from a place on. -/
def memPut (m : List Host.Cell) (k : Nat) : List Byte → List Host.Cell
  | [] => m
  | b :: t => memPut (memSet m k b) (k + 1) t

/-- The places of boot memory (R315). -/
def bootBase : Nat := 2 ^ 64
/-- The places of a core's local memory (R3). -/
def localBase (core : Nat) : Nat := 2 * 2 ^ 64 + core * 4194304
/-- The places of host memory, by bus address (R141). -/
def hostBase : Nat := 3 * 2 ^ 64
/-- The places of pod peers' memory, by PA[45:0] (R141). -/
def podBase : Nat := 4 * 2 ^ 64
/-! ## Places of device memory -/

/-- The stacks a partition uses: 4, 8 or 16 (R320). -/
def milvStacks (v : Nat) : Nat := 4 * 2 ^ fld v 29 28

/-- The stack and slot of a physical address under a MILV value; `none` where it is not mapped (R320). -/
def milvPlace (v pa : Nat) : Option (Nat × Nat) :=
  let n := pa / 536870912
  let b := fld v 10 0
  let nst := milvStacks v
  if n < b then none
  else
    let t := n - b
    if t < fld v 26 16 ∧ t / nst ≤ 95 then some ((4 * fld v 31 30 + t % nst) % 16, t / nst) else none

/-- The MILV value of a partition. -/
def milvOf (s : State) (part : Nat) : Nat := csrN s 0 (0x510 + part)

/-- Whether a partition's map has the address (R320). -/
def mapped (s : State) (part pa : Nat) : Bool := (milvPlace (milvOf s part) pa).isSome

/-- The pseudo-channel of an address in a stack (R154). -/
def pseudoChannel (s : State) (stack pa : Nat) : Nat :=
  (upTo 6).foldl (fun acc k =>
    acc + 2 ^ k * (parity 20 ((pa / 512 % 1048576) &&& csrN s 0 (0x800 + 8 * stack + k))).toNat) 0

/-- The lowest set bit of a mask below 2^20, as a bit number. -/
def pivot (m : Nat) : Nat := ((upTo 20).find? (bit m)).getD 20

/-- g': the bits of PA[28:9] that are no pivots, in ascending order (R155). -/
def granule (s : State) (stack pa : Nat) : Nat :=
  let ps := (upTo 6).map fun k => pivot (csrN s 0 (0x800 + 8 * stack + k))
  ((upTo 20).foldl (fun (acc : Nat × Nat) i =>
    if ps.contains i then acc else (acc.1 + (bit (pa / 512) i).toNat * acc.2, acc.2 * 2)) (0, 1)).1

/-- The place of the 512-byte block that holds a device address: stack, pseudo-channel, slot and granule (R153-R155). -/
def blockPlace (s : State) (part pa : Nat) : Option Nat :=
  match milvPlace (milvOf s part) pa with
  | none => none
  | some (stack, slot) =>
    some ((((stack * 64 + pseudoChannel s stack pa) * 96 + slot) * 16384 + granule s stack pa) * 512)

/-- The place of a byte of device memory. -/
def bytePlace (s : State) (part pa : Nat) : Option Nat :=
  (blockPlace s part pa).map fun k => k + pa % 512

/-- The channel, by 32 stack + channel, of a device address (R154). -/
def channelOf (s : State) (part pa : Nat) : Nat :=
  match milvPlace (milvOf s part) pa with
  | none => 0
  | some (stack, _) => stack * 32 + pseudoChannel s stack pa / 2

/-- n bytes of device memory at the near tier; they lie in one 512-byte block or their blocks follow on. An unmapped
address reads as an unwritten one. -/
def nearRead (s : State) (part pa : Nat) : Nat → List Byte
  | 0 => []
  | n + 1 =>
    (match bytePlace s part pa with
      | some k => memGet s.mem k
      | none => unwritten) :: nearRead s part (pa + 1) n

/-- Aligned bytes inside one block at the near tier, through one place. -/
def nearBlockRead (s : State) (part pa n : Nat) : List Byte :=
  match bytePlace s part pa with
  | some k => memBytes s.mem k n
  | none => List.replicate n unwritten

/-- Writes bytes inside one block at the near tier. -/
def nearBlockWrite (s : State) (part pa : Nat) (l : List Byte) : State :=
  match bytePlace s part pa with
  | some k => { s with mem := memPut s.mem k l }
  | none => s

/-! ## Uncorrectable blocks (R152) -/

/-- Whether a read of the block of a device address reports UncorrectableData. -/
def blockBad (s : State) (part pa : Nat) : Bool :=
  match blockPlace s part pa with
  | some k => (look s.bad (k / 512)).isSome
  | none => false

/-- Whether the block is marked poisoned, as against found uncorrectable. -/
def blockPoisoned (s : State) (part pa : Nat) : Bool :=
  match blockPlace s part pa with
  | some k => lookD s.bad (k / 512) false
  | none => false

/-- Marks the block of an address poisoned. -/
def poison (s : State) (part pa : Nat) : State :=
  match blockPlace s part pa with
  | some k => { s with bad := put s.bad (k / 512) true }
  | none => s

/-- A write at the near tier: a partial write to a bad block completes and poisons it; a full one heals it (R152). -/
def nearWrite (s : State) (part pa : Nat) (l : List Byte) : State :=
  let s1 := nearBlockWrite s part pa l
  match blockPlace s part pa with
  | none => s1
  | some k =>
    if l.length = 512 then { s1 with bad := del s1.bad (k / 512) }
    else if (look s1.bad (k / 512)).isSome then { s1 with bad := put s1.bad (k / 512) true }
    else s1

/-! ## Home slice and local copies (R147, R148) -/

/-- The key of an L2 line: sector, APC and line number. -/
def l2Key (sector apc pa : Nat) : Nat := (sector * 4 + apc) * 2 ^ 41 + pa / 128

/-- The sector of a device line's home slice (R147). -/
def homeSector (s : State) (part pa : Nat) : Nat :=
  match milvPlace (milvOf s part) pa with
  | none => 0
  | some (stack, _) => 3 * (stack / 4) + pa / 128 % 144 / 48

/-- The dirty mask of n bytes at place i. -/
def dirtyMask (i n : Nat) : BitVec 128 := BitVec.ofNat 128 ((2 ^ n - 1) * 2 ^ i)

/-- Bytes at the home slice: from its copy of the line, else from the near tier. The bytes lie in one line. -/
def homeRead (s : State) (part pa n : Nat) : List Byte :=
  match look s.l2 (l2Key (homeSector s part pa) 0 pa) with
  | some (x, _) => lineBytes x (pa % 128) n
  | none => nearBlockRead s part pa n

/-- A write at the home slice: into its copy where it holds one, else on to the near tier. -/
def homeWrite (s : State) (part pa : Nat) (l : List Byte) : State :=
  let k := l2Key (homeSector s part pa) 0 pa
  match look s.l2 k with
  | some (x, d) => { s with l2 := put s.l2 k (linePut x (pa % 128) l, d ||| dirtyMask (pa % 128) l.length) }
  | none => nearWrite s part pa l

/-- The runs of dirty bytes of a line, each as place and bytes. -/
def dirtyRuns (x : BitVec 1024) (d : BitVec 128) : List (Nat × List Byte) :=
  if d == BitVec.allOnes 128 then [(0, lineBytes x 0 128)]
  else ((upTo 128).filter fun i => d.getLsbD i).map fun i => (i, [lineByte x i])

/-- Writes the dirty bytes of a line one run after another by the given path. -/
def writeRuns (w : State → Nat → List Byte → State) (s : State) (base : Nat) (r : List (Nat × List Byte)) : State :=
  r.foldl (fun s p => w s (base + p.1) p.2) s

/-- The home slice writes back its dirty bytes of a line and drops its copy (R148). -/
def homeDrop (s : State) (part pa : Nat) : State :=
  let k := l2Key (homeSector s part pa) 0 pa
  match look s.l2 k with
  | some (x, d) =>
    let s1 := writeRuns (fun s a l => nearWrite s part a l) s (pa / 128 * 128) (dirtyRuns x d)
    { s1 with l2 := del s1.l2 k }
  | none => s

/-- The home slice takes whole 512-byte blocks: its copies of their lines go, and the block is written at once (R148, R152). -/
def blockWrite (s : State) (part pa : Nat) (l : List Byte) : State :=
  nearWrite
    { s with
      l2 := (upTo 4).foldl (fun m i => del m (l2Key (homeSector s part (pa + 128 * i)) 0 (pa + 128 * i))) s.l2 }
    part pa l

/-- Bytes of host or pod memory. -/
def outerBase (apc : Nat) : Nat := if apc = 1 then hostBase else podBase

/-- PODCFG.PPART (R316). -/
def podPart (s : State) : Nat := fld (csrN s 0 0x540) 7 6

/-- Whether an address behind APC 2 names this device, whose own memory it then reaches (R141, R283). -/
def ownPod (s : State) (apc pa : Nat) : Bool := apc == 2 && fld pa 45 40 == fld (csrN s 0 0x540) 5 0

/-- Whether pod device d may be reached from a partition (R317). -/
def podMember (s : State) (part d : Nat) : Bool :=
  bit (csrN s 0 (0x580 + d)) 7 && fld (csrN s 0 0x540) 7 6 == part

/-- The pod link by which traffic for device d leaves: PODRTd.LINK, where PODCFG enables it (R316, R317). -/
def podLink (s : State) (d : Nat) : Option Nat :=
  let r := csrN s 0 (0x580 + d)
  if bit r 7 && bit (csrN s 0 0x540) (8 + fld r 4 0) then some (fld r 4 0) else none

/-- Whether pod device d can be reached now (R317). -/
def podReach (s : State) (d : Nat) : Bool := (podLink s d).isSome && !s.down.contains d

/-- Whether traffic of a quarter gets to where a physical address lives: over die links that are open to the quarter of the line's
home (R147, R321), or by the pod link of its device, from the partition that the links serve (R316, R317). Traffic to the host or
the pod crosses no die link that the spec names. DEDUCED (log 50). -/
def pathOpen (s : State) (q part apc pa : Nat) : Bool :=
  match apc with
  | 0 => linkReach s q (homeSector s part pa / 3)
  | 1 => true
  | 2 =>
    if ownPod s 2 pa then linkReach s q (homeSector s (podPart s) (pa % 2 ^ 40) / 3)
    else podMember s part (fld pa 45 40) && podReach s (fld pa 45 40)
  | _ => fld pa 47 40 != 2 || linkReach s q (homeSector s part (pa % 2 ^ 40) / 3)

/-- Bytes behind APC 1 or 2. A leaf of APC 2 with a bit of PA[47:46] set, which R141 says are zero and R140 does not call malformed, names
a place of its own beyond the peer's. DESIGN CHOICE (log 42). -/
def outerRead (s : State) (apc pa n : Nat) : List Byte :=
  if ownPod s apc pa then homeRead s (podPart s) (pa % 2 ^ 40) n else memBytes s.mem (outerBase apc + pa) n

/-- A write behind APC 1 or 2. -/
def outerWrite (s : State) (apc pa : Nat) (l : List Byte) : State :=
  if ownPod s apc pa then homeWrite s (podPart s) (pa % 2 ^ 40) l
  else { s with mem := memPut s.mem (outerBase apc + pa) l }

/-- A local copy's dirty bytes go to its home slice, or out to the host or the peer (R147, R150). -/
def copyBack (s : State) (part apc pa : Nat) (x : BitVec 1024) (d : BitVec 128) : State :=
  writeRuns (fun s a l => if apc = 0 then homeWrite s part a l else outerWrite s apc a l) s (pa / 128 * 128)
    (dirtyRuns x d)

/-- Whether a sector's entry for a line is a local copy, not the home copy (R147). -/
def isLocalCopy (s : State) (sector apc pa : Nat) : Bool :=
  apc != 0 || homeSector s (partOfSector s sector) pa != sector

/-- The sector, APC and address of an L2 key. -/
def l2Of (k : Nat) : Nat × Nat × Nat := (k / 2 ^ 43, k / 2 ^ 41 % 4, k % 2 ^ 41 * 128)

/-- Whether a line is a local copy with dirty bytes that cannot travel to where it lives now (R317, R321). -/
def stuck (s : State) (e : Nat × (BitVec 1024 × BitVec 128)) : Bool :=
  let (sec, apc, pa) := l2Of e.1
  isLocalCopy s sec apc pa && e.2.2 != 0 && !pathOpen s (sec / 3) (partOfSector s sec) apc pa

/-- One L2 line goes: its dirty bytes go to where the line lives (R147, R148); where they cannot travel the line stays (R321). -/
def evictL2 (s : State) (key : Nat) : State :=
  let (sec, apc, pa) := l2Of key
  match look s.l2 key with
  | none => s
  | some (x, d) =>
    if stuck s (key, x, d) then s
    else if isLocalCopy s sec apc pa then
      let s1 := copyBack s (partOfSector s sec) apc pa x d
      { s1 with l2 := del s1.l2 key }
    else homeDrop s (partOfSector s sec) pa

/-- Whether two lines lie in one slice of a sector: h mod 48 is the line number mod 48 (R147). -/
def sameSlice (j k : Nat) : Bool := j / 2 ^ 43 == k / 2 ^ 43 && j % 2 ^ 41 % 48 == k % 2 ^ 41 % 48

/-- A slice takes a line in; of the 6,144 lines that its 768 KiB hold, one that the spec does not name goes where it is
full (R7, R147, log 7); where none can go the slice does not keep the line. -/
def l2Fill (s : State) (k : Nat) (x : BitVec 1024) : State :=
  let mates := s.l2.filter fun e => sameSlice e.1 k
  let out := mates.filter fun e => !stuck s e
  if mates.length < 6144 then { s with l2 := put s.l2 k (x, 0) }
  else if out.isEmpty then s
  else
    let s1 := evictL2 s ((out.map fun e => e.1).getD (Config.victim s.fresh k % out.length) 0)
    { s1 with l2 := put s1.l2 k (x, 0) }

/-- Whether bringing a line of device memory into a slice would read an uncorrectable block (R152). -/
def fillBad (s : State) (part apc pa : Nat) : Bool :=
  apc == 0 && blockBad s part pa && (look s.l2 (l2Key (homeSector s part pa) 0 pa)).isNone

/-- Bytes as a sector's slice gives them, the line brought in where the sector has none and its block can be read (R147,
R152, R161). -/
def sliceRead (s : State) (sector apc pa n : Nat) : List Byte × State :=
  let part := partOfSector s sector
  let k := l2Key sector apc pa
  match look s.l2 k with
  | some (x, _) => (lineBytes x (pa % 128) n, s)
  | none =>
    let base := pa / 128 * 128
    let l := if apc = 0 then homeRead s part base 128 else outerRead s apc base 128
    let x := lineOf l
    (lineBytes x (pa % 128) n, if fillBad s part apc pa then s else l2Fill s k x)

/-- A write into a sector's slice: the copy takes the bytes as dirty; a line the sector lacks is brought in first. Where the slice keeps
none, the bytes go on to where the line lives: to a block that cannot be read, which they poison (R152), among others. -/
def sliceWrite (s : State) (sector apc pa : Nat) (l : List Byte) : State :=
  let s1 := (sliceRead s sector apc pa 1).2
  let k := l2Key sector apc pa
  match look s1.l2 k with
  | some (x, d) => { s1 with l2 := put s1.l2 k (linePut x (pa % 128) l, d ||| dirtyMask (pa % 128) l.length) }
  | none => if apc = 0 then homeWrite s1 (partOfSector s sector) pa l else outerWrite s1 apc pa l

/-- A write through to the home slice; the sector's local copy takes the bytes and stays clean there (R161). -/
def throughWrite (s : State) (sector pa : Nat) (l : List Byte) : State :=
  let part := partOfSector s sector
  let s1 := homeWrite s part pa l
  if isLocalCopy s sector 0 pa then
    let k := l2Key sector 0 pa
    match look s1.l2 k with
    | some (x, d) =>
      { s1 with l2 := put s1.l2 k (linePut x (pa % 128) l, d &&& ~~~ (dirtyMask (pa % 128) l.length)) }
    | none => s1
  else s1

/-- A write through to the host or a peer; the copy of the writer's sector, where it has one, takes the bytes and stays clean
there (R150, R161). -/
def outerThrough (s : State) (sector : Option Nat) (apc pa : Nat) (l : List Byte) : State :=
  let s1 := outerWrite s apc pa l
  match sector with
  | none => s1
  | some sec =>
    let k := l2Key sec apc pa
    match look s1.l2 k with
    | some (x, d) =>
      { s1 with l2 := put s1.l2 k (linePut x (pa % 128) l, d &&& ~~~ (dirtyMask (pa % 128) l.length)) }
    | none => s1

/-- Writes back the local copies of a sector that `which` names by APC; `dropIt` also invalidates them (R147, R150). What cannot
travel stays: an instruction that releases or acquires waits for it first (R317, R321, log 50). -/
def syncSector (s : State) (sector : Nat) (which : Nat → Bool) (dropIt : Bool) : State :=
  s.l2.foldl (fun s e =>
    let (sec, apc, pa) := l2Of e.1
    if sec == sector && which apc && isLocalCopy s sec apc pa then
      match look s.l2 e.1 with
      | some (x, d) =>
        if stuck s (e.1, x, d) then s
        else
          let s1 := copyBack s (partOfSector s sec) apc pa x d
          if dropIt then { s1 with l2 := del s1.l2 e.1 } else { s1 with l2 := put s1.l2 e.1 (x, 0) }
      | none => s
    else s) s

/-- Which local copies a release or acquire of a scope concerns. R150 names .pod and .sys for APC 2 and APC 1; R273 holds
for their pages at .dev too, and a copy may leave a slice at any time, so all of them go from .dev on. DEDUCED (log 47). -/
def scopeApcs (sc : Scope) (_apc : Nat) : Bool :=
  match sc with
  | .bm | .blk | .gang => false
  | .dev | .pod | .sys => true

/-- Whether the write-back that a release or acquire of a scope makes in a sector can travel (R147, R317, R321). -/
def syncOpen (s : State) (sector : Nat) (sc : Scope) : Bool :=
  match sc with
  | .bm | .blk | .gang => true
  | .dev | .pod | .sys => s.l2.all fun e => (l2Of e.1).1 != sector || !stuck s e

/-- Write-back of a release by a core of a sector (R147). -/
def releaseCaches (s : State) (sector : Nat) (sc : Scope) : State :=
  match sc with
  | .bm | .blk | .gang => s
  | .dev | .pod | .sys => syncSector s sector (scopeApcs sc) false

/-- A core's own part. -/
def coreOf (s : State) (c : Nat) : Core := lookD s.cores c Core.reset

/-- Changes a core's own part. -/
def setCore (s : State) (c : Nat) (f : Core → Core) : State := { s with cores := put s.cores c (f (coreOf s c)) }

/-- Invalidation of an acquire by a core: L1 lines but constant ones from .blk on, local copies from .dev on (R147), and
the scale cache from .blk on (R219). -/
def acquireCaches (s : State) (core : Nat) (sc : Scope) : State :=
  match sc with
  | .bm => s
  | .blk | .gang => setCore s core fun c => { c with l1 := c.l1.filter fun e => e.2.2, scaleCache := [] }
  | .dev | .pod | .sys =>
    syncSector (setCore s core fun c => { c with l1 := c.l1.filter fun e => e.2.2, scaleCache := [] }) (core / 4)
      (scopeApcs sc) true

/-! ## L1 (R147, R163) -/

/-- A cache takes a line in: of the `size` that may lie together in a set, where these are as many, one that the spec does not name
goes (R3, log 7). -/
def cacheFill {α : Type} (n size : Nat) (set : Nat → Nat) (m : NMap α) (k : Nat) (x : α) : NMap α :=
  let mates := m.filter fun e => set e.1 == set k
  put (if mates.length < size then m else del m ((mates.map fun e => e.1).getD (Config.victim n k % mates.length) 0)) k x

/-- The set of an L1 line: 320 KiB of 128-byte lines in 20 ways are 128 sets (R3); that the low bits of the line's number index them
is a DESIGN CHOICE (log 7). -/
def l1Set (k : Nat) : Nat := k % 128

/-- L1 takes a line in: 20 ways of 128 sets (R3, R147). -/
def l1Fill (s : State) (core k : Nat) (x : BitVec 1024) (const : Bool) : State :=
  setCore s core fun c => { c with l1 := cacheFill s.fresh 20 l1Set c.l1 k (x, const) }

/-- Bytes by a load of .bm or .blk scope: L1, then the slice; L1 keeps the line, which LDC marks constant where it fills it
(R161, R163). -/
def l1Read (s : State) (core pa n : Nat) (const : Bool) : List Byte × State :=
  match look (coreOf s core).l1 (pa / 128) with
  | some (x, _) => (lineBytes x (pa % 128) n, s)
  | none =>
    let (l, s1) := sliceRead s (core / 4) 0 (pa / 128 * 128) 128
    let x := lineOf l
    (lineBytes x (pa % 128) n, if fillBad s (partOfCore s core) 0 pa && (look s.l2 (l2Key (core / 4) 0 pa)).isNone then s1 else l1Fill s1 core (pa / 128) x const)

/-- A store updates the bytes of an L1 line that is present; a constant line goes (R147, R163). -/
def l1Update (s : State) (core pa : Nat) (l : List Byte) : State :=
  match look (coreOf s core).l1 (pa / 128) with
  | some (x, k) =>
    setCore s core fun c =>
      { c with l1 := if k then del c.l1 (pa / 128) else put c.l1 (pa / 128) (linePut x (pa % 128) l, false) }
  | none => s

/-- The core's own store removes a constant line, whatever the page it goes through (R163). -/
def l1DropConst (s : State) (core pa : Nat) : State :=
  setCore s core fun c => { c with l1 := if ((look c.l1 (pa / 128)).map fun x => x.2).getD false then del c.l1 (pa / 128) else c.l1 }

/-- Drops a line from a core's L1. -/
def l1Drop (s : State) (core pa : Nat) : State := setCore s core fun c => { c with l1 := del c.l1 (pa / 128) }

/-! ## Whole ranges through the home slice -/

/-- Bytes of device memory through the home slice, line by line; `fuel` bounds the lines. -/
def homeRange (s : State) (part : Nat) : Nat → Nat → Nat → List Byte
  | 0, _, _ => []
  | fuel + 1, pa, n =>
    if n = 0 then []
    else
      let k := Nat.min n (128 - pa % 128)
      homeRead s part pa k ++ homeRange s part fuel (pa + k) (n - k)

/-- Writes bytes of device memory through the home slice: whole blocks at once (R152), the rest line by line. -/
def homePut (s : State) (part : Nat) : Nat → Nat → List Byte → State
  | 0, _, _ => s
  | fuel + 1, pa, l =>
    if l.isEmpty then s
    else if pa % 512 = 0 ∧ 512 ≤ l.length then
      homePut (blockWrite s part pa (l.take 512)) part fuel (pa + 512) (l.drop 512)
    else
      let k := 128 - pa % 128
      homePut (homeWrite s part pa (l.take k)) part fuel (pa + k) (l.drop k)

end Sys2Proof.Machine
end

