-- ==== Sys2Proof/Machine/Xlate.lean ====
section
/-!
DEFINITION. Translation (R139-R144): the four-level walk, the checks in their order, the TLB, and reads and writes of a
translated address at device scope, as trap entry and the device scheduler make them.
-/
namespace Sys2Proof.Machine

open Sys2Proof

/-- A translated address (R141): PA with its APC, and the leaf's C and DEF. -/
structure Xl where
  pa : Nat
  apc : Nat
  c : Bool
  d : Bool
  w : Bool
  deriving DecidableEq, Repr

/-- The trap code of a CAUSE (R144). -/
def causeCode (cause : Nat) : Nat := if cause = 0 ∨ cause = 4 then 0x07 else 0x08

/-- VA[63:48] all equal VA[47] (R139). -/
def canonical (va : Nat) : Bool := va / 2 ^ 47 == 0 || va / 2 ^ 47 == 2 ^ 17 - 1

/-- The fields of a table entry (R140). -/
def pteP (e : Nat) : Bool := bit e 48
def pteLeaf (e : Nat) : Bool := bit e 49
def pteW (e : Nat) : Bool := bit e 50
def pteC (e : Nat) : Bool := bit e 51
def pteDef (e : Nat) : Bool := bit e 52
def pteU (e : Nat) : Bool := bit e 53
def pteApc (e : Nat) : Nat := fld e 55 54
def pteAddr (e : Nat) : Nat := fld e 47 8 * 256

/-- 768 GiB (R140). -/
def devLimit : Nat := 768 * 2 ^ 30

/-- Bits of the page that a leaf of this level maps (R139). -/
def pageBits : Nat → Nat
  | 0 => 16
  | 1 => 21
  | _ => 30

/-- The index of a level (R139). -/
def vaIndex (va : Nat) : Nat → Nat
  | 0 => fld va 20 16
  | 1 => fld va 29 21
  | 2 => fld va 38 30
  | _ => fld va 47 39

/-- R140: an entry with P = 1 at this level is malformed. `pa` is the address that the access would reach through it. -/
def pteBad (s : State) (part e level pa : Nat) : Bool :=
  let a := pteAddr e
  fld e 63 56 != 0 || fld e 7 0 != 0 || (pteLeaf e && level == 3) || (!pteLeaf e && level == 0) ||
    (if pteLeaf e then a % 2 ^ pageBits level != 0 else a % (if level = 1 then 256 else 4096) != 0) ||
    (!pteLeaf e && (pteApc e != 0 || pteDef e || pteC e)) ||
    (pteDef e && pteApc e != 0) ||
    (pteApc e == 0 && (decide (devLimit ≤ a) || !mapped s part a || (pteLeaf e && !mapped s part pa)))

/-- The walk from a level down, with the rights gathered so far (R143, R144): a leaf, the first failing check, or an entry that cannot
be read, be it that its block is uncorrectable (R152) or that no open die link leads from the walker's quarter to its home (R321). The
device scheduler has no quarter that the spec names (log 50). -/
def walkFrom (s : State) (q : Option Nat) (part va : Nat) : Nat → Nat → Bool → Bool → Walked
  | 0, _, _, _ => .fault ⟨4, 0⟩
  | fuel + 1, table, u, w =>
    let level := fuel
    let at_ := table + 8 * vaIndex va level
    if (q.map fun x => pathOpen s x part 0 at_) = some false then .shut
    else if fillBad s part 0 at_ then .bad (at_ / 512 * 512)
    else
      let e := leNat (homeRead s part at_ 8)
      if !pteP e then .fault ⟨0, level⟩
      else
        let b := pageBits level
        if pteBad s part e level (pteAddr e + va % 2 ^ b) then .fault ⟨4, level⟩
        else if pteLeaf e then
          .leaf ⟨va / 2 ^ b, b, pteAddr e, pteApc e, u && pteU e, w && pteW e, pteC e, pteDef e, level⟩
        else walkFrom s q part va fuel (pteAddr e) (u && pteU e) (w && pteW e)

/-- The root table's address (R142). -/
def rootOf (s : State) (part : Nat) : Nat := csrN s part 0x100 / 4096 * 4096 + csrN s part 0x101 * 2 ^ 32

/-- TEN (R142). -/
def tenOf (s : State) (part : Nat) : Bool := bit (csrN s part 0x100) 0

/-- A walk of the tables by a walker of a quarter, or by the device scheduler (R142-R144). -/
def walkTables (s : State) (q : Option Nat) (part va : Nat) : Walked :=
  let r := rootOf s part
  if devLimit ≤ r ∨ mapped s part r = false then .fault ⟨4, 3⟩ else walkFrom s q part va 4 r true true

/-- Checks 4 and 5 of R144 on a leaf, and the address that results. -/
def applyLeaf (s : State) (part : Nat) (e : TlbEntry) (va : Nat) (sup write : Bool) : Except XFault Xl :=
  let pa := e.base + va % 2 ^ e.bits
  if e.apc = 0 ∧ mapped s part pa = false then .error ⟨4, e.level⟩
  else if !e.u && !sup then .error ⟨2, e.level⟩
  else if write && !e.w then .error ⟨1, e.level⟩
  else .ok ⟨pa, e.apc, e.c, e.d, e.w⟩

/-- TEN = 0: the address is used as it stands (R142). -/
def direct (s : State) (part va : Nat) (sup : Bool) : Except XFault Xl :=
  if devLimit ≤ va then .error ⟨3, 3⟩
  else if mapped s part va = false then .error ⟨4, 3⟩
  else if !sup then .error ⟨2, 3⟩
  else .ok ⟨va, 0, true, false, true⟩

/-- The translation that a TLB holds for an address (R143). -/
def tlbHit (t : List TlbEntry) (va : Nat) : Option TlbEntry := t.find? fun e => va / 2 ^ e.bits == e.page

/-- What a translation gives at once (R143). -/
inductive Look where
  | hit (x : Xl)
  | fail (f : XFault)
  /-- a table entry in a block that cannot be read, at this address (R152) -/
  | bad (pa : Nat)
  /-- a table entry that no traffic reaches now (R321) -/
  | shut
  /-- neither the TLB nor a finished walk has it -/
  | miss
  deriving DecidableEq, Repr

/-- What a leaf gives an access, by checks 4 and 5 of R144. -/
def leafLook (s : State) (part : Nat) (e : TlbEntry) (va : Nat) (sup write : Bool) : Look :=
  match applyLeaf s part e va sup write with
  | .ok x => .hit x
  | .error f => .fail f

/-- What the end of a walk gives an access. -/
def walkedLook (s : State) (part : Nat) (w : Walked) (va : Nat) (sup write : Bool) : Look :=
  match w with
  | .leaf e => leafLook s part e va sup write
  | .fault f => .fail f
  | .bad pa => .bad pa
  | .shut => .shut

/-- Translation without a walk: the direct map, the canonical check, or the TLB (R142-R144). -/
def lookup (s : State) (core va : Nat) (sup write : Bool) : Look :=
  let part := partOfCore s core
  if tenOf s part = false then
    match direct s part va sup with
    | .ok x => .hit x
    | .error f => .fail f
  else if canonical va = false then .fail ⟨3, 3⟩
  else
    match tlbHit (coreOf s core).tlb va with
    | some e => leafLook s part e va sup write
    | none => .miss

/-- What a finished walk has told of the page of an address. -/
def toldHit (l : List Told) (va : Nat) : Option Walked :=
  (l.find? fun t => match t.found with
    | .leaf e => va / 2 ^ e.bits == e.page
    | .fault _ | .bad _ | .shut => va / 65536 == t.va / 65536).map fun t => t.found

/-- Translation through the TLB and what finished walks have told (R90, R143). -/
def lookTold (s : State) (core : Nat) (l : List Told) (va : Nat) (sup write : Bool) : Look :=
  match lookup s core va sup write with
  | .miss =>
    match toldHit l va with
    | some w => walkedLook s (partOfCore s core) w va sup write
    | none => .miss
  | r => r

/-- A TLB keeps a translation; where it holds 512 others, one that the spec does not name makes room (R143, R338, log 7). -/
def tlbAdd (n : Nat) (t : List TlbEntry) (e : TlbEntry) : List TlbEntry :=
  let r := t.filter fun x => !(x.page == e.page && x.bits == e.bits)
  e :: if r.length < 512 then r else r.eraseIdx (Config.victim n e.page % 512)

/-- Translation by the device scheduler, in a partition's space with supervisor rights (R63, R67, R75); a table that cannot be read fails
it as a malformed one does (log 48). -/
def xlateSched (s : State) (part va : Nat) (write : Bool) : Except XFault Xl :=
  if tenOf s part = false then direct s part va true
  else if canonical va = false then .error ⟨3, 3⟩
  else
    match walkTables s none part va with
    | .leaf e => applyLeaf s part e va true write
    | .fault f => .error f
    | .bad _ | .shut => .error ⟨4, 0⟩

/-- Sends a message for pod device d on its way; where no link carries it, it does not leave (log 50). -/
def podSend (s : State) (d : Nat) (m : Nat → Sent) : State :=
  match podLink s d with
  | some l => { s with sent := s.sent ++ [m l] }
  | none => s

/-- Whether an access that goes past the sector's own copies would meet an uncorrectable block (R152). -/
def xlBad (s : State) (part : Nat) (x : Xl) : Bool :=
  match x.apc with
  | 0 => fillBad s part 0 x.pa
  | 1 => false
  | 2 => ownPod s 2 x.pa && fillBad s (podPart s) 0 (x.pa % 2 ^ 40)
  | _ => fld x.pa 47 40 == 2 && blockBad s part (x.pa % 2 ^ 40)

/-- Whether the pod device behind APC 2 may be named, and a link carries what goes to it (R316, R317). -/
def podCarries (s : State) (part pa : Nat) : Bool :=
  podMember s part (fld pa 45 40) && (ownPod s 2 pa || podReach s (fld pa 45 40))

/-! ## Page checks (R157, step 5) -/

/-- Whether an access through APC 3 is one that R315 does not refuse; `word` says that it is a 4-byte LD or ST. -/
def apertureOk (s : State) (core pa : Nat) (sup word : Bool) : Bool :=
  let part := partOfCore s core
  sup &&
    match fld pa 47 40 with
    | 0 => fld pa 39 22 == 0
    | 1 => word && fld pa 39 20 == 0 && ((csrOwner (fld pa 19 2)).map (csrMine s part)).getD false
    | 2 => mapped s part (pa % 2 ^ 40)
    | _ => false

/-- The checks on apertures and pod membership that every access shares (R315, R317). -/
def outerOk (s : State) (core : Nat) (sup word : Bool) (x : Xl) : Bool :=
  match x.apc with
  | 2 => podMember s (partOfCore s core) (fld x.pa 45 40)
  | 3 => apertureOk s core x.pa sup word
  | _ => true

/-! ## Accesses at device scope -/

/-- Bytes at a translated address at device scope, past every local copy; `none` where the access is refused, meets an
uncorrectable block, or goes to a pod device that no link carries it to (log 50). They lie in one line. -/
def devRead (s : State) (part : Nat) (x : Xl) (n : Nat) : Option (List Byte) :=
  if xlBad s part x then none
  else
    match x.apc with
    | 0 => some (if x.d then nearBlockRead s part x.pa n else homeRead s part x.pa n)
    | 1 => some (outerRead s 1 x.pa n)
    | 2 => if podCarries s part x.pa then some (outerRead s 2 x.pa n) else none
    | _ =>
      if fld x.pa 47 40 = 0 ∧ fld x.pa 39 22 = 0 then some (memBytes s.mem (bootBase + x.pa % 4194304) n)
      else if fld x.pa 47 40 = 2 ∧ mapped s part (x.pa % 2 ^ 40) = true then
        some (nearBlockRead s part (x.pa % 2 ^ 40) n)
      else none

/-- A write at a translated address at device scope; `none` where it is refused. It goes past the local copies; the copy of
the writer's own sector, where there is one, takes the bytes (R161). The bytes lie in one line. -/
def devWrite (s : State) (part : Nat) (sector : Option Nat) (x : Xl) (l : List Byte) : Option State :=
  match x.apc with
  | 0 =>
    match sector with
    | some sec => some (if x.d then homeWrite s part x.pa l else throughWrite s sec x.pa l)
    | none => some (homeWrite s part x.pa l)
  | 1 => some (outerThrough s sector 1 x.pa l)
  | 2 => if podCarries s part x.pa then some (outerThrough s sector 2 x.pa l) else none
  | _ =>
    if fld x.pa 47 40 = 0 ∧ fld x.pa 39 22 = 0 then
      some { s with mem := memPut s.mem (bootBase + x.pa % 4194304) l }
    else if fld x.pa 47 40 = 2 ∧ mapped s part (x.pa % 2 ^ 40) = true then
      some (nearWrite s part (x.pa % 2 ^ 40) l)
    else none

/-- Bytes of a supervisor's virtual range by a core at device scope, line by line, as trap entry and TRET read the vector table and a frame
(R287, R293); `none` where any of it fails, or its walk has not been made. `told` is what walks have found for the beam. -/
def supRead (s : State) (core : Nat) (told : List Told) : Nat → Nat → Nat → Option (List Byte)
  | 0, _, n => if n = 0 then some [] else none
  | fuel + 1, va, n =>
    if n = 0 then some []
    else
      match lookTold s core told va true false with
      | .fail _ | .bad _ | .shut | .miss => none
      | .hit x =>
        let k := Nat.min n (128 - va % 128)
        match devRead s (partOfCore s core) x k with
        | none => none
        | some l =>
          match supRead s core told fuel (va + k) (n - k) with
          | none => none
          | some t => some (l ++ t)

/-- Writes a supervisor's virtual range by a core at device scope; `none` where any of it fails, or its walk has not been made. -/
def supWrite (core : Nat) (told : List Told) : Nat → State → Nat → List Byte → Option State
  | 0, s, _, l => if l.isEmpty then some s else none
  | fuel + 1, s, va, l =>
    if l.isEmpty then some s
    else
      match lookTold s core told va true true with
      | .fail _ | .bad _ | .shut | .miss => none
      | .hit x =>
        let k := 128 - va % 128
        match devWrite (if x.apc = 0 then l1Update s core x.pa (l.take k) else s) (partOfCore s core) (some (core / 4)) x (l.take k) with
        | none => none
        | some s1 => supWrite core told fuel s1 (va + k) (l.drop k)

/-- Whether a supervisor's access to a frame or to the vector table can be made now: its walk has ended, and what it reads or writes can
travel (R143, R317, R321). Neither crosses a page of 64 KiB (R285, R287). -/
def supOpen (s : State) (core : Nat) (told : List Told) (va : Nat) (write : Bool) : Bool :=
  match lookTold s core told va true write with
  | .hit x => pathOpen s (quarterOf core) (partOfCore s core) x.apc x.pa
  | .shut | .miss => false
  | .fail _ | .bad _ => true

/-- The walk that such an access still needs. -/
def supWalk (s : State) (core : Nat) (told : List Told) (va : Nat) (write : Bool) : List Nat :=
  match lookTold s core told va true write with
  | .miss => [va]
  | .hit _ | .fail _ | .bad _ | .shut => []

/-- Whether what the device scheduler reads or writes at an address can travel to the pod device that it names (R317). -/
def schedOpen (s : State) (part va : Nat) : Bool :=
  match xlateSched s part va false with
  | .ok x => x.apc != 2 || !podMember s part (fld x.pa 45 40) || podCarries s part x.pa
  | .error _ => true

/-- Bytes of a partition's virtual range by the device scheduler (R63, R66). -/
def schedRead (s : State) (part : Nat) : Nat → Nat → Nat → Option (List Byte)
  | 0, _, n => if n = 0 then some [] else none
  | fuel + 1, va, n =>
    if n = 0 then some []
    else
      match xlateSched s part va false with
      | .error _ => none
      | .ok x =>
        let k := Nat.min n (128 - va % 128)
        match devRead s part x k with
        | none => none
        | some l =>
          match schedRead s part fuel (va + k) (n - k) with
          | none => none
          | some t => some (l ++ t)

/-- Writes a partition's virtual range by the device scheduler, through the home slice; on a page of APC 1 or 2 with C = 1, for
which the spec names no sector's slice, past every local copy (R63). DESIGN CHOICE (log 51). With
`strict` a write that meets an uncorrectable block is not made (R63); else it completes and poisons the block (R75, R152). -/
def schedWrite (part : Nat) (strict : Bool) : Nat → State → Nat → List Byte → Option State
  | 0, s, _, l => if l.isEmpty then some s else none
  | fuel + 1, s, va, l =>
    if l.isEmpty then some s
    else
      match xlateSched s part va true with
      | .error _ => none
      | .ok x =>
        if strict && xlBad s part x then none
        else
          let k := 128 - va % 128
          match devWrite s part none x (l.take k) with
          | none => none
          | some s2 => schedWrite part strict fuel s2 (va + k) (l.drop k)

end Sys2Proof.Machine
end

