-- ==== Sys2Proof/Machine/Base.lean ====
section
/-!
DEFINITION. Beams and lanes as instructions see them: registers, predicates, the run (R87, R88), the choice of the beam
that issues (R85), full/empty checks (R30, R31, R89), and the free values and the agenda.
-/
namespace Sys2Proof.Machine

open Sys2Proof

/-! ## The agenda and free values (log 2, log 3) -/

/-- Puts a step on the agenda, due after d clocks. -/
def post (s : State) (d : Nat) (i : Instr) : State := { s with agenda := s.agenda ++ [⟨s.clk + d, i⟩] }

/-- Puts a step on the agenda before whatever else is due. -/
def postFirst (s : State) (i : Instr) : State := { s with agenda := ⟨s.clk, i⟩ :: s.agenda }

/-- A free number below `bound`, or of any size where the bound is 0. -/
def drawn (s : State) (bound : Nat) : Nat :=
  if bound = 0 then Config.freeNat s.fresh else Config.freeNat s.fresh % bound

/-- One free value has been drawn. -/
def draw (s : State) : State := { s with fresh := s.fresh + 1 }

/-- Puts a step on the agenda, due after at least one clock and at most `bound`; without a bound where that is 0. -/
def postFree (s : State) (bound : Nat) (i : Instr) : State := draw (post s (1 + drawn s bound) i)

/-- The next number of the model's own, and the state that has given it out. -/
def newKey (s : State) : Nat × State := (s.nextKey, { s with nextKey := s.nextKey + 1 })

/-! ## Walks (R143) -/

/-- Whether a walk in flight is for the page of an address: for its 64 KiB, or for the larger page that the walk is to find. -/
def walkServes (s : State) (core va : Nat) (w : Walk) : Bool :=
  w.va / 65536 == va / 65536 ||
    match walkTables s (some (quarterOf core)) (partOfCore s core) w.va with
    | .leaf e => va / 2 ^ e.bits == e.page
    | .fault _ | .bad _ | .shut => false

/-- Starts the walks of a core that some addresses need, or joins those in flight, while slots are free (R143); `want` is who waits. -/
def startWalksFor (s : State) (core : Nat) (want : Want) (vas : List Nat) : State :=
  vas.foldl (fun s va =>
    let c := coreOf s core
    match c.walks.find? (walkServes s core va) with
    | some w =>
      if w.wants.contains want then s
      else setCore s core fun c => { c with walks := c.walks.map fun y => if y.id = w.id then { y with wants := y.wants ++ [want] } else y }
    | none =>
      if c.walks.length < 32 then
        let (id, s1) := newKey s
        postFree (setCore s1 core fun c => { c with walks := c.walks ++ [⟨id, va, [want]⟩] }) 0 (.pageWalkComplete core id)
      else s) s

/-- Starts the walks that a run of a beam needs. -/
def startWalks (s : State) (k : Nat) (sup write : Bool) (vas : List Nat) : State := startWalksFor s (k / 64) ⟨k, sup, write⟩ vas

/-! ## Lanes -/

/-- A register of a lane. -/
def laneReg (l : Lane) (r : Nat) : Word := lookD l.regs r 0

/-- A register pair (R28). -/
def lanePair (l : Lane) (r : Nat) : DWord := laneReg l (r + 1) ++ laneReg l r

/-- A register quad (R28). -/
def laneQuad (l : Lane) (r : Nat) : QWord := lanePair l (r + 2) ++ lanePair l r

/-- Writes a register, full (R107). -/
def laneSet (l : Lane) (r : Nat) (v : Word) : Lane :=
  { l with regs := put l.regs r v, empty := l.empty.filter fun x => x != r }

/-- Writes a register pair, full. -/
def laneSetPair (l : Lane) (r : Nat) (v : DWord) : Lane :=
  laneSet (laneSet l r (v.setWidth 32)) (r + 1) ((v >>> 32).setWidth 32)

/-- Writes the low n registers of a quad value, full. -/
def laneSetN (l : Lane) (r : Nat) (v : QWord) : Nat → Lane
  | 0 => l
  | n + 1 => laneSet (laneSetN l r v n) (r + n) ((v >>> (32 * n)).setWidth 32)

/-- Marks n registers empty (R30). -/
def laneEmpty (l : Lane) (r n : Nat) : Lane :=
  { l with empty := (upTo n).foldl (fun e i => if e.contains (r + i) then e else (r + i) :: e) l.empty }

/-- A predicate; p0 reads 1 (R29). -/
def lanePred (l : Lane) (p : Nat) : Bool := p == 0 || l.preds.getLsbD p

/-- Writes a predicate; a write to p0 is discarded (R29, R108). -/
def laneSetPred (l : Lane) (p : Nat) (v : Bool) : Lane :=
  if p = 0 then l
  else if v then { l with preds := l.preds ||| BitVec.ofNat 32 (2 ^ p) }
  else { l with preds := l.preds &&& ~~~ (BitVec.ofNat 32 (2 ^ p)) }

/-- ORs flags into FSTAT (R54). -/
def laneFlags (l : Lane) (f : Word) : Lane := { l with fstat := l.fstat ||| f }

/-- Whether the guard selects the lane (R29). -/
def guardOf (g : Guard) (l : Lane) : Bool := lanePred l g.p != g.neg

/-- Whether a register of the n from r on is empty. -/
def lanesEmpty (l : Lane) (r n : Nat) : Bool := l.empty.any fun x => decide (r ≤ x) && decide (x < r + n)

/-- The key of a lane (R88). -/
def laneKey (l : Lane) : Nat := l.pc.toNat * 64 + if l.min then l.mstep + 1 else 0

/-! ## Beams -/

/-- A beam by its key, 64 core + number. -/
def beamOf (s : State) (k : Nat) : Option Beam := look s.beams k

/-- Stores a beam. -/
def setBeam (s : State) (k : Nat) (b : Beam) : State := { s with beams := put s.beams k b }

/-- Changes a beam, where there is one. -/
def onBeam (s : State) (k : Nat) (f : Beam → Beam) : State := { s with beams := alter s.beams k f }

/-- Lane l of a beam. -/
def laneOf (b : Beam) (l : Nat) : Lane := b.lanes.getD l Lane.start

/-- Applies f to the lanes of a list of lane numbers, counting from i. -/
def mapLanes (on : List Nat) (f : Nat → Lane → Lane) : Nat → List Lane → List Lane
  | _, [] => []
  | i, x :: t => (if on.contains i then f i x else x) :: mapLanes on f (i + 1) t

/-- A beam with f applied to the named lanes. -/
def beamLanes (b : Beam) (on : List Nat) (f : Nat → Lane → Lane) : Beam := { b with lanes := mapLanes on f 0 b.lanes }

/-- The state with f applied to the named lanes of a beam. -/
def onLanes (s : State) (k : Nat) (on : List Nat) (f : Nat → Lane → Lane) : State :=
  onBeam s k fun b => beamLanes b on f

/-- Lane numbers in which a property holds. -/
def lanesWith (p : Lane → Bool) : Nat → List Lane → List Nat
  | _, [] => []
  | i, x :: t => if p x then i :: lanesWith p (i + 1) t else lanesWith p (i + 1) t

/-- The lanes in a state of the counter table. -/
def lanesIn (b : Beam) (st : LaneState) : List Nat := lanesWith (fun l => l.state == st) 0 b.lanes

/-- The least key among some lanes. -/
def leastKey (b : Beam) (on : List Nat) : Nat :=
  on.foldl (fun m i => Nat.min m (laneKey (laneOf b i))) (2 ^ 40)

/-- The run: the runnable lanes of least key (R88). -/
def runOf (b : Beam) : List Nat :=
  let r := lanesIn b .runnable
  let k := leastKey b r
  r.filter fun i => laneKey (laneOf b i) == k

/-- The block of a beam. -/
def blockOf (s : State) (b : Beam) : Option Block := look s.blocks b.block

/-- Whether a debugger holds the beam (R295). -/
def halted (s : State) (k : Nat) : Bool := bit (csrN s 0 (0x400 + 2 * (k / 64) + k % 64 / 32)) (k % 32)

/-- Whether what holds a beam lets it go on (R85). -/
def holdOver (s : State) (h : Hold) : Bool :=
  match h with
  | .none => true
  | .yield t => decide (t ≤ s.clk)
  | .barrier _ _ | .commit _ | .tlbinv _ | .engine _ | .rewind _ _ => false

/-- Whether an entry of the replay queue is still to be issued or completed again. -/
def isAgain : PendKind → Bool
  | .again _ => true
  | .result | .load _ _ _ | .loadLocal _ | .atomic _ _ _ | .parked _ => false

/-- Whether the beam is still to issue or complete replay entries, before any other issue (R293). -/
def replaying (b : Beam) : Bool := b.pend.any fun p => isAgain p.kind

/-- Whether nothing but the instruction itself keeps the beam from issuing (R85); a resumed beam waits for its commit first
(R308), replay entries go first (R293), and a beam outside a handler takes a trap that waits first (R152, R294). -/
def eligible (s : State) (k : Nat) (b : Beam) : Bool :=
  !b.stopped && b.ticket.isNone && (b.waiting.isEmpty || b.psw.getLsbD 1) && !halted s k && !(lanesIn b .runnable).isEmpty &&
    !replaying b && holdOver s b.hold

/-- Whether the beam stands where a trap that waits is taken: outside a handler, with nothing that holds it (R152, R187, R294). -/
def takesTraps (s : State) (b : Beam) : Bool := !b.psw.getLsbD 1 && b.ticket.isNone && holdOver s b.hold

/-- Whether a trap waits that the beam takes before its next issue (R152, R294). -/
def trapReady (s : State) (b : Beam) : Bool := !b.waiting.isEmpty && takesTraps s b && !replaying b

/-- The pool of a beam, by 8 core + pool (R84). -/
def poolOf (k : Nat) : Nat := k / 8

/-- Whether the beam may be tried in this clock: eligible, not tried yet, and its pool has not issued (R85). -/
def candidate (s : State) (k : Nat) (b : Beam) : Bool :=
  b.tried != s.clk + 1 && !s.issued.contains (poolOf k) && eligible s k b

/-- Whether beam (k, b) is chosen before beam (j, c): the lower pool first (log 1), then the one that issued least
recently, then the lower number (R85). -/
def before (k : Nat) (b : Beam) (j : Nat) (c : Beam) : Bool :=
  if poolOf k = poolOf j then
    if b.lastIssue = c.lastIssue then decide (k < j) else decide (b.lastIssue < c.lastIssue)
  else decide (k < j)

/-- The beam that issues next in this clock (R85). -/
def pickFrom (s : State) : NMap Beam → Option (Nat × Beam)
  | [] => none
  | (k, b) :: t =>
    match pickFrom s t with
    | none => if candidate s k b then some (k, b) else none
    | some (j, c) => if candidate s k b && before k b j c then some (k, b) else some (j, c)

/-- A run that is about to issue: the beam's key, the beam and the run. -/
structure Sel where
  key : Nat
  beam : Beam
  run : List Nat
  deriving DecidableEq, Repr

/-- The run that issues next (R85, R88); none once the pools of this clock have issued (log 1). -/
def selected (s : State) : Option Sel :=
  if s.closed then none
  else
    match pickFrom s s.beams with
    | some (k, b) => some ⟨k, b, runOf b⟩
    | none => none

/-- The core of a selection. -/
def selCore (x : Sel) : Nat := x.key / 64

/-- The PC of the run. -/
def selPc (x : Sel) : Word := (laneOf x.beam (leastD 0 x.run)).pc

/-- The lanes of the run that a guard selects (R29). -/
def execLanes (x : Sel) (g : Guard) : List Nat := x.run.filter fun i => guardOf g (laneOf x.beam i)

/-- Whether the run is inside a macro (R101). -/
def selMin (x : Sel) : Bool := (laneOf x.beam (leastD 0 x.run)).min

/-- The step of the run's macro. -/
def selMstep (x : Sel) : Nat := (laneOf x.beam (leastD 0 x.run)).mstep

/-- The step of the macro that the run is in (R101). -/
def macroStepOf (x : Sel) : Option Nat := if selMin x then some (selMstep x) else none

/-- The core's partition. -/
def selPart (s : State) (x : Sel) : Nat := partOfCore s (x.key / 64)

/-- PSW.SUP (R105). -/
def selSup (x : Sel) : Bool := x.beam.psw.getLsbD 0

/-- PSW.TM (R105). -/
def selTm (x : Sel) : Bool := x.beam.psw.getLsbD 1

/-! ## Traps and results -/

/-- A trap of the run with no cause fields. -/
def trapOf (x : Sel) (code : Nat) : Trap :=
  { code := code, lanes := 0, lane := 0, addr := 0, reg := 0, offs := 0, record := 0, imm := 0, callm := 0,
    run := maskOf x.run, pc := selPc x, mac := selMin x, mstep := selMstep x, args := [], frec := none }

/-- The key of the run in which a trap arose (R88), and the first lane it concerns: of LANES, else LANE, else of the run (R291). -/
def trapKey (t : Trap) : Nat := t.pc.toNat * 64 + if t.mac then t.mstep + 1 else 0
def trapLane (t : Trap) : Nat :=
  if t.lanes = 0 ∧ bit t.run t.lane = true then t.lane
  else leastD 0 ((upTo 32).filter (bit (if t.lanes = 0 then t.run else t.lanes)))

/-- Whether a trap that became ready at clock c goes before one that did at clock d: first the earlier, in one clock the lower
key and then the lower lane (R294). -/
def trapFirst (c : Nat) (t : Trap) (d : Nat) (u : Trap) : Bool :=
  if c = d then
    if trapKey t = trapKey u then decide (trapLane t < trapLane u) else decide (trapKey t < trapKey u)
  else decide (c < d)

/-- A trap takes its place among those that wait (R294). -/
def insertTrap (c : Nat) (t : Trap) : List (Nat × Trap) → List (Nat × Trap)
  | [] => [(c, t)]
  | (d, u) :: r => if trapFirst c t d u then (c, t) :: (d, u) :: r else (d, u) :: insertTrap c t r

/-- A trap of a beam becomes ready and waits for the beam's next instruction boundary outside a handler (R152, R190, R294). -/
def queueTrap (s : State) (k : Nat) (t : Trap) : State :=
  onBeam s k fun b => { b with waiting := insertTrap s.clk t b.waiting }

/-- What an instruction does at its issue. -/
inductive Res where
  /-- its effect; every lane of the run advances but those named, which it parked (R88, R90) -/
  | done (s : State) (stay : List Nat)
  /-- its effect, the counter table included -/
  | moved (s : State)
  /-- it does not issue in this clock (R85, R89); walks it asked for may have begun -/
  | hold (s : State)
  /-- a precise trap (R284) -/
  | trap (s : State) (t : Trap)
  /-- its effect, the advance, then a trap (R284, kind After) -/
  | after (s : State) (t : Trap)
  deriving DecidableEq, Repr

/-- What an instruction does, given the run that issues it. -/
abbrev Effect := Sel → State → Res

end Sys2Proof.Machine
end

