-- ==== Sys2Proof/Machine/Float.lean ====
section
/-!
DEFINITION. Floating-point arithmetic (R39-R54, R120-R126): values of every format, one rounding of an exact value, the
operations and their flags. An exact value is a sign and a fraction times a power of two; nothing is rounded twice.
-/
namespace Sys2Proof.Machine

open Sys2Proof

/-! ## Formats and values -/

/-- A floating format (R40, R41): exponent and fraction widths, bias, greatest finite code, and its NaN and infinity. -/
structure Fmt where
  ebits : Nat
  mbits : Nat
  bias : Nat
  /-- the largest finite value, as exponent and fraction code -/
  maxCode : Nat
  /-- the code of +infinity, where the format has one -/
  infCode : Option Nat
  /-- the canonical NaN, where the format has one -/
  nan : Option Nat
  /-- NaNs with the top fraction bit 0 signal -/
  signals : Bool
  deriving DecidableEq, Repr

def fp32 : Fmt := ⟨8, 23, 127, 0x7F7FFFFF, some 0x7F800000, some 0x7FC00000, true⟩
def bf16 : Fmt := ⟨8, 7, 127, 0x7F7F, some 0x7F80, some 0x7FC0, true⟩
def fp16 : Fmt := ⟨5, 10, 15, 0x7BFF, some 0x7C00, some 0x7E00, true⟩
def e5m2 : Fmt := ⟨5, 2, 15, 0x7B, some 0x7C, some 0x7E, false⟩
def e4m3 : Fmt := ⟨4, 3, 7, 0x7E, none, some 0x7F, false⟩
def e2m1 : Fmt := ⟨2, 1, 1, 0x7, none, none, false⟩

/-- The bits of a format. -/
def Fmt.width (f : Fmt) : Nat := 1 + f.ebits + f.mbits

/-- A value: a NaN, an infinity, or (-1)^neg m 2^e (R39, R41). -/
inductive FVal where
  | nan (signalling : Bool)
  | inf (neg : Bool)
  | num (neg : Bool) (m : Nat) (e : Int)
  deriving DecidableEq, Repr

/-- The value of a code (R39-R41). -/
def fmtVal (f : Fmt) (x : Nat) : FVal :=
  let x := x % 2 ^ f.width
  let neg := bit x (f.width - 1)
  let mag := x % 2 ^ (f.width - 1)
  let ex := mag / 2 ^ f.mbits
  let m := mag % 2 ^ f.mbits
  if f.infCode = some mag then .inf neg
  else if mag > f.maxCode then .nan (f.signals && m < 2 ^ (f.mbits - 1))
  else if ex = 0 then .num neg m (1 - (f.bias : Int) - f.mbits)
  else .num neg (2 ^ f.mbits + m) ((ex : Int) - f.bias - f.mbits)

/-- The sign bit with a magnitude code. -/
def signed (f : Fmt) (neg : Bool) (mag : Nat) : Nat := mag + if neg then 2 ^ (f.width - 1) else 0

/-- The canonical NaN, or +0 in a format without one (R52, R53). -/
def nanCode (f : Fmt) : Nat := f.nan.getD 0

/-! ## Flags (R54) -/

def flNV : Word := 1
def flDZ : Word := 2
def flOF : Word := 4
def flUF : Word := 8
def flNX : Word := 16

/-- A result code with its flags. -/
structure FRes where
  code : Nat
  flags : Word
  deriving DecidableEq, Repr

/-! ## Rounding one exact value (R48, R49, R51) -/

/-- floor(log2(num / den)), num and den positive. -/
def log2Frac (num den : Nat) : Int :=
  let k : Int := (Nat.log2 num : Int) - Nat.log2 den
  let low := if 0 ≤ k then decide (num < den * 2 ^ k.toNat) else decide (num * 2 ^ (-k).toNat < den)
  if low then k - 1 else k

/-- Whether the magnitude rounds up, with rem / d of a step left over it (R48, R49); u is the random word of SR. -/
def roundsUp (mode : RMode) (neg : Bool) (lo rem d u : Nat) : Bool :=
  match mode with
  | .rne => decide (d < 2 * rem) || (2 * rem == d && lo % 2 == 1)
  | .rtz => false
  | .rdn => neg && rem != 0
  | .rup => !neg && rem != 0
  | .sr =>
    if rem = 0 then false
    else if neg then !decide (u * d < (d - rem) * 2 ^ 32)
    else decide (u * d < rem * 2 ^ 32)

/-- Whether an overflow gives the largest finite value and not infinity (R51). -/
def overflowMax (mode : RMode) (neg : Bool) : Bool :=
  match mode with
  | .rne | .sr => false
  | .rtz => true
  | .rdn => !neg
  | .rup => neg

/-- Rounds (-1)^neg (num / den) 2^e into a format, with the flags of R54; num is not 0. `sat`: a saturating target. -/
def roundFrac (f : Fmt) (mode : RMode) (sat : Bool) (u : Nat) (neg : Bool) (num den : Nat) (e : Int) : FRes :=
  let emin : Int := 1 - f.bias
  let top := log2Frac num den + e
  let ex := if top < emin then emin else top
  let t := ex - f.mbits
  let n := if t ≤ e then num * 2 ^ (e - t).toNat else num
  let d := if t ≤ e then den else den * 2 ^ (t - e).toNat
  let lo := n / d
  let rem := n % d
  let r := if roundsUp mode neg lo rem d u then lo + 1 else lo
  let code := (ex - emin).toNat * 2 ^ f.mbits + r
  if f.maxCode < code then
    if sat || overflowMax mode neg then ⟨signed f neg f.maxCode, flOF ||| flNX⟩
    else ⟨signed f neg (f.infCode.getD f.maxCode), flOF ||| flNX⟩
  else
    ⟨signed f neg code,
      (if rem = 0 then 0 else flNX) ||| (if rem ≠ 0 ∧ top < emin then flUF else 0)⟩

/-- Rounds a signed dyadic value; an exact zero takes the sign given (R48). -/
def roundInt (f : Fmt) (mode : RMode) (sat : Bool) (u : Nat) (zeroNeg : Bool) (x : Int) (e : Int) : FRes :=
  if x = 0 then ⟨signed f zeroNeg 0, 0⟩
  else roundFrac f mode sat u (decide (x < 0)) x.natAbs 1 e

/-- The signed integer of a value at a lower exponent. -/
def atExp (neg : Bool) (m : Nat) (e lo : Int) : Int :=
  let x : Int := (m * 2 ^ (e - lo).toNat : Nat)
  if neg then -x else x

/-- The sign of an exact zero sum (R48): the common sign, else + but - under RDN. -/
def zeroSign (mode : RMode) (a b : Bool) : Bool := if a = b then a else mode == .rdn

/-- The flag of a NaN operand (R53). -/
def snanFlag : FVal → Word
  | .nan true => flNV
  | .nan false | .inf _ | .num _ _ _ => 0

/-- A NaN result (R53). -/
def nanRes (f : Fmt) (fl : Word) : FRes := ⟨nanCode f, fl⟩

/-- An infinite result. -/
def infRes (f : Fmt) (neg : Bool) (fl : Word) : FRes := ⟨signed f neg (f.infCode.getD f.maxCode), fl⟩

/-- a + b, rounded once (R120). -/
def fAdd (f : Fmt) (mode : RMode) (u : Nat) (a b : FVal) : FRes :=
  match a, b with
  | .nan s, y => nanRes f (snanFlag (.nan s) ||| snanFlag y)
  | .inf _, .nan s | .num _ _ _, .nan s => nanRes f (snanFlag (.nan s))
  | .inf p, .inf q => if p = q then infRes f p 0 else nanRes f flNV
  | .inf p, .num _ _ _ => infRes f p 0
  | .num _ _ _, .inf q => infRes f q 0
  | .num p m e, .num q n d =>
    let lo := if e ≤ d then e else d
    roundInt f mode false u (zeroSign mode p q) (atExp p m e lo + atExp q n d lo) lo

/-- The value with its sign changed. -/
def fNegVal : FVal → FVal
  | .nan s => .nan s
  | .inf p => .inf (!p)
  | .num p m e => .num (!p) m e

/-- a x b, exact: the value, and NV where it is 0 x infinity or an operand signals (R120). -/
def mulVal (a b : FVal) : FVal × Word :=
  match a, b with
  | .nan s, y => (.nan false, snanFlag (.nan s) ||| snanFlag y)
  | .inf _, .nan s | .num _ _ _, .nan s => (.nan false, snanFlag (.nan s))
  | .inf p, .inf q => (.inf (p != q), 0)
  | .inf p, .num q m _ => if m = 0 then (.nan false, flNV) else (.inf (p != q), 0)
  | .num p m _, .inf q => if m = 0 then (.nan false, flNV) else (.inf (p != q), 0)
  | .num p m e, .num q n d => (.num (p != q) (m * n) (e + d), 0)

/-- A value rounded once. -/
def fRound (f : Fmt) (mode : RMode) (sat : Bool) (u : Nat) : FVal → FRes
  | .nan s => nanRes f (snanFlag (.nan s))
  | .inf p => infRes f p 0
  | .num p m e => if m = 0 then ⟨signed f p 0, 0⟩ else roundFrac f mode sat u p m 1 e

/-- a x b, rounded once (R120). -/
def fMul (f : Fmt) (mode : RMode) (u : Nat) (a b : FVal) : FRes :=
  let r := mulVal a b
  let x := fRound f mode false u r.1
  ⟨x.code, x.flags ||| r.2⟩

/-- a x b + d, rounded once (R120). -/
def fFma (f : Fmt) (mode : RMode) (u : Nat) (a b d : FVal) : FRes :=
  let r := mulVal a b
  let x := fAdd f mode u r.1 d
  ⟨x.code, x.flags ||| r.2⟩

/-- a / b, rounded once (R120). -/
def fDiv (f : Fmt) (mode : RMode) (a b : FVal) : FRes :=
  match a, b with
  | .nan s, y => nanRes f (snanFlag (.nan s) ||| snanFlag y)
  | .inf _, .nan s | .num _ _ _, .nan s => nanRes f (snanFlag (.nan s))
  | .inf _, .inf _ => nanRes f flNV
  | .inf p, .num q _ _ => infRes f (p != q) 0
  | .num p _ _, .inf q => ⟨signed f (p != q) 0, 0⟩
  | .num p m e, .num q n d =>
    if n = 0 then (if m = 0 then nanRes f flNV else infRes f (p != q) flDZ)
    else if m = 0 then ⟨signed f (p != q) 0, 0⟩
    else roundFrac f mode false 0 (p != q) m n (e - d)

/-- Whether a is below b, numbers only; -0 and +0 are equal here. -/
def numLt (p : Bool) (m : Nat) (e : Int) (q : Bool) (n : Nat) (d : Int) : Bool :=
  let lo := if e ≤ d then e else d
  decide (atExp p m e lo < atExp q n d lo)

/-- Whether a < b, neither a NaN. -/
def fLt (a b : FVal) : Bool :=
  match a, b with
  | .nan _, _ => false
  | .inf _, .nan _ | .num _ _ _, .nan _ => false
  | .inf p, .inf q => p && !q
  | .inf p, .num _ _ _ => p
  | .num _ _ _, .inf q => !q
  | .num p m e, .num q n d => numLt p m e q n d

/-- Whether a value is a NaN. -/
def isNan : FVal → Bool
  | .nan _ => true
  | .inf _ | .num _ _ _ => false

/-- Whether a value's sign is minus. -/
def isNeg : FVal → Bool
  | .nan _ => false
  | .inf p => p
  | .num p _ _ => p

/-- minimumNumber or maximumNumber of two FP32 codes, -0 below +0 (R53, R120): the code and NV. -/
def fMinMax (isMax : Bool) (x y : Nat) : FRes :=
  let a := fmtVal fp32 x
  let b := fmtVal fp32 y
  let fl := snanFlag a ||| snanFlag b
  if isNan a && isNan b then nanRes fp32 fl
  else if isNan a then ⟨y % 2 ^ 32, fl⟩
  else if isNan b then ⟨x % 2 ^ 32, fl⟩
  else
    let aFirst := fLt a b || (!fLt b a && isNeg a && !isNeg b)
    ⟨if aFirst != isMax then x % 2 ^ 32 else y % 2 ^ 32, fl⟩

/-- Whether two values are ordered and equal. -/
def fEq (a b : FVal) : Bool := !isNan a && !isNan b && !fLt a b && !fLt b a

/-- FCMP (R124): the predicate and NV. -/
def fCompare (c : FCond) (x y : Nat) : Bool × Word :=
  let a := fmtVal fp32 x
  let b := fmtVal fp32 y
  let un := isNan a || isNan b
  let quiet := snanFlag a ||| snanFlag b
  let loud := if un then flNV else 0
  match c with
  | .eq => (fEq a b, quiet)
  | .ne => (un || !fEq a b, quiet)
  | .lt => (fLt a b, loud)
  | .le => (!un && !fLt b a, loud)
  | .gt => (fLt b a, loud)
  | .ge => (!un && !fLt a b, loud)
  | .un => (un, quiet)
  | .ord => (!un, quiet)

/-! ## Roots, exponential and logarithm (R122) -/

/-- One step of Newton's method for the integer square root. -/
def sqrtStep (n : Nat) : Nat → Nat → Nat
  | 0, x => x
  | k + 1, x => let y := (x + n / x) / 2; if y < x then sqrtStep n k y else x

/-- floor of the square root. -/
def isqrt (n : Nat) : Nat := if n = 0 then 0 else sqrtStep n 300 (2 ^ (Nat.log2 n / 2 + 1))

/-- The square root of m 2^e, rounded once: 2^64 more bits than the target needs, and an odd last bit where the root
is not exact. -/
def fSqrtPos (f : Fmt) (m : Nat) (e : Int) : FRes :=
  let odd := e % 2 != 0
  let m1 := (if odd then 2 * m else m) * 2 ^ 128
  let e1 := (if odd then e - 1 else e) - 128
  let r := isqrt m1
  roundFrac f .rne false 0 false (2 * r + if r * r = m1 then 0 else 1) 2 (e1 / 2)

/-- 1 over the square root of m 2^e, rounded once. -/
def fRsqrtPos (f : Fmt) (m : Nat) (e : Int) : FRes :=
  let odd := e % 2 != 0
  let m1 := if odd then 2 * m else m
  let e1 := if odd then e - 1 else e
  let k := 2 ^ 256 / m1
  let r := isqrt k
  roundFrac f .rne false 0 false (2 * r + if r * r * m1 = 2 ^ 256 then 0 else 1) 2 (-(e1 / 2) - 128)

/-- ln 2 in units of 2^-200. -/
def ln2Fix : Nat := 0xb17217f7d1cf79abc9e3b39803f2f6af40f343267298b62d8a

/-- Terms of the exponential series of x / 2^200 from the k-th on, `t` the k-th. -/
def expTerms (x : Nat) : Nat → Nat → Nat → Nat
  | 0, _, t => t
  | n + 1, k, t => t + expTerms x n (k + 1) (t * x / 2 ^ 200 / (k + 1))

/-- Terms of the series of atanh z from the k-th odd power on, `t` that power. -/
def atanhTerms (z2 : Nat) : Nat → Nat → Nat → Nat
  | 0, _, _ => 0
  | n + 1, k, t => t / k + atanhTerms z2 n (k + 2) (t * z2 / 2 ^ 200)

/-- 2^x for x = +-(m 2^e) no integer: the power 2^i times the exponential of the rest, in 200 bits (log 13). -/
def fExp2Num (f : Fmt) (neg : Bool) (m : Nat) (e : Int) : FRes :=
  let sh := (-e).toNat
  let x := atExp neg m e e
  let i := x / 2 ^ sh
  let r := (x % 2 ^ sh).toNat
  let y := if sh ≤ 200 then r * 2 ^ (200 - sh) else r / 2 ^ (sh - 200)
  let p := expTerms (y * ln2Fix / 2 ^ 200) 48 0 (2 ^ 200)
  roundFrac f .rne false 0 false (2 * p + 1) (2 ^ 201) i

/-- log2 of m 2^e, m positive and not a power of two, in 200 bits (log 13). -/
def fLog2Num (f : Fmt) (m : Nat) (e : Int) : FRes :=
  let k := Nat.log2 m
  let z := (m - 2 ^ k) * 2 ^ 200 / (m + 2 ^ k)
  let l : Nat := 2 * atanhTerms (z * z / 2 ^ 200) 70 1 z * 2 ^ 200 / ln2Fix
  let x : Int := ((e + (k : Int)) * 2 ^ 200) + (l : Int)
  roundFrac f .rne false 0 (decide (x < 0)) (2 * x.natAbs + 1) (2 ^ 201) 0

/-- Whether m is a power of two. -/
def isPow2 (m : Nat) : Bool := m != 0 && m == 2 ^ Nat.log2 m

/-- FRCP (R122). -/
def fRcp : FVal → FRes
  | .nan s => nanRes fp32 (snanFlag (.nan s))
  | .inf p => ⟨signed fp32 p 0, 0⟩
  | .num p m e => if m = 0 then infRes fp32 p flDZ else roundFrac fp32 .rne false 0 p 1 m (-e)

/-- FRSQ (R122). -/
def fRsq : FVal → FRes
  | .nan s => nanRes fp32 (snanFlag (.nan s))
  | .inf p => if p then nanRes fp32 flNV else ⟨0, 0⟩
  | .num p m e =>
    if m = 0 then infRes fp32 p flDZ
    else if p then nanRes fp32 flNV
    else fRsqrtPos fp32 m e

/-- FSQRT (R122). -/
def fSqrt : FVal → FRes
  | .nan s => nanRes fp32 (snanFlag (.nan s))
  | .inf p => if p then nanRes fp32 flNV else infRes fp32 false 0
  | .num p m e =>
    if m = 0 then ⟨signed fp32 p 0, 0⟩
    else if p then nanRes fp32 flNV
    else fSqrtPos fp32 m e

/-- FEXP2 (R122). -/
def fExp2 : FVal → FRes
  | .nan s => nanRes fp32 (snanFlag (.nan s))
  | .inf p => if p then ⟨0, 0⟩ else infRes fp32 false 0
  | .num p m e =>
    if m = 0 then ⟨0x3F800000, 0⟩
    else
      let v : Int := if 0 ≤ e then atExp p m e 0 else atExp p m e e / 2 ^ (-e).toNat
      let whole := decide (0 ≤ e) || m % 2 ^ (-e).toNat == 0
      if 128 ≤ v then infRes fp32 false (flOF ||| flNX)
      else if v < -150 then ⟨0, flUF ||| flNX⟩
      else if whole then roundFrac fp32 .rne false 0 false 1 1 v
      else fExp2Num fp32 p m e

/-- FLOG2 (R122). -/
def fLog2 : FVal → FRes
  | .nan s => nanRes fp32 (snanFlag (.nan s))
  | .inf p => if p then nanRes fp32 flNV else infRes fp32 false 0
  | .num p m e =>
    if m = 0 then infRes fp32 true flDZ
    else if p then nanRes fp32 flNV
    else if isPow2 m then roundInt fp32 .rne false 0 false (e + Nat.log2 m) 0
    else fLog2Num fp32 m e

/-! ## Integers (R52, R123, R126) -/

/-- A magnitude m 2^e rounded to an integer, and whether it was inexact. -/
def roundToNat (mode : RMode) (neg : Bool) (m : Nat) (e : Int) : Nat × Bool :=
  if 0 ≤ e then (m * 2 ^ e.toNat, false)
  else
    let d := 2 ^ (-e).toNat
    let lo := m / d
    let rem := m % d
    (if roundsUp mode neg lo rem d 0 then lo + 1 else lo, rem != 0)

/-- FRND (R123). -/
def fRnd (mode : RMode) (x : Nat) : FRes :=
  match fmtVal fp32 x with
  | .nan s => nanRes fp32 (snanFlag (.nan s))
  | .inf p => infRes fp32 p 0
  | .num p m e =>
    let n := (roundToNat mode p m e).1
    if n = 0 then ⟨signed fp32 p 0, 0⟩ else ⟨(roundFrac fp32 .rne false 0 p n 1 0).code, 0⟩

/-- FP32 to an integer between lo and hi (R52, R126). A finite non-integer that rounds outside the range fits two rows of R52's table: it
sets NV, as the row of the range has it, and not NX beside it. DESIGN CHOICE (log 53). -/
def fToInt (mode : RMode) (lo hi : Int) (x : Nat) : FRes :=
  match fmtVal fp32 x with
  | .nan _ => ⟨0, flNV⟩
  | .inf p => ⟨(wordOf (if p then lo else hi)).toNat, flNV⟩
  | .num p m e =>
    let (n, inexact) := roundToNat mode p m e
    let v : Int := if p then -(n : Int) else n
    if v < lo then ⟨(wordOf lo).toNat, flNV⟩
    else if hi < v then ⟨(wordOf hi).toNat, flNV⟩
    else ⟨(wordOf v).toNat, if inexact then flNX else 0⟩

/-- FP32 to a narrower float (R51, R52, R126); a saturating target turns an infinity into its largest value with OF. -/
def fNarrow (f : Fmt) (mode : RMode) (sat : Bool) (u : Nat) (x : Nat) : FRes :=
  match fmtVal fp32 x with
  | .nan s => nanRes f (snanFlag (.nan s))
  | .inf p => if sat then ⟨signed f p f.maxCode, flOF⟩ else infRes f p 0
  | .num p m e => if m = 0 then ⟨signed f p 0, 0⟩ else roundFrac f mode sat u p m 1 e

/-- A narrow float to FP32, exact (R126). -/
def fWiden (f : Fmt) (x : Nat) : FRes := fRound fp32 .rne false 0 (fmtVal f x)

/-! ## Random words (R49, R50, R136) -/

/-- rotl64 (R136). -/
def rotl64 (y : Nat) (n : Nat) : Nat := (y * 2 ^ n + y / 2 ^ (64 - n)) % 2 ^ 64

/-- One round of rand_mix. -/
def mixRound (x : Nat) : Nat :=
  let x := x ^^^ (x / 2 ^ 32)
  let x := x * 0xB4E91C738A2F5D61 % 2 ^ 64
  let x := x ^^^ (x / 2 ^ 29)
  x * 0xD3A16B58E94C0F27 % 2 ^ 64

/-- rand_mix (R136). -/
def randMix (seed k1 k2 : Nat) : Nat :=
  let x := (seed ^^^ (k1 * 0x9C5B3E7A41F2D68B % 2 ^ 64)) ^^^ rotl64 (k2 * 0x6A3DB8E15C07F29D % 2 ^ 64) 29
  let x := mixRound (mixRound x)
  (x ^^^ (x / 2 ^ 32)) % 2 ^ 32

end Sys2Proof.Machine
end

