-- ==== Sys2Proof/Machine/Perform.lean ====
section
/-!
DEFINITION. Performing accesses (R147-R150, R161, R164-R167): the paths of loads, stores and atomics by page and scope,
the operations of ATOM and RED, and the completion of unfinished instructions of a beam (R30, R86, R162).
-/
namespace Sys2Proof.Machine

open Sys2Proof

/-! ## Targets -/

/-- A translated address as one number: PA, APC in bits 49:48, C in bit 50, DEF in bit 51. -/
def targetOf (x : Xl) : Nat := x.pa % 2 ^ 48 + 2 ^ 48 * x.apc + 2 ^ 50 * x.c.toNat + 2 ^ 51 * x.d.toNat

def tgPa (t : Nat) : Nat := t % 2 ^ 48
def tgApc (t : Nat) : Nat := fld t 49 48
def tgC (t : Nat) : Bool := bit t 50
def tgDef (t : Nat) : Bool := bit t 51

/-- The translated address that a target came from, as an access that may write sees it. -/
def xlOf (t : Nat) : Xl := ⟨tgPa t, tgApc t, tgC t, tgDef t, true⟩

/-- A local address resolved to a core and an offset, as one number (R138). -/
def localTarget (core off : Nat) : Nat := core * 4194304 + off

/-! ## Paths -/

/-- Whether a scope is .dev or wider. -/
def wideScope : Scope → Bool
  | .bm | .blk | .gang => false
  | .dev | .pod | .sys => true

/-- Whether a line of device memory is held between a core and the near tier, so that reading it touches no block. -/
def lineHeld (s : State) (core pa : Nat) (sc : Scope) : Bool :=
  let part := partOfCore s core
  let home := (look s.l2 (l2Key (homeSector s part pa) 0 pa)).isSome
  match sc with
  | .bm | .blk =>
    (look (coreOf s core).l1 (pa / 128)).isSome || (look s.l2 (l2Key (core / 4) 0 pa)).isSome || home
  | .gang => (look s.l2 (l2Key (core / 4) 0 pa)).isSome || home
  | .dev | .pod | .sys => home

/-- Whether an access by a core can travel: a deferred store goes no farther than the core's log (R175), a line may be held in the
sector's slice, or for a load in L1, at a scope that uses them (R161), and else the links to where the line lives must carry traffic
(R316, R317, R321). An atomic behind APC 1 or 2 acts there whatever the slice holds (R165). -/
def canReach (s : State) (core : Nat) (x : Xl) (sc : Scope) (write atom : Bool) : Bool :=
  (x.d && write) || pathOpen s (quarterOf core) (partOfCore s core) x.apc x.pa ||
    (x.c && !x.d && !wideScope sc && decide (x.apc < 3) && !(atom && x.apc != 0) &&
      ((look s.l2 (l2Key (core / 4) x.apc x.pa)).isSome ||
        (!write && x.apc == 0 && sc != .gang && (look (coreOf s core).l1 (x.pa / 128)).isSome)))

/-- Whether the write-backs of a promotion can travel, in every sector of the partition (R167, R321). -/
def promoteOpen (s : State) (core : Nat) (q : QF) : Bool :=
  !(q.prm && wideScope q.scope) || (sectorsOf s (partOfCore s core)).all fun sec => syncOpen s sec .dev

/-- Whether an unfinished access can be performed now: the copy that let it issue may have gone since (R165, R321). -/
def accessOpen (s : State) (core : Nat) (k : PendKind) (targets : List Nat) : Bool :=
  match k with
  | .load _ sc _ => targets.all fun t => canReach s core (xlOf t) sc false false
  | .atomic _ _ q => promoteOpen s core q && targets.all fun t => canReach s core (xlOf t) q.scope true true
  | .result | .loadLocal _ | .parked _ | .again _ => true

/-- Whether a buffered write can be performed now. -/
def storeOpen (s : State) (core : Nat) (x : Store) : Bool :=
  match x.kind with
  | .plain => x.pieces.all fun p => canReach s core (xlOf p.target) x.scope true false
  | .red _ q => promoteOpen s core q && x.pieces.all fun p => canReach s core (xlOf p.target) x.scope true true
  | .loc => true

/-- Writes back the dirty bytes of the sector's own local copy of a line, so that an access that bypasses it observes
the beam's earlier stores (R86, log 14); `dropIt` also drops the copy. -/
def ownCopyBack (s : State) (sector apc pa : Nat) (dropIt : Bool) : State :=
  if isLocalCopy s sector apc pa then
    let k := l2Key sector apc pa
    match look s.l2 k with
    | some (x, d) =>
      let s1 := copyBack s (partOfSector s sector) apc pa x d
      if dropIt then { s1 with l2 := del s1.l2 k } else { s1 with l2 := put s1.l2 k (x, 0) }
    | none => s
  else s

/-! ## Apertures (R283) -/

/-- A line of device memory by its place, whatever the address that reaches it. -/
def lineAt (s : State) (part pa : Nat) : Nat := (bytePlace s part pa).getD 0 / 128

/-- The line that a target names, whatever the aperture; none for deferred pages, boot memory and registers, which have one aperture. -/
def aliasKey (s : State) (core t : Nat) : Option Nat :=
  let pa := tgPa t
  match tgApc t with
  | 0 => if tgDef t then none else some (2 * lineAt s (partOfCore s core) pa)
  | 3 => if fld pa 47 40 = 2 then some (2 * lineAt s (partOfCore s core) (pa % 2 ^ 40)) else none
  | apc => some (if ownPod s apc pa then 2 * lineAt s (podPart s) (pa % 2 ^ 40) else 2 * ((outerBase apc + pa) / 128) + 1)

/-- The aperture of a target: its APC and its C. -/
def tgWay (t : Nat) : Nat := 2 * tgApc t + (tgC t).toNat

/-- A byte of a line is written: what it held before the first write stands, and what the last left. -/
def noteByte (m : NMap (Byte × Byte)) (i : Nat) (p : Byte × Byte) : NMap (Byte × Byte) :=
  put m i (((look m i).map fun q => q.1).getD p.1, p.2)

/-- A write joins the last of its aperture while no core has flushed that one; else it stands by itself. -/
def noteWrite (way : Nat) (w : NMap (Byte × Byte)) : List Alias → List Alias
  | [] => [⟨way, w, []⟩]
  | e :: t =>
    if e.way = way ∧ e.flushed = [] then { e with bytes := w.foldl (fun m p => noteByte m p.1 p.2) e.bytes } :: t
    else ⟨way, w, []⟩ :: e :: t

/-- A beam writes bytes through an aperture: what each held before, and what it holds now, are remembered for reads through another
(R283). -/
def noteAlias (s : State) (core t : Nat) (old new : List Byte) : State :=
  match aliasKey s core t with
  | none => s
  | some k =>
    let w := (upTo new.length).map fun i => (tgPa t % 128 + i, old.getD i 0, new.getD i 0)
    { s with aliased := put s.aliased k (noteWrite (tgWay t) w (lookD s.aliased k [])) }

/-- A granule's bytes from place i of a line on, seen the other way: as they stood before a write through another aperture where they
stand after it, as it left them where they stand before it, and as they are where they stand neither way (R283). -/
def otherWay (m : NMap (Byte × Byte)) (i : Nat) (l : List Byte) : List Byte :=
  let seen := l.zipIdx.map fun b => (b.1, look m (i + b.2))
  let all := fun (f : Byte × Byte → Byte) => seen.all fun b => match b.2 with | some p => b.1 == f p | none => true
  let as_ := fun (f : Byte × Byte → Byte) => seen.map fun b => match b.2 with | some p => f p | none => b.1
  if all fun p => p.2 then as_ fun p => p.1 else if all fun p => p.1 then as_ fun p => p.2 else l

/-- What a core has not flushed of the writes to a line through other apertures: what each byte held before the first of them, and what
the last left. -/
def unflushed (core way : Nat) (l : List Alias) : NMap (Byte × Byte) :=
  (l.filter fun e => e.way != way && !e.flushed.contains core).foldr
    (fun e m => e.bytes.foldl (fun m p => noteByte m p.1 p.2) m) []

/-- A load's bytes where its line was written through another aperture and the core has not flushed it since: each aligned granule of
4 bytes is old or new, as a free value decides (R283, log 52). -/
def aliasMix (s : State) (core t : Nat) (l : List Byte) : List Byte × State :=
  let m := ((aliasKey s core t).map fun k => unflushed core (tgWay t) (lookD s.aliased k [])).getD []
  if m.isEmpty then (l, s)
  else
    let at_ := tgPa t % 128
    let w := Nat.min 4 l.length
    ((upTo (l.length / w)).flatMap fun g =>
      let p := (l.drop (w * g)).take w
      if Config.aliasOld s.fresh g then otherWay m (at_ + w * g) p else p, draw s)

/-- A load's bytes by page and scope (R150, R161, R163, R168): `none` where a block is uncorrectable (R152). -/
def loadBytes (s : State) (core t : Nat) (sc : Scope) (const : Bool) (n : Nat) : Option (List Byte) × State :=
  let part := partOfCore s core
  let pa := tgPa t
  match tgApc t with
  | 0 =>
    if tgDef t then (if blockBad s part pa then (none, s) else (some (nearBlockRead s part pa n), s))
    else if !tgC t then (if fillBad s part 0 pa then (none, s) else (some (homeRead s part pa n), s))
    else if blockBad s part pa && !lineHeld s core pa sc then (none, s)
    else
      match sc with
      | .bm | .blk => let r := l1Read s core pa n const; (some r.1, r.2)
      | .gang => let r := sliceRead s (core / 4) 0 pa n; (some r.1, r.2)
      | .dev | .pod | .sys =>
        let s1 := ownCopyBack s (core / 4) 0 pa false
        (some (homeRead s1 part pa n), s1)
  | 3 =>
    if fld pa 47 40 = 0 then (some (memBytes s.mem (bootBase + pa % 4194304) n), s)
    else if fld pa 47 40 = 1 then (some (bytesLE n (csrRead s part (fld pa 19 2)).toNat), s)
    else if blockBad s part (pa % 2 ^ 40) then (none, s)
    else (some (nearBlockRead s part (pa % 2 ^ 40) n), s)
  | apc =>
    if ownPod s apc pa && fillBad s (podPart s) 0 (pa % 2 ^ 40) then (none, s)
    else if !tgC t then (some (outerRead s apc pa n), s)
    else
      match sc with
      | .bm | .blk | .gang => let r := sliceRead s (core / 4) apc pa n; (some r.1, r.2)
      | .dev | .pod | .sys =>
        let s1 := ownCopyBack s (core / 4) apc pa false
        (some (outerRead s1 apc pa n), s1)

/-- A load's bytes (R150, R161), through one of the apertures of its line (R283). -/
def loadPath (s : State) (core t : Nat) (sc : Scope) (const : Bool) (n : Nat) : Option (List Byte) × State :=
  match loadBytes s core t sc const n with
  | (none, s1) => (none, s1)
  | (some l, s1) => let r := aliasMix s1 core t l; (some r.1, r.2)

/-- Bytes as a writer of a target finds them. -/
def bytesThere (s : State) (core t : Nat) (sc : Scope) (n : Nat) : List Byte :=
  let pa := tgPa t
  match tgApc t with
  | 3 => nearBlockRead s (partOfCore s core) (pa % 2 ^ 40) n
  | apc =>
    if tgC t && !wideScope sc then (sliceRead s (core / 4) apc pa n).1
    else if apc = 0 then homeRead s (partOfCore s core) pa n
    else outerRead s apc pa n

/-- A store's bytes by page and scope (R150, R161). -/
def storeBytes (s : State) (core t : Nat) (sc : Scope) (l : List Byte) : State :=
  let part := partOfCore s core
  let pa := tgPa t
  match tgApc t with
  | 0 =>
    if !tgC t then homeWrite (l1DropConst s core pa) part pa l
    else
      match sc with
      | .bm | .blk | .gang => sliceWrite (l1Update s core pa l) (core / 4) 0 pa l
      | .dev | .pod | .sys => throughWrite (l1Update s core pa l) (core / 4) pa l
  | 3 =>
    if fld pa 47 40 = 0 then { s with mem := memPut s.mem (bootBase + pa % 4194304) l }
    else if fld pa 47 40 = 2 then nearWrite s part (pa % 2 ^ 40) l
    else s
  | apc =>
    if !tgC t then outerWrite s apc pa l
    else
      match sc with
      | .bm | .blk | .gang => sliceWrite s (core / 4) apc pa l
      | .dev | .pod | .sys => outerThrough s (some (core / 4)) apc pa l

/-- A store (R150, R161), through one of the apertures of its line (R283). -/
def storePath (s : State) (core t : Nat) (sc : Scope) (l : List Byte) : State :=
  storeBytes (noteAlias s core t (bytesThere s core t sc l.length) l) core t sc l

/-! ## Atomics -/

/-- A number below 2^n as a signed one. -/
def sgn (n x : Nat) : Int := sext n x

/-- The operation of ATOM and RED on an n-bit word (R164). -/
def atomNew (op : AtomOp) (n old v : Nat) : Nat :=
  match op with
  | .add => (old + v) % 2 ^ n
  | .addF32 => (fAdd fp32 .rne 0 (fmtVal fp32 old) (fmtVal fp32 v)).code
  | .minI => if sgn n old ≤ sgn n v then old else v
  | .maxI => if sgn n v ≤ sgn n old then old else v
  | .minZ => Nat.min old v
  | .maxZ => Nat.max old v
  | .minF32 => (fMinMax false old v).code
  | .maxF32 => (fMinMax true old v).code
  | .and => old &&& v
  | .or => old ||| v
  | .xor => old ^^^ v
  | .exch => v

/-- .prm from .dev on: every sector of the partition writes back its local copies and drops those of the line (R167). -/
def promote (s : State) (part apc pa : Nat) : State :=
  (sectorsOf s part).foldl (fun s sec =>
    ownCopyBack (syncSector s sec (fun _ => true) false) sec apc pa true) s

/-- What an indivisible step writes, where it writes at all (R164, R166), through an aperture of its line (R283). -/
def atomWrite (s : State) (core t bytes old : Nat) (v : Option Nat) (w : State → List Byte → State) : State :=
  match v with
  | some x => w (noteAlias s core t (bytesLE bytes old) (bytesLE bytes x)) (bytesLE bytes x)
  | none => s

/-- One indivisible operation at the near tier, after the home slice has given the line up (R148, R165); `f` answers nothing where
it leaves the word as it is (R166). -/
def nearAtom (s : State) (part pa core t bytes : Nat) (f : Nat → Option Nat) : Option Nat × State :=
  let s1 := homeDrop s part pa
  if blockBad s1 part pa then (none, s1)
  else
    let old := leNat (nearBlockRead s1 part pa bytes)
    (some old, atomWrite s1 core t bytes old (f old) fun s l => nearWrite s part pa l)

/-- One indivisible step of an atomic at the point of R165: the old value, `none` where the block is uncorrectable or the host
answers with an error (log 49); `f` answers nothing where it leaves the word as it is, and nothing is then written (R166). An ATOM or
ACAS that meets an uncorrectable block traps as a load does and leaves the block unpoisoned: R152 names neither. DESIGN CHOICE (log 48). -/
def atomPath (s : State) (core t bytes : Nat) (q : QF) (f : Nat → Option Nat) : Option Nat × State :=
  let part := partOfCore s core
  let pa := tgPa t
  let sector := core / 4
  match tgApc t with
  | 0 =>
    let s0 := l1Drop s core pa
    if tgC t && !wideScope q.scope then
      if blockBad s0 part pa && !lineHeld s0 core pa .gang then (none, s0)
      else
        let r := sliceRead s0 sector 0 pa bytes
        let old := leNat r.1
        (some old, atomWrite r.2 core t bytes old (f old) fun s l => sliceWrite s sector 0 pa l)
    else
      let s1 := if q.prm && wideScope q.scope then promote s0 part 0 pa else s0
      nearAtom (ownCopyBack s1 sector 0 pa true) part pa core t bytes f
  | 3 => (some 0, s)
  | apc =>
    let s0 := if q.prm && wideScope q.scope then promote s part apc pa else s
    let s1 := ownCopyBack s0 sector apc pa true
    if ownPod s1 apc pa then nearAtom s1 (podPart s1) (pa % 2 ^ 40) core t bytes f
    else if apc == 1 && Config.hostError s1.fresh pa then (none, s1)
    else
      let old := leNat (outerRead s1 apc pa bytes)
      (some old, atomWrite s1 core t bytes old (f old) fun s l => outerWrite s apc pa l)

/-! ## Unfinished instructions -/

/-- The bytes an unfinished or buffered access touches: whether local, first byte and count. -/
structure Span where
  loc : Bool
  first : Nat
  len : Nat
  deriving DecidableEq, Repr

/-- Whether two spans share a byte. -/
def overlap (a b : Span) : Bool :=
  a.loc == b.loc && decide (a.first < b.first + b.len) && decide (b.first < a.first + a.len)

/-- The place of a target without its page bits. -/
def tgPlace (t : Nat) : Nat := t % 2 ^ 50

/-- The bytes an unfinished instruction has yet to access. -/
def pendSpans (p : Pend) : List Span :=
  match p.kind with
  | .result | .parked _ | .again _ => []
  | .load n _ _ => p.lanes.map fun l => ⟨false, tgPlace l.target, n⟩
  | .loadLocal n => p.lanes.map fun l => ⟨true, l.target, n⟩
  | .atomic n _ _ => p.lanes.map fun l => ⟨false, tgPlace l.target, n⟩

/-- The bytes a buffered store writes. -/
def storeSpans (x : Store) : List Span :=
  x.pieces.map fun p =>
    match x.kind with
    | .loc => ⟨true, p.target, p.bytes.length⟩
    | .plain | .red _ _ => ⟨false, tgPlace p.target, p.bytes.length⟩

/-- The value that an ATOM lane writes, or an ACAS lane whose expected value stands there (R164, R166). -/
def atomicNew (op : Option AtomOp) (bytes : Nat) (data : QWord) (old : Nat) : Option Nat :=
  match op with
  | some o => some (atomNew o (8 * bytes) old (data.toNat % 2 ^ (8 * bytes)))
  | none => if old = data.toNat % 2 ^ (8 * bytes) then some (data.toNat / 2 ^ (8 * bytes) % 2 ^ (8 * bytes)) else none

/-- Performs one lane of an unfinished access: its value, or `none` where the block is uncorrectable (R152). -/
def performLane (s : State) (core : Nat) (k : PendKind) (l : PendLane) : Option QWord × State :=
  match k with
  | .result | .parked _ | .again _ => (some l.res, s)
  | .load n sc const =>
    match loadPath s core l.target sc const n with
    | (some b, s1) => (some (BitVec.ofNat 128 (leNat b)), s1)
    | (none, s1) => (none, s1)
  | .loadLocal n => (some (BitVec.ofNat 128 (leNat (memBytes s.mem (2 * 2 ^ 64 + l.target) n))), s)
  | .atomic n op q =>
    match atomPath s core l.target n q (atomicNew op n l.data) with
    | (some old, s1) => (some (BitVec.ofNat 128 old), s1)
    | (none, s1) => (none, s1)

/-- Performs the lanes of an unfinished access in order: the state, the lanes with their values, the lanes that met an
uncorrectable block. -/
def performLanes (core : Nat) (k : PendKind) : State → List PendLane → State × List PendLane × List PendLane
  | s, [] => (s, [], [])
  | s, l :: t =>
    match performLane s core k l with
    | (some v, s1) =>
      let r := performLanes core k s1 t
      (r.1, { l with res := v } :: r.2.1, r.2.2)
    | (none, s1) =>
      let r := performLanes core k s1 t
      (r.1, r.2.1, l :: r.2.2)

/-- The address that UncorrectableData names: the block's, or that of the access where the host answered with an error (R152,
R165). -/
def badAddr (t : Nat) : DWord := BitVec.ofNat 64 (if tgApc t = 1 then tgPa t else tgPa t / 512 * 512)

/-- The deferred trap of lanes of an access that could not be read (R152, R165): what it names, and where its instruction
stood, the step of a macro included (R101). -/
def uncorrectable (run : Nat) (epc : Word) (mstep : Option Nat) (bad : List (Nat × Nat)) : Trap :=
  { code := 0x0C, lanes := maskOf (bad.map fun l => l.1), lane := 0, addr := badAddr ((bad.head?.map fun l => l.2).getD 0),
    reg := 0, offs := 0, record := 0, imm := 0, callm := 0, run := run, pc := epc, mac := mstep.isSome,
    mstep := mstep.getD 0, args := [], frec := none }

/-- Whether an unfinished instruction is an access that has not been performed. -/
def isAccess : PendKind → Bool
  | .load _ _ _ | .loadLocal _ | .atomic _ _ _ => true
  | .result | .parked _ | .again _ => false

/-- Performs an unfinished access of a beam where it can travel: it keeps its value until it is written (R292, R321). Lanes that met an
uncorrectable block stay empty, and the trap waits (R152). -/
def performPend (s : State) (k : Nat) (p : Pend) : State :=
  if !isAccess p.kind || !accessOpen s (k / 64) p.kind (p.lanes.map fun l => l.target) then s
  else
    let r := performLanes (k / 64) p.kind s p.lanes
    let s1 := onBeam r.1 k fun b =>
      { b with pend := b.pend.map fun x => if x.id = p.id then { x with kind := .result, lanes := r.2.1 } else x }
    if r.2.2.isEmpty then s1
    else queueTrap s1 k (uncorrectable p.run p.epc p.mstep (r.2.2.map fun l => (l.lane, l.target)))

/-- Writes the destinations of a performed instruction, full, with its flags (R30, R107). -/
def writePend (s : State) (k : Nat) (p : Pend) : State :=
  onBeam s k fun b =>
    { beamLanes b (p.lanes.map fun l => l.lane) (fun i x =>
        match p.lanes.find? fun l => l.lane == i with
        | some l => laneFlags (laneSetN x p.dst l.res p.n) l.flags
        | none => x) with
      pend := b.pend.filter fun x => x.id != p.id }

/-- The unfinished instruction with an identifier. -/
def pendOf (s : State) (k id : Nat) : Option Pend :=
  match beamOf s k with
  | some b => b.pend.find? fun p => p.id == id
  | none => none

/-- An instruction completes: it is performed if it was not, and its results are written (R30); one that cannot be performed yet stays
unfinished (R321). -/
def completePend (s : State) (k id : Nat) : State :=
  match pendOf s k id with
  | none => s
  | some p =>
    let s1 := performPend s k p
    match pendOf s1 k id with
    | some q => if q.kind = .result then writePend s1 k q else s1
    | none => s1

/-- Performs the accesses of a beam that have not been performed and meet a property, in issue order. -/
def performWhere (s : State) (k : Nat) (f : Pend → Bool) : State :=
  match beamOf s k with
  | none => s
  | some b => (b.pend.filter f).foldl (fun s p => performPend s k p) s

/-- One lane of a RED is performed at the point of R165; `some` where the host answers with an error. A block that cannot be read is
poisoned, as by a partial write, and the RED adds nothing: R152 names loads and writes only. DESIGN CHOICE (log 48). -/
def redPiece (s : State) (core : Nat) (op : AtomOp) (q : QF) (p : Piece) : State × Option (Nat × Nat) :=
  let n := p.bytes.length
  match atomPath s core p.target n q (fun old => some (atomNew op (8 * n) old (leNat p.bytes))) with
  | (some _, s1) => (s1, none)
  | (none, s1) =>
    if tgApc p.target = 1 then (s1, some (p.lane, p.target))
    else if tgApc p.target = 2 then (poison s1 (podPart s1) (tgPa p.target % 2 ^ 40), none)
    else (poison s1 (partOfCore s1 core) (tgPa p.target), none)

/-- One lane of a buffered write is performed (R159, R161, R165). -/
def performPiece (core : Nat) (x : Store) (r : State × List (Nat × Nat)) (p : Piece) : State × List (Nat × Nat) :=
  match x.kind with
  | .plain => (storePath r.1 core p.target x.scope p.bytes, r.2)
  | .loc => ({ r.1 with mem := memPut r.1.mem (2 * 2 ^ 64 + p.target) p.bytes }, r.2)
  | .red op q =>
    let y := redPiece r.1 core op q p
    (y.1, r.2 ++ y.2.toList)

/-- Performs one buffered write, lane by lane (R159, R161, R165): the lanes of a RED.add.f32 one after another in ascending order,
one of the associations that R60 and R159 leave open. DESIGN CHOICE (log 9). One that cannot travel yet stays buffered (R321). -/
def performStore (s : State) (k : Nat) (x : Store) : State :=
  if !storeOpen s (k / 64) x then s
  else
    let r := x.pieces.foldl (performPiece (k / 64) x) (s, [])
    let s1 := onBeam r.1 k fun b => { b with stores := b.stores.filter fun y => y.id != x.id }
    if r.2.isEmpty then s1 else queueTrap s1 k (uncorrectable x.run x.epc x.mstep r.2)

/-- Performs the buffered stores of a beam that meet a property, in issue order. -/
def drainWhere (s : State) (k : Nat) (f : Store → Bool) : State :=
  match beamOf s k with
  | none => s
  | some b => (b.stores.filter f).foldl (fun s x => performStore s k x) s

/-- Before an access: the beam's unfinished accesses and buffered stores to any of its bytes are performed (R86). -/
def beforeAccess (s : State) (k : Nat) (sp : List Span) : State :=
  performWhere (drainWhere s k fun x => (storeSpans x).any fun a => sp.any (overlap a)) k fun p =>
    (pendSpans p).any fun a => sp.any (overlap a)

/-- Whether accesses of the beam to some of these bytes are still to be performed. -/
def owesSpans (s : State) (k : Nat) (sp : List Span) : Bool :=
  match beamOf s k with
  | none => false
  | some b => (b.stores.any fun x => (storeSpans x).any fun a => sp.any (overlap a)) ||
      b.pend.any fun p => (pendSpans p).any fun a => sp.any (overlap a)

/-- Whether an access before this one cannot travel yet although it touches the same bytes (R86, R321). -/
def earlierShut (s : State) (k : Nat) (sp : List Span) : Bool := owesSpans (beforeAccess s k sp) k sp

/-- Whether accesses of the beam are still to be performed. -/
def owes (s : State) (k : Nat) : Bool :=
  match beamOf s k with
  | none => false
  | some b => !b.stores.isEmpty || b.pend.any fun p => isAccess p.kind

/-- Every earlier access of the beam is performed, as a release waits for (R162, R169). -/
def performAll (s : State) (k : Nat) : State := drainWhere (performWhere s k fun _ => true) k fun _ => true

/-- A release of the beam at a scope: earlier accesses are performed, then the write-back of R147. -/
def releaseAt (s : State) (k : Nat) (sc : Scope) : State := releaseCaches (performAll s k) (k / 256) sc

/-- Whether a trap waits that the beam takes before its next issue (R152). -/
def trapWaits (s : State) (k : Nat) : Bool :=
  match beamOf s k with
  | some b => trapReady s b
  | none => false

/-- Whether a release at a scope has to wait once the beam's earlier accesses have been performed: one of them, or the write-back of
R147, cannot travel yet (R317, R321). -/
def syncShut (s : State) (k : Nat) (sc : Scope) : Bool := owes s k || !syncOpen s (k / 256) sc

/-- An instruction that releases at a scope: every earlier access of the beam is performed; where one of them has met an
uncorrectable block its trap comes first (R152), and where one of them or the write-back of R147 cannot travel the instruction waits
for it (R317, R321); else that write-back precedes the effect. -/
def released (s : State) (k : Nat) (sc : Scope) (f : State → Res) : Res :=
  let s1 := performAll s k
  if trapWaits s1 k || syncShut s1 k sc then .hold s1 else f (releaseCaches s1 (k / 256) sc)

/-- An acquire of the beam at a scope: earlier loads and atomics return, then the invalidation of R147. -/
def acquireAt (s : State) (k : Nat) (sc : Scope) : State :=
  acquireCaches (performWhere s k fun _ => true) (k / 64) sc

/-- FENCE.acqrel.dev, as CSRR, CSRW and TRET act (R169, R293, R298). -/
def fenceDev (s : State) (k : Nat) : State := acquireAt (releaseAt s k .dev) k .dev

end Sys2Proof.Machine
end

