-- ==== Sys2Proof/Machine/Ops.lean ====
section
/-!
DEFINITION. The shared operations of an issue: fetching (R24, R25, R286), taking a trap (R285-R292) and restoring from
its frame (R293), and finishing an issue (R85, R88, R90, R94).
-/
namespace Sys2Proof.Machine

open Sys2Proof

/-! ## Grids of beams -/

/-- The gang of a block. -/
def gangOf (s : State) (b : Block) : Option Gang := look s.gangs b.gang

/-- The block, gang and grid of a beam. -/
def homeOf (s : State) (b : Beam) : Option (Block × Gang × Grid) :=
  match look s.blocks b.block with
  | none => none
  | some bl =>
    match look s.gangs bl.gang with
    | none => none
    | some g =>
      match look s.grids g.grid with
      | none => none
      | some gr => some (bl, g, gr)

/-- Registers per thread, A (R15). -/
def allot (g : Grid) : Nat := 64 * (g.regs + 1)

/-- The register that holds jN: A - D + N (R91). -/
def maskReg (g : Grid) (n : Nat) : Nat := allot g - g.depth + n

/-! ## The vector table (R285) -/

/-- The address of the vector table: in boot memory, or virtual (R285). -/
def vecAddr (s : State) (part : Nat) : Bool × Nat :=
  let l := csrN s part 0x300
  let a := l / 256 * 256 + csrN s part 0x301 * 2 ^ 32
  (bit l 0, if bit a 47 then a + 0xFFFF * 2 ^ 48 else a)

/-- The 256 bytes of the vector table, read as .dev reads; `none` where the read fails (R285, R287). -/
def vecTable (s : State) (core : Nat) (told : List Told) : Option (List Byte) :=
  let (boot, a) := vecAddr s (partOfCore s core)
  if boot then (if a + 256 ≤ 4194304 then some (memBytes s.mem (bootBase + a) 256) else none)
  else supRead s core told 2 a 256

/-- SVBASE and SVSZ of a table. -/
def vecSvBase (v : List Byte) : Nat := leAt v 0 8
def vecSvSize (v : List Byte) : Nat := leAt v 16 4

/-- Whether a table breaks the alignment or reserved-byte rules of R287. -/
def vecBad (v : List Byte) : Bool :=
  vecSvBase v % 256 != 0 || leAt v 8 8 % 32768 != 0 || leAt v 20 48 != 0 || leAt v 164 92 != 0

/-- Whether a core's read of the vector table can be made now (R143, R317, R321). -/
def vecOpen (s : State) (core : Nat) (told : List Told) : Bool :=
  let (boot, a) := vecAddr s (partOfCore s core)
  boot || supOpen s core told a false

/-- The walk that it still needs (R143). -/
def vecWalk (s : State) (core : Nat) (told : List Told) : List Nat :=
  let (boot, a) := vecAddr s (partOfCore s core)
  if boot then [] else supWalk s core told a false

/-! ## Fetching (R14, R24, R25, R286) -/

/-- The line of code at a virtual address: the grid's copy where the core holds one, else as memory stands now (R14); nothing while a
walk is under way or no link carries the read (R143, R321). Supervisor code is read as it stands. `told` is what walks have found for
the beam. User code may lie behind aperture 3, as that of R340 does, where R315 refuses a user's accesses: DEDUCED (log 54). -/
def codeLine (s : State) (k grid va : Nat) (told : List Told) (sup : Bool) : Option (Except FetchError (List Byte)) × State :=
  let core := k / 64
  let part := partOfCore s core
  let key := grid * 2 ^ 57 + va / 128
  match (if sup then none else look (coreOf s core).icache key) with
  | some x => (some (.ok (lineBytes x 0 128)), s)
  | none =>
    match lookTold s core told va sup false with
    | .miss => (none, startWalks s k sup false [va])
    | .shut => (none, s)
    | .fail f => (some (.error (.translation f.cause f.level (BitVec.ofNat 64 va))), s)
    | .bad pa => (some (.error (.uncorrectable pa)), s)
    | .hit x =>
      let y : Xl := { x with pa := x.pa / 128 * 128 }
      if !outerOk s core true false y then (some (.error (.refused (BitVec.ofNat 64 va))), s)
      else if !pathOpen s (quarterOf core) part y.apc y.pa then (none, s)
      else if xlBad s part y then (some (.error (.uncorrectable (y.pa / 512 * 512))), s)
      else
        let l := (devRead s part y 128).getD (List.replicate 128 0)
        (some (.ok l),
          if sup then s else setCore s core fun c => { c with icache := cacheFill s.fresh 1024 (fun _ => 0) c.icache key (lineOf l) })

/-- A halfword of code at offset pc of the code at base. -/
def codeHalf (s : State) (k grid base pc : Nat) (told : List Told) (sup : Bool) : Option (Except FetchError (List Byte)) × State :=
  let va := (base + pc) % 2 ^ 64
  match codeLine s k grid va told sup with
  | (some (.ok l), s1) => (some (.ok (sliceBytes 2 (va % 128) l)), s1)
  | r => r

/-- Base, size and rights of the code a beam runs (R14, R286). -/
def codeOf (s : State) (k : Nat) (b : Beam) : Nat × Nat × Nat × Bool :=
  if b.psw.getLsbD 0 then
    match vecTable s (k / 64) b.told with
    | some v => (0, vecSvBase v, vecSvSize v, true)
    | none => (0, 0, 0, true)
  else
    match homeOf s b with
    | some (_, g, gr) => (g.grid, gr.kimg.toNat + gr.codeoff, gr.codesz, false)
    | none => (0, 0, 0, false)

/-- The bytes of the instruction at a run's PC: two, or four where bit 0 of the first is 1 (R24, R25); nothing while the beam has to
wait for them (R143, R321). -/
def fetchBytes (s : State) (k : Nat) (b : Beam) (pc : Nat) : Option (Except FetchError (List Byte)) × State :=
  let (grid, base, size, sup) := codeOf s k b
  if b.psw.getLsbD 0 && !vecOpen s (k / 64) b.told then (none, startWalks s k true false (vecWalk s (k / 64) b.told))
  else if pc % 2 = 1 ∨ size < pc + 2 then (some (.error .outside), s)
  else
    match codeHalf s k grid base pc b.told sup with
    | (some (.ok h), s1) =>
      if (h.getD 0 0).getLsbD 0 then
        if size < pc + 4 then (some (.error .outside), s1)
        else
          match codeHalf s1 k grid base (pc + 2) b.told sup with
          | (some (.ok h2), s2) => (some (.ok (h ++ h2)), s2)
          | r => r
      else (some (.ok h), s1)
    | r => r

/-- The instruction that a selection is about to issue (R24, R36); nothing while the beam has to wait for its bytes. -/
def fetch (s : State) (x : Sel) : Option (Except FetchError Instr) × State :=
  match fetchBytes s x.key x.beam (selPc x).toNat with
  | (none, s1) => (none, s1)
  | (some (.error e), s1) => (some (.error e), s1)
  | (some (.ok l), s1) =>
    match decodeBytes l with
    | .error e => (some (.error e), s1)
    | .ok (i, _) => (some (.ok i), s1)

/-! ## Double traps (R288) -/

/-- DTRAP takes the record of a double trap while its V = 0, and the partition's MSI-X vector is signalled (R288, R314). -/
def doubleRecord (s : State) (k code addr pc lvl : Nat) : State :=
  let part := partOfCore s (k / 64)
  if bit (csrN s part 0x310) 31 then s
  else
    let w := 2 ^ 31 + k % 64 * 2 ^ 16 + k / 64 * 2 ^ 10 + lvl * 2 ^ 8 + code
    let s1 := csrPut s part 0x310 (BitVec.ofNat 32 w)
    let s2 := csrPut s1 part 0x311 (BitVec.ofNat 32 pc)
    let s3 := csrPut s2 part 0x312 (BitVec.ofNat 32 addr)
    let s4 := csrPut s3 part 0x313 (BitVec.ofNat 32 (addr / 2 ^ 32))
    { s4 with sent := s4.sent ++ [.msix part] }

/-- Records a double trap and ends the beam's grid as ABORT does (R288): the record is overwritten only while V = 0. -/
def doubleTrap (s : State) (k code addr pc lvl : Nat) : State :=
  let s1 := doubleRecord s k code addr pc lvl
  match (beamOf s k).bind (homeOf s1) with
  | some (_, g, _) => post (onBeam s1 k fun b => { b with stopped := true }) 0 (.abort g.grid)
  | none => s1

/-- The PC of DTRAP1: where the trapping lanes stand at the event, past a SYSC or BKPT (R288, R296, R297). DEDUCED (log 18). -/
def beamPc (b : Beam) (t : Trap) : Nat :=
  (((upTo 32).find? fun i => bit t.run i).map fun i => (laneOf b i).pc.toNat).getD t.pc.toNat

/-- The failing address of a trap that a handler cannot take, for DTRAP2 and DTRAP3 (R288): that of the fault record, or of
the cause record, zero where neither has one. DEDUCED (log 18). -/
def failingAddr (b : Beam) (t : Trap) : Nat :=
  match t.frec with
  | some r => fld r.toNat 127 64
  | none =>
    match (upTo 32).find? fun i => bit t.run i && (laneOf b i).state == .parked with
    | some i => fld (laneOf b i).frec.toNat 127 64
    | none => t.addr.toNat

/-! ## The frame (R289-R292) -/

/-- A counter-table entry (R87). -/
def tableEntry (l : Lane) : Nat :=
  l.pc.toNat +
    2 ^ 32 * (match l.state with
      | .runnable => 0
      | .waiting => 1
      | .parked => 2
      | .exited => 3) +
    2 ^ 36 * (if l.state = .waiting then l.jidx else 0) +
    (if l.min then 2 ^ 40 * l.mstep + 2 ^ 45 else 0)

/-- Whether an unfinished instruction is an entry of the replay queue that has not been issued or completed again. -/
def isEntry : PendKind → Bool
  | .parked _ | .again _ => true
  | .result | .load _ _ _ | .loadLocal _ | .atomic _ _ _ => false

/-- The unfinished instructions that trap entry withdraws, in issue order: of the LD, LDL, LDC, ATOM and ACAS not yet performed, those
among the eight latest (R292). An entry that has not been issued or completed again is always among them (log 16). -/
def withdrawn (b : Beam) : List Pend :=
  let n := (b.pend.filter fun p => isEntry p.kind).length
  let u := b.pend.filter fun p => isAccess p.kind
  let late := u.drop (u.length - (8 - n))
  b.pend.filter fun p => isEntry p.kind || late.contains p

/-- What completes at trap entry has completed: everything but what is withdrawn (R292). -/
def settling (s : State) (k : Nat) : State × List Pend :=
  match beamOf s k with
  | none => (s, [])
  | some b =>
    let w := withdrawn b
    let s1 := drainWhere s k fun _ => true
    ((b.pend.filter fun p => !w.contains p).foldl (fun s p => completePend s k p.id) s1, w)

/-- The beam's unfinished instructions are settled (R292). -/
def settle (s : State) (k : Nat) : State × List Pend :=
  let (s1, w) := settling s k
  (onBeam s1 k fun b => { b with pend := [] }, w)

/-- Whether nothing that has to complete at trap entry is kept from it by a closed link (R321). -/
def settles (s : State) (k : Nat) : Bool :=
  let (s1, w) := settling s k
  match beamOf s1 k with
  | some b => b.stores.isEmpty && b.pend.all fun p => w.any fun q => q.id == p.id
  | none => true

/-- The header (R290). -/
def frameHeader (s : State) (k : Nat) (b : Beam) (bslot : Nat) (t : Trap) (nrep : Nat) : Nat :=
  2 ^ 448 * (s.clk % 2 ^ 64) + 2 ^ 320 * maskOf (lanesIn b .exited) + 2 ^ 288 * nrep + 2 ^ 256 * t.callm +
    2 ^ 224 * b.psw.toNat + 2 ^ 192 * maskOf (lanesIn b .parked) + 2 ^ 160 * t.run + 2 ^ 128 * t.pc.toNat +
    2 ^ 104 * t.imm + 2 ^ 96 * bslot + 2 ^ 88 * (k % 64) + 2 ^ 80 * (k / 64) +
    (if t.mac then 2 ^ 10 + 2 ^ 11 * t.mstep else 0) + 2 ^ 8 * b.flvl + t.code

/-- The cause record (R291). -/
def causeRecord (t : Trap) : Nat :=
  2 ^ 128 * t.record.toNat + 2 ^ 112 * t.offs + 2 ^ 104 * t.reg + 2 ^ 96 * t.lane + 2 ^ 64 * t.lanes + t.addr.toNat

/-- ACT of a replay entry: 0 but for one that a trap has kept from being completed again (R292, log 16). -/
def entryAct : PendKind → Nat
  | .parked act | .again act => act
  | .result | .load _ _ _ | .loadLocal _ | .atomic _ _ _ => 0

/-- A replay entry (R292), its DATA the operands captured at issue. -/
def replayEntry (p : Pend) : List Byte :=
  let at_ := fun i => p.lanes.find? fun l => l.lane == i
  bytesLE 4 p.word.toNat ++ bytesLE 4 (maskOf (p.lanes.map fun l => l.lane)) ++ bytesLE 4 p.epc.toNat ++
    bytesLE 1 (entryAct p.kind) ++ List.replicate 243 0 ++
    (upTo 32).flatMap (fun i => bytesLE 8 (((at_ i).map fun l => l.ea.toNat).getD 0)) ++
    (upTo 32).flatMap (fun i => bytesLE 16 (((at_ i).map fun l => l.data.toNat).getD 0))

/-- The lane state of the frame, 16 bytes (R289). -/
def laneStateBytes (l : Lane) : List Byte :=
  bytesLE 4 (l.preds ||| 1).toNat ++ bytesLE 4 l.fstat.toNat ++ bytesLE 4 l.srctr.toNat ++ bytesLE 4 l.randctr.toNat

/-- The full/empty bits of g0-g15 (R289). -/
def fullHalf (l : Lane) : Nat := maskOf ((upTo 16).filter fun r => !l.empty.contains r)

/-- The rejoin masks of the frame (R289, R91). -/
def frameMasks (b : Beam) (gr : Grid) : List Byte :=
  (upTo 16).flatMap fun n => bytesLE 4 (if n < gr.depth then (laneReg (laneOf b 0) (maskReg gr n)).toNat else 0)

/-- The fault record area: of parked lanes, and of the run's lanes where the fetch failed (R144, R289). -/
def frameFaults (b : Beam) (t : Trap) : List Byte :=
  (upTo 32).flatMap fun i =>
    let l := laneOf b i
    bytesLE 16 (match t.frec with
      | some r => if bit t.run i then r.toNat else if l.state = .parked then l.frec.toNat else 0
      | none => if l.state = .parked then l.frec.toNat else 0)

/-- The bytes of a frame from F on, up to the replay entries (R289). -/
def frameBytes (s : State) (k : Nat) (b : Beam) (bl : Block) (gr : Grid) (t : Trap) (w : List Pend) : List Byte :=
  bytesLE 64 (frameHeader s k b bl.bslot t w.length) ++
    (upTo 32).flatMap (fun i => bytesLE 8 (tableEntry (laneOf b i))) ++
    frameMasks b gr ++
    bytesLE 64 (causeRecord t) ++
    (upTo 32).flatMap (fun i => laneStateBytes (laneOf b i)) ++
    (upTo 32).flatMap (fun i => bytesLE 2 (fullHalf (laneOf b i))) ++
    (upTo 32).flatMap (fun i => (upTo 16).flatMap fun r => bytesLE 4 (laneReg (laneOf b i) r).toNat) ++
    frameFaults b t ++
    (upTo 32).flatMap (fun i => bytesLE 8 (lookD t.args i 0).toNat) ++
    List.replicate 256 0 ++
    w.flatMap replayEntry

/-- The beam at its handler's first instruction (R287), which issues in no clock before the next: what the trap's clock has completed
counts from then on (R30). -/
def enterHandler (b : Beam) (clk framea lvl : Nat) (h : Word) : Beam :=
  { b with
    psw := 3
    flvl := lvl + 1
    framea := BitVec.ofNat 64 framea
    under := b.hold :: b.under
    hold := .none
    stopped := false
    told := []
    tried := clk + 1
    lanes := b.lanes.map fun l => { l with state := .runnable, min := false, mstep := 0, pc := h, jidx := 0 } }

/-- Whether a beam may not take a trap: it is in a handler, and the trap is no PreemptOverdue or its level is the last (R287). -/
def doubles (b : Beam) (t : Trap) : Bool := (b.psw.getLsbD 1 && t.code != 0x18) || (b.psw.getLsbD 1 && b.flvl == 2)

/-- FRAMEA of a beam that takes a trap, given the vector table (R287). -/
def frameBase (k : Nat) (b : Beam) (v : List Byte) : Nat :=
  if b.flvl = 0 then (leAt v 8 8 + k * 32768) % 2 ^ 64 else b.framea.toNat

/-- TAKING A TRAP (R287): the same beam then runs the handler in all 32 lanes. -/
def takeTrap (s : State) (k : Nat) (t : Trap) : State :=
  match beamOf s k with
  | none => s
  | some b0 =>
    let lvl := b0.flvl
    let pc := beamPc b0 t
    if doubles b0 t then doubleTrap s k t.code (failingAddr b0 t) pc lvl
    else
      let (s1, w) := settle s k
      match beamOf s1 k with
      | none => s1
      | some b =>
        match homeOf s1 b, vecTable s1 (k / 64) b.told with
        | some (bl, _, gr), some v =>
          let h := leAt v (64 + 4 * t.code) 4
          if vecBad v || h % 2 == 1 || decide (vecSvSize v < h + 4) then doubleTrap s1 k t.code (vecAddr s1 (partOfCore s1 (k / 64))).2 pc lvl
          else
            let fa := frameBase k b v
            let f := fa + 16384 * lvl
            match supWrite (k / 64) b.told 128 s1 f (frameBytes s1 k b bl gr t w) with
            | none => doubleTrap s1 k t.code f pc lvl
            | some s2 => setBeam (releaseCaches s2 (k / 256) .dev) k (enterHandler b s2.clk fa lvl (BitVec.ofNat 32 h))
        | _, _ => doubleTrap s1 k t.code (vecAddr s1 (partOfCore s1 (k / 64))).2 pc lvl

/-- Whether a trap can be entered now: the walks of the vector table and of the frame have ended, and what settles, these accesses and
the write-back of the release can travel (R143, R287, R292, R317, R321). -/
def trapOpen (s : State) (k : Nat) (t : Trap) : Bool :=
  match beamOf s k with
  | none => true
  | some b =>
    let s1 := (settle s k).1
    doubles b t || settles s k && vecOpen s1 (k / 64) b.told && syncOpen s1 (k / 256) .dev &&
      match vecTable s1 (k / 64) b.told with
      | some v => supOpen s1 (k / 64) b.told (frameBase k b v + 16384 * b.flvl) true
      | none => true

/-- Starts the walks that a trap's entry waits for: of the vector table, and then of the frame (R143, R287). -/
def entryWalks (s : State) (k : Nat) : State :=
  match beamOf s k with
  | none => s
  | some b =>
    let s1 := (settle s k).1
    match vecWalk s1 (k / 64) b.told with
    | [] =>
      match vecTable s1 (k / 64) b.told with
      | some v => startWalks s k true true (supWalk s1 (k / 64) b.told (frameBase k b v + 16384 * b.flvl) true)
      | none => s
    | l => startWalks s k true false l

/-- Where a trap stands as it is delivered: ApplyFault names the run of the beam in that clock, whatever the beam has done since the
commit ended (R190, R290). -/
def standing (s : State) (k : Nat) (t : Trap) : Trap :=
  match beamOf s k with
  | some b =>
    if t.code = 0x0D then
      let l := laneOf b (leastD 0 (runOf b))
      { t with run := maskOf (runOf b), pc := l.pc, mac := l.min, mstep := l.mstep }
    else t
  | none => t

/-- A beam takes a trap, or waits with it while it cannot be entered yet (R143, R321, log 50). -/
def raiseTrap (s : State) (k : Nat) (t : Trap) : State :=
  if trapOpen s k t then takeTrap s k (standing s k t) else queueTrap (entryWalks s k) k t

/-- The beam's producers and buffered writes that complete in this clock do so: the traps that they raise are ready in it (R294). -/
def completeDue (s : State) (k : Nat) : State :=
  s.agenda.foldl (fun s d =>
    if s.clk < d.clk then s
    else
      match d.step with
      | .producerComplete c b id => if 64 * c + b = k then completePend s k id else s
      | .writePerformed c b id => if 64 * c + b = k then drainWhere s k (fun x => x.id == id) else s
      | _ => s) s

/-- Of the traps of a beam that are ready in one clock the one of the lower key is taken, and then of the lower lane (R294): `later`
says what becomes of this one where another goes first. -/
def firstTrap (s : State) (k : Nat) (t : Trap) (now later : State → State) : State :=
  let s1 := completeDue s k
  match (beamOf s1 k).bind fun b => if takesTraps s1 b then b.waiting.head? else none with
  | some (c, u) =>
    if trapFirst c u s1.clk t then raiseTrap (later (onBeam s1 k fun b => { b with waiting := b.waiting.drop 1 })) k u else now s1
  | none => now s1

/-- A precise trap: where it is not taken now its run raises it again when it reissues (R294). -/
def preciseTrap (s : State) (k : Nat) (t : Trap) : State :=
  firstTrap s k t (fun s => if trapOpen s k t then takeTrap s k t else entryWalks s k) fun s => s

/-- A trap of a beam with no runnable lane: where another goes first, the beam's return from that handler raises it again (R90, R94,
R294). -/
def idleTrap (s : State) (k : Nat) (t : Trap) : State := firstTrap s k t (fun s => raiseTrap s k t) fun s => s

/-- A trap behind its instruction: where it is not taken now it waits (R284, R294). -/
def afterTrap (s : State) (k : Nat) (t : Trap) : State := firstTrap s k t (fun s => raiseTrap s k t) fun s => queueTrap s k t

/-! ## Convergence and divergence traps (R90, R94) -/

/-- The lane of least key, the lowest on a tie. -/
def leastLane (b : Beam) (on : List Nat) : Nat :=
  (on.find? fun i => laneKey (laneOf b i) == leastKey b on).getD 0

/-- A trap with no cause fields, standing at a lane. -/
def trapAt (b : Beam) (i code : Nat) : Trap :=
  let l := laneOf b i
  { code := code, lanes := 0, lane := 0, addr := 0, reg := 0, offs := 0, record := 0, imm := 0, callm := 0,
    run := 2 ^ i, pc := l.pc, mac := l.min, mstep := l.mstep, args := [], frec := none }

/-- The code of the lowest-keyed parked lane's fault (R90). -/
def parkedCode (b : Beam) : Nat :=
  causeCode (fld (laneOf b (leastLane b (lanesIn b .parked))).frec.toNat 15 12)

/-- After an issue: a beam with no runnable lane traps for its parked lanes, or for joins that cannot be satisfied (R90, R94), once no
replay entry is left to issue (R293). -/
def settleRun (s : State) (k : Nat) : State :=
  match beamOf s k with
  | none => s
  | some b =>
    if !(lanesIn b .runnable).isEmpty || replaying b then s
    else if !(lanesIn b .parked).isEmpty then idleTrap s k (trapAt b (leastLane b (lanesIn b .parked)) (parkedCode b))
    else if !(lanesIn b .waiting).isEmpty then
      let i := leastLane b (lanesIn b .waiting)
      idleTrap s k { trapAt b i 0x05 with reg := (laneOf b i).jidx }
    else s

/-! ## Finishing an issue -/

/-- The beam and its pool have issued in this clock, and the block counts the instruction (R85, R301). -/
def retire (s : State) (k : Nat) : State :=
  let s1 := onBeam s k fun b => { b with lastIssue := s.clk + 1, tried := s.clk + 1, told := [] }
  let bl := ((beamOf s k).map fun b => b.block).getD 0
  { s1 with
    issued := poolOf k :: s1.issued
    blocks := alter s1.blocks bl fun b => { b with retired := Nat.min (b.retired + 1) (2 ^ 32 - 1) } }

/-- The beam did not issue; it is tried again in the next clock (R85). -/
def tried (s : State) (k : Nat) : State := onBeam s k fun b => { b with tried := s.clk + 1 }

/-- Advances the lanes of the run that stay in it (R88, R90). -/
def advance (s : State) (x : Sel) (stay : List Nat) (adv : Lane → Lane) : State :=
  onLanes s x.key (x.run.filter fun i => !stay.contains i) fun _ l => adv l

/-- The state after an issue. Where a run takes a precise trap, its pool may still issue another beam in that clock, and the beam does
not count as having issued: R85 does not say. DESIGN CHOICE (log 1). -/
def finish (x : Sel) (adv : Lane → Lane) (r : Res) : State :=
  match r with
  | .done s stay => settleRun (retire (advance s x stay adv) x.key) x.key
  | .moved s => settleRun (retire s x.key) x.key
  | .hold s => tried s x.key
  | .trap s t => tried (preciseTrap s x.key t) x.key
  | .after s t => afterTrap (retire (advance s x [] adv) x.key) x.key t

/-- A lane goes on to the next instruction (R88). -/
def nextPc (len : Nat) (l : Lane) : Lane := { l with pc := l.pc + BitVec.ofNat 32 len }

/-- An instruction of the stream that issues for the selected run: `len` its length in bytes. -/
def issue (len : Nat) (e : Effect) (s : State) : Host.Outcome State Fault Refusal :=
  match selected s with
  | none => .fault .noRun
  | some x => .next (finish x (nextPc len) (e x s))

/-- A privileged instruction: PrivilegedInstruction in user state (R36, check 5). -/
def issuePriv (e : Effect) (s : State) : Host.Outcome State Fault Refusal :=
  issue 4 (fun x s => if selSup x then e x s else .trap s (trapOf x 0x02)) s

end Sys2Proof.Machine
end

