-- ==== Sys2Proof/Machine/Operands.lean ====
section
/-!
DEFINITION. Operand forms: sources under their full/empty policy and destinations (R28-R31, R89, R107), the forms of one
to three operands that the lane instructions share, and producers (R30).
-/
namespace Sys2Proof.Machine

open Sys2Proof

/-- A source or destination: n registers from r on, and the policy bit (R30). -/
structure Use where
  r : Nat
  n : Nat
  trap : Bool
  deriving DecidableEq, Repr

/-- A source field of one register, or of n. -/
def srcUse (s : Src) (n : Nat) : Use := ⟨s.r, n, s.trap⟩

/-- A register read under the block policy, or a destination. -/
def regUse (r n : Nat) : Use := ⟨r, n, false⟩

/-- The lanes of a list in which a register of the operand is empty. -/
def emptyLanes (b : Beam) (ex : List Nat) (u : Use) : List Nat := ex.filter fun i => lanesEmpty (laneOf b i) u.r u.n

/-- Whether an unfinished instruction of the beam will write a register of the operand in one of the lanes (R31). -/
def pendingWrite (b : Beam) (ex : List Nat) (u : Use) : Bool :=
  b.pend.any fun p => decide (p.dst < u.r + u.n) && decide (u.r < p.dst + p.n) &&
    p.lanes.any fun l => ex.contains l.lane && lanesEmpty (laneOf b l.lane) p.dst p.n

/-- The full/empty checks at issue. -/
inductive Gate where
  | go
  | wait
  | trap (t : Trap)
  deriving DecidableEq, Repr

/-- R89 and R31: the run waits for block-policy sources, then a trap-policy source may trap, and last the run waits while a
destination has an unfinished producer. DEDUCED: the trap goes before that last wait (log 12). -/
def gate (x : Sel) (ex : List Nat) (srcs dsts : List Use) : Gate :=
  if srcs.any (fun u => !u.trap && !(emptyLanes x.beam ex u).isEmpty) then .wait
  else
    match srcs.find? (fun u => u.trap && !(emptyLanes x.beam ex u).isEmpty) with
    | some u => .trap { trapOf x 0x03 with lanes := maskOf (emptyLanes x.beam ex u), reg := u.r }
    | none => if dsts.any (pendingWrite x.beam ex) then .wait else .go

/-- An effect that runs once the full/empty checks have passed. -/
def gated (x : Sel) (s : State) (ex : List Nat) (srcs dsts : List Use) (f : Res) : Res :=
  match gate x ex srcs dsts with
  | .go => f
  | .wait => .hold s
  | .trap t => .trap s t

/-- An instruction that acts separately in each executing lane (R107). -/
def laneEffect (g : Guard) (srcs dsts : List Use) (f : Nat → Lane → Lane) : Effect := fun x s =>
  let ex := execLanes x g
  gated x s ex srcs dsts (.done (onLanes s x.key ex f) [])

/-- The same for an instruction whose lanes read across the run: f is given the selection and the executing lanes. -/
def crossEffect (srcs dsts : List Use) (f : Sel → Nat → Lane → Lane) : Effect := fun x s =>
  gated x s x.run srcs dsts (.done (onLanes s x.key x.run (f x)) [])

/-! ## Forms -/

/-- d := f a, one register each, guarded. -/
def unary (g : Guard) (a : Src) (d : Nat) (f : Word → Word) : Effect :=
  laneEffect g [srcUse a 1] [regUse d 1] fun _ l => laneSet l d (f (laneReg l a.r))

/-- d := f a, a pair each, guarded. -/
def unaryPair (g : Guard) (a : Src) (d : Nat) (f : DWord → DWord) : Effect :=
  laneEffect g [srcUse a 2] [regUse d 2] fun _ l => laneSetPair l d (f (lanePair l a.r))

/-- d := f a, a pair into one register, guarded. -/
def unaryNarrow (g : Guard) (a : Src) (d : Nat) (f : DWord → Word) : Effect :=
  laneEffect g [srcUse a 2] [regUse d 1] fun _ l => laneSet l d (f (lanePair l a.r))

/-- d := f a b, one register each, guarded (format T). -/
def binary (g : Guard) (b a : Src) (d : Nat) (f : Word → Word → Word) : Effect :=
  laneEffect g [srcUse a 1, srcUse b 1] [regUse d 1] fun _ l => laneSet l d (f (laneReg l a.r) (laneReg l b.r))

/-- d := f a b, a pair each, guarded. -/
def binaryPair (g : Guard) (b a : Src) (d : Nat) (f : DWord → DWord → DWord) : Effect :=
  laneEffect g [srcUse a 2, srcUse b 2] [regUse d 2] fun _ l => laneSetPair l d (f (lanePair l a.r) (lanePair l b.r))

/-- d := f a b, a pair and one register into a pair (the shifts of opcode 0x1D, LEA). -/
def binaryMixed (b a : Src) (d : Nat) (f : DWord → Word → DWord) : Effect :=
  laneEffect .always [srcUse a 2, srcUse b 1] [regUse d 2] fun _ l => laneSetPair l d (f (lanePair l a.r) (laneReg l b.r))

/-- d := f a b d, one register each, guarded; d is read under the block policy (R30). -/
def ternary (g : Guard) (b a : Src) (d : Nat) (f : Word → Word → Word → Word) : Effect :=
  laneEffect g [srcUse a 1, srcUse b 1, regUse d 1] [regUse d 1] fun _ l =>
    laneSet l d (f (laneReg l a.r) (laneReg l b.r) (laneReg l d))

/-- p(d) := f a b, one register each, in every lane of the run. -/
def compare (b a : Src) (pd : Nat) (f : Word → Word → Bool) : Effect :=
  laneEffect .always [srcUse a 1, srcUse b 1] [] fun _ l => laneSetPred l pd (f (laneReg l a.r) (laneReg l b.r))

/-- p(d) := f a b, a pair each, in every lane of the run. -/
def comparePair (b a : Src) (pd : Nat) (f : DWord → DWord → Bool) : Effect :=
  laneEffect .always [srcUse a 2, srcUse b 2] [] fun _ l => laneSetPred l pd (f (lanePair l a.r) (lanePair l b.r))

/-! ## Producers (R30) -/

/-- The 32-bit word of an instruction. -/
def wordOfInstr (i : Instr) : Word := BitVec.ofNat 32 (((encodeFields i).map Fields.word).getD 0)

/-- A producer has issued: its destinations are empty in its lanes, and it completes within `bound` clocks, or at no
fixed time where that is 0 (R30, R107, log 2). -/
def startProducer (x : Sel) (s : State) (i : Instr) (dst n : Nat) (kind : PendKind) (lanes : List PendLane)
    (bound : Nat) : State :=
  let id := x.beam.nextId
  let on := lanes.map fun l => l.lane
  let s1 := onBeam s x.key fun b =>
    { beamLanes b on (fun _ l => laneEmpty l dst n) with
      nextId := b.nextId + 1
      pend := b.pend ++ [⟨id, wordOfInstr i, selPc x, macroStepOf x, maskOf x.run, dst, n, kind, lanes⟩] }
  postFree s1 bound (.producerComplete (x.key / 64) (x.key % 64) id)

/-- A lane of a producer whose result is known at issue. -/
def resultLane (i : Nat) (v : QWord) (flags : Word) : PendLane := ⟨i, 0, 0, 0, v, flags⟩

/-- A producer among the lane instructions: f gives each executing lane its result and flags. -/
def producer (i : Instr) (g : Guard) (srcs : List Use) (d n bound : Nat) (f : Nat → Lane → QWord × Word) : Effect :=
  fun x s =>
    let ex := execLanes x g
    gated x s ex srcs [regUse d n]
      (.done (startProducer x s i d n .result
        (ex.map fun j => let r := f j (laneOf x.beam j); resultLane j r.1 r.2) bound) [])

end Sys2Proof.Machine
end

