-- ==== Sys2Proof/Machine/Helio.lean ====
section
/-!
DEFINITION. The Heliograph (R256-R265): arrivals and phases, releases, broadcast words, and the part of an exit that
concerns channels (R258). Opcode 0x70 and the events HG_BARRIER_RELEASE and HG_BROADCAST_DELIVERY.
-/
namespace Sys2Proof.Machine

open Sys2Proof

/-! ## Reach (R264, R321) -/

/-- Whether the Heliograph joins two quarters of one partition, by the open bits of NBND.HG around the ring. -/
def hgReach (s : State) (p q : Nat) : Bool :=
  let open_ := fun k => bit (csrN s 0 0x520) (4 + k % 4)
  let up := (q + 4 - p) % 4
  partOfQuarter s p == partOfQuarter s q &&
    ((upTo up).all (fun i => open_ (p + i)) || (upTo ((4 - up) % 4)).all fun i => open_ (q + i))

/-- The cores that a message from a core's quarter reaches. -/
def hgCores (s : State) (core : Nat) : List Nat := (upTo 48).filter fun c => hgReach s (core / 12) (c / 12)

/-! ## Beams of a gang -/

/-- The beam keys of a block. -/
def blockBeams (bl : Block) : List Nat := bl.beams.map fun n => 64 * bl.core + n

/-- The beam keys of a gang, in ascending block and beam index. -/
def gangBeams (s : State) (g : Gang) : List Nat :=
  g.blocks.flatMap fun i => ((look s.blocks i).map blockBeams).getD []

/-- The blocks of a gang that are resident. -/
def gangBlocks (s : State) (g : Gang) : List Block := g.blocks.filterMap fun i => look s.blocks i

/-- Changes a channel of a gang. -/
def setChan (s : State) (gk c : Nat) (f : Chan → Chan) : State :=
  { s with gangs := alter s.gangs gk fun g => { g with chans := g.chans.mapIdx fun i x => if i = c then f x else x } }

/-- The channel of a gang. -/
def chanOf (g : Gang) (c : Nat) : Chan := g.chans.getD c ⟨0, 0, 0, 0⟩

/-! ## Phases (R258, R261) -/

/-- A phase of a channel completes: the next begins, and its waiters are released 40 clocks on (R261). -/
def completePhase (s : State) (gk c : Nat) : State :=
  match look s.gangs gk with
  | none => s
  | some g =>
    let ch := chanOf g c
    let s1 := setChan s gk c fun x => { x with cnt := 0, ph := x.ph + 1, e := x.e - x.pend, pend := 0 }
    let s2 := (gangBeams s g).foldl (fun s k => onBeam s k fun b => { b with arr := b.arr &&& (2 ^ 64 - 1 - 2 ^ c) }) s1
    post s2 40 (.hgBarrierRelease gk c ch.ph.toNat)

/-- An arrival of a beam on a channel (R261). -/
def arrive (s : State) (gk c k : Nat) : State :=
  let s1 := setChan (onBeam s k fun b => { b with arr := b.arr ||| 2 ^ c }) gk c fun x => { x with cnt := x.cnt + 1 }
  match look s1.gangs gk with
  | none => s1
  | some g => if (chanOf g c).cnt = (chanOf g c).e then completePhase s1 gk c else s1

/-- A beam has exited in all 32 lanes: what one channel with HGBEAMS = 0 makes of it (R258). -/
def exitChannel (s : State) (gk c k : Nat) : State :=
  match look s.gangs gk, beamOf s k with
  | some g, some b =>
    if bit b.arr c then setChan s gk c fun x => { x with pend := x.pend + 1 }
    else
      let e := (chanOf g c).e - 1
      let s1 := setChan s gk c fun x => { x with e := e }
      if 0 < e ∧ e ≤ (chanOf g c).cnt then completePhase s1 gk c else s1
  | _, _ => s

/-- The whole effect of a beam's last exit: its channels (R258), and the gang may be over (R311). -/
def beamExited (s : State) (k : Nat) : State :=
  match (beamOf s k).bind (homeOf s) with
  | some (bl, g, gr) =>
    let s1 := if gr.hgbeams = 0 then (upTo g.chans.length).foldl (fun s c => exitChannel s bl.gang c k) s else s
    post s1 1 (.gangRetire bl.gang)
  | none => s

/-! ## Instructions (R259-R262) -/

/-- Checks 1, 2 and 4 of R260; `c` is the channel named, if one is. -/
def helioCheck (x : Sel) (s : State) (c : Option Nat) : Option Trap :=
  let out := (upTo 32).any fun i => (laneOf x.beam i).state != .exited && !x.run.contains i
  if !(lanesIn x.beam .parked).isEmpty then some (trapOf x (parkedCode x.beam))
  else if out then some { trapOf x 0x04 with lanes := maskOf x.run }
  else
    match c with
    | none => none
    | some c =>
      match homeOf s x.beam with
      | some (_, g, _) => if c < g.chans.length then none else some { trapOf x 0x08 with lane := leastD 0 x.run }
      | none => some (trapOf x 0x08)

/-- An arrival as an instruction: a release at .gang, then the arrival (R261, R263). A trap that an earlier access has met goes
before it (R152). -/
def helioArrive (hc : Nat) (waits : Bool) : Effect := fun x s =>
  match helioCheck x s (some hc), homeOf s x.beam with
  | some t, _ => .trap s t
  | none, none => .hold s
  | none, some (bl, g, _) =>
    released s x.key .gang fun s1 =>
      let s2 := if waits then onBeam s1 x.key fun b => { b with hold := .barrier hc (chanOf g hc).ph } else s1
      .done (arrive s2 bl.gang hc x.key) []

/-- SYNBAR (R261). -/
def effSynbar (hc : Nat) : Effect := helioArrive hc true

/-- SYNARV (R261). -/
def effSynarv (hc : Nat) : Effect := helioArrive hc false

/-- SYNPUT (R260, R262): a release at .dev, a trap of an earlier access first; the word lands 40 clocks on. -/
def effSynput (a : Src) (hw : Nat) : Effect := fun x s =>
  match helioCheck x s none with
  | some t => .trap s t
  | none =>
    let v := laneReg (laneOf x.beam (leastD 0 x.run)) a.r
    gated x s x.run [srcUse a 1] []
      (if x.run.all fun i => laneReg (laneOf x.beam i) a.r == v then
        released s x.key .dev fun s1 => .done (post s1 40 (.hgBroadcastDelivery (x.key / 64) hw v)) []
      else .trap s { trapOf x 0x04 with lanes := maskOf x.run })

/-- SYNGET (R260, R262): this core's copy as it stands at issue. -/
def effSynget (hw d : Nat) : Effect := fun x s =>
  match helioCheck x s none with
  | some t => .trap s t
  | none =>
    let v := lookD (coreOf s (x.key / 64)).hw hw 0
    gated x s x.run [] [regUse d 1]
      (.done (startProducer x s (.synget hw d) d 1 .result (x.run.map fun j => resultLane j (v.setWidth 128) 0) 2) [])

/-- The meaning of SYNBAR (R261). -/
def execSynbar (hc : Nat) (s : State) : Host.Outcome State Fault Refusal := issue 4 (effSynbar hc) s

/-- The meaning of SYNARV (R261). -/
def execSynarv (hc : Nat) (s : State) : Host.Outcome State Fault Refusal := issue 4 (effSynarv hc) s

/-- The meaning of SYNPUT (R262). -/
def execSynput (a : Src) (hw : Nat) (s : State) : Host.Outcome State Fault Refusal := issue 4 (effSynput a hw) s

/-- The meaning of SYNGET (R262). -/
def execSynget (hw d : Nat) (s : State) : Host.Outcome State Fault Refusal := issue 4 (effSynget hw d) s

/-! ## Events -/

/-- A hold that a barrier release ends. -/
def releaseHold (c : Nat) (ph : Word) : Hold → Hold
  | .barrier c' p => if c' = c ∧ p = ph then .none else .barrier c' p
  | h => h

/-- HG_BARRIER_RELEASE: the beams that wait on this phase are eligible, each after an acquire at .gang (R261). -/
def execHgBarrierRelease (gang ch phase : Nat) (s : State) : Host.Outcome State Fault Refusal :=
  match look s.gangs gang with
  | none => .next s
  | some g =>
    let ph : Word := BitVec.ofNat 32 phase
    .next ((gangBeams s g).foldl (fun s k =>
      match beamOf s k with
      | none => s
      | some b =>
        if b.hold = .barrier ch ph ∨ b.under.contains (.barrier ch ph) then
          acquireCaches (setBeam s k { b with
            hold := releaseHold ch ph b.hold, under := b.under.map (releaseHold ch ph) }) (k / 64) .gang
        else s) s)

/-- HG_BROADCAST_DELIVERY: every copy in the sender's partition takes the word (R262, R264). The event names the sending
core. -/
def execHgBroadcastDelivery (core w : Nat) (v : Word) (s : State) : Host.Outcome State Fault Refusal :=
  .next ((hgCores s core).foldl (fun s c => setCore s c fun x => { x with hw := put x.hw w v }) s)

end Sys2Proof.Machine
end

