-- ==== Sys2Proof/Machine/Control.lean ====
section
/-!
DEFINITION. Control instructions, opcodes 0x40-0x49 (R92-R104): joins, branches, calls, exit and yield. MCALL is in Macro.
-/
namespace Sys2Proof.Machine

open Sys2Proof

/-! ## Joins (R91-R94) -/

/-- DivergenceDepth for a rejoin register beyond DEPTH (R91). -/
def depthTrap (x : Sel) (j : Nat) : Trap := { trapOf x 0x05 with reg := j }

/-- release_check of R93: the beam with the lanes of a satisfied JOIN released. -/
def releaseCheck (b : Beam) (pc : Word) (n m : Nat) : Beam :=
  let here := fun l : Lane => l.state == .waiting && l.pc == pc && l.jidx == n
  if (bitsOf 32 m).all fun i => (laneOf b i).state == .exited || here (laneOf b i) then
    { b with lanes := b.lanes.map fun l => if here l then { l with state := .runnable, jidx := 0, pc := l.pc + 4 } else l }
  else b

/-- release_check for every lane in STATE 1 (R93). -/
def releaseAll (b : Beam) (gr : Grid) : Beam :=
  (upTo 32).foldl (fun b i =>
    let l := laneOf b i
    if l.state = .waiting then releaseCheck b l.pc l.jidx (laneReg l (maskReg gr l.jidx)).toNat else b) b

/-- SPLIT (R92). -/
def effSplit (j : Nat) : Effect := fun x s =>
  match homeOf s x.beam with
  | none => .hold s
  | some (_, _, gr) =>
    if gr.depth ≤ j then .trap s (depthTrap x j)
    else .done (onLanes s x.key (upTo 32) fun _ l => laneSet l (maskReg gr j) (BitVec.ofNat 32 (maskOf x.run))) []

/-- JOIN (R93); with a parked lane in its mask the beam traps in its place (R90). -/
def effJoin (j : Nat) : Effect := fun x s =>
  match homeOf s x.beam with
  | none => .hold s
  | some (_, _, gr) =>
    if gr.depth ≤ j then .trap s (depthTrap x j)
    else
      let m := (laneReg (laneOf x.beam (leastD 0 x.run)) (maskReg gr j)).toNat
      if (lanesIn x.beam .parked).any (bit m) then .trap s (trapOf x (parkedCode x.beam))
      else
        let b := beamLanes x.beam x.run fun _ l => { l with state := .waiting, jidx := j }
        .moved (setBeam s x.key (releaseCheck b (selPc x) j m))

/-! ## Branches (R95-R100) -/

/-- The target of a displacement (R25). -/
def branchTarget (pc : Word) (disp : Nat) : Word := pc + wordOf (2 * sext 18 disp)

/-- UniformViolation for the run (R95). -/
def uniformTrap (x : Sel) : Trap := { trapOf x 0x04 with lanes := maskOf x.run }

/-- Whether a property has one value over the run. -/
def uniform {α : Type} [DecidableEq α] (x : Sel) (f : Lane → α) : Bool :=
  x.run.all fun i => f (laneOf x.beam i) == f (laneOf x.beam (leastD 0 x.run))

/-- BRA (R96). -/
def effBra (sense : Bool) (p disp : Nat) : Effect := fun x s =>
  let c := fun l => lanePred l p != sense
  if uniform x c then
    .moved (onLanes s x.key x.run fun _ l => { l with pc := if c l then branchTarget l.pc disp else l.pc + 4 })
  else .trap s (uniformTrap x)

/-- BRD (R97). -/
def effBrd (sense : Bool) (p disp : Nat) : Effect := fun x s =>
  .moved (onLanes s x.key x.run fun _ l =>
    { l with pc := if lanePred l p != sense then branchTarget l.pc disp else l.pc + 4 })

/-- BRX (R98): the guard is the condition, and a is read in every lane of the run. -/
def effBrx (g : Guard) (a : Src) : Effect := fun x s =>
  gated x s x.run [srcUse a 1] []
    (if uniform x (guardOf g) && (!guardOf g (laneOf x.beam (leastD 0 x.run)) || uniform x fun l => laneReg l a.r) then
      .moved (onLanes s x.key x.run fun _ l => { l with pc := if guardOf g l then laneReg l a.r else l.pc + 4 })
    else .trap s (uniformTrap x))

/-- CALL (R99). -/
def effCall (lk disp : Nat) : Effect := fun x s =>
  gated x s x.run [] [regUse lk 1]
    (.moved (onLanes s x.key x.run fun _ l => { laneSet l lk (l.pc + 4) with pc := branchTarget l.pc disp }))

/-- RET (R100). -/
def effRet (g : Guard) (a : Src) : Effect := fun x s =>
  gated x s (execLanes x g) [srcUse a 1] []
    (.moved (onLanes s x.key x.run fun _ l => { l with pc := if guardOf g l then laneReg l a.r else l.pc + 4 }))

/-! ## Ending and yielding (R103, R104) -/

/-- What a beam does when all its lanes have exited, else nothing (R103, R258). -/
def exitedAll (s : State) (k : Nat) : State :=
  match beamOf s k with
  | none => s
  | some b => if (lanesIn b .exited).length = b.lanes.length then beamExited s k else s

/-- EXIT (R103). -/
def effExit (g : Guard) : Effect := fun x s =>
  let ex := execLanes x g
  if !(lanesIn x.beam .parked).isEmpty then .trap s (trapOf x (parkedCode x.beam))
  else if ex.any fun i => !(laneOf x.beam i).empty.isEmpty then .hold s
  else
    let b := beamLanes x.beam x.run fun i l => if ex.contains i then { l with state := .exited } else { l with pc := l.pc + 4 }
    let b := if ex.isEmpty then b
      else match homeOf s x.beam with
        | some (_, _, gr) => releaseAll b gr
        | none => b
    let s1 := setBeam s x.key b
    .moved (if ex.isEmpty then s1 else exitedAll s1 x.key)

/-- YIELD (R104). -/
def effYield (_ : Guard) : Effect := fun x s =>
  .done (post (onBeam s x.key fun b => { b with hold := .yield (s.clk + 33) }) 33
    (.yieldExpiry (x.key / 64) (x.key % 64))) []

/-- The meaning of SPLIT (R92). -/
def execSplit (j : Nat) (s : State) : Host.Outcome State Fault Refusal := issue 4 (effSplit j) s
/-- The meaning of JOIN (R93). -/
def execJoin (j : Nat) (s : State) : Host.Outcome State Fault Refusal := issue 4 (effJoin j) s
/-- The meaning of BRA (R96). -/
def execBra (sense : Bool) (p disp : Nat) (s : State) : Host.Outcome State Fault Refusal :=
  issue 4 (effBra sense p disp) s
/-- The meaning of BRD (R97). -/
def execBrd (sense : Bool) (p disp : Nat) (s : State) : Host.Outcome State Fault Refusal :=
  issue 4 (effBrd sense p disp) s
/-- The meaning of BRX (R98). -/
def execBrx (g : Guard) (a : Src) (s : State) : Host.Outcome State Fault Refusal := issue 4 (effBrx g a) s
/-- The meaning of CALL (R99). -/
def execCall (l disp : Nat) (s : State) : Host.Outcome State Fault Refusal := issue 4 (effCall l disp) s
/-- The meaning of RET (R100). -/
def execRet (g : Guard) (a : Src) (s : State) : Host.Outcome State Fault Refusal := issue 4 (effRet g a) s
/-- The meaning of EXIT (R103). -/
def execExit (g : Guard) (s : State) : Host.Outcome State Fault Refusal := issue 4 (effExit g) s
/-- The meaning of YIELD (R104). -/
def execYield (g : Guard) (s : State) : Host.Outcome State Fault Refusal := issue 4 (effYield g) s

/-- YIELD_EXPIRY: the hold of YIELD ends (R104). -/
def execYieldExpiry (core beam : Nat) (s : State) : Host.Outcome State Fault Refusal :=
  .next (onBeam s (64 * core + beam) fun b =>
    match b.hold with
    | .yield t => if t ≤ s.clk then { b with hold := .none } else b
    | _ => b)

/-- ILLEGAL_INSTRUCTION: the selected run cannot issue at its PC, and traps as R25 and R36 say; a fetch that failed
translation takes that fault for the whole run, with KIND = 4 (R144, R145). -/
def execIllegalInstruction (e : FetchError) (s : State) : Host.Outcome State Fault Refusal :=
  issue 4 (fun x s =>
    match e with
    | .outside | .reservedOpcode | .reservedSubOp | .badField => .trap s (trapOf x 0x01)
    | .translation cause level va =>
      .trap s { trapOf x (causeCode cause) with
        frec := some (BitVec.ofNat 128 (2 ^ 64 * va.toNat + 2 ^ 12 * cause + 2 ^ 10 * level + 4)) }
    | .uncorrectable pa => .trap s { trapOf x 0x0C with lanes := maskOf x.run, addr := BitVec.ofNat 64 pa }
    | .refused va => .trap s { trapOf x 0x08 with lane := leastD 0 x.run, addr := va }) s

end Sys2Proof.Machine
end

