-- ==== Sys2Proof/Machine/Flags.lean ====
section
/-!
DEFINITION. The sticky flags: every floating result with its flags, ORed into FSTAT of each executing lane (R54, R107),
and the stochastic forms, which read SRCTR before the operation and advance it (R50). No integer or bit instruction sets
a flag (R38).
-/
namespace Sys2Proof.Machine

open Sys2Proof

/-- Writes a floating result and its flags (R54). -/
def laneFloat (l : Lane) (d : Nat) (r : FRes) : Lane := laneFlags (laneSet l d (BitVec.ofNat 32 r.code)) r.flags

/-- The work identifier of a lane of a beam (R17). -/
def widOf (s : State) (b : Beam) (lane : Nat) : DWord :=
  match homeOf s b with
  | some (bl, g, gr) =>
    let tb := (gr.widw.take gr.blklvl).foldl (fun x y => x + y) 0
    let sh := (gr.widw.take gr.ganglvl).foldl (fun x y => x + y) 0
    BitVec.ofNat 64 (g.coord * 2 ^ sh + bl.k * 2 ^ tb + (32 * b.idx + lane))
  | none => 0

/-- SEED of the beam's grid (R15). -/
def seedOf (s : State) (b : Beam) : Nat :=
  match homeOf s b with
  | some (_, _, gr) => gr.seed.toNat
  | none => 0

/-- The random word of a stochastic lane instruction: k1 = WID, k2 = (1 << 63) OR SRCTR (R50). -/
def srWord (s : State) (b : Beam) (lane : Nat) (l : Lane) : Nat :=
  randMix (seedOf s b) (widOf s b lane).toNat (2 ^ 63 + l.srctr.toNat)

/-- SRCTR advances by one (R50). -/
def srNext (l : Lane) : Lane := { l with srctr := l.srctr + 1 }

/-- d := f a with flags, guarded. -/
def floatUnary (g : Guard) (a : Src) (d : Nat) (f : Nat → FRes) : Effect :=
  laneEffect g [srcUse a 1] [regUse d 1] fun _ l => laneFloat l d (f (laneReg l a.r).toNat)

/-- d := f a b with flags, guarded. -/
def floatBinary (g : Guard) (b a : Src) (d : Nat) (f : Nat → Nat → FRes) : Effect :=
  laneEffect g [srcUse a 1, srcUse b 1] [regUse d 1] fun _ l => laneFloat l d (f (laneReg l a.r).toNat (laneReg l b.r).toNat)

/-- d := f a b d with flags, guarded. -/
def floatTernary (g : Guard) (b a : Src) (d : Nat) (f : Nat → Nat → Nat → FRes) : Effect :=
  laneEffect g [srcUse a 1, srcUse b 1, regUse d 1] [regUse d 1] fun _ l =>
    laneFloat l d (f (laneReg l a.r).toNat (laneReg l b.r).toNat (laneReg l d).toNat)

/-- d := f a b under a directed mode; .sr draws its word and advances SRCTR (R120). -/
def floatDirected (rm : RMode) (srcs : List Use) (d : Nat) (f : Nat → Lane → FRes) : Effect := fun x s =>
  let body : Nat → Lane → Lane := fun i l =>
    match rm with
    | .sr => srNext (laneFloat l d (f (srWord s x.beam i l) l))
    | .rne | .rtz | .rdn | .rup => laneFloat l d (f 0 l)
  laneEffect .always srcs [regUse d 1] body x s

end Sys2Proof.Machine
end

