-- ==== Sys2Proof/Machine/FloatOps.lean ====
section
/-!
DEFINITION. Floating-point instructions, opcodes 0x20-0x2D, and their 16-bit forms (R26, R120-R126). Each has its effect and
its meaning.
-/
namespace Sys2Proof.Machine

open Sys2Proof

/-! ## Values -/

/-- The FP32 value in a register. -/
def laneVal (l : Lane) (r : Nat) : FVal := fmtVal fp32 (laneReg l r).toNat

/-- FABS and FNEG: the code with its sign changed, the canonical NaN for a NaN (R121). -/
def signOp (code a : Nat) : FRes :=
  match fmtVal fp32 a with
  | .nan s => nanRes fp32 (snanFlag (.nan s))
  | .inf _ | .num _ _ _ => ⟨code, 0⟩

/-- BF16 element i of a register (R125). -/
def half (i x : Nat) : FVal := fmtVal bf16 (x / 2 ^ (16 * i) % 2 ^ 16)

/-- Both elements of a packed BF16 result, their flags ORed (R125). -/
def bf2 (f : Nat → FRes) : FRes := ⟨(f 0).code + 2 ^ 16 * (f 1).code, (f 0).flags ||| (f 1).flags⟩

/-- Whether a conversion rounds under SR (R126). -/
def stochastic : CvtKind → Bool
  | .bf16F32Sr | .e4m3F32Sr => true
  | .i32F32 | .i32F32Rtz | .z32F32 | .z32F32Rtz | .f32I32 | .f32Z32 | .bf16F32 | .f32Bf16 | .fp16F32 | .f32Fp16
  | .e4m3F32 | .e5m2F32 | .f32E4m3 | .f32E5m2 => false

/-- The conversions of CVT; u is the random word of the .sr forms (R126). -/
def convert (k : CvtKind) (u a : Nat) : FRes :=
  match k with
  | .i32F32 => fToInt .rne (-2147483648) 2147483647 a
  | .i32F32Rtz => fToInt .rtz (-2147483648) 2147483647 a
  | .z32F32 => fToInt .rne 0 4294967295 a
  | .z32F32Rtz => fToInt .rtz 0 4294967295 a
  | .f32I32 => roundInt fp32 .rne false 0 false (sext 32 a) 0
  | .f32Z32 => roundInt fp32 .rne false 0 false (a % 2 ^ 32 : Nat) 0
  | .bf16F32 => fNarrow bf16 .rne false 0 a
  | .f32Bf16 => fWiden bf16 a
  | .fp16F32 => fNarrow fp16 .rne false 0 a
  | .f32Fp16 => fWiden fp16 a
  | .e4m3F32 => fNarrow e4m3 .rne true 0 a
  | .e5m2F32 => fNarrow e5m2 .rne true 0 a
  | .f32E4m3 => fWiden e4m3 a
  | .f32E5m2 => fWiden e5m2 a
  | .bf16F32Sr => fNarrow bf16 .sr false u a
  | .e4m3F32Sr => fNarrow e4m3 .sr true u a

/-! ## Effects -/

/-- FADD (R120). -/
def effFadd (g : Guard) (b a : Src) (d : Nat) : Effect :=
  floatBinary g b a d fun a b => fAdd fp32 .rne 0 (fmtVal fp32 a) (fmtVal fp32 b)

/-- FSUB (R120). -/
def effFsub (g : Guard) (b a : Src) (d : Nat) : Effect :=
  floatBinary g b a d fun a b => fAdd fp32 .rne 0 (fmtVal fp32 a) (fNegVal (fmtVal fp32 b))

/-- FMUL (R120). -/
def effFmul (g : Guard) (b a : Src) (d : Nat) : Effect :=
  floatBinary g b a d fun a b => fMul fp32 .rne 0 (fmtVal fp32 a) (fmtVal fp32 b)

/-- FFMA (R120). -/
def effFfma (g : Guard) (b a : Src) (d : Nat) : Effect :=
  floatTernary g b a d fun a b d => fFma fp32 .rne 0 (fmtVal fp32 a) (fmtVal fp32 b) (fmtVal fp32 d)

/-- FMIN (R120). -/
def effFmin (g : Guard) (b a : Src) (d : Nat) : Effect :=
  floatBinary g b a d fun a b => fMinMax false a b

/-- FMAX (R120). -/
def effFmax (g : Guard) (b a : Src) (d : Nat) : Effect :=
  floatBinary g b a d fun a b => fMinMax true a b

/-- FABS (R121). -/
def effFabs (g : Guard) (a : Src) (d : Nat) : Effect :=
  floatUnary g a d fun a => signOp (a % 2 ^ 31) a

/-- FNEG (R121). -/
def effFneg (g : Guard) (a : Src) (d : Nat) : Effect :=
  floatUnary g a d fun a => signOp ((a + 2 ^ 31) % 2 ^ 32) a

/-- FRCP (R122). -/
def effFrcp (g : Guard) (a : Src) (d : Nat) : Effect :=
  floatUnary g a d fun a => fRcp (fmtVal fp32 a)

/-- FRSQ (R122). -/
def effFrsq (g : Guard) (a : Src) (d : Nat) : Effect :=
  floatUnary g a d fun a => fRsq (fmtVal fp32 a)

/-- FSQRT (R122). -/
def effFsqrt (g : Guard) (a : Src) (d : Nat) : Effect :=
  floatUnary g a d fun a => fSqrt (fmtVal fp32 a)

/-- FEXP2 (R122). -/
def effFexp2 (g : Guard) (a : Src) (d : Nat) : Effect :=
  floatUnary g a d fun a => fExp2 (fmtVal fp32 a)

/-- FLOG2 (R122). -/
def effFlog2 (g : Guard) (a : Src) (d : Nat) : Effect :=
  floatUnary g a d fun a => fLog2 (fmtVal fp32 a)

/-- FRND (R123). -/
def effFrnd (g : Guard) (rm : RMode) (a : Src) (d : Nat) : Effect :=
  floatUnary g a d fun a => fRnd rm a

/-- FCMP (R124). -/
def effFcmp (c : FCond) (b a : Src) (pd : Nat) : Effect :=
  laneEffect .always [srcUse a 1, srcUse b 1] [] fun _ l =>
    let r := fCompare c (laneReg l a.r).toNat (laneReg l b.r).toNat
    laneFlags (laneSetPred l pd r.1) r.2

/-- FDIV, a producer whose flags come with its result (R107, R120). -/
def effFdiv (g : Guard) (b a : Src) (d : Nat) : Effect :=
  producer (.fdiv g b a d) g [srcUse a 1, srcUse b 1] d 1 14 fun _ l =>
    let r := fDiv fp32 .rne (fmtVal fp32 (laneReg l a.r).toNat) (fmtVal fp32 (laneReg l b.r).toNat)
    (BitVec.ofNat 128 r.code, r.flags)

/-- faddDirected (R120). -/
def effFaddDirected (rm : RMode) (b a : Src) (d : Nat) : Effect :=
  floatDirected rm [srcUse a 1, srcUse b 1] d fun u l =>
    fAdd fp32 rm u (laneVal l a.r) (laneVal l b.r)

/-- fsubDirected (R120). -/
def effFsubDirected (rm : RMode) (b a : Src) (d : Nat) : Effect :=
  floatDirected rm [srcUse a 1, srcUse b 1] d fun u l =>
    fAdd fp32 rm u (laneVal l a.r) (fNegVal (laneVal l b.r))

/-- fmulDirected (R120). -/
def effFmulDirected (rm : RMode) (b a : Src) (d : Nat) : Effect :=
  floatDirected rm [srcUse a 1, srcUse b 1] d fun u l =>
    fMul fp32 rm u (laneVal l a.r) (laneVal l b.r)

/-- FFMA under a directed mode (R120). -/
def effFfmaDirected (rm : RMode) (b a : Src) (d : Nat) : Effect :=
  floatDirected rm [srcUse a 1, srcUse b 1, regUse d 1] d fun u l =>
    fFma fp32 rm u (laneVal l a.r) (laneVal l b.r) (laneVal l d)

/-- BADD2 (R125). -/
def effBadd2 (g : Guard) (b a : Src) (d : Nat) : Effect :=
  floatBinary g b a d fun a b => bf2 fun i => fAdd bf16 .rne 0 (half i a) (half i b)

/-- BMUL2 (R125). -/
def effBmul2 (g : Guard) (b a : Src) (d : Nat) : Effect :=
  floatBinary g b a d fun a b => bf2 fun i => fMul bf16 .rne 0 (half i a) (half i b)

/-- BFMA2 (R125). -/
def effBfma2 (g : Guard) (b a : Src) (d : Nat) : Effect :=
  floatTernary g b a d fun a b d => bf2 fun i => fFma bf16 .rne 0 (half i a) (half i b) (half i d)

/-- CVT (R126). -/
def effCvt (g : Guard) (k : CvtKind) (a : Src) (d : Nat) : Effect :=
  fun x s =>
  laneEffect g [srcUse a 1] [regUse d 1] (fun i l =>
    let r := laneFloat l d (convert k (srWord s x.beam i l) (laneReg l a.r).toNat)
    if stochastic k then srNext r else r) x s

/-! ## Meanings -/

/-- The meaning of FADD (R120). -/
def execFadd (g : Guard) (b a : Src) (d : Nat) (s : State) : Host.Outcome State Fault Refusal :=
  issue 4 (effFadd g b a d) s

/-- The meaning of FSUB (R120). -/
def execFsub (g : Guard) (b a : Src) (d : Nat) (s : State) : Host.Outcome State Fault Refusal :=
  issue 4 (effFsub g b a d) s

/-- The meaning of FMUL (R120). -/
def execFmul (g : Guard) (b a : Src) (d : Nat) (s : State) : Host.Outcome State Fault Refusal :=
  issue 4 (effFmul g b a d) s

/-- The meaning of FFMA (R120). -/
def execFfma (g : Guard) (b a : Src) (d : Nat) (s : State) : Host.Outcome State Fault Refusal :=
  issue 4 (effFfma g b a d) s

/-- The meaning of FMIN (R120). -/
def execFmin (g : Guard) (b a : Src) (d : Nat) (s : State) : Host.Outcome State Fault Refusal :=
  issue 4 (effFmin g b a d) s

/-- The meaning of FMAX (R120). -/
def execFmax (g : Guard) (b a : Src) (d : Nat) (s : State) : Host.Outcome State Fault Refusal :=
  issue 4 (effFmax g b a d) s

/-- The meaning of FABS (R121). -/
def execFabs (g : Guard) (a : Src) (d : Nat) (s : State) : Host.Outcome State Fault Refusal :=
  issue 4 (effFabs g a d) s

/-- The meaning of FNEG (R121). -/
def execFneg (g : Guard) (a : Src) (d : Nat) (s : State) : Host.Outcome State Fault Refusal :=
  issue 4 (effFneg g a d) s

/-- The meaning of FRCP (R122). -/
def execFrcp (g : Guard) (a : Src) (d : Nat) (s : State) : Host.Outcome State Fault Refusal :=
  issue 4 (effFrcp g a d) s

/-- The meaning of FRSQ (R122). -/
def execFrsq (g : Guard) (a : Src) (d : Nat) (s : State) : Host.Outcome State Fault Refusal :=
  issue 4 (effFrsq g a d) s

/-- The meaning of FSQRT (R122). -/
def execFsqrt (g : Guard) (a : Src) (d : Nat) (s : State) : Host.Outcome State Fault Refusal :=
  issue 4 (effFsqrt g a d) s

/-- The meaning of FEXP2 (R122). -/
def execFexp2 (g : Guard) (a : Src) (d : Nat) (s : State) : Host.Outcome State Fault Refusal :=
  issue 4 (effFexp2 g a d) s

/-- The meaning of FLOG2 (R122). -/
def execFlog2 (g : Guard) (a : Src) (d : Nat) (s : State) : Host.Outcome State Fault Refusal :=
  issue 4 (effFlog2 g a d) s

/-- The meaning of FRND (R123). -/
def execFrnd (g : Guard) (rm : RMode) (a : Src) (d : Nat) (s : State) : Host.Outcome State Fault Refusal :=
  issue 4 (effFrnd g rm a d) s

/-- The meaning of FCMP (R124). -/
def execFcmp (c : FCond) (b a : Src) (pd : Nat) (s : State) : Host.Outcome State Fault Refusal :=
  issue 4 (effFcmp c b a pd) s

/-- The meaning of FDIV, a producer whose flags come with its result (R107, R120). -/
def execFdiv (g : Guard) (b a : Src) (d : Nat) (s : State) : Host.Outcome State Fault Refusal :=
  issue 4 (effFdiv g b a d) s

/-- The meaning of faddDirected (R120). -/
def execFaddDirected (rm : RMode) (b a : Src) (d : Nat) (s : State) : Host.Outcome State Fault Refusal :=
  issue 4 (effFaddDirected rm b a d) s

/-- The meaning of fsubDirected (R120). -/
def execFsubDirected (rm : RMode) (b a : Src) (d : Nat) (s : State) : Host.Outcome State Fault Refusal :=
  issue 4 (effFsubDirected rm b a d) s

/-- The meaning of fmulDirected (R120). -/
def execFmulDirected (rm : RMode) (b a : Src) (d : Nat) (s : State) : Host.Outcome State Fault Refusal :=
  issue 4 (effFmulDirected rm b a d) s

/-- The meaning of FFMA under a directed mode (R120). -/
def execFfmaDirected (rm : RMode) (b a : Src) (d : Nat) (s : State) : Host.Outcome State Fault Refusal :=
  issue 4 (effFfmaDirected rm b a d) s

/-- The meaning of BADD2 (R125). -/
def execBadd2 (g : Guard) (b a : Src) (d : Nat) (s : State) : Host.Outcome State Fault Refusal :=
  issue 4 (effBadd2 g b a d) s

/-- The meaning of BMUL2 (R125). -/
def execBmul2 (g : Guard) (b a : Src) (d : Nat) (s : State) : Host.Outcome State Fault Refusal :=
  issue 4 (effBmul2 g b a d) s

/-- The meaning of BFMA2 (R125). -/
def execBfma2 (g : Guard) (b a : Src) (d : Nat) (s : State) : Host.Outcome State Fault Refusal :=
  issue 4 (effBfma2 g b a d) s

/-- The meaning of CVT (R126). -/
def execCvt (g : Guard) (k : CvtKind) (a : Src) (d : Nat) (s : State) : Host.Outcome State Fault Refusal :=
  issue 4 (effCvt g k a d) s

/-! ## The 16-bit forms: the T forms on (d, d, a), the first source under the block policy (R26) -/

/-- The meaning of faddS (R26). -/
def execFaddS (d : Nat) (a : Src) (s : State) : Host.Outcome State Fault Refusal :=
  issue 2 (effFadd .always a ⟨d, false⟩ d) s

/-- The meaning of fsubS (R26). -/
def execFsubS (d : Nat) (a : Src) (s : State) : Host.Outcome State Fault Refusal :=
  issue 2 (effFsub .always a ⟨d, false⟩ d) s

/-- The meaning of fmulS (R26). -/
def execFmulS (d : Nat) (a : Src) (s : State) : Host.Outcome State Fault Refusal :=
  issue 2 (effFmul .always a ⟨d, false⟩ d) s

/-- The meaning of fmaxS (R26). -/
def execFmaxS (d : Nat) (a : Src) (s : State) : Host.Outcome State Fault Refusal :=
  issue 2 (effFmax .always a ⟨d, false⟩ d) s

end Sys2Proof.Machine
end

