-- ==== Sys2Proof/Machine/IntOps.lean ====
section
/-!
DEFINITION. Integer and logical instructions, opcodes 0x00-0x1F, and their 16-bit forms (R26, R109-R119, R135). Each has its
effect, which macro steps also use (R101), and its meaning.
-/
namespace Sys2Proof.Machine

open Sys2Proof

/-! ## Values -/

/-- The count of a shift: b[7:0] (R113). -/
def shiftCount (b : Word) : Nat := b.toNat % 256

/-- ROTL (R113). -/
def rotlWord (a b : Word) : Word := a.rotateLeft (shiftCount b % 32)

/-- Bits 63:32 of the exact product (R110). -/
def mulHigh (unsigned : Bool) (a b : Word) : Word :=
  if unsigned then BitVec.ofNat 32 (a.toNat * b.toNat / 2 ^ 32) else wordOf (a.toInt * b.toInt / 2 ^ 32)

/-- Leading zeros of an n-bit number (R114). -/
def leadingZeros (n x : Nat) : Nat := if x = 0 then n else n - 1 - Nat.log2 x

/-- Set bits among the low n (R114). -/
def popCount (n x : Nat) : Nat := (bitsOf n x).length

/-- BREV (R114). -/
def bitReverse (a : Word) : Word := BitVec.ofNat 32 (maskOf ((bitsOf 32 a.toNat).map fun i => 31 - i))

/-- |a| modulo 2^n (R114). -/
def absWord (a : Word) : Word := if a.msb then -a else a
def absPair (a : DWord) : DWord := if a.msb then -a else a

/-- pos and len of BFX and BFI (R115). -/
def fieldPos (b : Word) : Nat := b.toNat % 32
def fieldLen (b : Word) : Nat := Nat.min (fld b.toNat 13 8) (32 - fieldPos b)

/-- BFX (R115). -/
def bitExtract (isSigned : Bool) (a b : Word) : Word :=
  let len := fieldLen b
  let f := a.toNat / 2 ^ fieldPos b % 2 ^ len
  if len = 0 then 0
  else if isSigned && bit f (len - 1) then wordOf ((f : Int) - 2 ^ len)
  else BitVec.ofNat 32 f

/-- BFI (R115). -/
def bitInsert (a b d : Word) : Word :=
  let m : Word := BitVec.ofNat 32 ((2 ^ fieldLen b - 1) * 2 ^ fieldPos b)
  (d &&& ~~~ m) ||| ((a <<< fieldPos b) &&& m)

/-- The condition of ICMP on two integers (R116). -/
def intCond (c : ICond) (a b : Int) : Bool :=
  match c with
  | .eq => decide (a = b)
  | .ne => decide (a ≠ b)
  | .lt => decide (a < b)
  | .le => decide (a ≤ b)
  | .gt => decide (b < a)
  | .ge => decide (b ≤ a)

/-- A word or pair read as signed or unsigned (R116). -/
def asInt {n : Nat} (unsigned : Bool) (x : BitVec n) : Int := if unsigned then (x.toNat : Int) else x.toInt

/-- The lesser or greater of two, signed or unsigned (R119). -/
def pick {n : Nat} (unsigned isMax : Bool) (a b : BitVec n) : BitVec n :=
  if decide (asInt unsigned a ≤ asInt unsigned b) != isMax then a else b

/-- The truncating quotient, the most negative value by -1 giving itself (R38, R111). -/
def quotient {n : Nat} (unsigned : Bool) (a b : BitVec n) : BitVec n :=
  if unsigned then BitVec.ofNat n (a.toNat / b.toNat) else BitVec.ofInt n (Int.tdiv a.toInt b.toInt)

/-- The remainder, with the sign of the dividend (R38, R111). -/
def remainder {n : Nat} (unsigned : Bool) (a b : BitVec n) : BitVec n := a - quotient unsigned a b * b

/-- IDIV and IREM (R111): IntegerDivide where a divisor is 0, before any effect; else a producer. A wait for an unfinished producer of
the destination goes before that trap: R111 does not say. DESIGN CHOICE (log 12). -/
def divide (i : Instr) (w : Bool) (b a : Src) (d bound : Nat) (f : Lane → QWord) : Effect := fun x s =>
  let n := if w then 2 else 1
  let zero := x.run.filter fun j =>
    if w then lanePair (laneOf x.beam j) b.r == 0 else laneReg (laneOf x.beam j) b.r == 0
  gated x s x.run [srcUse a n, srcUse b n] [regUse d n]
    (if zero.isEmpty then
      .done (startProducer x s i d n .result (x.run.map fun j => resultLane j (f (laneOf x.beam j)) 0) bound) []
    else .trap s { trapOf x 0x14 with lanes := maskOf zero })

/-- A quotient or remainder as a result, by width. -/
def divideValue (w : Bool) (a b : Nat) (f : Word → Word → Word) (g : DWord → DWord → DWord) (l : Lane) : QWord :=
  if w then (g (lanePair l a) (lanePair l b)).setWidth 128 else (f (laneReg l a) (laneReg l b)).setWidth 128

/-- The lanes of a list whose register index lies outside 64 to A - D - 1 (R135). -/
def badIndex (s : State) (x : Sel) (r : Nat) : List Nat :=
  match homeOf s x.beam with
  | some (_, _, gr) =>
    x.run.filter fun j =>
      let i := (laneReg (laneOf x.beam j) r).toNat
      decide (i < 64) || decide (allot gr - gr.depth ≤ i)
  | none => x.run

/-- The precise ProtectionFault of an index (R135, R291). -/
def indexTrap (x : Sel) (r : Nat) (bad : List Nat) : Trap :=
  let i := leastD 0 bad
  { trapOf x 0x08 with lane := i, addr := (laneReg (laneOf x.beam i) r).setWidth 64 }

/-! ## Effects -/

/-- MOV.b32 (R109). -/
def effMovB32 (g : Guard) (a : Src) (d : Nat) : Effect :=
  unary g a d fun a => a

/-- MOVI (R109). -/
def effMovi (d i18 : Nat) : Effect :=
  laneEffect .always [] [regUse d 1] fun _ l => laneSet l d (wordOf (sext 18 i18))

/-- MOVHI, d read under the block policy (R109). -/
def effMovhi (d i18 : Nat) : Effect :=
  laneEffect .always [regUse d 1] [regUse d 1] fun _ l =>
    laneSet l d (BitVec.ofNat 32 (i18 * 16384 + (laneReg l d).toNat % 16384))

/-- IADD (R110). -/
def effIadd (g : Guard) (b a : Src) (d : Nat) : Effect :=
  binary g b a d fun a b => a + b

/-- ISUB (R110). -/
def effIsub (g : Guard) (b a : Src) (d : Nat) : Effect :=
  binary g b a d fun a b => a - b

/-- IMUL (R110). -/
def effImul (g : Guard) (b a : Src) (d : Nat) : Effect :=
  binary g b a d fun a b => a * b

/-- AND (R112). -/
def effAnd (g : Guard) (b a : Src) (d : Nat) : Effect :=
  binary g b a d fun a b => a &&& b

/-- OR (R112). -/
def effOr (g : Guard) (b a : Src) (d : Nat) : Effect :=
  binary g b a d fun a b => a ||| b

/-- XOR (R112). -/
def effXor (g : Guard) (b a : Src) (d : Nat) : Effect :=
  binary g b a d fun a b => a ^^^ b

/-- ANDN (R112). -/
def effAndn (g : Guard) (b a : Src) (d : Nat) : Effect :=
  binary g b a d fun a b => a &&& ~~~ b

/-- SHL (R113). -/
def effShl (g : Guard) (b a : Src) (d : Nat) : Effect :=
  binary g b a d fun a b => a <<< shiftCount b

/-- SHR (R113). -/
def effShr (g : Guard) (b a : Src) (d : Nat) : Effect :=
  binary g b a d fun a b => a >>> shiftCount b

/-- SRA (R113). -/
def effSra (g : Guard) (b a : Src) (d : Nat) : Effect :=
  binary g b a d fun a b => a.sshiftRight (shiftCount b)

/-- ROTL (R113). -/
def effRotl (g : Guard) (b a : Src) (d : Nat) : Effect :=
  binary g b a d fun a b => rotlWord a b

/-- IMINI32 (R119). -/
def effIminI32 (g : Guard) (b a : Src) (d : Nat) : Effect :=
  binary g b a d fun a b => pick false false a b

/-- IMAXI32 (R119). -/
def effImaxI32 (g : Guard) (b a : Src) (d : Nat) : Effect :=
  binary g b a d fun a b => pick false true a b

/-- IMINZ32 (R119). -/
def effIminZ32 (g : Guard) (b a : Src) (d : Nat) : Effect :=
  binary g b a d fun a b => pick true false a b

/-- IMAXZ32 (R119). -/
def effImaxZ32 (g : Guard) (b a : Src) (d : Nat) : Effect :=
  binary g b a d fun a b => pick true true a b

/-- IADDI (R110). -/
def effIaddi (g : Guard) (i7 : Nat) (a : Src) (d : Nat) : Effect :=
  unary g a d fun a => a + wordOf (sext 7 i7)

/-- IMAD (R110). -/
def effImad (g : Guard) (b a : Src) (d : Nat) : Effect :=
  ternary g b a d fun a b d => a * b + d

/-- ICMP of single registers (R116). -/
def effIcmp32 (u : Bool) (c : ICond) (b a : Src) (pd : Nat) : Effect :=
  compare b a pd fun a b => intCond c (asInt u a) (asInt u b)

/-- ICMP of pairs (R116). -/
def effIcmp64 (u : Bool) (c : ICond) (b a : Src) (pd : Nat) : Effect :=
  comparePair b a pd fun a b => intCond c (asInt u a) (asInt u b)

/-- SEL (R117). -/
def effSel (p : Nat) (b a : Src) (d : Nat) : Effect :=
  laneEffect .always [srcUse a 1, srcUse b 1] [regUse d 1] fun _ l =>
    laneSet l d (if lanePred l p then laneReg l a.r else laneReg l b.r)

/-- LEA (R118). -/
def effLea (sh : Nat) (b a : Src) (d : Nat) : Effect :=
  binaryMixed b a d fun a b => a + (b.signExtend 64 <<< sh)

/-- IMULH; u: unsigned (R110). -/
def effImulh (u : Bool) (b a : Src) (d : Nat) : Effect :=
  binary .always b a d fun a b => mulHigh u a b

/-- IDIV (R111). -/
def effIdiv (w u : Bool) (b a : Src) (d : Nat) : Effect :=
  divide (.idiv w u b a d) w b a d (if w then 40 else 24) (divideValue w a.r b.r (quotient u) (quotient u))

/-- IREM (R111). -/
def effIrem (w u : Bool) (b a : Src) (d : Nat) : Effect :=
  divide (.irem w u b a d) w b a d (if w then 40 else 24) (divideValue w a.r b.r (remainder u) (remainder u))

/-- INEGI32 (R112, R114). -/
def effInegI32 (g : Guard) (a : Src) (d : Nat) : Effect :=
  unary g a d fun a => -a

/-- IABSI32 (R112, R114). -/
def effIabsI32 (g : Guard) (a : Src) (d : Nat) : Effect :=
  unary g a d fun a => absWord a

/-- NOTB32 (R112, R114). -/
def effNotB32 (g : Guard) (a : Src) (d : Nat) : Effect :=
  unary g a d fun a => ~~~ a

/-- CLZB32 (R112, R114). -/
def effClzB32 (g : Guard) (a : Src) (d : Nat) : Effect :=
  unary g a d fun a => BitVec.ofNat 32 (leadingZeros 32 a.toNat)

/-- POPCB32 (R112, R114). -/
def effPopcB32 (g : Guard) (a : Src) (d : Nat) : Effect :=
  unary g a d fun a => BitVec.ofNat 32 (popCount 32 a.toNat)

/-- BREV (R112, R114). -/
def effBrev (g : Guard) (a : Src) (d : Nat) : Effect :=
  unary g a d fun a => bitReverse a

/-- INEG.i64 (R114). -/
def effInegI64 (g : Guard) (a : Src) (d : Nat) : Effect :=
  unaryPair g a d fun a => -a

/-- IABS.i64 (R114). -/
def effIabsI64 (g : Guard) (a : Src) (d : Nat) : Effect :=
  unaryPair g a d fun a => absPair a

/-- CLZ.b64 (R114). -/
def effClzB64 (g : Guard) (a : Src) (d : Nat) : Effect :=
  unaryNarrow g a d fun a => BitVec.ofNat 32 (leadingZeros 64 a.toNat)

/-- POPC.b64 (R114). -/
def effPopcB64 (g : Guard) (a : Src) (d : Nat) : Effect :=
  unaryNarrow g a d fun a => BitVec.ofNat 32 (popCount 64 a.toNat)

/-- BFX; u: .i32 (R115). -/
def effBfx (u : Bool) (b a : Src) (d : Nat) : Effect :=
  binary .always b a d fun a b => bitExtract u a b

/-- BFI (R115). -/
def effBfi (b a : Src) (d : Nat) : Effect :=
  ternary .always b a d fun a b d => bitInsert a b d

/-- MOV.b64 (R109). -/
def effMovB64 (a : Src) (d : Nat) : Effect :=
  unaryPair .always a d fun a => a

/-- isubI64 (R110). -/
def effIsubI64 (b a : Src) (d : Nat) : Effect :=
  binaryPair .always b a d fun a b => a - b

/-- imulI64 (R110). -/
def effImulI64 (b a : Src) (d : Nat) : Effect :=
  binaryPair .always b a d fun a b => a * b

/-- iminI64 (R119). -/
def effIminI64 (b a : Src) (d : Nat) : Effect :=
  binaryPair .always b a d fun a b => pick false false a b

/-- imaxI64 (R119). -/
def effImaxI64 (b a : Src) (d : Nat) : Effect :=
  binaryPair .always b a d fun a b => pick false true a b

/-- iminZ64 (R119). -/
def effIminZ64 (b a : Src) (d : Nat) : Effect :=
  binaryPair .always b a d fun a b => pick true false a b

/-- imaxZ64 (R119). -/
def effImaxZ64 (b a : Src) (d : Nat) : Effect :=
  binaryPair .always b a d fun a b => pick true true a b

/-- andB64 (R112). -/
def effAndB64 (b a : Src) (d : Nat) : Effect :=
  binaryPair .always b a d fun a b => a &&& b

/-- orB64 (R112). -/
def effOrB64 (b a : Src) (d : Nat) : Effect :=
  binaryPair .always b a d fun a b => a ||| b

/-- xorB64 (R112). -/
def effXorB64 (b a : Src) (d : Nat) : Effect :=
  binaryPair .always b a d fun a b => a ^^^ b

/-- shlB64 (R113). -/
def effShlB64 (b a : Src) (d : Nat) : Effect :=
  binaryMixed b a d fun a b => a <<< shiftCount b

/-- shrB64 (R113). -/
def effShrB64 (b a : Src) (d : Nat) : Effect :=
  binaryMixed b a d fun a b => a >>> shiftCount b

/-- sraB64 (R113). -/
def effSraB64 (b a : Src) (d : Nat) : Effect :=
  binaryMixed b a d fun a b => a.sshiftRight (shiftCount b)

/-- IADD.i64 (R110). -/
def effIaddI64 (g : Guard) (b a : Src) (d : Nat) : Effect :=
  binaryPair g b a d fun a b => a + b

/-- GXLD (R135). A wait for an unfinished producer of the destination goes before the trap of a bad index: R135 does not say. DESIGN
CHOICE (log 12). -/
def effGxld (a : Src) (d : Nat) : Effect :=
  fun x s =>
  let bad := badIndex s x a.r
  gated x s x.run [srcUse a 1] [regUse d 1]
    (if bad.isEmpty then
      .done (startProducer x s (.gxld a d) d 1 .result (x.run.map fun j =>
        let l := laneOf x.beam j
        resultLane j ((laneReg l (laneReg l a.r).toNat).setWidth 128) 0) 6) []
    else .trap s (indexTrap x a.r bad))

/-- GXST (R135). -/
def effGxst (b a : Src) : Effect :=
  fun x s =>
  let bad := badIndex s x a.r
  gated x s x.run [srcUse a 1, srcUse b 1] []
    (if bad.isEmpty then
      .done (onLanes s x.key x.run fun _ l => laneSet l (laneReg l a.r).toNat (laneReg l b.r)) []
    else .trap s (indexTrap x a.r bad))

/-! ## Meanings -/

/-- The meaning of MOV.b32 (R109). -/
def execMovB32 (g : Guard) (a : Src) (d : Nat) (s : State) : Host.Outcome State Fault Refusal :=
  issue 4 (effMovB32 g a d) s

/-- The meaning of MOVI (R109). -/
def execMovi (d i18 : Nat) (s : State) : Host.Outcome State Fault Refusal :=
  issue 4 (effMovi d i18) s

/-- The meaning of MOVHI, d read under the block policy (R109). -/
def execMovhi (d i18 : Nat) (s : State) : Host.Outcome State Fault Refusal :=
  issue 4 (effMovhi d i18) s

/-- The meaning of IADD (R110). -/
def execIadd (g : Guard) (b a : Src) (d : Nat) (s : State) : Host.Outcome State Fault Refusal :=
  issue 4 (effIadd g b a d) s

/-- The meaning of ISUB (R110). -/
def execIsub (g : Guard) (b a : Src) (d : Nat) (s : State) : Host.Outcome State Fault Refusal :=
  issue 4 (effIsub g b a d) s

/-- The meaning of IMUL (R110). -/
def execImul (g : Guard) (b a : Src) (d : Nat) (s : State) : Host.Outcome State Fault Refusal :=
  issue 4 (effImul g b a d) s

/-- The meaning of AND (R112). -/
def execAnd (g : Guard) (b a : Src) (d : Nat) (s : State) : Host.Outcome State Fault Refusal :=
  issue 4 (effAnd g b a d) s

/-- The meaning of OR (R112). -/
def execOr (g : Guard) (b a : Src) (d : Nat) (s : State) : Host.Outcome State Fault Refusal :=
  issue 4 (effOr g b a d) s

/-- The meaning of XOR (R112). -/
def execXor (g : Guard) (b a : Src) (d : Nat) (s : State) : Host.Outcome State Fault Refusal :=
  issue 4 (effXor g b a d) s

/-- The meaning of ANDN (R112). -/
def execAndn (g : Guard) (b a : Src) (d : Nat) (s : State) : Host.Outcome State Fault Refusal :=
  issue 4 (effAndn g b a d) s

/-- The meaning of SHL (R113). -/
def execShl (g : Guard) (b a : Src) (d : Nat) (s : State) : Host.Outcome State Fault Refusal :=
  issue 4 (effShl g b a d) s

/-- The meaning of SHR (R113). -/
def execShr (g : Guard) (b a : Src) (d : Nat) (s : State) : Host.Outcome State Fault Refusal :=
  issue 4 (effShr g b a d) s

/-- The meaning of SRA (R113). -/
def execSra (g : Guard) (b a : Src) (d : Nat) (s : State) : Host.Outcome State Fault Refusal :=
  issue 4 (effSra g b a d) s

/-- The meaning of ROTL (R113). -/
def execRotl (g : Guard) (b a : Src) (d : Nat) (s : State) : Host.Outcome State Fault Refusal :=
  issue 4 (effRotl g b a d) s

/-- The meaning of IMINI32 (R119). -/
def execIminI32 (g : Guard) (b a : Src) (d : Nat) (s : State) : Host.Outcome State Fault Refusal :=
  issue 4 (effIminI32 g b a d) s

/-- The meaning of IMAXI32 (R119). -/
def execImaxI32 (g : Guard) (b a : Src) (d : Nat) (s : State) : Host.Outcome State Fault Refusal :=
  issue 4 (effImaxI32 g b a d) s

/-- The meaning of IMINZ32 (R119). -/
def execIminZ32 (g : Guard) (b a : Src) (d : Nat) (s : State) : Host.Outcome State Fault Refusal :=
  issue 4 (effIminZ32 g b a d) s

/-- The meaning of IMAXZ32 (R119). -/
def execImaxZ32 (g : Guard) (b a : Src) (d : Nat) (s : State) : Host.Outcome State Fault Refusal :=
  issue 4 (effImaxZ32 g b a d) s

/-- The meaning of IADDI (R110). -/
def execIaddi (g : Guard) (i7 : Nat) (a : Src) (d : Nat) (s : State) : Host.Outcome State Fault Refusal :=
  issue 4 (effIaddi g i7 a d) s

/-- The meaning of IMAD (R110). -/
def execImad (g : Guard) (b a : Src) (d : Nat) (s : State) : Host.Outcome State Fault Refusal :=
  issue 4 (effImad g b a d) s

/-- The meaning of ICMP of single registers (R116). -/
def execIcmp32 (u : Bool) (c : ICond) (b a : Src) (pd : Nat) (s : State) : Host.Outcome State Fault Refusal :=
  issue 4 (effIcmp32 u c b a pd) s

/-- The meaning of ICMP of pairs (R116). -/
def execIcmp64 (u : Bool) (c : ICond) (b a : Src) (pd : Nat) (s : State) : Host.Outcome State Fault Refusal :=
  issue 4 (effIcmp64 u c b a pd) s

/-- The meaning of SEL (R117). -/
def execSel (p : Nat) (b a : Src) (d : Nat) (s : State) : Host.Outcome State Fault Refusal :=
  issue 4 (effSel p b a d) s

/-- The meaning of LEA (R118). -/
def execLea (sh : Nat) (b a : Src) (d : Nat) (s : State) : Host.Outcome State Fault Refusal :=
  issue 4 (effLea sh b a d) s

/-- The meaning of IMULH; u: unsigned (R110). -/
def execImulh (u : Bool) (b a : Src) (d : Nat) (s : State) : Host.Outcome State Fault Refusal :=
  issue 4 (effImulh u b a d) s

/-- The meaning of IDIV (R111). -/
def execIdiv (w u : Bool) (b a : Src) (d : Nat) (s : State) : Host.Outcome State Fault Refusal :=
  issue 4 (effIdiv w u b a d) s

/-- The meaning of IREM (R111). -/
def execIrem (w u : Bool) (b a : Src) (d : Nat) (s : State) : Host.Outcome State Fault Refusal :=
  issue 4 (effIrem w u b a d) s

/-- The meaning of INEGI32 (R112, R114). -/
def execInegI32 (g : Guard) (a : Src) (d : Nat) (s : State) : Host.Outcome State Fault Refusal :=
  issue 4 (effInegI32 g a d) s

/-- The meaning of IABSI32 (R112, R114). -/
def execIabsI32 (g : Guard) (a : Src) (d : Nat) (s : State) : Host.Outcome State Fault Refusal :=
  issue 4 (effIabsI32 g a d) s

/-- The meaning of NOTB32 (R112, R114). -/
def execNotB32 (g : Guard) (a : Src) (d : Nat) (s : State) : Host.Outcome State Fault Refusal :=
  issue 4 (effNotB32 g a d) s

/-- The meaning of CLZB32 (R112, R114). -/
def execClzB32 (g : Guard) (a : Src) (d : Nat) (s : State) : Host.Outcome State Fault Refusal :=
  issue 4 (effClzB32 g a d) s

/-- The meaning of POPCB32 (R112, R114). -/
def execPopcB32 (g : Guard) (a : Src) (d : Nat) (s : State) : Host.Outcome State Fault Refusal :=
  issue 4 (effPopcB32 g a d) s

/-- The meaning of BREV (R112, R114). -/
def execBrev (g : Guard) (a : Src) (d : Nat) (s : State) : Host.Outcome State Fault Refusal :=
  issue 4 (effBrev g a d) s

/-- The meaning of INEG.i64 (R114). -/
def execInegI64 (g : Guard) (a : Src) (d : Nat) (s : State) : Host.Outcome State Fault Refusal :=
  issue 4 (effInegI64 g a d) s

/-- The meaning of IABS.i64 (R114). -/
def execIabsI64 (g : Guard) (a : Src) (d : Nat) (s : State) : Host.Outcome State Fault Refusal :=
  issue 4 (effIabsI64 g a d) s

/-- The meaning of CLZ.b64 (R114). -/
def execClzB64 (g : Guard) (a : Src) (d : Nat) (s : State) : Host.Outcome State Fault Refusal :=
  issue 4 (effClzB64 g a d) s

/-- The meaning of POPC.b64 (R114). -/
def execPopcB64 (g : Guard) (a : Src) (d : Nat) (s : State) : Host.Outcome State Fault Refusal :=
  issue 4 (effPopcB64 g a d) s

/-- The meaning of BFX; u: .i32 (R115). -/
def execBfx (u : Bool) (b a : Src) (d : Nat) (s : State) : Host.Outcome State Fault Refusal :=
  issue 4 (effBfx u b a d) s

/-- The meaning of BFI (R115). -/
def execBfi (b a : Src) (d : Nat) (s : State) : Host.Outcome State Fault Refusal :=
  issue 4 (effBfi b a d) s

/-- The meaning of MOV.b64 (R109). -/
def execMovB64 (a : Src) (d : Nat) (s : State) : Host.Outcome State Fault Refusal :=
  issue 4 (effMovB64 a d) s

/-- The meaning of isubI64 (R110). -/
def execIsubI64 (b a : Src) (d : Nat) (s : State) : Host.Outcome State Fault Refusal :=
  issue 4 (effIsubI64 b a d) s

/-- The meaning of imulI64 (R110). -/
def execImulI64 (b a : Src) (d : Nat) (s : State) : Host.Outcome State Fault Refusal :=
  issue 4 (effImulI64 b a d) s

/-- The meaning of iminI64 (R119). -/
def execIminI64 (b a : Src) (d : Nat) (s : State) : Host.Outcome State Fault Refusal :=
  issue 4 (effIminI64 b a d) s

/-- The meaning of imaxI64 (R119). -/
def execImaxI64 (b a : Src) (d : Nat) (s : State) : Host.Outcome State Fault Refusal :=
  issue 4 (effImaxI64 b a d) s

/-- The meaning of iminZ64 (R119). -/
def execIminZ64 (b a : Src) (d : Nat) (s : State) : Host.Outcome State Fault Refusal :=
  issue 4 (effIminZ64 b a d) s

/-- The meaning of imaxZ64 (R119). -/
def execImaxZ64 (b a : Src) (d : Nat) (s : State) : Host.Outcome State Fault Refusal :=
  issue 4 (effImaxZ64 b a d) s

/-- The meaning of andB64 (R112). -/
def execAndB64 (b a : Src) (d : Nat) (s : State) : Host.Outcome State Fault Refusal :=
  issue 4 (effAndB64 b a d) s

/-- The meaning of orB64 (R112). -/
def execOrB64 (b a : Src) (d : Nat) (s : State) : Host.Outcome State Fault Refusal :=
  issue 4 (effOrB64 b a d) s

/-- The meaning of xorB64 (R112). -/
def execXorB64 (b a : Src) (d : Nat) (s : State) : Host.Outcome State Fault Refusal :=
  issue 4 (effXorB64 b a d) s

/-- The meaning of shlB64 (R113). -/
def execShlB64 (b a : Src) (d : Nat) (s : State) : Host.Outcome State Fault Refusal :=
  issue 4 (effShlB64 b a d) s

/-- The meaning of shrB64 (R113). -/
def execShrB64 (b a : Src) (d : Nat) (s : State) : Host.Outcome State Fault Refusal :=
  issue 4 (effShrB64 b a d) s

/-- The meaning of sraB64 (R113). -/
def execSraB64 (b a : Src) (d : Nat) (s : State) : Host.Outcome State Fault Refusal :=
  issue 4 (effSraB64 b a d) s

/-- The meaning of IADD.i64 (R110). -/
def execIaddI64 (g : Guard) (b a : Src) (d : Nat) (s : State) : Host.Outcome State Fault Refusal :=
  issue 4 (effIaddI64 g b a d) s

/-- The meaning of GXLD (R135). -/
def execGxld (a : Src) (d : Nat) (s : State) : Host.Outcome State Fault Refusal :=
  issue 4 (effGxld a d) s

/-- The meaning of GXST (R135). -/
def execGxst (b a : Src) (s : State) : Host.Outcome State Fault Refusal :=
  issue 4 (effGxst b a) s

/-! ## The 16-bit forms: the T forms on (d, d, a), the first source under the block policy (R26) -/

/-- The meaning of movS (R26). -/
def execMovS (d : Nat) (a : Src) (s : State) : Host.Outcome State Fault Refusal :=
  issue 2 (effMovB32 .always a d) s

/-- The meaning of iaddS (R26). -/
def execIaddS (d : Nat) (a : Src) (s : State) : Host.Outcome State Fault Refusal :=
  issue 2 (effIadd .always a ⟨d, false⟩ d) s

/-- The meaning of isubS (R26). -/
def execIsubS (d : Nat) (a : Src) (s : State) : Host.Outcome State Fault Refusal :=
  issue 2 (effIsub .always a ⟨d, false⟩ d) s

/-- The meaning of imulS (R26). -/
def execImulS (d : Nat) (a : Src) (s : State) : Host.Outcome State Fault Refusal :=
  issue 2 (effImul .always a ⟨d, false⟩ d) s

/-- The meaning of andS (R26). -/
def execAndS (d : Nat) (a : Src) (s : State) : Host.Outcome State Fault Refusal :=
  issue 2 (effAnd .always a ⟨d, false⟩ d) s

/-- The meaning of orS (R26). -/
def execOrS (d : Nat) (a : Src) (s : State) : Host.Outcome State Fault Refusal :=
  issue 2 (effOr .always a ⟨d, false⟩ d) s

/-- The meaning of xorS (R26). -/
def execXorS (d : Nat) (a : Src) (s : State) : Host.Outcome State Fault Refusal :=
  issue 2 (effXor .always a ⟨d, false⟩ d) s

/-- The meaning of shlS (R26). -/
def execShlS (d : Nat) (a : Src) (s : State) : Host.Outcome State Fault Refusal :=
  issue 2 (effShl .always a ⟨d, false⟩ d) s

/-- The meaning of shrS (R26). -/
def execShrS (d : Nat) (a : Src) (s : State) : Host.Outcome State Fault Refusal :=
  issue 2 (effShr .always a ⟨d, false⟩ d) s

/-- The meaning of sraS (R26). -/
def execSraS (d : Nat) (a : Src) (s : State) : Host.Outcome State Fault Refusal :=
  issue 2 (effSra .always a ⟨d, false⟩ d) s

/-- The meaning of iminS (R26). -/
def execIminS (d : Nat) (a : Src) (s : State) : Host.Outcome State Fault Refusal :=
  issue 2 (effIminI32 .always a ⟨d, false⟩ d) s

/-- The meaning of imaxS (R26). -/
def execImaxS (d : Nat) (a : Src) (s : State) : Host.Outcome State Fault Refusal :=
  issue 2 (effImaxI32 .always a ⟨d, false⟩ d) s

end Sys2Proof.Machine
end

