-- ==== Sys2Proof/Machine/Launch.lean ====
section
/-!
DEFINITION. Launch packets and queues (R61-R69, R73), acceptance (R14-R19, R78), and the completion word (R63). Events
DEPENDENCE_POLL, DEADLINE_MISS, PACKET_SELECT, PACKET_ACCEPT, REWIND_POP and COMPLETION_WORD_WRITE.
-/
namespace Sys2Proof.Machine

open Sys2Proof

/-! ## Packets (R61, R62) -/

def pkType (l : List Byte) : Nat := bytesFld l 1 0
def pkClass (l : List Byte) : Nat := bytesFld l 2 2
def pkMissdrop (l : List Byte) : Bool := bytesFld l 8 8 == 1
def pkTapeon (l : List Byte) : Bool := bytesFld l 9 9 == 1
def pkQsel (l : List Byte) : Nat := bytesFld l 31 24
def pkTag (l : List Byte) : Nat := bytesFld l 63 32
def pkDeadline (l : List Byte) : Nat := bytesFld l 127 64
def pkKimg (l : List Byte) : Nat := bytesFld l 191 128
def pkArgs (l : List Byte) : Nat := bytesFld l 255 192
def pkWidbase (l : List Byte) : Nat := bytesFld l 319 256
def pkWidlim (l : List Byte) : Nat := bytesFld l 383 320
def pkSignal (l : List Byte) : Nat := bytesFld l 447 384
def pkTapeb (l : List Byte) : Nat := bytesFld l 511 448
def pkTapel (l : List Byte) : Nat := bytesFld l 575 512
def pkKind (l : List Byte) (k : Nat) : Nat := bytesFld l (576 + 128 * k + 65) (576 + 128 * k + 64)
def pkOpnd (l : List Byte) (k : Nat) : Nat := bytesFld l (576 + 128 * k + 63) (576 + 128 * k)

/-- R62: a WAIT entry that the head checks refuse. -/
def waitBad (l : List Byte) (k : Nat) : Bool :=
  bytesFld l (576 + 128 * k + 127) (576 + 128 * k + 66) != 0 ||
    match pkKind l k with
    | 0 => false
    | 1 => pkOpnd l k % 8 != 0
    | 2 => true
    | _ => fld (pkOpnd l k) 47 14 != 0

/-- R61: a packet that the head checks refuse, the tape rules apart. -/
def packetBad (l : List Byte) : Bool :=
  bytesFld l 2047 1088 != 0 || bytesFld l 23 10 != 0 || bytesFld l 7 3 != 0 || pkType l == 3 || pkSignal l % 8 != 0 ||
    ((pkType l == 1 || pkType l == 2) &&
      (pkKimg l != 0 || pkArgs l != 0 || pkWidbase l != 0 || pkWidlim l != 0 || pkTapeb l != 0 || pkTapel l != 0 ||
        pkTapeon l)) ||
    (upTo 4).any (waitBad l)

/-- Statuses of the completion word (R63). -/
def stDone : Nat := 1
def stMissed : Nat := 2
def stBadImage : Nat := 3
def stUnplaceable : Nat := 4
def stBadPacket : Nat := 5
def stDepFailed : Nat := 6
def stAborted : Nat := 7

/-! ## Queue registers (R64, R65) -/

def lqN (s : State) (q : Nat) : Nat := 2 ^ fld (csrN s 0 (lq q 2)) 3 0
def lqHd (s : State) (q : Nat) : Nat := csrN s 0 (lq q 3)
def lqTl (s : State) (q : Nat) : Nat := csrN s 0 (lq q 4)
def lqBase (s : State) (q : Nat) : Nat := csrN s 0 (lq q 0) + 2 ^ 32 * csrN s 0 (lq q 1)
def lqEn (s : State) (q : Nat) : Bool := bit (csrN s 0 (lq q 5)) 0
def lqDev (s : State) (q : Nat) : Bool := bit (csrN s 0 (lq q 5)) 3
def lqTape (s : State) (q k : Nat) : Nat := csrN s 0 (lq q k) + 2 ^ 32 * csrN s 0 (lq q (k + 1))

/-- Stores a 64-bit value in two registers of a queue. -/
def lqPut64 (s : State) (q k v : Nat) : State :=
  csrPut (csrPut s 0 (lq q k) (BitVec.ofNat 32 v)) 0 (lq q (k + 1)) (BitVec.ofNat 32 (v / 2 ^ 32))

/-- Sets FAULT of a queue (R64). -/
def lqFault (s : State) (q : Nat) : State := csrPut s 0 (lq q 5) (csrGet s 0 (lq q 5) ||| 4)

/-- Sets FAULT and clears EN (R65). -/
def lqReadFault (s : State) (q : Nat) : State := csrPut s 0 (lq q 5) ((csrGet s 0 (lq q 5) ||| 4) &&& ~~~ 1)

/-- LQHD moves on (R66). -/
def lqAdvance (s : State) (q : Nat) : State :=
  csrPut s 0 (lq q 3) (BitVec.ofNat 32 ((lqHd s q + 1) % lqN s q))

/-- The part of a queue that no register holds. -/
def queueOf (s : State) (q : Nat) : QueueRun := lookD s.queues q ⟨none, none, []⟩

/-- Changes that part. -/
def setQueue (s : State) (q : Nat) (f : QueueRun → QueueRun) : State := { s with queues := put s.queues q (f (queueOf s q)) }

/-! ## The completion word (R63) -/

/-- The device's time (R105). -/
def dtimeOf (s : State) : Nat := s.clk * 10 / 13

/-- A packet retires: its completion word is written, and waits are read again (R63, R67). LATE is set by the clock alone, for a
packet retired Missed too, though the example after R69 shows 0x002. DESIGN CHOICE (log 51). -/
def writeSignal (s : State) (part q tag signal deadline status : Nat) : State :=
  let late := deadline != 0 && decide (deadline < dtimeOf s)
  let w := tag * 2 ^ 32 + (if late then 256 else 0) + status
  let s1 := if signal = 0 then s
    else match schedWrite part true 1 s signal (bytesLE 8 w) with
      | some t => t
      | none => lqFault s q
  post s1 0 .dependencePoll

/-- A packet that never became a grid retires with a status, and its queue goes on: the ring's head moves, or the rewind
pops the next record (R66, R73). -/
def retirePacket (s : State) (q : Nat) (p : Packet) (status : Nat) : State :=
  let s1 := writeSignal s (partOfQueue s q) q (pkTag p.bytes) (pkSignal p.bytes) (pkDeadline p.bytes) status
  let s2 := setQueue s1 q fun r => { r with head := none }
  if p.popped then post s2 1 (.rewindPop q) else lqAdvance s2 q

/-! ## The tape (R73) -/

/-- Whether the pages from a to b are present, writable and not DEF. -/
def tapePages (s : State) (part : Nat) : Nat → Nat → Nat → Bool
  | 0, _, _ => true
  | fuel + 1, a, b =>
    if b ≤ a then true
    else
      match xlateSched s part a true with
      | .error _ => false
      | .ok x => !x.d && tapePages s part fuel ((a / 65536 + 1) * 65536) b

/-- R73: whether a kernel packet with TAPEON passes its tape checks. -/
def tapeOk (s : State) (q : Nat) (l : List Byte) : Bool :=
  let b := pkTapeb l
  let e := pkTapel l
  b % 256 == 0 && e % 256 == 0 && decide (b < e) && tapePages s (partOfQueue s q) (e / 65536 - b / 65536 + 1) b e &&
    (lqTape s q 10 == lqTape s q 6 || (b == lqTape s q 6 && e == lqTape s q 8))

/-- An empty tape takes the packet's region (R73). -/
def takeTape (s : State) (q : Nat) (l : List Byte) : State :=
  if lqTape s q 10 = lqTape s q 6 then
    lqPut64 (lqPut64 (lqPut64 s q 6 (pkTapeb l)) q 8 (pkTapel l)) q 10 (pkTapeb l)
  else s

/-! ## Waits (R67) -/

/-- What a WAIT entry says now: satisfied, pending, or ended without success. -/
inductive WaitState where
  | yes | pending | failed
  deriving DecidableEq, Repr

/-- A wait on an instance of a handle (R67, R195): an instance that is not the handle's present one has ended, and what it last
was decides. A name whose CORE is 48 to 63, which no core has and R62 does not refuse, is read as that of a core whose handles have
never been used. DESIGN CHOICE (log 51). -/
def handleWait (s : State) (opnd : Nat) : WaitState :=
  let h := lookD (coreOf s (fld opnd 13 8)).handles (fld opnd 7 0) ⟨.free, 0, false, 0, 0, 0, 0, 0, none, false, []⟩
  let i := fld opnd 63 48
  if h.inst = i then
    (if h.wasFull then .yes
      else match h.state with
        | .free => .failed
        | .filling | .draining => .pending
        | .full => .failed)
  else if lookD h.past i false then .yes
  else .failed

/-- A WAIT entry read now (R67); a KIND 1 word is read as a .sys acquire, and is waited for where no link carries the read (R317). -/
def waitNow (s : State) (part : Nat) (l : List Byte) (k : Nat) : WaitState :=
  match pkKind l k with
  | 0 => .yes
  | 1 =>
    if !schedOpen s part (pkOpnd l k) then .pending
    else
    match schedRead s part 1 (pkOpnd l k) 8 with
    | none => .failed
    | some w =>
      let st := leNat w % 256
      if st = stDone then .yes else if st = 0 then .pending else .failed
  | _ => handleWait s (pkOpnd l k)

/-- Whether a rewind is kept from Ready by an unretired grid of its queue with TAPEON (R73). -/
def rewindBlocked (s : State) (q : Nat) (l : List Byte) : Bool :=
  pkType l == 1 && s.grids.any fun g => g.2.queue == q && g.2.tapeon

/-! ## The head of a queue (R66) -/

/-- Whether the packet is overdue and to be dropped (R69). -/
def missed (s : State) (l : List Byte) : Bool :=
  pkMissdrop l && pkDeadline l != 0 && decide (pkDeadline l < dtimeOf s)

/-- The packet at the head is judged once more (R66): it may retire, become Ready, or wait. A failed WAIT entry goes before an
overdue deadline. DESIGN CHOICE (log 51). -/
def judge (s : State) (q : Nat) : State :=
  match (queueOf s q).head with
  | none => s
  | some p =>
    if p.state = .accepting then s
    else
      let part := partOfQueue s q
      let w := (upTo 4).map (waitNow s part p.bytes)
      if w.contains .failed then retirePacket s q p stDepFailed
      else if missed s p.bytes then retirePacket s q p stMissed
      else if !w.contains .pending && !rewindBlocked s q p.bytes then
        let ready : Packet := if p.state = .ready then p else { p with state := .ready, since := s.clk, ahead := 0 }
        let s1 := setQueue s q fun r => { r with head := some ready }
        post (post s1 0 (.packetSelect part 0)) 0 (.packetSelect part 1)
      else s

/-- A packet becomes the head: the checks of R61, R62 and R73 (R66), and its deadline is watched. -/
def present (s : State) (q : Nat) (l : List Byte) (popped launched : Bool) : State :=
  let p : Packet := ⟨l, .waiting, popped, launched, 0, 0⟩
  if packetBad l || (!popped && pkType l == 0 && pkTapeon l && !tapeOk s q l) then retirePacket s q p stBadPacket
  else
    let s1 := if !popped && pkType l == 0 && pkTapeon l then takeTape s q l else s
    let s2 := setQueue s1 q fun r => { r with head := some p }
    let s3 := if (upTo 4).any fun k => pkKind l k == 1 then postFree s2 4096 .dependencePoll else s2
    let s4 := if pkMissdrop l && pkDeadline l != 0 then
        post s3 ((13 * (pkDeadline l + 1) + 9) / 10 - s3.clk) (.deadlineMiss q)
      else s3
    judge s4 q

/-- The queue presents the packet at its head, and those behind it that retire at once (R65, R66). -/
def examine (s : State) (q : Nat) : Nat → State
  | 0 => s
  | fuel + 1 =>
    let r := queueOf s q
    if r.head.isSome then s
    else if r.rewind.isSome || !lqEn s q || lqHd s q == lqTl s q then s
    else
      match schedRead s (partOfQueue s q) 3 (lqBase s q + 256 * lqHd s q) 256 with
      | none => lqReadFault s q
      | some l =>
        let s1 := setQueue s q fun r => { r with launched := r.launched.filter fun i => i != lqHd s q }
        examine (present s1 q l false (r.launched.contains (lqHd s q))) q fuel

/-- A queue goes on after a change. -/
def pump (s : State) (q : Nat) : State := examine (judge s q) q (lqN s q + 1)

/-! ## Headers and images (R14-R19) -/

def hd (l : List Byte) (hi lo : Nat) : Nat := bytesFld l hi lo

/-- The six widths of WIDW (R15). -/
def hdWidw (l : List Byte) : List Nat := (upTo 6).map fun k => hd l (198 + 7 * k) (192 + 7 * k)

/-- A sum of widths. -/
def sumOf (l : List Nat) : Nat := l.foldl (fun x y => x + y) 0

/-- s of R17: the bits below the gang coordinate. -/
def widShift (w : List Nat) (ganglvl : Nat) : Nat := sumOf (w.take ganglvl)

/-- The header breaks R16 (the macro table apart), or R18's alignment of the extent. -/
def headerBad (l p : List Byte) : Bool :=
  let w := hdWidw l
  let bl := hd l 242 240
  let gl := hd l 245 243
  let nblk := hd l 248 246
  let thr := hd l 267 256
  let depth := hd l 276 272
  let tb := sumOf (w.take bl)
  let sh := widShift w gl
  hd l 31 0 != 0x4B5A4758 || hd l 39 32 != 1 || hd l 63 41 != 0 || hd l 191 167 != 0 || hd l 239 234 != 0 ||
    hd l 255 249 != 0 || hd l 319 305 != 0 || hd l 2047 1024 != 0 ||
    decide (64 < sumOf w) || bl == 0 || bl == 7 || gl == 0 || gl == 7 || decide (gl < bl) ||
    decide (2 ^ tb < thr) || decide (2 ^ (sh - tb) < nblk) ||
    nblk == 0 || decide (4 < nblk) || decide (thr < 32) || decide (2048 < thr) || thr % 32 != 0 || decide (16 < depth) ||
    decide (24 < hd l 281 277) || decide (64 < hd l 288 282) || decide (64 < hd l 295 289) || decide (64 < hd l 166 160) ||
    hd l 351 320 % 256 != 0 || decide (4194304 < hd l 351 320) ||
    decide (64 * (hd l 271 268 + 1) < 64 + depth) || decide (nblk * thr / 32 < hd l 304 296) ||
    pkWidbase p % 2 ^ sh != 0 || pkWidlim p % 2 ^ sh != 0

/-- Where R14's offsets break its rules. -/
def imageBad (l p : List Byte) : Bool :=
  pkKimg p % 256 != 0 || hd l 95 64 % 256 != 0 || decide (hd l 95 64 < 0x100) || hd l 127 96 == 0 || hd l 127 96 % 2 == 1 ||
    (hd l 166 160 != 0 && hd l 159 128 % 8 != 0) || (hd l 511 480 != 0 && hd l 479 448 % 8 != 0)

/-- Whether the pages of a part of an image are present and not DEF (R14). -/
def imagePages (s : State) (part : Nat) : Nat → Nat → Nat → Bool
  | 0, _, _ => true
  | fuel + 1, a, b =>
    if b ≤ a then true
    else
      match xlateSched s part a false with
      | .error _ => false
      | .ok x => !x.d && imagePages s part fuel ((a / 65536 + 1) * 65536) b

/-- A part of an image from its offset on. -/
def partMapped (s : State) (part base off n : Nat) : Bool :=
  imagePages s part (n / 65536 + 2) (base + off) (base + off + n)

/-- The macro table (R19): entry, length and body offset; `none` where it breaks the rule, as an entry with a reserved bit set
does. DESIGN CHOICE (log 51). -/
def macroTable (t : List Byte) : Nat → Option (List (Nat × Nat × Nat))
  | 0 => some []
  | n + 1 =>
    match macroTable t n with
    | none => none
    | some r =>
      let e := leAt t (8 * n) 8
      let m := fld e 5 0
      let len := fld e 13 8
      let body := fld e 63 32
      if fld e 7 6 ≠ 0 ∨ fld e 31 14 ≠ 0 ∨ len = 0 ∨ 32 < len ∨ body % 4 ≠ 0 ∨ (r.any fun x => x.1 == m) = true then none
      else some (r ++ [(m, len, body)])

/-- The header and macro table of an image, read at acceptance; `none` where the packet is BadImage (R14-R19), as it is where a
read of either meets an uncorrectable block or a refused aperture. DESIGN CHOICE (log 51). -/
def readImage (s : State) (part : Nat) (p : List Byte) : Option (List Byte × List (Nat × Nat × Nat)) :=
  let base := pkKimg p
  if !partMapped s part base 0 256 then none
  else
    match schedRead s part 3 base 256 with
    | none => none
    | some l =>
      let macn := hd l 166 160
      if imageBad l p || headerBad l p || !partMapped s part base (hd l 95 64) (hd l 127 96) ||
          !partMapped s part base (hd l 159 128) (8 * macn) || !partMapped s part base (hd l 479 448) (hd l 511 480) then none
      else
        match schedRead s part 6 (base + hd l 159 128) (8 * macn) with
        | none => none
        | some t =>
          match macroTable t macn with
          | none => none
          | some r => if r.all fun x => partMapped s part base x.2.2 (4 * x.2.1) then some (l, r) else none

/-- A grid from its packet and header (R15, R18, R61); `launched` says that LAUNCH wrote the packet (R75, R275, R276). -/
def gridOf (part q order : Nat) (launched popped : Bool) (p l : List Byte) (macros : List (Nat × Nat × Nat)) : Grid :=
  let w := hdWidw l
  let sh := widShift w (hd l 245 243)
  { part := part, queue := q, tag := BitVec.ofNat 32 (pkTag p), signal := BitVec.ofNat 64 (pkSignal p),
    deadline := pkDeadline p, cls := pkClass p, tapeon := pkTapeon p && !popped, args := BitVec.ofNat 64 (pkArgs p),
    widbase := BitVec.ofNat 64 (pkWidbase p), kimg := BitVec.ofNat 64 (pkKimg p), seed := BitVec.ofNat 64 (hd l 447 384),
    ipart := part, edge := popped || launched || (upTo 4).any (fun k => pkKind p k != 0),
    codeoff := hd l 95 64, codesz := hd l 127 96, mactab := hd l 159 128, macn := hd l 166 160, macros := macros,
    widw := w, blklvl := hd l 242 240, ganglvl := hd l 245 243, nblk := hd l 248 246, thr := hd l 267 256,
    regs := hd l 271 268, depth := hd l 276 272, accs := hd l 281 277, bufs := hd l 288 282, hgch := hd l 295 289,
    hgbeams := hd l 304 296, lmb := hd l 351 320, expins := hd l 383 352, idem := hd l 40 40 == 1,
    fslots := (upTo 8).map fun k => BitVec.ofNat 64 (hd l (575 + 64 * k) (512 + 64 * k)),
    next := if sh = 64 then 0 else pkWidbase p / 2 ^ sh, lim := if sh = 64 then 1 else pkWidlim p / 2 ^ sh,
    returned := [], live := 0, order := order, aborted := false, ending := none, popped := popped }

/-- R78: a gang that fits no empty cluster. The header's ranges leave only the registers of a core to ask about. -/
def unplaceable (g : Grid) : Bool := decide (524288 < g.thr * allot g)

/-! ## Selection and acceptance (R66, R68) -/

/-- The keys of R68 for a packet of queue q, to be compared in order. -/
def rankOf (cls deadline q : Nat) : Nat := (cls * 2 ^ 65 + (if deadline = 0 then 2 ^ 64 else deadline)) * 256 + q

/-- The Ready packets of a partition that a slot may choose: rank and queue. -/
def readyFor (s : State) (part slot : Nat) : List (Nat × Nat) :=
  s.queues.filterMap fun r =>
    match r.2.head with
    | some p =>
      if p.state = .ready ∧ partOfQueue s r.1 = part ∧ (slot = 1 ∨ pkClass p.bytes = 0) then
        some (rankOf (pkClass p.bytes) (pkDeadline p.bytes) r.1, r.1)
      else none
    | none => none

/-- The entry of least rank. -/
def bestOf : List (Nat × Nat) → Option (Nat × Nat)
  | [] => none
  | x :: t =>
    match bestOf t with
    | none => some x
    | some y => if x.1 ≤ y.1 then some x else some y

/-- The clocks that the acceptance of a packet may take: at most 600 (R68), and of class 0 no more than T_queue leaves (R71). -/
def acceptBound (s : State) (p : Packet) : Nat :=
  if pkClass p.bytes = 0 then Nat.min 600 (p.since + 600 * (p.ahead + 1) - s.clk) else 600

/-- A packet has been chosen: one of class 0 counts for those of its partition that are Ready (R71). -/
def countChosen (s : State) (part : Nat) (p : Packet) : State :=
  if pkClass p.bytes = 0 then
    { s with queues := s.queues.map fun (r : Nat × QueueRun) =>
      (r.1, { r.2 with head := r.2.head.map fun y =>
        if y.state = .ready ∧ pkClass y.bytes = 0 ∧ partOfQueue s r.1 = part then { y with ahead := y.ahead + 1 } else y }) }
  else s

/-- Puts a step on the agenda, due within `bound` clocks: in this one where that is 0. -/
def postWithin (s : State) (bound : Nat) (i : Instr) : State := if bound = 0 then post s 0 i else postFree s bound i

/-- PACKET_SELECT: a free acceptance slot chooses a Ready packet (R68). Slot 0 serves only class 0. -/
def execPacketSelect (part slot : Nat) (s : State) : Host.Outcome State Fault Refusal :=
  .next (if (look s.accepting (2 * part + slot)).isSome then s
    else
      match bestOf (readyFor s part slot) with
      | none => s
      | some (_, q) =>
        match (queueOf s q).head with
        | none => s
        | some p =>
          let s1 := countChosen (setQueue s q fun r => { r with head := some { p with state := .accepting } }) part p
          postWithin { s1 with accepting := put s1.accepting (2 * part + slot) q } (acceptBound s p) (.packetAccept part slot))

/-- A kernel packet is accepted or refused (R14-R18, R66, R78). A gang that would fit no cluster makes it Unplaceable even where
its extent holds no gang. DESIGN CHOICE (log 51). -/
def acceptKernel (s : State) (part q : Nat) (p : Packet) : State :=
  match readImage s part p.bytes with
  | none => retirePacket s q p stBadImage
  | some (l, macros) =>
    let (k, s1) := newKey s
    let g := gridOf part q k p.launched p.popped p.bytes l macros
    if unplaceable g then retirePacket s q p stUnplaceable
    else
      let s2 := setQueue { s1 with grids := put s1.grids k g } q fun r => { r with head := none }
      let s3 := if p.popped then s2 else lqAdvance s2 q
      if g.next < g.lim then post s3 0 (.gangDeal part) else post s3 0 (.gridEnd k)

/-- PACKET_ACCEPT: acceptance ends, and the slot is free again (R66, R68). -/
def execPacketAccept (part slot : Nat) (s : State) : Host.Outcome State Fault Refusal :=
  .next (match look s.accepting (2 * part + slot) with
    | none => s
    | some q =>
      let s1 := { s with accepting := del s.accepting (2 * part + slot) }
      let s2 := match (queueOf s1 q).head with
        | none => s1
        | some p =>
          match pkType p.bytes with
          | 0 => acceptKernel s1 part q p
          | 1 => post (setQueue s1 q fun r => { r with head := none, rewind := some p.bytes }) 1 (.rewindPop q)
          | _ => retirePacket s1 q p stDone
      post (pump s2 q) 0 (.packetSelect part slot))

/-- REWIND_POP: the next record of the tape is popped, or the rewind retires with Done (R73); grids of the queue that it kept from
ending may end (R311). -/
def execRewindPop (q : Nat) (s : State) : Host.Outcome State Fault Refusal :=
  .next (match (queueOf s q).rewind with
    | none => s
    | some l =>
      if (queueOf s q).head.isSome then s
      else if lqTape s q 10 ≤ lqTape s q 6 then
        let s1 := writeSignal s (partOfQueue s q) q (pkTag l) (pkSignal l) (pkDeadline l) stDone
        let s2 := pump (lqAdvance (setQueue s1 q fun r => { r with rewind := none }) q) q
        s2.grids.foldl (fun s g => if g.2.queue = q ∧ g.2.tapeon = true then post s 0 (.gridEnd g.1) else s) s2
      else
        let t := lqTape s q 10 - 256
        let s1 := lqPut64 s q 10 t
        match schedRead s1 (partOfQueue s1 q) 3 t 256 with
        | none => post (lqFault s1 q) 1 (.rewindPop q)
        | some rec_ =>
          if pkType rec_ = 0 then present s1 q rec_ true false
          else retirePacket s1 q ⟨rec_, .waiting, true, false, 0, 0⟩ stBadPacket)

/-- DEPENDENCE_POLL: every packet that waits or is ready is judged again (R66, R67); it is repeated while one of them has a word to be
read. -/
def execDependencePoll (s : State) : Host.Outcome State Fault Refusal :=
  let s1 := s.queues.foldl (fun s r => pump s r.1) s
  let waits := s1.queues.any fun r =>
    match r.2.head with
    | some p => p.state != .accepting && (upTo 4).any fun k => pkKind p.bytes k == 1
    | none => false
  .next (if waits && !(s1.agenda.any fun d => d.step == .dependencePoll) then postFree s1 4096 .dependencePoll else s1)

/-- DEADLINE_MISS: an overdue packet with MISSDROP that has not been chosen retires with Missed (R66, R69). -/
def execDeadlineMiss (q : Nat) (s : State) : Host.Outcome State Fault Refusal := .next (pump s q)

end Sys2Proof.Machine
end

