-- ==== Sys2Proof/Machine/Place.lean ====
section
/-!
DEFINITION. Gangs and their places (R70, R72, R76-R84): what fits, dealing, victims and reservations, placement, thread
start, and work donation. Events GANG_DEAL, GANG_START, BLOCK_THREAD_START and the four steal events.
-/
namespace Sys2Proof.Machine

open Sys2Proof

/-! ## Room (R76, R77) -/

/-- The lowest place of n units, below a limit, that meets none of the used ranges (R77; log 15). -/
def freeSpan (limit n : Nat) (used : List (Nat × Nat)) : Option Nat :=
  let ok := fun a => decide (a + n ≤ limit) && used.all fun u => u.2 == 0 || n == 0 || decide (a + n ≤ u.1) || decide (u.1 + u.2 ≤ a)
  let c := (0 :: used.map fun u => u.1 + u.2).filter ok
  if c.isEmpty then none else some (leastD limit c)

/-- The lowest n numbers below a limit that are not used. -/
def freeLowest (limit n : Nat) (used : List Nat) : List Nat := ((upTo limit).filter fun i => !used.contains i).take n

/-- The blocks on a core that hold resources. -/
def blocksOn (s : State) (core : Nat) : List Block := (s.blocks.filter fun b => b.2.core == core).map fun b => b.2

/-- Whether one core has what a block of the grid takes (R77, R19). -/
def coreFits (g : Grid) (c : List Block × List Nat) : Bool :=
  let bs := c.1
  decide (sumOf (bs.map fun b => b.thr) + g.thr ≤ 2048) &&
    decide (sumOf (bs.map fun b => b.thr / 32) + (c.2.filter fun n => !bs.any fun b => b.beams.contains n).length +
      g.thr / 32 ≤ 64) &&
    decide (sumOf (bs.map fun b => b.thr * b.a) + g.thr * allot g ≤ 524288) &&
    (freeSpan 4194304 g.lmb (bs.map fun b => (b.lmbase, b.lmb))).isSome &&
    decide (sumOf (bs.map fun b => b.slots.length) + g.accs ≤ 24) &&
    (freeSpan 256 g.bufs (bs.map fun b => (b.handles.headD 0, b.handles.length))).isSome &&
    (g.macn == 0 || bs.all fun b => b.macn == 0 || (b.image == g.kimg && b.ipart == g.ipart))

/-- The lowest c0 at which a gang of the grid fits the room (R76, R77). That it is the lowest is a DESIGN CHOICE (log 15). -/
def roomFits (g : Grid) (r : Room) : Option Nat :=
  if 64 < r.channels + g.hgch then none
  else (upTo (5 - g.nblk)).find? fun c0 => (upTo g.nblk).all fun k => coreFits g (r.cores.getD (c0 + k) ([], upTo 64))

/-- The grid of a gang. -/
def gangGrid (s : State) (gk : Nat) : Option Grid := (look s.gangs gk).bind fun g => look s.grids g.grid

/-- The gangs placed on a cluster, by key. -/
def placedOn (s : State) (cl : Nat) : List Nat :=
  (s.gangs.filter fun g => g.2.cluster == cl && (g.2.state == .resident || g.2.state == .starting)).map fun g => g.1

/-- A cluster scheduler's own part. -/
def clusterOf (s : State) (c : Nat) : Cluster := lookD s.clusters c ⟨[], [], none, false, 0⟩

/-- Changes it. -/
def setCluster (s : State) (c : Nat) (f : Cluster → Cluster) : State := { s with clusters := put s.clusters c (f (clusterOf s c)) }

/-- What is taken on a cluster as gang `own` sees it, with the gangs of `out` gone: what is resident, and what other gangs
have reserved (R70). -/
def roomOf (s : State) (cl : Nat) (out : List Nat) (own : Option Nat) : Room :=
  let res := (clusterOf s cl).reserved.filter fun r => some r.gang != own
  let freed := res.flatMap fun r => r.freed
  let ch := (placedOn s cl).filter fun g => !out.contains g
  { cores := (upTo 4).map fun k =>
      ((blocksOn s (4 * cl + k)).filter (fun b => !out.contains b.gang) ++ freed.filter (fun b => b.core == 4 * cl + k),
        (coreOf s (4 * cl + k)).heldBeams.map fun h => h.1)
    channels := sumOf (ch.map fun g => ((gangGrid s g).map fun x => x.hgch).getD 0) + sumOf (res.map fun r => r.channels) }

/-! ## Order (R68, R81) -/

/-- The rank of a gang by R68, and by the order of dealing on a tie (R81). -/
def gangRank (s : State) (gk : Nat) : Nat :=
  match look s.gangs gk with
  | none => 0
  | some g =>
    match look s.grids g.grid with
    | none => 0
    | some gr => rankOf gr.cls gr.deadline gr.queue * 2 ^ 64 + g.order

/-- Inserts a gang in a held list by R81's order, which also says where at the head a class-0 gang joins (R70). DEDUCED (log 51). -/
def insertHeld (s : State) (gk : Nat) : List Nat → List Nat
  | [] => [gk]
  | x :: t => if gangRank s gk < gangRank s x then gk :: x :: t else x :: insertHeld s gk t

/-- A gang enters the held list of a cluster. -/
def enterHeld (s : State) (cl gk : Nat) : State :=
  let (n, s1) := newKey s
  let s2 := { s1 with gangs := alter s1.gangs gk fun g => { g with state := .held cl, cluster := cl, entered := n } }
  setCluster s2 cl fun c => { c with held := insertHeld s2 gk c.held }

/-! ## Victims (R70) -/

/-- The resident class-1 gangs of a cluster that no request names. A gang holds its resources from its placement on (R77),
and so counts from then. -/
def candidates (s : State) (cl : Nat) : List Nat :=
  (placedOn s cl).filter fun k =>
    match look s.gangs k with
    | some g => !g.requested && ((gangGrid s k).map fun x => x.cls == 1).getD false
    | none => false

/-- The order in which victims are added: latest deadline, latest start, latest entry. -/
def victimKey (s : State) (k : Nat) : Nat × Nat × Nat :=
  match look s.gangs k, gangGrid s k with
  | some g, some gr => (if gr.deadline = 0 then 2 ^ 64 else gr.deadline, g.started, g.entered)
  | _, _ => (0, 0, 0)

/-- Whether a victim is added before another. -/
def victimBefore (s : State) (j k : Nat) : Bool :=
  let a := victimKey s j
  let b := victimKey s k
  if a.1 = b.1 then (if a.2.1 = b.2.1 then decide (b.2.2 < a.2.2) else decide (b.2.1 < a.2.1)) else decide (b.1 < a.1)

/-- Inserts a candidate in that order. -/
def insertVictim (s : State) (k : Nat) : List Nat → List Nat
  | [] => [k]
  | x :: t => if victimBefore s k x then k :: x :: t else x :: insertVictim s k t

/-- Whether the gang fits the cluster once the gangs of a list are gone. -/
def fitsWithout (s : State) (cl gk : Nat) (g : Grid) (out : List Nat) : Bool := (roomFits g (roomOf s cl out (some gk))).isSome

/-- The shortest beginning of the ordered candidates without which the gang fits; `none` where even all do not do. -/
def addVictims (fits : List Nat → Bool) : List Nat → List Nat → Option (List Nat)
  | acc, [] => if fits acc then some acc else none
  | acc, x :: t => if fits acc then some acc else addVictims fits (acc ++ [x]) t

/-- Drops, in the reverse order of adding, every gang without which the class-0 gang still fits. -/
def dropVictims (fits : List Nat → Bool) : List Nat → List Nat → List Nat
  | acc, [] => acc
  | acc, x :: t =>
    let without := acc.filter fun y => y != x
    if fits without then dropVictims fits without t else dropVictims fits acc t

/-- The victims of a class-0 gang on a cluster. -/
def victims (s : State) (cl gk : Nat) (g : Grid) : Option (List Nat) :=
  let fits := fitsWithout s cl gk g
  let order := (candidates s cl).foldl (fun l k => insertVictim s k l) []
  (addVictims fits [] order).map fun v => dropVictims fits v v.reverse

/-- A cluster sends a request for a class-0 gang that does not fit and has none under way: the request arrives 40 clocks
on, and what it frees is reserved (R70, R71). -/
def requestRoom (s : State) (cl gk : Nat) : State :=
  match gangGrid s gk with
  | none => s
  | some g =>
    let mine := (clusterOf s cl).reserved.find? fun r => r.gang == gk
    if (mine.map fun r => !r.victims.isEmpty).getD false || fitsWithout s cl gk g [] then s
    else
      match victims s cl gk g with
      | none => s
      | some v =>
        let s1 := v.foldl (fun s k => { s with gangs := alter s.gangs k fun x =>
          { x with requested := true, request := some ⟨s.clk + 40, some gk, 0⟩ } }) s
        let s2 := setCluster s1 cl fun c =>
          match mine with
          | some r => { c with reserved := c.reserved.map fun x => if x.gang = gk then { r with victims := v } else x }
          | none => { c with reserved := c.reserved ++ [⟨gk, v, [], 0⟩] }
        post s2 40 (.hgPreemptRequestDelivery v)

/-! ## Dealing (R70, R80) -/

/-- Whether a grid has a gang to deal. -/
def undealt (g : Grid) : Bool := !g.aborted && g.ending.isNone && (!g.returned.isEmpty || decide (g.next < g.lim))

/-- The grid whose gang is dealt next (R80): the ranks of R68, then the order of acceptance. -/
def nextGrids (s : State) (part : Nat) (ok : Grid → Bool) : Option Nat :=
  let l := s.grids.filterMap fun g =>
    if g.2.part = part ∧ undealt g.2 = true ∧ ok g.2 = true then
      some (rankOf g.2.cls g.2.deadline g.2.queue * 2 ^ 64 + g.2.order, g.1)
    else none
  (bestOf l).map fun x => x.2

/-- The cluster to which a class-1 gang goes: among those with room in their held lists, the one with the fewest gangs, the
lowest on a tie (R80). -/
def fewest (s : State) (part : Nat) (limit : Bool) : Option Nat :=
  let l := ((sectorsOf s part).filter fun c => !limit || decide ((clusterOf s c).held.length < 16)).map fun c =>
    (((clusterOf s c).held.length + (placedOn s c).length) * 16 + c, c)
  (bestOf l).map fun x => x.2

/-- The cluster to which a class-0 gang goes (R70). -/
def urgentTarget (s : State) (part gk : Nat) (g : Grid) : Option Nat :=
  match (sectorsOf s part).find? fun c => fitsWithout s c gk g [] with
  | some c => some c
  | none =>
    match (sectorsOf s part).find? fun c => fitsWithout s c gk g (candidates s c) with
    | some c => some c
    | none => fewest s part false

/-- A grid gives up its next gang: one returned first, else the next coordinate (R80). -/
def takeGang (s : State) (gk : Nat) (g : Grid) : Option (Nat × State) :=
  match g.returned with
  | k :: t =>
    let (o, s1) := newKey s
    some (k, { s1 with
      grids := put s1.grids gk { g with returned := t, live := g.live + 1 }
      gangs := alter s1.gangs k fun x => { x with order := o } })
  | [] =>
    if g.next < g.lim then
      let (k, s1) := newKey s
      some (k, { s1 with
        grids := put s1.grids gk { g with next := g.next + 1, live := g.live + 1 }
        gangs := put s1.gangs k
          { grid := gk, coord := g.next, state := .listed, cluster := 0, c0 := 0, blocks := [], chans := [], started := 0,
            order := k, entered := k, request := none, requested := false, area := none, saved := false, again := false, kept := [], left := [] } })
    else none

/-- Clusters of a partition with nothing held that are not asking and not waiting ask for work (R82): an idle cluster asks at
a time the spec does not fix. -/
def wakeThieves (s : State) (part : Nat) : State :=
  (sectorsOf s part).foldl (fun s c =>
    let cl := clusterOf s c
    if cl.held.isEmpty && !cl.stealing then
      postFree (setCluster s c fun x => { x with stealing := true }) 4096 (.stealRequest c)
    else s) s

/-- Whether a gang is on its way to a cluster of a partition (R82). -/
def shipping (s : State) (part : Nat) : Bool :=
  s.agenda.any fun d => match d.step with
    | .stealShipmentArrival c _ => partOfSector s c == part
    | _ => false

/-- A cluster whose held list is empty begins a steal round where a cluster of its partition holds a gang, or is about to (R82). -/
def wakeThief (s : State) (cl : Nat) : State :=
  let c := clusterOf s cl
  let part := partOfSector s cl
  if c.held.isEmpty && !c.stealing && ((sectorsOf s part).any (fun x => !(clusterOf s x).held.isEmpty) || shipping s part) then
    post (setCluster s cl fun x => { x with stealing := true }) 1 (.stealRequest cl)
  else s

/-- A deal ends a cluster's wait after an empty round (R82). -/
def endBackoff (s : State) (cl : Nat) : State :=
  let c := clusterOf s cl
  if c.stealing && c.asked.isNone && decide (s.clk < c.backoff) then
    setCluster { s with agenda := s.agenda.filter fun d => d.step != .stealBackoffExpiry cl } cl fun c =>
      { c with stealing := false, backoff := 0 }
  else s

/-- A gang of a grid is dealt to a cluster (R80, R81). -/
def dealTo (s : State) (part gk cl : Nat) (g : Grid) : State :=
  match takeGang s gk g with
  | none => s
  | some (k, s1) =>
    let s2 := enterHeld s1 cl k
    let s3 := if g.cls = 0 then requestRoom s2 cl k else s2
    wakeThieves (post (postFirst (endBackoff s3 cl) (.gangStart cl)) 0 (.gangDeal part)) part

/-- GANG_DEAL: one gang is dealt, and dealing goes on while a gang can be dealt (R70, R80). -/
def execGangDeal (part : Nat) (s : State) : Host.Outcome State Fault Refusal :=
  .next (match nextGrids s part (fun _ => true) with
    | none => s
    | some gk =>
      match look s.grids gk with
      | none => s
      | some g =>
        if g.cls = 0 then
          match urgentTarget s part 0 g with
          | some cl => dealTo s part gk cl g
          | none => s
        else
          match fewest s part true with
          | some cl => dealTo s part gk cl g
          | none => s)

/-! ## Placement (R76, R77, R84) -/

/-- What the macro bodies of a grid amount to, in words: W (R71). -/
def macroWords (g : Grid) : Nat := sumOf (g.macros.map fun m => m.2.1)

/-- T_place (R71). -/
def placeTime (g : Grid) : Nat := 300 + cdiv (macroWords g) 4 + cdiv g.lmb 1024

/-- A handle of a block that starts: free; its instance number and what its instances became stay (R67, R72). -/
def freshHandle (h : Handle) : Handle :=
  { h with state := .free, drn := 0, pf := false, err := 0, nvs := 0, eva := 0, remain := 0, range := none }

/-- A buffer-table entry after reset (R194). -/
def Handle.zero : Handle := ⟨.free, 0, false, 0, 0, 0, 0, 0, none, false, []⟩

/-- A buffer-table entry. -/
def handleAt (s : State) (core e : Nat) : Handle := lookD (coreOf s core).handles e Handle.zero

/-- A buffer-table entry as this clock found it, which is what a BFREE, BTEST or BWAIT of this clock samples (R196). -/
def handleSeen (s : State) (core e : Nat) : Handle := (look (coreOf s core).were e).getD (handleAt s core e)

/-- Changes a buffer-table entry; what the clock found there is kept (R196). -/
def setHandle (s : State) (core e : Nat) (f : Handle → Handle) : State :=
  setCore s core fun c =>
    let h := lookD c.handles e Handle.zero
    { c with handles := put c.handles e (f h), were := if (look c.were e).isSome then c.were else put c.were e h }

/-- Block k of a gang takes its resources on a core, none that another gang has reserved (R70, R76, R77, R84); its BSLOT is the lowest
that no block on the core holds (R76). -/
def takeBlock (s : State) (gk k core : Nat) (g : Grid) : State :=
  let bs := ((roomOf s (core / 4) [] (some gk)).cores.getD (core % 4) ([], [])).1
  let nb := freeLowest 64 (g.thr / 32) ((bs.flatMap fun b => b.beams) ++ (coreOf s core).heldBeams.map fun h => h.1)
  let base := (freeSpan 256 g.bufs (bs.map fun b => (b.handles.headD 0, b.handles.length))).getD 0
  let b : Block :=
    { gang := gk, k := k, core := core, bslot := (freeLowest 64 1 ((blocksOn s core).map fun b => b.bslot)).headD 0, beams := nb,
      lmbase := (freeSpan 4194304 g.lmb (bs.map fun b => (b.lmbase, b.lmb))).getD 0, thr := g.thr, a := allot g,
      lmb := g.lmb, macn := g.macn, image := g.kimg, ipart := g.ipart, slots := freeLowest 24 g.accs (bs.flatMap fun b => b.slots),
      handles := (upTo g.bufs).map fun i => base + i, scales := [], gen := 0, tab := none, retired := 0, leave := .none,
      doneByDrain := false, listed := []
      past := ((look s.gangs gk).map fun g => lookD g.left k []).getD [] }
  let (key, s1) := newKey s
  { s1 with blocks := put s1.blocks key b, gangs := alter s1.gangs gk fun x => { x with blocks := x.blocks ++ [key] } }

/-- A gang leaves the held list and takes all its resources at once; its blocks start T_place on (R77, R81). -/
def placeGang (s : State) (cl gk c0 : Nat) (g : Grid) : State :=
  let s1 := { s with gangs := alter s.gangs gk fun x =>
    { x with state := .starting, cluster := cl, c0 := c0, blocks := [], started := s.clk + placeTime g } }
  let s2 := (upTo g.nblk).foldl (fun s k => takeBlock s gk k (4 * cl + c0 + k) g) s1
  let s3 := setCluster s2 cl fun c =>
    { c with held := dropOne gk c.held, reserved := c.reserved.filter fun r => r.gang != gk }
  post s3 (placeTime g) (.blockThreadStart gk)

/-- GANG_START: the first held gang starts if it fits; a class-0 gang that does not asks for room (R70, R81). -/
def execGangStart (cl : Nat) (s : State) : Host.Outcome State Fault Refusal :=
  .next (match (clusterOf s cl).held with
    | [] => wakeThief s cl
    | gk :: _ =>
      match gangGrid s gk with
      | none => setCluster s cl fun c => { c with held := dropOne gk c.held }
      | some g =>
        match roomFits g (roomOf s cl [] (some gk)) with
        | some c0 =>
          let part := partOfSector s cl
          let s1 := placeGang s cl gk c0 g
          post (postFirst s1 (.gangStart cl)) 0 (.gangDeal part)
        | none => if g.cls = 0 then requestRoom s cl gk else s)

/-! ## Start (R72) -/

/-- The words of a grid's macros enter a core's control store; the entries that the image does not load stay as they are (R19,
R300). -/
def loadMacros (s : State) (core : Nat) (g : Grid) : State :=
  g.macros.foldl (fun s m =>
    let bytes := (schedRead s g.part 4 (g.kimg.toNat + m.2.2) (4 * m.2.1)).getD (List.replicate (4 * m.2.1) 0)
    setCore s core fun c =>
      { c with
        clen := put c.clen m.1 m.2.1
        cstore := (upTo m.2.1).foldl (fun t i => put t (32 * m.1 + i) (BitVec.ofNat 32 (leAt bytes (4 * i) 4))) c.cstore }) s

/-- Zeroes local memory from a core offset on (R72). -/
def zeroLocal (s : State) (core base n : Nat) : State :=
  let a := localBase core + base
  { s with mem := s.mem.filter fun c => decide (c.1 < a) || decide (a + n ≤ c.1) }

/-- A beam at its start (R72, R105). -/
def beamStart (block idx : Nat) (args : DWord) : Beam :=
  { block := block, idx := idx, lanes := List.replicate 32 (laneSetPair Lane.start 0 args), psw := 0, flvl := 0, framea := 0,
    hold := .none, under := [], ticket := none, arr := 0, stopped := false, lastIssue := 0, tried := 0, nextId := 0, pend := [],
    stores := [], told := [], ended := [], waiting := [] }

/-- What a block finds on its core at placement, whether it starts or resumes (R19, R72): its handles are free already in the
clock in which it begins (R196). -/
def readyCore (s : State) (key : Nat) (b : Block) (g : Grid) : State :=
  let s1 := loadMacros s b.core g
  let s2 := zeroLocal s1 b.core b.lmbase b.lmb
  let s3 := setCore s2 b.core fun c => { c with slots := b.slots.foldl (fun t i => del t i) c.slots }
  let s4 := b.handles.foldl (fun s e => setHandle s b.core e freshHandle) s3
  let s5 := setCore s4 b.core fun c => { c with were := b.handles.foldl (fun t e => del t e) c.were }
  { s5 with blocks := put s5.blocks key b }

/-- A block starts (R72). Where an edge leads to its grid, from a grid waited on, a handle, TAPE or LAUNCH, that lies before its
first access (R67, R74, R75, R275): the core acquires, at the widest scope. So it does, at .dev, after the attempt that a restart
follows (R277). A grid that no edge reaches may find older copies (R276). -/
def startBlock (s : State) (key : Nat) (g : Grid) (again : Bool) : State :=
  match look s.blocks key with
  | none => s
  | some b =>
    let s0 := readyCore s key b g
    let s1 := if g.edge then acquireCaches s0 b.core .sys else if again then acquireCaches s0 b.core .dev else s0
    { s1 with beams := (b.beams.foldl (fun (x : NMap Beam × Nat) n =>
        (put x.1 (64 * b.core + n) (beamStart key x.2 g.args), x.2 + 1)) (s1.beams, 0)).1 }

/-- S(G), in bytes (R71). -/
def saveSize (g : Grid) : Nat := g.nblk * (g.thr * allot g * 33 / 8 + g.lmb + g.accs * 262144 + 4096)

/-- TS(G) without the PGRACE term (R71). -/
def saveTime (s : State) (g : Grid) : Nat := cdiv (saveSize g) (Nat.max 1 (csrN s g.part 0x305))

/-- The channels of a gang at placement (R256). -/
def startChans (g : Grid) : List Chan :=
  List.replicate g.hgch ⟨if g.hgbeams = 0 then g.nblk * g.thr / 32 else g.hgbeams, 0, 0, 0⟩

/-- The blocks of a gang begin to exist on their cores, and its channels are bound (R72, R256). -/
def startBlocks (s : State) (gang : Nat) (g : Gang) (gr : Grid) : State :=
  let s1 := g.blocks.foldl (fun s k => startBlock s k gr g.again) s
  { s1 with gangs := alter s1.gangs gang fun x =>
    { x with state := .resident, started := s.clk, chans := startChans gr, again := false } }

/-- The beams of a gang's draining blocks begin: a request that came while the gang was being placed left every beam of it
still until now (R301, R302). -/
def runDrains (s : State) (g : Gang) : State :=
  g.blocks.foldl (fun s key =>
    match look s.blocks key with
    | none => s
    | some b =>
      match b.leave with
      | .drain _ => (b.beams.map fun n => 64 * b.core + n).foldl (fun s k => onBeam s k fun x => { x with stopped := false }) s
      | .none | .flush | .save | .saveWait | .saveWrite | .done => s) s

/-- BLOCK_THREAD_START: the blocks of a gang start in one clock (R72, R81); a saved gang is then restored (R308). -/
def execBlockThreadStart (gang : Nat) (s : State) : Host.Outcome State Fault Refusal :=
  .next (match look s.gangs gang, gangGrid s gang with
    | some g, some gr =>
      match g.state with
      | .starting => if g.saved then postFree s (saveTime s gr) (.resumeRestoreComplete gang) else startBlocks s gang g gr
      | .resident => if g.saved then postFree s (saveTime s gr) (.resumeRestoreComplete gang) else runDrains s g
      | .listed | .held _ => s
    | _, _ => s)

/-! ## Work donation (R82, R83) -/

/-- Whether a gang may be donated between two quarters (R82, R321). -/
def dieReach (s : State) (p q : Nat) : Bool := partOfQuarter s p == partOfQuarter s q && linkReach s p q

/-- The victims of a thief, in order (R82). -/
def stealOrder (s : State) (cl : Nat) : List Nat :=
  let q := cl / 3
  let n1 := Nat.min ((q + 1) % 4) ((q + 3) % 4)
  let n2 := Nat.max ((q + 1) % 4) ((q + 3) % 4)
  let sectors := fun p => [3 * p, 3 * p + 1, 3 * p + 2]
  ([3 * q + (cl % 3 + 1) % 3, 3 * q + (cl % 3 + 2) % 3] ++ sectors n1 ++ sectors n2 ++ sectors ((q + 2) % 4)).filter fun c =>
    dieReach s q (c / 3)

/-- A round ends without a gang: the thief waits (R82). -/
def stealNothing (s : State) (cl : Nat) : State :=
  post (setCluster s cl fun c => { c with asked := none, backoff := s.clk + 4096 }) 4096 (.stealBackoffExpiry cl)

/-- STEAL_REQUEST: a cluster with nothing held begins a round, with its free resources as they stand (R82). -/
def execStealRequest (cl : Nat) (s : State) : Host.Outcome State Fault Refusal :=
  .next (if !(clusterOf s cl).held.isEmpty then setCluster s cl fun c => { c with stealing := false, asked := none }
    else
      let s1 := setCluster s cl fun c => { c with stealing := true, asked := some (roomOf s cl [] none) }
      match stealOrder s cl with
      | [] => stealNothing s1 cl
      | v => postFree s1 320 (.stealReply cl v))

/-- The held class-1 gangs of a victim that fit the thief's free resources, in held order. -/
def shippable (s : State) (victim : Nat) (r : Room) : List Nat :=
  (clusterOf s victim).held.filter fun k =>
    match gangGrid s k with
    | some g => g.cls == 1 && (roomFits g r).isSome
    | none => false

/-- STEAL_REPLY: the first of the victims answers (R82, R83). -/
def execStealReply (thief : Nat) (vs : List Nat) (s : State) : Host.Outcome State Fault Refusal :=
  .next (match vs, (clusterOf s thief).asked with
    | [], _ => stealNothing s thief
    | _, none => setCluster s thief fun c => { c with stealing := false }
    | v :: t, some r =>
      let l := shippable s v r
      let m := Nat.min 8 ((l.length + 1) / 2)
      if m = 0 then (if t.isEmpty then stealNothing s thief else postFree s 320 (.stealReply thief t))
      else
        let ship := l.drop (l.length - m)
        let s1 := setCluster s v fun c => { c with held := c.held.filter fun k => !ship.contains k }
        let s2 := ship.foldl (fun s k => { s with gangs := alter s.gangs k fun g => { g with state := .listed } }) s1
        postFree (post (postFirst (setCluster s2 thief fun c => { c with asked := none }) (.gangStart v)) 0
          (.gangDeal (partOfSector s v))) 512 (.stealShipmentArrival thief ship))

/-- STEAL_SHIPMENT_ARRIVAL: shipped gangs enter the thief's held list, and clusters with none may ask for them (R82). It comes behind
every other step of its clock, the deals among them (R83). -/
def execStealShipmentArrival (thief : Nat) (gangs : List Nat) (s : State) : Host.Outcome State Fault Refusal :=
  let here := gangs.filter fun k => (gangGrid s k).isSome
  let s1 := here.foldl (fun s k => enterHeld s thief k) s
  .next (wakeThieves (postFirst (setCluster s1 thief fun c => { c with stealing := false }) (.gangStart thief)) (partOfSector s thief))

/-- STEAL_BACKOFF_EXPIRY: the wait after an empty round is over (R82). A round finds nothing while no gang is held in the
partition, and is then left out. -/
def execStealBackoffExpiry (cl : Nat) (s : State) : Host.Outcome State Fault Refusal :=
  .next (wakeThief (setCluster s cl fun x => { x with stealing := false, backoff := 0 }) cl)

end Sys2Proof.Machine
end

