-- ==== Sys2Proof/Machine/Deferred.lean ====
section
/-!
DEFINITION. Deferred memory (R172-R192): records and logs, bins, apply engines and their deltas, folds, and commits. Opcodes
0x60 and 0x61, and the events from LOG_DRAIN to COMMIT_COMPLETE.
-/
namespace Sys2Proof.Machine

open Sys2Proof

/-! ## What a block waits for (R189) -/

/-- Whether a record was appended by the block with this core and BSLOT, or one has coalesced into it (R173, R178). -/
def recordOf (core bslot : Nat) : BinItem → Bool
  | .record cs r => cs.contains core && r.tag % 64 == bslot
  | .mark _ _ _ => false

/-- Whether a step carries records of the block. -/
def carries (core bslot : Nat) : Instr → Bool
  | .binRingArrival _ l => l.any (recordOf core bslot)
  | .binPacketArrival _ l => l.any (recordOf core bslot)
  | _ => false

/-- Whether a record of the block has not reached its apply engine (R189). -/
def recordsOut (s : State) (b : Block) : Bool :=
  ((coreOf s b.core).log.any fun x => recordOf b.core b.bslot x.1) ||
    (s.bins.any fun x => x.2.items.any (recordOf b.core b.bslot)) ||
    (s.agenda.any fun d => carries b.core b.bslot d.step) ||
    s.applies.any fun a => a.2.held.any fun p => p.any (recordOf b.core b.bslot)

/-- Whether every beam of a block has exited in all lanes (R103, R311). -/
def blockExited (s : State) (b : Block) : Bool :=
  (blockBeams b).all fun k =>
    match beamOf s k with
    | some x => (lanesIn x .exited).length == x.lanes.length
    | none => false

/-- Whether a gang is to be looked at again: it has finished, or a pre-emption goes on. -/
def moving (s : State) (g : Gang) : Bool :=
  g.state == .resident && ((gangBlocks s g).any (fun b => b.leave != .none) || (gangBlocks s g).all (blockExited s))

/-- What gangs wait for may have come about: those that finish or leave are looked at again (R189, R202, R234). -/
def nudge (s : State) : State :=
  s.gangs.foldl (fun s g => if moving s g.2 then post s 0 (.gangRetire g.1) else s) s

/-! ## Logs (R175) -/

/-- The free entries of a core's log. -/
def logUsed (s : State) (core : Nat) : Nat :=
  ((coreOf s core).log.filter fun x => match x.1 with | .record _ _ => true | .mark _ _ _ => false).length

/-- Whether k records find room. -/
def logRoom (s : State) (core k : Nat) : Bool := decide (k = 0) || decide (logUsed s core + k ≤ 16384)

/-- A record enters the log with the next sequence number. -/
def appendRecord (s : State) (core : Nat) (r : Rec) : State :=
  postFree (setCore s core fun c =>
    { c with log := c.log ++ [(.record [core] r, c.nextSeq.toNat)], nextSeq := c.nextSeq + 1 }) 0 (.logDrain core)

/-! ## The value rules (R174, R178) -/

/-- The operator on an n-bit word. -/
def dopApply (op : DOp) (n w v : Nat) : Nat :=
  match op with
  | .store => v % 2 ^ n
  | .addI => (w + v) % 2 ^ n
  | .addF32 => atomNew .addF32 n w v
  | .minI => atomNew .minI n w v
  | .maxI => atomNew .maxI n w v
  | .minZ => atomNew .minZ n w v
  | .maxZ => atomNew .maxZ n w v
  | .minF32 => atomNew .minF32 n w v
  | .maxF32 => atomNew .maxF32 n w v
  | .and => w &&& v
  | .or => w ||| v
  | .xor => w ^^^ v

/-- Bits of a word by SZ. -/
def szBits (sz : Bool) : Nat := if sz then 64 else 32

/-- Whether the bytes of two words overlap. -/
def wordsMeet (pa : Nat) (sz : Bool) (pb : Nat) (tz : Bool) : Bool :=
  decide (pa < pb + szBits tz / 8) && decide (pb < pa + szBits sz / 8)

/-! ## Bins (R177-R179) -/

/-- The quarter beside which a channel lies. -/
def quarterOfChannel (ch : Nat) : Nat := ch / 128

/-- The bin key of a sector for a channel: its channel's bin, or that of the channel's quarter. -/
def binKey (sector ch : Nat) : Nat :=
  256 * sector + (if quarterOfChannel ch = sector / 3 then ch % 128 else 128 + quarterOfChannel ch)

/-- Whether a bin key names a channel bin. -/
def isChannelBin (k : Nat) : Bool := decide (k % 256 < 128)

/-- The channel of a channel bin. -/
def channelOfBin (k : Nat) : Nat := k / 256 / 3 * 128 + k % 256

/-- The sector to which a sector's bin for a quarter ships (R177). -/
def ringTarget (sector q : Nat) : Nat := 3 * q + sector % 3

/-- A bin. -/
def binOf (s : State) (k : Nat) : Bin := lookD s.bins k ⟨[], 0, false⟩

/-- An apply engine. -/
def applyOf (s : State) (ch : Nat) : Apply := lookD s.applies ch ⟨[], false, [], none, [], none, 0, []⟩

/-- Changes one. -/
def setApply (s : State) (ch : Nat) (f : Apply → Apply) : State := { s with applies := put s.applies ch (f (applyOf s ch)) }

/-- Whether a bin waits unshipped: it is aimed at a channel in the full state (R179), or at a quarter that no die link
reaches (R321). -/
def binBlocked (s : State) (k : Nat) : Bool :=
  if isChannelBin k then (applyOf s (channelOfBin k)).full else !linkReach s (k / 256 / 3) (k % 256 - 128)

/-- The sector whose log or log's core an item comes from. -/
def itemSector : BinItem → Nat
  | .record cs _ => leastD 0 cs / 4
  | .mark _ c _ => c / 4

/-- The sector of the binning unit that sends an item to a channel. -/
def senderOf (ch : Nat) (i : BinItem) : Nat :=
  let sec := itemSector i
  if sec / 3 = quarterOfChannel ch then sec else ringTarget sec (quarterOfChannel ch)

/-- Whether two packets for a channel come from one bin. -/
def oneBin (ch : Nat) (l m : List BinItem) : Bool := (l.head?.map (senderOf ch)) == (m.head?.map (senderOf ch))

/-- Whether a step is a packet of the same bin as one with this first item, behind which it stays: such packets keep their order, and
the bin's fold request goes ahead of them (R179). -/
def sameBin (i : Instr) (d : Instr) : Bool :=
  match i, d with
  | .binPacketArrival c l, .binPacketArrival e m => c == e && oneBin c l m
  | .binPacketArrival c l, .applyMarkerArrival e (_, some sec) => c == e && (l.head?.map (senderOf c)) == some sec
  | .binRingArrival c l, .binRingArrival e m => c == e && (l.head?.map itemSector) == (m.head?.map itemSector)
  | _, _ => false

/-- Puts a packet on its way, behind those of the same bin. -/
def sendPacket (s : State) (i : Instr) : State :=
  let at_ := s.agenda.foldl (fun m d => if sameBin i d.step then Nat.max m d.clk else m) (s.clk + 1 + drawn s 0)
  draw { s with agenda := s.agenda ++ [⟨at_, i⟩] }

/-- Cuts a bin's items into packets of at most 128 records. -/
def packets : Nat → List BinItem → List (List BinItem)
  | 0, l => [l]
  | n + 1, l => if l.length ≤ 128 then [l] else l.take 128 :: packets n (l.drop 128)

/-- A bin ships what it holds, unless it is empty or its channel is full, when it is marked to ship later (R179). -/
def shipBin (s : State) (k : Nat) : State :=
  let b := binOf s k
  if b.items.isEmpty then s
  else if binBlocked s k then { s with bins := put s.bins k { b with due := true } }
  else
    let s1 := { s with bins := put s.bins k { b with items := [], due := false } }
    (packets (b.items.length / 128 + 1) b.items).foldl (fun s l =>
      sendPacket s (if isChannelBin k then .binPacketArrival (channelOfBin k) l
        else .binRingArrival (ringTarget (k / 256) (k % 256 - 128)) l)) s1

/-- Whether the block that appended a record has begun a save, a drain, a flush or its retirement (R179, R189). -/
def leavingRecord (s : State) (cores : List Nat) (r : Rec) : Bool :=
  cores.any fun core => (blocksOn s core).any fun b => b.bslot == r.tag % 64 && (b.leave != .none || blockExited s b)

/-- Coalesces a record into a bin's items, from the last back to the first whose bytes overlap and no marker between
(R178): `none` where it does not coalesce. The items are given last first. -/
def coalesce (cores : List Nat) (r : Rec) : List BinItem → Option (List BinItem)
  | [] => none
  | .mark _ _ _ :: _ => none
  | .record c e :: t =>
    if wordsMeet r.pa r.sz e.pa e.sz then
      if e.pa = r.pa ∧ e.op = r.op ∧ e.sz = r.sz ∧ e.tag = r.tag then
        some (.record (c ++ cores.filter fun x => !c.contains x) { e with value := BitVec.ofNat 64 (dopApply r.op (szBits r.sz) e.value.toNat r.value.toNat) } :: t)
      else none
    else (coalesce cores r t).map fun u => .record c e :: u

/-- A record or marker enters a bin (R178, R179, R182). -/
def binEnter (s : State) (k : Nat) (i : BinItem) : State :=
  let b := binOf s k
  let age := csrN s (partOfSector s (k / 256 % 12)) 0x200
  match i with
  | .mark c _ _ =>
    let s1 := { s with bins := put s.bins k { b with items := b.items ++ [i] } }
    let s2 := if isChannelBin k && binBlocked s k then postFree s1 0 (.applyMarkerArrival (channelOfBin k) (c, some (k / 256))) else s1
    shipBin s2 k
  | .record cores r =>
    let items := match coalesce cores r b.items.reverse with
      | some u => u.reverse
      | none => b.items ++ [i]
    let s1 := { s with bins := put s.bins k { b with items := items, last := s.clk } }
    let s2 := if age = 0 then s1 else post s1 age (.binAgeExpiry (k / 256) (k % 256))
    if 128 ≤ items.length ∨ leavingRecord s cores r then shipBin s2 k else s2

/-- Every bin that holds a record of a block ships (R179, R189). -/
def shipBlock (s : State) (b : Block) : State :=
  s.bins.foldl (fun s x => if (binOf s x.1).items.any (recordOf b.core b.bslot) then shipBin s x.1 else s) s

/-! ## Events of logs and bins -/

/-- The partition's channel of a record (R154). -/
def channelOfRecord (s : State) (core : Nat) (r : Rec) : Nat := channelOf s (partOfCore s core) r.pa

/-- A list and what it lacks of another. -/
def withAll (l m : List Nat) : List Nat := m.foldl (fun l ch => if l.contains ch then l else l ++ [ch]) l

/-- The channels that a commit's marker leaves a log for: those that received records from the log since its previous marker,
and those where a fold for an earlier marker of the log is not yet acknowledged, since the commit covers those records too and
completes only when they are visible (R187). DEDUCED (log 21). -/
def markChannels (s : State) (core c : Nat) : List Nat :=
  withAll (coreOf s core).touched (s.commits.flatMap fun m => if m.1 != c && (look m.2.seqHi core).isSome then m.2.acks else [])

/-- The channels of a block's records that may not be folded yet, as it leaves its core (R187). -/
def leftChannels (s : State) (b : Block) : List Nat := withAll b.past (markChannels s b.core 0)

/-- The channels of the records that a committing block has appended on cores it has left, for the log of its own core (R187). -/
def extraChannels (s : State) (core c : Nat) : List Nat :=
  ((look s.commits c).map fun m => if m.extra.1 = core then m.extra.2 else []).getD []

/-- A marker leaves its log: it follows the log's records to each of their channels, and goes to those of the block's earlier
records (R187). -/
def markerOut (s : State) (core c : Nat) : State :=
  let chans := withAll (markChannels s core c) (extraChannels s core c)
  let sec := core / 4
  let s1 := setCore s core fun x => { x with touched := [] }
  let s2 := { s1 with commits := alter s1.commits c fun m => { m with acks := m.acks ++ chans, logs := dropOne core m.logs } }
  let own := chans.filter fun ch => quarterOfChannel ch == sec / 3
  let s3 := own.foldl (fun s ch => binEnter s (binKey sec ch) (.mark c core [ch])) s2
  let s4 := (upTo 4).foldl (fun s q =>
    let far := chans.filter fun ch => quarterOfChannel ch == q
    if q = sec / 3 ∨ far.isEmpty = true then s else binEnter s (256 * sec + 128 + q) (.mark c core far)) s3
  post s4 1 (.commitComplete c)

/-- LOG_DRAIN: the oldest entry of a log enters its bin (R175, R177). Where the bin holds 128 records and cannot ship, the record waits at the
log's head, and what stands behind it waits too; what comes over the ring enters a bin whatever it holds: the spec gives a bin no
capacity. DESIGN CHOICE (log 51). -/
def execLogDrain (core : Nat) (s : State) : Host.Outcome State Fault Refusal :=
  .next (match (coreOf s core).log with
    | [] => s
    | (i, _) :: t =>
      let pop := fun s => setCore s core fun c => { c with log := t }
      match i with
      | .mark c _ _ => markerOut (pop s) core c
      | .record _ r =>
        let ch := channelOfRecord s core r
        let k := binKey (core / 4) ch
        if binBlocked s k && decide (128 ≤ (binOf s k).items.length) then postFree s 0 (.logDrain core)
        else
          let s1 := setCore (pop s) core fun c => { c with touched := if c.touched.contains ch then c.touched else c.touched ++ [ch] }
          binEnter s1 k i)

/-- BIN_AGE_EXPIRY: a bin that no record has entered for BINAGE clocks ships (R179, R182). -/
def execBinAgeExpiry (sector bin : Nat) (s : State) : Host.Outcome State Fault Refusal :=
  let k := 256 * sector + bin
  let age := csrN s (partOfSector s (sector % 12)) 0x200
  .next (if age ≠ 0 ∧ (binOf s k).last + age ≤ s.clk then shipBin s k else s)

/-- BIN_RING_ARRIVAL: a bin of another quarter is sorted into the channel bins in order (R177). -/
def execBinRingArrival (sector : Nat) (items : List BinItem) (s : State) : Host.Outcome State Fault Refusal :=
  .next (items.foldl (fun s i =>
    match i with
    | .record cores r => binEnter s (binKey sector (channelOfRecord s (leastD 0 cores) r)) i
    | .mark c core chans => chans.foldl (fun s ch => binEnter s (binKey sector ch) (.mark c core [ch])) s) s)

/-! ## Deltas (R180) -/

/-- Merges an arriving record into the deltas, given last first (R180): `none` where it is added after them. -/
def mergeDelta (r : Rec) : List Delta → Option (List Delta)
  | [] => none
  | e :: t =>
    if wordsMeet r.pa r.sz e.pa e.sz then
      if e.pa = r.pa ∧ e.op = r.op ∧ e.sz = r.sz ∧ e.buffered = false then
        some ({ e with value := BitVec.ofNat 64 (dopApply r.op (szBits r.sz) e.value.toNat r.value.toNat) } :: t)
      else none
    else (mergeDelta r t).map fun u => e :: u

/-- The blocks that deltas are aimed at, each once, in ascending order of address. -/
def deltaBlocks (l : List Delta) : List Nat :=
  (l.foldl (fun (m : NMap Unit) d => put m (d.pa / 512) ()) []).map fun x => x.1

/-- Delta lines in use: three deltas of one block share a line (R180). -/
def deltaLines (l : List Delta) : Nat :=
  sumOf ((deltaBlocks l).map fun k => cdiv (l.filter fun d => d.pa / 512 == k).length 3)

/-- The deltas that lie in the delta space, and those in the spill area. -/
def nearDeltas (l : List Delta) : List Delta := l.filter fun d => !d.spill
def spillDeltas (l : List Delta) : List Delta := l.filter fun d => d.spill

/-- An engine takes a record: a delta that does not merge goes into a line of its block with room, or a free line of the delta space, or
else into the spill area (R180). -/
def takeDelta (space : Nat) (l : List Delta) (r : Rec) : List Delta :=
  match mergeDelta r l.reverse with
  | some u => u.reverse
  | none =>
    let near := nearDeltas l
    let mine := near.filter fun d => d.pa / 512 == r.pa / 512
    l ++ [⟨r.value, r.op, r.sz, r.pa, false, mine.length % 3 == 0 && decide (space ≤ deltaLines near)⟩]

/-- The lines of a channel's delta space and of its spill area (R180, R181). -/
def deltaSpace (s : State) (ch : Nat) : Nat := 16384 * fld (csrN s (partOfQuarter s (quarterOfChannel ch)) 0x201) 7 4
def spillSpace (s : State) (ch : Nat) : Nat := 262144 * fld (csrN s (partOfQuarter s (quarterOfChannel ch)) 0x201) 3 0

/-- The agenda without the notices of a channel to a core that have not arrived: a later change overtakes them. -/
def dropNotices (core ch : Nat) (l : List Due) : List Due :=
  l.filter fun d => match d.step with | .fullStateNotice c h _ => !(c == core && h == ch) | _ => true

/-- A change of the full state reaches every core of the partition within 200 clocks (R176). -/
def noticeFull (s : State) (ch : Nat) (full : Bool) : State :=
  (coresOf s (partOfQuarter s (quarterOfChannel ch))).foldl (fun s c =>
    postFree { s with agenda := dropNotices c ch s.agenda } 200 (.fullStateNotice c ch full)) s

/-- An engine takes a bin packet: its records become deltas, and a marker starts a fold (R180, R183). A packet is taken whole: where it
overruns the delta and spill space that is left, the full state begins behind it. DESIGN CHOICE (log 51). -/
def takePacket (s : State) (ch : Nat) (items : List BinItem) : State :=
  let s1 := items.foldl (fun s i =>
    match i with
    | .record _ r => setApply s ch fun a => { a with deltas := takeDelta (deltaSpace s ch) a.deltas r }
    | .mark c _ _ => post s 0 (.applyMarkerArrival ch (c, none))) s
  let l := (applyOf s1 ch).deltas
  let full := decide (deltaSpace s1 ch ≤ deltaLines (nearDeltas l)) && decide (spillSpace s1 ch ≤ deltaLines (spillDeltas l))
  if full && !(applyOf s1 ch).full then noticeFull (setApply s1 ch fun a => { a with full := true, freed := 0 }) ch true else s1

/-- Whether an engine in the full state takes a packet: one of markers alone, behind no packet of its bin (R179, R180). -/
def accepts (a : Apply) (ch : Nat) (items : List BinItem) : Bool :=
  !a.full || (items.all (fun i => match i with | .record _ _ => false | .mark _ _ _ => true) && !a.held.any (oneBin ch items))

/-- A packet that is not taken waits in the order of its bin; the markers in it ask for a fold, as those that reach a bin that
waits do (R179). -/
def holdPacket (s : State) (ch : Nat) (items : List BinItem) : State :=
  items.foldl (fun s i =>
    match i with
    | .record _ _ => s
    | .mark c _ _ => post s 0 (.applyMarkerArrival ch (c, some (senderOf ch i)))) (setApply s ch fun a => { a with held := a.held ++ [items] })

/-- BIN_PACKET_ARRIVAL: an engine in the full state takes no bin packet until the state clears (R180). -/
def execBinPacketArrival (ch : Nat) (items : List BinItem) (s : State) : Host.Outcome State Fault Refusal :=
  .next (nudge (if accepts (applyOf s ch) ch items then takePacket s ch items else holdPacket s ch items))

/-! ## Folds (R183-R186, R190) -/

/-- The place of a block in the order of a fold: pseudo-channel, bank, row, and address within the row (R155, R183). -/
def foldRank (s : State) (part k : Nat) : Nat :=
  match blockPlace s part (512 * k) with
  | none => k
  | some p =>
    let g := p / 512 % 16384
    let row := 256 * (p / 512 / 16384 % 96) + g / 64
    (((p / 512 / 16384 / 96 % 64 * 16 + g / 4 % 16) * 2 ^ 15 + row) * 2 ^ 40) + k

/-- The blocks that deltas are aimed at, in the order in which a fold visits them (R183). -/
def foldOrder (s : State) (part : Nat) (l : List Delta) : List Nat :=
  ((deltaBlocks l).foldl (fun (m : NMap Nat) k => put m (foldRank s part k) k) []).map fun x => x.2

/-- A fold goes on: it yields to refresh or to a read, or ends, at a time the spec does not fix (R183, R184, log 2). -/
def foldOn (s : State) (ch : Nat) : State :=
  let i := if Config.freeBool s.fresh then Instr.foldRefreshYield ch
    else if Config.freeBool (s.fresh + 1) then .foldReadYield ch
    else .foldComplete ch
  postFree (draw (draw s)) 0 i

/-- A fold begins, on every delta that the engine holds (R183). -/
def beginFold (s : State) (ch : Nat) (c : Nat × Option Nat) : State :=
  let part := partOfQuarter s (quarterOfChannel ch)
  foldOn (setApply s ch fun a => { a with fold := some c, todo := foldOrder s part a.deltas, met := none, freed := 0 }) ch

/-- APPLY_MARKER_ARRIVAL: a marker or a fold request of a commit starts a fold, or waits for the one in progress (R179, R183). -/
def execApplyMarkerArrival (ch : Nat) (c : Nat × Option Nat) (s : State) : Host.Outcome State Fault Refusal :=
  .next (match (applyOf s ch).fold with
    | some _ => setApply s ch fun a => { a with queued := a.queued ++ [c] }
    | none => beginFold s ch c)

/-- One delta acts on its word in the near tier (R174, R183). -/
def applyDelta (s : State) (part : Nat) (d : Delta) : State :=
  let n := szBits d.sz
  let w := leNat (nearBlockRead s part d.pa (n / 8))
  nearBlockWrite s part d.pa (bytesLE (n / 8) (dopApply d.op n w d.value.toNat))

/-- Whether some delta of a block lies in the spill area (R180). -/
def spilled (k : Nat) (l : List Delta) : Bool := (spillDeltas l).any fun d => d.pa / 512 == k

/-- Folds one block in one step: its deltas in order, or, where it or its spilled deltas cannot be read, they are dropped and the
block is poisoned (R183, R190). The result says whether it failed: BLOCK and CAUSE. -/
def foldBlock (s : State) (part k : Nat) (l : List Delta) : State × Option (Nat × Nat) :=
  let pa := 512 * k
  if blockBad s part pa then (poison s part pa, some (k, if blockPoisoned s part pa then 1 else 0))
  else if spilled k l && Config.badSpill s.fresh k then (poison s part pa, some (k, 2))
  else ((l.filter fun d => d.pa / 512 == k).foldl (fun s d => applyDelta s part d) s, none)

/-- The fold in progress writes its next block and frees that block's delta lines (R183), of which those of the delta space count (R180). -/
def foldNext (s : State) (ch : Nat) : State :=
  let a := applyOf s ch
  match a.todo with
  | [] => s
  | k :: t =>
    let mine := (nearDeltas a.deltas).filter fun d => d.pa / 512 == k
    let r := foldBlock s (partOfQuarter s (quarterOfChannel ch)) k a.deltas
    setApply r.1 ch fun a =>
      { a with
        deltas := a.deltas.filter fun d => d.pa / 512 != k
        todo := t
        met := match a.met with
          | some f => some f
          | none => r.2
        freed := a.freed + cdiv mine.length 3 }

/-- The fold in progress writes its next n blocks. -/
def foldSome (ch : Nat) : Nat → State → State
  | 0, s => s
  | n + 1, s => foldSome ch n (foldNext s ch)

/-- Folds every block that the fold in progress has yet to write. -/
def foldAll (s : State) (ch : Nat) : State := foldSome ch (applyOf s ch).todo.length s

/-- A fold of a commit is acknowledged (R187), and its waiting beams learn of its fault (R190); the fold of a request carries its
fault and no acknowledgement (R179). Of several faults of one commit the record names that of the fold acknowledged first, and within a
fold the first met. DESIGN CHOICE (log 35). -/
def acknowledge (s : State) (c : Nat × Option Nat) (ch : Nat) (fault : Option (Nat × Nat)) : State :=
  let s1 := { s with commits := alter s.commits c.1 fun m =>
    { m with
      acks := if c.2.isSome then m.acks else dropOne ch m.acks
      fault := match m.fault with
        | some f => some f
        | none => fault } }
  if c.2.isSome then s1 else post s1 1 (.commitComplete c.1)

/-- The full state clears, and what waited for it goes on, in its order, until the engine is full again (R179, R180). -/
def clearFull (s : State) (ch : Nat) : State :=
  let held := (applyOf s ch).held
  held.foldl (fun s l => if accepts (applyOf s ch) ch l then takePacket s ch l else setApply s ch fun a => { a with held := a.held ++ [l] })
    (noticeFull (setApply s ch fun x => { x with full := false, held := [], freed := 0 }) ch false)

/-- The full state clears as soon as the fold has freed an eighth of the delta space (R180). -/
def leaveFull (s : State) (ch : Nat) : State :=
  let a := applyOf s ch
  if a.full && decide (deltaSpace s ch ≤ 8 * a.freed) then clearFull s ch else s

/-- FOLD_READ_YIELD: a read meets a bank that the fold is busy with: the block in progress, and perhaps others before it, have been
written when it is served, and those behind it have not (R184). -/
def execFoldReadYield (ch : Nat) (s : State) : Host.Outcome State Fault Refusal :=
  .next (match (applyOf s ch).fold with
    | none => s
    | some _ => foldOn (leaveFull (foldSome ch (1 + drawn s (applyOf s ch).todo.length) s) ch) ch)

/-- FOLD_REFRESH_YIELD: refresh falls due: some blocks have been written, and of the next some deltas are applied in the engine's
buffer and no byte is written (R184). -/
def execFoldRefreshYield (ch : Nat) (s : State) : Host.Outcome State Fault Refusal :=
  .next (match (applyOf s ch).fold with
    | none => s
    | some _ =>
      let s1 := leaveFull (foldSome ch (drawn s (applyOf s ch).todo.length) s) ch
      let n := drawn (draw s1) 0
      let k := (applyOf s1 ch).todo.head?
      let mark := fun (x : List Delta × Nat) (d : Delta) =>
        if k == some (d.pa / 512) then (x.1 ++ [{ d with buffered := d.buffered || decide (x.2 < n) }], x.2 + 1) else (x.1 ++ [d], x.2)
      foldOn (draw (draw (setApply s1 ch fun a => { a with deltas := (a.deltas.foldl mark ([], 0)).1 }))) ch)

/-- FOLD_COMPLETE: every block of the fold has been written, each in one step (R183); it is acknowledged, and the next marker's fold
begins. -/
def execFoldComplete (ch : Nat) (s : State) : Host.Outcome State Fault Refusal :=
  .next (match (applyOf s ch).fold with
    | none => s
    | some c =>
      let s1 := foldAll s ch
      let a := applyOf s1 ch
      let s3 := leaveFull (setApply s1 ch fun a => { a with fold := none }) ch
      let s4 := nudge (acknowledge s3 c ch a.met)
      match (applyOf s4 ch).queued with
      | [] => s4
      | d :: t => beginFold (setApply s4 ch fun a => { a with queued := t }) ch d)

/-- FULL_STATE_NOTICE: a core's copy of a full bit changes; a bin that waited for the channel ships (R176, R179). -/
def execFullStateNotice (core ch : Nat) (full : Bool) (s : State) : Host.Outcome State Fault Refusal :=
  let s1 := setCore s core fun c =>
    { c with fullBits := if full then ch :: c.fullBits.filter (fun x => x != ch) else c.fullBits.filter fun x => x != ch }
  let k := binKey (core / 4) ch
  .next (if !full && isChannelBin k && (binOf s1 k).due then shipBin s1 k else s1)

/-! ## Commits (R187-R191) -/

/-- A new commit of a partition, its marker to enter some logs at the end of clock s.clk + d. -/
def newCommit (s : State) (part d : Nat) (logs : List Nat) (f : Commit → Commit) : Nat × State :=
  let (c, s1) := newKey s
  let m : Commit :=
    { part := part, beams := [], grid := none, origin := none, logs := logs, acks := [], pod := false, pods := [],
      started := false, fault := none, seqHi := [], done := false, tickets := 0, extra := (0, []), moved := false }
  (c, post { s1 with commits := put s1.commits c (f m) } (d + 1) (.hgCommitMarkerDelivery c))

/-- HG_COMMIT_MARKER_DELIVERY: the marker enters the logs, behind the appends of its clock (R175, R187). -/
def execHgCommitMarkerDelivery (c : Nat) (s : State) : Host.Outcome State Fault Refusal :=
  .next (match look s.commits c with
    | none => s
    | some m =>
      if m.started then s
      else
        let s1 := m.logs.foldl (fun s core =>
          postFree { setCore s core (fun x => { x with log := x.log ++ [(.mark c core [], 0)] }) with
            commits := alter s.commits c fun m => { m with seqHi := put m.seqHi core ((coreOf s core).nextSeq - 1) } }
            0 (.logDrain core)) s
        post { s1 with commits := alter s1.commits c fun m => { m with started := true } } 1 (.commitComplete c))

/-- This device's number in the pod: PODCFG.DEVID (R316). -/
def podSelf (s : State) : Nat := fld (csrN s 0 0x540) 5 0

/-- The pod peers whose acknowledgements a COMMIT.pod awaits (R188, R317). -/
def podPeers (s : State) (part : Nat) : List Nat :=
  if fld (csrN s 0 0x540) 7 6 = part then
    (upTo 64).filter fun d => d != podSelf s && bit (csrN s 0 (0x580 + d)) 7
  else []

/-- Whether every acknowledgement of a commit has arrived, and every peer can be reached (R187, R317). -/
def commitReady (s : State) (m : Commit) : Bool :=
  m.started && m.logs.isEmpty && m.acks.isEmpty && m.pods.isEmpty &&
    (!m.pod || (podPeers s m.part).all (podReach s))

/-- The fold-fault record (R190) of a commit, its window counted in a core; for a core whose log has not held the marker, that of a beam
resumed elsewhere, it ends with the core's last number. DESIGN CHOICE (log 35). -/
def faultRecord (s : State) (m : Commit) (core : Nat) (f : Nat × Nat) : Nat :=
  2 ^ 96 * (lookD m.seqHi core ((coreOf s core).nextSeq - 1)).toNat + 2 ^ 64 * (coreOf s core).seqLo.toNat + 2 ^ 63 +
    512 * f.1 + 64 * f.2 + core

/-- ApplyFault for a beam, standing at its run (R190). -/
def applyFault (s : State) (k : Nat) (b : Beam) (m : Commit) (f : Nat × Nat) : Trap :=
  let run := runOf b
  { trapAt b (leastD 0 run) 0x0D with run := maskOf run, record := BitVec.ofNat 128 (faultRecord s m (k / 64) f) }

/-- A beam that waits for a commit no more, at any level. -/
def freeOfCommit (c : Nat) (b : Beam) : Beam :=
  let off := fun h => if h = Hold.commit c then Hold.none else h
  { b with hold := off b.hold, under := b.under.map off, ticket := if b.ticket = some c then none else b.ticket }

/-- What a block had appended on cores it has left is folded (R187); where a beam was saved while it waited, the block may have left a
core since, with records behind the marker in those channels. -/
def prunePast (s : State) (m : Commit) : State :=
  if m.moved then s
  else m.beams.foldl (fun s k =>
    match beamOf s k with
    | some b => { s with blocks := alter s.blocks b.block fun x => { x with past := x.past.filter fun ch => !m.extra.2.contains ch } }
    | none => s) s

/-- A beam no longer waits for a commit, and takes its fault (R187, R189, R190). -/
def releaseCommit (s : State) (c k : Nat) (m : Commit) : State :=
  match beamOf s k with
  | none => s
  | some b =>
    match m.fault with
    | some f => queueTrap (setBeam s k (freeOfCommit c b)) k (applyFault s k (freeOfCommit c b) m f)
    | none => setBeam s k (freeOfCommit c b)

/-- DFLT takes a fold-fault record while V = 0, and the partition's MSI-X vector is signalled (R191, R314). -/
def recordFault (s : State) (part rec_ : Nat) : State :=
  if bit (csrN s part 0x205) 31 then s
  else
    let s1 := (upTo 4).foldl (fun s k => csrPut s part (0x204 + k) (BitVec.ofNat 32 (rec_ / 2 ^ (32 * k)))) s
    { s1 with sent := s1.sent ++ [.msix part] }

/-- COMMIT_COMPLETE: every acknowledgement has arrived (R187): waiting beams go on, the end of a grid goes on, a pod peer is
acknowledged. -/
def execCommitComplete (c : Nat) (s : State) : Host.Outcome State Fault Refusal :=
  .next (match look s.commits c with
    | none => s
    | some m =>
      if m.done || !commitReady s m then s
      else
        let s1 := m.beams.foldl (fun s k => releaseCommit s c k m) (prunePast s m)
        let s2 := match m.fault with
          | some f =>
            if m.grid.isSome then
              let low := leastD 0 (coresOf s1 m.part)
              recordFault s1 m.part (faultRecord s1 m low f)
            else s1
          | none => m.seqHi.foldl (fun s (x : Nat × Word) => setCore s x.1 fun y => { y with seqLo := x.2 + 1 }) s1
        let s3 := { s2 with commits :=
          if m.tickets = 0 then del s2.commits c else put s2.commits c { m with done := true, beams := [] } }
        let s4 := match m.origin with
          | some (d, t) => podSend s3 d fun l => .podAck l d (podSelf s3) t m.fault
          | none => s3
        match m.grid with
        | some g => post s4 0 (.completionWordWrite g)
        | none => s4)

/-- A beam commits, and waits (R187). -/
def commitBy (pod : Bool) (logs : State → Sel → List Nat) (d : Nat) : Effect := fun x s =>
  let part := selPart s x
  let peers := if pod then podPeers s part else []
  let past := ((look s.blocks x.beam.block).map fun b => b.past).getD []
  let (c, s1) := newCommit s part d (logs s x) fun m =>
    { m with beams := [x.key], pod := !peers.isEmpty, pods := peers, extra := (selCore x, past) }
  let s2 := peers.foldl (fun s p => podSend s p fun l => .podMarker l p (podSelf s) c) s1
  .done (onBeam s2 x.key fun b => { b with hold := .commit c }) []

/-- COMMIT.blk (R187). -/
def effCommitBlk : Effect := commitBy false (fun _ x => [selCore x]) 0
/-- COMMIT.grid (R187). -/
def effCommitGrid : Effect := commitBy false (fun s x => hgCores s (selCore x)) 40
/-- COMMIT.pod (R187, R188). -/
def effCommitPod : Effect := commitBy true (fun s x => hgCores s (selCore x)) 40

/-- DSTAT (R192). -/
def effDstat (d : Nat) : Effect := fun x s =>
  let c := selCore x
  let v := (if (coreOf s c).fullBits.isEmpty then 0 else 2 ^ 31) + 65536 * logUsed s c + (coreOf s c).nextSeq.toNat % 65536
  gated x s x.run [] [regUse d 1] (.done (onLanes s x.key x.run fun _ l => laneSet l d (BitVec.ofNat 32 v)) [])

/-- The meaning of COMMIT.blk (R187). -/
def execCommitBlk (s : State) : Host.Outcome State Fault Refusal := issue 4 effCommitBlk s
/-- The meaning of COMMIT.grid (R187). -/
def execCommitGrid (s : State) : Host.Outcome State Fault Refusal := issue 4 effCommitGrid s
/-- The meaning of COMMIT.pod (R187, R188). -/
def execCommitPod (s : State) : Host.Outcome State Fault Refusal := issue 4 effCommitPod s
/-- The meaning of DSTAT (R192). -/
def execDstat (d : Nat) (s : State) : Host.Outcome State Fault Refusal := issue 4 (effDstat d) s

/-- POD_MARKER_ARRIVAL: a peer's marker enters every log of the partition the links serve, in one clock (R188); one for another
device goes on to it (R317). -/
def execPodMarkerArrival (route : Nat × Nat) (tag : Nat) (s : State) : Host.Outcome State Fault Refusal :=
  let part := podPart s
  .next (if route.1 ≠ podSelf s then podSend s route.1 fun l => .podMarker l route.1 route.2 tag
    else if podMember s part route.2 then (newCommit s part 0 (coresOf s part) fun m => { m with origin := some (route.2, tag) }).2
    else s)

/-- POD_ACKNOWLEDGEMENT_ARRIVAL: a peer has completed its part of a COMMIT.pod, and tells of a fault that its folds met (R188,
R190); an acknowledgement for another device goes on to it (R317). -/
def execPodAcknowledgementArrival (route : Nat × Nat) (commit : Nat × Option (Nat × Nat)) (s : State) : Host.Outcome State Fault Refusal :=
  .next (if route.1 ≠ podSelf s then podSend s route.1 fun l => .podAck l route.1 route.2 commit.1 commit.2
    else post { s with commits := alter s.commits commit.1 fun m =>
    { m with
      pods := m.pods.filter fun d => d != route.2
      fault := match m.fault with
        | some f => some f
        | none => commit.2 } } 0 (.commitComplete commit.1))

/-- POD_DEVICE_UNREACHABLE: a member of the pod can no longer be reached, or can again; no COMMIT.pod completes meanwhile
(R317). -/
def execPodDeviceUnreachable (dev : Nat) (down : Bool) (s : State) : Host.Outcome State Fault Refusal :=
  let rest := s.down.filter fun d => d != dev
  .next (if down then { s with down := dev :: rest }
    else s.commits.foldl (fun s m => post s 0 (.commitComplete m.1)) { s with down := rest })

end Sys2Proof.Machine
end

