-- ==== Sys2Proof/Machine/CsrWrite.lean ====
section
/-!
DEFINITION. Writes of control registers, field by field under their Access column, with what each write brings about (R64,
R65, R154, R181, R182, R191, R203, R204, R288, R298, R316-R323), and the events in which the host writes them.
-/
namespace Sys2Proof.Machine

open Sys2Proof

/-- The value of a register after a write to its RW fields. -/
def rwMerge (old mask v : Word) : Word := (old &&& ~~~ mask) ||| (v &&& mask)

/-- A plain write. -/
def csrPlain (s : State) (part n : Nat) (v : Word) : State := csrPut s part n (rwMerge (csrGet s part n) (csrMask n) v)

/-! ## PARTCTL, PARTCFG, NBND, QCTL (R318-R323) -/

/-- STAT of PARTCTL. -/
def setStat (s : State) (v : Nat) : State :=
  csrPut s 0 0x501 ((csrGet s 0 0x501 &&& ~~~ (0xE00 : Word)) ||| BitVec.ofNat 32 (512 * v))

/-- PIDq of a PARTCFG value. -/
def pidOf (v q : Nat) : Nat := fld v (2 * q + 1) (2 * q)

/-- The quarters of q's partition under a PARTCFG value. -/
def groupOf (v q : Nat) : List Nat := (upTo 4).filter fun r => pidOf v r == pidOf v q

/-- Whether every partition of a PARTCFG value is legal (R318). -/
def legalShape (v : Nat) : Bool :=
  (upTo 4).all fun q =>
    let g := groupOf v q
    g.head? == some (pidOf v q) && (g.length == 1 || g.length == 4 || g == [0, 1] || g == [1, 2] || g == [2, 3] || g == [0, 3])

/-- Whether a queue counts as idle for a PARTCFG write by a beam of a grid (R323). -/
def idleFor (s : State) (q : Nat) (grid : Option Nat) : Bool :=
  queueIdle s q ||
    match grid.bind (look s.grids) with
    | some g => g.queue == q && queueRunning s q == 1 && lqHd s q == lqTl s q
    | none => false

/-- A write of PARTCFG: STAT tells at once, and the partitions change with the next clock (R323). -/
def writePartcfg (s : State) (v : Word) (grid : Option Nat) : State :=
  let old := csrN s 0 0x500
  let new := v.toNat % 1024
  let touched := (upTo 4).filter fun q => groupOf old q != groupOf new q
  if !legalShape new then setStat s 2
  else if ((upTo 256).any fun q => (touched.map (pidOf old)).contains (partOfQueue s q) && !idleFor s q grid) ||
      touched.any (fun q => !bit (csrN s 0 0x501) (4 + q)) then setStat s 1
  else { setStat s 0 with cfgNext := some (BitVec.ofNat 32 new) }

/-- A PARTCFG value that was written takes effect, in the clock that begins: a resident grid belongs to the partition that then
holds its cores, and the quarters whose partition changes are to be bound anew (R323). -/
def applyPartcfg (s : State) : State :=
  match s.cfgNext with
  | none => s
  | some v =>
    let old := csrN s 0 0x500
    let s1 := { csrPut s 0 0x500 v with
      cfgNext := none
      unbound := (upTo 4).filter fun q => s.unbound.contains q || groupOf old q != groupOf v.toNat q }
    { s1 with grids := s1.grids.map fun g =>
      let at_ := s1.blocks.find? fun b => ((look s1.gangs b.2.gang).map fun x => x.grid) == some g.1
      (g.1, { g.2 with part := match at_ with
        | some b => partOfCore s1 b.2.core
        | none => partOfQuarter s1 g.2.part }) }

/-- A write of PARTCTL (R319, R323): QACK follows QREQ within 200 clocks, and a rebinding takes 80; each quarter whose partition has
changed is to take the broadcast words that its partition's lowest quarter holds as it begins. -/
def writePartctl (s : State) (v : Word) : State :=
  let old := csrN s 0 0x501
  let busy := bit old 8
  let req := if busy then (v.toNat % 16) ||| (old % 16) else v.toNat % 16
  let ack := fld old 7 4 &&& req
  let start := bit v.toNat 8 && !busy
  let s1 := csrPut s 0 0x501
    (BitVec.ofNat 32 (old / 512 * 512 + (if busy || start then 256 else 0) + 16 * ack + req))
  let s2 := (upTo 4).foldl (fun s q => if bit req q && !bit old q then postFree s 200 (.quiesceAck q) else s) s1
  if start then
    post { s2 with
      rebind := (upTo 4).map fun q => if s.unbound.contains q then some (coreOf s (12 * partOfQuarter s q)).hw else none
      unbound := [] } 80 .hgRebindComplete
  else s2

/-- Whether a write of NBND would open a bit between quarters of different partitions: one that is not open yet (R321). -/
def nbndOpens (s : State) (v : Word) : Bool :=
  (upTo 8).any fun i => bit v.toNat i && !bit (csrN s 0 0x520) i && partOfQuarter s (i % 4) != partOfQuarter s ((i + 1) % 4)

/-- A write of NBND (R321): bins that waited for a die link ship. -/
def writeNbnd (s : State) (v : Word) : State :=
  if nbndOpens s v then setStat s 2
  else
    let s1 := setStat (csrPlain s 0 0x520 v) 0
    s1.bins.foldl (fun s x => if x.2.due && !isChannelBin x.1 then shipBin s x.1 else s) s1

/-- A write of QCTL: a group's owner is the partition of the quarter named (R322). -/
def writeQctl (s : State) (v : Word) : State :=
  let old := csrN s 0 0x530
  let busy := (upTo 4).any fun g =>
    partOfQuarter s (pidOf old g) != partOfQuarter s (pidOf v.toNat g) && (upTo 64).any fun i => !queueIdle s (64 * g + i)
  if busy then setStat s 1 else setStat (csrPlain s 0 0x530 v) 0

/-! ## Queues (R64, R65, R319) -/

/-- Whether the partition of a queue is quiesced for tail writes (R319). -/
def tailHeld (s : State) (q : Nat) : Bool :=
  (upTo 4).any fun r => bit (csrN s 0 0x501) r && partOfQuarter s r == partOfQueue s q

/-- The slots among some that a ring holds from its head to a tail. -/
def slotsTo (s : State) (q tail : Nat) (l : List Nat) : List Nat :=
  let n := lqN s q
  let place := fun i => (i + n - lqHd s q) % n
  l.filter fun i => decide (place i < place tail)

/-- A software write of LQTL (R65, R319). A slot that it takes from the ring holds no packet of LAUNCH any more (R275). -/
def writeTail (s : State) (q : Nat) (v : Word) : State :=
  if lqDev s q || tailHeld s q then s
  else if lqN s q ≤ v.toNat then lqFault s q
  else
    let s1 := setQueue s q fun r => { r with launched := slotsTo s q v.toNat r.launched }
    pump (csrPut s1 0 (lq q 4) v) q

/-- A write of LQCTL (R64, R65). A packet that stands at the head when EN is cleared stays there. DESIGN CHOICE (log 51). -/
def writeLqctl (s : State) (q : Nat) (v : Word) : State :=
  let old := csrGet s 0 (lq q 5)
  let en := old.getLsbD 0
  let refused := v.getLsbD 0 && !en && decide (csrN s 0 (lq q 0) % 256 ≠ 0)
  let fault := (old.getLsbD 2 && !v.getLsbD 2) || refused
  let dev := if en then old.getLsbD 3 else v.getLsbD 3
  let on := v.getLsbD 0 && !refused
  let s1 := csrPut s 0 (lq q 5) (BitVec.ofNat 32 (on.toNat + 4 * fault.toNat + 8 * dev.toNat))
  if on then pump s1 q else s1

/-- A write of a queue register. Where LQN is lowered, an LQHD or LQTL at or above the new N stays as it stands, and slot LQHD lies at base +
256 x LQHD; R65 says only that indices run modulo N. DESIGN CHOICE (log 51). -/
def writeLq (s : State) (q k : Nat) (v : Word) : State :=
  match k with
  | 0 | 1 => if lqEn s q then s else csrPlain s 0 (lq q k) v
  | 2 => if lqEn s q || decide (12 < fld v.toNat 3 0) then s else csrPlain s 0 (lq q 2) v
  | 4 => writeTail s q v
  | 5 => writeLqctl s q v
  | _ => s

/-! ## Flash queue pairs (R203, R204) -/

/-- Whether an enable of a pair is refused (R204). -/
def fqRefuses (s : State) (k : Nat) : Bool :=
  let cfg := csrN s 0 (fq k 6)
  decide (csrN s 0 (fq k 0) % 4096 ≠ 0) || decide (csrN s 0 (fq k 2) % 4096 ≠ 0) || decide (csrN s 0 (fq k 9) % 4096 ≠ 0) ||
    fld cfg 11 0 == 0 || decide (fld cfg 27 24 < 9) || decide (12 < fld cfg 27 24) || decide (fld cfg 23 20 < 12)

/-- The part of a pair that no register holds. -/
def flashOf (s : State) (k : Nat) : FlashRun := lookD s.flash k ⟨[], [], 0, 0, 0, true⟩

/-- A write of FQCTL. -/
def writeFqctl (s : State) (k : Nat) (v : Word) : State :=
  let old := csrGet s 0 (fq k 11)
  let en := old.getLsbD 0
  let refused := v.getLsbD 0 && !en && fqRefuses s k
  let err := (old.getLsbD 2 && !v.getLsbD 2) || refused
  let on := v.getLsbD 0 && !refused
  let s1 := csrPut s 0 (fq k 11) (BitVec.ofNat 32 (on.toNat + 4 * err.toNat + 64 * fld v.toNat 7 6))
  if on && !en then { s1 with flash := put s1.flash k { flashOf s1 k with tail := 0, sqhead := 0, head := 0, phase := true } } else s1

/-- A write of a register of a flash queue pair. -/
def writeFq (s : State) (k j : Nat) (v : Word) : State :=
  if j = 11 then writeFqctl s k v
  else if bit (csrN s 0 (fq k 11)) 0 then s
  else csrPlain s 0 (fq k j) v

/-! ## Others -/

/-- A write of HMASKk of a stack (R154). -/
def writeHmask (s : State) (n : Nat) (v : Word) : State :=
  let m := v.toNat % 1048576
  let base := (n - 0x800) / 8 * 8 + 0x800
  let clash := (upTo 6).any fun k => base + k != n && pivot (csrN s 0 (base + k)) == pivot m
  if m = 0 ∨ clash = true then s else csrPut s 0 n (BitVec.ofNat 32 m)

/-- A write of BINAGE: every bin of the partition that is not empty is timed anew (R179, R182). -/
def writeBinage (s : State) (part : Nat) (v : Word) : State :=
  let s1 := csrPlain s part 0x200 v
  let age := csrN s1 part 0x200
  if age = 0 then s1
  else s1.bins.foldl (fun s x =>
    if partOfSector s (x.1 / 256 % 12) = part ∧ x.2.items.isEmpty = false then
      post s (x.2.last + age - s.clk) (.binAgeExpiry (x.1 / 256) (x.1 % 256))
    else s) s1

/-- A write of MILVq that changes it: the caches of the partition that q leads lose what they hold of device memory, without
write-back (R320, R338). -/
def writeMilv (s : State) (part n : Nat) (v : Word) : State :=
  if fld v.toNat 29 28 = 3 then s
  else
    let s1 := csrPlain s part n v
    if csrGet s1 part n = csrGet s part n then s
    else
      let s2 := (coresOf s1 (n - 0x510)).foldl (fun s c => setCore s c fun x => { x with l1 := [], scaleCache := [] }) s1
      { s2 with l2 := s2.l2.filter fun e => !((l2Of e.1).2.1 == 0 && partOfSector s (l2Of e.1).1 == n - 0x510) }

/-- Clears registers of a record. -/
def csrClear (s : State) (part n k : Nat) : State := (upTo k).foldl (fun s i => csrPut s part (n + i) 0) s

/-- A WRITE OF A CONTROL REGISTER by a supervisor or the host: RO fields ignore it, RW1C fields clear where a 1 is written
(R298). `grid` is the grid of the beam that writes, where a beam does. ABORT acts in its instruction. -/
def csrWrite (s : State) (part n : Nat) (v : Word) (grid : Option Nat) : State :=
  if n = 0x200 then writeBinage s part v
  else if n = 0x201 then
    (if fld v.toNat 7 4 = 0 ∨ 8 < fld v.toNat 3 0 then s else csrPlain s part n v)
  else if n = 0x205 then (if v.getLsbD 31 then csrClear s part 0x204 4 else s)
  else if n = 0x305 then (if fld v.toNat 10 0 < 64 ∨ 1024 < fld v.toNat 10 0 then s else csrPlain s part n v)
  else if n = 0x306 ∨ n = 0x307 ∨ n = 0x308 then nudge (csrPlain s part n v)
  else if n = 0x310 then (if v.getLsbD 31 then csrClear s part 0x310 4 else s)
  else if n = 0x500 then writePartcfg s v grid
  else if n = 0x501 then writePartctl s v
  else if 0x510 ≤ n ∧ n < 0x514 then writeMilv s part n v
  else if n = 0x520 then writeNbnd s v
  else if n = 0x530 then writeQctl s v
  else if n = 0x540 ∨ (0x580 ≤ n ∧ n < 0x5C0) then
    s.commits.foldl (fun s m => post s 0 (.commitComplete m.1)) (csrPlain s part n v)
  else if 0x800 ≤ n ∧ n < 0x880 then writeHmask s n v
  else if 0x3000 ≤ n ∧ n < 0x3400 then writeFq s ((n - 0x3000) / 16) (n % 16) v
  else if 0x10000 ≤ n ∧ n < 0x11000 then writeLq s ((n - 0x10000) / 16) (n % 16) v
  else csrPlain s part n v

/-- Whether a register is one of DBGHALT: a write of it acts behind the issues and traps of its clock (R294, R295). -/
def isHalt (n : Nat) : Bool := decide (0x400 ≤ n) && decide (n < 0x460)

/-- Whether the host reaches a register of the partition whose lowest quarter is p: through window p of the PF, where device
registers appear too, or through BAR0 of VF p, where they do not (R313). -/
def hostReaches (s : State) (pf : Bool) (p n : Nat) : Bool :=
  decide (p < 4) &&
    match csrOwner n with
    | none => false
    | some .device => pf
    | some o => partOfQuarter s p == p && csrMine s p o

/-- A write of a device register by the PF comes behind those of this clock's beams (R318). -/
def pfWrite (s : State) (n : Nat) (keep set : Word) : State := { s with pfWrites := s.pfWrites ++ [⟨n, keep, set⟩] }

/-- The PF's writes of a clock are applied, one at a time (R318). -/
def applyPfWrites (s : State) : State :=
  s.pfWrites.foldl (fun s w => applyPartcfg (csrWrite s 0 w.n ((csrGet s 0 w.n &&& w.keep) ||| w.set) none))
    { s with pfWrites := [] }

/-- A host write of a register that is reached; one that a function may not make is dropped (R313). -/
def hostWrite (p n : Nat) (v : Word) (s : State) : Host.Outcome State Fault Refusal :=
  .next (if hostReaches s false p n then csrWrite s p n v none else s)

/-- What the device answers. -/
def answer (s : State) (d : Option (List Byte)) : State := { s with sent := s.sent ++ [.reply d] }

/-- LQTL_WRITE: the host writes LQTL (R65). -/
def execLqtlWrite (part q : Nat) (v : Word) (s : State) : Host.Outcome State Fault Refusal := hostWrite part (lq q 4) v s
/-- LQ_ENABLE: the host sets EN (R65). -/
def execLqEnable (part q : Nat) (s : State) : Host.Outcome State Fault Refusal :=
  hostWrite part (lq q 5) ((csrGet s 0 (lq q 5) &&& 8) ||| 1) s
/-- LQ_DISABLE: the host clears EN (R65). -/
def execLqDisable (part q : Nat) (s : State) : Host.Outcome State Fault Refusal :=
  hostWrite part (lq q 5) (csrGet s 0 (lq q 5) &&& 8) s
/-- HMASK_WRITE: the host writes HMASK register n (R154). -/
def execHmaskWrite (n : Nat) (v : Word) (s : State) : Host.Outcome State Fault Refusal :=
  .next (if 0x800 ≤ n ∧ n < 0x880 ∧ n % 8 < 6 then pfWrite s n 0 v else s)
/-- DEFSPILL_WRITE: the host writes DEFSPILL (R181). -/
def execDefspillWrite (part : Nat) (v : Word) (s : State) : Host.Outcome State Fault Refusal := hostWrite part 0x201 v s
/-- MILV_WRITE: the host writes MILVq (R320). -/
def execMilvWrite (part q : Nat) (v : Word) (s : State) : Host.Outcome State Fault Refusal :=
  .next (if q < 4 ∧ hostReaches s false part (0x510 + q) = true then csrWrite s part (0x510 + q) v none else s)
/-- PARTCFG_WRITE: the PF writes PARTCFG (R323). -/
def execPartcfgWrite (v : Word) (s : State) : Host.Outcome State Fault Refusal := .next (pfWrite s 0x500 0 v)
/-- QREQ_WRITE: the PF writes QREQ, HGRB left as it is (R319). -/
def execQreqWrite (v : Word) (s : State) : Host.Outcome State Fault Refusal :=
  .next (pfWrite s 0x501 0 (v &&& 0xF))
/-- HGRB_WRITE: the PF starts a rebinding, QREQ left as it is (R323). -/
def execHgrbWrite (s : State) : Host.Outcome State Fault Refusal :=
  .next (pfWrite s 0x501 0xF 0x100)
/-- NBND_WRITE: the PF writes NBND (R321). -/
def execNbndWrite (v : Word) (s : State) : Host.Outcome State Fault Refusal := .next (pfWrite s 0x520 0 v)
/-- QCTL_WRITE: the PF writes QCTL (R322). -/
def execQctlWrite (v : Word) (s : State) : Host.Outcome State Fault Refusal := .next (pfWrite s 0x530 0 v)
/-- DTRAP_CLEAR: the host clears DTRAP (R288). -/
def execDtrapClear (part : Nat) (s : State) : Host.Outcome State Fault Refusal := hostWrite part 0x310 0x80000000 s
/-- DFLT_CLEAR: the host clears DFLT (R191). -/
def execDfltClear (part : Nat) (s : State) : Host.Outcome State Fault Refusal := hostWrite part 0x205 0x80000000 s
/-- FQ_ENABLE: the PF sets FQCTL.EN (R204). -/
def execFqEnable (qp : Nat) (s : State) : Host.Outcome State Fault Refusal :=
  .next (if qp < 64 then pfWrite s (fq qp 11) 0xC0 1 else s)
/-- FQ_DISABLE: the PF clears FQCTL.EN (R204). -/
def execFqDisable (qp : Nat) (s : State) : Host.Outcome State Fault Refusal :=
  .next (if qp < 64 then pfWrite s (fq qp 11) 0xC0 0 else s)
/-- DBGHALT_WRITE: the host, or a beam by CSRW or through the register window, writes DBGHALT register n (R295). -/
def execDbghaltWrite (part n : Nat) (v : Word) (s : State) : Host.Outcome State Fault Refusal :=
  .next (if isHalt n && hostReaches s false part n then csrWrite s part n v none else s)
/-- The partition and register that a BAR0 access names: an aligned one of four bytes, in window off / 2^20 of the PF, or in the
one window of VF k (R313). -/
def hostNames (s : State) (vf : Option Nat) (off len : Nat) : Option (Nat × Nat) :=
  let p := vf.getD (off / 1048576)
  let n := off % 1048576 / 4
  if len = 4 ∧ off % 4 = 0 ∧ (vf = none ∨ off < 1048576) ∧ hostReaches s vf.isNone p n = true then some (p, n) else none

/-- CONTROL_REGISTER_WRITE: an access to BAR0, a read or a write (R313); what may not be made completes with Unsupported Request,
a write by being dropped. ABORT ends the grid of a beam that writes it, and so does nothing here. -/
def execControlRegisterWrite (vf : Option Nat) (place : Nat × Nat) (v : Option Word) (s : State) : Host.Outcome State Fault Refusal :=
  .next (match hostNames s vf place.1 place.2, v with
    | some (p, n), some w =>
      if csrOwner n = some .device then pfWrite s n 0 w
      else if isHalt n then post s 0 (.dbghaltWrite p n w)
      else csrWrite s p n w none
    | none, some _ => s
    | some (p, n), none => answer s (some (bytesLE 4 (csrRead s p n).toNat))
    | none, none => answer s none)

/-- QUIESCE_ACK: QACK of a quarter becomes 1 while QREQ stands (R319). -/
def execQuiesceAck (q : Nat) (s : State) : Host.Outcome State Fault Refusal :=
  .next (if bit (csrN s 0 0x501) q then csrPut s 0 0x501 (csrGet s 0 0x501 ||| BitVec.ofNat 32 (2 ^ (4 + q))) else s)

/-- HG_REBIND_COMPLETE: HGRB reads 0, and in the quarters whose partition had changed every copy of the broadcast words takes the value
that the copies of its partition's lowest quarter held when the rebinding began (R323). -/
def execHgRebindComplete (s : State) : Host.Outcome State Fault Refusal :=
  let s1 := { csrPut s 0 0x501 (csrGet s 0 0x501 &&& ~~~ (0x100 : Word)) with rebind := [] }
  .next ((upTo 48).foldl (fun t c => setCore t c fun x => { x with hw := (s.rebind.getD (quarterOf c) none).getD x.hw }) s1)

end Sys2Proof.Machine
end

