-- ==== Sys2Proof/Machine/MemOps.lean ====
section
/-!
DEFINITION. Loads, stores, atomics, fences, prefetches and flushes (R156-R171, R176): addresses, the checks of R157 in their
order, and the effects. Opcodes 0x50-0x5F, and the events PRODUCER_COMPLETE, PAGE_WALK_COMPLETE and WRITE_PERFORMED.
-/
namespace Sys2Proof.Machine

open Sys2Proof

/-! ## Lanes of an access -/

/-- One executing lane of a memory instruction: its address and what it captured. -/
structure ALane where
  lane : Nat
  ea : DWord
  data : QWord
  deriving DecidableEq, Repr

/-- A lane whose translation has succeeded. -/
structure GLane where
  lane : Nat
  ea : DWord
  data : QWord
  x : Xl
  deriving DecidableEq, Repr

/-- Where a lane's translation stands (R90, R143). -/
inductive LaneXl where
  | ok (g : GLane)
  | fault (lane : Nat) (va : DWord) (f : XFault)
  /-- a table entry in a block that cannot be read, at this address (R152) -/
  | bad (lane : Nat) (pa : Nat)
  /-- a table entry that no traffic reaches now (R321) -/
  | shut
  | walk (va : Nat)
  deriving DecidableEq, Repr

/-- Translates a lane through the TLB and what walks have told the beam. -/
def laneXlate (s : State) (k : Nat) (b : Beam) (sup write : Bool) (a : ALane) : LaneXl :=
  match lookTold s (k / 64) b.told a.ea.toNat sup write with
  | .hit x => .ok ⟨a.lane, a.ea, a.data, x⟩
  | .fail f => .fault a.lane a.ea f
  | .bad pa => .bad a.lane pa
  | .shut => .shut
  | .miss => .walk a.ea.toNat

/-- A fault record (R145). -/
def faultRec (va : DWord) (f : XFault) (kind : Nat) : QWord :=
  BitVec.ofNat 128 (2 ^ 64 * va.toNat + 2 ^ 12 * f.cause + 2 ^ 10 * f.level + kind)

/-- Lanes are parked with their records (R90). -/
def parkLanes (s : State) (k : Nat) (l : List (Nat × QWord)) : State :=
  onLanes s k (l.map fun p => p.1) fun i x =>
    { x with state := .parked, frec := ((l.find? fun p => p.1 == i).map fun p => p.2).getD 0 }

/-- A trap of the run with LANE and ADDR, its parked lanes no longer in the run. -/
def laneTrap (x : Sel) (code lane : Nat) (addr : DWord) (parked : List Nat) : Trap :=
  { trapOf x code with
    lane := lane, addr := addr, run := maskOf (x.run.filter fun i => !parked.contains i) }

/-- The first of some results. -/
def firstSome {α β : Type} (f : α → Option β) : List α → Option β
  | [] => none
  | a :: t =>
    match f a with
    | some b => some b
    | none => firstSome f t

/-! ## Range locks (R158, R197) -/

/-- How far one address lies behind another, modulo 2^64 (R200). -/
def ahead (a b : Nat) : Nat := (2 ^ 64 + b % 2 ^ 64 - a % 2 ^ 64) % 2 ^ 64

/-- Whether two ranges share a byte; addresses wrap at 2^64 (R200), and an empty range has no byte. -/
def bytesMeet (a n b m : Nat) : Bool := n != 0 && m != 0 && (decide (ahead a b < n) || decide (ahead b a < m))

/-- The lock that an access of a core meets. -/
def lockHit (s : State) (core : Nat) (loc : Bool) (first len : Nat) (write : Bool) : Option Lock :=
  (coreOf s core).locks.find? fun l =>
    (write || l.dest) && l.range.loc == loc && bytesMeet first len l.range.first l.range.len

/-- RangeLocked (R158, R291), with the first byte of the access that the lock covers. -/
def lockTrap (x : Sel) (lane : Nat) (first : Nat) (base : Nat) (l : Lock) (parked : List Nat) : Trap :=
  let d := if ahead l.range.first first < l.range.len then 0 else ahead first l.range.first
  { laneTrap x 0x09 lane (BitVec.ofNat 64 (base + d)) parked with reg := l.index }

/-! ## Page checks (R157, step 5) -/

/-- Whether an append of a lane finds its channel marked full in the core's copy (R176). -/
def channelFull (s : State) (core : Nat) (x : Xl) : Bool :=
  (coreOf s core).fullBits.contains (channelOf s (partOfCore s core) x.pa)

/-! ## The shared path of a global access (R156, R157) -/

/-- Whether a lane goes through the register window (R315). -/
def isWindow (x : Xl) : Bool := x.apc == 3 && fld x.pa 47 40 == 1

/-- n bytes of a lane, by their place. -/
def bytesOf (n : Nat) (g : GLane) : Span := ⟨false, tgPlace (targetOf g.x), n⟩

/-- The line of a lane. -/
def lineSpan (g : GLane) : Span := ⟨false, tgPlace (targetOf g.x) / 128 * 128, 128⟩

/-- What distinguishes one kind of global access. -/
structure GOp where
  /-- bytes of the access, and the alignment it needs -/
  n : Nat
  align : Nat
  /-- whether it needs W and meets source locks too (R144, R158), and whether it is an atomic or a reduction (R165) -/
  write : Bool
  atom : Bool
  /-- the scope that fixes the copy it may use (R161) -/
  scope : Scope
  /-- the order it has, and whether it promotes (R162, R167) -/
  order : Order
  prm : Bool
  /-- KIND of its fault records (R145) -/
  kind : Nat
  /-- the bytes that are compared with the locks: place and count from an address -/
  span : Nat → Nat × Nat
  /-- the bytes that earlier accesses of the beam may share with a lane (R86) -/
  near : GLane → Span
  /-- whether locks are checked for a lane (R158) -/
  locked : Xl → Bool
  /-- the page checks of a lane: a trap code and the address it reports -/
  check : State → Xl → DWord → Option (Nat × DWord)

/-- The lanes that translated, those that faulted, those whose tables could not be read, and the walks needed. -/
def okLanes (l : List LaneXl) : List GLane :=
  l.filterMap fun | .ok g => some g | .fault _ _ _ | .bad _ _ | .shut | .walk _ => none
def badLanes (l : List LaneXl) (kind : Nat) : List (Nat × QWord) :=
  l.filterMap fun | .fault i va f => some (i, faultRec va f kind) | .ok _ | .bad _ _ | .shut | .walk _ => none
def poorLanes (l : List LaneXl) : List (Nat × Nat) :=
  l.filterMap fun | .bad i pa => some (i, pa) | .ok _ | .fault _ _ _ | .shut | .walk _ => none
def walkLanes (l : List LaneXl) : List Nat :=
  l.filterMap fun | .walk va => some va | .ok _ | .fault _ _ _ | .bad _ _ | .shut => none

/-- UncorrectableData of a run whose tables could not be read (R152): the lanes, and the block of the first. -/
def tableTrap (x : Sel) (bad : List (Nat × Nat)) (parked : List Nat) : Trap :=
  { laneTrap x 0x0C 0 (BitVec.ofNat 64 ((bad.head?.map fun p => p.2).getD 0)) parked with lanes := maskOf (bad.map fun p => p.1) }

/-- Whether what an access brings about can travel (R317, R321): the beam's earlier accesses and the write-back of its release or
acquire, those of the fence of a register-window access, the write-backs of a promotion in every sector of the partition (R167), and
earlier accesses to its own bytes, which go first (R86). -/
def syncReady (s : State) (k : Nat) (op : GOp) (ls : List GLane) : Bool :=
  let s1 := performAll s k
  (op.order == .relaxed || !syncShut s1 k op.scope) && (!(ls.any fun g => isWindow g.x) || !syncShut s1 k .dev) &&
    (!(op.prm && wideScope op.scope) || (sectorsOf s (partOfCore s (k / 64))).all fun sec => syncOpen s1 sec .dev) &&
    !earlierShut s k ((ls.filter fun g => !g.x.d).map op.near)

/-- Whether every access behind this check goes where links carry it. -/
def lanesReach (s : State) (core : Nat) (op : GOp) (ls : List GLane) : Bool :=
  ls.all fun g => canReach s core g.x op.scope op.write op.atom

/-- Steps 3 to 6 of R157 and the effect: `act` answers the state after the instruction, or that it must wait. -/
def accessGlobal (x : Sel) (s : State) (op : GOp) (sup : Bool) (lanes : List ALane)
    (act : State → List GLane → Option State) : Res :=
  match lanes.find? fun a => a.ea.toNat % op.align != 0 with
  | some a => .trap s (laneTrap x 0x06 a.lane a.ea [])
  | none =>
    let r := lanes.map (laneXlate s x.key x.beam sup op.write)
    if !(walkLanes r).isEmpty then .hold (startWalks s x.key sup op.write (walkLanes r))
    else if r.contains .shut then .hold s
    else
      let bad := badLanes r op.kind
      let parked := bad.map fun p => p.1
      let good := okLanes r
      let s1 := parkLanes s x.key bad
      if !(poorLanes r).isEmpty then .trap s1 (tableTrap x (poorLanes r) parked)
      else
      match firstSome (fun g => (op.check s1 g.x g.ea).map fun c => (g.lane, c)) good with
      | some (i, code, addr) => .trap s1 (laneTrap x code i addr parked)
      | none =>
        match firstSome (fun g =>
            if op.locked g.x then
              (lockHit s1 (selCore x) false (op.span g.ea.toNat).1 (op.span g.ea.toNat).2 op.write).map fun l => (g, l)
            else none) good with
        | some (g, l) => .trap s1 (lockTrap x g.lane (op.span g.ea.toNat).1 (op.span g.ea.toNat).1 l parked)
        | none =>
          if !lanesReach s1 (selCore x) op good || !syncReady s1 x.key op good then .hold s
          else
            match act s1 good with
            | some s2 => .done s2 parked
            | none => .hold s

/-- The executing lanes with their addresses and captured operands. -/
def accessLanes (x : Sel) (ex : List Nat) (ea : Lane → DWord) (data : Lane → QWord) : List ALane :=
  ex.map fun i => ⟨i, ea (laneOf x.beam i), data (laneOf x.beam i)⟩

/-- off7 of the M forms, in bytes (R156). -/
def off7 (i7 n : Nat) : Int := sext 7 i7 * n

/-- EA of a lane (R156). -/
def eaOf (a : Src) (off : Int) (l : Lane) : DWord := lanePair l a.r + dwordOf off

/-- The low n registers of an operand. -/
def dataOf (d n : Nat) (l : Lane) : QWord :=
  match n with
  | 1 => (laneReg l d).setWidth 128
  | 2 => (lanePair l d).setWidth 128
  | _ => laneQuad l d

/-- Registers that n bytes fill. -/
def regsOf (n : Nat) : Nat := Nat.max 1 (n / 4)

/-! ## The single order of .sc accesses (R279) -/

/-- Whether an access of a narrow scope is performed on the sector's local copy of its line (R147, R161, R165): not where the page is
not cached or deferred, where the sector's copy is the home copy, or where an atomic goes to the host or the pod. -/
def actsLocal (s : State) (core : Nat) (sc : Scope) (atom : Bool) (t : Nat) : Bool :=
  tgC t && !tgDef t && !wideScope sc && tgApc t != 3 && !(atom && tgApc t != 0) && isLocalCopy s (core / 4) (tgApc t) (tgPa t)

/-- The key of a line's timestamp at the point where an .sc access is performed (R161, R165, R279): the sector's local copy, or the
line where its bytes live. -/
def scKey (s : State) (core : Nat) (sc : Scope) (atom : Bool) (t : Nat) : Nat :=
  let pa := tgPa t
  if actsLocal s core sc atom t then 2 * l2Key (core / 4) (tgApc t) pa + 1
  else
    match tgApc t with
    | 0 => 2 * lineAt s (partOfCore s core) pa
    | 3 => if fld pa 47 40 = 2 then 2 * lineAt s (partOfCore s core) (pa % 2 ^ 40) else 2 * ((3 * 2 ^ 64 + pa) / 128)
    | apc => if ownPod s apc pa then 2 * lineAt s (podPart s) (pa % 2 ^ 40) else 2 * ((apc * 2 ^ 64 + pa) / 128)

/-- An .sc access of a core to some lines, or a FENCE.sc to none, takes its place in S; timestamps have 64 bits (R279). -/
def scStamp (s : State) (core : Nat) (sc : Scope) (atom : Bool) (targets : List Nat) : State :=
  let t := (1 + targets.foldl (fun m k => Nat.max m (lookD s.scLines (scKey s core sc atom k) 0)) (coreOf s core).lamport) % 2 ^ 64
  let s1 := setCore s core fun c => { c with lamport := t }
  { s1 with scLines := targets.foldl (fun m k => put m (scKey s core sc atom k) t) s1.scLines }

/-- The stamp of an access whose order is .sc. -/
def stampIf (s : State) (core : Nat) (q : QF) (atom : Bool) (targets : List Nat) : State :=
  match q.order with
  | .sc => scStamp s core q.scope atom targets
  | .relaxed | .acq | .rel | .acqrel => s

/-- Whether an order acquires, and whether it releases, for ATOM, ACAS and FENCE (R162, R169). -/
def acquires : Order → Bool
  | .acq | .acqrel | .sc => true
  | .relaxed | .rel => false
def releases : Order → Bool
  | .rel | .acqrel | .sc => true
  | .relaxed | .acq => false

/-! ## Loads (R160-R163, R168) -/

/-- An access that has passed its checks becomes an unfinished instruction; it is performed at once where its order or
its page asks for that (R150, R162). -/
def startAccess (x : Sel) (s : State) (word : Word) (epc : Word) (dst n : Nat) (kind : PendKind) (lanes : List PendLane)
    (now : Bool) : State :=
  let id := ((beamOf s x.key).map fun b => b.nextId).getD 0
  let on := lanes.map fun l => l.lane
  let p : Pend := ⟨id, word, epc, macroStepOf x, maskOf x.run, dst, n, kind, lanes⟩
  let s1 := onBeam s x.key fun b =>
    { beamLanes b on (fun _ l => laneEmpty l dst n) with nextId := b.nextId + 1, pend := b.pend ++ [p] }
  let s2 := if now then performPend s1 x.key p else s1
  postFree s2 0 (.producerComplete (x.key / 64) (x.key % 64) id)

/-- The bytes of some lanes (R86). -/
def spansOf (ls : List GLane) (n : Nat) : List Span := ls.map (bytesOf n)

/-- A lane of an unfinished access. -/
def pendLane (g : GLane) : PendLane := ⟨g.lane, g.ea, targetOf g.x, g.data, 0, 0⟩

/-- Whether any lane goes through APC 3, where accesses take effect in issue order (R150). -/
def anyAperture (ls : List GLane) : Bool := ls.any fun g => g.x.apc == 3

/-- A register-window access acts as CSRR and CSRW do: first as FENCE.acqrel.dev (R298, R315). -/
def windowFence (s : State) (k : Nat) (ls : List GLane) : State :=
  if ls.any fun g => isWindow g.x then fenceDev s k else s

/-- A load of n bytes (R160-R163). -/
def loadOp (n : Nat) (q : QF) : GOp :=
  { n := n, align := n, write := false, atom := false, scope := q.scope, order := q.order, prm := false, kind := 0, span := fun a => (a, n), near := bytesOf n, locked := fun _ => true,
    check := fun _ _ _ => none }

/-- A load's page checks (R157). -/
def loadCheck (core n : Nat) (const sup : Bool) (s : State) (x : Xl) (ea : DWord) : Option (Nat × DWord) :=
  if x.d then none
  else if !outerOk s core sup (n == 4 && !const) x then some (0x08, ea)
  else if const && (x.w || x.apc != 0) then some (0x08, ea)
  else none

/-- What a load does once checked. -/
def loadAct (x : Sel) (word : Word) (epc : Word) (d n : Nat) (q : QF) (const : Bool) (s : State) (ls : List GLane) : Option State :=
  if ls.isEmpty then some s
  else
    let now := acquires q.order || anyAperture ls
    let s1 := beforeAccess (windowFence s x.key ls) x.key (spansOf ls n)
    if now && !accessOpen s1 (selCore x) (.load n q.scope const) (ls.map fun g => targetOf g.x) then none else
    let s2 := startAccess x s1 word epc d (regsOf n) (.load n q.scope const) (ls.map pendLane) now
    let s3 := stampIf s2 (selCore x) q false (ls.map fun g => targetOf g.x)
    some (if acquires q.order then acquireCaches s3 (selCore x) q.scope else s3)

/-- A load whose lanes and addresses are given. -/
def loadLanes (x : Sel) (s : State) (sup : Bool) (word epc : Word) (d n : Nat) (q : QF) (const : Bool)
    (lanes : List ALane) : Res :=
  accessGlobal x s { loadOp n q with check := loadCheck (selCore x) n const sup } sup lanes
    (loadAct x word epc d n q const)

/-- LD and LDC (R160, R163). -/
def effLoad (i : Instr) (g : Guard) (n : Nat) (off : Int) (q : QF) (const : Bool) (a : Src) (d : Nat) : Effect := fun x s =>
  let ex := execLanes x g
  gated x s ex [srcUse a 2] [regUse d (regsOf n)]
    (loadLanes x s (selSup x) (wordOfInstr i) (selPc x) d n q const (accessLanes x ex (eaOf a off) fun _ => 0))

/-! ## Stores and appends (R160, R161, R168) -/

/-- The record that an append makes of a word (R173, R174). -/
def recordFor (b : Block) (op : DOp) (sz : Bool) (pa : Nat) (v : DWord) : Rec :=
  ⟨if sz then v else v &&& 0xFFFFFFFF, op, sz, b.core % 4 * 64 + b.bslot, pa⟩

/-- The records of a store of n bytes to a deferred page: ST.128 appends its lower half first (R168, R175). -/
def storeRecords (b : Block) (n : Nat) (g : GLane) : List Rec :=
  match n with
  | 4 => [recordFor b .store false g.x.pa (g.data.setWidth 64)]
  | 8 => [recordFor b .store true g.x.pa (g.data.setWidth 64)]
  | _ => [recordFor b .store true g.x.pa (g.data.setWidth 64), recordFor b .store true (g.x.pa + 8) ((g.data >>> 64).setWidth 64)]

/-- Appends records in order. -/
def appendAll (s : State) (core : Nat) (l : List Rec) : State := l.foldl (fun s r => appendRecord s core r) s

/-- A register written through the register window (R315) or by CSRW (R298): ABORT ends the beam's grid, and DBGHALT is written behind
the issues of the clock (R294). -/
def beamWritesCsr (s : State) (k n : Nat) (v : Word) : State :=
  let grid := ((beamOf s k).bind (homeOf s)).map fun h => h.2.1.grid
  if n = 0x30A then
    match grid with
    | some g => if v.getLsbD 0 then post s 0 (.abort g) else s
    | none => s
  else if isHalt n then post s 0 (.dbghaltWrite (partOfCore s (k / 64)) n v)
  else csrWrite s (partOfCore s (k / 64)) n v grid

/-- One lane's store takes effect at once. -/
def storeNow (s : State) (k : Nat) (sc : Scope) (n : Nat) (g : GLane) : State :=
  if isWindow g.x then beamWritesCsr s k (fld g.x.pa 19 2) (g.data.setWidth 32)
  else storePath s (k / 64) (targetOf g.x) sc (bytesLE n g.data.toNat)

/-- A store's page checks (R157, R168, R176, R315, R317). -/
def storeCheck (core n : Nat) (sup : Bool) (s : State) (x : Xl) (ea : DWord) : Option (Nat × DWord) :=
  if x.d then
    (if n < 4 then some (0x08, ea)
    else if channelFull s core x then some (0x0A, BitVec.ofNat 64 x.pa)
    else none)
  else if !outerOk s core sup (n == 4) x then some (0x08, ea)
  else none

/-- A write that is not yet performed enters the beam's buffer (R161); with `now` it is performed at once where it can travel. -/
def bufferStore (x : Sel) (s : State) (kind : StoreKind) (sc : Scope) (now : Bool) (pieces : List Piece) : State :=
  let id := ((beamOf s x.key).map fun b => b.nextId).getD 0
  let st : Store := ⟨id, kind, sc, selPc x, macroStepOf x, maskOf x.run, pieces⟩
  let s1 := onBeam s x.key fun b => { b with nextId := b.nextId + 1, stores := b.stores ++ [st] }
  if now && storeOpen s1 (selCore x) st then performStore s1 x.key st else postFree s1 0 (.writePerformed (x.key / 64) (x.key % 64) id)

/-- The bytes of a lane of a global write. -/
def pieceOf (n : Nat) (g : GLane) : Piece := ⟨g.lane, targetOf g.x, bytesLE n g.data.toNat⟩

/-- What a store does once checked: deferred lanes append, the others store (R161, R162, R168, R175). -/
def storeAct (x : Sel) (n : Nat) (q : QF) (s : State) (ls : List GLane) : Option State :=
  match homeOf s x.beam with
  | none => some s
  | some (bl, _, _) =>
    let def_ := ls.filter fun g => g.x.d
    let plain := ls.filter fun g => !g.x.d
    let recs := def_.flatMap (storeRecords bl n)
    if ls.isEmpty then some s
    else if !logRoom s (selCore x) recs.length then none
    else
      let rel := releases q.order
      let s1 := if rel then releaseAt s x.key q.scope else s
      let s2 := appendAll s1 (selCore x) recs
      if plain.isEmpty then some s2
      else
        let s3 := beforeAccess (windowFence s2 x.key plain) x.key (spansOf plain n)
        let now := rel || anyAperture plain
        if now && !(plain.all fun g => canReach s3 (selCore x) g.x q.scope true false) then none else
        let s4 := if now then plain.foldl (fun s g => storeNow s x.key q.scope n g) s3
          else bufferStore x s3 .plain q.scope false (plain.map (pieceOf n))
        some (stampIf s4 (selCore x) q false (plain.map fun g => targetOf g.x))

/-- ST (R160). -/
def effStore (g : Guard) (n : Nat) (off : Int) (q : QF) (a : Src) (d : Nat) : Effect := fun x s =>
  let ex := execLanes x g
  let op : GOp :=
    { n := n, align := n, write := true, atom := false, scope := q.scope, order := q.order, prm := false, kind := 1, span := fun a => (a, n), near := bytesOf n, locked := fun y => !y.d,
      check := storeCheck (selCore x) n (selSup x) }
  gated x s ex [srcUse a 2, regUse d (regsOf n)] []
    (accessGlobal x s op (selSup x) (accessLanes x ex (eaOf a off) (dataOf d (regsOf n))) (storeAct x n q))

/-! ## Local accesses (R138, R160) -/

/-- local_target of R138: the core and core offset of n bytes at a local address. -/
def localPlace (s : State) (b : Block) (g : Gang) (gr : Grid) (a n : Nat) : Option Nat :=
  let off := a % 4194304
  if fld a 31 25 ≠ 0 ∨ gr.lmb < off + n then none
  else if bit a 24 then
    let c := fld a 23 22
    if c < g.c0 ∨ g.c0 + gr.nblk ≤ c then none
    else
      match look s.blocks (g.blocks.getD (c - g.c0) 0) with
      | some p => some (localTarget p.core (p.lmbase + off))
      | none => none
  else if fld a 23 22 ≠ 0 then none
  else some (localTarget b.core (b.lmbase + off))

/-- A lane of a local access: its number, address, target and data. -/
structure LLane where
  lane : Nat
  a : Word
  target : Nat
  data : QWord
  deriving DecidableEq, Repr

/-- Steps 3 to 6 of R157 for local accesses. -/
def accessLocal (x : Sel) (s : State) (n : Nat) (write : Bool) (lanes : List ALane) (act : State → List LLane → State) : Res :=
  match lanes.find? fun a => a.ea.toNat % n != 0 with
  | some a => .trap s (laneTrap x 0x06 a.lane a.ea [])
  | none =>
    match homeOf s x.beam with
    | none => .hold s
    | some (bl, g, gr) =>
      let r := lanes.map fun a => (a, localPlace s bl g gr a.ea.toNat n)
      match r.find? fun p => p.2.isNone with
      | some (a, _) => .trap s (laneTrap x 0x08 a.lane a.ea [])
      | none =>
        let ls : List LLane := r.map fun p => ⟨p.1.lane, p.1.ea.setWidth 32, p.2.getD 0, p.1.data⟩
        match firstSome (fun l => (lockHit s (l.target / 4194304) true l.target n write).map fun k => (l, k)) ls with
        | some (l, k) => .trap s (lockTrap x l.lane l.target l.a.toNat k [])
        | none => .done (act s ls) []

/-- A local address of a lane (R156), zero-extended. -/
def localEa (a : Src) (off : Int) (l : Lane) : DWord := (laneReg l a.r + wordOf off).setWidth 64

/-- A local load whose lanes and addresses are given. -/
def ldlLanes (x : Sel) (s : State) (word epc : Word) (d n : Nat) (lanes : List ALane) : Res :=
  accessLocal x s n false lanes fun s ls =>
    if ls.isEmpty then s
    else
      let s1 := beforeAccess s x.key (ls.map fun l => ⟨true, l.target, n⟩)
      startAccess x s1 word epc d (regsOf n) (.loadLocal n)
        (ls.map fun l => ⟨l.lane, l.a.setWidth 64, l.target, l.data, 0, 0⟩) false

/-- LDL (R160). -/
def effLdl (i : Instr) (g : Guard) (n : Nat) (off : Int) (a : Src) (d : Nat) : Effect := fun x s =>
  let ex := execLanes x g
  gated x s ex [srcUse a 1] [regUse d (regsOf n)]
    (ldlLanes x s (wordOfInstr i) (selPc x) d n (accessLanes x ex (localEa a off) fun _ => 0))

/-- The bytes of a lane of an STL. -/
def localPiece (n : Nat) (l : LLane) : Piece := ⟨l.lane, l.target, bytesLE n l.data.toNat⟩

/-- STL (R160): its lanes are performed in ascending order (R159), at a free time (R274, log 6). -/
def effStl (g : Guard) (n : Nat) (off : Int) (a : Src) (d : Nat) : Effect := fun x s =>
  let ex := execLanes x g
  gated x s ex [srcUse a 1, regUse d (regsOf n)] []
    (accessLocal x s n true (accessLanes x ex (localEa a off) (dataOf d (regsOf n))) fun s ls =>
      if ls.isEmpty then s
      else bufferStore x (beforeAccess s x.key (ls.map fun l => ⟨true, l.target, n⟩)) .loc .bm false (ls.map (localPiece n)))

/-! ## Atomics and reductions (R164-R168) -/

/-- Whether APC 1 has the operation as a PCIe AtomicOp (R165); `none` is ACAS. -/
def hostHas (op : Option AtomOp) : Bool :=
  match op with
  | none | some .add | some .exch => true
  | _ => false

/-- The page checks of ATOM and ACAS. -/
def atomCheck (core : Nat) (sup : Bool) (op : Option AtomOp) (s : State) (x : Xl) (ea : DWord) : Option (Nat × DWord) :=
  if x.d then some (0x0B, ea)
  else if (x.apc == 1 && !hostHas op) || x.apc == 3 || !outerOk s core sup false x then some (0x08, ea)
  else none

/-- What ATOM and ACAS do once checked. -/
def atomAct (x : Sel) (word epc : Word) (d dn bytes : Nat) (op : Option AtomOp) (q : QF) (s : State) (ls : List GLane) :
    Option State :=
  if ls.isEmpty then some s
  else
    let s1 := if releases q.order then releaseAt s x.key q.scope else s
    let s2 := beforeAccess s1 x.key (spansOf ls bytes)
    if q.order != .relaxed && !accessOpen s2 (selCore x) (.atomic bytes op q) (ls.map fun g => targetOf g.x) then none else
    let s3 := startAccess x s2 word epc d dn (.atomic bytes op q) (ls.map pendLane) (q.order != .relaxed)
    let s4 := stampIf s3 (selCore x) q true (ls.map fun g => targetOf g.x)
    some (if acquires q.order then acquireCaches s4 (selCore x) q.scope else s4)

/-- ATOM or ACAS whose lanes, addresses and operands are given. -/
def atomLanes (x : Sel) (s : State) (sup : Bool) (word epc : Word) (d dn bytes : Nat) (op : Option AtomOp) (q : QF)
    (lanes : List ALane) : Res :=
  let g : GOp :=
    { n := bytes, align := bytes, write := true, atom := true, scope := q.scope, order := q.order, prm := q.prm, kind := 2, span := fun a => (a, bytes), near := bytesOf bytes, locked := fun _ => true,
      check := atomCheck (selCore x) sup op }
  accessGlobal x s g sup lanes (atomAct x word epc d dn bytes op q)

/-- ATOM (R164). -/
def effAtom (i : Instr) (bytes : Nat) (op : AtomOp) (q : QF) (a : Src) (d : Nat) : Effect := fun x s =>
  gated x s x.run [srcUse a 2, regUse d (bytes / 4)] [regUse d (bytes / 4)]
    (atomLanes x s (selSup x) (wordOfInstr i) (selPc x) d (bytes / 4) bytes (some op) q
      (accessLanes x x.run (eaOf a 0) (dataOf d (bytes / 4))))

/-- ACAS (R166): expected, then desired. -/
def effAcas (i : Instr) (bytes : Nat) (q : QF) (a : Src) (d : Nat) : Effect := fun x s =>
  gated x s x.run [srcUse a 2, regUse d (bytes / 2)] [regUse d (bytes / 4)]
    (atomLanes x s (selSup x) (wordOfInstr i) (selPc x) d (bytes / 4) bytes none q
      (accessLanes x x.run (eaOf a 0) (dataOf d (bytes / 2))))

/-- The operator that a RED appends on a deferred page (R174). -/
def redOp : AtomOp → DOp
  | .add => .addI
  | .addF32 => .addF32
  | .minI => .minI
  | .maxI => .maxI
  | .minZ => .minZ
  | .maxZ => .maxZ
  | .minF32 => .minF32
  | .maxF32 => .maxF32
  | .and => .and
  | .or => .or
  | .xor => .xor
  | .exch => .store

/-- RED's page checks. -/
def redCheck (core : Nat) (sup : Bool) (op : AtomOp) (s : State) (x : Xl) (ea : DWord) : Option (Nat × DWord) :=
  if x.d then (if channelFull s core x then some (0x0A, BitVec.ofNat 64 x.pa) else none)
  else if (x.apc == 1 && !hostHas (some op)) || x.apc == 3 || !outerOk s core sup false x then some (0x08, ea)
  else none

/-- What RED does once checked: deferred lanes append, the others enter the beam's buffer and reduce one after another in
ascending lane order, one of the associations that R60 and R159 allow (log 9). -/
def redAct (x : Sel) (bytes : Nat) (op : AtomOp) (q : QF) (s : State) (ls : List GLane) : Option State :=
  match homeOf s x.beam with
  | none => some s
  | some (bl, _, _) =>
    let def_ := ls.filter fun g => g.x.d
    let plain := ls.filter fun g => !g.x.d
    if ls.isEmpty then some s
    else if !logRoom s (selCore x) def_.length then none
    else
      let s1 := if releases q.order then releaseAt s x.key q.scope else s
      let s2 := appendAll s1 (selCore x)
        (def_.map fun g => recordFor bl (redOp op) (bytes == 8) g.x.pa (g.data.setWidth 64))
      if plain.isEmpty then some s2
      else
        let s3 := bufferStore x (beforeAccess s2 x.key (spansOf plain bytes)) (.red op q) q.scope (releases q.order)
          (plain.map (pieceOf bytes))
        some (stampIf s3 (selCore x) q true (plain.map fun g => targetOf g.x))

/-- RED (R164). -/
def effRed (bytes : Nat) (op : AtomOp) (q : QF) (a : Src) (d : Nat) : Effect := fun x s =>
  let g : GOp :=
    { n := bytes, align := bytes, write := true, atom := true, scope := q.scope, order := q.order, prm := q.prm, kind := 3, span := fun a => (a, bytes), near := bytesOf bytes, locked := fun y => !y.d,
      check := redCheck (selCore x) (selSup x) op }
  gated x s x.run [srcUse a 2, regUse d (bytes / 4)] []
    (accessGlobal x s g (selSup x) (accessLanes x x.run (eaOf a 0) (dataOf d (bytes / 4))) (redAct x bytes op q))

/-! ## Fences, prefetches, flushes (R169-R171) -/

/-- FENCE (R169); it waits where its write-backs cannot travel (R317, R321). -/
def effFence (q : QF) : Effect := fun x s =>
  let s0 := performAll s x.key
  if q.order != .relaxed && syncShut s0 x.key q.scope then .hold s0
  else
    let s1 := if releases q.order then releaseAt s x.key q.scope else s
    let s2 := if acquires q.order then acquireAt s1 x.key q.scope else s1
    .done (stampIf s2 (selCore x) q false []) []

/-- A line is brought into the sector's slice, and into L1 (R147, R170). -/
def prefetch (s : State) (core : Nat) (g : GLane) : State :=
  (l1Read (sliceRead s (core / 4) 0 g.x.pa 1).2 core g.x.pa 1 false).2

/-- PREF (R170): a lane whose translation or tables fail brings nothing in. -/
def effPref (a : Src) : Effect := fun x s =>
  gated x s x.run [srcUse a 2] []
    (let r := x.run.map fun i => laneXlate s x.key x.beam (selSup x) false ⟨i, lanePair (laneOf x.beam i) a.r, 0⟩
    let good := (okLanes r).filter fun g => g.x.apc == 0 && !g.x.d && g.x.c
    if !(walkLanes r).isEmpty then .hold (startWalks s x.key (selSup x) false (walkLanes r))
    else if r.contains .shut || good.any fun g => !canReach s (selCore x) g.x .gang false false then .hold s
    else .done (good.foldl (fun s g => prefetch s (selCore x) g) s) [])

/-- CFLUSH's page checks. -/
def flushCheck (core : Nat) (sup : Bool) (s : State) (x : Xl) (ea : DWord) : Option (Nat × DWord) :=
  if x.d then none else if !outerOk s core sup false x then some (0x08, ea) else none

/-- The device address behind a translated one, where it names the core's own device memory: through APC 0, through APC 2 with this
device's number, or through the direct window of APC 3 (R141, R283, R315). -/
def ownAddr (s : State) (core : Nat) (x : Xl) : Option Nat :=
  match x.apc with
  | 0 => if x.d then none else some x.pa
  | 1 => none
  | 2 => if ownPod s 2 x.pa && podPart s == partOfCore s core then some (x.pa % 2 ^ 40) else none
  | _ => if fld x.pa 47 40 = 2 then some (x.pa % 2 ^ 40) else none

/-- A core has flushed a line that was written through an aperture (R283). -/
def noteFlush (s : State) (core : Nat) (x : Xl) : State :=
  match aliasKey s core (targetOf x) with
  | none => s
  | some k => { s with aliased := alter s.aliased k fun l => l.map fun e => { e with flushed := core :: e.flushed } }

/-- One line is flushed (R171): the copies of its bytes go, by whatever aperture they were made, so that none of them serves a
later load of the beam (R283). -/
def flushLine (s0 : State) (core : Nat) (x : Xl) : State :=
  let s := noteFlush s0 core x
  let s1 := if x.apc == 1 || x.apc == 2 then ownCopyBack s (core / 4) x.apc x.pa true else s
  match ownAddr s core x with
  | none => s1
  | some a =>
    let s2 := ownCopyBack s1 (core / 4) 2 (podSelf s * 2 ^ 40 + a) true
    l1Drop (homeDrop (ownCopyBack s2 (core / 4) 0 a true) (partOfCore s core) a) core a

/-- CFLUSH (R171). -/
def effCflush (a : Src) : Effect := fun x s =>
  let g : GOp :=
    { n := 1, align := 1, write := true, atom := false, scope := .dev, order := .relaxed, prm := false, kind := 5, span := fun a => (a / 128 * 128, 128), near := lineSpan, locked := fun _ => true,
      check := flushCheck (selCore x) (selSup x) }
  gated x s x.run [srcUse a 2] []
    (accessGlobal x s g (selSup x) (accessLanes x x.run (eaOf a 0) fun _ => 0) fun s ls =>
      some (ls.foldl (fun s l =>
        flushLine (beforeAccess s x.key [lineSpan l]) (selCore x) l.x) s))

/-! ## The instructions -/

/-- Bytes of a size. -/
def sizeBytes : MemSize → Nat
  | .b8 => 1
  | .b16 => 2
  | .b32 => 4
  | .b64 => 8
  | .b128 => 16

/-- Bytes of the narrow forms: .8 or .16 (R160). -/
def narrow (z : Bool) : Nat := if z then 2 else 1

def effLd32 (g : Guard) (i7 : Nat) (a : Src) (d : Nat) : Effect := effLoad (.ld32 g i7 a d) g 4 (off7 i7 4) .plain false a d
def effLd64 (g : Guard) (i7 : Nat) (a : Src) (d : Nat) : Effect := effLoad (.ld64 g i7 a d) g 8 (off7 i7 8) .plain false a d
def effLd128 (g : Guard) (i7 : Nat) (a : Src) (d : Nat) : Effect := effLoad (.ld128 g i7 a d) g 16 (off7 i7 16) .plain false a d
def effSt32 (g : Guard) (i7 : Nat) (a : Src) (d : Nat) : Effect := effStore g 4 (off7 i7 4) .plain a d
def effSt64 (g : Guard) (i7 : Nat) (a : Src) (d : Nat) : Effect := effStore g 8 (off7 i7 8) .plain a d
def effSt128 (g : Guard) (i7 : Nat) (a : Src) (d : Nat) : Effect := effStore g 16 (off7 i7 16) .plain a d
def effLdl32 (g : Guard) (i7 : Nat) (a : Src) (d : Nat) : Effect := effLdl (.ldl32 g i7 a d) g 4 (off7 i7 4) a d
def effStl32 (g : Guard) (i7 : Nat) (a : Src) (d : Nat) : Effect := effStl g 4 (off7 i7 4) a d
def effLdNarrow (z : Bool) (a : Src) (d : Nat) : Effect := effLoad (.ldNarrow z a d) .always (narrow z) 0 .plain false a d
def effStNarrow (z : Bool) (a : Src) (d : Nat) : Effect := effStore .always (narrow z) 0 .plain a d
def effLdlSized (z : MemSize) (a : Src) (d : Nat) : Effect := effLdl (.ldlSized z a d) .always (sizeBytes z) 0 a d
def effStlSized (z : MemSize) (a : Src) (d : Nat) : Effect := effStl .always (sizeBytes z) 0 a d
def effLdc (z : Bool) (a : Src) (d : Nat) : Effect := effLoad (.ldc z a d) .always (if z then 8 else 4) 0 .plain true a d
def effLdOrdered (z : MemSize) (q : QF) (a : Src) (d : Nat) : Effect := effLoad (.ldOrdered z q a d) .always (sizeBytes z) 0 q false a d
def effStOrdered (z : MemSize) (q : QF) (a : Src) (d : Nat) : Effect := effStore .always (sizeBytes z) 0 q a d
def effAtom32 (o : AtomOp) (q : QF) (a : Src) (d : Nat) : Effect := effAtom (.atom32 o q a d) 4 o q a d
def effAtom64 (o : AtomOp) (q : QF) (a : Src) (d : Nat) : Effect := effAtom (.atom64 o q a d) 8 o q a d
def effRed32 (o : AtomOp) (q : QF) (a : Src) (d : Nat) : Effect := effRed 4 o q a d
def effRed64 (o : AtomOp) (q : QF) (a : Src) (d : Nat) : Effect := effRed 8 o q a d
def effAcas32 (q : QF) (a : Src) (d : Nat) : Effect := effAcas (.acas32 q a d) 4 q a d
def effAcas64 (q : QF) (a : Src) (d : Nat) : Effect := effAcas (.acas64 q a d) 8 q a d

/-- The meaning of LD.32 (R160). -/
def execLd32 (g : Guard) (i7 : Nat) (a : Src) (d : Nat) (s : State) : Host.Outcome State Fault Refusal := issue 4 (effLd32 g i7 a d) s
/-- The meaning of LD.64 (R160). -/
def execLd64 (g : Guard) (i7 : Nat) (a : Src) (d : Nat) (s : State) : Host.Outcome State Fault Refusal := issue 4 (effLd64 g i7 a d) s
/-- The meaning of LD.128 (R160). -/
def execLd128 (g : Guard) (i7 : Nat) (a : Src) (d : Nat) (s : State) : Host.Outcome State Fault Refusal := issue 4 (effLd128 g i7 a d) s
/-- The meaning of ST.32 (R160). -/
def execSt32 (g : Guard) (i7 : Nat) (a : Src) (d : Nat) (s : State) : Host.Outcome State Fault Refusal := issue 4 (effSt32 g i7 a d) s
/-- The meaning of ST.64 (R160). -/
def execSt64 (g : Guard) (i7 : Nat) (a : Src) (d : Nat) (s : State) : Host.Outcome State Fault Refusal := issue 4 (effSt64 g i7 a d) s
/-- The meaning of ST.128 (R160). -/
def execSt128 (g : Guard) (i7 : Nat) (a : Src) (d : Nat) (s : State) : Host.Outcome State Fault Refusal := issue 4 (effSt128 g i7 a d) s
/-- The meaning of LDL.32 (R160). -/
def execLdl32 (g : Guard) (i7 : Nat) (a : Src) (d : Nat) (s : State) : Host.Outcome State Fault Refusal := issue 4 (effLdl32 g i7 a d) s
/-- The meaning of STL.32 (R160). -/
def execStl32 (g : Guard) (i7 : Nat) (a : Src) (d : Nat) (s : State) : Host.Outcome State Fault Refusal := issue 4 (effStl32 g i7 a d) s
/-- The meaning of LD.8 and LD.16 (R160). -/
def execLdNarrow (z : Bool) (a : Src) (d : Nat) (s : State) : Host.Outcome State Fault Refusal := issue 4 (effLdNarrow z a d) s
/-- The meaning of ST.8 and ST.16 (R160). -/
def execStNarrow (z : Bool) (a : Src) (d : Nat) (s : State) : Host.Outcome State Fault Refusal := issue 4 (effStNarrow z a d) s
/-- The meaning of the sized LDL (R160). -/
def execLdlSized (z : MemSize) (a : Src) (d : Nat) (s : State) : Host.Outcome State Fault Refusal := issue 4 (effLdlSized z a d) s
/-- The meaning of the sized STL (R160). -/
def execStlSized (z : MemSize) (a : Src) (d : Nat) (s : State) : Host.Outcome State Fault Refusal := issue 4 (effStlSized z a d) s
/-- The meaning of LDC (R163). -/
def execLdc (z : Bool) (a : Src) (d : Nat) (s : State) : Host.Outcome State Fault Refusal := issue 4 (effLdc z a d) s
/-- The meaning of PREF (R170). -/
def execPref (a : Src) (s : State) : Host.Outcome State Fault Refusal := issue 4 (effPref a) s
/-- The meaning of CFLUSH (R171). -/
def execCflush (a : Src) (s : State) : Host.Outcome State Fault Refusal := issue 4 (effCflush a) s
/-- The meaning of LD with Q (R162). -/
def execLdOrdered (z : MemSize) (q : QF) (a : Src) (d : Nat) (s : State) : Host.Outcome State Fault Refusal :=
  issue 4 (effLdOrdered z q a d) s
/-- The meaning of ST with Q (R162). -/
def execStOrdered (z : MemSize) (q : QF) (a : Src) (d : Nat) (s : State) : Host.Outcome State Fault Refusal :=
  issue 4 (effStOrdered z q a d) s
/-- The meaning of ATOM, 32 bits (R164). -/
def execAtom32 (o : AtomOp) (q : QF) (a : Src) (d : Nat) (s : State) : Host.Outcome State Fault Refusal := issue 4 (effAtom32 o q a d) s
/-- The meaning of ATOM, 64 bits (R164). -/
def execAtom64 (o : AtomOp) (q : QF) (a : Src) (d : Nat) (s : State) : Host.Outcome State Fault Refusal := issue 4 (effAtom64 o q a d) s
/-- The meaning of RED, 32 bits (R164). -/
def execRed32 (o : AtomOp) (q : QF) (a : Src) (d : Nat) (s : State) : Host.Outcome State Fault Refusal := issue 4 (effRed32 o q a d) s
/-- The meaning of RED, 64 bits (R164). -/
def execRed64 (o : AtomOp) (q : QF) (a : Src) (d : Nat) (s : State) : Host.Outcome State Fault Refusal := issue 4 (effRed64 o q a d) s
/-- The meaning of ACAS.32 (R166). -/
def execAcas32 (q : QF) (a : Src) (d : Nat) (s : State) : Host.Outcome State Fault Refusal := issue 4 (effAcas32 q a d) s
/-- The meaning of ACAS.64 (R166). -/
def execAcas64 (q : QF) (a : Src) (d : Nat) (s : State) : Host.Outcome State Fault Refusal := issue 4 (effAcas64 q a d) s
/-- The meaning of FENCE (R169). -/
def execFence (q : QF) (s : State) : Host.Outcome State Fault Refusal := issue 4 (effFence q) s

/-! ## Events -/

/-- PRODUCER_COMPLETE: a producer writes its destinations, full; if it meets an uncorrectable block they stay empty and
UncorrectableData waits for the beam's next issue (R30, R152). An access that cannot travel yet is looked at again later (R321). -/
def execProducerComplete (core beam id : Nat) (s : State) : Host.Outcome State Fault Refusal :=
  let s1 := completePend s (64 * core + beam) id
  .next (match pendOf s1 (64 * core + beam) id with
    | some p => if isAccess p.kind then post s1 40 (.producerComplete core beam id) else s1
    | none => s1)

/-- A beam, or the engines of a core, are told what a walk has found (R90, R143). -/
def tellWalk (s : State) (core key va : Nat) (r : Walked) : State :=
  if key < 4096 then onBeam s key fun b => { b with told := ⟨va, r⟩ :: b.told }
  else setCore s core fun c => { c with told := ⟨va, r⟩ :: c.told }

/-- Whether a walk's end serves an access that waits for it. -/
def walkServesWant (s : State) (part : Nat) (r : Walked) (va : Nat) (y : Want) : Bool :=
  match walkedLook s part r va y.sup y.write with
  | .hit _ => true
  | .fail _ | .bad _ | .shut | .miss => false

/-- PAGE_WALK_COMPLETE: a walk ends, and those that wait are told what it has found; a leaf that serves some of them enters the TLB
(R143, R144). A walk whose tables no traffic reaches goes on (R321). -/
def execPageWalkComplete (core id : Nat) (s : State) : Host.Outcome State Fault Refusal :=
  .next (match (coreOf s core).walks.find? fun w => w.id == id with
    | none => s
    | some w =>
      let part := partOfCore s core
      match walkTables s (some (quarterOf core)) part w.va with
      | .shut => postFree s 0 (.pageWalkComplete core id)
      | r =>
        let s1 := setCore s core fun c => { c with walks := c.walks.filter fun y => y.id != id }
        let s2 := w.wants.foldl (fun s y => tellWalk s core y.key w.va r) s1
        match r with
        | .leaf e => if w.wants.any (walkServesWant s part r w.va) then setCore s2 core fun c => { c with tlb := tlbAdd s.fresh c.tlb e } else s2
        | .fault _ | .bad _ | .shut => s2)

/-- WRITE_PERFORMED: a buffered store of a beam is performed (R161), or is looked at again later where it cannot travel (R321). -/
def execWritePerformed (core beam id : Nat) (s : State) : Host.Outcome State Fault Refusal :=
  let s1 := drainWhere s (64 * core + beam) fun x => x.id == id
  .next (if ((beamOf s1 (64 * core + beam)).map fun b => b.stores.any fun x => x.id == id).getD false
    then post s1 40 (.writePerformed core beam id) else s1)

end Sys2Proof.Machine
end

