-- ==== Sys2Proof/Machine/PredOps.lean ====
section
/-!
DEFINITION. Predicate and cross-lane instructions, opcodes 0x38-0x3F, and RAND, RDSP and WIDF (R105, R106, R127-R136). Each has
its effect and its meaning.
-/
namespace Sys2Proof.Machine

open Sys2Proof

/-! ## Values -/

/-- The source lane of SHFL for lane i with operand n (R130); `none` where it lies outside 0 to 31. -/
def shflFrom (m : ShflMode) (i n : Nat) : Option Nat :=
  match m with
  | .idx => some (n % 32)
  | .up => if n ≤ i then some (i - n) else none
  | .down => if i + n < 32 then some (i + n) else none
  | .xor => some (i ^^^ (n % 32))

/-- One byte of PERM by a nibble of b (R131). -/
def permByte (a nib : Nat) : Nat :=
  let x := a / 256 ^ (nib % 4) % 256
  let x := if bit nib 2 then 0 else x
  if bit nib 3 then (if bit x 7 then 255 else 0) else x

/-- PERM (R131). -/
def permute (a b : Word) : Word :=
  BitVec.ofNat 32 (leNat ((upTo 4).map fun i => BitVec.ofNat 8 (permByte a.toNat (b.toNat / 16 ^ i % 16))))

/-- The identity of a reduction (R132). -/
def redIdent : RedOp → Word
  | .addI32 => 0
  | .minI32 => 0x7FFFFFFF
  | .maxI32 => 0x80000000
  | .minZ32 => 0xFFFFFFFF
  | .maxZ32 => 0
  | .and => 0xFFFFFFFF
  | .or => 0
  | .xor => 0
  | .addF32 => 0x80000000
  | .minF32 | .maxF32 => 0x7FC00000

/-- A floating step as a word with its flags. -/
def redFloat (r : FRes) : Word × Word := (BitVec.ofNat 32 r.code, r.flags)

/-- One step of REDUX or SCAN, with its flags (R132). -/
def redStep (o : RedOp) (a b : Word) : Word × Word :=
  match o with
  | .addI32 => (a + b, 0)
  | .minI32 => (if a.sle b then a else b, 0)
  | .maxI32 => (if b.sle a then a else b, 0)
  | .minZ32 => (if a.ule b then a else b, 0)
  | .maxZ32 => (if b.ule a then a else b, 0)
  | .and => (a &&& b, 0)
  | .or => (a ||| b, 0)
  | .xor => (a ^^^ b, 0)
  | .addF32 => redFloat (fAdd fp32 .rne 0 (fmtVal fp32 a.toNat) (fmtVal fp32 b.toNat))
  | .minF32 => redFloat (fMinMax false a.toNat b.toNat)
  | .maxF32 => redFloat (fMinMax true a.toNat b.toNat)

/-- One level of REDUX's tree: neighbours in pairs (R132). -/
def redPairs (o : RedOp) : List Word → List Word × Word
  | a :: b :: t =>
    let r := redStep o a b
    let q := redPairs o t
    (r.1 :: q.1, r.2 ||| q.2)
  | l => (l, 0)

/-- Levels of the tree. -/
def redTree (o : RedOp) : Nat → List Word → Word → List Word × Word
  | 0, l, fl => (l, fl)
  | n + 1, l, fl => let r := redPairs o l; redTree o n r.1 (fl ||| r.2)

/-- The operand of every lane of the beam, the identity outside the run (R132). -/
def redInputs (x : Sel) (o : RedOp) (a : Src) : List Word :=
  (upTo 32).map fun i => if x.run.contains i then laneReg (laneOf x.beam i) a.r else redIdent o

/-- REDUX: the value of the tree and the flags of all its steps (R132). -/
def reduxValue (x : Sel) (o : RedOp) (a : Src) : Word × Word :=
  let r := redTree o 5 (redInputs x o a) 0
  (r.1.headD 0, r.2)

/-- SCAN over the lanes of a list: what each gets, and all flags (R133). -/
def scanFrom (x : Sel) (o : RedOp) (a : Src) : List Nat → Word → NMap Word × Word
  | [], _ => ([], 0)
  | i :: t, acc =>
    let r := redStep o acc (laneReg (laneOf x.beam i) a.r)
    let q := scanFrom x o a t r.1
    ((i, r.1) :: q.1, r.2 ||| q.2)

/-- A field of WID (R106): its low 32 bits. -/
def widField (s : State) (b : Beam) (lane n : Nat) : Word :=
  match homeOf s b with
  | some (_, _, gr) =>
    let lo := (gr.widw.take n).foldl (fun x y => x + y) 0
    BitVec.ofNat 32 ((widOf s b lane).toNat / 2 ^ lo % 2 ^ (gr.widw.getD n 0))
  | none => 0

/-- GEN of the beam's block (R250). -/
def genOf (s : State) (b : Beam) : Word := ((blockOf s b).map fun bl => bl.gen).getD 0

/-- BSLOT of the beam's block (R76). -/
def bslotOf (s : State) (b : Beam) : Nat := ((blockOf s b).map fun bl => bl.bslot).getD 0

/-- DTIME (R105). -/
def dtime (s : State) : Nat := s.clk * 10 / 13

/-- The special registers as one or two words (R105). -/
def specialReg (x : Sel) (s : State) (sp : SpReg) (i : Nat) (l : Lane) : DWord :=
  match sp with
  | .wid => widOf s x.beam i
  | .lane => BitVec.ofNat 64 i
  | .beam => BitVec.ofNat 64 (x.key % 64)
  | .bslot => BitVec.ofNat 64 (bslotOf s x.beam)
  | .core => BitVec.ofNat 64 (x.key / 64)
  | .sector => BitVec.ofNat 64 (x.key / 256)
  | .quarter => BitVec.ofNat 64 (x.key / 768)
  | .clk => BitVec.ofNat 64 s.clk
  | .dtime => BitVec.ofNat 64 (dtime s)
  | .gen => (genOf s x.beam).setWidth 64
  | .fstat => l.fstat.setWidth 64
  | .psw => x.beam.psw.setWidth 64

/-- Whether an unfinished FDIV of one of the lanes has flags to set (R54, R107). -/
def flagsPending (x : Sel) (ex : List Nat) : Bool :=
  x.beam.pend.any fun p => p.word.toNat / 2 % 128 == 0x28 && p.lanes.any fun l => ex.contains l.lane

/-! ## Effects -/

/-- PLOP (R127). -/
def effPlop (t bp ap pd : Nat) : Effect :=
  laneEffect .always [] [] fun _ l =>
    laneSetPred l pd (bit t (2 * (lanePred l ap).toNat + (lanePred l bp).toNat))

/-- P2G (R128). -/
def effP2g (g : Guard) (d : Nat) : Effect :=
  laneEffect g [] [regUse d 1] fun _ l => laneSet l d (l.preds ||| 1)

/-- G2P (R128). -/
def effG2p (g : Guard) (a : Src) : Effect :=
  laneEffect g [srcUse a 1] [] fun _ l => { l with preds := laneReg l a.r ||| 1 }

/-- VOTE.any (R129). -/
def effVoteAny (ap pd : Nat) : Effect :=
  crossEffect [] [] fun x _ l =>
    laneSetPred l pd (x.run.any fun j => lanePred (laneOf x.beam j) ap)

/-- VOTE.all (R129). -/
def effVoteAll (ap pd : Nat) : Effect :=
  crossEffect [] [] fun x _ l =>
    laneSetPred l pd (x.run.all fun j => lanePred (laneOf x.beam j) ap)

/-- VOTE.ballot (R129). -/
def effVoteBallot (ap d : Nat) : Effect :=
  crossEffect [] [regUse d 1] fun x _ l =>
    laneSet l d (BitVec.ofNat 32 (maskOf (x.run.filter fun j => lanePred (laneOf x.beam j) ap)))

/-- VOTE.first (R129). -/
def effVoteFirst (pd : Nat) : Effect :=
  crossEffect [] [] fun x i l => laneSetPred l pd (i == leastD 0 x.run)

/-- SHFL (R130). -/
def effShfl (m : ShflMode) (b a : Src) (d : Nat) : Effect :=
  crossEffect [srcUse a 1, srcUse b 1] [regUse d 1] fun x i l =>
    laneSet l d (match shflFrom m i (laneReg l b.r).toNat with
      | some j => if x.run.contains j then laneReg (laneOf x.beam j) a.r else laneReg l a.r
      | none => laneReg l a.r)

/-- PERM (R131). -/
def effPerm (g : Guard) (b a : Src) (d : Nat) : Effect :=
  binary g b a d fun a b => permute a b

/-- REDUX (R132). -/
def effRedux (o : RedOp) (a : Src) (d : Nat) : Effect :=
  crossEffect [srcUse a 1] [regUse d 1] fun x _ l =>
    laneFlags (laneSet l d (reduxValue x o a).1) (reduxValue x o a).2

/-- SCAN (R133). -/
def effScan (o : RedOp) (a : Src) (d : Nat) : Effect :=
  crossEffect [srcUse a 1] [regUse d 1] fun x i l =>
    let r := scanFrom x o a x.run (redIdent o)
    laneFlags (laneSet l d (lookD r.1 i 0)) r.2

/-- RAND (R136). -/
def effRand (g : Guard) (d : Nat) : Effect :=
  fun x s =>
  laneEffect g [] [regUse d 1] (fun i l =>
    { laneSet l d (BitVec.ofNat 32 (randMix (seedOf s x.beam) (widOf s x.beam i).toNat l.randctr.toNat)) with
      randctr := l.randctr + 1 }) x s

/-- RDSP; FSTAT waits for the flags to come (R54, R105). -/
def effRdsp (g : Guard) (sp : SpReg) (d : Nat) : Effect :=
  fun x s =>
  let n := if sp.isPair then 2 else 1
  if sp = .fstat ∧ flagsPending x (execLanes x g) = true then .hold s
  else laneEffect g [] [regUse d n] (fun i l => laneSetN l d ((specialReg x s sp i l).setWidth 128) n) x s

/-- WIDF (R106). -/
def effWidf (g : Guard) (n d : Nat) : Effect :=
  fun x s =>
  laneEffect g [] [regUse d 1] (fun i l => laneSet l d (widField s x.beam i n)) x s

/-! ## Meanings -/

/-- The meaning of PLOP (R127). -/
def execPlop (t bp ap pd : Nat) (s : State) : Host.Outcome State Fault Refusal :=
  issue 4 (effPlop t bp ap pd) s

/-- The meaning of P2G (R128). -/
def execP2g (g : Guard) (d : Nat) (s : State) : Host.Outcome State Fault Refusal :=
  issue 4 (effP2g g d) s

/-- The meaning of G2P (R128). -/
def execG2p (g : Guard) (a : Src) (s : State) : Host.Outcome State Fault Refusal :=
  issue 4 (effG2p g a) s

/-- The meaning of VOTE.any (R129). -/
def execVoteAny (ap pd : Nat) (s : State) : Host.Outcome State Fault Refusal :=
  issue 4 (effVoteAny ap pd) s

/-- The meaning of VOTE.all (R129). -/
def execVoteAll (ap pd : Nat) (s : State) : Host.Outcome State Fault Refusal :=
  issue 4 (effVoteAll ap pd) s

/-- The meaning of VOTE.ballot (R129). -/
def execVoteBallot (ap d : Nat) (s : State) : Host.Outcome State Fault Refusal :=
  issue 4 (effVoteBallot ap d) s

/-- The meaning of VOTE.first (R129). -/
def execVoteFirst (pd : Nat) (s : State) : Host.Outcome State Fault Refusal :=
  issue 4 (effVoteFirst pd) s

/-- The meaning of SHFL (R130). -/
def execShfl (m : ShflMode) (b a : Src) (d : Nat) (s : State) : Host.Outcome State Fault Refusal :=
  issue 4 (effShfl m b a d) s

/-- The meaning of PERM (R131). -/
def execPerm (g : Guard) (b a : Src) (d : Nat) (s : State) : Host.Outcome State Fault Refusal :=
  issue 4 (effPerm g b a d) s

/-- The meaning of REDUX (R132). -/
def execRedux (o : RedOp) (a : Src) (d : Nat) (s : State) : Host.Outcome State Fault Refusal :=
  issue 4 (effRedux o a d) s

/-- The meaning of SCAN (R133). -/
def execScan (o : RedOp) (a : Src) (d : Nat) (s : State) : Host.Outcome State Fault Refusal :=
  issue 4 (effScan o a d) s

/-- The meaning of RAND (R136). -/
def execRand (g : Guard) (d : Nat) (s : State) : Host.Outcome State Fault Refusal :=
  issue 4 (effRand g d) s

/-- The meaning of RDSP; FSTAT waits for the flags to come (R54, R105). -/
def execRdsp (g : Guard) (sp : SpReg) (d : Nat) (s : State) : Host.Outcome State Fault Refusal :=
  issue 4 (effRdsp g sp d) s

/-- The meaning of WIDF (R106). -/
def execWidf (g : Guard) (n d : Nat) (s : State) : Host.Outcome State Fault Refusal :=
  issue 4 (effWidf g n d) s

end Sys2Proof.Machine
end

