-- ==== Sys2Proof/Machine/Macro.lean ====
section
/-!
DEFINITION. MCALL (R101): the steps of a control-store body (R19, R32, R102).
-/
namespace Sys2Proof.Machine

open Sys2Proof

/-- The primary opcodes a body may hold (R102). -/
def bodyOpcode (op : Nat) : Bool :=
  decide (op ≤ 0x3F) || (decide (0x50 ≤ op) && decide (op ≤ 0x5F)) || (decide (0x71 ≤ op) && decide (op ≤ 0x73))

/-- What an instruction of those opcodes does; `none` for every other instruction (R102). -/
def bodyEffect : Instr → Option Effect
  | .movB32 g a d => some (effMovB32 g a d)
  | .movi d i18 => some (effMovi d i18)
  | .movhi d i18 => some (effMovhi d i18)
  | .iadd g b a d => some (effIadd g b a d)
  | .isub g b a d => some (effIsub g b a d)
  | .iaddi g i7 a d => some (effIaddi g i7 a d)
  | .imul g b a d => some (effImul g b a d)
  | .imad g b a d => some (effImad g b a d)
  | .and g b a d => some (effAnd g b a d)
  | .or g b a d => some (effOr g b a d)
  | .xor g b a d => some (effXor g b a d)
  | .andn g b a d => some (effAndn g b a d)
  | .shl g b a d => some (effShl g b a d)
  | .shr g b a d => some (effShr g b a d)
  | .sra g b a d => some (effSra g b a d)
  | .rotl g b a d => some (effRotl g b a d)
  | .iminI32 g b a d => some (effIminI32 g b a d)
  | .imaxI32 g b a d => some (effImaxI32 g b a d)
  | .iminZ32 g b a d => some (effIminZ32 g b a d)
  | .imaxZ32 g b a d => some (effImaxZ32 g b a d)
  | .icmp32 u c b a pd => some (effIcmp32 u c b a pd)
  | .icmp64 u c b a pd => some (effIcmp64 u c b a pd)
  | .sel p b a d => some (effSel p b a d)
  | .lea sh b a d => some (effLea sh b a d)
  | .imulh u b a d => some (effImulh u b a d)
  | .idiv w u b a d => some (effIdiv w u b a d)
  | .irem w u b a d => some (effIrem w u b a d)
  | .inegI32 g a d => some (effInegI32 g a d)
  | .iabsI32 g a d => some (effIabsI32 g a d)
  | .notB32 g a d => some (effNotB32 g a d)
  | .clzB32 g a d => some (effClzB32 g a d)
  | .popcB32 g a d => some (effPopcB32 g a d)
  | .brev g a d => some (effBrev g a d)
  | .inegI64 g a d => some (effInegI64 g a d)
  | .iabsI64 g a d => some (effIabsI64 g a d)
  | .clzB64 g a d => some (effClzB64 g a d)
  | .popcB64 g a d => some (effPopcB64 g a d)
  | .bfx u b a d => some (effBfx u b a d)
  | .bfi b a d => some (effBfi b a d)
  | .movB64 a d => some (effMovB64 a d)
  | .isubI64 b a d => some (effIsubI64 b a d)
  | .imulI64 b a d => some (effImulI64 b a d)
  | .iminI64 b a d => some (effIminI64 b a d)
  | .imaxI64 b a d => some (effImaxI64 b a d)
  | .iminZ64 b a d => some (effIminZ64 b a d)
  | .imaxZ64 b a d => some (effImaxZ64 b a d)
  | .andB64 b a d => some (effAndB64 b a d)
  | .orB64 b a d => some (effOrB64 b a d)
  | .xorB64 b a d => some (effXorB64 b a d)
  | .shlB64 b a d => some (effShlB64 b a d)
  | .shrB64 b a d => some (effShrB64 b a d)
  | .sraB64 b a d => some (effSraB64 b a d)
  | .iaddI64 g b a d => some (effIaddI64 g b a d)
  | .gxld a d => some (effGxld a d)
  | .gxst b a => some (effGxst b a)
  | .fadd g b a d => some (effFadd g b a d)
  | .fsub g b a d => some (effFsub g b a d)
  | .fmul g b a d => some (effFmul g b a d)
  | .ffma g b a d => some (effFfma g b a d)
  | .fmin g b a d => some (effFmin g b a d)
  | .fmax g b a d => some (effFmax g b a d)
  | .fabs g a d => some (effFabs g a d)
  | .fneg g a d => some (effFneg g a d)
  | .frcp g a d => some (effFrcp g a d)
  | .frsq g a d => some (effFrsq g a d)
  | .fsqrt g a d => some (effFsqrt g a d)
  | .fexp2 g a d => some (effFexp2 g a d)
  | .flog2 g a d => some (effFlog2 g a d)
  | .frnd g rm a d => some (effFrnd g rm a d)
  | .fcmp c b a pd => some (effFcmp c b a pd)
  | .fdiv g b a d => some (effFdiv g b a d)
  | .faddDirected rm b a d => some (effFaddDirected rm b a d)
  | .fsubDirected rm b a d => some (effFsubDirected rm b a d)
  | .fmulDirected rm b a d => some (effFmulDirected rm b a d)
  | .ffmaDirected rm b a d => some (effFfmaDirected rm b a d)
  | .badd2 g b a d => some (effBadd2 g b a d)
  | .bmul2 g b a d => some (effBmul2 g b a d)
  | .bfma2 g b a d => some (effBfma2 g b a d)
  | .cvt g k a d => some (effCvt g k a d)
  | .plop t bp ap pd => some (effPlop t bp ap pd)
  | .p2g g d => some (effP2g g d)
  | .g2p g a => some (effG2p g a)
  | .voteAny ap pd => some (effVoteAny ap pd)
  | .voteAll ap pd => some (effVoteAll ap pd)
  | .voteBallot ap d => some (effVoteBallot ap d)
  | .voteFirst pd => some (effVoteFirst pd)
  | .shfl m b a d => some (effShfl m b a d)
  | .perm g b a d => some (effPerm g b a d)
  | .redux o a d => some (effRedux o a d)
  | .scan o a d => some (effScan o a d)
  | .ld32 g i7 a d => some (effLd32 g i7 a d)
  | .ld64 g i7 a d => some (effLd64 g i7 a d)
  | .ld128 g i7 a d => some (effLd128 g i7 a d)
  | .st32 g i7 a d => some (effSt32 g i7 a d)
  | .st64 g i7 a d => some (effSt64 g i7 a d)
  | .st128 g i7 a d => some (effSt128 g i7 a d)
  | .ldl32 g i7 a d => some (effLdl32 g i7 a d)
  | .stl32 g i7 a d => some (effStl32 g i7 a d)
  | .ldNarrow z a d => some (effLdNarrow z a d)
  | .stNarrow z a d => some (effStNarrow z a d)
  | .ldlSized z a d => some (effLdlSized z a d)
  | .stlSized z a d => some (effStlSized z a d)
  | .ldc z a d => some (effLdc z a d)
  | .pref a => some (effPref a)
  | .cflush a => some (effCflush a)
  | .ldOrdered z q a d => some (effLdOrdered z q a d)
  | .stOrdered z q a d => some (effStOrdered z q a d)
  | .atom32 o q a d => some (effAtom32 o q a d)
  | .atom64 o q a d => some (effAtom64 o q a d)
  | .red32 o q a d => some (effRed32 o q a d)
  | .red64 o q a d => some (effRed64 o q a d)
  | .acas32 q a d => some (effAcas32 q a d)
  | .acas64 q a d => some (effAcas64 q a d)
  | .fence q => some (effFence q)
  | .rand g d => some (effRand g d)
  | .rdsp g sp d => some (effRdsp g sp d)
  | .widf g n d => some (effWidf g n d)  | _ => none

/-- ControlStore of entry m (R291). -/
def storeTrap (x : Sel) (m : Nat) : Trap := { trapOf x 0x17 with reg := m }

/-- A lane of the run goes on after step s of a body of `len` steps (R101). -/
def nextStep (s len : Nat) (l : Lane) : Lane :=
  if s + 1 = len then { l with min := false, mstep := 0, pc := l.pc + 4 } else { l with min := true, mstep := s + 1 }

/-- Whether entry m is loaded for a block of a grid: its image lists it, or MCLOAD has since made it listed (R19, R300). -/
def macroLoaded (bl : Block) (gr : Grid) (m : Nat) : Bool := (gr.macros.any fun e => e.1 == m) || bl.listed.contains m

/-- The run with its lanes inside the body, at step 0 where they were not (R101). -/
def enterBody (x : Sel) : Sel :=
  if selMin x then x
  else { x with beam := beamLanes x.beam x.run fun _ l => { l with min := true, mstep := 0 } }

/-- One step of the body of entry m (R101): the word is read, checked, substituted and checked again, and executed. -/
def macroStep (m P0 P1 P2 : Nat) (x : Sel) (s : State) : Res :=
  let i := selMstep x
  let w := (lookD (coreOf s (selCore x)).cstore (32 * m + i) 0).toNat
  if lookD (coreOf s (selCore x)).clen m 0 ≤ i then .trap s (storeTrap x m)
  else if w % 2 = 0 ∨ bodyOpcode (w / 2 % 128) = false then .trap s (storeTrap x m)
  else
    match decodeMacroWord P0 P1 P2 w with
    | .error _ => .trap s (trapOf x 0x01)
    | .ok j =>
      match bodyEffect j with
      | none => .trap s (storeTrap x m)
      | some e => e x s

/-- A step that did not issue leaves a run that had not entered the body outside it. -/
def undoEntry (x : Sel) (r : Res) : Res :=
  match r with
  | .hold s => .hold (if selMin x then s else onLanes s x.key x.run fun _ l => { l with min := false })
  | .done s l => .done s l
  | .moved s => .moved s
  | .trap s t => .trap s t
  | .after s t => .after s t

/-- MCALL (R101). -/
def effMcall (m P0 P1 P2 : Nat) : Effect := fun x s =>
  match homeOf s x.beam with
  | none => .hold s
  | some (bl, _, gr) =>
    if !selMin x && !macroLoaded bl gr m then .trap s (storeTrap x m)
    else
      let y := enterBody x
      undoEntry x (macroStep m P0 P1 P2 y (setBeam s x.key y.beam))

/-- The meaning of MCALL (R101): one step of the body at each issue, the lanes it does not park going on to the next. -/
def execMcall (m P0 P1 P2 : Nat) (s : State) : Host.Outcome State Fault Refusal :=
  match selected s with
  | none => .fault .noRun
  | some x =>
    .next (finish x (nextStep (selMstep x) (lookD (coreOf s (selCore x)).clen m 0)) (effMcall m P0 P1 P2 x s))

end Sys2Proof.Machine
end

