-- ==== Sys2Proof/Machine/Image.lean ====
section
/-!
DEFINITION. The image formats that DECODE accepts (R208): baseline JPEG up to the quantised coefficients of its blocks, whose
inverse transform is the device's one fixed function, and ITU-T T.6. R208 leaves the formats to their standards: markers,
segments, Huffman coding and the code tables are PRESUMED from ISO/IEC 10918-1 and ITU-T T.4 and T.6 (log 10).
-/
namespace Sys2Proof.Machine

open Sys2Proof

/-- What a decoder makes of a stream: a status (R211: 0 Ok, 1 Unsupported, 2 Corrupt; the model's own 4: it needs more bytes than it has
been given, which is 2 where the stream has no more), the size where it is known, whether the chroma
planes are halved both ways, and the planes with their widths (R208). -/
structure Image where
  status : Nat
  w : Nat
  h : Nat
  halved : Bool
  planes : List (Nat × List Byte)
  deriving DecidableEq, Repr

/-- The status of a decoder that has run out of bytes. -/
def ranOut : Nat := 4

/-! ## Bits and prefix codes -/

/-- The bits of some bytes, the most significant of each byte first, or the least. -/
def bitStream (lsbf : Bool) (l : List Byte) : List Bool :=
  l.flatMap fun b => (upTo 8).map fun i => b.getLsbD (if lsbf then i else 7 - i)

/-- A code of a prefix code: its length, its bits and what it stands for. -/
structure PrefixCode where
  len : Nat
  code : Nat
  value : Nat
  deriving DecidableEq, Repr

/-- Reads one code of at most `fuel` more bits; Corrupt where the table has none. -/
def readCode (t : List PrefixCode) : Nat → Nat → Nat → List Bool → Except Nat (Nat × List Bool)
  | 0, _, _, _ => .error 2
  | _ + 1, _, _, [] => .error ranOut
  | fuel + 1, len, code, b :: r =>
    let c := 2 * code + b.toNat
    match t.find? fun e => e.len == len + 1 && e.code == c with
    | some e => .ok (e.value, r)
    | none => readCode t fuel (len + 1) c r

/-- Reads n bits as a number, the first the most significant. -/
def readBits : Nat → Nat → List Bool → Except Nat (Nat × List Bool)
  | 0, v, r => .ok (v, r)
  | _ + 1, _, [] => .error ranOut
  | n + 1, v, b :: r => readBits n (2 * v + b.toNat) r

/-! ## T.6 -/

/-- The codes of white runs of 0 to 63 pixels: length and value. -/
def whiteRuns : List (Nat × Nat) :=
  [(8, 53), (6, 7), (4, 7), (4, 8), (4, 11), (4, 12), (4, 14), (4, 15), (5, 19), (5, 20), (5, 7), (5, 8), (6, 8),
    (6, 3), (6, 52), (6, 53), (6, 42), (6, 43), (7, 39), (7, 12), (7, 8), (7, 23), (7, 3), (7, 4), (7, 40), (7, 43),
    (7, 19), (7, 36), (7, 24), (8, 2), (8, 3), (8, 26), (8, 27), (8, 18), (8, 19), (8, 20), (8, 21), (8, 22),
    (8, 23), (8, 40), (8, 41), (8, 42), (8, 43), (8, 44), (8, 45), (8, 4), (8, 5), (8, 10), (8, 11), (8, 82),
    (8, 83), (8, 84), (8, 85), (8, 36), (8, 37), (8, 88), (8, 89), (8, 90), (8, 91), (8, 74), (8, 75), (8, 50),
    (8, 51), (8, 52)]

/-- The codes of white runs of 64, 128, ..., 1728 pixels. -/
def whiteLong : List (Nat × Nat) :=
  [(5, 27), (5, 18), (6, 23), (7, 55), (8, 54), (8, 55), (8, 100), (8, 101), (8, 104), (8, 103), (9, 204), (9, 205),
    (9, 210), (9, 211), (9, 212), (9, 213), (9, 214), (9, 215), (9, 216), (9, 217), (9, 218), (9, 219), (9, 152),
    (9, 153), (9, 154), (6, 24), (9, 155)]

/-- The codes of black runs of 0 to 63 pixels. -/
def blackRuns : List (Nat × Nat) :=
  [(10, 55), (3, 2), (2, 3), (2, 2), (3, 3), (4, 3), (4, 2), (5, 3), (6, 5), (6, 4), (7, 4), (7, 5), (7, 7), (8, 4),
    (8, 7), (9, 24), (10, 23), (10, 24), (10, 8), (11, 103), (11, 104), (11, 108), (11, 55), (11, 40), (11, 23),
    (11, 24), (12, 202), (12, 203), (12, 204), (12, 205), (12, 104), (12, 105), (12, 106), (12, 107), (12, 210),
    (12, 211), (12, 212), (12, 213), (12, 214), (12, 215), (12, 108), (12, 109), (12, 218), (12, 219), (12, 84),
    (12, 85), (12, 86), (12, 87), (12, 100), (12, 101), (12, 82), (12, 83), (12, 36), (12, 55), (12, 56), (12, 39),
    (12, 40), (12, 88), (12, 89), (12, 43), (12, 44), (12, 90), (12, 102), (12, 103)]

/-- The codes of black runs of 64, 128, ..., 1728 pixels. -/
def blackLong : List (Nat × Nat) :=
  [(10, 15), (12, 200), (12, 201), (12, 91), (12, 51), (12, 52), (12, 53), (13, 108), (13, 109), (13, 74), (13, 75),
    (13, 76), (13, 77), (13, 114), (13, 115), (13, 116), (13, 117), (13, 118), (13, 119), (13, 82), (13, 83),
    (13, 84), (13, 85), (13, 90), (13, 91), (13, 100), (13, 101)]

/-- The codes of runs of either colour of 1792, 1856, ..., 2560 pixels. -/
def bothLong : List (Nat × Nat) :=
  [(11, 8), (11, 12), (11, 13), (12, 18), (12, 19), (12, 20), (12, 21), (12, 22), (12, 23), (12, 28), (12, 29),
    (12, 30), (12, 31)]

/-- A table of run codes: the short runs, the long runs of the colour, and those of either colour. -/
def runTable (short long : List (Nat × Nat)) : List PrefixCode :=
  short.mapIdx (fun i c => ⟨c.1, c.2, i⟩) ++ long.mapIdx (fun i c => ⟨c.1, c.2, 64 * (i + 1)⟩) ++
    bothLong.mapIdx fun i c => ⟨c.1, c.2, 64 * (i + 28)⟩

/-- The length of a run: long codes, then a short one. -/
def readRun (black : Bool) : Nat → Nat → List Bool → Except Nat (Nat × List Bool)
  | 0, _, _ => .error 2
  | fuel + 1, n, r => do
    let (k, t) ← readCode (if black then runTable blackRuns blackLong else runTable whiteRuns whiteLong) 13 0 0 r
    if k < 64 then .ok (n + k, t) else readRun black fuel (n + k) t

/-- The modes of a line: 0 pass, 1 horizontal, 5 + d for vertical with a1 d to the right of b1, 9 extension, 10 the half of an
EOFB. -/
def t6Modes : List PrefixCode :=
  [⟨1, 1, 5⟩, ⟨3, 3, 6⟩, ⟨3, 2, 4⟩, ⟨3, 1, 1⟩, ⟨4, 1, 0⟩, ⟨6, 3, 7⟩, ⟨6, 2, 3⟩, ⟨7, 3, 8⟩, ⟨7, 2, 2⟩, ⟨7, 1, 9⟩, ⟨12, 1, 10⟩]

/-- The changing elements of a line, from the left: where the colour differs from that of the pixel before, white at first. -/
def changes : Nat → Bool → List Bool → List Nat
  | _, _, [] => []
  | i, c, p :: t => if p == c then changes (i + 1) c t else i :: changes (i + 1) p t

/-- b1 and b2 on the reference line: the first change to the colour opposite to a0's, to the right of a0, and the next one. -/
def refAfter (w a0 : Nat) (black first : Bool) (ref : List Nat) : Nat × Nat :=
  match ref.zipIdx.find? fun e => (e.2 % 2 == 1) == black && (decide (a0 < e.1) || (first && e.1 == a0)) with
  | some (b, i) => (b, ref.getD (i + 1) w)
  | none => (w, w)

/-- The pixels of a line, from a0 on: those coded already are given; `first` says that a0 is the place before the line. -/
def t6Line (w : Nat) (ref : List Nat) : Nat → List Bool → Nat → Bool → Bool → List Bool → Except Nat (List Bool × List Bool)
  | 0, _, _, _, _, _ => .error 2
  | fuel + 1, row, a0, black, first, r =>
    if w ≤ a0 then .ok (row, r)
    else
      let (b1, b2) := refAfter w a0 black first ref
      match readCode t6Modes 12 0 0 r with
      | .error e => .error e
      | .ok (0, t) => t6Line w ref fuel (row ++ List.replicate (b2 - a0) black) b2 black false t
      | .ok (1, t) => do
        let (m, t1) ← readRun black (t.length + 1) 0 t
        let (n, t2) ← readRun (!black) (t1.length + 1) 0 t1
        if w < a0 + m + n then .error 2
        else t6Line w ref fuel (row ++ List.replicate m black ++ List.replicate n (!black)) (a0 + m + n) black false t2
      | .ok (9, t) => .error (if (t.take 3).contains false then 2 else if t.length < 3 then ranOut else 1)
      | .ok (10, _) => .error 2
      | .ok (v, t) =>
        let a1 := b1 + v - 5
        if b1 + v < 5 ∨ w < a1 ∨ a1 < a0 ∨ (a1 = a0 ∧ first = false) then .error 2
        else t6Line w ref fuel (row ++ List.replicate (a1 - a0) black) a1 (!black) false t

/-- The lines of an image, each coded against the one above, the first against a white one. -/
def t6Lines (w : Nat) : Nat → List Bool → List Bool → Except Nat (List Bool)
  | 0, _, _ => .ok []
  | h + 1, above, r => do
    let (row, t) ← t6Line w (changes 0 false above) (r.length + 1) [] 0 false true r
    let l ← t6Lines w h row t
    .ok (row ++ l)

/-- A T.6 image of the size that the request gives: one plane, 1 for black (R208). -/
def decodeT6 (lsbf : Bool) (w h : Nat) (l : List Byte) : Image :=
  match t6Lines w h [] (bitStream lsbf l) with
  | .error e => ⟨e, w, h, false, []⟩
  | .ok p => ⟨0, w, h, false, [(w, p.map fun b => if b then 1 else 0)]⟩

/-! ## JPEG: headers and tables -/

/-- A component of a frame: its identifier, sampling factors and quantisation table. -/
structure JpegComp where
  id : Nat
  hs : Nat
  vs : Nat
  tq : Nat
  deriving DecidableEq, Repr

/-- What has been read of a stream: the frame's size and components, quantisation tables by number, Huffman tables by 4 class +
number, the restart interval, and the planes once the scan is decoded. -/
structure Jpeg where
  w : Nat
  h : Nat
  comps : List JpegComp
  dqt : NMap (List Nat)
  dht : NMap (List PrefixCode)
  ri : Nat
  planes : List (Nat × List Byte)
  deriving DecidableEq, Repr

/-- A 16-bit number, its high byte first. -/
def be16 (l : List Byte) : Nat := 256 * (l.getD 0 0).toNat + (l.getD 1 0).toNat

/-- The next marker, behind its fill bytes. -/
def marker : List Byte → Except Nat (Nat × List Byte)
  | b :: c :: t => if b ≠ 0xFF then .error 2 else if c = 0xFF then marker (c :: t) else .ok (c.toNat, t)
  | [b] => .error (if b = 0xFF then ranOut else 2)
  | [] => .error ranOut

/-- The content of a marker segment, and what follows it. -/
def segment (l : List Byte) : Except Nat (List Byte × List Byte) :=
  if l.length < 2 then .error ranOut
  else if be16 l < 2 then .error 2
  else if l.length < be16 l then .error ranOut
  else .ok ((l.take (be16 l)).drop 2, l.drop (be16 l))

/-- Quantisation tables of 8 bits, no element 0; those of 16 are Unsupported (R208). -/
def readDqt : Nat → List Byte → NMap (List Nat) → Except Nat (NMap (List Nat))
  | 0, _, m => .ok m
  | fuel + 1, l, m =>
    match l with
    | [] => .ok m
    | b :: t =>
      if b.toNat / 16 = 1 then .error 1
      else if 1 < b.toNat / 16 ∨ 3 < b.toNat % 16 ∨ t.length < 64 ∨ (t.take 64).contains 0 = true then .error 2
      else readDqt fuel (t.drop 64) (put m (b.toNat % 16) ((t.take 64).map fun x => x.toNat))

/-- The codes of a Huffman table, from the counts of each length and the values. -/
def huffCodes : Nat → Nat → List Nat → List Byte → List PrefixCode
  | _, _, [], _ => []
  | len, code, n :: t, vs =>
    (upTo n).map (fun i => ⟨len, code + i, (vs.getD i 0).toNat⟩) ++ huffCodes (len + 1) (2 * (code + n)) t (vs.drop n)

/-- Huffman tables; no code consists of ones alone. -/
def readDht : Nat → List Byte → NMap (List PrefixCode) → Except Nat (NMap (List PrefixCode))
  | 0, _, m => .ok m
  | fuel + 1, l, m =>
    match l with
    | [] => .ok m
    | b :: t =>
      let counts := (t.take 16).map fun x => x.toNat
      let n := counts.foldl (fun x y => x + y) 0
      let codes := huffCodes 1 0 counts (t.drop 16)
      if 1 < b.toNat / 16 ∨ 1 < b.toNat % 16 ∨ t.length < 16 + n ∨ (codes.any fun c => decide (2 ^ c.len ≤ c.code + 1)) = true then .error 2
      else readDht fuel (t.drop (16 + n)) (put m (4 * (b.toNat / 16) + b.toNat % 16) codes)

/-- Whether the sampling is one that R208 accepts: one component, 4:4:4 or 4:2:0. -/
def samplingOk (c : List JpegComp) : Bool :=
  c.length == 1 ||
    (c.map fun x => (x.hs, x.vs)) == [(1, 1), (1, 1), (1, 1)] || (c.map fun x => (x.hs, x.vs)) == [(2, 2), (1, 1), (1, 1)]

/-- A baseline frame header. -/
def readFrame (l : List Byte) (j : Jpeg) : Jpeg × Option Nat :=
  let n := (l.getD 5 0).toNat
  let comps := (upTo n).map fun i =>
    let at_ := 6 + 3 * i
    (⟨(l.getD at_ 0).toNat, (l.getD (at_ + 1) 0).toNat / 16, (l.getD (at_ + 1) 0).toNat % 16, (l.getD (at_ + 2) 0).toNat⟩ : JpegComp)
  if l.length ≠ 6 + 3 * n ∨ n = 0 ∨ j.comps ≠ [] ∨ l.getD 0 0 ≠ 8 ∨ be16 (l.drop 3) = 0 ∨
      (comps.any fun c => c.hs == 0 || decide (4 < c.hs) || c.vs == 0 || decide (4 < c.vs) || decide (3 < c.tq)) = true then (j, some 2)
  else
    let k := { j with w := be16 (l.drop 3), h := be16 (l.drop 1), comps := comps }
    (k, if k.h = 0 ∨ 16384 < k.w ∨ 16384 < k.h ∨ samplingOk comps = false then some 1 else none)

/-! ## JPEG: the scan -/

/-- A number of t bits as the difference or coefficient that it stands for. -/
def extend (v t : Nat) : Int := if t = 0 then 0 else if v < 2 ^ (t - 1) then (v : Int) - (2 ^ t - 1) else v

/-- The coefficients of a block behind its first, by their places in zigzag order. -/
def acCoefs (t : List PrefixCode) : Nat → Nat → List Bool → Except Nat (NMap Int × List Bool)
  | 0, _, r => .ok ([], r)
  | fuel + 1, k, r =>
    if 63 < k then .ok ([], r)
    else do
      let (rs, r1) ← readCode t 16 0 0 r
      let z := rs / 16
      let n := rs % 16
      if n = 0 then
        if z = 0 then .ok ([], r1) else if z = 15 ∧ k + 15 ≤ 63 then acCoefs t fuel (k + 16) r1 else .error 2
      else if 10 < n ∨ 63 < k + z then .error 2
      else
        let (v, r2) ← readBits n 0 r1
        let (m, r3) ← acCoefs t fuel (k + z + 1) r2
        .ok ((k + z, extend v n) :: m, r3)

/-- What decodes a component's blocks: its Huffman tables and its quantisation table. -/
structure BlockCoder where
  dc : List PrefixCode
  ac : List PrefixCode
  q : List Nat
  deriving DecidableEq, Repr

/-- A block's samples, and the value that predicts the next block of its component. -/
def readBlock (c : BlockCoder) (pred : Int) (r : List Bool) : Except Nat (List Byte × Int × List Bool) := do
  let (t, r1) ← readCode c.dc 16 0 0 r
  if 11 < t then .error 2
  else
    let (v, r2) ← readBits t 0 r1
    let (m, r3) ← acCoefs c.ac 64 1 r2
    let dc := pred + extend v t
    .ok (Config.idct ((upTo 64).map fun k => (if k = 0 then dc else lookD m k 0) * (c.q.getD k 0 : Nat)), dc, r3)

/-- The blocks of one minimum coded unit, each with its component's number, and the predictions behind it. -/
def readUnit (coders : List BlockCoder) : List Nat → List Int → List Bool → Except Nat (List (Nat × List Byte) × List Int × List Bool)
  | [], p, r => .ok ([], p, r)
  | i :: t, p, r => do
    let (b, d, r1) ← readBlock (coders.getD i ⟨[], [], []⟩) (p.getD i 0) r
    let (l, p2, r2) ← readUnit coders t (p.set i d) r1
    .ok ((i, b) :: l, p2, r2)

/-- The units of one restart interval. -/
def readUnits (coders : List BlockCoder) (unit : List Nat) : Nat → List Int → List Bool → Except Nat (List (Nat × List Byte) × List Bool)
  | 0, _, r => .ok ([], r)
  | n + 1, p, r => do
    let (l, p1, r1) ← readUnit coders unit p r
    let (m, r2) ← readUnits coders unit n p1 r1
    .ok (l ++ m, r2)

/-- The bytes of an entropy-coded segment without its stuffing, and what follows from the next marker on. -/
def unstuff : Nat → List Byte → List Byte × List Byte
  | 0, l => ([], l)
  | _ + 1, [] => ([], [])
  | fuel + 1, b :: t =>
    if b ≠ 0xFF then ((b :: (unstuff fuel t).1), (unstuff fuel t).2)
    else if t.head? = some 0 then ((b :: (unstuff fuel t.tail).1), (unstuff fuel t.tail).2)
    else ([], b :: t)

/-- The units of an interval whose bytes end with this rest: one that a marker cuts short is Corrupt. -/
def intervalUnits (coders : List BlockCoder) (unit : List Nat) (n : Nat) (bytes rest : List Byte) :
    Except Nat (List (Nat × List Byte) × List Bool) :=
  match readUnits coders unit n [0, 0, 0] (bitStream false bytes) with
  | .ok x => .ok x
  | .error e => .error (if e = ranOut ∧ 2 ≤ rest.length then 2 else e)

/-- The restart intervals of a scan, `left` units of it to come: restart markers count up modulo 8. -/
def readIntervals (coders : List BlockCoder) (unit : List Nat) (ri : Nat) :
    Nat → Nat → Nat → List Byte → Except Nat (List (Nat × List Byte) × List Byte)
  | 0, _, _, _ => .error 2
  | fuel + 1, left, i, l => do
    let n := if ri = 0 then left else Nat.min ri left
    let (bytes, rest) := unstuff (l.length + 1) l
    let (b, r) ← intervalUnits coders unit n bytes rest
    if 8 ≤ r.length then .error 2
    else if left = n then .ok (b, rest)
    else
      let (m, t) ← marker rest
      if m ≠ 0xD0 + i % 8 then .error 2
      else
        let (c, u) ← readIntervals coders unit ri fuel (left - n) (i + 1) t
        .ok (b ++ c, u)

/-- The plane of a component from its blocks, `side` by `side` of them in each unit and `mw` units in a row. -/
def planeOf (blocks : List (List Byte)) (side mw mh : Nat) : Nat × List Byte :=
  let w := 8 * side * mw
  (w, (upTo (8 * side * mh)).flatMap fun y => (upTo w).map fun x =>
    let bx := x / 8
    let by_ := y / 8
    let k := (by_ / side * mw + bx / side) * (side * side) + by_ % side * side + bx % side
    (blocks.getD k []).getD (y % 8 * 8 + x % 8) 0)

/-- A scan: its header, its data, and what follows. -/
def readScan (l rest : List Byte) (j : Jpeg) : Except Nat (Jpeg × List Byte) :=
  let n := (l.getD 0 0).toNat
  let tablesOf := fun i => (l.getD (2 + 2 * i) 0).toNat
  let coders := (upTo n).map fun i =>
    let tables := tablesOf i
    (⟨lookD j.dht (tables / 16) [], lookD j.dht (4 + tables % 16) [], lookD j.dqt ((j.comps.getD i ⟨0, 0, 0, 0⟩).tq) []⟩ : BlockCoder)
  if j.comps = [] ∨ l.length ≠ 4 + 2 * n then .error 2
  else if n < j.comps.length then .error 1
  else if n ≠ j.comps.length ∨ ((upTo n).map fun i => (l.getD (1 + 2 * i) 0).toNat) ≠ (j.comps.map fun c => c.id) ∨
      l.drop (1 + 2 * n) ≠ [0, 63, 0] ∨ ((upTo n).any fun i => decide (1 < tablesOf i / 16) || decide (1 < tablesOf i % 16)) = true ∨ (coders.any fun c => c.dc == [] || c.ac == [] || c.q == []) = true then .error 2
  else
    let side := if n = 1 then 1 else (j.comps.headD ⟨0, 1, 1, 0⟩).hs
    let mw := cdiv j.w (8 * side)
    let mh := cdiv j.h (8 * side)
    let unit := List.replicate (side * side) 0 ++ (if n = 1 then [] else [1, 2])
    match readIntervals coders unit j.ri (mw * mh + 1) (mw * mh) 0 rest with
    | .error e => .error e
    | .ok (b, u) =>
      let planes := (upTo n).map fun i => planeOf ((b.filter fun x => x.1 == i).map fun x => x.2) (if i = 0 then side else 1) mw mh
      .ok ({ j with planes := planes }, u)

/-- Marker segments to the end of the image: what has been read, and the status (R208). -/
def readJpeg : Nat → Jpeg → List Byte → Jpeg × Nat
  | 0, j, _ => (j, 2)
  | fuel + 1, j, l =>
    match marker l with
    | .error e => (j, e)
    | .ok (m, t) =>
      if m = 0xD9 then (j, if j.planes = [] then 2 else 0)
      else if m = 0xDC ∨ m = 0xCC ∨ m = 0xDE ∨ m = 0xDF ∨ (m = 0xDA ∧ j.planes ≠ []) ∨ (0xC1 ≤ m ∧ m ≤ 0xCF ∧ m ≠ 0xC4) then (j, 1)
      else
        match segment t with
        | .error e => (j, e)
        | .ok (c, u) =>
          if m = 0xC0 then
            match readFrame c j with
            | (k, some e) => (k, e)
            | (k, none) => readJpeg fuel k u
          else if m = 0xC4 then
            match readDht (c.length + 1) c j.dht with
            | .error e => (j, e)
            | .ok d => readJpeg fuel { j with dht := d } u
          else if m = 0xDB then
            match readDqt (c.length + 1) c j.dqt with
            | .error e => (j, e)
            | .ok d => readJpeg fuel { j with dqt := d } u
          else if m = 0xDD then (if c.length = 2 then readJpeg fuel { j with ri := be16 c } u else (j, 2))
          else if m = 0xDA then
            match readScan c u j with
            | .error e => (j, e)
            | .ok (k, v) => readJpeg fuel k v
          else if (0xE0 ≤ m ∧ m ≤ 0xEF) ∨ m = 0xFE then readJpeg fuel j u
          else (j, 2)

/-- A JPEG stream (R208). -/
def decodeJpeg (l : List Byte) : Image :=
  match marker l with
  | .ok (0xD8, t) =>
    let r := readJpeg (l.length + 1) ⟨0, 0, [], [], [], 0, []⟩ t
    ⟨r.2, r.1.w, r.1.h, (r.1.comps.headD ⟨0, 1, 1, 0⟩).hs == 2 && r.1.comps.length == 3, if r.2 = 0 then r.1.planes else []⟩
  | .ok _ => ⟨2, 0, 0, false, []⟩
  | .error e => ⟨e, 0, 0, false, []⟩

end Sys2Proof.Machine
end

