-- ==== Sys2Proof/Machine/Copy.lean ====
section
/-!
DEFINITION. Engine requests (R193-R212): buffer handles and range locks, COPY, OFFL, RECALL and the flash queue pairs, and
DECODE. Opcodes 0x62 and 0x63, and the events COPY_COMPLETE, DECODE_START, DECODE_COMPLETE and NVME_COMPLETION.
-/
namespace Sys2Proof.Machine

open Sys2Proof

/-! ## Handles (R194-R196) -/

/-- STATE as R194 codes it. -/
def hstateCode : HState → Nat
  | .free => 0
  | .filling => 1
  | .full => 2
  | .draining => 3

/-- The handle status word (R194). -/
def statusWord (h : Handle) : QWord :=
  BitVec.ofNat 128 (2 ^ 64 * h.eva.toNat + 2 ^ 48 * h.inst + 2 ^ 32 * h.nvs + 2 ^ 24 * h.err + 2 ^ 20 * h.pf.toNat +
    2 ^ 16 * h.drn + hstateCode h.state)

/-- HandleState (R291). -/
def handleTrap (x : Sel) (h offs : Nat) : Trap := { trapOf x 0x11 with lane := leastD 0 x.run, reg := h, offs := offs }

/-- The condition that fails is no field of a block (R291). -/
def noField : Nat := 0xFFFF

/-- The buffer-table entry that a block sees as index h. -/
def entryOf (b : Block) (h : Nat) : Option Nat := b.handles[h]?

/-- Packets that wait on a handle are judged again (R67). -/
def handleMoved (s : State) : State := nudge (post s 0 .dependencePoll)

/-- The locks of the operation that owns a table entry of a core go (R195). -/
def dropLocks (s : State) (core e : Nat) : State :=
  { s with cores := s.cores.map fun c => (c.1, { c.2 with locks := c.2.locks.filter fun l => !(l.core == core && l.entry == e) }) }

/-- Whether an OFFL of the entry's instance is under way. -/
def offlActive (s : State) (core e : Nat) : Bool :=
  (coreOf s core).copies.any fun o => o.handle == some e && match o.instr with
    | .offl _ _ => true
    | _ => false

/-- A Draining handle that no reader and no OFFL holds any more leaves that state (R195). Where both hold it, the rows of R195 for the one
that ends first would name its next state at once; it stays Draining until the other has ended too. DESIGN CHOICE (log 36). -/
def settleDrain (s : State) (core e : Nat) : State :=
  let h := handleAt s core e
  if h.state = .draining ∧ h.drn = 0 ∧ offlActive s core e = false then
    handleMoved (setHandle s core e fun h => if h.pf then { h with state := .free, pf := false } else { h with state := .full, wasFull := h.wasFull || h.err == 0 })
  else s

/-- A reader of an instance of a handle finishes (R195); where a failed OFFL has made it Full, it may be another instance by now. -/
def readerDone (s : State) (core : Nat) (src : Option Nat) (inst : Nat) : State :=
  match src with
  | none => s
  | some e =>
    if (handleAt s core e).inst = inst then settleDrain (setHandle s core e fun h => { h with drn := h.drn - 1 }) core e else s

/-- A request begins to read a Full or Draining handle (R195). -/
def readerBegin (s : State) (core : Nat) (src : Option Nat) : State :=
  match src with
  | none => s
  | some e => setHandle s core e fun h => { h with state := .draining, drn := h.drn + 1 }

/-- A handle starts a new instance (R193). -/
def newInstance (s : State) (core e : Nat) (f : Handle → Handle) : State :=
  setHandle s core e fun h =>
    f { h with past := put h.past h.inst h.wasFull, inst := (h.inst + 1) % 65536, wasFull := false, err := 0, nvs := 0, eva := 0,
               drn := 0, pf := false, remain := 0, range := none }

/-- A Filling handle goes Full; with an error its instance counts as one that was never full (R195). -/
def fillDone (s : State) (core e err nvs : Nat) (eva : DWord) : State :=
  handleMoved (dropLocks (setHandle s core e fun h =>
    { h with state := .full, err := err, nvs := nvs, eva := if err = 0 then 0 else eva, remain := 0, wasFull := err == 0 }) core e)

/-- BFREE's action on a handle, by the state it stands in (R195). -/
def freeHandle (s : State) (core e : Nat) : State :=
  match (handleAt s core e).state with
  | .free | .filling => s
  | .full => handleMoved (setHandle s core e fun y => { y with state := .free })
  | .draining => setHandle s core e fun y => { y with pf := true }

/-- BFREE (R195, R196): it samples the handle as its clock found it. -/
def effBfree (h : Nat) : Effect := fun x s =>
  match homeOf s x.beam with
  | none => .hold s
  | some (bl, _, _) =>
    match entryOf bl h with
    | none => .trap s (handleTrap x h noField)
    | some e =>
      match (handleSeen s (selCore x) e).state with
      | .filling => .trap s (handleTrap x h noField)
      | .free => .done s []
      | .full | .draining => .done (freeHandle s (selCore x) e) []

/-- BTEST (R196). -/
def effBtest (st : HState) (h pd : Nat) : Effect := fun x s =>
  match homeOf s x.beam with
  | none => .hold s
  | some (bl, _, _) =>
    match entryOf bl h with
    | none => .trap s (handleTrap x h noField)
    | some e =>
      let v := (handleSeen s (selCore x) e).state == st
      .done (onLanes s x.key x.run fun _ l => laneSetPred l pd v) []

/-- The trap that a handle's error raises at BWAIT (R196, R291). -/
def errorTrap (x : Sel) (h : Nat) (y : Handle) : Trap :=
  { trapOf x y.err with reg := h, record := statusWord y, addr := y.eva }

/-- BWAIT.free (R196). -/
def effBwaitFree (h : Nat) : Effect := fun x s =>
  match homeOf s x.beam with
  | none => .hold s
  | some (bl, _, _) =>
    match entryOf bl h with
    | none => .trap s (handleTrap x h noField)
    | some e =>
      let y := handleSeen s (selCore x) e
      match y.state with
      | .free => .done s []
      | .draining => if y.pf then .hold s else .trap s (handleTrap x h noField)
      | .full => if y.err = 0 then .trap s (handleTrap x h noField) else .trap s (errorTrap x h y)
      | .filling => .trap s (handleTrap x h noField)

/-- BWAIT.full (R196). -/
def effBwaitFull (h : Nat) : Effect := fun x s =>
  match homeOf s x.beam with
  | none => .hold s
  | some (bl, _, _) =>
    match entryOf bl h with
    | none => .trap s (handleTrap x h noField)
    | some e =>
      let y := handleSeen s (selCore x) e
      match y.state with
      | .free => .trap s (handleTrap x h noField)
      | .filling => .hold s
      | .full => if y.err = 0 then .done s [] else .trap s (errorTrap x h y)
      | .draining => .done s []

/-! ## Engine accesses (R148, R200, R315, R317) -/

/-- What keeps an engine from reading at an address. -/
inductive EngineStop where
  /-- the access fails: trap code and address (R200) -/
  | fail (code va : Nat)
  /-- a walk is needed first (R143) -/
  | walk (va : Nat)
  /-- no traffic reaches it now (R317, R321) -/
  | shut
  deriving DecidableEq, Repr

/-- What an engine read gives: bytes, or what the first access that gave none has met. -/
abbrev EngineRead := Except EngineStop (List Byte)

/-- Bytes of one line that an engine of a core reads at a translated address, named by the virtual one (R200, R315). -/
def engineLine (s : State) (core : Nat) (sup : Bool) (x : Xl) (va n : Nat) : EngineRead :=
  let part := partOfCore s core
  if !outerOk s core sup false x then .error (.fail 0x08 va)
  else if !pathOpen s (quarterOf core) part x.apc x.pa then .error .shut
  else
    match x.apc with
    | 0 =>
      if x.d then (if blockBad s part x.pa then .error (.fail 0x0C va) else .ok (nearBlockRead s part x.pa n))
      else if blockBad s part x.pa && !lineHeld s core x.pa .dev then .error (.fail 0x0C va)
      else .ok (homeRead s part x.pa n)
    | 1 => .ok (outerRead s 1 x.pa n)
    | 2 => if xlBad s part x then .error (.fail 0x0C va) else .ok (outerRead s 2 x.pa n)
    | _ =>
      if fld x.pa 47 40 = 0 then .ok (memBytes s.mem (bootBase + x.pa % 4194304) n)
      else if blockBad s part (x.pa % 2 ^ 40) then .error (.fail 0x0C va)
      else .ok (nearBlockRead s part (x.pa % 2 ^ 40) n)

/-- A virtual address as an engine of a core translates it (R143, R200). -/
def engineXlate (s : State) (core va : Nat) (sup : Bool) : Except EngineStop Xl :=
  match lookTold s core (coreOf s core).told va sup false with
  | .hit x => .ok x
  | .fail f => .error (.fail (causeCode f.cause) va)
  | .bad _ => .error (.fail 0x0C va)
  | .shut => .error .shut
  | .miss => .error (.walk va)

/-- Bytes of a virtual range that an engine can read, line by line, translated as they are read, and what has kept it from the rest
(R200). -/
def engineUpTo (core : Nat) (sup : Bool) : Nat → State → Nat → Nat → List Byte × Option EngineStop
  | 0, _, _, _ => ([], none)
  | fuel + 1, s, va, n =>
    if n = 0 then ([], none)
    else
      let va := va % 2 ^ 64
      let k := Nat.min n (128 - va % 128)
      match (engineXlate s core va sup).bind fun x => engineLine s core sup x va k with
      | .error e => ([], some e)
      | .ok l =>
        let r := engineUpTo core sup fuel s (va + k) (n - k)
        (l ++ r.1, r.2)

/-- Bytes of a virtual range, all of them (R200). -/
def engineRead (core : Nat) (sup : Bool) (fuel : Nat) (s : State) (va n : Nat) : EngineRead :=
  match engineUpTo core sup fuel s va n with
  | (l, none) => .ok l
  | (_, some e) => .error e

/-- What an engine has asked for: the walk that it needs; one that needs none has used what walks had told (R143). -/
def engineAsk (s : State) (core : Nat) (sup : Bool) (r : Option EngineStop) : State :=
  match r with
  | some (.walk va) => startWalksFor s core ⟨4096 + core, sup, false⟩ [va]
  | some .shut => s
  | some (.fail _ _) | none => setCore s core fun c => { c with told := [] }

/-- What keeps a read from ending now: a walk, or a closed link. -/
def readWait : Option EngineStop → Option EngineStop
  | some (.walk va) => some (.walk va)
  | some .shut => some .shut
  | some (.fail _ _) | none => none

/-- An operation with what it has read; one that has to wait has read nothing yet (R278). -/
def opRead (o : EngineOp) (l : List Byte) (r : Option EngineStop) : EngineOp :=
  match r with
  | none => { o with ready := true, data := l }
  | some (.fail c va) => { o with ready := true, data := l, err := some (c, va) }
  | some (.walk _) | some .shut => o

/-- Bytes of a virtual range read through translations made at issue (R193). -/
def pagesRead (core : Nat) (sup : Bool) (pages : NMap Nat) : Nat → State → Nat → Nat → EngineRead
  | 0, _, _, _ => .ok []
  | fuel + 1, s, va, n =>
    if n = 0 then .ok []
    else
      let va := va % 2 ^ 64
      let k := Nat.min n (128 - va % 128)
      let t := lookD pages (va / 65536) 0
      match engineLine s core sup (xlOf (t + va % 65536)) va k with
      | .error e => .error e
      | .ok l =>
        match pagesRead core sup pages fuel s (va + k) (n - k) with
        | .ok r => .ok (l ++ r)
        | .error e => .error e

/-- Bytes of local memory from a core offset on, by target (R138). -/
def localBytes (s : State) (target n : Nat) : List Byte := memBytes s.mem (2 * 2 ^ 64 + target) n

/-- Writes local memory. -/
def localPut (s : State) (target : Nat) (l : List Byte) : State := { s with mem := memPut s.mem (2 * 2 ^ 64 + target) l }

/-- The core's L1 and its sector's local copy lose a line that an engine writes (R201). -/
def engineDrop (s : State) (core pa : Nat) : State := l1Drop (ownCopyBack s (core / 4) 0 pa true) core pa

/-- An engine writes bytes of one line of device memory: the home slice takes them (R148, R201). -/
def engineWriteLine (s : State) (core pa : Nat) (l : List Byte) : State :=
  homeWrite (engineDrop s core pa) (partOfCore s core) pa l

/-- An engine writes a whole block of device memory (R148, R152, R201). -/
def engineWriteBlock (s : State) (core pa : Nat) (l : List Byte) : State :=
  blockWrite ((upTo 4).foldl (fun s i => engineDrop s core (pa + 128 * i)) s) (partOfCore s core) pa l

/-- An engine writes a virtual range through the translations made at issue (R193). -/
def engineWrite (core : Nat) (pages : NMap Nat) : Nat → State → Nat → List Byte → State
  | 0, s, _, _ => s
  | fuel + 1, s, va, l =>
    if l.isEmpty then s
    else
      let va := va % 2 ^ 64
      let pa := tgPa (lookD pages (va / 65536) 0) + va % 65536
      if va % 512 = 0 ∧ 512 ≤ l.length then
        engineWrite core pages fuel (engineWriteBlock s core pa (l.take 512)) (va + 512) (l.drop 512)
      else
        let k := 128 - va % 128
        engineWrite core pages fuel (engineWriteLine s core pa (l.take k)) (va + k) (l.drop k)

/-- Writes bytes of a range, at an offset in it. -/
def rangePut (s : State) (core : Nat) (pages : NMap Nat) (r : Range) (off : Nat) (l : List Byte) : State :=
  if r.loc then localPut s (r.first + off) l else engineWrite core pages (l.length / 128 + 2) s (r.first + off) l

/-- Writes the bytes of a range that have not been written yet, from an offset in it on, block by block (R278). -/
def putRest (core : Nat) (pages : NMap Nat) (r : Range) (written : List Nat) : Nat → State → Nat → List Byte → State
  | 0, s, _, _ => s
  | fuel + 1, s, off, l =>
    if l.isEmpty then s
    else
      let n := 512 - (r.first + off) % 512
      let p := l.take n
      let s1 :=
        if (upTo p.length).any fun i => written.contains (off + i) then
          (upTo p.length).foldl (fun s i =>
            if written.contains (off + i) then s else rangePut s core pages r (off + i) [p.getD i 0]) s
        else rangePut s core pages r off p
      putRest core pages r written fuel s1 (off + n) (l.drop n)

/-- An operation ends: what it has not written of its bytes is written (R278). -/
def rangeFinish (s : State) (core : Nat) (pages : NMap Nat) (r : Range) (off : Nat) (written : List Nat) (l : List Byte) : State :=
  if written.isEmpty then rangePut s core pages r off l else putRest core pages r written (l.length / 512 + 2) s off l

/-- Whether the links to the pages of an operation carry traffic (R321). -/
def pagesOpen (s : State) (core : Nat) (pages : NMap Nat) : Bool :=
  pages.all fun p => pathOpen s (quarterOf core) (partOfCore s core) (tgApc p.2) (tgPa p.2)

/-- Whether a byte of a range may be written by itself: its block can be read, which a write of a part would poison (R152), and a link
leads there. -/
def earlyOk (s : State) (core : Nat) (pages : NMap Nat) (r : Range) (off : Nat) : Bool :=
  r.loc ||
    let va := (r.first + off) % 2 ^ 64
    let pa := tgPa (lookD pages (va / 65536) 0) + va % 65536
    !blockBad s (partOfCore s core) pa && pathOpen s (quarterOf core) (partOfCore s core) 0 pa

/-- Bytes of a range, from an offset in it on, that an engine writes before its operation ends, as a free value decides for each, and
all that it has written by then (R278, log 36). -/
def writeEarly (s : State) (core e : Nat) (pages : NMap Nat) (r : Range) (off : Nat) (written : List Nat) (l : List Byte) :
    State × List Nat :=
  (l.zipIdx off).foldl (fun (x : State × List Nat) b =>
    if !x.2.contains b.2 && Config.writesEarly s.fresh ((b.2 * 64 + core) * 256 + e) && earlyOk x.1 core pages r b.2 then
      (rangePut x.1 core pages r b.2 [b.1], b.2 :: x.2)
    else x) (s, written)

/-- Reads bytes of a range, at an offset in it. -/
def rangeRead (s : State) (core : Nat) (sup : Bool) (r : Range) (off n : Nat) : EngineRead :=
  if r.loc then .ok (localBytes s (r.first + off) n) else engineRead core sup (n / 128 + 2) s (r.first + off) n

/-! ## The shared issue of requests (R193, R197) -/

/-- What a request needs once its block has been checked. -/
structure Plan where
  /-- ranges to be locked, and whether each is a destination -/
  ranges : List (Range × Bool)
  /-- pages to be translated at issue: address, bytes, and whether they are written -/
  xl : List (Nat × Nat × Bool)
  /-- whether something else makes it wait -/
  busy : Bool
  /-- what keeps it from reading its source now, which it does as it starts (R278) -/
  reads : State → Option EngineStop
  /-- the operation's start, given the pages -/
  act : State → NMap Nat → State

/-- What stops the translation of a request's pages. -/
inductive PageStop where
  /-- a fault that parks the lane -/
  | park (va : Nat) (f : XFault) (kind : Nat)
  /-- ProtectionFault -/
  | refuse (va : Nat)
  /-- a table entry in a block that cannot be read, at this address (R152) -/
  | bad (pa : Nat)
  /-- a walk is needed first, for a page that is written or not (R143) -/
  | walk (va : Nat) (write : Bool)
  /-- no traffic reaches the tables now (R321) -/
  | shut
  deriving DecidableEq, Repr

/-- Translates pages from va to the end, keeping their targets; `told` is what walks have found for the beam. Where one page parks the lane
and another is refused, the first that fails in the order of ranges and addresses decides: R193 names no order. DESIGN CHOICE (log 36). -/
def xlatePages (core : Nat) (sup write : Bool) (told : List Told) (s : State) :
    Nat → Nat → Nat → NMap Nat → Except PageStop (NMap Nat)
  | 0, _, _, m => .ok m
  | fuel + 1, va, last, m =>
    if last < va then .ok m
    else
      let a := va % 2 ^ 64
      match lookTold s core told a sup write with
      | .fail f => .error (.park a f (if write then 1 else 0))
      | .bad pa => .error (.bad pa)
      | .shut => .error .shut
      | .miss => .error (.walk a write)
      | .hit x =>
        if (write && x.d) || x.apc != 0 then .error (.refuse a)
        else
          let page := va / 65536
          xlatePages core sup write told s fuel ((page + 1) * 65536) last
            (put m (page % 2 ^ 48) (targetOf { x with pa := x.pa - va % 65536 }))

/-- All the pages of a plan. -/
def planPages (core : Nat) (sup : Bool) (told : List Told) (s : State) :
    List (Nat × Nat × Bool) → NMap Nat → Except PageStop (NMap Nat)
  | [], m => .ok m
  | (va, n, w) :: t, m =>
    if n = 0 then planPages core sup told s t m
    else
      match xlatePages core sup w told s (n / 65536 + 2) va (va + n - 1) m with
      | .ok m1 => planPages core sup told s t m1
      | .error e => .error e

/-- The core whose table an entry for a range belongs to (R197). -/
def lockCore (core : Nat) (r : Range) : Nat := if r.loc then r.first / 4194304 else core

/-- Whether the lock tables have room for the ranges and nothing overlaps as R197 forbids. -/
def locksFree (s : State) (core : Nat) (rs : List (Range × Bool)) : Bool :=
  rs.all fun r =>
    let c := lockCore core r.1
    decide ((coreOf s c).locks.length + (rs.filter fun q => lockCore core q.1 == c).length ≤ 64) &&
      (lockHit s c r.1.loc r.1.first r.1.len r.2).isNone

/-- The accesses that the beams of a core's cluster have issued are performed: they came before the locks that an operation now
takes, and do not race with it (R278). -/
def settleCluster (s : State) (core : Nat) : State :=
  s.beams.foldl (fun s b => if b.1 / 256 = core / 4 then performAll s b.1 else s) s

/-- Whether one of them cannot be performed yet (R321). -/
def clusterOwes (s : State) (core : Nat) : Bool := s.beams.any fun b => b.1 / 256 == core / 4 && owes s b.1

/-- Registers the locks of an operation. -/
def takeLocks (s : State) (core e h : Nat) (rs : List (Range × Bool)) : State :=
  rs.foldl (fun s r =>
    if r.1.len = 0 then s
    else setCore s (lockCore core r.1) fun c => { c with locks := c.locks ++ [⟨r.1, r.2, core, e, h⟩] }) (settleCluster s core)

/-- The steps of R193 for a block of `size` bytes: `plan` checks the block and says what the request needs. The beam's earlier
accesses are performed first, the stores of the block among them. -/
def request (a : Src) (h size : Nat) (plan : State → Block → Gang → Grid → Nat → List Byte → Except Trap Plan) : Effect :=
  fun x s0 =>
    gated x s0 x.run [srcUse a 1] [] (released s0 x.key .dev fun s =>
      match homeOf s x.beam with
      | none => .hold s
      | some (bl, g, gr) =>
        let lane := leastD 0 x.run
        let adr := laneReg (laneOf x.beam lane) a.r
        match entryOf bl h with
        | none => .trap s (handleTrap x h noField)
        | some e =>
          if x.run.length ≠ 1 ∨ (handleAt s (selCore x) e).state ≠ .free then .trap s (handleTrap x h noField)
          else if adr.toNat % 16 ≠ 0 then .trap s (laneTrap x 0x06 lane (adr.setWidth 64) [])
          else
            match localPlace s bl g gr adr.toNat size with
            | none => .trap s (laneTrap x 0x08 lane (adr.setWidth 64) [])
            | some t =>
              match plan s bl g gr e (localBytes s t size) with
              | .error t => .trap s t
              | .ok p =>
                match planPages (selCore x) (selSup x) x.beam.told s p.xl [] with
                | .error (.park va f kind) => .done (parkLanes s x.key [(lane, faultRec (BitVec.ofNat 64 va) f kind)]) [lane]
                | .error (.refuse va) => .trap s (laneTrap x 0x08 lane (BitVec.ofNat 64 va) [])
                | .error (.bad pa) => .trap s (tableTrap x [(lane, pa)] [])
                | .error (.walk va w) => .hold (startWalks s x.key (selSup x) w [va])
                | .error .shut => .hold s
                | .ok pages =>
                  let s1 := settleCluster s (selCore x)
                  if p.busy || !locksFree s (selCore x) p.ranges || !pagesOpen s (selCore x) pages || clusterOwes s1 (selCore x) then .hold s
                  else if (readWait (p.reads s1)).isSome then .hold (engineAsk s (selCore x) (selSup x) (p.reads s1))
                  else .done (p.act (takeLocks s (selCore x) e h p.ranges) pages) [])

/-- The first field that breaks a rule, by its byte offset. -/
def firstBad : List (Bool × Nat) → Option Nat
  | [] => none
  | (b, o) :: t => if b then some o else firstBad t

/-- A local range of a block's request, resolved (R138). -/
def localRange (s : State) (b : Block) (g : Gang) (gr : Grid) (a n : Nat) : Option Range :=
  (localPlace s b g gr (a % 2 ^ 32) n).map fun t => ⟨true, t, n⟩

/-- A range of a request in its space, or the address that R138 refuses. -/
def requestRange (s : State) (b : Block) (g : Gang) (gr : Grid) (loc : Bool) (a n : Nat) : Except Nat Range :=
  if loc then
    match localRange s b g gr a n with
    | some r => .ok r
    | none => .error (a % 2 ^ 32)
  else .ok ⟨false, a % 2 ^ 64, n⟩

/-- ProtectionFault at a field of a request (R138, R205, R291). -/
def fieldTrap (x : Sel) (adr offs : Nat) : Trap :=
  { trapOf x 0x08 with lane := leastD 0 x.run, addr := BitVec.ofNat 64 adr, offs := offs }

/-! ## COPY (R198-R200) -/

def cpComp (q : List Byte) : Bool := bytesFld q 0 0 == 1
def cpElem (q : List Byte) : Nat := 2 ^ bytesFld q 6 4
def cpSsp (q : List Byte) : Nat := bytesFld q 9 8
def cpDsp (q : List Byte) : Nat := bytesFld q 11 10
def cpHsrc (q : List Byte) : Nat := bytesFld q 37 32
def cpFill (q : List Byte) : Byte := BitVec.ofNat 8 (bytesFld q 47 40)
/-- Ek + 1. -/
def cpExt (q : List Byte) (k : Nat) : Nat := bytesFld q (79 + 16 * k) (64 + 16 * k) + 1
def cpDaddr (q : List Byte) : Nat := bytesFld q 191 128
/-- Bytes of the whole copy (R199). -/
def cpTotal (q : List Byte) : Nat := cpExt q 0 * cpExt q 1 * cpExt q 2 * cpExt q 3 * cpElem q

/-- The two layout records. -/
def cpLA (q : List Byte) : List Byte := sliceBytes 48 32 q
def cpLB (q : List Byte) : List Byte := sliceBytes 48 80 q

def lrKind (r : List Byte) : Nat := bytesFld r 319 316
def lrBase (r : List Byte) : Nat := bytesFld r 63 0
def lrK (r : List Byte) (n : Nat) : Nat := bytesFld r (95 + 32 * n) (64 + 32 * n)
def lrKs (r : List Byte) (n : Nat) : Int := sext 32 (lrK r n)
def lrTsp (r : List Byte) : Nat := bytesFld r 325 324
def lrTfmt (r : List Byte) : Nat := bytesFld r 320 320

/-- The field of a layout record that a byte belongs to, by its offset. -/
def lrField (i : Nat) : Nat :=
  if i < 8 then 0 else if i < 32 then i / 4 * 4 else if i < 40 then 32 else 40

/-- The byte of an unused record that is not zero (R199). -/
def lrUnused (r : List Byte) : Option Nat := (upTo 48).find? fun i => r.getD i 0 != 0

/-- The rules of a layout record at `at_` in the block (R199). -/
def lrBad (r : List Byte) (at_ elem : Nat) (loc : Bool) : List (Bool × Nat) :=
  let k := lrKind r
  let isTable := k == 3
  let stride := k == 1 || k == 4
  [(bytesFld r 315 256 != 0, at_ + 32),
    (bytesFld r 323 321 != 0, at_ + 40),
    (if isTable then decide (1 < lrTsp r) else lrTsp r != 0, at_ + 40),
    (bytesFld r 383 326 != 0, at_ + 40),
    (stride && lrBase r % elem != 0, at_),
    (isTable && lrBase r % 4 != 0, at_),
    (((stride && loc) || (isTable && lrTsp r == 1)) && decide (2 ^ 32 ≤ lrBase r), at_)] ++
  (upTo 6).map fun n =>
    let zero := match k with
      | 1 | 3 => decide (3 ≤ n)
      | 4 => n == 2 || n == 5
      | _ => false
    let isStride := (k == 1 && decide (n < 3)) || (k == 4 && decide (n < 2))
    ((zero && lrK r n != 0) || (isStride && lrK r n % elem != 0) || (isTable && decide (n < 3) && lrK r n % 4 != 0),
      at_ + 8 + 4 * n)

/-- The rules of a COPY request block (R198, R199): the first field that breaks one. -/
def copyBad (q : List Byte) (lmb : Nat) : Option Nat :=
  let la := cpLA q
  let lb := cpLB q
  let ssp := cpSsp q
  let comp := cpComp q
  let ka := lrKind la
  let kb := lrKind lb
  let head := [(bytesFld q 3 1 != 0, 0), (decide (4 < bytesFld q 6 4), 0), (bytesFld q 7 7 != 0, 0), (ssp == 3, 1),
    (decide (1 < cpDsp q), 1), (bytesFld q 31 12 != 0, 1), (bytesFld q 39 38 != 0, 4), (bytesFld q 63 48 != 0, 6),
    (cpDsp q == 1 && bytesFld q 191 160 != 0, 16), (bytesFld q 255 192 != 0, 24), (ssp == 2 && comp, 0),
    (if ssp == 2 then ka != 0 else if comp then ka != 2 && ka != 3 else ka != 1, 71),
    (if comp then kb != 4 else kb != 0, 119),
    (decide (2 ^ 32 - 1 < cpTotal q) || (cpDsp q == 1 && decide (lmb < cpTotal q)), 8)]
  match firstBad head with
  | some o => some o
  | none =>
    match (if ka = 0 then (lrUnused la).map (fun i => 32 + lrField i) else firstBad (lrBad la 32 (cpElem q) (ssp == 1))) with
    | some o => some o
    | none =>
      if kb = 0 then (lrUnused lb).map fun i => 80 + lrField i else firstBad (lrBad lb 80 (cpElem q) (ssp == 1))

/-- Least and greatest of a sum of terms, each between 0 and n times its coefficient. -/
def spanOfTerms (base : Int) (l : List (Int × Nat)) : Int × Int :=
  l.foldl (fun m t => (m.1 + min 0 (t.1 * (t.2 : Int)), m.2 + max 0 (t.1 * (t.2 : Int)))) (base, base)

/-- The extent of a data record: first byte and length (R197, R199). -/
def dataExtent (q r : List Byte) : Int × Nat :=
  let w := cpExt q 0 * cpElem q
  if lrKind r = 1 then
    let m := spanOfTerms (lrBase r) ((upTo 3).map fun n => (lrKs r n, cpExt q (n + 1) - 1))
    (m.1, (m.2 - m.1).toNat + w)
  else if lrK r 3 = 0 ∨ lrK r 4 = 0 then (lrBase r, 0)
  else
    let m := spanOfTerms (lrBase r) [(lrKs r 0, lrK r 3 - 1), (lrKs r 1, lrK r 4 - 1)]
    (m.1, (m.2 - m.1).toNat + w)

/-- The extent of a table. -/
def tableExtent (q r : List Byte) : Int × Nat :=
  let m := spanOfTerms (lrBase r) ((upTo 3).map fun n => (lrKs r n, cpExt q (n + 1) - 1))
  (m.1, (m.2 - m.1).toNat + 4)

/-- An address modulo 2^64, or 2^32 in local memory (R200). -/
def addrOf (loc : Bool) (a : Int) : Nat := (a % (if loc then 2 ^ 32 else 2 ^ 64)).toNat

/-- The ranges that a COPY reads, with the field that names each. -/
def copySources (q : List Byte) : List (Bool × Int × Nat × Nat) :=
  if cpSsp q = 2 then []
  else if cpComp q then
    let d := dataExtent q (cpLB q)
    let t := if lrKind (cpLA q) = 3 then
        let e := tableExtent q (cpLA q)
        [(lrTsp (cpLA q) == 1, e.1, e.2, 32)]
      else []
    t ++ (if d.2 = 0 then [] else [(cpSsp q == 1, d.1, d.2, 80)])
  else
    let d := dataExtent q (cpLA q)
    [(cpSsp q == 1, d.1, d.2, 32)]

/-- Resolves ranges of a request, or gives the first that R138 refuses with its field. -/
def resolveRanges (s : State) (b : Block) (g : Gang) (gr : Grid) :
    List (Bool × Int × Nat × Nat) → Except (Nat × Nat) (List Range)
  | [] => .ok []
  | (loc, a, n, f) :: t =>
    match requestRange s b g gr loc (addrOf loc a) n with
    | .error e => .error (e, f)
    | .ok r =>
      match resolveRanges s b g gr t with
      | .error e => .error e
      | .ok l => .ok (r :: l)

/-- Bytes at an address of a record's space. -/
def spaceRead (s : State) (o : EngineOp) (core : Nat) (loc : Bool) (a : Int) (n : Nat) : EngineRead :=
  if loc then
    match look s.blocks o.block with
    | none => .ok (List.replicate n 0)
    | some b =>
      match look s.gangs b.gang with
      | none => .ok (List.replicate n 0)
      | some g =>
        match look s.grids g.grid with
        | none => .ok (List.replicate n 0)
        | some gr =>
          match localPlace s b g gr (addrOf true a) n with
          | some t => .ok (localBytes s t n)
          | none => .error (.fail 0x08 (addrOf true a))
  else engineRead core (o.args.headD 0 == 1) 3 s (addrOf false a) n

/-- The coordinates of a point of a composed copy (R200): u, v, or a failed table read. -/
def copyCoords (s : State) (o : EngineOp) (core : Nat) (c1 c2 c3 : Int) : Except EngineStop (Int × Int) :=
  let r := cpLA o.params
  let t := fun n0 => c1 * lrKs r n0 + c2 * lrKs r (n0 + 1) + c3 * lrKs r (n0 + 2)
  if lrKind r = 2 then .ok (sext 32 (lrBase r) + t 0, sext 32 (lrBase r / 2 ^ 32) + t 3)
  else
    match spaceRead s o core (lrTsp r == 1) (lrBase r + t 0) 4 with
    | .error e => .error e
    | .ok l =>
      let w := leNat l
      .ok (if lrTfmt r = 0 then (sext 32 w, 0) else (sext 16 w, sext 16 (w / 65536)))

/-- The bytes of point n of a copy (R200). -/
def copyPoint (s : State) (o : EngineOp) (core n : Nat) : EngineRead :=
  let q := o.params
  let el := cpElem q
  let c0 := n % cpExt q 0
  let c1 : Int := ((n / cpExt q 0 % cpExt q 1 : Nat) : Int)
  let c2 : Int := ((n / cpExt q 0 / cpExt q 1 % cpExt q 2 : Nat) : Int)
  let c3 : Int := ((n / cpExt q 0 / cpExt q 1 / cpExt q 2 : Nat) : Int)
  if cpSsp q = 2 then
    match o.source.bind fun e => (handleAt s core e).range with
    | some r => rangeRead s core (o.args.headD 0 == 1) r (n * el) el
    | none => .ok (List.replicate el 0)
  else if !cpComp q then
    let r := cpLA q
    spaceRead s o core (cpSsp q == 1) (lrBase r + c1 * lrKs r 0 + c2 * lrKs r 1 + c3 * lrKs r 2 + (c0 * el : Nat)) el
  else
    match copyCoords s o core c1 c2 c3 with
    | .error e => .error e
    | .ok (u, v) =>
      let r := cpLB q
      if 0 ≤ u ∧ u < lrK r 3 ∧ 0 ≤ v ∧ v < lrK r 4 then
        spaceRead s o core (cpSsp q == 1) (lrBase r + u * lrKs r 0 + v * lrKs r 1 + (c0 * el : Nat)) el
      else .ok (List.replicate el (cpFill q))

/-- Reads the points of a copy from n on, until one gives nothing (R200): the bytes of those before it, and what it has met. R200 orders no
points among each other: that exactly those below the failing one are written is a DESIGN CHOICE (log 36). -/
def copyGather (s : State) (o : EngineOp) (core : Nat) : Nat → Nat → List Byte × Option EngineStop
  | 0, _ => ([], none)
  | fuel + 1, n =>
    match copyPoint s o core n with
    | .error e => ([], some e)
    | .ok l =>
      let r := copyGather s o core fuel (n + 1)
      (l ++ r.1, r.2)

/-- What a COPY reads, all of its points (R200). -/
def copyAll (s : State) (o : EngineOp) (core : Nat) : List Byte × Option EngineStop :=
  copyGather s o core (cpTotal o.params / cpElem o.params) 0

/-- An operation of the copy engine starts, with what it has read of its source (R278), and ends at a time the spec does not fix. -/
def startEngine (s : State) (core : Nat) (o : EngineOp) (r : List Byte × Option EngineStop) : State :=
  postFree (setCore (engineAsk s core (o.args.headD 0 == 1) r.2) core fun c => { c with copies := c.copies ++ [opRead o r.1 r.2] }) 0
    (.copyComplete core (o.handle.getD 0) o.inst)

/-- COPY's checks and what it needs. -/
def copyPlan (x : Sel) (i : Instr) (h : Nat) (s : State) (bl : Block) (g : Gang) (gr : Grid) (e : Nat) (q : List Byte) :
    Except Trap Plan :=
  let core := selCore x
  match copyBad q bl.lmb with
  | some o => .error (handleTrap x h o)
  | none =>
    let src := if cpSsp q = 2 then entryOf bl (cpHsrc q) else none
    let hs := (src.map (handleAt s core)).getD Handle.zero
    let short := match hs.range with
      | some r => decide (r.len < cpTotal q)
      | none => true
    if cpSsp q = 2 ∧ ((hs.state ≠ .full ∧ hs.state ≠ .draining) ∨ short = true) then .error (handleTrap x h 4)
    else
      match resolveRanges s bl g gr ((cpDsp q == 1, (cpDaddr q : Int), cpTotal q, 16) :: copySources q) with
      | .error (a, f) => .error (fieldTrap x a f)
      | .ok [] => .error (handleTrap x h noField)
      | .ok (d :: srcs) =>
        let o : EngineOp :=
          { instr := i, beam := x.key, block := x.beam.block, handle := some e, inst := 0, params := q,
            args := [(selSup x).toNat, hs.inst], pages := [], source := src, ready := false, data := [], err := none, written := [] }
        .ok
          { ranges := (d, true) :: srcs.map fun r => (r, false)
            xl := if d.loc then [] else [(d.first, d.len, true)]
            busy := src.isSome && hs.drn == 15
            reads := fun s => (copyAll s o core).2
            act := fun s pages =>
              let s1 := readerBegin (newInstance s core e fun y =>
                { y with state := .filling, remain := cpTotal q, range := some d }) core src
              let o1 := { o with inst := (handleAt s1 core e).inst, pages := pages }
              startEngine s1 core o1 (copyAll s1 o1 core) }

/-- COPY (R193, R198-R201). -/
def effCopy (a : Src) (h : Nat) : Effect := fun x s => request a h 128 (copyPlan x (.copy a h) h) x s

/-! ## OFFL, RECALL and the flash queue pairs (R203-R207) -/

def flLoc (q : List Byte) : Bool := bytesFld q 105 105 == 1
def flFua (q : List Byte) : Bool := bytesFld q 104 104 == 1
def flQp (q : List Byte) : Nat := bytesFld q 103 96
def flLen (q : List Byte) : Nat := bytesFld q 95 64
def flAddr (q : List Byte) : Nat := bytesFld q 63 0
def flSlba (q : List Byte) : Nat := bytesFld q 191 128
def flOffh (q : List Byte) : Nat := bytesFld q 255 192

/-- 2^LBAS and 2^MAXT of a pair. -/
def fqBlock (s : State) (k : Nat) : Nat := 2 ^ fld (csrN s 0 (fq k 6)) 27 24
def fqMax (s : State) (k : Nat) : Nat := 2 ^ fld (csrN s 0 (fq k 6)) 23 20
def fqSize (s : State) (k : Nat) : Nat := fld (csrN s 0 (fq k 6)) 11 0
/-- Whether a pair is enabled and owned by a core's quarter (R205). -/
def fqMine (s : State) (core k : Nat) : Bool :=
  bit (csrN s 0 (fq k 11)) 0 && fld (csrN s 0 (fq k 11)) 7 6 == core / 12

/-- The rules of an OFFL or RECALL block that concern its fields (R205). A local ADDR with a bit of 63:32 set is HandleState at offset 0, as
an address that is not aligned is; R205 says only that the address lies in bits 31:0. DESIGN CHOICE (log 36). Bits 255:192 of an OFFL block, which R205 gives to RECALL alone
and does not call reserved, are ignored. DESIGN CHOICE (log 36). -/
def flashBad (s : State) (q : List Byte) (recalls : Bool) : Option Nat :=
  firstBad [(flAddr q % (if recalls && flLoc q then 16 else 4096) != 0, 0), (recalls && flLoc q && decide (2 ^ 32 ≤ flAddr q), 0),
    (flLen q == 0 || flLen q % 4096 != 0, 8), (decide (63 < flQp q), 12),
    (decide (flQp q ≤ 63) && flLen q % fqBlock s (flQp q) != 0, 8), (recalls && flFua q, 13), (!recalls && flLoc q, 13),
    (bytesFld q 127 106 != 0, 13), (recalls && fld (flOffh q) 47 14 != 0, 24), (recalls && bytesFld q 383 256 != 0, 32)]

/-- The commands of a request: min(2^MAXT, remaining) bytes each, in ascending order (R204). A Write's bytes are read as the
operation starts (R278), through the translations made at issue (R193). -/
def flashCmds (s : State) (o : EngineOp) (core e blk mx : Nat) (write fua : Bool) (r : Range) : Nat → Nat → Nat → Nat → List FlashCmd
  | 0, _, _, _ => []
  | fuel + 1, lba, off, rest =>
    if rest = 0 then []
    else
      let n := Nat.min mx rest
      let data := if write then (pagesRead core true o.pages (n / 128 + 2) s (r.first + off) n).toOption else none
      ⟨0, core, e, o.inst, write, fua, lba, off, n, r, o.pages, data, []⟩ ::
        flashCmds s o core e blk mx write fua r fuel (lba + n / blk) (off + n) (rest - n)

/-- The operation of a core that a command serves. -/
def opOf (s : State) (core e inst : Nat) : Option EngineOp :=
  (coreOf s core).copies.find? fun o => o.handle == some e && o.inst == inst

/-- The PCIe address of byte `off` of a command's range (R204): FQWIN plus its physical address; a local range has none
(log 11). -/
def flashBus (s : State) (k : Nat) (c : FlashCmd) (off : Nat) : Nat :=
  if c.range.loc then 0
  else
    let va := (c.range.first + off) % 2 ^ 64
    (csrN s 0 (fq k 12) + 2 ^ 32 * csrN s 0 (fq k 13) + tgPa (lookD c.pages (va / 65536) 0) + va % 65536) % 2 ^ 64

/-- A 64-bit value of two registers of a pair. -/
def fq64 (s : State) (k j : Nat) : Nat := csrN s 0 (fq k j) + 2 ^ 32 * csrN s 0 (fq k (j + 1))

/-- The partition in which the flash queue engine of a pair acts. -/
def fqPart (s : State) (k : Nat) : Nat := partOfQuarter s (fld (csrN s 0 (fq k 11)) 7 6)

/-- Writes device memory through the home slice, for the flash queue engine and its controller. -/
def fqPut (s : State) (k pa : Nat) (l : List Byte) : State := homePut s (fqPart s k) (l.length / 128 + 2) pa l

/-- Whether the flash queue engine of a pair, which stands in the quarter that owns it, reaches device memory over open links (R203,
R321). -/
def fqOpen (s : State) (k pa : Nat) : Bool := pathOpen s (fld (csrN s 0 (fq k 11)) 7 6) (fqPart s k) 0 pa

/-- A submission queue entry: Write or Read with its PRPs (R204, log 11). -/
def sqe (s : State) (k slot : Nat) (c : FlashCmd) : List Byte :=
  let prp1 := flashBus s k c c.off
  let prp2 := if c.len ≤ 4096 then 0
    else if c.len ≤ 8192 then flashBus s k c (c.off + 4096)
    else (fq64 s k 12 + fq64 s k 9 + 4096 * slot) % 2 ^ 64
  bytesLE 4 ((if c.write then 1 else 2) + 65536 * slot) ++ bytesLE 4 (csrN s 0 (fq k 8)) ++ List.replicate 16 0 ++
    bytesLE 8 prp1 ++ bytesLE 8 prp2 ++ bytesLE 8 c.lba ++
    bytesLE 4 (c.len / fqBlock s k - 1 + if c.fua then 2 ^ 30 else 0) ++ List.replicate 12 0

/-- The PRP list of a command of more than two pages. -/
def prpList (s : State) (k : Nat) (c : FlashCmd) : List Byte :=
  (upTo (c.len / 4096 - 1)).flatMap fun i => bytesLE 8 (flashBus s k c (c.off + 4096 * (i + 1)))

/-- A command is submitted: its entry, its PRP list and the doorbell (R204). -/
def submit (s : State) (k : Nat) (c : FlashCmd) : State :=
  let f := flashOf s k
  let slot := f.tail
  let tail := (slot + 1) % (fqSize s k + 1)
  let c := { c with cid := slot }
  let s0 := if 8192 < c.len then fqPut s k (fq64 s k 9 + 4096 * slot) (prpList s k c) else s
  let s1 := fqPut s0 k (fq64 s k 0 + 64 * slot) (sqe s k slot c)
  { s1 with
    flash := put s1.flash k { f with tail := tail, out := f.out ++ [c], todo := f.todo.drop 1 }
    sent := s1.sent ++ [.pcie (fq64 s k 4) (bytesLE 4 tail)] }

/-- Whether the links to the place of a command's PRP list, where it has one, and of the next entry carry what is written (R204, R321). -/
def submitOpen (s : State) (k : Nat) (c : FlashCmd) : Bool :=
  let slot := (flashOf s k).tail
  (decide (c.len ≤ 8192) || fqOpen s k (fq64 s k 9 + 4096 * slot)) && fqOpen s k (fq64 s k 0 + 64 * slot)

/-- Commands are submitted while the submission queue is not full, as far as its head is known (R204), the slot's identifier is not in
use, and links lead to the queue (R321). -/
def pumpFlash (k : Nat) : Nat → State → State
  | 0, s => s
  | fuel + 1, s =>
    let f := flashOf s k
    match f.todo with
    | [] => s
    | c :: _ =>
      if (f.tail + 1) % (fqSize s k + 1) ≠ f.sqhead ∧ (f.out.any fun x => x.cid == f.tail) = false ∧ submitOpen s k c = true then
        pumpFlash k fuel (submit s k c)
      else s

/-- The commands of an operation join a pair's. -/
def addFlash (s : State) (k : Nat) (l : List FlashCmd) : State :=
  pumpFlash k (l.length + 1) { s with flash := put s.flash k { flashOf s k with todo := (flashOf s k).todo ++ l } }

/-- An operation with its commands starts. -/
def startFlash (s : State) (core e k : Nat) (write : Bool) (q : List Byte) (r : Range) (o : EngineOp) : State :=
  let s1 := setCore s core fun c => { c with copies := c.copies ++ [o] }
  addFlash s1 k (flashCmds s o core e (fqBlock s k) (fqMax s k) write (flFua q) r (flLen q / 4096 + 1) (flSlba q) 0 (flLen q))

/-- OFFL's checks and what it needs (R205, R206). -/
def offlPlan (x : Sel) (i : Instr) (h : Nat) (s : State) (_ : Block) (_ : Gang) (_ : Grid) (e : Nat) (q : List Byte) :
    Except Trap Plan :=
  let core := selCore x
  match flashBad s q false with
  | some o => .error (handleTrap x h o)
  | none =>
    if !fqMine s core (flQp q) then .error (fieldTrap x 0 12)
    else
      let r : Range := ⟨false, flAddr q, flLen q⟩
      .ok
        { ranges := [(r, false)], xl := [(r.first, r.len, false)], busy := false, reads := fun _ => none
          act := fun s pages =>
            let s1 := newInstance s core e fun y => { y with state := .draining, pf := true, remain := flLen q, range := some r }
            startFlash s1 core e (flQp q) true q r
              { instr := i, beam := x.key, block := x.beam.block, handle := some e, inst := (handleAt s1 core e).inst,
                params := q, args := [(selSup x).toNat], pages := pages, source := none, ready := true, data := [], err := none,
                written := [] } }

/-- OFFL (R206). -/
def effOffl (a : Src) (h : Nat) : Effect := fun x s => request a h 32 (offlPlan x (.offl a h) h) x s

/-- The OFFL that OFFH names, if it is still Draining: its core and entry (R207). -/
def offlNamed (s : State) (offh : Nat) : Option (Nat × Nat) :=
  let core := fld offh 13 8
  let e := fld offh 7 0
  if offh ≠ 0 ∧ core < 48 ∧ (handleAt s core e).inst = fld offh 63 48 ∧ (handleAt s core e).state = .draining ∧
      offlActive s core e = true then some (core, e)
  else none

/-- Whether a lock other than those of one operation overlaps a range that is to be written (R197). -/
def lockedByOther (s : State) (core oc oe : Nat) (d : Range) : Bool :=
  (coreOf s (lockCore core d)).locks.any fun l =>
    !(l.core == oc && l.entry == oe) && l.range.loc == d.loc && bytesMeet d.first d.len l.range.first l.range.len

/-- What a device-to-device recall of n bytes brings: its source range, and behind that, where LEN is the greater, bytes that R207 does not
state, each a free value (log 36). -/
def recallBytes (s : State) (core : Nat) (pages : NMap Nat) (r : Range) (n : Nat) : List Byte × Option EngineStop :=
  match pagesRead core true pages (r.len / 128 + 2) s r.first (Nat.min n r.len) with
  | .ok l => (l ++ (upTo (n - r.len)).map fun i => Config.recallByte s.fresh (r.len + i), none)
  | .error f => ([], some f)

/-- RECALL's checks and what it needs, in its three ways (R205, R207). -/
def recallPlan (x : Sel) (i : Instr) (h : Nat) (s : State) (bl : Block) (g : Gang) (gr : Grid) (e : Nat) (q : List Byte) :
    Except Trap Plan :=
  let core := selCore x
  match flashBad s q true with
  | some o => .error (handleTrap x h o)
  | none =>
    if !fqMine s core (flQp q) then .error (fieldTrap x 0 12)
    else
      match requestRange s bl g gr (flLoc q) (flAddr q) (flLen q) with
      | .error a => .error (fieldTrap x a 0)
      | .ok d =>
        let o := offlNamed s (flOffh q)
        let src := o.bind fun p => (handleAt s p.1 p.2).range
        let op : Nat → NMap Nat → EngineOp := fun inst pages =>
          { instr := i, beam := x.key, block := x.beam.block, handle := some e, inst := inst, params := q,
            args := [(selSup x).toNat], pages := pages, source := none, ready := true, data := [], err := none, written := [] }
        let fill := fun s => newInstance s core e fun y => { y with state := .filling, remain := flLen q, range := some d }
        let xl := if d.loc then [] else [(d.first, d.len, true)]
        let from_ := fun (s : State) (p : Nat × Nat) => ((opOf s p.1 p.2 (handleAt s p.1 p.2).inst).map fun y => y.pages).getD []
        match o, src with
        | some (oc, oe), some r =>
          if r = d then
            .ok
              { ranges := [], xl := xl, busy := lockedByOther s core oc oe d, reads := fun _ => none
                act := fun s _ =>
                  let s1 := setHandle s oc oe fun y => { y with pf := false }
                  handleMoved (newInstance s1 core e fun y => { y with state := .full, range := some d, wasFull := true }) }
          else
            .ok
              { ranges := [(d, true), (r, false)], xl := xl, busy := !pagesOpen s core (from_ s (oc, oe)), reads := fun _ => none
                act := fun s pages =>
                  let s1 := fill s
                  startEngine s1 core (op (handleAt s1 core e).inst pages) (recallBytes s1 core (from_ s1 (oc, oe)) r d.len) }
        | _, _ =>
          .ok
            { ranges := [(d, true)], xl := xl, busy := false, reads := fun _ => none
              act := fun s pages =>
                let s1 := fill s
                startFlash s1 core e (flQp q) false q d (op (handleAt s1 core e).inst pages) }

/-- RECALL (R207). -/
def effRecall (a : Src) (h : Nat) : Effect := fun x s => request a h 48 (recallPlan x (.recallCopy a h) h) x s

/-- An engine operation has ended: it is no longer the core's. -/
def dropOp (s : State) (core e inst : Nat) : State :=
  setCore s core fun c => { c with copies := c.copies.filter fun o => !(o.handle == some e && o.inst == inst) }

/-- An operation of a core, changed. -/
def setOp (s : State) (core e inst : Nat) (f : EngineOp → EngineOp) : State :=
  setCore s core fun c => { c with copies := c.copies.map fun o => if o.handle == some e && o.inst == inst then f o else o }

/-- COPY_COMPLETE: a copy, or a device-to-device recall, ends: what it has read is written, and its handle is Full (R195, R200,
R201); while no link leads to its destination it goes on (R321). -/
def execCopyComplete (core h inst : Nat) (s : State) : Host.Outcome State Fault Refusal :=
  .next (match opOf s core h inst with
    | none => s
    | some o =>
      if !pagesOpen s core o.pages then postFree s 0 (.copyComplete core h inst)
      else
        let d := (handleAt s core h).range.getD ⟨true, 0, 0⟩
        let s1 := readerDone (dropOp (rangeFinish s core o.pages d 0 o.written o.data) core h inst) core o.source (o.args.getD 1 0)
        match o.err with
        | none => fillDone s1 core h 0 0 0
        | some (c, va) => fillDone s1 core h c 0 (BitVec.ofNat 64 va))

/-! ## Flash contents (log 11) -/

/-- A byte of a namespace. -/
def flashGet (s : State) (k : Nat) : Byte := lookD s.flashMem k (Config.flashByte k)

/-- The place of byte i from a logical block on. -/
def flashPlace (s : State) (k lba i : Nat) : Nat := csrN s 0 (fq k 8) * 2 ^ 80 + (lba * fqBlock s k + i) % 2 ^ 80

/-- The controller has carried out a command: a Write has taken the range's bytes, a Read has brought the blocks', whether or not
the operation still goes on (R204). -/
def flashMove (s : State) (k : Nat) (c : FlashCmd) : State :=
  if c.write then
    { s with flashMem := ((c.data.getD []).foldl (fun (x : NMap Byte × Nat) b =>
        (put x.1 (flashPlace s k c.lba x.2) b, x.2 + 1)) (s.flashMem, 0)).1 }
  else rangeFinish s c.core c.pages c.range c.off c.written ((upTo c.len).map fun i => flashGet s (flashPlace s k c.lba i))

/-- A command of an operation has completed; the operation ends with its last command, or with the first that fails: the handle of an
OFFL is then Full, be it that it is still read (R195, R206). -/
def flashStep (s : State) (c : FlashCmd) (status : Nat) : State :=
  let core := c.core
  let e := c.entry
  if status = 0 then
    let s1 := setHandle s core e fun h => { h with remain := h.remain - c.len }
    if (handleAt s1 core e).remain ≠ 0 then s1
    else if c.write then settleDrain (dropLocks (dropOp s1 core e c.inst) core e) core e
    else fillDone (dropOp s1 core e c.inst) core e 0 0 0
  else
    let eva := BitVec.ofNat 64 (((handleAt s core e).range.map fun r => r.first).getD 0 + c.off)
    let s1 := { s with flash := s.flash.map fun f =>
      (f.1, { f.2 with todo := f.2.todo.filter fun t => !(t.core == core && t.entry == e && t.inst == c.inst) }) }
    if c.write then
      handleMoved (dropLocks (dropOp (setHandle s1 core e fun h =>
        { h with state := .full, pf := false, err := 0x0C, nvs := 2 * status, eva := eva }) core e c.inst) core e)
    else fillDone (dropOp s1 core e c.inst) core e 0x0C (2 * status) eva

/-- A completion entry, as the controller writes it: the submission queue's head and its number, the command, the phase tag and the
status (R204, log 11). -/
def cqe (s : State) (k cid sqhead status : Nat) (tag : Bool) : List Byte :=
  List.replicate 8 0 ++ bytesLE 4 (sqhead % 65536 + 65536 * csrN s 0 (fq k 7)) ++
    bytesLE 4 (cid % 65536 + 65536 * tag.toNat + 131072 * (status % 32768))

/-- The place of the completion queue's next entry. -/
def cqPlace (s : State) (k : Nat) : Nat := fq64 s k 2 + 16 * (flashOf s k).head

/-- A completion entry has been read: its command is out no more, the completion queue's head and the submission queue's move on,
and the CQ doorbell is written (R204). -/
def popEntry (s : State) (k : Nat) (e : List Byte) : State :=
  let f := flashOf s k
  let wrap := f.head == fqSize s k
  let head := if wrap then 0 else f.head + 1
  { s with
    flash := put s.flash k
      { f with out := f.out.filter (fun x => x.cid != leAt e 12 2), head := head, phase := if wrap then !f.phase else f.phase,
               sqhead := leAt e 8 2 % (fqSize s k + 1) }
    sent := s.sent ++ [.pcie (fq64 s k 4 + 4 * 2 ^ fld (csrN s 0 (fq k 6)) 31 28) (bytesLE 4 head)] }

/-- The status of a command by its completion entry: a Write whose bytes could not be read has failed (log 11). -/
def entryStatus (c : FlashCmd) (e : List Byte) : Nat :=
  if leAt e 12 4 / 131072 = 0 ∧ c.write = true ∧ c.data = none then 4 else leAt e 12 4 / 131072

/-- Takes the completion that an entry tells of: the command it names has been carried out or has failed (R204). -/
def takeCompletion (s : State) (k : Nat) (e : List Byte) : State :=
  let s1 := popEntry s k e
  match (flashOf s k).out.find? fun c => c.cid == leAt e 12 2 with
  | none => s1
  | some c =>
    let status := entryStatus c e
    let s2 := if status = 0 then flashMove s1 k c else s1
    let s3 := if (opOf s2 c.core c.entry c.inst).isSome then flashStep s2 c status else s2
    pumpFlash k (fqSize s3 k + 1) s3

/-- NVME_COMPLETION: the controller has written a completion entry behind those taken, for a command that is out; the device polls
it, and takes it by its phase tag, or sets ERR where it cannot be read (R203, R204). While no link leads to the queue's place the
completion comes later (R321, log 50). -/
def execNvmeCompletion (qp : Nat) (entry : Nat × Nat) (status : Nat) (s : State) : Host.Outcome State Fault Refusal :=
  .next (if (flashOf s qp).out.any fun c => c.cid == entry.1 then
      if !fqOpen s qp (cqPlace s qp) then post s 40 (.nvmeCompletion qp entry status) else
      let s1 := fqPut s qp (cqPlace s qp) (cqe s qp entry.1 entry.2 status (flashOf s qp).phase)
      if fillBad s1 (fqPart s1 qp) 0 (cqPlace s qp) then csrPut s1 0 (fq qp 11) (csrGet s1 0 (fq qp 11) ||| 4)
      else
        let e := homeRead s1 (fqPart s1 qp) (cqPlace s qp) 16
        if bit (leAt e 12 4) 16 = (flashOf s1 qp).phase then takeCompletion s1 qp e else s1
    else s)

/-! ## DECODE (R208-R211) -/

def dcSrc (q : List Byte) : Nat := bytesFld q 63 0
def dcSrcLen (q : List Byte) : Nat := bytesFld q 95 64
def dcDaddr (q : List Byte) : Nat := bytesFld q 191 128
def dcDstLen (q : List Byte) : Nat := bytesFld q 223 192
def dcW (q : List Byte) : Nat := bytesFld q 239 224
def dcH (q : List Byte) : Nat := bytesFld q 255 240
def dcT6 (q : List Byte) : Bool := bytesFld q 264 264 == 1
def dcPatch (q : List Byte) : Nat := [14, 16, 32].getD (bytesFld q 266 265) 14
def dcNl (q : List Byte) : Nat := bytesFld q 275 267
def dcE4m3 (q : List Byte) : Bool := bytesFld q 276 276 == 1
def dcLocal (q : List Byte) : Bool := bytesFld q 277 277 == 1
def dcBlk (q : List Byte) : Bool := bytesFld q 278 278 == 1
def dcBlankT (q : List Byte) : Nat := bytesFld q 286 279
def dcLsbf (q : List Byte) : Bool := bytesFld q 287 287 == 1

/-- The rules of a DECODE block (R209). -/
def decodeBad (q : List Byte) : Option Nat :=
  let side := fun v => if dcT6 q then v == 0 || decide (16384 < v) else v != 0
  firstBad [(bytesFld q 127 96 != 0, 12), (dcLocal q && bytesFld q 191 160 != 0, 16), (side (dcW q), 28), (side (dcH q), 30),
    (bytesFld q 263 256 != 0, 32), (bytesFld q 266 265 == 3, 33), (dcNl q == 0 || decide (256 < dcNl q), 33),
    (bytesFld q 511 288 != 0, 36)]

/-- DECODE's checks and what it needs. -/
def decodePlan (x : Sel) (i : Instr) (h : Nat) (s : State) (bl : Block) (g : Gang) (gr : Grid) (e : Nat) (q : List Byte) :
    Except Trap Plan :=
  let core := selCore x
  match decodeBad q with
  | some o => .error (handleTrap x h o)
  | none =>
    match requestRange s bl g gr (dcLocal q) (dcDaddr q) (dcDstLen q) with
    | .error a => .error (fieldTrap x a 16)
    | .ok d =>
      .ok
        { ranges := [(d, true), (⟨false, dcSrc q, dcSrcLen q⟩, false)]
          xl := if d.loc then [] else [(d.first, d.len, true)]
          busy := false
          reads := fun _ => none
          act := fun s pages =>
            let s1 := newInstance s core e fun y => { y with state := .filling, remain := 1, range := some d }
            let o : EngineOp :=
              { instr := i, beam := x.key, block := x.beam.block, handle := some e, inst := (handleAt s1 core e).inst,
                params := q, args := [(selSup x).toNat, core], pages := pages, source := none, ready := false, data := [],
                err := none, written := [] }
            let quarter := core / 12
            post { s1 with decodeQ := put s1.decodeQ quarter (lookD s1.decodeQ quarter [] ++ [o]) } 1 (.decodeStart quarter) }

/-- DECODE (R209). -/
def effDecode (a : Src) (h : Nat) : Effect := fun x s => request a h 64 (decodePlan x (.decode a h) h) x s

/-- A sample of a plane. -/
def planeAt (p : Nat × List Byte) (x y : Nat) : Nat := (p.2.getD (y * p.1 + x) 0).toNat

/-- Clamping to 0-255. -/
def clamp8 (x : Int) : Nat := if x < 0 then 0 else if 255 < x then 255 else x.toNat

/-- The channels of a pixel: one sample, or R, G, B from YCbCr (R208). -/
def pixel (m : Image) (t6 : Bool) (x y : Nat) : List Nat :=
  match m.planes with
  | [p] => if t6 then [if planeAt p x y = 0 then 255 else 0] else [planeAt p x y]
  | [py, pb, pr] =>
    let k := if m.halved then 2 else 1
    let yy : Int := (planeAt py x y : Nat)
    let cb : Int := (planeAt pb (x / k) (y / k) : Nat) - 128
    let cr : Int := (planeAt pr (x / k) (y / k) : Nat) - 128
    [clamp8 (yy + (91881 * cr + 32768) / 65536), clamp8 (yy - (22554 * cb + 46802 * cr + 32768) / 65536),
      clamp8 (yy + (116130 * cb + 32768) / 65536)]
  | _ => []

/-- Output size: columns and rows (R210). -/
def outSize (q : List Byte) (m : Image) : Nat × Nat :=
  let l := Nat.max m.w m.h
  let lo := dcNl q * dcPatch q
  let short := Nat.max 1 ((2 * Nat.min m.w m.h * lo + l) / (2 * l))
  if m.w ≥ m.h then (if m.w = m.h then (lo, lo) else (lo, short)) else (short, lo)

/-- Output sample (X, Y) of each channel (R210); a sample beyond the output is 255. -/
def outSample (m : Image) (t6 : Bool) (wo ho x y chans : Nat) : List Nat :=
  if wo ≤ x ∨ ho ≤ y then List.replicate chans 255
  else
    let i0 := x * m.w / wo
    let i1 := Nat.max (i0 + 1) ((x + 1) * m.w / wo)
    let k0 := y * m.h / ho
    let k1 := Nat.max (k0 + 1) ((y + 1) * m.h / ho)
    let n := (i1 - i0) * (k1 - k0)
    let px := (upTo (k1 - k0)).flatMap fun k => (upTo (i1 - i0)).map fun i => pixel m t6 (i0 + i) (k0 + k)
    (upTo chans).map fun c => (2 * sumOf (px.map fun p => p.getD c 0) + n) / (2 * n)

/-- An element of the output: s / 255 in BF16 or E4M3 (R210). -/
def outElem (e4 : Bool) (v : Nat) : List Byte :=
  let code := fun f => if v = 0 then 0 else (roundFrac f .rne true 0 false v 255 0).code
  if e4 then bytesLE 1 (code e4m3) else bytesLE 2 (code bf16)

/-- One patch record and whether it is blank (R210, R211). -/
def patchRecord (q : List Byte) (m : Image) (wo ho row col chans : Nat) : List Byte × Bool :=
  let p := dcPatch q
  let samples := (upTo (p * p)).map fun i => outSample m (dcT6 q) wo ho (col * p + i % p) (row * p + i / p) chans
  let all := samples.flatMap fun c => c
  let lo := all.foldl Nat.min 255
  let hi := all.foldl Nat.max 0
  let blank := dcBlk q && decide (hi - lo ≤ dcBlankT q)
  let padded := decide (wo < (col + 1) * p) || decide (ho < (row + 1) * p)
  let body := bytesLE 2 row ++ bytesLE 2 col ++ bytesLE 2 (blank.toNat + 2 * padded.toNat) ++ [0, 0] ++
    all.flatMap (outElem (dcE4m3 q))
  (body ++ List.replicate ((16 - body.length % 16) % 16) 0, blank)

/-- The header (R211). -/
def decodeHeader (status w h nc nr patches total blanks : Nat) : List Byte :=
  bytesLE 4 status ++ bytesLE 2 w ++ bytesLE 2 h ++ bytesLE 2 nc ++ bytesLE 2 nr ++ bytesLE 4 patches ++ bytesLE 4 total ++
    bytesLE 4 blanks ++ List.replicate 40 0

/-- The whole output of DECODE (R210, R211). -/
def decodeOutput (q : List Byte) (m : Image) : List Byte :=
  if m.status ≠ 0 ∨ m.w = 0 ∨ m.h = 0 then decodeHeader (if m.status = 0 then 2 else m.status) m.w m.h 0 0 0 64 0
  else
    let (wo, ho) := outSize q m
    let p := dcPatch q
    let nc := cdiv wo p
    let nr := cdiv ho p
    let chans := if m.planes.length = 1 then 1 else 3
    let rec_ := 8 + p * p * chans * (if dcE4m3 q then 1 else 2)
    let total := 64 + nc * nr * (cdiv rec_ 16 * 16)
    if dcDstLen q < total then decodeHeader 3 m.w m.h 0 0 0 64 0
    else
      let ps := (upTo (nr * nc)).map fun i => patchRecord q m wo ho (i / nc) (i % nc) chans
      decodeHeader 0 m.w m.h nc nr (nr * nc) total (ps.filter fun x => x.2).length ++ ps.flatMap fun x => x.1

/-- What a request's bytes decode to (R208). -/
def decodeImage (q : List Byte) (l : List Byte) : Image := if dcT6 q then decodeT6 (dcLsbf q) (dcW q) (dcH q) l else decodeJpeg l

/-- The decode of a request, whose source is read as it is decoded (R209): its output, or what the read has met where the decoder needs
more than could be read. -/
def decodeRun (s : State) (core : Nat) (o : EngineOp) : List Byte × Option EngineStop :=
  let q := o.params
  let r := engineUpTo core (o.args.headD 0 == 1) (dcSrcLen q / 128 + 2) s (dcSrc q) (dcSrcLen q)
  let m := decodeImage q r.1
  if m.status = ranOut ∧ r.2.isSome = true then ([], r.2)
  else ((decodeOutput q (if m.status = ranOut then { m with status := 2 } else m)).take (dcDstLen q), none)

/-- DECODE_START: the engine takes the oldest request of its quarter, and reads its source (R208, R278), once it has the walks and the
links that this needs (R143, R321). -/
def execDecodeStart (quarter : Nat) (s : State) : Host.Outcome State Fault Refusal :=
  .next (if lookD s.decoding quarter false then s
    else
      match lookD s.decodeQ quarter [] with
      | [] => s
      | o :: t =>
        let core := o.args.getD 1 0
        let r := decodeRun s core o
        let done := opRead o r.1 r.2
        let s1 := engineAsk s core (o.args.headD 0 == 1) r.2
        if done.ready then
          postFree { s1 with decodeQ := put s1.decodeQ quarter (done :: t), decoding := put s1.decoding quarter true } 0
            (.decodeComplete quarter)
        else postFree s1 0 (.decodeStart quarter))

/-- The output of a decode is written, the header last (R211, R212). -/
def decodeFinish (s : State) (core : Nat) (o : EngineOp) (d : Range) : State :=
  rangePut (rangeFinish s core o.pages d 64 o.written (o.data.drop 64)) core o.pages d 0 (o.data.take 64)

/-- DECODE_COMPLETE: the request at the head is done: its output is written, as far as there is room, and its handle is Full
(R211); the next one starts. -/
def execDecodeComplete (quarter : Nat) (s : State) : Host.Outcome State Fault Refusal :=
  .next (match lookD s.decodeQ quarter [] with
    | [] => { s with decoding := put s.decoding quarter false }
    | o :: t =>
      let core := o.args.getD 1 0
      let e := o.handle.getD 0
      if !pagesOpen s core o.pages then postFree s 0 (.decodeComplete quarter)
      else
        let s0 := { s with decodeQ := put s.decodeQ quarter t, decoding := put s.decoding quarter false }
        let d := (handleAt s0 core e).range.getD ⟨true, 0, 0⟩
        let s2 := match o.err with
          | some (c, va) => fillDone s0 core e c 0 (BitVec.ofNat 64 va)
          | none => fillDone (decodeFinish s0 core o d) core e 0 0 0
        post s2 1 (.decodeStart quarter))

/-! ## Bytes written before the end (R278) -/

/-- The copies of a core write some bytes of their destinations. -/
def earlyCopies (s : State) (core : Nat) : State :=
  (coreOf s core).copies.foldl (fun s o =>
    let e := o.handle.getD 0
    let r := writeEarly s core e o.pages ((handleAt s core e).range.getD ⟨true, 0, 0⟩) 0 o.written o.data
    setOp r.1 core e o.inst fun y => { y with written := r.2 }) s

/-- The decode under way in a quarter does, of its patch records (R212). -/
def earlyDecode (s : State) (quarter : Nat) : State :=
  match lookD s.decoding quarter false, lookD s.decodeQ quarter [] with
  | true, o :: t =>
    let core := o.args.getD 1 0
    let e := o.handle.getD 0
    let r := writeEarly s core e o.pages ((handleAt s core e).range.getD ⟨true, 0, 0⟩) 64 o.written (o.data.drop 64)
    { r.1 with decodeQ := put r.1.decodeQ quarter ({ o with written := r.2 } :: t) }
  | _, _ => s

/-- A Read that is out to the flash of a pair does. -/
def earlyRead (k : Nat) (s : State) (c : FlashCmd) : State :=
  if c.write then s
  else
    let r := writeEarly s c.core c.entry c.pages c.range c.off c.written ((upTo c.len).map fun i => flashGet s (flashPlace s k c.lba i))
    { r.1 with flash := alter r.1.flash k fun f => { f with out := f.out.map fun x => if x.cid = c.cid then { x with written := r.2 } else x } }

/-- The engines write what they please of their destinations in this clock (R278, log 36), and flash commands that had to wait for a link
are submitted (R321). -/
def engineWrites (s : State) : State :=
  let s1 := s.cores.foldl (fun s c => earlyCopies s c.1) s
  let s2 := (upTo 4).foldl earlyDecode s1
  let s3 := s2.flash.foldl (fun s f => f.2.out.foldl (earlyRead f.1) s) s2
  s3.flash.foldl (fun s f => if f.2.todo.isEmpty then s else pumpFlash f.1 (fqSize s f.1 + 1) s) s3

/-! ## Meanings -/

/-- The meaning of COPY (R198-R201). -/
def execCopy (a : Src) (h : Nat) (s : State) : Host.Outcome State Fault Refusal := issue 4 (effCopy a h) s
/-- The meaning of OFFL (R206). -/
def execOffl (a : Src) (h : Nat) (s : State) : Host.Outcome State Fault Refusal := issue 4 (effOffl a h) s
/-- The meaning of RECALL (R207). -/
def execRecall (a : Src) (h : Nat) (s : State) : Host.Outcome State Fault Refusal := issue 4 (effRecall a h) s
/-- The meaning of DECODE (R209). -/
def execDecode (a : Src) (h : Nat) (s : State) : Host.Outcome State Fault Refusal := issue 4 (effDecode a h) s
/-- The meaning of BFREE (R196). -/
def execBfree (h : Nat) (s : State) : Host.Outcome State Fault Refusal := issue 4 (effBfree h) s
/-- The meaning of BTEST (R196). -/
def execBtest (st : HState) (h pd : Nat) (s : State) : Host.Outcome State Fault Refusal := issue 4 (effBtest st h pd) s
/-- The meaning of BWAIT.free (R196). -/
def execBwaitFree (h : Nat) (s : State) : Host.Outcome State Fault Refusal := issue 4 (effBwaitFree h) s
/-- The meaning of BWAIT.full (R196). -/
def execBwaitFull (h : Nat) (s : State) : Host.Outcome State Fault Refusal := issue 4 (effBwaitFull h) s

end Sys2Proof.Machine
end

