-- ==== Sys2Proof/Machine/Formats.lean ====
section
/-!
DEFINITION. Format slots and operands (R20, R21, R42-R47, R216-R220), the sums of R58 and R59, the residue arithmetic of R45
and R46, and the converter (R49-R52, R56, R57, R232).
-/
namespace Sys2Proof.Machine

open Sys2Proof

/-! ## Format slot descriptors (R20, R21) -/

def fsEfmt (d : Nat) : Nat := fld d 3 0
def fsBlk (d : Nat) : Nat := fld d 5 4
def fsSfmt (d : Nat) : Nat := fld d 7 6
def fsSsrc (d : Nat) : Nat := fld d 9 8
def fsSreg (d : Nat) : Nat := fld d 12 10
def fsRnd (d : Nat) : Nat := fld d 15 13
def fsSat (d : Nat) : Nat := fld d 17 16
def fsHad (d : Nat) : Nat := fld d 19 18

/-- The descriptor of format slot k of a grid. -/
def fslotOf (g : Grid) (k : Nat) : Nat := (g.fslots.getD k 0).toNat

/-- A legal slot (R21). -/
def fsLegal (d : Nat) : Bool :=
  let e := fsEfmt d
  let plain := fsBlk d == 0 && fsSfmt d == 0 && fsSsrc d == 0 && fsHad d == 0
  let scaled := fsSsrc d == 1 || fsSsrc d == 2
  let b32 := fsBlk d == 2 && fsSfmt d == 0 && scaled && (fsHad d == 0 || fsHad d == 2)
  let b16 := fsBlk d == 1 && fsSfmt d == 1 && scaled && (fsHad d == 0 || fsHad d == 1)
  let shape := match e with
    | 0 | 1 | 2 | 7 | 8 => plain
    | 3 | 4 => plain || b32 || b16
    | 5 | 6 => b32 || b16
    | _ => false
  bit d 63 && fld d 62 20 == 0 && shape && decide (fsRnd d ≤ 4) && (fsSat d == 0 || (fsSat d == 1 && e == 4)) &&
    (fsSsrc d == 2 || fsSreg d == 0)

/-- Element width in bits (R216, R229). -/
def elemBits (e : Nat) : Nat :=
  match e with
  | 0 | 8 => 32
  | 1 | 2 => 16
  | 5 => 4
  | _ => 8

/-- n, the block size of a slot; 0 where it has no blocks (R43). -/
def blockOf_ (d : Nat) : Nat :=
  match fsBlk d with
  | 1 => 16
  | 2 => 32
  | _ => 0

/-- Whether MMA and SIG accept the elements of a slot (R220). -/
def fsOperand (d : Nat) : Bool := fsLegal d && [1, 3, 4, 5, 6, 7].contains (fsEfmt d)

/-- The kind of operand that must agree in a pair: BF16, RES3, or the FP8, FP4 and MX integer elements (R220). -/
def pairKind (d : Nat) : Nat := if fsEfmt d = 1 then 1 else if fsEfmt d = 7 then 7 else 0

/-- The rounding mode of a slot (R20). -/
def fsMode (d : Nat) : RMode :=
  match fsRnd d with
  | 0 => .rne
  | 1 => .rtz
  | 2 => .rdn
  | 3 => .rup
  | _ => .sr

/-- The floating format of a slot's elements. -/
def fsFmt (d : Nat) : Fmt :=
  match fsEfmt d with
  | 0 => fp32
  | 1 => bf16
  | 2 => fp16
  | 3 => e4m3
  | 4 => e5m2
  | _ => e2m1

/-! ## Element values (R43, R44) -/

/-- An integer as a value, in units of 2^e. -/
def intVal (c : Int) (e : Int) : FVal := .num (decide (c < 0)) c.natAbs e

/-- The value of an element's code, without its scale. -/
def elemVal (d : Nat) (code : Nat) : FVal :=
  match fsEfmt d with
  | 6 => intVal (sext 8 code) (-6)
  | 7 => intVal (sext 8 code) 0
  | 8 => intVal (sext 32 code) 0
  | _ => fmtVal (fsFmt d) code

/-- The value of a scale's code (R42). -/
def scaleVal (d : Nat) (code : Nat) : FVal :=
  if fsSfmt d = 1 then fmtVal e4m3 code
  else if code = 255 then .nan false
  else .num false 1 ((code : Int) - 127)

/-- Element k of a line's bytes (R44, R216). -/
def lineElem (w : Nat) (l : List Byte) (k : Nat) : Nat :=
  if w = 4 then (l.getD (k / 2) 0).toNat / (if k % 2 = 0 then 1 else 16) % 16 else leAt l (k * (w / 8)) (w / 8)

/-! ## The order of sums (R58, R59) -/

/-- The exact sum of some products: NaN, an infinity, or a number (R59). -/
def exactSum (ps : List FVal) : FVal :=
  let nan := ps.any isNan
  let infs := ps.filter fun p => match p with
    | .inf _ => true
    | .nan _ | .num _ _ _ => false
  if nan then .nan false
  else if infs.any isNeg && infs.any fun p => !isNeg p then .nan false
  else
    match infs with
    | p :: _ => p
    | [] =>
      let lo := ps.foldl (fun m p => match p with
        | .num _ _ e => if e < m then e else m
        | .nan _ | .inf _ => m) 0
      let t := ps.foldl (fun (a : Int) p => match p with
        | .num s m e => a + atExp s m e lo
        | .nan _ | .inf _ => a) 0
      if t = 0 then .num (!ps.isEmpty && ps.all fun p => match p with
          | .num s m _ => s && m == 0
          | .nan _ | .inf _ => false) 0 0
      else .num (decide (t < 0)) t.natAbs lo

/-- One value doubled (R58). -/
def doubled : FVal → FVal
  | .nan s => .nan s
  | .inf p => .inf p
  | .num p m e => .num p m (e + 1)

/-- acc + the rounded sum of one group (R59). -/
def addGroup (twice : Bool) (acc : Word) (a b : List FVal) : Word :=
  let s := exactSum ((a.zip b).map fun p => (mulVal p.1 p.2).1)
  let r := (fRound fp32 .rne false 0 (if twice then doubled s else s)).code
  BitVec.ofNat 32 (fAdd fp32 .rne 0 (fmtVal fp32 acc.toNat) (fmtVal fp32 r)).code

/-- The groups of two lines added in ascending order (R59). -/
def addGroups (twice : Bool) : Word → List (List FVal) → List (List FVal) → Word
  | acc, a :: s, b :: t => addGroups twice (addGroup twice acc a b) s t
  | acc, [], _ => acc
  | acc, _ :: _, [] => acc

/-- A list cut in pieces of n, at most `fuel` of them. -/
def chunks {α : Type} (n : Nat) : Nat → List α → List (List α)
  | 0, _ => []
  | fuel + 1, l => if l.isEmpty then [] else l.take n :: chunks n fuel (l.drop n)

/-! ## Residues (R45-R47) -/

/-- The residue word of a triple (R47). -/
def residueWord (r255 r256 r257 : Nat) : Word := BitVec.ofNat 32 (r257 * 2 ^ 16 + r256 * 2 ^ 8 + r255)

/-- x mod m, from 0 to m - 1. -/
def modOf (x : Int) (m : Nat) : Nat := (x % (m : Int)).toNat

/-- A product added into a triple (R45). -/
def addResidue (r : Word) (p : Int) : Word :=
  residueWord (modOf ((fld r.toNat 7 0 : Nat) + p) 255) (modOf ((fld r.toNat 15 8 : Nat) + p) 256)
    (modOf ((fld r.toNat 24 16 : Nat) + p) 257)

/-- The fold of one element (R46). -/
def foldElem (e : Word × Word) : Word × Word :=
  let r := e.2.toNat
  let x := (fld r 7 0 * 8421376 + fld r 15 8 * 16711425 + fld r 24 16 * 8421120) % 16776960
  let v : Int := if 8388480 ≤ x then (x : Int) - 16776960 else x
  (e.1 + wordOf v, 0)

/-! ## Slots (R213) -/

/-- A slot after block start. -/
def Slot.zero : Slot := ⟨.clear, 0, []⟩

/-- An element that is listed. -/
def elemListed (e : Nat × Word × Word) : Bool := e.2.1 != 0 || e.2.2 != 0

/-- Every element folded, KCNT 0 (R45, R214). -/
def foldSlot (s : Slot) : Slot :=
  match s.mode with
  | .res3 => { s with kcnt := 0, elems := (s.elems.map fun e => (e.1, foldElem e.2)).filter elemListed }
  | .clear | .fp32 => s

/-- The columns below n of rows 0 to 127 replaced by f (i, j) of their old elements. -/
def mapElems (n : Nat) (f : Nat → Nat → Word × Word → Word × Word) (old : NMap (Word × Word)) : NMap (Word × Word) :=
  (upTo 128).flatMap fun i =>
    let row := old.filter fun e => e.1 / 256 == i
    ((upTo n).map fun j => (256 * i + j, f i j (lookD row (256 * i + j) (0, 0)))).filter elemListed ++
      row.filter fun e => decide (n ≤ e.1 % 256)

/-- The modes before a MMA adds (R214, R223). -/
def openSlot (s : Slot) (zero : Bool) (mode : SlotMode) : Slot :=
  if zero || s.mode == .clear then ⟨mode, 0, []⟩ else s

/-- A MMA of float operands: the groups of every row and column (R59). -/
def addFloat (s : Slot) (n : Nat) (twice : Bool) (rows cols : List (List (List FVal))) : Slot :=
  { s with elems := mapElems n (fun i j e => (addGroups twice e.1 (rows.getD i []) (cols.getD j []), e.2)) s.elems }

/-- Adds the products of a stretch of K into every triple. -/
def addStretch (n : Nat) (rows cols : List (List Int)) (old : NMap (Word × Word)) : NMap (Word × Word) :=
  mapElems n (fun i j e =>
    (e.1, ((rows.getD i []).zip (cols.getD j [])).foldl (fun r p => addResidue r (p.1 * p.2)) e.2)) old

/-- A MMA of RES3 operands over K elements: KCNT counts them, and every element is folded when it reaches 256 (R45, R223). -/
def addRes3 (n : Nat) : Nat → Nat → List (List Int) → List (List Int) → Slot → Slot
  | 0, _, _, _, s => s
  | fuel + 1, k, rows, cols, s =>
    if k = 0 then s
    else
      let m := Nat.min k (256 - s.kcnt)
      let e := addStretch n (rows.map fun r => r.take m) (cols.map fun r => r.take m) s.elems
      let s1 : Slot := { s with kcnt := s.kcnt + m, elems := e }
      addRes3 n fuel (k - m) (rows.map fun r => r.drop m) (cols.map fun r => r.drop m) (if s1.kcnt = 256 then foldSlot s1 else s1)

/-! ## The converter (R56, R57, R232) -/

/-- y x 2^sexp, exact. -/
def scaledBy (sexp : Int) : FVal → FVal
  | .nan s => .nan s
  | .inf p => .inf p
  | .num p m e => .num p m (e + sexp)

/-- Whether a value is finite. -/
def isFinite : FVal → Bool
  | .num _ _ _ => true
  | .nan _ | .inf _ => false

/-- An exact sum with the sign that R48 gives its zero. -/
def signedSum (mode : RMode) (ps : List FVal) : FVal :=
  match exactSum ps with
  | .num p m e =>
    if m = 0 then .num (match ps with
      | [] => false
      | q :: t => if t.all fun x => isNeg x == isNeg q then isNeg q else mode == .rdn) 0 0
    else .num p m e
  | v => v

/-- The Hadamard transform of a block (R57): n is 16 or 32. -/
def hadamard (mode : RMode) (n : Nat) (x : List FVal) : List FVal :=
  (upTo n).map fun i =>
    scaledBy (if n = 16 then -2 else -3)
      (signedSum mode ((upTo n).map fun j => let v := x.getD j (.num false 0 0); if parity 6 (i &&& j) then fNegVal v else v))

/-- A magnitude of some values, in units of 2^lo; the greatest. -/
def amaxAt (lo : Int) (y : List FVal) : Nat :=
  y.foldl (fun m v => match v with
    | .num _ k e => Nat.max m (k * 2 ^ (e - lo).toNat)
    | .nan _ | .inf _ => m) 0

/-- The least exponent of some values. -/
def leastExp (y : List FVal) : Int :=
  y.foldl (fun m v => match v with
    | .num _ _ e => if e < m then e else m
    | .nan _ | .inf _ => m) 0

/-- The largest exponent of an element, and its largest finite value as a fraction (R43, R56). -/
def elemEmax (d : Nat) : Int :=
  match fsEfmt d with
  | 3 => 8
  | 4 => 15
  | 5 => 2
  | _ => 0
def elemMax (d : Nat) : Nat × Nat :=
  match fsEfmt d with
  | 3 => (448, 1)
  | 4 => (57344, 1)
  | 5 => (6, 1)
  | _ => (127, 64)

/-- The shared scale of a block (R56): its code, and its value m 2^e where elements are to be divided by it. -/
def sharedScale (d : Nat) (y : List FVal) : Nat × Option (Nat × Int) :=
  let lo := leastExp y
  let a := amaxAt lo y
  if y.any (fun v => !isFinite v) then (if fsSfmt d = 1 then 0x7F else 0xFF, none)
  else if a = 0 then (0, none)
  else if fsSfmt d = 1 then
    let m := elemMax d
    let c := (roundFrac e4m3 .rne true 0 false (a * m.2) m.1 lo).code
    let c := if c = 0 then 1 else c
    match fmtVal e4m3 c with
    | .num _ k e => (c, some (k, e))
    | .nan _ | .inf _ => (c, none)
  else
    let x := (Nat.log2 a : Int) + lo - elemEmax d
    let x := if x < -127 then -127 else if 127 < x then 127 else x
    ((x + 127).toNat, some (1, x))

/-- A magnitude num / den 2^e rounded to an integer, u the random word of SR (R48, R49). -/
def roundFracNat (mode : RMode) (neg : Bool) (num den : Nat) (e : Int) (u : Nat) : Nat :=
  let n := if 0 ≤ e then num * 2 ^ e.toNat else num
  let d := if 0 ≤ e then den else den * 2 ^ (-e).toNat
  if roundsUp mode neg (n / d) (n % d) d u then n / d + 1 else n / d

/-- An integer code: rounded, and clamped between lo and hi (R51, R52). -/
def intCode (d : Nat) (lo hi : Int) (bits : Nat) (den : Nat) (v : FVal) (u : Nat) : Nat :=
  let clamp := fun (x : Int) => if x < lo then lo else if hi < x then hi else x
  let x : Int := match v with
    | .nan _ => 0
    | .inf p => if p then lo else hi
    | .num p m e => let n := roundFracNat (fsMode d) p m den e u; clamp (if p then -(n : Int) else n)
  (x % 2 ^ bits).toNat

/-- quantise of R232: v divided by den, u the random word of SR. -/
def quantise (d : Nat) (v : FVal) (den : Nat) (u : Nat) : Nat :=
  match fsEfmt d with
  | 6 => intCode d (-127) 127 8 den (scaledBy 6 v) u
  | 7 => intCode d (-128) 127 8 den v u
  | 8 => intCode d (-2147483648) 2147483647 32 den v u
  | _ =>
    let f := fsFmt d
    let sat := match fsEfmt d with
      | 3 | 5 => true
      | 4 => fsSat d == 0
      | _ => false
    match v with
    | .nan _ => nanCode f
    | .inf p => if sat then signed f p f.maxCode else signed f p (f.infCode.getD f.maxCode)
    | .num p m e => if m = 0 then signed f p 0 else (roundFrac f (fsMode d) sat u p m den e).code

/-- The random word of element (r, j) of a converted tile (R50). -/
def convWord (seed k1 r j : Nat) : Nat := randMix seed k1 ((2 ^ 62 ||| (r * 2 ^ 16)) ||| j)

/-- A block's codes and scale, its first column c0 (R56, R232). -/
def convertBlock (d : Nat) (seed k1 r c0 : Nat) (y : List FVal) : List Nat × Nat :=
  let n := blockOf_ d
  let y := if fsHad d ≠ 0 then hadamard (fsMode d) n y else y
  match sharedScale d y with
  | (c, none) => (List.replicate n 0, c)
  | (c, some (m, e)) =>
    ((upTo n).map fun j => quantise d (scaledBy (-e) (y.getD j (.num false 0 0))) m (convWord seed k1 r (c0 + j)), c)

/-- convert_row of R232: codes and scale codes. -/
def convertRow (d : Nat) (seed : Nat) (sexp : Int) (k1 r : Nat) (x : List FVal) : List Nat × List Nat :=
  let y := x.map (scaledBy sexp)
  if fsBlk d = 0 then ((upTo y.length).map fun j => quantise d (y.getD j (.num false 0 0)) 1 (convWord seed k1 r j), [])
  else
    let n := blockOf_ d
    let bs := (upTo (y.length / n)).map fun b => convertBlock d seed k1 r (b * n) (sliceVals n (b * n) y)
    (bs.flatMap fun p => p.1, bs.map fun p => p.2)
where
  /-- n values from the i-th on -/
  sliceVals (n i : Nat) (y : List FVal) : List FVal := (y.drop i).take n

/-- Codes packed into bytes (R44). -/
def packCodes (w : Nat) : List Nat → List Byte
  | [] => []
  | a :: t =>
    if w = 4 then
      match t with
      | [] => [BitVec.ofNat 8 a]
      | b :: t => BitVec.ofNat 8 (a + 16 * b) :: packCodes w t
    else bytesLE (w / 8) a ++ packCodes w t

/-- The bytes of a converted row and of its scales (R229). -/
def rowBytes (d : Nat) (r : List Nat × List Nat) : List Byte × List Byte :=
  (packCodes (elemBits (fsEfmt d)) r.1, r.2.map fun c => BitVec.ofNat 8 c)

/-- Bytes of a row of c columns in a slot's format (R229). -/
def rowSize (d c : Nat) : Nat := c * elemBits (fsEfmt d) / 8 + if fsSsrc d = 1 then c / blockOf_ d else 0

end Sys2Proof.Machine
end

