-- ==== Sys2Proof/Machine/Matrix.lean ====
section
/-!
DEFINITION. The matrix engine (R213-R234, R239, R241): MMA and MMA.sig, ALOAD, ACVT, ACLR, QCVT and SCBS, and the events
MATRIX_QUEUE_DISPATCH and MMA_OPERATION_COMPLETE. Opcodes 0x68-0x6A.
-/
namespace Sys2Proof.Machine

open Sys2Proof

/-! ## Checks of blocks -/

/-- A check of a block: whether it fails, the trap's code, OFFS and REG. -/
structure Chk where
  bad : Bool
  code : Nat
  offs : Nat
  reg : Nat
  deriving DecidableEq, Repr

/-- The first check that fails. -/
def firstChk : List Chk → Option Chk
  | [] => none
  | c :: t => if c.bad then some c else firstChk t

/-- The trap of a failed check (R291). -/
def chkTrap (x : Sel) (lane : Nat) (c : Chk) : Trap := { trapOf x c.code with lane := lane, reg := c.reg, offs := c.offs }

/-- ProtectionFault of a range that a block names (R138, R291). -/
def rangeTrap (x : Sel) (lane adr offs : Nat) : Trap :=
  { trapOf x 0x08 with lane := lane, addr := BitVec.ofNat 64 adr, offs := offs }

/-- Whether two ranges share a byte. -/
def rangesMeet (a b : Range) : Bool :=
  a.loc == b.loc && bytesMeet a.first a.len b.first b.len

/-! ## Operands (R216-R218) -/

def ohAddr (h : Nat) : Nat := fld h 63 0
def ohLand (h : Nat) : Nat := fld h 95 64
def ohPitch (h : Nat) : Nat := 16 * fld h 115 96
def ohSrc (h : Nat) : Nat := fld h 117 116
def ohFsl (h : Nat) : Nat := fld h 120 118
def ohTr (h : Nat) : Bool := bit h 121
def ohHt (h : Nat) : Bool := bit h 122
def ohMcast (h : Nat) : Nat := fld h 127 124

/-- An operand as the engine reads it. -/
structure Tile where
  /-- its slot's descriptor -/
  d : Nat
  tr : Bool
  src : Nat
  lines : Nat
  /-- LB, and the bytes of a line that are read -/
  lb : Nat
  len : Nat
  pitch : Nat
  addr : Nat
  land : Nat
  /-- rows and K -/
  rows : Nat
  k : Nat
  deriving DecidableEq, Repr

/-- The operand that a header names: `rows` of the `full` rows or columns are read (R216, R241). -/
def tileOf (g : Grid) (h rows full k : Nat) : Tile :=
  let d := fslotOf g (ohFsl h)
  let w := elemBits (fsEfmt d)
  let tr := ohTr h
  let lb := if tr then full * w / 8 else k * w / 8 + if fsSsrc d = 1 then k / blockOf_ d else 0
  { d := d, tr := tr, src := ohSrc h, lines := if tr then k else rows, lb := lb, len := if tr then rows * w / 8 else lb,
    pitch := ohPitch h, addr := ohAddr h, land := ohLand h, rows := rows, k := k }

/-- LP (R218), of a whole line: R241 takes less of each line of an MMA.sig with TR = 1, and does not say that its landing lines, or the
least pitch, shrink with it. DESIGN CHOICE (log 37). -/
def tileLp (t : Tile) : Nat := cdiv t.lb 16 * 16

/-- Bytes of the operand's extent, and of its landing area (R216, R218). -/
def tileExtent (t : Tile) : Nat := (t.lines - 1) * t.pitch + t.len
def landExtent (t : Tile) : Nat := (t.lines - 1) * tileLp t + t.len

/-- The checks of a header at byte o of a block (R217, R218, R220): `code` for its field errors. Each field by itself, in the
order of their bytes, comes before the pitch that the others call for (DESIGN CHOICE, log 20). -/
def headerChecks (gr : Grid) (g : Gang) (o h code reg : Nat) (t : Tile) : List Chk :=
  let d := t.d
  let ok := fsOperand d
  let src := ohSrc h
  let mc := ohMcast h
  [⟨src != 2 && decide (2 ^ 32 ≤ ohAddr h), code, o, reg⟩,
    ⟨(src == 0 && bit (ohAddr h) 24) || (src == 1 && !bit (ohAddr h) 24), code, o, reg⟩,
    ⟨if src = 2 then ohLand h % 16 != 0 || bit (ohLand h) 24 else ohLand h != 0, code, o + 8, reg⟩,
    ⟨t.pitch == 0, code, o + 12, reg⟩,
    ⟨src == 3, code, o + 14, reg⟩,
    ⟨!ok, 0x12, o + 14, ohFsl h⟩,
    ⟨ohTr h && fsBlk d != 0, code, o + 15, reg⟩,
    ⟨ohHt h != (fsHad d != 0), code, o + 15, reg⟩,
    ⟨bit h 123, code, o + 15, reg⟩,
    ⟨if src = 1 then (bitsOf 4 mc).any (fun c => decide (c < g.c0) || decide (g.c0 + gr.nblk ≤ c)) else mc != 0, code, o + 15,
      reg⟩,
    ⟨ok && decide (t.pitch < t.lb), code, o + 12, reg⟩]

/-! ## The SIG record (R239) -/

def recNb (r : List Byte) : Nat := leAt r 256 4
def recMap (r : List Byte) (i : Nat) : Nat := (r.getD i 0).toNat
def recRow (r : List Byte) (b : Nat) : Nat := (r.getD (128 + b) 0).toNat
def recRule (r : List Byte) : Nat := (r.getD 260 0).toNat
def recW (r : List Byte) : Nat := (r.getD 261 0).toNat

/-- A valid record (R239). -/
def recValid (r : List Byte) : Bool :=
  let nb := recNb r
  decide (1 ≤ nb) && decide (nb ≤ 128) && (upTo 128).all (fun i => decide (recMap r i < nb)) &&
    (upTo nb).all (fun b => decide (recRow r b < 128) && recMap r (recRow r b) == b) && decide (recRule r ≤ 2) &&
    decide (recW r ≤ 16) && leAt r 262 10 == 0

/-! ## The MMA parameter block (R221) -/

def mmSlot (p : List Byte) : Nat := bytesFld p 4 0
def mmN (p : List Byte) : Nat := [64, 128, 256].getD (bytesFld p 9 8) 64
def mmK (p : List Byte) : Nat := 32 * bytesFld p 23 16
def mmZero (p : List Byte) : Bool := bytesFld p 24 24 == 1
def mmOpa (p : List Byte) : Nat := bytesFld p 191 64
def mmOpb (p : List Byte) : Nat := bytesFld p 319 192
def mmRec (p : List Byte) : Nat := bytesFld p 351 320

/-- The operand A of a block, of which `rows` rows are read, and the operand B. -/
def mmTileA (gr : Grid) (p : List Byte) (rows : Nat) : Tile := tileOf gr (mmOpa p) rows 128 (mmK p)
def mmTileB (gr : Grid) (p : List Byte) : Tile := tileOf gr (mmOpb p) (mmN p) (mmN p) (mmK p)

/-- The mode of a pair (R220). -/
def pairMode (t : Tile) : SlotMode := if fsEfmt t.d = 7 then .res3 else .fp32

/-- Group size (R59, R220). -/
def groupSize (a b : Tile) : Nat := if fsBlk a.d = 1 ∨ fsBlk b.d = 1 then 16 else 32

/-- The checks of a parameter block (R214, R217, R220, R221, R241), in order of its fields, then the pair, then the mode that
the slot will hold, whose refusal names byte 0, the SLOT field: R214 names none. DESIGN CHOICE (log 20). -/
def mmChecks (gr : Grid) (g : Gang) (sig : Bool) (mode : SlotMode) (p : List Byte) : List Chk :=
  let r := mmSlot p
  let a := mmTileA gr p 128
  let b := mmTileB gr p
  let kq := bytesFld p 23 16
  [⟨decide (gr.accs ≤ r), 0x13, 0, r⟩, ⟨bytesFld p 7 5 != 0, 0x13, 0, r⟩, ⟨bytesFld p 9 8 == 3, 0x13, 1, r⟩,
    ⟨bytesFld p 15 10 != 0, 0x13, 1, r⟩, ⟨kq == 0 || decide (128 < kq), 0x13, 2, r⟩, ⟨bytesFld p 63 25 != 0, 0x13, 3, r⟩] ++
  headerChecks gr g 8 (mmOpa p) 0x13 r a ++ headerChecks gr g 24 (mmOpb p) 0x13 r b ++
  [⟨if sig then mmRec p % 16 != 0 else bytesFld p 383 320 != 0, 0x13, 40, r⟩, ⟨bytesFld p 383 352 != 0, 0x13, 44, r⟩,
    ⟨bytesFld p 511 384 != 0, 0x13, 48, r⟩, ⟨pairKind a.d != pairKind b.d, 0x13, 38, r⟩,
    ⟨fsHad a.d != fsHad b.d, 0x13, 38, r⟩,
    ⟨!mmZero p && (match mode with
      | .clear => false
      | .fp32 => pairMode a == .res3
      | .res3 => pairMode a == .fp32), 0x13, 0, r⟩]

/-! ## The matrix queue (R215) -/

/-- What an operation holds in its numbers: its core slot, and the mode it leaves there (3: none). -/
def opSlot (o : EngineOp) : Nat := o.args.getD 1 255
def opMode (o : EngineOp) : Nat := o.args.getD 2 3

/-- The code of a mode, and back. -/
def modeCode : SlotMode → Nat
  | .clear => 0
  | .fp32 => 1
  | .res3 => 2
def modeOf : Nat → SlotMode
  | 0 => .clear
  | 1 => .fp32
  | _ => .res3

/-- The mode that a core slot will hold once some operations have been applied (R215). -/
def modeAfter (m : SlotMode) (slot : Nat) (l : List EngineOp) : SlotMode :=
  l.foldl (fun m o => if opSlot o = slot ∧ opMode o < 3 then modeOf (opMode o) else m) m

/-- An accumulator slot of a core. -/
def slotAt (s : State) (core i : Nat) : Slot := lookD (coreOf s core).slots i Slot.zero

/-- Puts a slot. -/
def setSlot (s : State) (core i : Nat) (v : Slot) : State := setCore s core fun c => { c with slots := put c.slots i v }

/-- The operations of a core in their order. -/
def matrixOps (s : State) (core : Nat) : List EngineOp :=
  (match (coreOf s core).matrixOp with
  | some o => [o]
  | none => []) ++ (coreOf s core).matrixQ

/-- The mode a core slot will hold after the whole queue. -/
def modeAhead (s : State) (core slot : Nat) : SlotMode := modeAfter (slotAt s core slot).mode slot (matrixOps s core)

/-- The owner under which an operation's own locks stand: above the table entries. -/
def opOwner (id : Nat) : Nat := 256 + id

/-- Room for k operations. -/
def matrixRoom (s : State) (core k : Nat) : Bool := decide ((coreOf s core).matrixQ.length + k ≤ 16)

/-- Operations enter the queue, and the engine looks at it. -/
def enterMatrix (s : State) (core : Nat) (l : List EngineOp) : State :=
  post (setCore s core fun c => { c with matrixQ := c.matrixQ ++ l }) 0 (.matrixQueueDispatch core)

/-- Puts a step on the agenda, due at a free time that is not before `least` clocks. -/
def postFrom (s : State) (least : Nat) (i : Instr) : State := draw (post s (Nat.max 1 least + drawn s 0) i)

/-! ## Issue of MMA (R222, R241) -/

/-- One lane's operation, checked. -/
structure MLane where
  lane : Nat
  p : List Byte
  rec_ : List Byte
  a : Tile
  b : Tile
  /-- core slot -/
  slot : Nat
  /-- where the operands stand for the engine: local targets -/
  atA : Nat
  atB : Nat
  /-- the translations of its global tiles, or what stopped them -/
  pages : NMap Nat
  stop : Option PageStop
  deriving DecidableEq, Repr

/-- Whether a lane's translations park it: its operation does not enter (R222). -/
def laneParks (m : MLane) : Bool :=
  match m.stop with
  | some (.park _ _ _) => true
  | some (.refuse _) | some (.bad _) | some (.walk _ _) | some .shut | none => false

/-- Where an operand stands in local memory, the field of the header that says so, and its extent. -/
def tilePlace (s : State) (bl : Block) (g : Gang) (gr : Grid) (o : Nat) (t : Tile) : Except (Nat × Nat) Nat :=
  if t.src = 2 then
    match localPlace s bl g gr t.land (landExtent t) with
    | some x => .ok x
    | none => .error (t.land, o + 8)
  else
    match localPlace s bl g gr t.addr (tileExtent t) with
    | some x => .ok x
    | none => .error (t.addr, o)

/-- What the checks of one lane answer. -/
inductive LaneCheck where
  | ok (m : MLane)
  | trap (t : Trap)
  | wait
  /-- a walk is needed first, for this address (R143) -/
  | walk (va : Nat)
  deriving DecidableEq, Repr

/-- What keeps the mode that a slot will hold from being known: an earlier lane of the run may yet park (R215). -/
def modeUnsure (slot : Nat) (ahead : List MLane) : Option LaneCheck :=
  firstSome (fun y => if y.slot ≠ slot then none
    else
      match y.stop with
      | some (.walk va _) => some (.walk va)
      | some .shut => some .wait
      | some (.park _ _ _) | some (.refuse _) | some (.bad _) | none => none) ahead

/-- One lane's checks (R222, R241); `ahead`: the run's earlier lanes, of which those that are parked enter no operation
(R215). -/
def mmLane (x : Sel) (s : State) (bl : Block) (g : Gang) (gr : Grid) (a : Src) (sig : Bool) (ahead : List MLane) (lane : Nat) :
    LaneCheck :=
  let adr := (laneReg (laneOf x.beam lane) a.r).toNat
  if adr % 16 ≠ 0 then .trap (laneTrap x 0x06 lane (BitVec.ofNat 64 adr) [])
  else
    match localPlace s bl g gr adr 64 with
    | none => .trap (laneTrap x 0x08 lane (BitVec.ofNat 64 adr) [])
    | some t0 =>
      let p := localBytes s t0 64
      let slot := bl.slots.getD (mmSlot p) 255
      let mode := ahead.foldl (fun m y => if y.slot = slot ∧ laneParks y = false then pairMode y.a else m)
        (modeAhead s (selCore x) slot)
      match firstChk (mmChecks gr g sig .clear p), firstChk (mmChecks gr g sig mode p) with
      | some c, _ => .trap (chkTrap x lane c)
      | none, some c => (modeUnsure slot ahead).getD (.trap (chkTrap x lane c))
      | none, none =>
        let rec_ := if sig then localPlace s bl g gr (mmRec p) 272 else some 0
        match rec_ with
        | none => .trap (rangeTrap x lane (mmRec p) 40)
        | some tr =>
          if sig && (lockHit s (tr / 4194304) true tr 272 false).isSome then .wait
          else
            let r := if sig then localBytes s tr 272 else []
            if sig && !recValid r then .trap { trapOf x 0x16 with lane := lane, reg := mmSlot p, offs := 40 }
            else
              let ta := mmTileA gr p (if sig then recNb r else 128)
              let tb := mmTileB gr p
              match tilePlace s bl g gr 8 ta, tilePlace s bl g gr 24 tb with
              | .ok xa, .ok xb => .ok ⟨lane, p, r, ta, tb, slot, xa, xb, [], none⟩
              | .error e, _ => .trap (rangeTrap x lane e.1 e.2)
              | .ok _, .error e => .trap (rangeTrap x lane e.1 e.2)

/-- The global pages of an operand: its whole extent (R218). -/
def tilePages (t : Tile) : List (Nat × Nat × Bool) := if t.src = 2 then [(t.addr, tileExtent t, false)] else []

/-- Translates the global tiles of a lane, or keeps what stops it (R222). -/
def mmXlate (x : Sel) (s : State) (m : MLane) : MLane :=
  match planPages (selCore x) (selSup x) x.beam.told s (tilePages m.a ++ tilePages m.b) [] with
  | .ok pages => { m with pages := pages }
  | .error e => { m with stop := some e }

/-- The lanes of a run, checked in ascending order, or what the first that gives none has met; what stops a lane's translation is kept
with it, since the checks of those behind it ask whether it enters (R215), and counts once all are checked (R222). -/
def mmLanes (x : Sel) (s : State) (bl : Block) (g : Gang) (gr : Grid) (a : Src) (sig : Bool) :
    List Nat → List MLane → Except LaneCheck (List MLane)
  | [], acc => .ok acc
  | i :: t, acc =>
    match mmLane x s bl g gr a sig acc i with
    | .ok m => mmLanes x s bl g gr a sig t (acc ++ [mmXlate x s m])
    | e => .error e

/-- The locks of one operand (R218, R222). -/
def tileLocks (t : Tile) (at_ : Nat) : List (Range × Bool) :=
  if t.src = 2 then [(⟨false, t.addr, tileExtent t⟩, false), (⟨true, at_, landExtent t⟩, true)]
  else [(⟨true, at_, tileExtent t⟩, false)]

/-- The locks of an operation. -/
def mmLocks (m : MLane) : List (Range × Bool) := tileLocks m.a m.atA ++ tileLocks m.b m.atB

/-- The landing areas of some lanes, and their local sources: lane, field and range. -/
def mmLandings (ms : List MLane) : List (Nat × Nat × Nat × Range) :=
  ms.flatMap fun m =>
    (if m.a.src = 2 then [(m.lane, 16, mmSlot m.p, ⟨true, m.atA, landExtent m.a⟩)] else []) ++
      (if m.b.src = 2 then [(m.lane, 32, mmSlot m.p, ⟨true, m.atB, landExtent m.b⟩)] else [])
def mmLocals (ms : List MLane) : List Range :=
  ms.flatMap fun m => (mmLocks m).filterMap fun r => if r.1.loc && !r.2 then some r.1 else none

/-- The first landing area that meets an earlier one or a local source of the run (R222). -/
def landingClash (locals : List Range) : List Range → List (Nat × Nat × Nat × Range) → Option (Nat × Nat × Nat × Range)
  | _, [] => none
  | seen, l :: t =>
    if (seen ++ locals).any (rangesMeet l.2.2.2) then some l else landingClash locals (l.2.2.2 :: seen) t

/-- The lanes that translation parks, with their fault records (R90, R222). -/
def mmParked (ms : List MLane) : List (Nat × QWord) :=
  ms.filterMap fun m =>
    match m.stop with
    | some (.park va f k) => some (m.lane, faultRec (BitVec.ofNat 64 va) f k)
    | some (.refuse _) | some (.bad _) | some (.walk _ _) | some .shut | none => none

/-- The first lane whose translation ends or holds the issue, and how: a page that no global tile may lie on (R218), a table that cannot
be read (R152), a walk or a closed link. -/
def mmStopped : List MLane → Option (Nat × PageStop)
  | [] => none
  | m :: t =>
    match m.stop with
    | some (.park _ _ _) | none => mmStopped t
    | some e => some (m.lane, e)

/-- The walks that the lanes of a run need: they are made at the same time (R143). -/
def mmWalks (ms : List MLane) : List Nat :=
  ms.filterMap fun m => match m.stop with
    | some (.walk va _) => some va
    | some (.park _ _ _) | some (.refuse _) | some (.bad _) | some .shut | none => none

/-- The scale pair that an operand's slot names (R219, R227). -/
def pairOf (bl : Block) (t : Tile) : DWord × Nat := lookD bl.scales (fsSreg t.d) (0, 0)

/-! ## What an operation reads (R218, R219)

An operation reads its global tiles and its scales when it enters the queue: fetching may run ahead (R215), and no byte then
comes from a write that follows the operation's start (R278; DEDUCED, log 37). While its scales need a walk, or lie where no link leads
now, it does not issue (R143, R321). -/

/-- What an operand has read: bytes, how many lines or scales they are, and what ended it. -/
structure Fetched where
  bytes : List Byte
  count : Nat
  err : Option EngineStop
  deriving DecidableEq, Repr

/-- Lines of a global tile, up to the first that fails (R218, R223). -/
def fetchLines (core : Nat) (sup : Bool) (pages : NMap Nat) (t : Tile) (s : State) : List Nat → Fetched
  | [] => ⟨[], 0, none⟩
  | l :: rest =>
    match pagesRead core sup pages (t.len / 128 + 2) s (t.addr + l * t.pitch) t.len with
    | .error e => ⟨[], 0, some e⟩
    | .ok b =>
      let r := fetchLines core sup pages t s rest
      ⟨b ++ r.bytes, r.count + 1, r.err⟩

/-- The lines of an operand that is to be landed. -/
def fetchTile (core : Nat) (sup : Bool) (pages : NMap Nat) (t : Tile) (s : State) : Fetched :=
  if t.src = 2 then fetchLines core sup pages t s (upTo t.lines) else ⟨[], 0, none⟩

/-- A byte through the core's scale cache. -/
def scaleByte (s : State) (core : Nat) (sup : Bool) (va : Nat) : Except EngineStop Byte × State :=
  match engineXlate s core va sup with
  | .error e => (.error e, s)
  | .ok x =>
    let near := x.apc == 0 && !x.d
    match (if near then look (coreOf s core).scaleCache (x.pa / 128) else none) with
    | some l => (.ok (lineByte l (x.pa % 128)), s)
    | none =>
      if near then
        match engineLine s core sup { x with pa := x.pa / 128 * 128 } va 128 with
        | .error e => (.error e, s)
        | .ok l =>
          let kept := (coreOf s core).scaleCache
          let room := if kept.length < 128 then kept else kept.eraseIdx (drawn s 128)
          (.ok (l.getD (x.pa % 128) 0),
            setCore (draw s) core fun c => { c with scaleCache := put room (x.pa / 128) (lineOf l) })
      else
        match engineLine s core sup x va 1 with
        | .error e => (.error e, s)
        | .ok l => (.ok (l.getD 0 0), s)

/-- The virtual address of the scale of block b of line l. -/
def scaleAddr (t : Tile) (p : DWord × Nat) (l b : Nat) : Nat :=
  let e := (t.addr + l * t.pitch + b * (blockOf_ t.d * elemBits (fsEfmt t.d) / 8)) % (if t.src = 2 then 2 ^ 64 else 2 ^ 32)
  (p.1.toNat + e / 2 ^ p.2) % 2 ^ 64

/-- Scale bytes in order, up to the first that fails. -/
def scaleBytes (core : Nat) (sup : Bool) : State → List Nat → Fetched × State
  | s, [] => (⟨[], 0, none⟩, s)
  | s, va :: t =>
    match scaleByte s core sup va with
    | (.error e, s1) => (⟨[], 0, some e⟩, s1)
    | (.ok v, s1) =>
      let r := scaleBytes core sup s1 t
      (⟨v :: r.1.bytes, r.1.count + 1, r.1.err⟩, r.2)

/-- The scales of an operand whose slot reads them from memory, by block and then by line (R219). -/
def fetchScales (core : Nat) (sup : Bool) (t : Tile) (p : DWord × Nat) (s : State) : Fetched × State :=
  if fsSsrc t.d = 2 then
    scaleBytes core sup s ((upTo (t.k / blockOf_ t.d)).flatMap fun b => (upTo t.lines).map fun l => scaleAddr t p l b)
  else (⟨[], 0, none⟩, s)

/-- How many values of k an operand has in full, given how many lines and scales were read (R223). -/
def tileReach (t : Tile) (lines scales : Nat) : Nat :=
  let n := blockOf_ t.d
  Nat.min (if t.src = 2 ∧ lines < t.lines then (if t.tr then lines else 0) else t.k)
    (if fsSsrc t.d = 2 ∧ scales < t.lines * (t.k / n) then scales / t.lines * n else t.k)

/-- What an operation that gave nothing more has to wait for, of some operands in order: a walk or a link. -/
def waitsFor : List Fetched → Option EngineStop
  | [] => none
  | f :: t =>
    match f.err with
    | some (.walk va) => some (.walk va)
    | some .shut => some .shut
    | some (.fail _ _) | none => waitsFor t

/-- The first failure of an operation: of its landing copies, A's before B's, then of its scales, the lesser k first (R223). -/
def fetchErr (ta tb : Tile) (a b sa sb : Fetched) : Option EngineStop :=
  let scales := if sb.count / tb.lines * blockOf_ tb.d < sa.count / ta.lines * blockOf_ ta.d then sb.err.or sa.err
    else sa.err.or sb.err
  (a.err.or b.err).or scales

/-- What keeps a lane's operation from reading all that it reads from memory now (R143, R321). -/
def mmAwaits (s : State) (core : Nat) (sup : Bool) (bl : Block) (m : MLane) : Option EngineStop :=
  waitsFor [fetchTile core sup m.pages m.a s, fetchTile core sup m.pages m.b s,
    (fetchScales core sup m.a (pairOf bl m.a) s).1, (fetchScales core sup m.b (pairOf bl m.b) s).1]

/-- An operation reads what it reads from memory, with its two operands and their scale pairs as it is issued with them. -/
def mmRead (s : State) (core : Nat) (sup : Bool) (ta tb : Tile) (pa pb : DWord × Nat) (o : EngineOp) : EngineOp × State :=
  let a := fetchTile core sup o.pages ta s
  let b := fetchTile core sup o.pages tb s
  let sa := fetchScales core sup ta pa s
  let sb := fetchScales core sup tb pb sa.2
  let e := fetchErr ta tb a b sa.1 sb.1
  (opRead { o with args := o.args.take 6 ++ [a.count, b.count, sa.1.count, sb.1.count] }
    (a.bytes ++ b.bytes ++ sa.1.bytes ++ sb.1.bytes) e, engineAsk sb.2 core sup e)

/-- One operation enters, with its locks and what it reads (R222). -/
def mmStart (x : Sel) (i : Instr) (h e : Nat) (bl : Block) (s : State) (m : MLane) : State :=
  let core := selCore x
  let r := newKey s
  let s1 := takeLocks r.2 core (opOwner r.1) h (mmLocks m)
  let pa := pairOf bl m.a
  let pb := pairOf bl m.b
  let o : EngineOp :=
    { instr := i, beam := x.key, block := x.beam.block, handle := some e, inst := r.1, params := m.p ++ m.rec_,
      args := [(selSup x).toNat, m.slot, modeCode (pairMode m.a), m.atA, m.atB, m.a.rows]
      pages := m.pages, source := none, ready := false, data := [], err := none, written := [] }
  let y := mmRead s1 core (selSup x) m.a m.b pa pb o
  enterMatrix y.2 core [y.1]

/-- Whether some table would need more than 64 entries (R222). -/
def tooManyLocks (core : Nat) (rs : List (Range × Bool)) : Bool :=
  rs.any fun r => decide (64 < (rs.filter fun q => lockCore core q.1 == lockCore core r.1).length)

/-- The checks of R222 before any lane, and the handle. -/
def mmEntry (x : Sel) (s : State) (bl : Block) (h : Nat) : Except Trap Nat :=
  let lane := leastD 0 x.run
  if 16 < x.run.length then .error { trapOf x 0x13 with lane := lane, reg := h, offs := noField }
  else
    match entryOf bl h with
    | none => .error (handleTrap x h noField)
    | some e => if (handleAt s (selCore x) e).state = .free then .ok e else .error (handleTrap x h noField)

/-- What MMA does once its lanes are checked and translated (R222). -/
def mmIssue (x : Sel) (i : Instr) (h e : Nat) (bl : Block) (s : State) (ms : List MLane) : Res :=
  let core := selCore x
  match landingClash (mmLocals ms) [] (mmLandings ms) with
  | some l => .trap s { trapOf x 0x13 with lane := l.1, reg := l.2.2.1, offs := l.2.1 }
  | none =>
    match mmStopped ms with
    | some (lane, e) =>
      let bad := (mmParked ms).filter fun p => decide (p.1 < lane)
      let parked := bad.map fun p => p.1
      match e with
      | .refuse va => .trap (parkLanes s x.key bad) (laneTrap x 0x08 lane (BitVec.ofNat 64 va) parked)
      | .bad pa => .trap (parkLanes s x.key bad) (tableTrap x [(lane, pa)] parked)
      | .walk _ _ | .shut | .park _ _ _ => .hold (startWalks s x.key (selSup x) false (mmWalks ms))
    | none =>
      let parked := (mmParked ms).map fun p => p.1
      let good := ms.filter fun m => m.stop.isNone
      let locks := good.flatMap mmLocks
      let s1 := parkLanes s x.key (mmParked ms)
      if tooManyLocks core locks then
        .trap s1 { laneTrap x 0x13 ((good.head?.map fun m => m.lane).getD 0) 0 parked with reg := h, offs := noField }
      else if good.isEmpty then .done s1 parked
      else if !matrixRoom s1 core good.length || !locksFree s1 core locks || !(good.all fun m => pagesOpen s1 core m.pages) ||
          clusterOwes (settleCluster s1 core) core then .hold s
      else
        match firstSome (mmAwaits (settleCluster s1 core) core (selSup x) bl) good with
        | some w => .hold (engineAsk s core (selSup x) (some w))
        | none =>
        let s2 := newInstance s1 core e fun y => { y with state := .filling, remain := good.length }
        .done (good.foldl (mmStart x i h e bl) s2) parked

/-- MMA and MMA.sig (R222, R241). The beam's earlier accesses are performed first, the stores of its blocks among them. -/
def effMmaOf (i : Instr) (sig : Bool) (a : Src) (h : Nat) : Effect := fun x s0 =>
  gated x s0 x.run [srcUse a 1] [] (released s0 x.key .dev fun s =>
    match homeOf s x.beam with
    | none => .hold s
    | some (bl, g, gr) =>
      match mmEntry x s bl h with
      | .error t => .trap s t
      | .ok e =>
        match mmLanes x s bl g gr a sig x.run [] with
        | .error (.trap t) => .trap s t
        | .error (.walk va) => .hold (startWalks s x.key (selSup x) false [va])
        | .error .wait | .error (.ok _) => .hold s
        | .ok ms => mmIssue x i h e bl s ms)

def effMma (a : Src) (h : Nat) : Effect := effMmaOf (.mma a h) false a h
def effMmaSig (a : Src) (h : Nat) : Effect := effMmaOf (.mmaSig a h) true a h

/-! ## Reading operands (R216, R223) -/

/-- The lines of an operand as they stand in local memory. -/
def tileLines (s : State) (t : Tile) (at_ : Nat) : List (List Byte) :=
  let p := if t.src = 2 then tileLp t else t.pitch
  (upTo t.lines).map fun l => localBytes s (at_ + l * p) t.len

/-- The scale codes of an operand, by block and then by line: inline, or as read (R216, R219). -/
def tileScales (t : Tile) (lines : List (List Byte)) (codes : List Nat) : List (List Nat) :=
  let n := blockOf_ t.d
  match fsSsrc t.d with
  | 1 => (upTo (t.k / n)).map fun b => lines.map fun l => (l.getD (t.k * elemBits (fsEfmt t.d) / 8 + b) 0).toNat
  | 2 => chunks t.lines (t.k / n) codes
  | _ => []

/-- The codes of row or column r, by k (R216). -/
def tileCodes (t : Tile) (lines : List (List Byte)) (r : Nat) : List Nat :=
  let w := elemBits (fsEfmt t.d)
  if t.tr then lines.map fun l => lineElem w l r
  else let l := lines.getD r []; (upTo t.k).map (lineElem w l)

/-- The values of row or column r, by k, with their scales (R43). -/
def tileVals (t : Tile) (lines : List (List Byte)) (scales : List (List Nat)) (r : Nat) : List FVal :=
  let c := tileCodes t lines r
  if fsBlk t.d = 0 then c.map (elemVal t.d)
  else
    let n := blockOf_ t.d
    (upTo t.k).map fun k =>
      (mulVal (scaleVal t.d ((scales.getD (k / n) []).getD r 0)) (elemVal t.d (c.getD k 0))).1

/-- The signed codes of row or column r (R45). -/
def tileInts (t : Tile) (lines : List (List Byte)) (r : Nat) : List Int := (tileCodes t lines r).map (sext 8)

/-! ## Performing MMA (R223, R241) -/

/-- The block, gang and grid of a block's key. -/
def homeOfBlock (s : State) (k : Nat) : Option (Block × Gang × Grid) :=
  match look s.blocks k with
  | none => none
  | some bl =>
    match look s.gangs bl.gang with
    | none => none
    | some g =>
      match look s.grids g.grid with
      | none => none
      | some gr => some (bl, g, gr)

/-- Whether an operation is one of MMA.sig. -/
def isSig : Instr → Bool
  | .mmaSig _ _ => true
  | _ => false

/-- The row of A that accumulator row i takes (R241). -/
def opRow (o : EngineOp) (i : Nat) : Nat := if isSig o.instr then recMap (o.params.drop 64) i else i

/-- The groups that an operation adds: all, or after a failure a free number of those that could be read (R223). -/
def groupsDone (s : State) (k g reach : Nat) (failed : Bool) : Nat := if failed then drawn s (reach / g + 1) else k / g

/-- The landing copy: the lines read stand in the landing area (R218). -/
def landTile (t : Tile) (at_ : Nat) (s : State) (lines : List (List Byte)) : State :=
  (upTo lines.length).foldl (fun s l => localPut s (at_ + l * tileLp t) (lines.getD l [])) s

/-- The slot after an operation's first m groups. -/
def mmResult (o : EngineOp) (a b : Tile) (m : Nat) (la lb : List (List Byte)) (sa sb : List (List Nat)) (s : Slot) : Slot :=
  let p := o.params
  let n := mmN p
  let s1 := openSlot s (mmZero p) (pairMode a)
  match s1.mode with
  | .res3 =>
    let k := 32 * m
    addRes3 n (k / 256 + 2) k ((upTo 128).map fun i => (tileInts a la (opRow o i)).take k)
      ((upTo n).map fun j => (tileInts b lb j).take k) s1
  | .clear | .fp32 =>
    let g := groupSize a b
    let pieces := fun (v : List FVal) => (chunks g (a.k / g) v).take m
    let arows := (upTo a.rows).map fun r => pieces (tileVals a la sa r)
    addFloat s1 n (fsHad a.d == 2 && fsHad b.d == 2) ((upTo 128).map fun i => arows.getD (opRow o i) [])
      ((upTo n).map fun j => pieces (tileVals b lb sb j))

/-- An operation of MMA or MMA.sig is performed: landing, then sums (R223). -/
def performMma (s : State) (core : Nat) (o : EngineOp) : State :=
  match homeOfBlock s o.block with
  | none => s
  | some (_, _, gr) =>
    let p := o.params
    let arg := fun n => o.args.getD n 0
    let a := mmTileA gr p (arg 5)
    let b := mmTileB gr p
    let bytesA := arg 6 * a.len
    let bytesB := arg 7 * b.len
    let codes := (o.data.drop (bytesA + bytesB)).map BitVec.toNat
    let s1 := landTile a (arg 3) s (chunks a.len (arg 6) (o.data.take bytesA))
    let s2 := landTile b (arg 4) s1 (chunks b.len (arg 7) ((o.data.drop bytesA).take bytesB))
    let la := tileLines s2 a (arg 3)
    let lb := tileLines s2 b (arg 4)
    let m := groupsDone s2 a.k (if pairMode a = .res3 then 32 else groupSize a b)
      (Nat.min (tileReach a (arg 6) (arg 8)) (tileReach b (arg 7) (arg 9))) o.err.isSome
    let sa := tileScales a la (codes.take (arg 8))
    let sb := tileScales b lb (codes.drop (arg 8))
    setSlot (draw s2) core (opSlot o) (mmResult o a b m la lb sa sb (slotAt s2 core (opSlot o)))

/-- An operation of an MMA ends (R224): its locks go, and the handle counts it. -/
def mmEnd (s : State) (core : Nat) (o : EngineOp) : State :=
  let e := o.handle.getD 0
  let s1 := setHandle (dropLocks s core (opOwner o.inst)) core e fun y =>
    let y1 := { y with remain := y.remain - 1 }
    match o.err with
    | some x => if y.err = 0 then { y1 with err := x.1, eva := BitVec.ofNat 64 x.2 } else y1
    | none => y1
  let y := handleAt s1 core e
  if y.remain = 0 then fillDone s1 core e y.err y.nvs y.eva else s1

/-- The engine is free for its next operation. -/
def matrixFree (s : State) (core : Nat) : State :=
  nudge (post (setCore s core fun c => { c with matrixOp := none }) 0 (.matrixQueueDispatch core))

/-- Multiply-accumulates per clock (R225). -/
def arrayRate (a b : Tile) : Nat :=
  if fsEfmt a.d = 5 ∧ fsEfmt b.d = 5 then 262144 else if fsEfmt a.d = 1 then 65536 else 131072

/-- The least time an operation takes (R225, R240, R241). -/
def opTime (s : State) (o : EngineOp) : Nat :=
  match o.instr, homeOfBlock s o.block with
  | .mma _ _, some (_, _, gr) | .mmaSig _ _, some (_, _, gr) =>
    let a := mmTileA gr o.params (o.args.getD 5 128)
    cdiv (a.rows * mmN o.params * a.k) (arrayRate a (mmTileB gr o.params))
  | .sig _, _ => cdiv (128 * (32 * bytesFld o.params 263 256)) 512
  | _, _ => 1

/-- MATRIX_QUEUE_DISPATCH: the engine begins the next operation, one at a time (R215). -/
def execMatrixQueueDispatch (core : Nat) (s : State) : Host.Outcome State Fault Refusal :=
  .next (match (coreOf s core).matrixOp, (coreOf s core).matrixQ with
    | none, o :: t =>
      let s1 := setCore s core fun c => { c with matrixOp := some o, matrixQ := t }
      match o.instr with
      | .mma _ _ | .mmaSig _ _ => postFrom s1 (opTime s1 o) (.mmaOperationComplete core)
      | _ => postFrom s1 (opTime s1 o) (.matrixSyncOpComplete core)
    | none, [] => s
    | some _, _ => s)

/-- MMA_OPERATION_COMPLETE: the MMA operation under way is performed (R223, R224). -/
def execMmaOperationComplete (core : Nat) (s : State) : Host.Outcome State Fault Refusal :=
  .next (match (coreOf s core).matrixOp with
    | none => s
    | some o =>
      match o.instr with
      | .mma _ _ | .mmaSig _ _ => matrixFree (mmEnd (performMma s core o) core o) core
      | _ => s)

/-! ## SCBS (R227) -/

/-- SCBS. -/
def effScbs (b a : Src) (k : Nat) : Effect := fun x s =>
  gated x s x.run [srcUse a 2, srcUse b 1] []
    (if !uniform x (fun l => lanePair l a.r) || !uniform x (fun l => laneReg l b.r) then .trap s (uniformTrap x)
    else
      let l := laneOf x.beam (leastD 0 x.run)
      let s1 := { s with blocks := alter s.blocks x.beam.block fun bl =>
        { bl with scales := put bl.scales k (lanePair l a.r, (laneReg l b.r).toNat % 64) } }
      .done (setCore s1 (selCore x) fun c => { c with scaleCache := [] }) [])

/-! ## Operations that hold their beam (R228) -/

/-- What such an operation needs once its block has been checked. -/
structure SPlan where
  ranges : List (Range × Bool)
  /-- the block, and what is captured beside it -/
  params : List Byte
  /-- slot and mode, then places -/
  args : List Nat
  deriving DecidableEq, Repr

/-- What the checks of such an operation answer: a trap, a wait, or its plan. -/
inductive SCheck where
  | ok (p : SPlan)
  | trap (t : Trap)
  | wait
  deriving DecidableEq, Repr

/-- The operation enters the queue, and its beam is held (R228). -/
def syncEnter (x : Sel) (i : Instr) (s : State) (p : SPlan) : Res :=
  let core := selCore x
  if !matrixRoom s core 1 || !locksFree s core p.ranges then .hold s
  else
    let r := newKey s
    let o : EngineOp :=
      { instr := i, beam := x.key, block := x.beam.block, handle := none, inst := r.1, params := p.params,
        args := (selSup x).toNat :: p.args, pages := [], source := none, ready := true, data := [], err := none, written := [] }
    let s1 := takeLocks (draw r.2) core (opOwner r.1) (drawn r.2 256) p.ranges
    .done (enterMatrix (onBeam s1 x.key fun b => { b with hold := .engine r.1 }) core [o]) []

/-- Steps 1 to 7 of R228 for an operation with a descriptor of `size` bytes. The beam's earlier accesses are performed first, the
stores of the descriptor among them. -/
def syncIssue (i : Instr) (a : Src) (size : Nat) (first : Sel → State → Block → Gang → Grid → Option Trap)
    (plan : Sel → State → Block → Gang → Grid → List Byte → SCheck) : Effect := fun x s0 =>
  gated x s0 x.run [srcUse a 1] [] (released s0 x.key .gang fun s =>
    match homeOf s x.beam with
    | none => .hold s
    | some (bl, g, gr) =>
      match first x s bl g gr with
      | some t => .trap s t
      | none =>
        let lane := leastD 0 x.run
        let adr := (laneReg (laneOf x.beam lane) a.r).toNat
        if adr % 16 ≠ 0 then .trap s (laneTrap x 0x06 lane (BitVec.ofNat 64 adr) [])
        else
          match localPlace s bl g gr adr size with
          | none => .trap s (laneTrap x 0x08 lane (BitVec.ofNat 64 adr) [])
          | some t =>
            match plan x s bl g gr (localBytes s t size) with
            | .trap e => .trap s e
            | .wait => .hold s
            | .ok p => syncEnter x i s p)

/-- The check of an accumulator slot index (R213). -/
def slotCheck (sl : Nat) (x : Sel) (_ : State) (_ : Block) (_ : Gang) (gr : Grid) : Option Trap :=
  if gr.accs ≤ sl then some { trapOf x 0x13 with lane := leastD 0 x.run, reg := sl, offs := noField } else none

/-- Local ranges that a block names: address, bytes, field; the first that R138 refuses, or their places. -/
def placesOf (s : State) (bl : Block) (g : Gang) (gr : Grid) : List (Nat × Nat × Nat) → Except (Nat × Nat) (List Nat)
  | [] => .ok []
  | (a, n, o) :: t =>
    match localPlace s bl g gr a n with
    | none => .error (a, o)
    | some p =>
      match placesOf s bl g gr t with
      | .ok l => .ok (p :: l)
      | .error e => .error e

/-- Whether two ranges that a block names, each its address and its bytes, share a byte: by their addresses, or by the places
they have. It is a rule of the block's fields, so it is asked before R138 (R228, R240). -/
def namedMeet (s : State) (bl : Block) (g : Gang) (gr : Grid) (a b : Nat × Nat) : Bool :=
  rangesMeet ⟨true, a.1, a.2⟩ ⟨true, b.1, b.2⟩ ||
    match localPlace s bl g gr a.1 a.2, localPlace s bl g gr b.1 b.2 with
    | some p, some q => rangesMeet ⟨true, p, a.2⟩ ⟨true, q, b.2⟩
    | _, _ => false

/-! ## Tile descriptors (R229) -/

def tdAddr (q : List Byte) : Nat := bytesFld q 31 0
def tdPitch (q : List Byte) : Nat := 16 * bytesFld q 51 32
def tdFsl (q : List Byte) : Nat := bytesFld q 54 52
def tdN (q : List Byte) : Nat := [64, 128, 256].getD (bytesFld q 57 56) 64
def tdSaddr (q : List Byte) : Nat := bytesFld q 95 64
def tdSexp (q : List Byte) : Int := sext 8 (bytesFld q 103 96)

/-- The checks of a tile descriptor (R228, R229, R230, R232). -/
def tdChecks (gr : Grid) (cvt : Bool) (reg : Nat) (q : List Byte) : List Chk :=
  let d := fslotOf gr (tdFsl q)
  let ok := fsLegal d && (if cvt then fsEfmt d != 7 else [0, 1, 8].contains (fsEfmt d))
  [⟨!ok, 0x12, 6, tdFsl q⟩, ⟨tdAddr q % 16 != 0, 0x13, 0, reg⟩,
    ⟨bytesFld q 55 55 != 0, 0x13, 6, reg⟩, ⟨bytesFld q 57 56 == 3, 0x13, 7, reg⟩, ⟨bytesFld q 63 58 != 0, 0x13, 7, reg⟩,
    ⟨!(cvt && fsSsrc d == 2) && tdSaddr q != 0, 0x13, 8, reg⟩, ⟨!cvt && bytesFld q 103 96 != 0, 0x13, 12, reg⟩,
    ⟨bytesFld q 127 104 != 0, 0x13, 13, reg⟩, ⟨decide (tdPitch q < rowSize d (tdN q)), 0x13, 4, reg⟩]

/-- The plan of ALOAD and ACVT. -/
def tdPlan (cvt : Bool) (sl : Nat) (x : Sel) (s : State) (bl : Block) (g : Gang) (gr : Grid) (q : List Byte) : SCheck :=
  let lane := leastD 0 x.run
  let d := fslotOf gr (tdFsl q)
  match firstChk (tdChecks gr cvt sl q) with
  | some c => .trap (chkTrap x lane c)
  | none =>
    let n := 127 * tdPitch q + rowSize d (tdN q)
    let scales := if fsSsrc d = 2 ∧ cvt = true then [(tdSaddr q, 128 * (tdN q / blockOf_ d), 8)] else []
    match placesOf s bl g gr ((tdAddr q, n, 0) :: scales) with
    | .error e => .trap (rangeTrap x lane e.1 e.2)
    | .ok ps =>
      let ranges := (ps.zip (n :: scales.map fun c => c.2.1)).map fun p => ((⟨true, p.1, p.2⟩ : Range), cvt)
      .ok ⟨ranges, q, [bl.slots.getD sl 255, if cvt then 3 else if fsEfmt d = 8 then 2 else 1] ++ ps⟩

/-- ALOAD (R230). -/
def effAload (a : Src) (sl : Nat) : Effect := syncIssue (.aload a sl) a 16 (slotCheck sl) (tdPlan false sl)

/-- ACVT (R232). -/
def effAcvt (a : Src) (sl : Nat) : Effect := syncIssue (.acvt a sl) a 16 (slotCheck sl) (tdPlan true sl)

/-- ACLR (R231): no descriptor, no lock. -/
def effAclr (sl : Nat) : Effect := fun x s0 => released s0 x.key .gang fun s =>
  match homeOf s x.beam with
  | none => .hold s
  | some (bl, g, gr) =>
    match slotCheck sl x s bl g gr with
    | some t => .trap s t
    | none => syncEnter x (.aclr sl) s ⟨[], [], [bl.slots.getD sl 255, 0]⟩

/-! ## QCVT (R233) -/

def qcIn (q : List Byte) : Nat := bytesFld q 31 0
def qcInPitch (q : List Byte) : Nat := 16 * bytesFld q 51 32
def qcOut (q : List Byte) : Nat := bytesFld q 95 64
def qcOutPitch (q : List Byte) : Nat := 16 * bytesFld q 115 96
def qcBf16 (q : List Byte) : Bool := bytesFld q 117 116 == 1
def qcSaddr (q : List Byte) : Nat := bytesFld q 159 128
def qcRows (q : List Byte) : Nat := bytesFld q 175 168 + 1
def qcCols (q : List Byte) : Nat := 32 * bytesFld q 183 176
def qcSexp (q : List Byte) : Int := sext 8 (bytesFld q 199 192)
def qcInSize (q : List Byte) : Nat := qcCols q * (if qcBf16 q then 2 else 4)

/-- The check of QCVT's format slot. -/
def fsCheck (fs : Nat) (x : Sel) (_ : State) (_ : Block) (_ : Gang) (gr : Grid) : Option Trap :=
  let d := fslotOf gr fs
  if fsLegal d && fsEfmt d != 8 then none
  else some { trapOf x 0x12 with lane := leastD 0 x.run, reg := fs, offs := noField }

/-- The checks of a QCVT descriptor. -/
def qcChecks (gr : Grid) (fs : Nat) (q : List Byte) : List Chk :=
  let d := fslotOf gr fs
  let c := bytesFld q 183 176
  [⟨qcIn q % 16 != 0, 0x13, 0, fs⟩, ⟨bytesFld q 63 52 != 0, 0x13, 6, fs⟩,
    ⟨qcOut q % 16 != 0, 0x13, 8, fs⟩,
    ⟨decide (1 < bytesFld q 117 116), 0x13, 14, fs⟩, ⟨bytesFld q 127 118 != 0, 0x13, 14, fs⟩,
    ⟨fsSsrc d != 2 && qcSaddr q != 0, 0x13, 16, fs⟩, ⟨bytesFld q 167 160 != 0, 0x13, 20, fs⟩,
    ⟨c == 0 || decide (128 < c), 0x13, 22, fs⟩, ⟨bytesFld q 191 184 != 0, 0x13, 23, fs⟩,
    ⟨bytesFld q 255 200 != 0, 0x13, 25, fs⟩, ⟨decide (qcOutPitch q < rowSize d (qcCols q)), 0x13, 12, fs⟩]

/-- The plan of QCVT. An overlap of its ranges is named by the field of the output or of the scales that meets the input: R233 names none.
DESIGN CHOICE (log 20). -/
def qcPlan (fs : Nat) (x : Sel) (s : State) (bl : Block) (g : Gang) (gr : Grid) (q : List Byte) : SCheck :=
  let lane := leastD 0 x.run
  let d := fslotOf gr fs
  match firstChk (qcChecks gr fs q) with
  | some c => .trap (chkTrap x lane c)
  | none =>
    let nin := (qcRows q - 1) * qcInPitch q + qcInSize q
    let nout := (qcRows q - 1) * qcOutPitch q + rowSize d (qcCols q)
    let scales := if fsSsrc d = 2 then [(qcSaddr q, qcRows q * (qcCols q / blockOf_ d), 16)] else []
    match ((qcOut q, nout, 8) :: scales).find? fun c => namedMeet s bl g gr (qcIn q, nin) (c.1, c.2.1) with
    | some c => .trap { trapOf x 0x13 with lane := lane, reg := fs, offs := c.2.2 }
    | none =>
      match placesOf s bl g gr ((qcIn q, nin, 0) :: (qcOut q, nout, 8) :: scales) with
      | .error e => .trap (rangeTrap x lane e.1 e.2)
      | .ok ps =>
        let outs := (ps.drop 1).zip (nout :: scales.map fun c => c.2.1)
        .ok ⟨(⟨true, ps.headD 0, nin⟩, false) :: outs.map fun p => (⟨true, p.1, p.2⟩, true), q, [255, 3] ++ ps⟩

/-- QCVT (R233). -/
def effQcvt (a : Src) (fs : Nat) : Effect := syncIssue (.qcvt a fs) a 32 (fsCheck fs) (qcPlan fs)

/-! ## Performing them (R230-R233) -/

/-- ALOAD's slot from its tile. -/
def loadSlot (s : State) (d : Nat) (q : List Byte) (at_ : Nat) : Slot :=
  let n := tdN q
  let w := elemBits (fsEfmt d)
  { mode := if fsEfmt d = 8 then .res3 else .fp32
    kcnt := 0
    elems := (upTo 128).flatMap fun i =>
      let row := localBytes s (at_ + i * tdPitch q) (n * w / 8)
      ((upTo n).map fun j =>
        (256 * i + j, BitVec.ofNat 32 (lineElem w row j * (if w = 16 then 65536 else 1)), (0 : Word))).filter elemListed }

/-- The source value of a slot's element (R232). -/
def slotVal (m : SlotMode) (e : Word × Word) : FVal :=
  match m with
  | .clear => .num false 0 0
  | .fp32 => fmtVal fp32 e.1.toNat
  | .res3 => intVal e.1.toInt 0

/-- Writes converted rows: codes and inline scales at `out`, scales of SSRC = 2 at `sc`. -/
def putRow (d : Nat) (out pitch sc : Nat) (s : State) (r : Nat) (c : List Nat × List Nat) : State :=
  let b := rowBytes d c
  let s1 := localPut s (out + r * pitch) (if fsSsrc d = 1 then b.1 ++ b.2 else b.1)
  if fsSsrc d = 2 then localPut s1 (sc + r * b.2.length) b.2 else s1

/-- ACVT writes its tile. -/
def convertSlot (gr : Grid) (q : List Byte) (out sc : Nat) (sl : Slot) (s : State) : State :=
  let d := fslotOf gr (tdFsl q)
  let n := tdN q
  (upTo 128).foldl (fun s i =>
    let row := sl.elems.filter fun e => e.1 / 256 == i
    let x := (upTo n).map fun j => slotVal sl.mode (lookD row (256 * i + j) (0, 0))
    putRow d out (tdPitch q) sc s i (convertRow d gr.seed.toNat (tdSexp q) (tdAddr q) i x)) s

/-- QCVT writes its tile. -/
def convertTile (gr : Grid) (d : Nat) (q : List Byte) (inp out sc : Nat) (s : State) : State :=
  let w := if qcBf16 q then 16 else 32
  (upTo (qcRows q)).foldl (fun s1 i =>
    let row := localBytes s (inp + i * qcInPitch q) (qcInSize q)
    let x := (upTo (qcCols q)).map fun j => fmtVal (if qcBf16 q then bf16 else fp32) (lineElem w row j)
    putRow d out (qcOutPitch q) sc s1 i (convertRow d gr.seed.toNat (qcSexp q) (qcOut q) i x)) s

/-- The place that an operation captured, the n-th of its block. -/
def opPlace (o : EngineOp) (n : Nat) : Nat := o.args.getD (3 + n) 0

/-- What ALOAD, ACVT, ACLR and QCVT do when they are performed. -/
def performSync (s : State) (core : Nat) (o : EngineOp) (gr : Grid) : State :=
  let q := o.params
  let i := opSlot o
  match o.instr with
  | .aload _ _ => setSlot s core i (loadSlot s (fslotOf gr (tdFsl q)) q (opPlace o 0))
  | .acvt _ _ =>
    let sl := foldSlot (slotAt s core i)
    convertSlot gr q (opPlace o 0) (opPlace o 1) sl (setSlot s core i sl)
  | .aclr _ => setSlot s core i Slot.zero
  | .qcvt _ fs => convertTile gr (fslotOf gr fs) q (opPlace o 0) (opPlace o 1) (opPlace o 2) s
  | _ => s

/-- A hold without the wait for an engine's operation. -/
def endHold (id : Nat) (h : Hold) : Hold := if h = .engine id then .none else h

/-- An operation of a beam has ended: the beam is held by it no more, in a handler or not (R228, R251). -/
def freeBeam (s : State) (k id : Nat) : State :=
  onBeam s k fun b => { b with hold := endHold id b.hold, under := b.under.map (endHold id) }

/-! ## Meanings -/

/-- The meaning of MMA (R222). -/
def execMma (a : Src) (h : Nat) (s : State) : Host.Outcome State Fault Refusal := issue 4 (effMma a h) s
/-- The meaning of MMA.sig (R241). -/
def execMmaSig (a : Src) (h : Nat) (s : State) : Host.Outcome State Fault Refusal := issue 4 (effMmaSig a h) s
/-- The meaning of ALOAD (R230). -/
def execAload (a : Src) (sl : Nat) (s : State) : Host.Outcome State Fault Refusal := issue 4 (effAload a sl) s
/-- The meaning of ACVT (R232). -/
def execAcvt (a : Src) (sl : Nat) (s : State) : Host.Outcome State Fault Refusal := issue 4 (effAcvt a sl) s
/-- The meaning of ACLR (R231). -/
def execAclr (sl : Nat) (s : State) : Host.Outcome State Fault Refusal := issue 4 (effAclr sl) s
/-- The meaning of QCVT (R233). -/
def execQcvt (a : Src) (fs : Nat) (s : State) : Host.Outcome State Fault Refusal := issue 4 (effQcvt a fs) s
/-- The meaning of SCBS (R227). -/
def execScbs (b a : Src) (k : Nat) (s : State) : Host.Outcome State Fault Refusal := issue 4 (effScbs b a k) s

end Sys2Proof.Machine
end

