-- ==== Sys2Proof/Machine/Prism.lean ====
section
/-!
DEFINITION. The Prism stage (R235-R245): SIG and SBWD, and the event MATRIX_SYNC_OP_COMPLETE, by which the operations that
hold their beam are performed (R228). Opcode 0x6B.
-/
namespace Sys2Proof.Machine

open Sys2Proof

/-! ## The SIG parameter block (R235) -/

def sgOpa (q : List Byte) : Nat := bytesFld q 127 0
def sgRep (q : List Byte) : Nat := bytesFld q 159 128
def sgRec (q : List Byte) : Nat := bytesFld q 191 160
def sgSeed (q : List Byte) : Nat := bytesFld q 255 192
def sgK (q : List Byte) : Nat := 32 * bytesFld q 263 256
def sgW (q : List Byte) : Nat := bytesFld q 268 264
def sgRule (q : List Byte) : Nat := bytesFld q 273 272

/-- The source tile. -/
def sgTile (gr : Grid) (q : List Byte) : Tile := tileOf gr (sgOpa q) 128 128 (sgK q)

/-- The checks of the block, in order of its fields, the pitch that they call for last. -/
def sgChecks (gr : Grid) (q : List Byte) : List Chk :=
  let h := sgOpa q
  let t := sgTile gr q
  let r := ohFsl h
  let ok := fsOperand t.d && decide (fsSsrc t.d < 2)
  let kq := bytesFld q 263 256
  [⟨decide (ohSrc h < 2) && (decide (2 ^ 32 ≤ ohAddr h) || bit (ohAddr h) 24 != (ohSrc h == 1)), 0x16, 0, r⟩,
    ⟨ohLand h != 0, 0x16, 8, r⟩, ⟨t.pitch == 0, 0x16, 12, r⟩,
    ⟨decide (2 ≤ ohSrc h), 0x16, 14, r⟩, ⟨!ok, 0x12, 14, r⟩, ⟨ohTr h, 0x16, 15, r⟩, ⟨ohHt h != (fsHad t.d != 0), 0x16, 15, r⟩,
    ⟨bit h 123, 0x16, 15, r⟩, ⟨ohMcast h != 0, 0x16, 15, r⟩, ⟨sgRep q % 16 != 0, 0x16, 16, r⟩, ⟨sgRec q % 16 != 0, 0x16, 20, r⟩,
    ⟨kq == 0 || decide (128 < kq), 0x16, 32, r⟩, ⟨decide (16 < sgW q), 0x16, 33, r⟩, ⟨bytesFld q 271 269 != 0, 0x16, 33, r⟩,
    ⟨sgRule q == 3 || (sgRule q == 1 && fsHad t.d != 0), 0x16, 34, r⟩, ⟨bytesFld q 511 274 != 0, 0x16, 34, r⟩,
    ⟨ok && decide (t.pitch < t.lb), 0x16, 12, r⟩]

/-- No check stands before the descriptor (R240). -/
def noCheck (_ : Sel) (_ : State) (_ : Block) (_ : Gang) (_ : Grid) : Option Trap := none

/-- The plan of SIG (R240): the places captured are the source's, the representatives' and the record's. -/
def sgPlan (x : Sel) (s : State) (bl : Block) (g : Gang) (gr : Grid) (q : List Byte) : SCheck :=
  let lane := leastD 0 x.run
  match firstChk (sgChecks gr q) with
  | some c => .trap (chkTrap x lane c)
  | none =>
    let t := sgTile gr q
    let n := tileExtent t
    let meet := namedMeet s bl g gr
    let bad := fun o => SCheck.trap { trapOf x 0x16 with lane := lane, reg := ohFsl (sgOpa q), offs := o }
    if meet (t.addr, n) (sgRep q, n) then bad 16
    else if meet (t.addr, n) (sgRec q, 272) || meet (sgRep q, n) (sgRec q, 272) then bad 20
    else
      match placesOf s bl g gr [(t.addr, n, 0), (sgRep q, n, 16), (sgRec q, 272, 20)] with
      | .error e => .trap (rangeTrap x lane e.1 e.2)
      | .ok ps =>
        .ok ⟨[(⟨true, ps.getD 0 0, n⟩, false), (⟨true, ps.getD 1 0, n⟩, true), (⟨true, ps.getD 2 0, 272⟩, true)], q,
          [255, 3] ++ ps⟩

/-- SIG (R240). -/
def effSig (a : Src) : Effect := syncIssue (.sig a) a 64 noCheck sgPlan

/-! ## Signatures and buckets (R236, R237) -/

/-- The sign pattern's words, by g (R236). -/
def signWords (seed sigseed n : Nat) : List Nat := (upTo n).map fun g => randMix seed sigseed (3 * 2 ^ 62 ||| g)

/-- The code of a row: `none` for a singular row. -/
def rowCode (w : Nat) (u : List Nat) (v : List FVal) : Option Nat :=
  if v.any fun x => !isFinite x then none
  else
    let y := (upTo v.length).map fun k =>
      let x := v.getD k (.num false 0 0)
      if bit (u.getD (k / 32) 0) (k % 32) then fNegVal x else x
    some (maskOf ((upTo w).filter fun t =>
      match exactSum ((upTo y.length).map fun k =>
          let x := y.getD k (.num false 0 0)
          if parity 6 (t &&& (k % 32)) then fNegVal x else x) with
      | .num p m _ => p && m != 0
      | .nan _ | .inf _ => false))

/-- A row as buckets see it: its bytes and its code. -/
structure SigRow where
  bytes : List Byte
  code : Option Nat
  deriving DecidableEq, Repr

/-- match(l, i) (R237). -/
def rowsMatch (w : Nat) (a b : SigRow) : Bool := if w = 0 then a.bytes == b.bytes else a.code.isSome && a.code == b.code

/-- The first row of some rows that matches, counting from i. -/
def firstMatch (w : Nat) (r : SigRow) : Nat → List SigRow → Option Nat
  | _, [] => none
  | i, a :: t => if rowsMatch w a r then some i else firstMatch w r (i + 1) t

/-- Buckets in the order of their first rows (R237): the rows so far, their buckets, and how many there are. -/
def buckets (w : Nat) (rows : List SigRow) : List Nat × Nat :=
  let r := rows.foldl (fun (x : List SigRow × List Nat × Nat) r =>
    match firstMatch w r 0 x.1 with
    | some l => (x.1 ++ [r], x.2.1 ++ [x.2.1.getD l 0], x.2.2)
    | none => (x.1 ++ [r], x.2.1 ++ [x.2.2], x.2.2 + 1)) ([], [], 0)
  r.2

/-- The members of a bucket, in ascending order. -/
def members (map : List Nat) (b : Nat) : List Nat := (upTo 128).filter fun i => map.getD i 128 == b

/-! ## Representatives (R238) -/

/-- The magnitude of a value. -/
def absVal : FVal → FVal
  | .nan s => .nan s
  | .inf _ => .inf false
  | .num _ m e => .num false m e

/-- The member with the greatest sum of magnitudes, the lowest on a tie. -/
def maxNorm (vals : List (List FVal)) : List Nat → Nat
  | [] => 0
  | i :: t =>
    (t.foldl (fun (m : Nat × FVal) j =>
      let n := exactSum ((vals.getD j []).map absVal)
      if fLt m.2 n then (j, n) else m) (i, exactSum ((vals.getD i []).map absVal))).1

/-- The mean of some values, rounded to FP32. -/
def meanOf (vs : List FVal) : FVal :=
  match exactSum vs with
  | .num p m e =>
    if m = 0 then .num p 0 0 else fmtVal fp32 (roundFrac fp32 .rne false 0 p m vs.length e).code
  | v => v

/-- REPROW[b] and line b of the representative tile. -/
def representative (gr : Grid) (q : List Byte) (rows : List SigRow) (vals : List (List FVal)) (ms : List Nat) (b : Nat) :
    Nat × List Byte :=
  let t := sgTile gr q
  let low := leastD 0 ms
  let copy := fun i => (i, (rows.getD i ⟨[], none⟩).bytes)
  if ms.length = 1 then copy low
  else
    match sgRule q with
    | 0 => copy low
    | 2 => copy (maxNorm vals ms)
    | _ =>
      let m := (upTo t.k).map fun k => meanOf (ms.map fun i => (vals.getD i []).getD k (.num false 0 0))
      let r := rowBytes t.d (convertRow t.d gr.seed.toNat 0 (sgRep q) b m)
      (low, r.1 ++ r.2)

/-- The record's bytes (R239). -/
def recordBytes (map reprow : List Nat) (nb rule w : Nat) : List Byte :=
  (upTo 128).map (fun i => BitVec.ofNat 8 (map.getD i 0)) ++ (upTo 128).map (fun b => BitVec.ofNat 8 (reprow.getD b 255)) ++
    bytesLE 4 nb ++ bytesLE 1 rule ++ bytesLE 1 w ++ List.replicate 10 0

/-- SIG is performed (R236-R239). -/
def performSig (s : State) (o : EngineOp) (gr : Grid) : State :=
  let q := o.params
  let t := sgTile gr q
  let lines := tileLines s t (opPlace o 0)
  let scales := tileScales t lines []
  let vals := (upTo 128).map fun i => tileVals t lines scales i
  let u := signWords gr.seed.toNat (sgSeed q) (t.k / 32)
  let rows := (upTo 128).map fun i =>
    ({ bytes := lines.getD i [], code := if sgW q = 0 then none else rowCode (sgW q) u (vals.getD i []) } : SigRow)
  let (map, nb) := buckets (sgW q) rows
  let reps := (upTo nb).map fun b => representative gr q rows vals (members map b) b
  let s1 := (upTo nb).foldl (fun s b => localPut s (opPlace o 1 + b * t.pitch) (reps.getD b (0, [])).2) s
  localPut s1 (opPlace o 2) (recordBytes map (reps.map fun r => r.1) nb (sgRule q) (sgW q))

/-! ## SBWD (R242, R243) -/

def sbIn (q : List Byte) : Nat := bytesFld q 31 0
def sbInPitch (q : List Byte) : Nat := 16 * bytesFld q 51 32
def sbOut (q : List Byte) : Nat := bytesFld q 95 64
def sbOutPitch (q : List Byte) : Nat := 16 * bytesFld q 115 96
def sbRec (q : List Byte) : Nat := bytesFld q 159 128
def sbCols (q : List Byte) : Nat := 32 * bytesFld q 167 160
def sbScatter (q : List Byte) : Bool := bytesFld q 168 168 == 1

/-- The checks of the descriptor, in order of its fields, the pitches that they call for last. -/
def sbChecks (q : List Byte) : List Chk :=
  let c := bytesFld q 167 160
  [⟨sbIn q % 16 != 0, 0x16, 0, 0⟩, ⟨bytesFld q 63 52 != 0, 0x16, 6, 0⟩,
    ⟨sbOut q % 16 != 0, 0x16, 8, 0⟩, ⟨bytesFld q 127 116 != 0, 0x16, 14, 0⟩,
    ⟨sbRec q % 16 != 0, 0x16, 16, 0⟩, ⟨c == 0 || decide (128 < c), 0x16, 20, 0⟩, ⟨bytesFld q 255 169 != 0, 0x16, 21, 0⟩,
    ⟨decide (bytesFld q 51 32 < 8 * c), 0x16, 4, 0⟩, ⟨decide (bytesFld q 115 96 < 8 * c), 0x16, 12, 0⟩]

/-- The plan of SBWD once its record is captured: the places captured are the input's and the output's. -/
def sbRanges (x : Sel) (s : State) (bl : Block) (g : Gang) (gr : Grid) (q r : List Byte) (tr : Nat) : SCheck :=
  let lane := leastD 0 x.run
  let w := 4 * sbCols q
  let nin := ((if sbScatter q then recNb r else 128) - 1) * sbInPitch q + w
  let nout := ((if sbScatter q then 128 else recNb r) - 1) * sbOutPitch q + w
  let meet := namedMeet s bl g gr
  if meet (sbIn q, nin) (sbOut q, nout) then .trap { trapOf x 0x16 with lane := lane, offs := 8 }
  else if meet (sbIn q, nin) (sbRec q, 272) || meet (sbOut q, nout) (sbRec q, 272) then
    .trap { trapOf x 0x16 with lane := lane, offs := 16 }
  else
    match placesOf s bl g gr [(sbIn q, nin, 0), (sbOut q, nout, 8)] with
    | .error e => .trap (rangeTrap x lane e.1 e.2)
    | .ok ps =>
      .ok ⟨[(⟨true, ps.getD 0 0, nin⟩, false), (⟨true, tr, 272⟩, false), (⟨true, ps.getD 1 0, nout⟩, true)], q ++ r,
        [255, 3] ++ ps⟩

/-- The plan of SBWD (R242). -/
def sbPlan (x : Sel) (s : State) (bl : Block) (g : Gang) (gr : Grid) (q : List Byte) : SCheck :=
  let lane := leastD 0 x.run
  match firstChk (sbChecks q) with
  | some c => .trap (chkTrap x lane c)
  | none =>
    match localPlace s bl g gr (sbRec q) 272 with
    | none => .trap (rangeTrap x lane (sbRec q) 16)
    | some tr =>
      if (lockHit s (tr / 4194304) true tr 272 false).isSome then .wait
      else
        let r := localBytes s tr 272
        if recValid r then sbRanges x s bl g gr q r tr else .trap { trapOf x 0x16 with lane := lane, offs := 16 }

/-- SBWD (R240, R242). -/
def effSbwd (a : Src) : Effect := syncIssue (.sbwd a) a 32 noCheck sbPlan

/-- One element of a row. -/
def rowWord (row : List Byte) (c : Nat) : Nat := leAt row (4 * c) 4

/-- A sum of two FP32 codes, rounded once. -/
def sumF32 (a b : Nat) : Nat := (fAdd fp32 .rne 0 (fmtVal fp32 a) (fmtVal fp32 b)).code

/-- GATHER's row b (R243). -/
def gatherRow (cols : Nat) (rows : List (List Byte)) (ms : List Nat) : List Byte :=
  (upTo cols).flatMap fun c =>
    match ms with
    | [] => bytesLE 4 0
    | i :: t => bytesLE 4 (t.foldl (fun acc j => sumF32 acc (rowWord (rows.getD j []) c)) (rowWord (rows.getD i []) c))

/-- SCATTER's row i (R243). -/
def scatterRow (cols : Nat) (r : List Byte) (rows : List (List Byte)) (i : Nat) : List Byte :=
  let b := recMap r i
  let n := ((upTo 128).filter fun j => recMap r j == b).length
  let row := rows.getD b []
  (upTo cols).flatMap fun c =>
    bytesLE 4 (if recRule r = 1 then (fDiv fp32 .rne (fmtVal fp32 (rowWord row c)) (intVal n 0)).code
      else if i = recRow r b then rowWord row c
      else 0)

/-- SBWD is performed. -/
def performSbwd (s : State) (o : EngineOp) : State :=
  let q := o.params.take 32
  let r := o.params.drop 32
  let nb := recNb r
  let rows := (upTo (if sbScatter q then nb else 128)).map fun i => localBytes s (opPlace o 0 + i * sbInPitch q) (4 * sbCols q)
  let out :=
    if sbScatter q then (upTo 128).map (scatterRow (sbCols q) r rows)
    else (upTo nb).map fun b => gatherRow (sbCols q) rows ((upTo 128).filter fun i => recMap r i == b)
  (upTo out.length).foldl (fun s i => localPut s (opPlace o 1 + i * sbOutPitch q) (out.getD i [])) s

/-! ## Completion (R228, R240) -/

/-- MATRIX_SYNC_OP_COMPLETE: the operation under way that holds its beam is performed; its locks go and its beam goes on
(R228, R240). -/
def execMatrixSyncOpComplete (core : Nat) (s : State) : Host.Outcome State Fault Refusal :=
  .next (match (coreOf s core).matrixOp with
    | none => s
    | some o =>
      match o.instr with
      | .mma _ _ | .mmaSig _ _ => s
      | i =>
        let s1 := match homeOfBlock s o.block with
          | none => s
          | some (_, _, gr) =>
            match i with
            | .sig _ => performSig s o gr
            | .sbwd _ => performSbwd s o
            | _ => performSync s core o gr
        matrixFree (freeBeam (dropLocks s1 core (opOwner o.inst)) o.beam o.inst) core)

/-! ## Meanings -/

/-- The meaning of SIG (R240). -/
def execSig (a : Src) (s : State) : Host.Outcome State Fault Refusal := issue 4 (effSig a) s
/-- The meaning of SBWD (R242). -/
def execSbwd (a : Src) (s : State) : Host.Outcome State Fault Refusal := issue 4 (effSbwd a) s

end Sys2Proof.Machine
end

