-- ==== Sys2Proof/Machine/RuleMode.lean ====
section
/-!
DEFINITION. Rule mode (R246-R255): RTAB, RULE and RGEN, the rule queue, and the events RULE_QUEUE_DISPATCH, RULE_GENERATION
and RULE_OP_COMPLETE. Opcode 0x6C.
-/
namespace Sys2Proof.Machine

open Sys2Proof

/-! ## The RULE block (R247) -/

def rlTile0 (q : List Byte) : Nat := bytesFld q 31 0
def rlTile1 (q : List Byte) : Nat := bytesFld q 63 32
def rlPitch (q : List Byte) : Nat := 16 * bytesFld q 83 64
def rlNx (q : List Byte) : Nat := 16 * bytesFld q 100 96
def rlNy (q : List Byte) : Nat := 16 * bytesFld q 108 104
def rlHl (q : List Byte) : Nat := bytesFld q 115 112
def rlCw (q : List Byte) : Nat := [1, 2, 4].getD (bytesFld q 121 120) 1
def rlMoore (q : List Byte) : Bool := bytesFld q 124 124 == 1
def rlChecker (q : List Byte) : Bool := bytesFld q 125 125 == 1
def rlBcode (q : List Byte) : Nat := bytesFld q 131 128
def rlG (q : List Byte) : Nat := bytesFld q 143 136
def rlGbase (q : List Byte) : Word := BitVec.ofNat 32 (bytesFld q 191 160)

/-- Columns and rows of a tile with its halo, RB, and the extent (R246). -/
def rlWide (q : List Byte) : Nat := rlNx q + 2 * rlHl q
def rlHigh (q : List Byte) : Nat := rlNy q + 2 * rlHl q
def rlRow (q : List Byte) : Nat := cdiv (rlWide q * rlCw q) 8
def rlExtent (q : List Byte) : Nat := (rlHigh q - 1) * rlPitch q + rlRow q

/-- A check of a rule block: RuleParameter at a field (R247). -/
def rlChk (bad : Bool) (offs : Nat) : Chk := ⟨bad, 0x15, offs, 0⟩

/-- The checks of a RULE block: its fields in order, the pitch that they call for, the overlap, GEN, the binding (R247). -/
def rlChecks (q : List Byte) (gen : Word) (bound : Bool) : List Chk :=
  let tile := fun a => a % 16 != 0 || bit a 24
  let f := bytesFld q
  let hl := rlHl q
  let g := rlG q
  let ranges : Range × Range := (⟨true, rlTile0 q, rlExtent q⟩, ⟨true, rlTile1 q, rlExtent q⟩)
  [rlChk (tile (rlTile0 q)) 0, rlChk (tile (rlTile1 q)) 4, rlChk (f 95 84 != 0) 10,
    rlChk (f 100 96 == 0 || decide (16 < f 100 96)) 12, rlChk (f 103 101 != 0) 12,
    rlChk (f 108 104 == 0 || decide (16 < f 108 104)) 13, rlChk (f 111 109 != 0) 13, rlChk (decide (8 < hl)) 14,
    rlChk (f 119 116 != 0) 14, rlChk (f 121 120 == 3 || (!rlMoore q && f 121 120 == 2)) 15, rlChk (f 123 122 != 0) 15,
    rlChk (f 127 126 != 0) 15, rlChk (decide (2 ^ rlCw q ≤ rlBcode q)) 16, rlChk (f 135 132 != 0) 16,
    rlChk (g == 0 || (hl != 0 && decide (hl < if rlChecker q then 2 * g else g))) 17, rlChk (f 159 144 != 0) 18,
    rlChk (f 255 192 != 0) 24, rlChk (decide (rlPitch q < rlRow q)) 8, rlChk (rangesMeet ranges.1 ranges.2) 4, rlChk (decide (g < (gen - rlGbase q).toNat)) 20,
    rlChk (!bound) noField]

/-! ## The rule queue (R250, R251) -/

/-- The operations of a core in their order. -/
def ruleOps (s : State) (core : Nat) : List EngineOp :=
  (match (coreOf s core).ruleOp with
  | some o => [o]
  | none => []) ++ (coreOf s core).ruleQ

/-- The GEN that some operations leave to a block (R250). -/
def genAfter (block : Nat) (gen : Word) (l : List EngineOp) : Word :=
  l.foldl (fun v o =>
    if o.block ≠ block then v
    else
      match o.instr with
      | .rgen _ => BitVec.ofNat 32 (o.args.getD 1 0)
      | .rule _ => rlGbase o.params + BitVec.ofNat 32 (rlG o.params)
      | _ => v) gen

/-- A rule operation enters the queue, and its beam is held (R251). -/
def ruleEnter (x : Sel) (i : Instr) (s : State) (ranges : List (Range × Bool)) (params : List Byte) (places : List Nat) : Res :=
  let core := selCore x
  if 8 ≤ (coreOf s core).ruleQ.length ∨ locksFree s core ranges = false then .hold s
  else
    let r := newKey s
    let o : EngineOp :=
      { instr := i, beam := x.key, block := x.beam.block, handle := none, inst := r.1, params := params,
        args := [(selSup x).toNat, places.getD 0 0, places.getD 1 0, maskOf x.run, (selPc x).toNat], pages := [], source := none,
        ready := true, data := [], err := none, written := [] }
    let s1 := takeLocks (draw r.2) core (opOwner r.1) (drawn r.2 256) ranges
    let s2 := setCore (onBeam s1 x.key fun b => { b with hold := .engine r.1 }) core fun c => { c with ruleQ := c.ruleQ ++ [o] }
    .done (post s2 0 (.ruleQueueDispatch core)) []

/-- Steps 2 to 6 of R251 for an instruction with a block of `size` bytes. The beam's earlier accesses are performed first, the
stores of the block among them. -/
def ruleIssue (i : Instr) (a : Src) (size : Nat)
    (plan : Sel → State → Block → Gang → Grid → List Byte → Except Trap (List (Range × Bool) × List Nat)) : Effect := fun x s0 =>
  gated x s0 x.run [srcUse a 1] [] (released s0 x.key .gang fun s =>
    match homeOf s x.beam with
    | none => .hold s
    | some (bl, g, gr) =>
      let lane := leastD 0 x.run
      let adr := (laneReg (laneOf x.beam lane) a.r).toNat
      if adr % 16 ≠ 0 then .trap s (laneTrap x 0x06 lane (BitVec.ofNat 64 adr) [])
      else
        match localPlace s bl g gr adr size with
        | none => .trap s (laneTrap x 0x08 lane (BitVec.ofNat 64 adr) [])
        | some t =>
          let q := localBytes s t size
          match plan x s bl g gr q with
          | .error e => .trap s e
          | .ok (r, p) => ruleEnter x i s r q p)

/-! ## RTAB (R252) -/

def rtSrc (q : List Byte) : Nat := bytesFld q 31 0
def rtNe (q : List Byte) : Nat := bytesFld q 43 32

/-- The plan of RTAB. -/
def rtPlan (x : Sel) (s : State) (bl : Block) (g : Gang) (gr : Grid) (q : List Byte) :
    Except Trap (List (Range × Bool) × List Nat) :=
  let lane := leastD 0 x.run
  match firstChk [rlChk (rtSrc q % 16 != 0 || bit (rtSrc q) 24) 0, rlChk (rtNe q == 0 || decide (2048 < rtNe q)) 4,
      rlChk (bytesFld q 127 44 != 0) 5] with
  | some c => .error (chkTrap x lane c)
  | none =>
    match placesOf s bl g gr [(rtSrc q, rtNe q, 0)] with
    | .error e => .error (rangeTrap x lane e.1 e.2)
    | .ok ps => .ok ([(⟨true, ps.headD 0, rtNe q⟩, false)], ps)

/-- RTAB. -/
def effRtab (a : Src) : Effect := ruleIssue (.rtab a) a 16 rtPlan

/-- The core's table from n bytes at a place, tagged with the block (R252). -/
def loadTable (s : State) (core block at_ n : Nat) : State :=
  let l := localBytes s at_ n
  let t : NMap Byte := (upTo n).filterMap fun i => if l.getD i 0 = 0 then none else some (i, l.getD i 0)
  setCore s core fun c => { c with ruleTab := t, ruleOwner := some block }

/-! ## RULE (R247-R250, R253) -/

/-- The plan of RULE. -/
def rlPlan (x : Sel) (s : State) (bl : Block) (g : Gang) (gr : Grid) (q : List Byte) :
    Except Trap (List (Range × Bool) × List Nat) :=
  let lane := leastD 0 x.run
  let gen := genAfter x.beam.block bl.gen (ruleOps s (selCore x))
  match firstChk (rlChecks q gen bl.tab.isSome) with
  | some c => .error (chkTrap x lane c)
  | none =>
    let n := rlExtent q
    match placesOf s bl g gr [(rlTile0 q, n, 0), (rlTile1 q, n, 4)] with
    | .error e => .error (rangeTrap x lane e.1 e.2)
    | .ok ps => .ok ([(⟨true, ps.getD 0 0, n⟩, true), (⟨true, ps.getD 1 0, n⟩, true)], ps)

/-- RULE. -/
def effRule (a : Src) : Effect := ruleIssue (.rule a) a 32 rlPlan

/-- RGEN (R251, R254). -/
def effRgen (a : Src) : Effect := fun x s0 =>
  gated x s0 x.run [srcUse a 1] []
    (if !uniform x (fun l => laneReg l a.r) then .trap s0 (uniformTrap x)
    else released s0 x.key .gang fun s =>
      ruleEnter x (.rgen a) s [] [] [(laneReg (laneOf x.beam (leastD 0 x.run)) a.r).toNat])

/-! ## Generations (R246, R248, R249) -/

/-- The cells of a tile, row by row. -/
def readCells (s : State) (q : List Byte) (at_ : Nat) : List (List Nat) :=
  (upTo (rlHigh q)).map fun y =>
    let v := leNat (localBytes s (at_ + y * rlPitch q) (rlRow q))
    (upTo (rlWide q)).map fun x => fld v ((x + 1) * rlCw q - 1) (x * rlCw q)

/-- Cells as bits, the first lowest. -/
def packCells (cw : Nat) : List Nat → Nat
  | [] => 0
  | c :: t => c % 2 ^ cw + 2 ^ cw * packCells cw t

/-- Writes the cells of a tile; bits past the last cell of a row stay. -/
def writeCells (s : State) (q : List Byte) (at_ : Nat) (cells : List (List Nat)) : State :=
  (upTo (rlHigh q)).foldl (fun s y =>
    let a := at_ + y * rlPitch q
    let bits := 2 ^ (rlWide q * rlCw q)
    let old := leNat (localBytes s a (rlRow q))
    localPut s a (bytesLE (rlRow q) (packCells (rlCw q) (cells.getD y []) + bits * (old / bits)))) s

/-- The value at (x, y), counted from the corner of the halo; BCODE outside the tile (R248). -/
def cellAt (q : List Byte) (cells : List (List Nat)) (x y : Int) : Nat :=
  if x < 0 ∨ y < 0 then rlBcode q else ((cells.getD y.toNat []).getD x.toNat (rlBcode q))

/-- idx (R248). -/
def cellIndex (q : List Byte) (v : List (List Nat)) (x y : Int) : Nat :=
  let c := cellAt q v
  if rlMoore q then
    let sb := [4, 5, 7].getD (bytesFld q 121 120) 4
    c x y * 2 ^ sb + c (x - 1) (y - 1) + c x (y - 1) + c (x + 1) (y - 1) + c (x - 1) y + c (x + 1) y + c (x - 1) (y + 1) +
      c x (y + 1) + c (x + 1) (y + 1)
  else
    let cw := rlCw q
    c x y + 2 ^ cw * c x (y - 1) + 2 ^ (2 * cw) * c (x + 1) y + 2 ^ (3 * cw) * c x (y + 1) + 2 ^ (4 * cw) * c (x - 1) y

/-- e, the band of a phase (R249). -/
def bandOf (q : List Byte) (i phase : Nat) : Nat :=
  if rlHl q = 0 then 0 else if rlChecker q then rlHl q - 1 - (2 * i + phase) else rlHl q - 1 - i

/-- One phase: the new cells from V (R249). -/
def rulePhase (q : List Byte) (table : NMap Byte) (i phase : Nat) (v : List (List Nat)) : List (List Nat) :=
  let e := bandOf q i phase
  let lo := rlHl q - e
  (upTo (rlHigh q)).map fun y => (upTo (rlWide q)).map fun x =>
    let inside := decide (lo ≤ x) && decide (x < rlHl q + rlNx q + e) && decide (lo ≤ y) && decide (y < rlHl q + rlNy q + e)
    if inside && (!rlChecker q || (x + y) % 2 == phase) then (lookD table (cellIndex q v x y) 0).toNat % 2 ^ rlCw q
    else (v.getD y []).getD x 0

/-- rule_generation(i) of R249 on the two tiles. -/
def ruleGeneration (q : List Byte) (table : NMap Byte) (i t0 t1 : Nat) (s : State) : State :=
  let src := if i % 2 = 0 then t0 else t1
  let dst := if i % 2 = 0 then t1 else t0
  let c0 := rulePhase q table i 0 (readCells s q src)
  writeCells s q dst (if rlChecker q then rulePhase q table i 1 c0 else c0)

/-- The least time of one generation (R253). -/
def generationTime (q : List Byte) (i : Nat) : Nat :=
  let u := fun p => let e := 2 * bandOf q i p; (rlNx q + e) * (rlNy q + e)
  if rlChecker q then cdiv (cdiv (u 0) 2) 16384 + cdiv (cdiv (u 1) 2) 16384 else cdiv (u 0) 16384

/-! ## Events (R251-R255) -/

/-- GEN - GBASE of a RULE. -/
def genDone (s : State) (o : EngineOp) : Nat :=
  (((look s.blocks o.block).map fun b => b.gen).getD 0 - rlGbase o.params).toNat

/-- Whether a RULE has generations to perform. -/
def ruleMore (s : State) (o : EngineOp) : Bool := decide (genDone s o < rlG o.params)

/-- RULE_QUEUE_DISPATCH: the array begins the next operation; a RULE whose table is another block's reloads it first
(R251, R252). -/
def execRuleQueueDispatch (core : Nat) (s : State) : Host.Outcome State Fault Refusal :=
  .next (match (coreOf s core).ruleOp, (coreOf s core).ruleQ with
    | none, o :: t =>
      let s1 := setCore s core fun c => { c with ruleOp := some o, ruleQ := t }
      match o.instr with
      | .rule _ =>
        let fresh := (coreOf s core).ruleOwner == some o.block
        let s2 := match fresh, homeOfBlock s1 o.block with
          | false, some (bl, g, gr) =>
            match bl.tab with
            | some (src, ne) => loadTable s1 core o.block ((localPlace s1 bl g gr src.toNat ne).getD 0) ne
            | none => s1
          | false, none => s1
          | true, _ => s1
        let load := if fresh then 0 else 32
        if ruleMore s2 o then postFrom s2 (load + generationTime o.params (genDone s2 o)) (.ruleGeneration core)
        else postFrom s2 (load + 1) (.ruleOpComplete core)
      | .rtab _ => postFrom s1 32 (.ruleOpComplete core)
      | _ => postFrom s1 1 (.ruleOpComplete core)
    | none, [] => s
    | some _, _ => s)

/-- The array is free for its next operation. -/
def ruleFree (s : State) (core : Nat) : State :=
  nudge (post (setCore s core fun c => { c with ruleOp := none }) 0 (.ruleQueueDispatch core))

/-- Lanes at their instruction again, not in a macro (R255). -/
def rewindLane (pc : Word) (l : Lane) : Lane := { l with pc := pc, min := false, mstep := 0 }

/-- The beam of a rule operation that is stopped or withdrawn stands at the instruction again: at once, or where it is in a
handler, once the handler has returned (R255). -/
def rewindBeam (s : State) (o : EngineOp) : State :=
  let run := o.args.getD 3 0
  let pc := BitVec.ofNat 32 (o.args.getD 4 0)
  let h := Hold.engine o.inst
  onBeam (dropLocks s (o.beam / 64) (opOwner o.inst)) o.beam fun b =>
    let b1 := { b with under := b.under.map fun u => if u = h then .rewind run pc else u }
    if b.hold = h then beamLanes { b1 with hold := .none } (bitsOf 32 run) (fun _ => rewindLane pc) else b1

/-- Whether a block is being saved or flushed, or its grid ended by ABORT: its rule operations stop and are withdrawn (R255,
R298). -/
def blockStopping (s : State) (k : Nat) : Bool :=
  match homeOfBlock s k with
  | some (b, _, gr) =>
    gr.aborted || match b.leave with
      | .flush | .save | .saveWait | .saveWrite => true
      | .none | .drain _ | .done => false
  | none => false

/-- Queued operations of a core are withdrawn (R255). -/
def withdrawWhere (s : State) (core : Nat) (p : EngineOp → Bool) : State :=
  let out := (coreOf s core).ruleQ.filter p
  out.foldl rewindBeam (setCore s core fun c => { c with ruleQ := c.ruleQ.filter fun o => !p o })

/-- The queued operations of a block that is saved or flushed, or of an aborted grid, are withdrawn (R255, R298). -/
def withdrawRules (s : State) (core block : Nat) : State := withdrawWhere s core fun o => o.block == block

/-- RULE_GENERATION: one generation of the RULE under way is performed; a RULE of a block that is saved or flushed stops
there (R249, R253, R255). -/
def execRuleGeneration (core : Nat) (s : State) : Host.Outcome State Fault Refusal :=
  .next (match (coreOf s core).ruleOp with
    | none => s
    | some o =>
      match o.instr with
      | .rule _ =>
        if !ruleMore s o then s
        else
          let s1 := ruleGeneration o.params (coreOf s core).ruleTab (genDone s o) (o.args.getD 1 0) (o.args.getD 2 0) s
          let s2 := { s1 with blocks := alter s1.blocks o.block fun b => { b with gen := b.gen + 1 } }
          if !ruleMore s2 o then postFrom s2 1 (.ruleOpComplete core)
          else if blockStopping s2 o.block then ruleFree (rewindBeam s2 o) core
          else postFrom s2 (generationTime o.params (genDone s2 o)) (.ruleGeneration core)
      | _ => s)

/-- RULE_OP_COMPLETE: the operation under way has been performed; its locks go and its beam goes on (R251-R254). -/
def execRuleOpComplete (core : Nat) (s : State) : Host.Outcome State Fault Refusal :=
  .next (match (coreOf s core).ruleOp with
    | none => s
    | some o =>
      let onBlock := fun (s : State) (f : Block → Block) => { s with blocks := alter s.blocks o.block f }
      let s1 := match o.instr with
        | .rtab _ =>
          onBlock (loadTable s core o.block (o.args.getD 1 0) (rtNe o.params)) fun b =>
            { b with tab := some (BitVec.ofNat 32 (rtSrc o.params), rtNe o.params) }
        | .rgen _ => onBlock s fun b => { b with gen := BitVec.ofNat 32 (o.args.getD 1 0) }
        | _ => s
      ruleFree (freeBeam (dropLocks s1 core (opOwner o.inst)) o.beam o.inst) core)

/-! ## Meanings -/

/-- The meaning of RTAB (R252). -/
def execRtab (a : Src) (s : State) : Host.Outcome State Fault Refusal := issue 4 (effRtab a) s
/-- The meaning of RULE (R247-R251). -/
def execRule (a : Src) (s : State) : Host.Outcome State Fault Refusal := issue 4 (effRule a) s
/-- The meaning of RGEN (R254). -/
def execRgen (a : Src) (s : State) : Host.Outcome State Fault Refusal := issue 4 (effRgen a) s

end Sys2Proof.Machine
end

