-- ==== Sys2Proof/Machine/Retire.lean ====
section
/-!
DEFINITION. The end of gangs and grids (R79, R189, R202, R234, R298, R311, R312): what a block waits for, releasing its
resources, and the events GRID_END, COMPLETION_WORD_WRITE and ABORT.
-/
namespace Sys2Proof.Machine

open Sys2Proof

/-! ## Blocks that leave -/

/-- Whether R189, R202 and R234 hold for a block, and it has no rule operation. -/
def blockQuiet (s : State) (key : Nat) (b : Block) : Bool :=
  !recordsOut s b &&
    (b.handles.all fun e =>
      match (handleAt s b.core e).state with
      | .free | .full => true
      | .filling | .draining => false) &&
    ((matrixOps s b.core).all fun o => o.block != key) && (ruleOps s b.core).all fun o => o.block != key

/-- Whether a step belongs to a beam that is gone. -/
def stepOfBeam (ks : List Nat) : Instr → Bool
  | .producerComplete c b _ | .writePerformed c b _ | .yieldExpiry c b | .pgraceExpiry c b | .tlbinvComplete c b =>
    ks.contains (64 * c + b)
  | _ => false

/-- The accesses of a beam that leaves its core are performed, and one of a draining block releases at .dev (R277, R311). -/
def leaveBeam (s : State) (b : Block) (k : Nat) : State :=
  match b.leave with
  | .drain _ => releaseAt s k .dev
  | .none | .flush | .save | .saveWait | .saveWrite | .done => performAll s k

/-- A block leaves its core and gives up everything it took (R79): its beams' accesses are performed first (R311). -/
def clearBlock (grid : Nat) (s : State) (key : Nat) : State :=
  match look s.blocks key with
  | none => s
  | some b =>
    let ks := blockBeams b
    let s1 := ks.foldl (fun s k => leaveBeam s b k) s
    let s2 := b.handles.foldl (fun s e => setHandle s b.core e fun h => { h with state := .free, drn := 0, pf := false }) s1
    let s3 := setCore s2 b.core fun c =>
      { c with
        ruleOwner := if c.ruleOwner = some key then none else c.ruleOwner
        walks := c.walks.map fun w => { w with wants := w.wants.filter fun a => !ks.contains a.key }
        lastGrid := some grid }
    { s3 with
      cores := s3.cores.map fun c => (c.1, { c.2 with locks := c.2.locks.filter fun l => !(l.core == b.core && b.handles.contains l.entry) })
      agenda := s3.agenda.filter fun d => !stepOfBeam ks d.step
      beams := s3.beams.filter fun x => !ks.contains x.1
      commits := s3.commits.map fun m => (m.1, { m.2 with beams := m.2.beams.filter fun k => !ks.contains k })
      blocks := del s3.blocks key }

/-- A gang that a class-0 gang's request names has left: what it took stays reserved (R70). -/
def victimGone (s : State) (cl gk : Nat) (blocks : List Block) (channels : Nat) : State :=
  setCluster s cl fun c =>
    { c with reserved := c.reserved.map fun r =>
        if r.victims.contains gk then
          { r with victims := r.victims.filter (fun v => v != gk), freed := r.freed ++ blocks, channels := r.channels + channels }
        else r }

/-- A save area goes back to the pool (R307), and the gangs that wait for room try again. -/
def freeArea (s : State) (part : Nat) (a : Option (Nat × Nat)) : State :=
  match a with
  | none => s
  | some (first, n) =>
    let s1 := { s with pool := put s.pool part ((lookD s.pool part []).filter fun x => x != (first, n)) }
    s1.gangs.foldl (fun s g =>
      if (gangBlocks s g.2).any fun b => b.leave == .saveWait then post s 0 (.savePoolAlloc g.1) else s) s1

/-- A gang's blocks leave their cores, and its cluster and scheduler look for what now fits (R79, R81). -/
def leaveCluster (s : State) (gk : Nat) (g : Gang) (gr : Grid) : State :=
  let bs := gangBlocks s g
  let s1 := victimGone (g.blocks.foldl (clearBlock g.grid) s) g.cluster gk bs gr.hgch
  handleMoved (post (postFirst s1 (.gangStart g.cluster)) 0 (.gangDeal gr.part))

/-- Whether a record that the grid may have pushed with TAPE is still to be read: the rewind of its queue is under way (R73, R311;
log 33). -/
def tapeWanted (s : State) (g : Grid) : Bool := g.tapeon && (queueOf s g.queue).rewind.isSome

/-- Whether a grid ends (R311): it has no gang left, and no record on the tape depends on it. -/
def gridOver (s : State) (g : Grid) : Bool :=
  g.live == 0 && g.returned.isEmpty && decide (g.lim ≤ g.next) && g.ending.isNone && !tapeWanted s g

/-- A gang is no more: its grid may be over. -/
def dropGang (s : State) (gk : Nat) (g : Gang) : State :=
  let s1 := { s with gangs := del s.gangs gk, grids := alter s.grids g.grid fun x => { x with live := x.live - 1 } }
  match look s1.grids g.grid with
  | some gr => if gridOver s1 gr then post s1 0 (.gridEnd g.grid) else s1
  | none => s1

/-- A gang retires (R311). -/
def retireGang (s : State) (gk : Nat) (g : Gang) (gr : Grid) : State :=
  dropGang (freeArea (leaveCluster s gk g gr) gr.part g.area) gk g

/-! ## The end of a grid (R312) -/

/-- GRID_END: a grid with no gang left issues its end-of-grid commit (R311, R312); its marker crosses no closed Heliograph join, and starts
from the lowest core of the partition (R264, log 50). -/
def execGridEnd (grid : Nat) (s : State) : Host.Outcome State Fault Refusal :=
  .next (match look s.grids grid with
    | none => s
    | some g =>
      if !gridOver s g then s
      else
        let (c, s1) := newCommit s g.part 40 (hgCores s (leastD 0 (coresOf s g.part))) fun m => { m with grid := some grid }
        { s1 with grids := alter s1.grids grid fun x => { x with ending := some c } })

/-- COMPLETION_WORD_WRITE: the rest of R312: the release at .sys of every sector, which waits where a write-back cannot travel (R321),
the completion word, RUN, and the constant L1 lines of cores whose last resident grid this was. -/
def execCompletionWordWrite (grid : Nat) (s : State) : Host.Outcome State Fault Refusal :=
  .next (match look s.grids grid with
    | none => s
    | some g =>
      if g.ending.isNone then s
      else if !(sectorsOf s g.part).all fun sec => syncOpen s sec .sys then post s 40 (.completionWordWrite grid)
      else
        let s1 := (sectorsOf s g.part).foldl (fun s sec => releaseCaches s sec .sys) s
        let s2 := { s1 with grids := del s1.grids grid }
        let s3 := writeSignal s2 g.part g.queue g.tag.toNat g.signal.toNat g.deadline (if g.aborted then stAborted else stDone)
        let s4 := (upTo 48).foldl (fun s c =>
          if (coreOf s c).lastGrid = some grid ∧ (blocksOn s c).isEmpty = true then
            setCore s c fun x => { x with l1 := x.l1.filter fun e => !e.2.2, lastGrid := none }
          else s) s3
        if g.popped then post s4 0 (.rewindPop g.queue) else s4)

/-! ## ABORT (R298) -/

/-- A block of an ended grid stops, and what it has under way completes or is withdrawn. -/
def abortBlock (s : State) (key : Nat) : State :=
  match look s.blocks key with
  | none => s
  | some b =>
    let s1 := { s with blocks := put s.blocks key { b with leave := .flush } }
    let s2 := (blockBeams b).foldl (fun s k => onBeam s k fun x => { x with stopped := true }) s1
    withdrawRules (shipBlock s2 b) b.core key

/-- A gang of an ended grid: it stops where it is resident, and is discarded elsewhere. -/
def abortGang (s : State) (gk : Nat) (g : Gang) (gr : Grid) : State :=
  match g.state with
  | .resident => post (freeArea (g.blocks.foldl abortBlock { s with gangs := put s.gangs gk { g with area := none } }) gr.part g.area)
      0 (.gangRetire gk)
  | .starting => dropGang (freeArea (leaveCluster s gk g gr) gr.part g.area) gk g
  | .held cl =>
    let s1 := setCluster s cl fun c =>
      { c with held := dropOne gk c.held, reserved := c.reserved.filter fun r => r.gang != gk }
    postFirst (dropGang (freeArea s1 gr.part g.area) gk g) (.gangStart cl)
  | .listed =>
    let s1 := { s with gangs := del s.gangs gk }
    let s2 := if gr.returned.contains gk then s1 else { s1 with grids := alter s1.grids g.grid fun x => { x with live := x.live - 1 } }
    freeArea s2 gr.part g.area

/-- ABORT: a grid is ended (R288, R298). -/
def execAbort (grid : Nat) (s : State) : Host.Outcome State Fault Refusal :=
  .next (match look s.grids grid with
    | none => s
    | some gr =>
      if gr.aborted || gr.ending.isSome then s
      else
        let mine := s.gangs.filter fun g => g.2.grid == grid
        let s1 := mine.foldl (fun s g => abortGang s g.1 g.2 gr) s
        let s2 := { s1 with grids := alter s1.grids grid fun x => { x with aborted := true, next := x.lim, returned := [] } }
        post s2 0 (.gridEnd grid))

end Sys2Proof.Machine
end

