-- ==== Sys2Proof/Machine/Save.lean ====
section
/-!
DEFINITION. Save areas (R305-R308): the bytes that a saved block becomes, and a block from those bytes.
-/
namespace Sys2Proof.Machine

open Sys2Proof

/-! ## The layout of a gang's area (R305, R307) -/

/-- Bytes of one block's area. -/
def blockArea (g : Grid) : Nat := 4096 + 4 * allot g * g.thr + allot g * g.thr / 8 + 262144 * g.accs + g.lmb

/-- Where block k's area begins, and where the thread records begin. -/
def areaOf (g : Grid) (k : Nat) : Nat := k * (cdiv (blockArea g) 4096 * 4096)
def threadsOf (g : Grid) : Nat := areaOf g (g.nblk - 1) + blockArea g

/-- Granules of a gang's area. -/
def areaGranules (g : Grid) : Nat := cdiv (threadsOf g + 48 * g.thr * g.nblk) 65536

/-- SAVEP, and the granules of the pool (R298). -/
def poolBase (s : State) (part : Nat) : Nat := csrN s part 0x306 / 65536 * 65536 + csrN s part 0x307 % 65536 * 2 ^ 32
def poolSize (s : State) (part : Nat) : Nat := csrN s part 0x308 % 2 ^ 24

/-! ## Writing (R305) -/

/-- The block record. -/
def blockRecord (b : Block) : Nat :=
  0x53424B5A + 2 ^ 33 * b.k + 2 ^ 35 * b.doneByDrain.toNat + 2 ^ 64 * b.retired + 2 ^ 96 * b.gen.toNat +
    (match b.tab with
      | some (src, ne) => 2 ^ 128 * src.toNat + 2 ^ 180 * ne
      | none => 0)

/-- A slot's record. -/
def slotRecord (s : Slot) : Nat := modeCode s.mode + 256 * s.kcnt

/-- A channel's record. -/
def chanRecord (c : Chan) : Nat := c.e + 2 ^ 9 * c.pend + 2 ^ 18 * c.cnt + 2 ^ 32 * c.ph.toNat

/-- What holds a beam, the innermost level first. -/
def holdsOf (b : Beam) : List Hold := b.hold :: b.under

/-- The channel and phase that a hold awaits, and the commit. -/
def barrierHold : Hold → Option (Nat × Word)
  | .barrier c p => some (c, p)
  | .none | .yield _ | .commit _ | .tlbinv _ | .engine _ | .rewind _ _ => none
def commitHold : Hold → Option Nat
  | .commit c => some c
  | .none | .yield _ | .barrier _ _ | .tlbinv _ | .engine _ | .rewind _ _ => none

/-- The wait on a channel that a beam's record tells of, and the commit (R305): the innermost. -/
def waitOf (b : Beam) : Option (Nat × Word) := firstSome barrierHold (holdsOf b)
def ticketOf (b : Beam) : Option Nat :=
  match b.ticket with
  | some c => some c
  | none => firstSome commitHold (holdsOf b)

/-- Every commit that a beam awaits, at any level. -/
def commitsOf (b : Beam) : List Nat := (b.ticket.toList ++ (holdsOf b).filterMap commitHold).eraseDups

/-- What the model keeps of a saved beam beside its area (log 39). -/
def keptOf (b : Beam) : Kept := ⟨holdsOf b, b.waiting, b.pend⟩

/-- A beam's record. -/
def beamRecord (b : Beam) (halt : Bool) : Nat :=
  let w := waitOf b
  let t := ticketOf b
  b.psw.toNat + 2 ^ 32 * (w.map fun x => x.1).getD 0 + 2 ^ 38 * w.isSome.toNat + 2 ^ 39 * t.isSome.toNat + 2 ^ 40 * b.flvl +
    2 ^ 42 * halt.toNat + 2 ^ 64 * ((w.map fun x => x.2.toNat).getD 0) + 2 ^ 96 * (t.getD 0 % 2 ^ 32) +
    (if b.flvl = 0 then 0 else 2 ^ 128 * b.framea.toNat) + 2 ^ 192 * b.arr

/-- A thread's record. -/
def threadRecord (l : Lane) : List Byte :=
  bytesLE 8 (tableEntry l) ++ bytesLE 4 (l.preds ||| 1).toNat ++ bytesLE 4 (l.fstat.toNat % 32) ++ bytesLE 4 l.srctr.toNat ++
    bytesLE 4 l.randctr.toNat ++ bytesLE 8 0 ++ bytesLE 16 (if l.state = .parked then l.frec.toNat else 0)

/-- The lanes of a block, in thread order. -/
def blockLanes (s : State) (b : Block) : List Lane :=
  (blockBeams b).flatMap fun k => ((beamOf s k).map fun x => x.lanes).getD (List.replicate 32 Lane.start)

/-- The elements of a slot, 8 bytes each. -/
def slotBytes (s : Slot) : List Byte :=
  (upTo 128).flatMap fun i =>
    let row := s.elems.filter fun e => e.1 / 256 == i
    (upTo 256).flatMap fun j =>
      let e := lookD row (256 * i + j) (0, 0)
      bytesLE 4 e.1.toNat ++ bytesLE 4 e.2.toNat

/-- n records of a size, those past the list zero. -/
def records (n size : Nat) (l : List Nat) : List Byte := (upTo n).flatMap fun i => bytesLE size (l.getD i 0)

/-- The bytes of a block's area. -/
def blockImage (s : State) (b : Block) (g : Gang) (gr : Grid) : List Byte :=
  let lanes := blockLanes s b
  bytesLE 64 (blockRecord b) ++
    records 24 8 (b.slots.map fun i => slotRecord (slotAt s b.core i)) ++
    records 8 16 ((upTo 8).map fun k => let p := lookD b.scales k (0, 0); p.1.toNat + 2 ^ 64 * p.2) ++
    records 64 8 (if b.k = 0 then g.chans.map chanRecord else []) ++
    records 64 16 (b.handles.map fun e => (statusWord (handleAt s b.core e)).toNat) ++
    records 64 32 ((blockBeams b).map fun k => ((beamOf s k).map fun x => beamRecord x (halted s k)).getD 0) ++
    List.replicate 128 0 ++
    lanes.flatMap (fun l => (upTo (allot gr)).flatMap fun n => bytesLE 4 (laneReg l n).toNat) ++
    lanes.flatMap (fun l => (upTo (allot gr / 8)).flatMap fun n =>
      bytesLE 1 (maskOf ((upTo 8).filter fun i => !l.empty.contains (8 * n + i)))) ++
    b.slots.flatMap (fun i => slotBytes (slotAt s b.core i)) ++
    memBytes s.mem (localBase b.core + b.lmbase) b.lmb

/-- Writes bytes of the pool. -/
def poolPut (s : State) (part pa : Nat) (l : List Byte) : State := homePut s part (l.length / 128 + 2) pa l

/-- Whether a gang's area can be reached from a core (R321): its granules lie in one stack, or in two that follow each other. -/
def poolOpen (s : State) (part core : Nat) (area : Option (Nat × Nat)) : Bool :=
  match area with
  | some (first, n) =>
    pathOpen s (quarterOf core) part 0 (poolBase s part + 65536 * first) &&
      pathOpen s (quarterOf core) part 0 (poolBase s part + 65536 * (first + n) - 1)
  | none => true

/-- A block's part of its gang's area is written. -/
def writeBlock (s : State) (b : Block) (g : Gang) (gr : Grid) (first : Nat) : State :=
  let base := poolBase s gr.part + 65536 * first
  let s1 := poolPut s gr.part (base + areaOf gr b.k) (blockImage s b g gr)
  poolPut s1 gr.part (base + threadsOf gr + 48 * gr.thr * b.k) ((blockLanes s b).flatMap threadRecord)

/-! ## Reading (R308) -/

/-- Bytes of the pool. -/
def poolGet (s : State) (part pa n : Nat) : List Byte := homeRange s part (n / 128 + 2) pa n

/-- The state that a counter-table entry codes. -/
def laneStateOf : Nat → LaneState
  | 1 => .waiting
  | 2 => .parked
  | 3 => .exited
  | _ => .runnable

/-- The registers that some bytes list, from r on. -/
def regsFrom (l : List Byte) : Nat → NMap Word
  | 0 => []
  | n + 1 => regsFrom l n ++ let v := leAt l (4 * n) 4; if v = 0 then [] else [(n, BitVec.ofNat 32 v)]

/-- A lane from its registers, their full bits and its thread record. -/
def laneFrom (a : Nat) (regs full rec_ : List Byte) : Lane :=
  let e := leAt rec_ 0 8
  { regs := regsFrom regs a
    empty := (upTo a).filter fun r => !bit (full.getD (r / 8) 0).toNat (r % 8)
    preds := BitVec.ofNat 32 (leAt rec_ 8 4) ||| 1
    fstat := BitVec.ofNat 32 (leAt rec_ 12 4 % 32)
    srctr := BitVec.ofNat 32 (leAt rec_ 16 4)
    randctr := BitVec.ofNat 32 (leAt rec_ 20 4)
    pc := BitVec.ofNat 32 e
    min := bit e 45
    mstep := if bit e 45 then fld e 44 40 else 0
    state := laneStateOf (fld e 34 32)
    jidx := if fld e 34 32 = 1 then fld e 39 36 else 0
    frec := if fld e 34 32 = 2 then BitVec.ofNat 128 (leAt rec_ 32 16) else 0 }

/-- A slot from its record and elements; bits 31:25 of a residue word are reserved and zero (R12, R47). -/
def slotFrom (r : Nat) (l : List Byte) : Slot :=
  { mode := modeOf (r % 4)
    kcnt := fld r 15 8
    elems := ((upTo 32768).map fun i => (i, BitVec.ofNat 32 (leAt l (8 * i) 4), BitVec.ofNat 32 (leAt l (8 * i + 4) 4 % 2 ^ 25))).filter elemListed }

/-- The wait that a record holds: WV, WCH and WPH. -/
def recordWait (r : Nat) : Hold := if bit r 38 then .barrier (fld r 37 32) (BitVec.ofNat 32 (fld r 95 64)) else .none

/-- Kept holds with the innermost wait on a channel as the record has it, and without the commit of the ticket, which holds the
beam at every level (R308). -/
def holdsWith (r : Nat) : List Hold → List Hold
  | [] => []
  | h :: t => if (barrierHold h).isSome then recordWait r :: t else h :: holdsWith r t

/-- The holds of a restored beam: those kept; where none are kept, the record's wait stands beneath every handler (R265, R308;
log 39). -/
def holdsFrom (r : Nat) (kept : Option Kept) : List Hold :=
  match kept with
  | some x => (holdsWith r x.holds).map fun h => if h = .commit (fld r 127 96) then .none else h
  | none => List.replicate (fld r 41 40) .none ++ [recordWait r]

/-- A beam from its record and its lanes. -/
def beamFrom (block idx r : Nat) (lanes : List Lane) (kept : Option Kept) : Beam :=
  let holds := holdsFrom r kept
  { beamStart block idx 0 with
    lanes := lanes
    psw := BitVec.ofNat 32 r
    flvl := fld r 41 40
    framea := BitVec.ofNat 64 (fld r 191 128)
    hold := holds.headD .none
    under := holds.drop 1
    ticket := if bit r 39 then some (fld r 127 96) else none
    arr := fld r 255 192
    waiting := (kept.map fun x => x.waiting).getD []
    pend := (kept.map fun x => x.entries).getD []
    nextId := (kept.map fun x => (x.entries.foldl (fun m p => Nat.max m (p.id + 1)) 0)).getD 0 }

/-- A channel from its record. -/
def chanFrom (r : Nat) : Chan := ⟨fld r 8 0, fld r 17 9, fld r 26 18, BitVec.ofNat 32 (fld r 63 32)⟩

/-- A handle of a resumed block: a Full one is a new instance (R202). Its range is not among what is saved, so none is recorded:
R202 does not say. DESIGN CHOICE (log 39). -/
def handleFrom (s : State) (core e r : Nat) : State :=
  if r % 4 = 2 then
    newInstance s core e fun h =>
      { h with state := .full, err := fld r 31 24, nvs := fld r 47 32, eva := BitVec.ofNat 64 (fld r 127 64), wasFull := fld r 31 24 == 0 }
  else s

/-- A commit that a saved beam awaits is kept for it as a ticket (R189). -/
def keepTicket (k : Nat) (s : State) (c : Nat) : State :=
  { s with commits := alter s.commits c fun m => { m with beams := m.beams.filter (fun x => x != k), tickets := m.tickets + 1, moved := true } }

/-- The commits that a saved block's beams await are kept for them as tickets (R189). -/
def keepTickets (s : State) (k : Nat) : State := (((beamOf s k).map commitsOf).getD []).foldl (keepTicket k) s

/-- A commit that a beam awaits again: it waits on, or takes what the commit left (R189, R308). -/
def takeTicket (k : Nat) (s : State) (c : Nat) : State :=
  match look s.commits c with
  | none => onBeam s k (freeOfCommit c)
  | some m =>
    let m1 := { m with tickets := m.tickets - 1 }
    if m.done then
      releaseCommit { s with commits := if m1.tickets = 0 then del s.commits c else put s.commits c m1 } c k m
    else { s with commits := put s.commits c { m1 with beams := m1.beams ++ [k] } }

/-- A beam awaits its commits again. -/
def takeTickets (s : State) (k : Nat) : State := (((beamOf s k).map commitsOf).getD []).foldl (takeTicket k) s

/-- DBGHALT of a beam is set (R308). -/
def setHalt (s : State) (k : Nat) : State :=
  let n := 0x400 + 2 * (k / 64) + k % 64 / 32
  csrPut s 0 n (csrGet s 0 n ||| BitVec.ofNat 32 (2 ^ (k % 32)))

/-- One beam of a resumed block. -/
def restoreBeam (key : Nat) (b : Block) (kept : NMap Kept) (a : Nat) (l t : List Byte) (regAt fullAt : Nat) (s : State) (i : Nat) :
    State :=
  let r := leAt l (0x780 + 32 * i) 32
  let k := 64 * b.core + b.beams.getD i 0
  let lanes := (upTo 32).map fun n =>
    let th := 32 * i + n
    laneFrom a (sliceBytes (4 * a) (regAt + 4 * a * th) l) (sliceBytes (a / 8) (fullAt + a / 8 * th) l) (sliceBytes 48 (48 * th) t)
  let s1 := setBeam s k (beamFrom key i r lanes (look kept (64 * b.k + i)))
  let s2 := takeTickets (if bit r 42 then setHalt s1 k else s1) k
  settleRun (acquireCaches s2 b.core .dev) k

/-- A resumed block takes everything from its area (R308); its handles stand as restored for what issues in the same clock (R196). -/
def restoreBlock (gr : Grid) (first : Nat) (kept : NMap Kept) (s : State) (key : Nat) : State :=
  match look s.blocks key with
  | none => s
  | some b0 =>
    let s0 := readyCore s key b0 gr
    let base := poolBase s gr.part + 65536 * first
    let l := poolGet s0 gr.part (base + areaOf gr b0.k) (blockArea gr)
    let t := poolGet s0 gr.part (base + threadsOf gr + 48 * gr.thr * b0.k) (48 * gr.thr)
    let a := allot gr
    let r := leAt l 0 64
    let b := { b0 with
      scales := (upTo 8).map fun k => (k, BitVec.ofNat 64 (leAt l (0x100 + 16 * k) 8), leAt l (0x108 + 16 * k) 8 % 64)
      gen := BitVec.ofNat 32 (fld r 127 96)
      tab := if fld r 191 180 = 0 then none else some (BitVec.ofNat 32 (fld r 159 128), fld r 191 180)
      retired := fld r 95 64
      doneByDrain := bit r 35 }
    let s1 := { s0 with blocks := put s0.blocks key b }
    let fullAt := 4096 + 4 * a * gr.thr
    let slotAt_ := fullAt + a * gr.thr / 8
    let s2 := setCore s1 b.core fun c =>
      { c with
        scaleCache := []
        slots := (upTo b.slots.length).foldl (fun m i =>
          put m (b.slots.getD i 0) (slotFrom (leAt l (0x40 + 8 * i) 8) (sliceBytes 262144 (slotAt_ + 262144 * i) l))) c.slots }
    let s3 := localPut s2 (localTarget b.core b.lmbase) (sliceBytes gr.lmb (slotAt_ + 262144 * gr.accs) l)
    let s4 := setCore ((upTo b.handles.length).foldl (fun s i => handleFrom s b.core (b.handles.getD i 0) (leAt l (0x380 + 16 * i) 16)) s3)
      b.core fun c => { c with were := b.handles.foldl (fun t e => del t e) c.were }
    (upTo b.beams.length).foldl (restoreBeam key b kept a l t 4096 fullAt) s4

/-- A gang's channels from its area. -/
def restoreChans (s : State) (gr : Grid) (first : Nat) : List Chan :=
  let l := poolGet s gr.part (poolBase s gr.part + 65536 * first + 0x180) 512
  (upTo gr.hgch).map fun i => chanFrom (leAt l (8 * i) 8)

end Sys2Proof.Machine
end

