-- ==== Sys2Proof/Machine/Preempt.lean ====
section
/-!
DEFINITION. Pre-emption (R301-R310) and the retirement of gangs (R311): events GANG_RETIRE, HG_PREEMPT_REQUEST_DELIVERY,
DRAIN_WATCHDOG_EXPIRY, PGRACE_EXPIRY, SAVE_POOL_ALLOC, SAVE_WRITE_COMPLETE, GANG_PREEMPTED, PREEMPT_OVERDUE and
RESUME_RESTORE_COMPLETE.
-/
namespace Sys2Proof.Machine

open Sys2Proof

/-! ## The choice of mode (R301) -/

/-- Where the rules of R301 leave one block by itself. -/
inductive Mode where
  | drain | save | flush
  deriving DecidableEq, Repr

/-- Beam-instructions compared with DRAINMAX (R301, rule 2). -/
def nearlyDone (s : State) (b : Block) (gr : Grid) : Bool :=
  gr.expins != 0 && decide (b.retired < gr.expins) && decide (gr.expins - b.retired ≤ csrN s gr.part 0x303 % 2 ^ 24)

/-- The rules in order, for one block. -/
def ownMode (s : State) (b : Block) (gr : Grid) : Mode :=
  if blockExited s b then .drain
  else if (blockBeams b).any fun k => ((beamOf s k).map fun x => x.psw.getLsbD 0).getD false then .save
  else if nearlyDone s b gr || decide (csrN s gr.part 0x303 % 2 ^ 24 < saveTime s gr) then .drain
  else if gr.idem && gr.expins != 0 && decide (b.retired * 256 ≤ csrN s gr.part 0x304 % 256 * gr.expins) then .flush
  else .save

/-- Flush-and-restart stands only where the rest of the gang allows it (R301, R266). -/
def modeOfBlock (s : State) (b : Block) (g : Gang) (gr : Grid) : Mode :=
  let m := ownMode s b gr
  if m ≠ .flush then m
  else if gr.nblk = 1 then .flush
  else if gr.hgch = 0 ∧ ((gangBlocks s g).all fun x => ownMode s x gr == .flush) = true then .flush
  else .save

/-! ## Stopping (R294, R303, R304, R306) -/

/-- What is left of PGRACE for a beam: it counts from the arrival of the request (R306). -/
def graceLeft (s : State) (k : Nat) (b : Beam) : Nat :=
  let since := ((look s.blocks b.block).bind fun x => (look s.gangs x.gang).bind fun g => g.request.map fun r => r.since).getD s.clk
  since + csrN s (partOfCore s (k / 64)) 0x302 % 2 ^ 24 - s.clk

/-- The lanes that a beam's last handler has ended exit as by EXIT (R103, R293). -/
def endEnded (s : State) (k : Nat) : State :=
  match (beamOf s k).bind fun b => (homeOf s b).map fun h => (b.ended, h.2.2) with
  | none => s
  | some (on, gr) =>
    if on.isEmpty then s
    else exitedAll (onBeam s k fun b => { releaseAll (beamLanes b on fun _ l => { l with state := .exited }) gr with ended := [] }) k

/-- A beam is to stop at its next boundary: one with a trap to take takes it, and then runs its handler on for what is left of
PGRACE (R294, R304, R306); one whose trap cannot be entered yet stands still until it can (R143, R321), and one whose trap awaits a commit
keeps it with what is saved (log 39). -/
def stopBeam (s : State) (k : Nat) : State :=
  match beamOf s k with
  | none => s
  | some b =>
    let expire := fun s => post s (graceLeft s k b) (.pgraceExpiry (k / 64) (k % 64))
    if b.psw.getLsbD 1 then expire s
    else
      match b.waiting with
      | t :: rest =>
        if trapReady s b && trapOpen s k t.2 then
          expire (takeTrap (setBeam s k { b with waiting := rest, stopped := false }) k (standing s k t.2))
        else onBeam (if trapReady s b then entryWalks s k else s) k fun b => { b with stopped := true }
      | [] => setBeam s k { b with stopped := true }

/-- Where a block stands changes, and its gang is looked at again. -/
def setLeave (s : State) (gk key : Nat) (l : Leave) : State :=
  post { s with blocks := alter s.blocks key fun b => { b with leave := l } } 0 (.gangRetire gk)

/-- A block begins to save (R304, step 1), or begins again after PreemptOverdue (R309). -/
def enterSave (s : State) (gk key : Nat) : State :=
  match look s.blocks key with
  | none => s
  | some b => withdrawRules (shipBlock ((blockBeams b).foldl stopBeam (setLeave s gk key .save)) b) b.core key

/-- The clocks after which a drain that is not complete becomes a save: min(DRAINMAX, TS(G)), TS(G) with its PGRACE term
(R71, R302). -/
def watchdogTime (s : State) (g : Gang) (gr : Grid) : Nat :=
  let masked := (gangBeams s g).any fun k => ((beamOf s k).map fun x => x.psw.getLsbD 1).getD false
  Nat.min (csrN s gr.part 0x303 % 2 ^ 24) (saveTime s gr + if masked then csrN s gr.part 0x302 % 2 ^ 24 else 0)

/-- A block begins to drain, flush or save. -/
def beginLeave (s : State) (gk key : Nat) (g : Gang) (gr : Grid) : State :=
  match look s.blocks key with
  | none => s
  | some b =>
    match modeOfBlock s b g gr with
    | .drain =>
      let limit := watchdogTime s g gr
      post (shipBlock (setLeave s gk key (.drain (s.clk + limit))) b) limit (.drainWatchdogExpiry key)
    | .flush =>
      let s1 := (blockBeams b).foldl (fun s k => onBeam s k fun x => { x with stopped := true }) (setLeave s gk key .flush)
      withdrawRules (shipBlock s1 b) b.core key
    | .save => enterSave s gk key

/-- A saved gang has its state again, on the cores on which it is placed, and its area is free (R307, R308). -/
def resumeGang (s : State) (gang : Nat) (g : Gang) (gr : Grid) : State :=
  match g.area with
  | none => s
  | some (first, _) =>
    let g1 := { g with state := .resident, started := s.clk, chans := restoreChans s gr first, area := none }
    let s1 := { s with gangs := put s.gangs gang g1 }
    nudge (freeArea (g.blocks.foldl (restoreBlock gr first g.kept) s1) gr.part g.area)

/-- A gang that a request meets while it is being placed: its blocks have their first state, or the state saved, and no beam
of it begins before the placement is over. -/
def beginEarly (s : State) (gang : Nat) (g : Gang) (gr : Grid) : State :=
  match g.state with
  | .starting =>
    let s1 := if g.saved then resumeGang s gang g gr else startBlocks s gang g gr
    (gangBeams s1 g).foldl (fun s k => onBeam s k fun x => { x with stopped := true }) s1
  | .resident | .listed | .held _ => s

/-- Whether the save pool can be reached from the cores of a gang that has its state to come from there (R308, R321). -/
def areaOpen (s : State) (g : Gang) (gr : Grid) : Bool :=
  !g.saved || g.state != .starting || (gangBlocks s g).all fun b => poolOpen s gr.part b.core g.area

/-- What a request finds of a gang. -/
def beginsPlaced (s : State) (gk : Nat) : State :=
  match look s.gangs gk, gangGrid s gk with
  | some g, some gr => if areaOpen s g gr then beginEarly s gk g gr else s
  | _, _ => s

/-- A request reaches one gang: every block of it chooses (R301); one whose state is still to come waits for it (R321). -/
def deliverTo (s : State) (gk : Nat) : State :=
  match look (beginsPlaced s gk).gangs gk, gangGrid s gk with
  | some g, some gr =>
    let s0 := beginsPlaced s gk
    if g.state == .starting then post s0 40 (.hgPreemptRequestDelivery [gk])
    else if g.state != .resident || (gangBlocks s0 g).any fun b => b.leave != .none then s
    else
      let podue := csrN s0 gr.part 0x309
      let r : Preempt := ⟨s0.clk, (g.request.bind fun r => r.forGang), s0.clk + podue⟩
      let s1 := { s0 with gangs := put s0.gangs gk { g with requested := true, request := some r } }
      post (g.blocks.foldl (fun t key => beginLeave t gk key g gr) s1) podue (.preemptOverdue gk)
  | _, _ => s

/-- HG_PREEMPT_REQUEST_DELIVERY: a request reaches the gangs it names; every block chooses (R301). -/
def execHgPreemptRequestDelivery (gangs : List Nat) (s : State) : Host.Outcome State Fault Refusal :=
  .next (gangs.foldl deliverTo s)

/-- PGRACE_EXPIRY: a masked handler of a block that is saved has run on long enough (R306); what it has queued in the meantime is
withdrawn (R255). -/
def execPgraceExpiry (core beam : Nat) (s : State) : Host.Outcome State Fault Refusal :=
  let k := 64 * core + beam
  .next (match beamOf s k with
    | none => s
    | some b =>
      match look s.blocks b.block with
      | none => s
      | some bl =>
        match bl.leave with
        | .save => post (withdrawWhere (setBeam s k { b with stopped := true }) core fun o => o.beam == k) 0 (.gangRetire bl.gang)
        | .none | .drain _ | .flush | .saveWait | .saveWrite | .done => s)

/-- Whether a block's drain is complete, but for the save that a member of a gang that does not drain still asks for (R302). -/
def drained (s : State) (key : Nat) (b : Block) : Bool := blockExited s b && blockQuiet s key b

/-- A block whose beams have all exited by drain is saved so (R302, R305). -/
def saveDrained (s : State) (gk key : Nat) : State :=
  enterSave { s with blocks := alter s.blocks key fun b => { b with doneByDrain := blockExited s b } } gk key

/-- DRAIN_WATCHDOG_EXPIRY: a drain that is not complete switches to save (R302). -/
def execDrainWatchdogExpiry (block : Nat) (s : State) : Host.Outcome State Fault Refusal :=
  .next (match look s.blocks block with
    | none => s
    | some b =>
      match b.leave with
      | .drain d => if d ≤ s.clk ∧ drained s block b = false then saveDrained s b.gang block else s
      | .none | .flush | .save | .saveWait | .saveWrite | .done => s)

/-! ## Progress (R302-R304, R311) -/

/-- Whether a beam stands still: stopped or exited, with no replay entry to issue first (R293), and nothing holds it that has to end
first. -/
def beamStill (s : State) (k : Nat) : Bool :=
  match beamOf s k with
  | none => true
  | some b =>
    (b.stopped || (lanesIn b .exited).length == b.lanes.length) && !replaying b &&
      (holdsOf b).all fun h => match h with
        | .tlbinv _ | .engine _ => false
        | .none | .yield _ | .barrier _ _ | .commit _ | .rewind _ _ => true

/-- Every issued instruction of a stopped beam completes (R304, step 2). -/
def completeBeam (s : State) (k : Nat) : State :=
  match beamOf s k with
  | none => s
  | some b => if b.stopped then b.pend.foldl (fun s p => completePend s k p.id) (drainWhere s k fun _ => true) else s

/-- Every issued instruction of a stopped beam completes; a trap that this brings is taken (R294). -/
def finishBeam (s : State) (k : Nat) : State :=
  let s1 := completeBeam s k
  if trapWaits s1 k && ((beamOf s1 k).map fun b => b.stopped).getD false then stopBeam s1 k else s1

/-- Whether a gang's channels can be taken: every block has stopped, and no release is on its way (R265). -/
def channelsStill (s : State) (gk : Nat) (g : Gang) (gr : Grid) : Bool :=
  gr.hgch == 0 ||
    ((gangBlocks s g).all (fun b => b.leave == .saveWait || b.leave == .saveWrite || b.leave == .done) &&
      !s.agenda.any fun d => match d.step with
        | .hgBarrierRelease x _ _ => x == gk
        | _ => false)

/-- A block some of whose accesses, or whose write-back, cannot travel is looked at again later (R321). -/
def waitSync (s : State) (gk : Nat) (b : Block) : State :=
  if (blockBeams b).any (fun k => syncShut s k .dev || trapWaits s k) then post s 40 (.gangRetire gk) else s

/-- Whether a block that has stopped may act as FENCE.rel.dev: nothing of it is under way, no trap of it can be taken, and its accesses
and the write-back can travel (R304, R321). -/
def blockStill (s : State) (key : Nat) (b : Block) : Bool :=
  blockQuiet s key b && (blockBeams b).all fun k => beamStill s k && !trapWaits s k && !syncShut s k .dev

/-- One block goes on with its pre-emption. -/
def stepBlock (gk : Nat) (g : Gang) (gr : Grid) (s : State) (key : Nat) : State :=
  match look s.blocks key with
  | none => s
  | some b =>
    match b.leave with
    | .none | .saveWrite | .done => s
    | .drain _ =>
      if drained s key b && (gangBlocks s g).any (fun x => match x.leave with
          | .drain _ => false
          | .none | .flush | .save | .saveWait | .saveWrite | .done => true) then saveDrained s gk key
      else s
    | .flush =>
      let s1 := (blockBeams b).foldl performAll s
      if blockQuiet s1 key b && (blockBeams b).all fun k => beamStill s1 k && !syncShut s1 k .dev then
        setLeave ((blockBeams b).foldl (fun s k => releaseAt s k .dev) s1) gk key .done
      else waitSync s1 gk b
    | .save =>
      let s1 := (blockBeams b).foldl finishBeam s
      if blockStill s1 key b then setLeave ((blockBeams b).foldl (fun s k => releaseAt s k .dev) s1) gk key .saveWait
      else waitSync s1 gk b
    | .saveWait =>
      if g.area.isNone then post s 0 (.savePoolAlloc gk)
      else if channelsStill s gk g gr then postFree (setLeave s gk key .saveWrite) (saveTime s gr) (.saveWriteComplete key)
      else post s 40 (.gangRetire gk)

/-- Whether a gang's blocks have all exited, none of them on its way elsewhere. -/
def gangExited (s : State) (g : Gang) : Bool :=
  (gangBlocks s g).all fun b => blockExited s b && match b.leave with
    | .none | .drain _ => true
    | .flush | .save | .saveWait | .saveWrite | .done => false

/-- GANG_RETIRE: a gang is looked at: it retires when R311 holds, and a pre-emption goes on (R301-R304). -/
def execGangRetire (gang : Nat) (s : State) : Host.Outcome State Fault Refusal :=
  .next (match look s.gangs gang, gangGrid s gang with
    | some g, some gr =>
      if g.state != .resident then s
      else if gr.aborted then
        let s1 := (gangBeams s g).foldl completeBeam s
        if (gangBeams s1 g).any (owes s1) then post s1 40 (.gangRetire gang)
        else if g.blocks.all fun key => ((look s1.blocks key).map (blockQuiet s1 key)).getD true then retireGang s1 gang g gr else s1
      else if gangExited s g then
        let s0 := (gangBeams s g).foldl performAll s
        if (gangBeams s0 g).any fun k => syncShut s0 k .dev then post s0 40 (.gangRetire gang) else
        let s1 := (gangBlocks s0 g).foldl shipBlock s0
        if g.blocks.all fun key => ((look s1.blocks key).map (blockQuiet s1 key)).getD true then retireGang s1 gang g gr else s1
      else
        let s1 := g.blocks.foldl (stepBlock gang g gr) s
        if !g.blocks.isEmpty && (gangBlocks s1 g).all fun b => b.leave == .done then post s1 0 (.gangPreempted gang) else s1
    | _, _ => s)

/-! ## Saving (R305-R307) -/

/-- SAVE_POOL_ALLOC: a save takes its area, first-fit in whole granules; it waits where none fits (R307). -/
def execSavePoolAlloc (gang : Nat) (s : State) : Host.Outcome State Fault Refusal :=
  .next (match look s.gangs gang, gangGrid s gang with
    | some g, some gr =>
      if g.area.isSome || !((gangBlocks s g).any fun b => b.leave == .saveWait) then s
      else
        let used := lookD s.pool gr.part []
        let n := areaGranules gr
        match freeSpan (poolSize s gr.part) n used with
        | none => s
        | some first =>
          post { s with
            pool := put s.pool gr.part ((first, n) :: used)
            gangs := put s.gangs gang { g with area := some (first, n) } } 0 (.gangRetire gang)
    | _, _ => s)

/-- SAVE_WRITE_COMPLETE: a block's area is written (R305), once it can be reached (R321). -/
def execSaveWriteComplete (block : Nat) (s : State) : Host.Outcome State Fault Refusal :=
  .next (match look s.blocks block with
    | none => s
    | some b =>
      match look s.gangs b.gang, gangGrid s b.gang with
      | some g, some gr =>
        match g.area, b.leave with
        | some (first, _), .saveWrite =>
          if !poolOpen s gr.part b.core g.area then post s 40 (.saveWriteComplete block) else
          setLeave ((blockBeams b).foldl keepTickets (writeBlock s b g gr first)) b.gang block .done
        | _, _ => s
      | _, _ => s)

/-- A beam saved in a handler keeps its number from the free pool until the TRET of its frame (R306). -/
def keepNumber (s : State) (k : Nat) : State :=
  match beamOf s k with
  | some b => if b.flvl = 0 then s else setCore s (k / 64) fun c => { c with heldBeams := (k % 64, b.framea) :: c.heldBeams }
  | none => s

/-- What is kept of the beams of a saved gang, by 64 k + beam index (log 39). -/
def keptBeams (s : State) (g : Gang) : NMap Kept :=
  (gangBlocks s g).flatMap fun b =>
    (upTo b.beams.length).filterMap fun i =>
      (beamOf s (64 * b.core + b.beams.getD i 0)).map fun x => (64 * b.k + i, keptOf x)

/-- A gang enters its grid's list of those returned, in ascending gang coordinate (R80). -/
def insertReturned (s : State) (gk : Nat) : List Nat → List Nat
  | [] => [gk]
  | x :: t =>
    let coord := fun k => ((look s.gangs k).map fun g => g.coord).getD 0
    if coord gk < coord x then gk :: x :: t else x :: insertReturned s gk t

/-- GANG_PREEMPTED: every block has finished its mode: the gang gives up its resources and goes back to its grid's list
(R79, R80, R301). -/
def execGangPreempted (gang : Nat) (s : State) : Host.Outcome State Fault Refusal :=
  .next (match look s.gangs gang, gangGrid s gang with
    | some g, some gr =>
      if g.state != .resident || gr.aborted || !((gangBlocks s g).all fun b => b.leave == .done) then s
      else
        let s1 := if g.area.isSome then (gangBeams s g).foldl keepNumber s else s
        let left := (gangBlocks s g).foldl (fun m b => put m b.k (leftChannels s b)) g.left
        let s2 := leaveCluster s1 gang g gr
        { s2 with
          agenda := s2.agenda.filter fun d =>
            match d.step with
            | .blockThreadStart k | .resumeRestoreComplete k => k != gang
            | _ => true
          gangs := put s2.gangs gang
            { g with
              state := .listed, blocks := [], chans := [], request := none, requested := false, saved := g.area.isSome
              again := g.area.isNone, kept := if g.area.isSome then keptBeams s g else [], left := left }
          grids := alter s2.grids g.grid fun x => { x with returned := insertReturned s gang x.returned, live := x.live - 1 } }
    | _, _ => s)

/-- RESUME_RESTORE_COMPLETE: a saved gang has been restored on its new cores, and its area is free (R307, R308). -/
def execResumeRestoreComplete (gang : Nat) (s : State) : Host.Outcome State Fault Refusal :=
  .next (match look s.gangs gang, gangGrid s gang with
    | some g, some gr =>
      match g.state with
      | .starting =>
        if !areaOpen s g gr then post s 40 (.resumeRestoreComplete gang) else
        let s1 := resumeGang s gang g gr
        { s1 with gangs := alter s1.gangs gang fun x => { x with saved := false, kept := [] } }
      | .resident => runDrains { s with gangs := put s.gangs gang { g with saved := false, kept := [] } } g
      | .listed | .held _ => s
    | _, _ => s)

/-! ## Overdue (R309) -/

/-- The beam of a gang that takes PreemptOverdue: the lowest number on the lowest core, of those that have not exited. -/
def overdueBeam (s : State) (g : Gang) : Option Nat :=
  firstSome (fun (b : Block) =>
    (b.beams.find? fun n =>
      match beamOf s (64 * b.core + n) with
      | some x => (lanesIn x .exited).length != x.lanes.length
      | none => false).map fun n => 64 * b.core + n) (gangBlocks s g)

/-- The save of the block of the chosen beam is given up, to start afresh after the handler: it waits for no room, and what it
has written is not used; its beams await their commits again (R309). -/
def giveUpSave (s : State) (key : Nat) : State :=
  match look s.blocks key with
  | none => s
  | some b =>
    let back := { s with blocks := put s.blocks key { b with leave := .save } }
    match b.leave with
    | .saveWait => back
    | .saveWrite => { back with agenda := back.agenda.filter fun d => d.step != .saveWriteComplete key }
    | .done =>
      if ((look s.gangs b.gang).map fun g => g.area.isNone).getD true then { s with blocks := put s.blocks key { b with leave := .flush } }
      else (blockBeams b).foldl takeTickets back
    | .none | .drain _ | .flush | .save => s

/-- DTRAP for a pre-emption with no beam to tell (R309). -/
def overdueRecord (s : State) (part core : Nat) : State :=
  if bit (csrN s part 0x310) 31 then s
  else
    let s1 := csrPut s part 0x310 (BitVec.ofNat 32 (2 ^ 31 + core * 2 ^ 10 + 0x18))
    { csrClear s1 part 0x311 3 with sent := s1.sent ++ [.msix part] }

/-- PreemptOverdue of a beam, with the clocks that the request has taken (R291, R309): at its run, or at the lane of least key. -/
def overdueTrap (b : Beam) (clks : Nat) : Trap :=
  let on := (upTo 32).filter fun i => (laneOf b i).state != .exited
  let run := runOf b
  let at_ := if run.isEmpty then leastLane b on else leastD 0 run
  { trapAt b at_ 0x18 with run := maskOf (if run.isEmpty then [at_] else run), addr := BitVec.ofNat 64 clks }

/-- PREEMPT_OVERDUE: PODUE clocks after the request arrived, the pre-emption has not completed (R309). The trap waits where its entry
cannot travel (R321); a beam of a grid that has been ended stays stopped (R298). -/
def execPreemptOverdue (gang : Nat) (s : State) : Host.Outcome State Fault Refusal :=
  .next (match look s.gangs gang with
    | none => s
    | some g =>
      match g.request, g.state with
      | some r, .resident =>
        if decide (s.clk < r.overdueAt) || ((gangGrid s gang).map fun gr => gr.aborted).getD false then s
        else
          match overdueBeam s g with
          | none => overdueRecord s (((gangGrid s gang).map fun x => x.part).getD 0) (((gangBlocks s g).head?.map fun b => b.core).getD 0)
          | some k =>
            match beamOf s k with
            | none => s
            | some b =>
              let s1 := endEnded (giveUpSave s b.block) k
              let t := overdueTrap ((beamOf s1 k).getD b) (s.clk - r.since)
              if trapOpen s1 k t then takeTrap s1 k t else post (entryWalks s k) 1 (.preemptOverdue gang)
      | _, _ => s)

/-- After a TRET the pre-emption of the beam's block goes on; after that of PreemptOverdue, the beam stops again at its next
boundary, in a handler or not, and PODUE counts anew (R306, R309). -/
def leaveHandler (s : State) (k : Nat) (overdue : Bool) : State :=
  match (beamOf s k).bind (homeOf s) with
  | none => s
  | some (bl, g, gr) =>
    let s1 :=
      match overdue, g.request with
      | true, some r =>
        let podue := csrN s gr.part 0x309
        post { s with gangs := put s.gangs bl.gang { g with request := some { r with overdueAt := s.clk + podue } } } podue
          (.preemptOverdue bl.gang)
      | _, _ => s
    match bl.leave with
    | .save | .flush =>
      post (if overdue then onBeam s1 k fun b => { b with stopped := true } else stopBeam s1 k) 0 (.gangRetire bl.gang)
    | .none | .drain _ | .saveWait | .saveWrite | .done => s1

end Sys2Proof.Machine
end

