-- ==== Sys2Proof/Machine/System.lean ====
section
/-!
DEFINITION. System instructions, opcodes 0x78-0x7E: SYSC, TRET, BKPT, CSRR, CSRW, TLBINV, MCLOAD (R293, R296-R300), and the
event TLBINV_COMPLETE.
-/
namespace Sys2Proof.Machine

open Sys2Proof

/-! ## SYSC and BKPT (R296, R297) -/

/-- SYSC (R296). -/
def effSysc (g : Guard) (i7 : Nat) (a : Src) (d : Nat) : Effect := fun x s =>
  let ex := execLanes x g
  gated x s ex [srcUse a 2] []
    (if ex.isEmpty then .done s []
    else
      .after s { trapOf x 0x0F with
        lanes := maskOf ex, callm := maskOf ex, imm := i7, reg := d
        args := ex.map fun i => (i, lanePair (laneOf x.beam i) a.r) })

/-- BKPT (R297). -/
def effBkpt (g : Guard) (i7 : Nat) : Effect := fun x s =>
  let ex := execLanes x g
  if ex.isEmpty then .done s [] else .after s { trapOf x 0x0E with lanes := maskOf ex, imm := i7 }

/-! ## Control registers (R298) -/

/-- A precise ProtectionFault that names no address. -/
def protectTrap (x : Sel) : Trap := { trapOf x 0x08 with lane := leastD 0 x.run }

/-- What CSRR and CSRW check of a register number (R298): the trap, or nothing. -/
def csrTrap (x : Sel) (s : State) (n : Nat) : Option Trap :=
  match csrOwner n with
  | none => some (trapOf x 0x01)
  | some o => if csrMine s (selPart s x) o then none else some (protectTrap x)

/-- An instruction that acts as FENCE.acqrel.dev before its effect (R298). -/
def fencedDev (s : State) (k : Nat) (f : State → Res) : Res := released s k .dev fun s1 => f (acquireAt s1 k .dev)

/-- CSRR (R298). -/
def effCsrr (d i18 : Nat) : Effect := fun x s =>
  gated x s x.run [] [regUse d 1] (fencedDev s x.key fun s1 =>
    match csrTrap x s1 i18 with
    | some t => .trap s1 t
    | none => .done (onLanes s1 x.key x.run fun _ l => laneSet l d (csrRead s1 (selPart s x) i18)) [])

/-- CSRW (R298). -/
def effCsrw (d i18 : Nat) : Effect := fun x s =>
  gated x s x.run [regUse d 1] [] (fencedDev s x.key fun s1 =>
    match csrTrap x s1 i18 with
    | some t => .trap s1 t
    | none =>
      if uniform x fun l => laneReg l d then
        .done (beamWritesCsr s1 x.key i18 (laneReg (laneOf x.beam (leastD 0 x.run)) d)) []
      else .trap s1 (uniformTrap x))

/-! ## TLBINV (R299) -/

/-- The translations that remain when those of some addresses, or all, are dropped. -/
def tlbDrop (vas : Option (List Nat)) (t : List TlbEntry) : List TlbEntry :=
  match vas with
  | none => []
  | some l => t.filter fun e => !(l.any fun va => va / 2 ^ e.bits == e.page)

/-- TLBINV has issued (R299) and has released: the walks in flight are discarded, and the beam waits until every TLB has dropped
the translations. -/
def startTlbinv (s : State) (k : Nat) (vas : Option (List Nat)) : State :=
  let s1 := (coresOf s (partOfCore s (k / 64))).foldl (fun s c => setCore s c fun y => { y with walks := [] }) s
  postFree (onBeam s1 k fun b => { b with hold := .tlbinv vas }) 0 (.tlbinvComplete (k / 64) (k % 64))

/-- TLBINV of everything (R299). -/
def effTlbinvAll : Effect := fun x s => released s x.key .dev fun s1 => .done (startTlbinv s1 x.key none) []

/-- TLBINV of pages (R299). -/
def effTlbinvPage (a : Src) : Effect := fun x s =>
  gated x s x.run [srcUse a 2] []
    (released s x.key .dev fun s1 =>
      .done (startTlbinv s1 x.key (some (x.run.map fun i => (lanePair (laneOf x.beam i) a.r).toNat))) [])

/-- The translations that a hold waits to see dropped. -/
def tlbinvHold : Hold → Option (Option (List Nat))
  | .tlbinv vas => some vas
  | .none | .yield _ | .barrier _ _ | .commit _ | .engine _ | .rewind _ _ => none

/-- A list of holds without the outermost wait of a TLBINV. -/
def dropTlbinv : List Hold → List Hold
  | [] => []
  | h :: t => if (firstSome tlbinvHold t).isNone && (tlbinvHold h).isSome then .none :: t else h :: dropTlbinv t

/-- The oldest TLBINV of a beam is over, whether the beam is in a handler by now or not (R299). -/
def endTlbinv (b : Beam) : Beam :=
  let l := dropTlbinv (holdsOf b)
  { b with hold := l.headD .none, under := l.drop 1 }

/-- What finished walks have told that remains when the translations of some addresses, or all, are dropped. -/
def toldDrop (vas : Option (List Nat)) (l : List Told) : List Told :=
  match vas with
  | none => []
  | some v => l.filter fun t => !(v.any fun va => (toldHit [t] va).isSome)

/-- TLBINV_COMPLETE: every TLB of the partition has dropped the translations, those among them that beams and engines have been told
but not used yet, and the beam goes on (R299). -/
def execTlbinvComplete (core beam : Nat) (s : State) : Host.Outcome State Fault Refusal :=
  let k := 64 * core + beam
  .next (match beamOf s k with
    | none => s
    | some b =>
      match firstSome tlbinvHold (holdsOf b).reverse with
      | some vas =>
        let part := partOfCore s core
        let s1 := (coresOf s part).foldl
          (fun s c => setCore s c fun y => { y with tlb := tlbDrop vas y.tlb, told := toldDrop vas y.told }) s
        let here := fun (x : Nat × Beam) =>
          if partOfCore s (x.1 / 64) = part then (x.1, { x.2 with told := toldDrop vas x.2.told }) else x
        let s2 := { s1 with beams := s1.beams.map here }
        nudge (onBeam s2 k endTlbinv)
      | none => s)

/-! ## MCLOAD (R300) -/

/-- MCLOAD (R300): it observes the beam's earlier accesses to the words that it reads (R86). -/
def effMcload (a : Src) (m : Nat) : Effect := fun x s =>
  gated x s x.run [srcUse a 1] []
    (match homeOf s x.beam with
    | none => .hold s
    | some (bl, g, gr) =>
      let i := leastD 0 x.run
      let at_ := (laneReg (laneOf x.beam i) a.r).toNat
      let addr := BitVec.ofNat 64 at_
      if at_ % 4 ≠ 0 then .trap s (laneTrap x 0x06 i addr [])
      else
        match localPlace s bl g gr at_ 4 with
        | none => .trap s (laneTrap x 0x08 i addr [])
        | some t =>
          let s := beforeAccess s x.key [⟨true, t, 132⟩]
          let len := leNat (localBytes s t 4)
          if len = 0 ∨ 32 < len then .trap s (storeTrap x m)
          else
            match localPlace s bl g gr at_ (4 + 4 * len) with
            | none => .trap s (laneTrap x 0x08 i addr [])
            | some _ =>
              let w := localBytes s (t + 4) (4 * len)
              let s1 := setCore s (selCore x) fun c =>
                { c with
                  cstore := (upTo len).foldl (fun cs j => put cs (32 * m + j) (BitVec.ofNat 32 (leAt w (4 * j) 4))) c.cstore
                  clen := put c.clen m len }
              .done { s1 with blocks := s1.blocks.map fun b =>
                if b.2.core = selCore x ∧ b.2.listed.contains m = false then (b.1, { b.2 with listed := m :: b.2.listed })
                else b } [])

/-! ## TRET (R293) -/

/-- Byte offsets of a frame's parts (R289). -/
def frTable : Nat := 0x40
def frMasks : Nat := 0x140
def frCause : Nat := 0x180
def frLanes : Nat := 0x1C0
def frFull : Nat := 0x3C0
def frRegs : Nat := 0x400
def frReply : Nat := 0xF00

/-- The header fields that TRET reads (R290). -/
def frCode (f : List Byte) : Nat := bytesFld f 7 0
def frLevel (f : List Byte) : Nat := bytesFld f 9 8
def frPswp (f : List Byte) : Nat := bytesFld f 255 224
def frCallm (f : List Byte) : Nat := bytesFld f 287 256
def frNrep (f : List Byte) : Nat := bytesFld f 291 288
def frXmask (f : List Byte) : Nat := bytesFld f 351 320

/-- The counter-table entry of a lane in a frame. -/
def frEntry (f : List Byte) (i : Nat) : Nat := leAt f (frTable + 8 * i) 8

/-- LEN of the entry that the MCALL at a PC calls (R87), 0 where none is called; nothing while the beam waits for the fetch. With it the
state after the fetch. -/
def calledLen (s : State) (k : Nat) (b : Beam) (bl : Block) (gr : Grid) (pc : Nat) : Option Nat × State :=
  match fetchBytes s k b pc with
  | (none, s1) => (none, s1)
  | (some (.error _), s1) => (some 0, s1)
  | (some (.ok l), s1) =>
    match decodeBytes l with
    | .ok (.mcall m _ _ _, _) => (some (if macroLoaded bl gr m then lookD (coreOf s1 (k / 64)).clen m 0 else 0), s1)
    | _ => (some 0, s1)

/-- Whether resumption refuses a counter-table entry (R87), for a beam with the PSW to come; nothing while the beam waits for a
fetch. -/
def entryRefused (k : Nat) (b : Beam) (bl : Block) (gr : Grid) (e : Nat) (s : State) : Option Bool × State :=
  let st := fld e 34 32
  if e / 2 ^ 46 ≠ 0 ∨ bit e 35 = true ∨ 3 < st ∨ e % 2 = 1 ∨ (st = 1 ∧ gr.depth ≤ fld e 39 36) then (some true, s)
  else if bit e 45 then
    match calledLen s k b bl gr (fld e 31 0) with
    | (n, s1) => (n.map fun n => decide (n ≤ fld e 44 40), s1)
  else (some false, s)

/-- Whether any entry is refused, or revives a lane that had exited (R293); nothing while the beam waits for a fetch. -/
def tableRefused (k : Nat) (b : Beam) (bl : Block) (gr : Grid) (f : List Byte) (s : State) : Option Bool × State :=
  (upTo 32).foldl (fun (r : Option Bool × State) i =>
    let e := frEntry f i
    let t := entryRefused k b bl gr e r.2
    (r.1.bind fun x => t.1.map fun y => x || y || (bit (frXmask f) i && fld e 34 32 != 3), t.2)) (some false, s)

/-- The LD, LDL, LDC, ATOM or ACAS that a word is: local, atomic with its operation, constant, bytes, order and first destination. -/
def replayable (i : Instr) : Option (Bool × Option (Option AtomOp) × Bool × Nat × QF × Nat) :=
  match i with
  | .ld32 _ _ _ d => some (false, none, false, 4, .plain, d)
  | .ld64 _ _ _ d => some (false, none, false, 8, .plain, d)
  | .ld128 _ _ _ d => some (false, none, false, 16, .plain, d)
  | .ldNarrow z _ d => some (false, none, false, if z then 2 else 1, .plain, d)
  | .ldOrdered z q _ d => some (false, none, false, sizeBytes z, q, d)
  | .ldc z _ d => some (false, none, true, if z then 8 else 4, .plain, d)
  | .ldl32 _ _ _ d => some (true, none, false, 4, .plain, d)
  | .ldlSized z _ d => some (true, none, false, sizeBytes z, .plain, d)
  | .atom32 o q _ d => some (false, some (some o), false, 4, q, d)
  | .atom64 o q _ d => some (false, some (some o), false, 8, q, d)
  | .acas32 q _ d => some (false, some none, false, 4, q, d)
  | .acas64 q _ d => some (false, some none, false, 8, q, d)
  | _ => none

/-- What a word of the replay queue is. -/
def replayWord (w : Nat) : Option (Bool × Option (Option AtomOp) × Bool × Nat × QF × Nat) :=
  if w % 2 = 0 then none
  else
    match decodeWord w with
    | .error _ => none
    | .ok i => replayable i

/-- A replay entry from its 1,024 bytes (R292), still to be issued or completed, with EADDR and DATA of its lanes; `none` where TRET refuses
it (R293). An entry keeps no step of a macro, so a trap that it raises reports none: R101 and R292 do not say how it could. DESIGN CHOICE
(log 16). -/
def replayFrom (id : Nat) (l : List Byte) : Option Pend :=
  let act := leAt l 12 1
  if 2 < act then none
  else
    (replayWord (leAt l 0 4)).map fun (_, _, _, bytes, _, d) =>
      ⟨id, BitVec.ofNat 32 (leAt l 0 4), BitVec.ofNat 32 (leAt l 8 4), none, leAt l 4 4, d, regsOf bytes, .again act,
        (bitsOf 32 (leAt l 4 4)).map fun i =>
          ⟨i, BitVec.ofNat 64 (leAt l (256 + 8 * i) 8), 0, BitVec.ofNat 128 (leAt l (512 + 16 * i) 16), 0, 0⟩⟩

/-- The replay entries of a frame, numbered from an identifier on; `none` where any is refused. -/
def replaysFrom (id : Nat) (l : List Byte) : Nat → Option (List Pend)
  | 0 => some []
  | n + 1 =>
    match replaysFrom id l n, replayFrom (id + n) (sliceBytes 1024 (1024 * n) l) with
    | some r, some e => some (r ++ [e])
    | _, _ => none

/-! ## The replay queue (R31, R293) -/

/-- The selection as which an entry issues again: these of its lanes, standing at its PC and in no macro. -/
def replaySel (k : Nat) (b : Beam) (p : Pend) (on : List Nat) : Sel :=
  ⟨k, beamLanes b on fun _ l => { l with pc := p.epc, min := false, mstep := 0 }, on⟩

/-- An entry issues again in some of its lanes (ACT 0): its result, as on first issue. -/
def reissue (s : State) (k : Nat) (b : Beam) (p : Pend) (lanes : List PendLane) : Res :=
  let x := replaySel k b p (lanes.map fun l => l.lane)
  let al := lanes.map fun l => (⟨l.lane, l.ea, l.data⟩ : ALane)
  match replayWord p.word.toNat with
  | some (true, _, _, bytes, _, d) => ldlLanes x s p.word p.epc d bytes al
  | some (false, some op, _, bytes, q, d) => atomLanes x s (selSup x) p.word p.epc d p.n bytes op q al
  | some (false, none, const, bytes, q, d) => loadLanes x s (selSup x) p.word p.epc d bytes q const al
  | none => .done s []

/-- The lanes of an entry whose destinations an earlier unfinished instruction of the beam is still to write (R31). -/
def clashing (b : Beam) (p : Pend) (earlier : List Pend) : List PendLane :=
  p.lanes.filter fun l => earlier.any fun q =>
    decide (q.dst < p.dst + p.n) && decide (p.dst < q.dst + q.n) && q.lanes.any (fun m => m.lane == l.lane) &&
      lanesEmpty (laneOf b l.lane) q.dst q.n

/-- What stays of an entry until the next trap: some of its lanes, with what they captured and its ACT (log 16). -/
def leftover (p : Pend) (act : Nat) (lanes : List PendLane) : List Pend :=
  if lanes.isEmpty then [] else [{ p with kind := .parked act, run := maskOf (lanes.map fun l => l.lane), lanes := lanes }]

/-- An entry is issued or completed: what it has begun takes its place among the unfinished instructions of the beam, and behind that what
stays of it. The beam's later instructions, if any, have identifiers below `next`. -/
def placeAgain (s : State) (k next : Nat) (p : Pend) (rest : List Pend) : State :=
  onBeam s k fun b =>
    let began := b.pend.filter fun x => decide (next ≤ x.id)
    { b with
      told := []
      pend := (b.pend.filter fun x => decide (x.id < next)).flatMap fun x => if x.id = p.id then began ++ rest else [x] }

/-- A trap of an entry that issues again: it is taken as a precise trap of its lanes is (R294), and where it is, the lanes that the last
handler has ended exit first (log 16). -/
def replayTrap (s : State) (k : Nat) (t : Trap) : State :=
  let lvl := fun (s : State) => ((beamOf s k).map fun b => b.flvl).getD 0
  let s1 := preciseTrap s k t
  if lvl s1 = lvl s then s1 else preciseTrap (endEnded s k) k t

/-- The first entry of the replay queue: `ok` where the queue goes on behind it, `error` where it waits, or has trapped. A write waits for
an earlier one of the same register (R31); where that one stays until the next trap, so does it. -/
def replayOne (s : State) (k : Nat) (b : Beam) (p : Pend) : Except State State :=
  let earlier := b.pend.takeWhile fun q => q.id != p.id
  let late := clashing b p (earlier.filter fun q => isEntry q.kind)
  let go := p.lanes.filter fun l => !late.contains l
  if !(clashing b { p with lanes := go } earlier).isEmpty then .error s
  else
    match entryAct p.kind with
    | 0 =>
      match reissue s k b p go with
      | .done s1 parked =>
        .ok (placeAgain s1 k b.nextId p (leftover p 0 (p.lanes.filter fun l => late.contains l || parked.contains l.lane)))
      | .moved s1 => .ok (placeAgain s1 k b.nextId p [])
      | .hold s1 => .error s1
      | .trap s1 e | .after s1 e => .error (replayTrap s1 k e)
    | act =>
      let s1 := onLanes s k (go.map fun l => l.lane) fun i x =>
        laneSetN x p.dst (if act = 1 then ((go.find? fun l => l.lane == i).map fun l => l.data).getD 0 else 0) p.n
      .ok (placeAgain s1 k b.nextId p (leftover p act late))

/-- The entries in order, as far as they can go now (R293). -/
def replayOn (k : Nat) : Nat → State → State
  | 0, s => s
  | n + 1, s =>
    match (beamOf s k).bind fun b => (b.pend.find? fun p => isAgain p.kind).map fun p => (b, p) with
    | none => s
    | some (b, p) =>
      match replayOne s k b p with
      | .ok s1 => replayOn k n s1
      | .error s1 => s1

/-- Once no entry is left the lanes that the handler has ended exit (R293), and the gang of a beam that has stopped or exited is looked at
again. -/
def replayDone (s : State) (k : Nat) : State :=
  let s1 := endEnded s k
  match beamOf s1 k with
  | none => s1
  | some b =>
    if b.stopped || (lanesIn b .exited).length == b.lanes.length then
      (homeOf s1 b).elim s1 fun h => post s1 0 (.gangRetire h.1.gang)
    else s1

/-- The replay queue of a beam goes on (R293). A beam that was to stop, and that takes a trap instead, runs the handler on for what is left
of PGRACE (R294, R306). -/
def replay (s : State) (k : Nat) : State :=
  match beamOf s k with
  | none => s
  | some b =>
    let s1 := if replaying b then replayOn k b.pend.length s else s
    let still := fun (s : State) => ((beamOf s k).map fun c => c.flvl == b.flvl).getD true
    let s2 := settleRun (if replaying b && still s1 && !((beamOf s1 k).map replaying).getD false then replayDone s1 k else s1) k
    if b.stopped && !still s2 then stopBeam s2 k else s2

/-- A lane as a frame gives it (R293): g0-g15 with their full/empty bits, predicates, counters, the rejoin masks, and its
table entry; a parked lane runs again, and one that the handler ended runs until the replay entries are done. -/
def laneRestored (f : List Byte) (gr : Grid) (i : Nat) (l : Lane) : Lane :=
  let e := frEntry f i
  let full := leAt f (frFull + 2 * i) 2
  let l1 := (upTo 16).foldl (fun l r =>
    let l2 := laneSet l r (BitVec.ofNat 32 (leAt f (frRegs + 64 * i + 4 * r) 4))
    if bit full r then l2 else laneEmpty l2 r 1) l
  let l3 := (upTo gr.depth).foldl (fun l n => laneSet l (maskReg gr n) (BitVec.ofNat 32 (leAt f (frMasks + 4 * n) 4))) l1
  let at_ := frLanes + 16 * i
  { l3 with
    preds := BitVec.ofNat 32 (leAt f at_ 4) ||| 1
    fstat := BitVec.ofNat 32 (leAt f (at_ + 4) 4 % 32)
    srctr := BitVec.ofNat 32 (leAt f (at_ + 8) 4)
    randctr := BitVec.ofNat 32 (leAt f (at_ + 12) 4)
    pc := BitVec.ofNat 32 e
    min := bit e 45
    mstep := if bit e 45 then fld e 44 40 else 0
    state := if fld e 34 32 = 3 then (if bit (frXmask f) i then .exited else .runnable)
      else if fld e 34 32 = 1 then .waiting else .runnable
    jidx := if fld e 34 32 = 1 then fld e 39 36 else 0
    frec := 0 }

/-- The lanes that the handler has ended (R293). -/
def endedLanes (f : List Byte) : List Nat := (upTo 32).filter fun i => fld (frEntry f i) 34 32 == 3 && !bit (frXmask f) i

/-- The replies of a system call, full (R293). -/
def takeReplies (f : List Byte) (b : Beam) : Beam :=
  let r := bytesFld f (8 * frCause + 111) (8 * frCause + 104)
  if frCode f = 0x0F ∧ r ≤ 62 then
    beamLanes b (bitsOf 32 (frCallm f)) fun i l => laneSetPair l r (BitVec.ofNat 64 (leAt f (frReply + 8 * i) 8))
  else b

/-- A beam whose rule operation went while it was in the handler: lanes that stand behind its instruction issue it again
(R255). -/
def rewound (b : Beam) : Beam :=
  match b.hold with
  | .rewind run pc =>
    beamLanes { b with hold := .none } ((bitsOf 32 run).filter fun i => (laneOf b i).pc == pc + 4) fun _ => rewindLane pc
  | .none | .yield _ | .barrier _ _ | .commit _ | .tlbinv _ | .engine _ => b

/-- The beam as its frame gives it: what held it when it trapped holds it again, and its replay entries are to be issued or completed first
(R293). An entry that was still unfinished in the handler is gone with the lane that it left parked there (log 16). -/
def beamRestored (f : List Byte) (gr : Grid) (reps : List Pend) (b : Beam) : Beam :=
  let b1 := takeReplies f (beamLanes b (upTo 32) (laneRestored f gr))
  let n := b.flvl - frLevel f
  rewound { b1 with
    psw := BitVec.ofNat 32 (frPswp f % 4)
    flvl := frLevel f
    hold := if n = 0 then .none else b.under.getD (n - 1) .none
    under := b.under.drop n
    pend := reps
    nextId := b.nextId + reps.length
    ended := endedLanes f
    told := [] }

/-- The beam numbers that a handler held with its frame, on whichever core of the partition, are free again once it has returned from its
first level (R84, R306). -/
def freeNumber (s : State) (part : Nat) (framea : DWord) (level : Nat) : State :=
  if level ≠ 0 then s
  else
    (coresOf s part).foldl (fun s c =>
      if (coreOf s c).heldBeams.any fun h => h.2 == framea then
        postFirst (setCore s c fun y => { y with heldBeams := y.heldBeams.filter fun h => h.2 != framea }) (.gangStart (c / 4))
      else s) s

/-- The frame that TRET reads. -/
def frameAt (b : Beam) : Nat := b.framea.toNat + 16384 * (b.flvl - 1)

/-- The code of a failed access to a frame. -/
def frameFault (s : State) (x : Sel) (write : Bool) : Nat :=
  match lookTold s (x.key / 64) x.beam.told (frameAt x.beam) true write with
  | .fail e => causeCode e.cause
  | .bad _ => 0x0C
  | .hit y => if xlBad s (selPart s x) y then 0x0C else 0x08
  | .shut | .miss => 0x08

/-- The trap of a failed access to a frame, with the frame address (R293). -/
def frameTrap (x : Sel) (s : State) (write : Bool) : Trap :=
  { trapOf x (frameFault s x write) with addr := BitVec.ofNat 64 (frameAt x.beam) }

/-- The walks that TRET's read of its frame, or its write, still needs (R143). The frame lies in one page. -/
def frameWalk (x : Sel) (s : State) (write : Bool) : List Nat := supWalk s (x.key / 64) x.beam.told (frameAt x.beam) write

/-- Whether TRET can be carried out now: nothing of the beam is left to be performed, and what it reads and writes of its frame, and the
write-back of its release, can travel (R293, R317, R321). -/
def tretOpen (x : Sel) (s : State) : Bool :=
  !syncShut s x.key .dev && supOpen s (x.key / 64) x.beam.told (frameAt x.beam) false &&
    supOpen s (x.key / 64) x.beam.told (frameAt x.beam) true

/-- TRST is written (R293). -/
def writeTrst (x : Sel) (s : State) (n : Nat) : Option State :=
  supWrite (x.key / 64) x.beam.told 2 s (frameAt x.beam + 39) (bytesLE 1 n)

/-- Finishes handler execution after all checks (R293): the beam's replay entries go as far as they can at once, and on in later clocks. -/
def resume (s : State) (x : Sel) (gr : Grid) (f : List Byte) (reps : List Pend) : Res :=
  let k := x.key
  match writeTrst x (acquireAt s k .dev) 0 with
  | none => .trap s (frameTrap x s true)
  | some s1 =>
    let s2 := onBeam s1 k (beamRestored f gr reps)
    let s3 := if reps.isEmpty then endEnded s2 k else s2
    .moved (replay (leaveHandler (freeNumber s3 (selPart s x) x.beam.framea (frLevel f)) k (frCode f == 0x18)) k)

/-- TRET once its frame can be reached and nothing of the beam is left under way. -/
def tretFrom (x : Sel) (s : State) (bl : Block) (gr : Grid) : Res :=
  let core := x.key / 64
  let refuse := fun (t : State) (n : Nat) => (writeTrst x t n).elim (Res.trap t (frameTrap x t true)) fun u => .done u []
  match supRead s core x.beam.told 128 (frameAt x.beam) 4096 with
  | none => .trap s (frameTrap x s false)
  | some f =>
    let c := tableRefused x.key { x.beam with psw := BitVec.ofNat 32 (frPswp f) } bl gr f s
    if c.1.isNone then .hold c.2
    else if c.1 = some true then refuse c.2 1
    else if 8 < frNrep f then refuse c.2 2
    else
      match supRead c.2 core x.beam.told 128 (frameAt x.beam + 4096) (1024 * frNrep f) with
      | none => .trap c.2 (frameTrap x c.2 false)
      | some l =>
        match replaysFrom x.beam.nextId l (frNrep f) with
        | none => refuse c.2 2
        | some reps =>
          if 1 < frLevel f ∨ (bit (frPswp f) 1 = false ∧ frLevel f ≠ 0) then refuse c.2 3
          else resume c.2 x gr f reps

/-- TRET (R293). What the beam still has under way completes first. -/
def effTret : Effect := fun x s =>
  if x.beam.flvl = 0 then .trap s (trapOf x 0x01)
  else
    match homeOf s x.beam with
    | none => .hold s
    | some (bl, _, gr) =>
      let s0 := performAll s x.key
      if !(frameWalk x s0 false).isEmpty then .hold (startWalks s0 x.key true false (frameWalk x s0 false))
      else if !(frameWalk x s0 true).isEmpty then .hold (startWalks s0 x.key true true (frameWalk x s0 true))
      else if !tretOpen x s0 then .hold s0
      else tretFrom x (x.beam.pend.foldl (fun s p => completePend s x.key p.id) (releaseAt s x.key .dev)) bl gr

/-! ## The instructions -/

/-- The meaning of SYSC (R296). -/
def execSysc (g : Guard) (i7 : Nat) (a : Src) (d : Nat) (s : State) : Host.Outcome State Fault Refusal :=
  issue 4 (effSysc g i7 a d) s
/-- The meaning of TRET (R293). -/
def execTret (s : State) : Host.Outcome State Fault Refusal := issuePriv effTret s
/-- The meaning of BKPT (R297). -/
def execBkpt (g : Guard) (i7 : Nat) (s : State) : Host.Outcome State Fault Refusal := issue 4 (effBkpt g i7) s
/-- The meaning of CSRR (R298). -/
def execCsrr (d i18 : Nat) (s : State) : Host.Outcome State Fault Refusal := issuePriv (effCsrr d i18) s
/-- The meaning of CSRW (R298). -/
def execCsrw (d i18 : Nat) (s : State) : Host.Outcome State Fault Refusal := issuePriv (effCsrw d i18) s
/-- The meaning of TLBINV of everything (R299). -/
def execTlbinvAll (s : State) : Host.Outcome State Fault Refusal := issuePriv effTlbinvAll s
/-- The meaning of TLBINV of pages (R299). -/
def execTlbinvPage (a : Src) (s : State) : Host.Outcome State Fault Refusal := issuePriv (effTlbinvPage a) s
/-- The meaning of MCLOAD (R300). -/
def execMcload (a : Src) (m : Nat) (s : State) : Host.Outcome State Fault Refusal := issuePriv (effMcload a m) s

end Sys2Proof.Machine
end

