-- ==== Sys2Proof/Machine/HostIf.lean ====
section
/-!
DEFINITION. The host and the pod (R313-R317, R324): accesses to BAR2 and BAR4, AtomicOps, pod peers' accesses, and the resets.
-/
namespace Sys2Proof.Machine

open Sys2Proof

/-- Whether a function of the host serves this partition (R313). -/
def functionOf (s : State) (part : Nat) : Bool := decide (part < 4) && partOfQuarter s part == part

/-- Whether every byte of a range of device memory is mapped for a partition (R313, R320). -/
def rangeMapped (s : State) (part pa n : Nat) : Bool :=
  decide (pa + n ≤ 2 ^ 40) && (upTo (n / 536870912 + 2)).all fun i =>
    let a := Nat.min (pa + 536870912 * i) (pa + n - 1)
    mapped s part a

/-- Whether a block of a range cannot be read, and no home copy answers for the line (R152). -/
def rangeBad (s : State) (part pa n : Nat) : Bool :=
  (upTo (n / 128 + 2)).any fun i =>
    let a := Nat.min (pa + 128 * i) (pa + n - 1)
    blockBad s part a && (look s.l2 (l2Key (homeSector s part a) 0 a)).isNone

/-- A write of device memory from outside, through the home slice (R148). -/
def outsideWrite (s : State) (part pa : Nat) (l : List Byte) : State := homePut s part (l.length / 128 + 2) pa l

/-- A read of device memory from outside, through the home slice (R148). -/
def outsideRead (s : State) (part pa n : Nat) : Option (List Byte) :=
  if rangeBad s part pa n then none else some (homeRange s part (n / 128 + 2) pa n)

/-- HOST_MEMORY_WRITE: a write through BAR2; where it is not mapped it is dropped (R313, R320). -/
def execHostMemoryWrite (part pa : Nat) (data : List Byte) (s : State) : Host.Outcome State Fault Refusal :=
  .next (if functionOf s part && !data.isEmpty && rangeMapped s part pa data.length then outsideWrite s part pa data else s)

/-- HOST_MEMORY_READ: a read through BAR2 (R313, R320). -/
def execHostMemoryRead (part pa len : Nat) (s : State) : Host.Outcome State Fault Refusal :=
  .next (answer s (if functionOf s part && len != 0 && rangeMapped s part pa len then outsideRead s part pa len else none))

/-- What an AtomicOp leaves (R314). -/
def pcieNew (op : PcieAtomic) (bits old v cmp : Nat) : Nat :=
  match op with
  | .fetchAdd => (old + v) % 2 ^ bits
  | .swap => v % 2 ^ bits
  | .cas => if old = cmp % 2 ^ bits then v % 2 ^ bits else old

/-- HOST_ATOMIC: a PCIe AtomicOp on BAR2 executes at the near tier; the home slice first gives up its copy (R148, R314). -/
def execHostAtomic (part : Nat) (op : PcieAtomic) (wide : Bool) (pa : Nat) (v cmp : DWord) (s : State) :
    Host.Outcome State Fault Refusal :=
  let n := if wide then 8 else 4
  .next (if functionOf s part && pa % n == 0 && rangeMapped s part pa n then
      let s1 := homeDrop s part pa
      if blockBad s1 part pa then answer s1 none
      else
        let old := nearBlockRead s1 part pa n
        answer (nearWrite s1 part pa (bytesLE n (pcieNew op (8 * n) (leNat old) v.toNat cmp.toNat))) (some old)
    else answer s none)

/-- BOOT_MEMORY_ACCESS: the PF reads or writes boot memory through BAR4 (R313, R315). -/
def execBootMemoryAccess (write : Bool) (off : Nat) (data : List Byte) (s : State) : Host.Outcome State Fault Refusal :=
  .next (if 4194304 < off + data.length then (if write then s else answer s none)
    else if write then { s with mem := memPut s.mem (bootBase + off) data }
    else answer s (some (memBytes s.mem (bootBase + off) data.length)))

/-- What a pod peer's ATOM or RED leaves, and its ACAS where the expected value stands there (R164, R166). -/
def podNew (op : Option AtomOp) (n : Nat) (v cmp : DWord) (old : Nat) : Option Nat :=
  match op with
  | some o => some (atomNew o (8 * n) old (v.toNat % 2 ^ (8 * n)))
  | none => if old = cmp.toNat % 2 ^ (8 * n) then some (v.toNat % 2 ^ (8 * n)) else none

/-- A pod peer's atomic at the near tier of this device, after the home slice has given the line up (R148, R165): the old value; none where
the block cannot be read, which a RED poisons (log 48). -/
def podAtom (s : State) (part a n : Nat) (f : Nat → Option Nat) (reply : Bool) : Option Nat × State :=
  let s1 := homeDrop s part a
  if blockBad s1 part a then (none, if reply then s1 else poison s1 part a)
  else
    let old := leNat (nearBlockRead s1 part a n)
    (some old, ((f old).map fun v => nearWrite s1 part a (bytesLE n v)).getD s1)

/-- The bytes that a pod peer's access names. -/
def podBytes : PodAccess → Nat
  | .read n => n
  | .write l => l.length
  | .atomic _ wide _ _ _ => if wide then 8 else 4

/-- A pod peer's access is not made: one that awaits an answer is told so. -/
def podRefuse (s : State) (access : PodAccess) : State :=
  match access with
  | .read _ | .atomic _ _ _ _ true => answer s none
  | .write _ | .atomic _ _ _ _ false => s

/-- A pod peer's access to this device's memory, in the partition that the links serve, through the home slice (R148, R317). -/
def podHere (s : State) (part a : Nat) (access : PodAccess) : State :=
  let n := podBytes access
  if functionOf s part && n != 0 && rangeMapped s part a n then
    match access with
    | .read _ => answer s (outsideRead s part a n)
    | .write l => outsideWrite s part a l
    | .atomic op _ v cmp reply =>
      if a % n = 0 then
        let r := podAtom s part a n (podNew op n v cmp) reply
        if reply then answer r.2 (r.1.map (bytesLE n)) else r.2
      else podRefuse s access
  else podRefuse s access

/-- A pod peer's access that goes on to another device's memory (R317). -/
def podOnward (s : State) (pa : Nat) (access : PodAccess) : State :=
  let old := outerRead s 2 pa (podBytes access)
  match access with
  | .read _ => answer s (some old)
  | .write l => outerWrite s 2 pa l
  | .atomic op _ v cmp reply =>
    let n := podBytes access
    let s1 := ((podNew op n v cmp (leNat old)).map fun x => outerWrite s 2 pa (bytesLE n x)).getD s
    if reply then answer s1 (some old) else s1

/-- PA[45:0] of a place in a pod device's memory: six bits of the device above forty of its memory (R141). -/
def podPlace (dev off : Nat) : Nat := dev % 64 * 2 ^ 40 + off % 2 ^ 40

/-- POD_ACCESS_ARRIVAL: a pod peer's access: to this device's memory it acts in the partition that the links serve; for another device
it is forwarded where a link carries it (R148, R165, R316, R317). -/
def execPodAccessArrival (dev off : Nat) (access : PodAccess) (s : State) : Host.Outcome State Fault Refusal :=
  .next (if dev % 64 = podSelf s then podHere s (podPart s) (off % 2 ^ 40) access
    else if podReach s (dev % 64) then podOnward s (podPlace dev off) access
    else podRefuse s access)

/-! ## Resets (R314, R324) -/

/-- The device after a reset: what lies outside it, and the model's own counters, stand (R324). -/
def resetDevice (s : State) : State :=
  { State.reset with
    fresh := s.fresh
    nextKey := s.nextKey
    mem := s.mem.filter fun c => decide (hostBase ≤ c.1)
    flashMem := s.flashMem
    down := s.down
    sent := s.sent }

/-- PCIE_RESET: Conventional Reset (R324). -/
def execPcieReset (s : State) : Host.Outcome State Fault Refusal := .next (resetDevice s)

/-- PF_FUNCTION_LEVEL_RESET: it resets the device (R314, R324). -/
def execPfFunctionLevelReset (s : State) : Host.Outcome State Fault Refusal := .next (resetDevice s)

/-- A queue as reset leaves it: disabled and idle, with no tape (R64, R324). -/
def resetQueue (s : State) (q : Nat) : State :=
  { s with
    csr := (upTo 16).foldl (fun m k => del m (lq q k)) s.csr
    queues := del s.queues q
    accepting := s.accepting.filter fun a => a.2 != q }

/-- VF_FUNCTION_LEVEL_RESET: every grid of the partition ends as by ABORT, and its queues are reset (R314). -/
def execVfFunctionLevelReset (part : Nat) (s : State) : Host.Outcome State Fault Refusal :=
  .next (if functionOf s part then
      let s1 := s.grids.foldl (fun s g => if g.2.part = part then post s 0 (.abort g.1) else s) s
      ((upTo 256).filter fun q => partOfQueue s q == part).foldl resetQueue s1
    else s)

end Sys2Proof.Machine
end

