-- ==== Sys2Proof/Machine/Tape.lean ====
section
/-!
DEFINITION. TAPE and LAUNCH, opcodes 0x4A and 0x4B (R74, R75): records pushed on a queue's tape and packets appended to a
queue's ring, both from local memory.
-/
namespace Sys2Proof.Machine

open Sys2Proof

/-- The local address of a lane's record. -/
def recordAddr (x : Sel) (a : Src) (i : Nat) : Nat := (laneReg (laneOf x.beam i) a.r).toNat

/-- The address checks of one lane (R74): its trap, or where its 256 bytes lie. -/
def recordPlace (x : Sel) (s : State) (bl : Block) (g : Gang) (gr : Grid) (a : Src) (i : Nat) : Except Trap Nat :=
  let at_ := recordAddr x a i
  if at_ % 16 ≠ 0 then .error (laneTrap x 0x06 i (BitVec.ofNat 64 at_) [])
  else
    match localPlace s bl g gr at_ 256 with
    | none => .error (laneTrap x 0x08 i (BitVec.ofNat 64 at_) [])
    | some t => .ok t

/-- The first WAIT entry of KIND 2 whose handle may not be recorded (R74): its number and the handle. -/
def badWait (s : State) (bl : Block) (gr : Grid) (l : List Byte) : Option (Nat × Nat) :=
  firstSome (fun k =>
    let h := pkOpnd l k % 64
    if pkKind l k = 2 ∧ (gr.bufs ≤ h ∨ (handleAt s bl.core (bl.handles.getD h 0)).state = .free) then some (k, h) else none)
    (upTo 4)

/-- The checks of TAPE on one lane: its trap, or its record. -/
def tapeLane (x : Sel) (s : State) (bl : Block) (g : Gang) (gr : Grid) (a : Src) (i : Nat) : Except Trap (List Byte) :=
  match recordPlace x s bl g gr a i with
  | .error t => .error t
  | .ok t =>
    let l := localBytes s t 256
    match badWait s bl gr l with
    | some (k, h) => .error { trapOf x 0x11 with lane := i, reg := h, offs := 72 + 16 * k }
    | none => .ok l

/-- The results of the lanes in ascending order, or the first trap. -/
def eachLane {α : Type} (f : Nat → Except Trap α) : List Nat → Except Trap (List α)
  | [] => .ok []
  | i :: t =>
    match f i with
    | .error e => .error e
    | .ok v =>
      match eachLane f t with
      | .error e => .error e
      | .ok r => .ok (v :: r)

/-- A record as TAPE writes it: a WAIT entry of KIND 2 names the handle's present instance (R62, R74). -/
def tapeRecord (s : State) (bl : Block) (l : List Byte) : List Byte :=
  bytesLE 256 ((upTo 4).foldl (fun n k =>
    if pkKind l k = 2 then
      let e := bl.handles.getD (pkOpnd l k % 64) 0
      let lo := 576 + 128 * k
      let opnd := (handleAt s bl.core e).inst * 2 ^ 48 + bl.core * 256 + e
      n - (pkOpnd l k) * 2 ^ lo - 2 * 2 ^ (lo + 64) + opnd * 2 ^ lo + 3 * 2 ^ (lo + 64)
    else n) (leNat l))

/-- Whether a beam's write of 256 bytes at an address that supervisor rights translate can travel: they lie in one page (R317, R321). -/
def slotOpen (s : State) (core part va : Nat) : Bool :=
  match xlateSched s part va true with
  | .ok y => (y.apc == 2 && !podMember s part (fld y.pa 45 40)) || pathOpen s (quarterOf core) part y.apc y.pa
  | .error _ => true

/-- Writes records from an address on, with the rights with which LAUNCH writes its slot: R74 names none. DESIGN CHOICE (log 17). -/
def tapeWrite (part : Nat) : State → Nat → List (List Byte) → State
  | s, _, [] => s
  | s, t, r :: rest => tapeWrite part ((schedWrite part false 3 s t r).getD s) (t + 256) rest

/-- TAPE (R74): the beam's earlier accesses are performed, the stores of the records among them. -/
def effTape (a : Src) : Effect := fun x s0 =>
  gated x s0 x.run [srcUse a 1] [] (released s0 x.key .dev fun s =>
    match homeOf s x.beam with
    | none => .hold s
    | some (bl, g, gr) =>
      let full : Trap := { trapOf x 0x10 with lanes := maskOf x.run }
      if gr.tapeon = false then .trap s full
      else
        match eachLane (tapeLane x s bl g gr a) x.run with
        | .error t => .trap s t
        | .ok ls =>
          let q := gr.queue
          let t := lqTape s q 10
          let t2 := t + 256 * x.run.length
          if lqTape s q 8 < t2 then .trap s full
          else if !(upTo ls.length).all fun i => slotOpen s (selCore x) (selPart s x) (t + 256 * i) then .hold s
          else
            let s1 := lqPut64 s q 10 t2
            .done (tapeWrite (selPart s x) s1 t (ls.map (tapeRecord s bl))) [])

/-- The slot that LAUNCH of a packet writes; `none` where it writes none (R75, R319). -/
def launchSlot (s : State) (part : Nat) (l : List Byte) : Option Nat :=
  let q := pkQsel l
  if partOfQueue s q ≠ part ∨ lqEn s q = false ∨ lqDev s q = false ∨ tailHeld s q = true ∨ (lqTl s q + 1) % lqN s q = lqHd s q then none
  else some (lqBase s q + 256 * lqTl s q)

/-- LAUNCH of one packet (R75, R319): its status. -/
def launchPacket (s : State) (part : Nat) (l : List Byte) : Nat × State :=
  let q := pkQsel l
  if partOfQueue s q ≠ part ∨ lqEn s q = false ∨ lqDev s q = false ∨ tailHeld s q = true then (2, s)
  else
    let next := (lqTl s q + 1) % lqN s q
    if next = lqHd s q then (1, s)
    else
      match schedWrite part false 3 s (lqBase s q + 256 * lqTl s q) l with
      | none => (2, lqFault s q)
      | some s1 =>
        let s2 := setQueue s1 q fun r => { r with launched := lqTl s q :: r.launched }
        (0, pump (csrPut s2 0 (lq q 4) (BitVec.ofNat 32 next)) q)

/-- Whether the slots that LAUNCH writes for some packets in turn can be reached (R317, R321). -/
def launchOpen (core part : Nat) : State → List Nat → Bool
  | _, [] => true
  | s, t :: rest =>
    let l := localBytes s t 256
    ((launchSlot s part l).map (slotOpen s core part)).getD true && launchOpen core part (launchPacket s part l).2 rest

/-- Launches the packets of the lanes in ascending order, each lane taking its status. -/
def launchLanes (k part d : Nat) : State → List (Nat × Nat) → State
  | s, [] => s
  | s, (i, t) :: rest =>
    let r := launchPacket s part (localBytes s t 256)
    launchLanes k part d (onLanes r.2 k [i] fun _ l => laneSet l d (BitVec.ofNat 32 r.1)) rest

/-- LAUNCH (R75): the beam's earlier accesses are performed, the stores of the packets among them. -/
def effLaunch (a : Src) (d : Nat) : Effect := fun x s0 =>
  gated x s0 x.run [srcUse a 1] [regUse d 1] (released s0 x.key .dev fun s =>
    match homeOf s x.beam with
    | none => .hold s
    | some (bl, g, gr) =>
      match eachLane (recordPlace x s bl g gr a) x.run with
      | .error t => .trap s t
      | .ok ls =>
        if launchOpen (selCore x) (selPart s x) s ls then .done (launchLanes x.key (selPart s x) d s (x.run.zip ls)) [] else .hold s)

/-- The meaning of TAPE (R74). -/
def execTape (a : Src) (s : State) : Host.Outcome State Fault Refusal := issue 4 (effTape a) s
/-- The meaning of LAUNCH (R75). -/
def execLaunch (a : Src) (d : Nat) (s : State) : Host.Outcome State Fault Refusal := issue 4 (effLaunch a d) s

end Sys2Proof.Machine
end

