-- ==== Sys2Proof/Machine/Clock.lean ====
section
/-!
DEFINITION. What the machine does between instructions: the step that is due (log 3), the traps that wait (R152, R190, R294),
and the end of a clock, when caches may evict (R147, R163, log 7); and a program placed by hand where the next step fetches.
-/
namespace Sys2Proof.Machine

open Sys2Proof

/-! ## The agenda (log 3) -/

/-- The first entry that is due and meets a property, and the agenda without it. -/
def takeDue (f : Instr → Bool) (clk : Nat) : List Due → Option (Instr × List Due)
  | [] => none
  | d :: t =>
    if d.clk ≤ clk ∧ f d.step = true then some (d.step, t)
    else
      match takeDue f clk t with
      | some (i, r) => some (i, d :: r)
      | none => none

/-- The turn of a step that a clock takes behind its issues: what completes (R30, R196), then a halt, then a pre-emption (R294), then
what a thief has been shipped, which a deal of the clock goes before (R83); 0 for every other step. -/
def lateRank : Instr → Nat
  | .producerComplete _ _ _ | .writePerformed _ _ _ | .copyComplete _ _ _ | .nvmeCompletion _ _ _ | .decodeComplete _
  | .mmaOperationComplete _ | .matrixSyncOpComplete _ => 1
  | .dbghaltWrite _ _ _ => 2
  | .hgPreemptRequestDelivery _ | .drainWatchdogExpiry _ | .pgraceExpiry _ _ => 3
  | .stealShipmentArrival _ _ => 4
  | _ => 0

/-- Whether a clock takes a step behind its issues: what it changes is seen from the next clock on, and a precise trap of the clock
goes before it (R294). -/
def late (i : Instr) : Bool := lateRank i != 0

/-- The first late step that is due, by its turn. -/
def takeLate (clk : Nat) (l : List Due) : Option (Instr × List Due) :=
  firstSome (fun r => takeDue (fun i => lateRank i == r) clk l) [1, 2, 3, 4]

/-! ## Waiting traps -/

/-- The first beam that is to take a trap at an instruction boundary: one waits, and nothing holds the beam, which is in no handler and is
not stopped (R152, R187, R190, R294); one whose entry awaits a walk, or cannot travel, waits on (R143, R321). -/
def trapDue (s : State) : Option (Nat × Trap × List (Nat × Trap)) :=
  firstSome (fun p =>
    match p.2.waiting with
    | [] => none
    | t :: rest => if trapReady s p.2 && !p.2.stopped && trapOpen s p.1 t.2 then some (p.1, t.2, rest) else none) s.beams

/-- A beam takes a trap that waited. -/
def takeWaiting (s : State) (k : Nat) (t : Trap) (rest : List (Nat × Trap)) : State :=
  takeTrap (onBeam s k fun b => { b with waiting := rest }) k (standing s k t)

/-- Whether a beam stands before a trap whose entry awaits a walk or cannot travel. -/
def awaitsEntry (s : State) (k : Nat) : Bool :=
  match beamOf s k with
  | some b => trapReady s b && !b.stopped && (b.waiting.head?.map fun t => !trapOpen s k t.2).getD false
  | none => false

/-- A beam between its issues: its replay queue goes on (R293), but not where a debugger holds it, unless it is to be saved at the boundary
behind the queue (R294, log 16); and the walks of a trap's entry begin (R143). -/
def betweenIssues (s : State) (k : Nat) (b : Beam) : State :=
  let s1 := if replaying b && (b.stopped || !halted s k) then replay s k else s
  if awaitsEntry s1 k then entryWalks s1 k else s1

/-! ## Evictions (log 7) -/

/-- A core's caches without the lines that go. -/
def evictCore (n core : Nat) (c : Core) : Core :=
  let out := fun (kind key : Nat) => Config.evicts n ((key * 4 + kind) * 64 + core)
  { c with
    l1 := c.l1.filter fun e => !out 0 e.1
    scaleCache := c.scaleCache.filter fun e => !out 1 e.1
    icache := c.icache.filter fun e => !out 2 e.1 }

/-- Caches evict what they please. -/
def evictSome (s : State) : State :=
  let n := s.fresh
  let s1 := { s with cores := s.cores.map fun (c : Nat × Core) => (c.1, evictCore n c.1 c.2) }
  draw (s1.l2.foldl (fun (s : State) (e : Nat × (BitVec 1024 × BitVec 128)) => if Config.evicts n (e.1 * 64 + 63) then evictL2 s e.1 else s) s1)

/-- A block of device memory may lose more bits than its code corrects; a poisoned one stays poisoned. Only errors that are detected
occur: R152 lets bad data beyond 24 errors be returned as good. DESIGN CHOICE (log 48). -/
def blockErrors (s : State) : State :=
  match Config.badBlock s.fresh with
  | some k => if (look s.bad k).isSome then s else { s with bad := put s.bad k false }
  | none => s

/-- The next clock begins with nothing issued, and with handles as they stand (R105, R196). -/
def nextClock (s : State) : State :=
  { s with
    clk := s.clk + 1
    issued := []
    closed := false
    cores := s.cores.map fun (c : Nat × Core) => (c.1, { c.2 with were := [] }) }

/-- A clock ends (R105): what beams do between their issues goes on, engines may write some of what they have read (R278), the partitions
that a beam has written hold from the next, and the PF's writes act behind the beams' (R318, R323). -/
def tick (s : State) : State :=
  let s1 := s.beams.foldl (fun s b => betweenIssues s b.1 b.2) s
  applyPfWrites (applyPartcfg (nextClock (evictSome (engineWrites (blockErrors s1)))))

/-! ## A program placed by hand -/

/-- The grid that runs it: one gang of one block of one beam, user code at virtual 0x100. -/
def handGrid : Grid :=
  { part := 0, queue := 0, tag := 0, signal := 0, deadline := 0, cls := 1, tapeon := false, args := 0, widbase := 0, kimg := 0,
    seed := 0, ipart := 0, edge := false, codeoff := 256, codesz := 4096, mactab := 0, macn := 0, macros := [], widw := [5, 0, 0, 0, 0, 0], blklvl := 1,
    ganglvl := 1, nblk := 1, thr := 32, regs := 1, depth := 16, accs := 24, bufs := 64, hgch := 64, hgbeams := 1, lmb := 65536,
    expins := 0, idem := false, fslots := [], next := 1, lim := 1, returned := [], live := 1, order := 0, aborted := false,
    ending := none, popped := false }

/-- Its gang and its block. -/
def handGang (grid block : Nat) : Gang :=
  { grid := grid, coord := 0, state := .resident, cluster := 0, c0 := 0, blocks := [block], chans := startChans handGrid,
    started := 0, order := 0, entered := 0, request := none, requested := false, area := none, saved := false, again := false,
    kept := [], left := [] }
def handBlock (gang : Nat) : Block :=
  { gang := gang, k := 0, core := 0, bslot := 0, beams := [0], lmbase := 0, thr := 32, a := allot handGrid, lmb := 65536,
    macn := 0, image := 0, ipart := 0, slots := upTo 24, handles := upTo 64, scales := [], gen := 0, tab := none, retired := 0,
    leave := .none, doneByDrain := false, listed := [], past := [] }

/-- A translation of the first 64 KiB to the same physical addresses, writable by users. -/
def handPage : TlbEntry := ⟨0, 16, 0, 0, true, true, true, false, 0⟩

/-- The state in which the only beam stands at an instruction of these bytes: its grid is resident, translation is on with
the page above in the TLB, and the bytes lie at virtual 0x100. -/
def placeCode (s : State) (l : List Byte) : State :=
  let key := s.nextKey
  let s1 := { s with
    nextKey := key + 3
    agenda := []
    issued := []
    closed := false
    grids := put s.grids key handGrid
    gangs := put s.gangs (key + 1) (handGang key (key + 2))
    blocks := put s.blocks (key + 2) (handBlock (key + 1))
    beams := [(0, beamStart (key + 2) 0 0)] }
  let s2 := csrPut s1 0 0x100 (csrGet s1 0 0x100 ||| 1)
  let s3 := setCore s2 0 fun c => { c with tlb := handPage :: c.tlb }
  outsideWrite s3 0 256 l

end Sys2Proof.Machine
end

