-- ==== Sys2Proof/Machine/Dispatch.lean ====
section
/-!
DEFINITION. Which meaning each instruction has: one call for each constructor.
-/
namespace Sys2Proof.Machine

open Sys2Proof

/-- What an instruction or a step of the device does. -/
def exec (i : Instr) (s : State) : Host.Outcome State Fault Refusal :=
  match i with
  | .movS d a => Sys2Proof.Machine.execMovS d a s
  | .iaddS d a => Sys2Proof.Machine.execIaddS d a s
  | .isubS d a => Sys2Proof.Machine.execIsubS d a s
  | .imulS d a => Sys2Proof.Machine.execImulS d a s
  | .andS d a => Sys2Proof.Machine.execAndS d a s
  | .orS d a => Sys2Proof.Machine.execOrS d a s
  | .xorS d a => Sys2Proof.Machine.execXorS d a s
  | .shlS d a => Sys2Proof.Machine.execShlS d a s
  | .shrS d a => Sys2Proof.Machine.execShrS d a s
  | .sraS d a => Sys2Proof.Machine.execSraS d a s
  | .iminS d a => Sys2Proof.Machine.execIminS d a s
  | .imaxS d a => Sys2Proof.Machine.execImaxS d a s
  | .faddS d a => Sys2Proof.Machine.execFaddS d a s
  | .fsubS d a => Sys2Proof.Machine.execFsubS d a s
  | .fmulS d a => Sys2Proof.Machine.execFmulS d a s
  | .fmaxS d a => Sys2Proof.Machine.execFmaxS d a s
  | .movB32 g a d => Sys2Proof.Machine.execMovB32 g a d s
  | .movi d i18 => Sys2Proof.Machine.execMovi d i18 s
  | .movhi d i18 => Sys2Proof.Machine.execMovhi d i18 s
  | .iadd g b a d => Sys2Proof.Machine.execIadd g b a d s
  | .isub g b a d => Sys2Proof.Machine.execIsub g b a d s
  | .iaddi g i7 a d => Sys2Proof.Machine.execIaddi g i7 a d s
  | .imul g b a d => Sys2Proof.Machine.execImul g b a d s
  | .imad g b a d => Sys2Proof.Machine.execImad g b a d s
  | .and g b a d => Sys2Proof.Machine.execAnd g b a d s
  | .or g b a d => Sys2Proof.Machine.execOr g b a d s
  | .xor g b a d => Sys2Proof.Machine.execXor g b a d s
  | .andn g b a d => Sys2Proof.Machine.execAndn g b a d s
  | .shl g b a d => Sys2Proof.Machine.execShl g b a d s
  | .shr g b a d => Sys2Proof.Machine.execShr g b a d s
  | .sra g b a d => Sys2Proof.Machine.execSra g b a d s
  | .rotl g b a d => Sys2Proof.Machine.execRotl g b a d s
  | .iminI32 g b a d => Sys2Proof.Machine.execIminI32 g b a d s
  | .imaxI32 g b a d => Sys2Proof.Machine.execImaxI32 g b a d s
  | .iminZ32 g b a d => Sys2Proof.Machine.execIminZ32 g b a d s
  | .imaxZ32 g b a d => Sys2Proof.Machine.execImaxZ32 g b a d s
  | .icmp32 u c b a pd => Sys2Proof.Machine.execIcmp32 u c b a pd s
  | .icmp64 u c b a pd => Sys2Proof.Machine.execIcmp64 u c b a pd s
  | .sel p b a d => Sys2Proof.Machine.execSel p b a d s
  | .lea sh b a d => Sys2Proof.Machine.execLea sh b a d s
  | .imulh u b a d => Sys2Proof.Machine.execImulh u b a d s
  | .idiv w u b a d => Sys2Proof.Machine.execIdiv w u b a d s
  | .irem w u b a d => Sys2Proof.Machine.execIrem w u b a d s
  | .inegI32 g a d => Sys2Proof.Machine.execInegI32 g a d s
  | .iabsI32 g a d => Sys2Proof.Machine.execIabsI32 g a d s
  | .notB32 g a d => Sys2Proof.Machine.execNotB32 g a d s
  | .clzB32 g a d => Sys2Proof.Machine.execClzB32 g a d s
  | .popcB32 g a d => Sys2Proof.Machine.execPopcB32 g a d s
  | .brev g a d => Sys2Proof.Machine.execBrev g a d s
  | .inegI64 g a d => Sys2Proof.Machine.execInegI64 g a d s
  | .iabsI64 g a d => Sys2Proof.Machine.execIabsI64 g a d s
  | .clzB64 g a d => Sys2Proof.Machine.execClzB64 g a d s
  | .popcB64 g a d => Sys2Proof.Machine.execPopcB64 g a d s
  | .bfx u b a d => Sys2Proof.Machine.execBfx u b a d s
  | .bfi b a d => Sys2Proof.Machine.execBfi b a d s
  | .movB64 a d => Sys2Proof.Machine.execMovB64 a d s
  | .isubI64 b a d => Sys2Proof.Machine.execIsubI64 b a d s
  | .imulI64 b a d => Sys2Proof.Machine.execImulI64 b a d s
  | .iminI64 b a d => Sys2Proof.Machine.execIminI64 b a d s
  | .imaxI64 b a d => Sys2Proof.Machine.execImaxI64 b a d s
  | .iminZ64 b a d => Sys2Proof.Machine.execIminZ64 b a d s
  | .imaxZ64 b a d => Sys2Proof.Machine.execImaxZ64 b a d s
  | .andB64 b a d => Sys2Proof.Machine.execAndB64 b a d s
  | .orB64 b a d => Sys2Proof.Machine.execOrB64 b a d s
  | .xorB64 b a d => Sys2Proof.Machine.execXorB64 b a d s
  | .shlB64 b a d => Sys2Proof.Machine.execShlB64 b a d s
  | .shrB64 b a d => Sys2Proof.Machine.execShrB64 b a d s
  | .sraB64 b a d => Sys2Proof.Machine.execSraB64 b a d s
  | .iaddI64 g b a d => Sys2Proof.Machine.execIaddI64 g b a d s
  | .gxld a d => Sys2Proof.Machine.execGxld a d s
  | .gxst b a => Sys2Proof.Machine.execGxst b a s
  | .fadd g b a d => Sys2Proof.Machine.execFadd g b a d s
  | .fsub g b a d => Sys2Proof.Machine.execFsub g b a d s
  | .fmul g b a d => Sys2Proof.Machine.execFmul g b a d s
  | .ffma g b a d => Sys2Proof.Machine.execFfma g b a d s
  | .fmin g b a d => Sys2Proof.Machine.execFmin g b a d s
  | .fmax g b a d => Sys2Proof.Machine.execFmax g b a d s
  | .fabs g a d => Sys2Proof.Machine.execFabs g a d s
  | .fneg g a d => Sys2Proof.Machine.execFneg g a d s
  | .frcp g a d => Sys2Proof.Machine.execFrcp g a d s
  | .frsq g a d => Sys2Proof.Machine.execFrsq g a d s
  | .fsqrt g a d => Sys2Proof.Machine.execFsqrt g a d s
  | .fexp2 g a d => Sys2Proof.Machine.execFexp2 g a d s
  | .flog2 g a d => Sys2Proof.Machine.execFlog2 g a d s
  | .frnd g rm a d => Sys2Proof.Machine.execFrnd g rm a d s
  | .fcmp c b a pd => Sys2Proof.Machine.execFcmp c b a pd s
  | .fdiv g b a d => Sys2Proof.Machine.execFdiv g b a d s
  | .faddDirected rm b a d => Sys2Proof.Machine.execFaddDirected rm b a d s
  | .fsubDirected rm b a d => Sys2Proof.Machine.execFsubDirected rm b a d s
  | .fmulDirected rm b a d => Sys2Proof.Machine.execFmulDirected rm b a d s
  | .ffmaDirected rm b a d => Sys2Proof.Machine.execFfmaDirected rm b a d s
  | .badd2 g b a d => Sys2Proof.Machine.execBadd2 g b a d s
  | .bmul2 g b a d => Sys2Proof.Machine.execBmul2 g b a d s
  | .bfma2 g b a d => Sys2Proof.Machine.execBfma2 g b a d s
  | .cvt g k a d => Sys2Proof.Machine.execCvt g k a d s
  | .plop t pb pa pd => Sys2Proof.Machine.execPlop t pb pa pd s
  | .p2g g d => Sys2Proof.Machine.execP2g g d s
  | .g2p g a => Sys2Proof.Machine.execG2p g a s
  | .voteAny pa pd => Sys2Proof.Machine.execVoteAny pa pd s
  | .voteAll pa pd => Sys2Proof.Machine.execVoteAll pa pd s
  | .voteBallot pa d => Sys2Proof.Machine.execVoteBallot pa d s
  | .voteFirst pd => Sys2Proof.Machine.execVoteFirst pd s
  | .shfl m b a d => Sys2Proof.Machine.execShfl m b a d s
  | .perm g b a d => Sys2Proof.Machine.execPerm g b a d s
  | .redux o a d => Sys2Proof.Machine.execRedux o a d s
  | .scan o a d => Sys2Proof.Machine.execScan o a d s
  | .bra sense p disp => Sys2Proof.Machine.execBra sense p disp s
  | .brd sense p disp => Sys2Proof.Machine.execBrd sense p disp s
  | .split j => Sys2Proof.Machine.execSplit j s
  | .join j => Sys2Proof.Machine.execJoin j s
  | .brx g a => Sys2Proof.Machine.execBrx g a s
  | .call l disp => Sys2Proof.Machine.execCall l disp s
  | .ret g a => Sys2Proof.Machine.execRet g a s
  | .exit g => Sys2Proof.Machine.execExit g s
  | .mcall m P0 P1 P2 => Sys2Proof.Machine.execMcall m P0 P1 P2 s
  | .yield g => Sys2Proof.Machine.execYield g s
  | .tape a => Sys2Proof.Machine.execTape a s
  | .launch a d => Sys2Proof.Machine.execLaunch a d s
  | .ld32 g i7 a d => Sys2Proof.Machine.execLd32 g i7 a d s
  | .ld64 g i7 a d => Sys2Proof.Machine.execLd64 g i7 a d s
  | .ld128 g i7 a d => Sys2Proof.Machine.execLd128 g i7 a d s
  | .st32 g i7 a d => Sys2Proof.Machine.execSt32 g i7 a d s
  | .st64 g i7 a d => Sys2Proof.Machine.execSt64 g i7 a d s
  | .st128 g i7 a d => Sys2Proof.Machine.execSt128 g i7 a d s
  | .ldl32 g i7 a d => Sys2Proof.Machine.execLdl32 g i7 a d s
  | .stl32 g i7 a d => Sys2Proof.Machine.execStl32 g i7 a d s
  | .ldNarrow z a d => Sys2Proof.Machine.execLdNarrow z a d s
  | .stNarrow z a d => Sys2Proof.Machine.execStNarrow z a d s
  | .ldlSized z a d => Sys2Proof.Machine.execLdlSized z a d s
  | .stlSized z a d => Sys2Proof.Machine.execStlSized z a d s
  | .ldc z a d => Sys2Proof.Machine.execLdc z a d s
  | .pref a => Sys2Proof.Machine.execPref a s
  | .cflush a => Sys2Proof.Machine.execCflush a s
  | .ldOrdered z q a d => Sys2Proof.Machine.execLdOrdered z q a d s
  | .stOrdered z q a d => Sys2Proof.Machine.execStOrdered z q a d s
  | .atom32 o q a d => Sys2Proof.Machine.execAtom32 o q a d s
  | .atom64 o q a d => Sys2Proof.Machine.execAtom64 o q a d s
  | .red32 o q a d => Sys2Proof.Machine.execRed32 o q a d s
  | .red64 o q a d => Sys2Proof.Machine.execRed64 o q a d s
  | .acas32 q a d => Sys2Proof.Machine.execAcas32 q a d s
  | .acas64 q a d => Sys2Proof.Machine.execAcas64 q a d s
  | .fence q => Sys2Proof.Machine.execFence q s
  | .commitBlk => Sys2Proof.Machine.execCommitBlk s
  | .commitGrid => Sys2Proof.Machine.execCommitGrid s
  | .commitPod => Sys2Proof.Machine.execCommitPod s
  | .dstat d => Sys2Proof.Machine.execDstat d s
  | .copy a h => Sys2Proof.Machine.execCopy a h s
  | .offl a h => Sys2Proof.Machine.execOffl a h s
  | .recallCopy a h => Sys2Proof.Machine.execRecall a h s
  | .decode a h => Sys2Proof.Machine.execDecode a h s
  | .bfree h => Sys2Proof.Machine.execBfree h s
  | .btest st h pd => Sys2Proof.Machine.execBtest st h pd s
  | .bwaitFree h => Sys2Proof.Machine.execBwaitFree h s
  | .bwaitFull h => Sys2Proof.Machine.execBwaitFull h s
  | .mma a h => Sys2Proof.Machine.execMma a h s
  | .mmaSig a h => Sys2Proof.Machine.execMmaSig a h s
  | .aload a sl => Sys2Proof.Machine.execAload a sl s
  | .acvt a sl => Sys2Proof.Machine.execAcvt a sl s
  | .aclr sl => Sys2Proof.Machine.execAclr sl s
  | .qcvt a fs => Sys2Proof.Machine.execQcvt a fs s
  | .scbs b a k => Sys2Proof.Machine.execScbs b a k s
  | .sig a => Sys2Proof.Machine.execSig a s
  | .sbwd a => Sys2Proof.Machine.execSbwd a s
  | .rtab a => Sys2Proof.Machine.execRtab a s
  | .rule a => Sys2Proof.Machine.execRule a s
  | .rgen a => Sys2Proof.Machine.execRgen a s
  | .synbar hc => Sys2Proof.Machine.execSynbar hc s
  | .synarv hc => Sys2Proof.Machine.execSynarv hc s
  | .synput a hw => Sys2Proof.Machine.execSynput a hw s
  | .synget hw d => Sys2Proof.Machine.execSynget hw d s
  | .rand g d => Sys2Proof.Machine.execRand g d s
  | .rdsp g sp d => Sys2Proof.Machine.execRdsp g sp d s
  | .widf g n d => Sys2Proof.Machine.execWidf g n d s
  | .sysc g i7 a d => Sys2Proof.Machine.execSysc g i7 a d s
  | .tret => Sys2Proof.Machine.execTret s
  | .bkpt g i7 => Sys2Proof.Machine.execBkpt g i7 s
  | .csrr d i18 => Sys2Proof.Machine.execCsrr d i18 s
  | .csrw d i18 => Sys2Proof.Machine.execCsrw d i18 s
  | .tlbinvAll => Sys2Proof.Machine.execTlbinvAll s
  | .tlbinvPage a => Sys2Proof.Machine.execTlbinvPage a s
  | .mcload a m => Sys2Proof.Machine.execMcload a m s
  | .producerComplete core beam id => Sys2Proof.Machine.execProducerComplete core beam id s
  | .pageWalkComplete core id => Sys2Proof.Machine.execPageWalkComplete core id s
  | .yieldExpiry core beam => Sys2Proof.Machine.execYieldExpiry core beam s
  | .dependencePoll => Sys2Proof.Machine.execDependencePoll s
  | .deadlineMiss q => Sys2Proof.Machine.execDeadlineMiss q s
  | .packetSelect part slot => Sys2Proof.Machine.execPacketSelect part slot s
  | .packetAccept part slot => Sys2Proof.Machine.execPacketAccept part slot s
  | .rewindPop q => Sys2Proof.Machine.execRewindPop q s
  | .gangDeal part => Sys2Proof.Machine.execGangDeal part s
  | .gangStart cluster => Sys2Proof.Machine.execGangStart cluster s
  | .blockThreadStart gang => Sys2Proof.Machine.execBlockThreadStart gang s
  | .stealRequest cluster => Sys2Proof.Machine.execStealRequest cluster s
  | .stealReply thief victims => Sys2Proof.Machine.execStealReply thief victims s
  | .stealShipmentArrival thief gangs => Sys2Proof.Machine.execStealShipmentArrival thief gangs s
  | .stealBackoffExpiry cluster => Sys2Proof.Machine.execStealBackoffExpiry cluster s
  | .gangRetire gang => Sys2Proof.Machine.execGangRetire gang s
  | .gridEnd grid => Sys2Proof.Machine.execGridEnd grid s
  | .completionWordWrite grid => Sys2Proof.Machine.execCompletionWordWrite grid s
  | .logDrain core => Sys2Proof.Machine.execLogDrain core s
  | .binAgeExpiry sector bin => Sys2Proof.Machine.execBinAgeExpiry sector bin s
  | .binRingArrival sector items => Sys2Proof.Machine.execBinRingArrival sector items s
  | .binPacketArrival ch items => Sys2Proof.Machine.execBinPacketArrival ch items s
  | .applyMarkerArrival ch commit => Sys2Proof.Machine.execApplyMarkerArrival ch commit s
  | .foldRefreshYield ch => Sys2Proof.Machine.execFoldRefreshYield ch s
  | .foldReadYield ch => Sys2Proof.Machine.execFoldReadYield ch s
  | .foldComplete ch => Sys2Proof.Machine.execFoldComplete ch s
  | .fullStateNotice core ch full => Sys2Proof.Machine.execFullStateNotice core ch full s
  | .commitComplete commit => Sys2Proof.Machine.execCommitComplete commit s
  | .hgBarrierRelease gang ch phase => Sys2Proof.Machine.execHgBarrierRelease gang ch phase s
  | .hgBroadcastDelivery core w v => Sys2Proof.Machine.execHgBroadcastDelivery core w v s
  | .hgCommitMarkerDelivery commit => Sys2Proof.Machine.execHgCommitMarkerDelivery commit s
  | .copyComplete core h inst => Sys2Proof.Machine.execCopyComplete core h inst s
  | .decodeStart quarter => Sys2Proof.Machine.execDecodeStart quarter s
  | .decodeComplete quarter => Sys2Proof.Machine.execDecodeComplete quarter s
  | .matrixQueueDispatch core => Sys2Proof.Machine.execMatrixQueueDispatch core s
  | .mmaOperationComplete core => Sys2Proof.Machine.execMmaOperationComplete core s
  | .matrixSyncOpComplete core => Sys2Proof.Machine.execMatrixSyncOpComplete core s
  | .ruleQueueDispatch core => Sys2Proof.Machine.execRuleQueueDispatch core s
  | .ruleGeneration core => Sys2Proof.Machine.execRuleGeneration core s
  | .ruleOpComplete core => Sys2Proof.Machine.execRuleOpComplete core s
  | .hgPreemptRequestDelivery gangs => Sys2Proof.Machine.execHgPreemptRequestDelivery gangs s
  | .drainWatchdogExpiry block => Sys2Proof.Machine.execDrainWatchdogExpiry block s
  | .pgraceExpiry core beam => Sys2Proof.Machine.execPgraceExpiry core beam s
  | .savePoolAlloc gang => Sys2Proof.Machine.execSavePoolAlloc gang s
  | .saveWriteComplete block => Sys2Proof.Machine.execSaveWriteComplete block s
  | .gangPreempted gang => Sys2Proof.Machine.execGangPreempted gang s
  | .preemptOverdue gang => Sys2Proof.Machine.execPreemptOverdue gang s
  | .resumeRestoreComplete gang => Sys2Proof.Machine.execResumeRestoreComplete gang s
  | .quiesceAck q => Sys2Proof.Machine.execQuiesceAck q s
  | .hgRebindComplete => Sys2Proof.Machine.execHgRebindComplete s
  | .abort grid => Sys2Proof.Machine.execAbort grid s
  | .illegalInstruction e => Sys2Proof.Machine.execIllegalInstruction e s
  | .writePerformed core beam id => Sys2Proof.Machine.execWritePerformed core beam id s
  | .tlbinvComplete core beam => Sys2Proof.Machine.execTlbinvComplete core beam s
  | .podMarkerArrival route tag => Sys2Proof.Machine.execPodMarkerArrival route tag s
  | .nvmeCompletion qp entry status => Sys2Proof.Machine.execNvmeCompletion qp entry status s
  | .podAccessArrival dev off access => Sys2Proof.Machine.execPodAccessArrival dev off access s
  | .lqtlWrite part q v => Sys2Proof.Machine.execLqtlWrite part q v s
  | .lqEnable part q => Sys2Proof.Machine.execLqEnable part q s
  | .lqDisable part q => Sys2Proof.Machine.execLqDisable part q s
  | .hmaskWrite n v => Sys2Proof.Machine.execHmaskWrite n v s
  | .defspillWrite part v => Sys2Proof.Machine.execDefspillWrite part v s
  | .milvWrite part q v => Sys2Proof.Machine.execMilvWrite part q v s
  | .partcfgWrite v => Sys2Proof.Machine.execPartcfgWrite v s
  | .qreqWrite v => Sys2Proof.Machine.execQreqWrite v s
  | .hgrbWrite => Sys2Proof.Machine.execHgrbWrite s
  | .nbndWrite v => Sys2Proof.Machine.execNbndWrite v s
  | .qctlWrite v => Sys2Proof.Machine.execQctlWrite v s
  | .dtrapClear part => Sys2Proof.Machine.execDtrapClear part s
  | .dfltClear part => Sys2Proof.Machine.execDfltClear part s
  | .fqEnable qp => Sys2Proof.Machine.execFqEnable qp s
  | .fqDisable qp => Sys2Proof.Machine.execFqDisable qp s
  | .dbghaltWrite part n v => Sys2Proof.Machine.execDbghaltWrite part n v s
  | .controlRegisterWrite vf place v => Sys2Proof.Machine.execControlRegisterWrite vf place v s
  | .hostMemoryWrite part pa data => Sys2Proof.Machine.execHostMemoryWrite part pa data s
  | .hostMemoryRead part pa len => Sys2Proof.Machine.execHostMemoryRead part pa len s
  | .hostAtomic part op wide pa v cmp => Sys2Proof.Machine.execHostAtomic part op wide pa v cmp s
  | .bootMemoryAccess write off data => Sys2Proof.Machine.execBootMemoryAccess write off data s
  | .pcieReset => Sys2Proof.Machine.execPcieReset s
  | .pfFunctionLevelReset => Sys2Proof.Machine.execPfFunctionLevelReset s
  | .vfFunctionLevelReset part => Sys2Proof.Machine.execVfFunctionLevelReset part s
  | .podAcknowledgementArrival route commit => Sys2Proof.Machine.execPodAcknowledgementArrival route commit s
  | .podDeviceUnreachable dev down => Sys2Proof.Machine.execPodDeviceUnreachable dev down s

end Sys2Proof.Machine
end

