-- ==== Sys2Proof/Machine/Step.lean ====
section
/-!
DEFINITION. One step of the machine: a step that is due, else a trap that waits, else one instruction of the run that is
selected, else what a clock does behind its issues, else the end of the clock (log 1, log 3).
-/
namespace Sys2Proof.Machine

open Sys2Proof

/-- The selected run fetches its instruction and does it (R24, R85); while its bytes are on the way it is tried again in each clock
(R143, R321). -/
def stepRun (s : State) (x : Sel) : Host.Outcome State Fault Refusal :=
  match fetch s x with
  | (none, s1) => .next (tried s1 x.key)
  | (some (.error e), s1) => exec (.illegalInstruction e) s1
  | (some (.ok i), s1) => exec i s1

/-- The end of a clock in which nothing more issues: what comes behind its issues, then the next clock. -/
def stepLate (s : State) : Host.Outcome State Fault Refusal :=
  match takeLate s.clk s.agenda with
  | some (i, rest) => exec i { s with agenda := rest, closed := true }
  | none => .next (tick s)

/-- The instruction boundary of a clock that still issues: a trap that waits, or a run; else its end. -/
def stepBeam (s : State) : Host.Outcome State Fault Refusal :=
  if s.closed then stepLate s
  else
    match trapDue s with
    | some (k, t, rest) => .next (takeWaiting s k t rest)
    | none =>
      match selected s with
      | some x => stepRun s x
      | none => stepLate s

/-- One step. -/
def step (s : State) : Host.Outcome State Fault Refusal :=
  match takeDue (fun i => !late i) s.clk s.agenda with
  | some (i, rest) => exec i { s with agenda := rest }
  | none => stepBeam s

/-- The state in which the very next step runs the instruction whose bits are w, numbered as spec/opcode_table.json numbers
them, the bits above nbits 0. -/
def State.withFetchWord (s : State) (nbits w : Nat) : State := placeCode s (bytesLE 4 (w % 2 ^ nbits))

end Sys2Proof.Machine
end

