-- ==== Sys2Proof/Safety.lean ====
section
/-!
DEFINITION. What claims are stated in: the invariant of every state the machine can be in, a run whose turn it is to issue, operands
that are ready, and the states in which an issue leaves the machine.
-/
namespace Sys2Proof.Machine

open Sys2Proof

/-! ## The invariant -/

/-- Memory is in its canonical form and no beam is listed twice. -/
abbrev Inv (s : State) : Prop := memWf s.mem = true ∧ rising s.beams = true

/-! ## A run about to issue -/

/-- It is the turn of the run x (R85), and x shows the beam as it stands. -/
abbrev Turn (s : State) (x : Sel) : Prop := selected s = some x ∧ beamOf s x.key = some x.beam

/-- No source is empty in an executing lane, and no destination has an unfinished producer there (R30, R31, R89). -/
def ready (x : Sel) (ex : List Nat) (srcs dsts : List Use) : Bool :=
  srcs.all (fun u => (emptyLanes x.beam ex u).isEmpty) && dsts.all fun u => !pendingWrite x.beam ex u

/-! ## After an issue -/

/-- What every issue changes: the beam's and its pool's turn in this clock (R85), what walks have told the beam, and the block's count
of instructions (R301). -/
def issuedBy (s : State) (x : Sel) (b : Beam) : State :=
  { s with
    beams := put s.beams x.key { b with lastIssue := s.clk + 1, tried := s.clk + 1, told := [] }
    issued := poolOf x.key :: s.issued
    blocks := alter s.blocks x.beam.block fun c => { c with retired := Nat.min (c.retired + 1) (2 ^ 32 - 1) } }

/-- An instruction of one lane each: its length, the executing lanes, its sources and destinations, and what it does to an
executing lane. -/
structure LaneOp where
  len : Nat
  lanes : List Nat
  srcs : List Use
  dsts : List Use
  act : Nat → Lane → Lane

/-- Its operands are ready. -/
def LaneOp.ready (o : LaneOp) (x : Sel) : Bool := Machine.ready x o.lanes o.srcs o.dsts

/-- A lane of the run after the instruction: changed where it executes, and at the next instruction (R88). -/
def LaneOp.lane (o : LaneOp) (i : Nat) (l : Lane) : Lane :=
  let m := if o.lanes.contains i then o.act i l else l
  { m with pc := m.pc + BitVec.ofNat 32 o.len }

/-- The state after it. -/
def LaneOp.done (o : LaneOp) (s : State) (x : Sel) : State := issuedBy s x (beamLanes x.beam x.run o.lane)

/-- The beam waits: it has been tried in this clock and nothing else has changed (R85, R89). -/
def waited (s : State) (x : Sel) : State := tried s x.key

/-- The run takes a precise trap (R284), unless another of the beam goes before it, or its entry awaits a walk or cannot travel (R143, R294,
R321): the beam has been tried in this clock. -/
def trapped (s : State) (x : Sel) (t : Trap) : State := tried (preciseTrap s x.key t) x.key

/-! ## Forms of operands -/

/-- One source register and one destination. -/
def op1 (x : Sel) (g : Guard) (a : Src) (d : Nat) (f : Word → Word) : LaneOp :=
  ⟨4, execLanes x g, [srcUse a 1], [regUse d 1], fun _ l => laneSet l d (f (laneReg l a.r))⟩

/-- A pair in, a pair out. -/
def op1Pair (x : Sel) (g : Guard) (a : Src) (d : Nat) (f : DWord → DWord) : LaneOp :=
  ⟨4, execLanes x g, [srcUse a 2], [regUse d 2], fun _ l => laneSetPair l d (f (lanePair l a.r))⟩

/-- A pair in, a register out. -/
def op1Narrow (x : Sel) (g : Guard) (a : Src) (d : Nat) (f : DWord → Word) : LaneOp :=
  ⟨4, execLanes x g, [srcUse a 2], [regUse d 1], fun _ l => laneSet l d (f (lanePair l a.r))⟩

/-- Two source registers. -/
def op2 (len : Nat) (x : Sel) (g : Guard) (b a : Src) (d : Nat) (f : Word → Word → Word) : LaneOp :=
  ⟨len, execLanes x g, [srcUse a 1, srcUse b 1], [regUse d 1], fun _ l => laneSet l d (f (laneReg l a.r) (laneReg l b.r))⟩

/-- Two pairs. -/
def op2Pair (x : Sel) (g : Guard) (b a : Src) (d : Nat) (f : DWord → DWord → DWord) : LaneOp :=
  ⟨4, execLanes x g, [srcUse a 2, srcUse b 2], [regUse d 2], fun _ l => laneSetPair l d (f (lanePair l a.r) (lanePair l b.r))⟩

/-- A pair and a register into a pair. -/
def op2Mixed (x : Sel) (b a : Src) (d : Nat) (f : DWord → Word → DWord) : LaneOp :=
  ⟨4, execLanes x .always, [srcUse a 2, srcUse b 1], [regUse d 2], fun _ l =>
    laneSetPair l d (f (lanePair l a.r) (laneReg l b.r))⟩

/-- Two sources and the destination as the third (R30). -/
def op3 (x : Sel) (g : Guard) (b a : Src) (d : Nat) (f : Word → Word → Word → Word) : LaneOp :=
  ⟨4, execLanes x g, [srcUse a 1, srcUse b 1, regUse d 1], [regUse d 1], fun _ l =>
    laneSet l d (f (laneReg l a.r) (laneReg l b.r) (laneReg l d))⟩

/-- A predicate from two registers. -/
def opCmp (x : Sel) (b a : Src) (pd : Nat) (f : Word → Word → Bool) : LaneOp :=
  ⟨4, execLanes x .always, [srcUse a 1, srcUse b 1], [], fun _ l => laneSetPred l pd (f (laneReg l a.r) (laneReg l b.r))⟩

/-- A predicate from two pairs. -/
def opCmpPair (x : Sel) (b a : Src) (pd : Nat) (f : DWord → DWord → Bool) : LaneOp :=
  ⟨4, execLanes x .always, [srcUse a 2, srcUse b 2], [], fun _ l =>
    laneSetPred l pd (f (lanePair l a.r) (lanePair l b.r))⟩

end Sys2Proof.Machine
end

