-- ==== Sys2Proof/Safety/Access.lean ====
section
/-!
DEFINITION. The forms of the memory instructions, one line each as R156, R160 and R163-R166 give them, and the global accesses that
pass every check of R157. Claims about memory instructions are stated with these tables.
-/
namespace Sys2Proof.Machine

open Sys2Proof

/-- A form of an access: the executing lanes, the bytes, the offset in bytes, its Q, the address register and the data or
destination register. -/
structure MemForm where
  lanes : List Nat
  n : Nat
  off : Int
  q : QF
  a : Src
  d : Nat

/-- The loads of global memory (R160, R162, R163); the last index says whether it is LDC. -/
inductive LoadForm (x : Sel) : Instr → MemForm → Bool → Prop where
  | ld32 (g i7 a d) : LoadForm x (.ld32 g i7 a d) ⟨execLanes x g, 4, sext 7 i7 * 4, .plain, a, d⟩ false
  | ld64 (g i7 a d) : LoadForm x (.ld64 g i7 a d) ⟨execLanes x g, 8, sext 7 i7 * 8, .plain, a, d⟩ false
  | ld128 (g i7 a d) : LoadForm x (.ld128 g i7 a d) ⟨execLanes x g, 16, sext 7 i7 * 16, .plain, a, d⟩ false
  | ld8 (a d) : LoadForm x (.ldNarrow false a d) ⟨execLanes x .always, 1, 0, .plain, a, d⟩ false
  | ld16 (a d) : LoadForm x (.ldNarrow true a d) ⟨execLanes x .always, 2, 0, .plain, a, d⟩ false
  | ldc32 (a d) : LoadForm x (.ldc false a d) ⟨execLanes x .always, 4, 0, .plain, a, d⟩ true
  | ldc64 (a d) : LoadForm x (.ldc true a d) ⟨execLanes x .always, 8, 0, .plain, a, d⟩ true
  | ldOrdered (z q a d) : LoadForm x (.ldOrdered z q a d) ⟨execLanes x .always, sizeBytes z, 0, q, a, d⟩ false

/-- The stores to global memory (R160, R162). -/
inductive StoreForm (x : Sel) : Instr → MemForm → Prop where
  | st32 (g i7 a d) : StoreForm x (.st32 g i7 a d) ⟨execLanes x g, 4, sext 7 i7 * 4, .plain, a, d⟩
  | st64 (g i7 a d) : StoreForm x (.st64 g i7 a d) ⟨execLanes x g, 8, sext 7 i7 * 8, .plain, a, d⟩
  | st128 (g i7 a d) : StoreForm x (.st128 g i7 a d) ⟨execLanes x g, 16, sext 7 i7 * 16, .plain, a, d⟩
  | st8 (a d) : StoreForm x (.stNarrow false a d) ⟨execLanes x .always, 1, 0, .plain, a, d⟩
  | st16 (a d) : StoreForm x (.stNarrow true a d) ⟨execLanes x .always, 2, 0, .plain, a, d⟩
  | stOrdered (z q a d) : StoreForm x (.stOrdered z q a d) ⟨execLanes x .always, sizeBytes z, 0, q, a, d⟩

/-- The loads of local memory (R160). -/
inductive LocalLoadForm (x : Sel) : Instr → MemForm → Prop where
  | ldl32 (g i7 a d) : LocalLoadForm x (.ldl32 g i7 a d) ⟨execLanes x g, 4, sext 7 i7 * 4, .plain, a, d⟩
  | ldlSized (z a d) : LocalLoadForm x (.ldlSized z a d) ⟨execLanes x .always, sizeBytes z, 0, .plain, a, d⟩

/-- The stores to local memory (R160). -/
inductive LocalStoreForm (x : Sel) : Instr → MemForm → Prop where
  | stl32 (g i7 a d) : LocalStoreForm x (.stl32 g i7 a d) ⟨execLanes x g, 4, sext 7 i7 * 4, .plain, a, d⟩
  | stlSized (z a d) : LocalStoreForm x (.stlSized z a d) ⟨execLanes x .always, sizeBytes z, 0, .plain, a, d⟩

/-- ATOM and ACAS: the operation, `none` for ACAS, the registers read and those written (R164, R166). -/
inductive AtomForm (x : Sel) : Instr → MemForm → Option AtomOp → Nat → Prop where
  | atom32 (o q a d) : AtomForm x (.atom32 o q a d) ⟨x.run, 4, 0, q, a, d⟩ (some o) 1
  | atom64 (o q a d) : AtomForm x (.atom64 o q a d) ⟨x.run, 8, 0, q, a, d⟩ (some o) 2
  | acas32 (q a d) : AtomForm x (.acas32 q a d) ⟨x.run, 4, 0, q, a, d⟩ none 2
  | acas64 (q a d) : AtomForm x (.acas64 q a d) ⟨x.run, 8, 0, q, a, d⟩ none 4

/-- RED (R164). -/
inductive RedForm (x : Sel) : Instr → MemForm → AtomOp → Prop where
  | red32 (o q a d) : RedForm x (.red32 o q a d) ⟨x.run, 4, 0, q, a, d⟩ o
  | red64 (o q a d) : RedForm x (.red64 o q a d) ⟨x.run, 8, 0, q, a, d⟩ o

/-- A lane's global address: the pair, plus the offset, modulo 2^64 (R156). -/
def MemForm.ea (f : MemForm) (x : Sel) (j : Nat) : DWord := lanePair (laneOf x.beam j) f.a.r + dwordOf f.off

/-- A lane's local address: the register, plus the offset, modulo 2^32 (R156). -/
def MemForm.la (f : MemForm) (x : Sel) (j : Nat) : Word := laneReg (laneOf x.beam j) f.a.r + wordOf f.off

/-- What a lane captures: the low registers of its data operand. -/
def MemForm.data (f : MemForm) (m : Nat) (x : Sel) (j : Nat) : QWord :=
  match m with
  | 0 => 0
  | m => dataOf f.d m (laneOf x.beam j)

/-- The translations of an access whose every executing lane is aligned and translates through the TLB (R143, R157). -/
def MemForm.hits (f : MemForm) (s : State) (x : Sel) (sup write : Bool) (m : Nat) : Option (List GLane) :=
  let r := f.lanes.map fun j => laneXlate s x.key x.beam sup write ⟨j, f.ea x j, f.data m x j⟩
  if f.lanes.all (fun j => (f.ea x j).toNat % f.n == 0) && (okLanes r).length == f.lanes.length then some (okLanes r) else none

/-- No lane meets a range lock (R158). -/
def noLock (s : State) (x : Sel) (n : Nat) (write : Bool) (ls : List GLane) : Bool :=
  ls.all fun g => (lockHit s (selCore x) false g.ea.toNat n write).isNone

end Sys2Proof.Machine
end

