-- ==== Sys2Proof/Safety/LaneOps.lean ====
section
/-!
DEFINITION. What the lane instructions do, one line each, as the rules give it: the executing lanes, the sources and destinations, and
what becomes of an executing lane. Claims about lane instructions are stated with these tables.
-/
namespace Sys2Proof.Machine

open Sys2Proof

/-- MOV, MOVI, MOVHI and SEL (R109, R117). -/
inductive MoveOp (x : Sel) : Instr → LaneOp → Prop where
  /-- MOV.b32 -/
  | movB32 (g : Guard) (a : Src) (d : Nat) : MoveOp x (.movB32 g a d)
      (op1 x g a d fun a => a)
  /-- MOV.b64 -/
  | movB64 (a : Src) (d : Nat) : MoveOp x (.movB64 a d)
      (op1Pair x .always a d fun a => a)
  /-- MOVI: imm18 sign-extended -/
  | movi (d i18 : Nat) : MoveOp x (.movi d i18)
      (⟨4, execLanes x .always, [], [regUse d 1], fun _ l => laneSet l d (wordOf (sext 18 i18))⟩)
  /-- MOVHI: imm18 above the low 14 bits of d -/
  | movhi (d i18 : Nat) : MoveOp x (.movhi d i18)
      (⟨4, execLanes x .always, [regUse d 1], [regUse d 1], fun _ l =>
        laneSet l d (BitVec.ofNat 32 (i18 * 2 ^ 14 + (laneReg l d).toNat % 2 ^ 14))⟩)
  /-- SEL: a where the predicate is 1, else b -/
  | sel (p : Nat) (b a : Src) (d : Nat) : MoveOp x (.sel p b a d)
      (⟨4, execLanes x .always, [srcUse a 1, srcUse b 1], [regUse d 1], fun _ l =>
        laneSet l d (if lanePred l p then laneReg l a.r else laneReg l b.r)⟩)

/-- Integer arithmetic (R110, R118, R119). -/
inductive ArithOp (x : Sel) : Instr → LaneOp → Prop where
  /-- IADD -/
  | iadd (g : Guard) (b a : Src) (d : Nat) : ArithOp x (.iadd g b a d)
      (op2 4 x g b a d fun a b => a + b)
  /-- ISUB -/
  | isub (g : Guard) (b a : Src) (d : Nat) : ArithOp x (.isub g b a d)
      (op2 4 x g b a d fun a b => a - b)
  /-- IMUL: bits 31:0 of the product -/
  | imul (g : Guard) (b a : Src) (d : Nat) : ArithOp x (.imul g b a d)
      (op2 4 x g b a d fun a b => a * b)
  /-- IADDI: imm7 sign-extended -/
  | iaddi (g : Guard) (i7 : Nat) (a : Src) (d : Nat) : ArithOp x (.iaddi g i7 a d)
      (op1 x g a d fun a => a + wordOf (sext 7 i7))
  /-- IMAD: a * b + d -/
  | imad (g : Guard) (b a : Src) (d : Nat) : ArithOp x (.imad g b a d)
      (op3 x g b a d fun a b d => a * b + d)
  /-- IMULH: bits 63:32 of the exact product -/
  | imulh (u : Bool) (b a : Src) (d : Nat) : ArithOp x (.imulh u b a d)
      (op2 4 x .always b a d fun a b =>
        if u then ((a.setWidth 64 * b.setWidth 64) >>> 32).setWidth 32 else ((a.signExtend 64 * b.signExtend 64) >>> 32).setWidth 32)
  /-- IADD.i64 -/
  | iaddI64 (g : Guard) (b a : Src) (d : Nat) : ArithOp x (.iaddI64 g b a d)
      (op2Pair x g b a d fun a b => a + b)
  /-- ISUB.i64 -/
  | isubI64 (b a : Src) (d : Nat) : ArithOp x (.isubI64 b a d)
      (op2Pair x .always b a d fun a b => a - b)
  /-- IMUL.i64 -/
  | imulI64 (b a : Src) (d : Nat) : ArithOp x (.imulI64 b a d)
      (op2Pair x .always b a d fun a b => a * b)
  /-- LEA: a + (b << sh), b sign-extended -/
  | lea (sh : Nat) (b a : Src) (d : Nat) : ArithOp x (.lea sh b a d)
      (op2Mixed x b a d fun a b => a + (b.signExtend 64 <<< sh))
  /-- IMIN.i32 -/
  | iminI32 (g : Guard) (b a : Src) (d : Nat) : ArithOp x (.iminI32 g b a d)
      (op2 4 x g b a d fun a b => if a.sle b then a else b)
  /-- IMAX.i32 -/
  | imaxI32 (g : Guard) (b a : Src) (d : Nat) : ArithOp x (.imaxI32 g b a d)
      (op2 4 x g b a d fun a b => if a.sle b then b else a)
  /-- IMIN.z32 -/
  | iminZ32 (g : Guard) (b a : Src) (d : Nat) : ArithOp x (.iminZ32 g b a d)
      (op2 4 x g b a d fun a b => if a.ule b then a else b)
  /-- IMAX.z32 -/
  | imaxZ32 (g : Guard) (b a : Src) (d : Nat) : ArithOp x (.imaxZ32 g b a d)
      (op2 4 x g b a d fun a b => if a.ule b then b else a)
  /-- IMIN.i64 -/
  | iminI64 (b a : Src) (d : Nat) : ArithOp x (.iminI64 b a d)
      (op2Pair x .always b a d fun a b => if a.sle b then a else b)
  /-- IMAX.i64 -/
  | imaxI64 (b a : Src) (d : Nat) : ArithOp x (.imaxI64 b a d)
      (op2Pair x .always b a d fun a b => if a.sle b then b else a)
  /-- IMIN.z64 -/
  | iminZ64 (b a : Src) (d : Nat) : ArithOp x (.iminZ64 b a d)
      (op2Pair x .always b a d fun a b => if a.ule b then a else b)
  /-- IMAX.z64 -/
  | imaxZ64 (b a : Src) (d : Nat) : ArithOp x (.imaxZ64 b a d)
      (op2Pair x .always b a d fun a b => if a.ule b then b else a)

/-- Logic, shifts, counts and bit fields (R112-R115). -/
inductive LogicOp (x : Sel) : Instr → LaneOp → Prop where
  /-- AND -/
  | and (g : Guard) (b a : Src) (d : Nat) : LogicOp x (.and g b a d)
      (op2 4 x g b a d fun a b => a &&& b)
  /-- OR -/
  | or (g : Guard) (b a : Src) (d : Nat) : LogicOp x (.or g b a d)
      (op2 4 x g b a d fun a b => a ||| b)
  /-- XOR -/
  | xor (g : Guard) (b a : Src) (d : Nat) : LogicOp x (.xor g b a d)
      (op2 4 x g b a d fun a b => a ^^^ b)
  /-- ANDN -/
  | andn (g : Guard) (b a : Src) (d : Nat) : LogicOp x (.andn g b a d)
      (op2 4 x g b a d fun a b => a &&& ~~~ b)
  /-- SHL by b[7:0] -/
  | shl (g : Guard) (b a : Src) (d : Nat) : LogicOp x (.shl g b a d)
      (op2 4 x g b a d fun a b => a <<< (b.toNat % 256))
  /-- SHR -/
  | shr (g : Guard) (b a : Src) (d : Nat) : LogicOp x (.shr g b a d)
      (op2 4 x g b a d fun a b => a >>> (b.toNat % 256))
  /-- SRA -/
  | sra (g : Guard) (b a : Src) (d : Nat) : LogicOp x (.sra g b a d)
      (op2 4 x g b a d fun a b => a.sshiftRight (b.toNat % 256))
  /-- ROTL: the count modulo 32 -/
  | rotl (g : Guard) (b a : Src) (d : Nat) : LogicOp x (.rotl g b a d)
      (op2 4 x g b a d fun a b => a.rotateLeft (b.toNat % 32))
  /-- INEG.i32 -/
  | inegI32 (g : Guard) (a : Src) (d : Nat) : LogicOp x (.inegI32 g a d)
      (op1 x g a d fun a => -a)
  /-- IABS.i32: |a| modulo 2^32 -/
  | iabsI32 (g : Guard) (a : Src) (d : Nat) : LogicOp x (.iabsI32 g a d)
      (op1 x g a d fun a => if a.slt 0 then -a else a)
  /-- NOT.b32 -/
  | notB32 (g : Guard) (a : Src) (d : Nat) : LogicOp x (.notB32 g a d)
      (op1 x g a d fun a => ~~~ a)
  /-- CLZ.b32 -/
  | clzB32 (g : Guard) (a : Src) (d : Nat) : LogicOp x (.clzB32 g a d)
      (op1 x g a d fun a => BitVec.ofNat 32 (leadingZeros 32 a.toNat))
  /-- POPC.b32 -/
  | popcB32 (g : Guard) (a : Src) (d : Nat) : LogicOp x (.popcB32 g a d)
      (op1 x g a d fun a => BitVec.ofNat 32 (popCount 32 a.toNat))
  /-- BREV: bit i becomes bit 31 - i -/
  | brev (g : Guard) (a : Src) (d : Nat) : LogicOp x (.brev g a d)
      (op1 x g a d fun a => bitReverse a)
  /-- INEG.i64 -/
  | inegI64 (g : Guard) (a : Src) (d : Nat) : LogicOp x (.inegI64 g a d)
      (op1Pair x g a d fun a => -a)
  /-- IABS.i64 -/
  | iabsI64 (g : Guard) (a : Src) (d : Nat) : LogicOp x (.iabsI64 g a d)
      (op1Pair x g a d fun a => if a.slt 0 then -a else a)
  /-- CLZ.b64 -/
  | clzB64 (g : Guard) (a : Src) (d : Nat) : LogicOp x (.clzB64 g a d)
      (op1Narrow x g a d fun a => BitVec.ofNat 32 (leadingZeros 64 a.toNat))
  /-- POPC.b64 -/
  | popcB64 (g : Guard) (a : Src) (d : Nat) : LogicOp x (.popcB64 g a d)
      (op1Narrow x g a d fun a => BitVec.ofNat 32 (popCount 64 a.toNat))
  /-- BFX -/
  | bfx (u : Bool) (b a : Src) (d : Nat) : LogicOp x (.bfx u b a d)
      (op2 4 x .always b a d fun a b => bitExtract u a b)
  /-- BFI -/
  | bfi (b a : Src) (d : Nat) : LogicOp x (.bfi b a d)
      (op3 x .always b a d fun a b d => bitInsert a b d)
  /-- AND.b64 -/
  | andB64 (b a : Src) (d : Nat) : LogicOp x (.andB64 b a d)
      (op2Pair x .always b a d fun a b => a &&& b)
  /-- OR.b64 -/
  | orB64 (b a : Src) (d : Nat) : LogicOp x (.orB64 b a d)
      (op2Pair x .always b a d fun a b => a ||| b)
  /-- XOR.b64 -/
  | xorB64 (b a : Src) (d : Nat) : LogicOp x (.xorB64 b a d)
      (op2Pair x .always b a d fun a b => a ^^^ b)
  /-- SHL.b64 -/
  | shlB64 (b a : Src) (d : Nat) : LogicOp x (.shlB64 b a d)
      (op2Mixed x b a d fun a b => a <<< (b.toNat % 256))
  /-- SHR.b64 -/
  | shrB64 (b a : Src) (d : Nat) : LogicOp x (.shrB64 b a d)
      (op2Mixed x b a d fun a b => a >>> (b.toNat % 256))
  /-- SRA.b64 -/
  | sraB64 (b a : Src) (d : Nat) : LogicOp x (.sraB64 b a d)
      (op2Mixed x b a d fun a b => a.sshiftRight (b.toNat % 256))

/-- Integer comparisons into a predicate (R116). -/
inductive CompareOp (x : Sel) : Instr → LaneOp → Prop where
  /-- ICMP of registers -/
  | icmp32 (u : Bool) (c : ICond) (b a : Src) (pd : Nat) : CompareOp x (.icmp32 u c b a pd)
      (opCmp x b a pd fun a b => if u then intCond c a.toNat b.toNat else intCond c a.toInt b.toInt)
  /-- ICMP of pairs -/
  | icmp64 (u : Bool) (c : ICond) (b a : Src) (pd : Nat) : CompareOp x (.icmp64 u c b a pd)
      (opCmpPair x b a pd fun a b => if u then intCond c a.toNat b.toNat else intCond c a.toInt b.toInt)

/-- FP32 operations to nearest even, and the packed BF16 ones (R120-R125). -/
inductive FloatOp (x : Sel) : Instr → LaneOp → Prop where
  /-- FADD -/
  | fadd (g : Guard) (b a : Src) (d : Nat) : FloatOp x (.fadd g b a d)
      (⟨4, execLanes x g, [srcUse a 1, srcUse b 1], [regUse d 1], fun _ l =>
        laneFloat l d (fAdd fp32 .rne 0 (laneVal l a.r) (laneVal l b.r))⟩)
  /-- FSUB: a + (-b) -/
  | fsub (g : Guard) (b a : Src) (d : Nat) : FloatOp x (.fsub g b a d)
      (⟨4, execLanes x g, [srcUse a 1, srcUse b 1], [regUse d 1], fun _ l =>
        laneFloat l d (fAdd fp32 .rne 0 (laneVal l a.r) (fNegVal (laneVal l b.r)))⟩)
  /-- FMUL -/
  | fmul (g : Guard) (b a : Src) (d : Nat) : FloatOp x (.fmul g b a d)
      (⟨4, execLanes x g, [srcUse a 1, srcUse b 1], [regUse d 1], fun _ l =>
        laneFloat l d (fMul fp32 .rne 0 (laneVal l a.r) (laneVal l b.r))⟩)
  /-- FFMA -/
  | ffma (g : Guard) (b a : Src) (d : Nat) : FloatOp x (.ffma g b a d)
      (⟨4, execLanes x g, [srcUse a 1, srcUse b 1, regUse d 1], [regUse d 1], fun _ l =>
        laneFloat l d (fFma fp32 .rne 0 (laneVal l a.r) (laneVal l b.r) (laneVal l d))⟩)
  /-- FMIN -/
  | fmin (g : Guard) (b a : Src) (d : Nat) : FloatOp x (.fmin g b a d)
      (⟨4, execLanes x g, [srcUse a 1, srcUse b 1], [regUse d 1], fun _ l =>
        laneFloat l d (fMinMax false (laneReg l a.r).toNat (laneReg l b.r).toNat)⟩)
  /-- FMAX -/
  | fmax (g : Guard) (b a : Src) (d : Nat) : FloatOp x (.fmax g b a d)
      (⟨4, execLanes x g, [srcUse a 1, srcUse b 1], [regUse d 1], fun _ l =>
        laneFloat l d (fMinMax true (laneReg l a.r).toNat (laneReg l b.r).toNat)⟩)
  /-- FABS -/
  | fabs (g : Guard) (a : Src) (d : Nat) : FloatOp x (.fabs g a d)
      (⟨4, execLanes x g, [srcUse a 1], [regUse d 1], fun _ l => laneFloat l d (signOp ((laneReg l a.r).toNat % 2 ^ 31) (laneReg l a.r).toNat)⟩)
  /-- FNEG -/
  | fneg (g : Guard) (a : Src) (d : Nat) : FloatOp x (.fneg g a d)
      (⟨4, execLanes x g, [srcUse a 1], [regUse d 1], fun _ l => laneFloat l d (signOp (((laneReg l a.r).toNat + 2 ^ 31) % 2 ^ 32) (laneReg l a.r).toNat)⟩)
  /-- FRCP -/
  | frcp (g : Guard) (a : Src) (d : Nat) : FloatOp x (.frcp g a d)
      (⟨4, execLanes x g, [srcUse a 1], [regUse d 1], fun _ l => laneFloat l d (fRcp (laneVal l a.r))⟩)
  /-- FRSQ -/
  | frsq (g : Guard) (a : Src) (d : Nat) : FloatOp x (.frsq g a d)
      (⟨4, execLanes x g, [srcUse a 1], [regUse d 1], fun _ l => laneFloat l d (fRsq (laneVal l a.r))⟩)
  /-- FSQRT -/
  | fsqrt (g : Guard) (a : Src) (d : Nat) : FloatOp x (.fsqrt g a d)
      (⟨4, execLanes x g, [srcUse a 1], [regUse d 1], fun _ l => laneFloat l d (fSqrt (laneVal l a.r))⟩)
  /-- FEXP2 -/
  | fexp2 (g : Guard) (a : Src) (d : Nat) : FloatOp x (.fexp2 g a d)
      (⟨4, execLanes x g, [srcUse a 1], [regUse d 1], fun _ l => laneFloat l d (fExp2 (laneVal l a.r))⟩)
  /-- FLOG2 -/
  | flog2 (g : Guard) (a : Src) (d : Nat) : FloatOp x (.flog2 g a d)
      (⟨4, execLanes x g, [srcUse a 1], [regUse d 1], fun _ l => laneFloat l d (fLog2 (laneVal l a.r))⟩)
  /-- FRND -/
  | frnd (g : Guard) (rm : RMode) (a : Src) (d : Nat) : FloatOp x (.frnd g rm a d)
      (⟨4, execLanes x g, [srcUse a 1], [regUse d 1], fun _ l => laneFloat l d (fRnd rm (laneReg l a.r).toNat)⟩)
  /-- FCMP, whose flags come with the predicate -/
  | fcmp (c : FCond) (b a : Src) (pd : Nat) : FloatOp x (.fcmp c b a pd)
      (⟨4, execLanes x .always, [srcUse a 1, srcUse b 1], [], fun _ l =>
        laneFlags (laneSetPred l pd (fCompare c (laneReg l a.r).toNat (laneReg l b.r).toNat).1) (fCompare c (laneReg l a.r).toNat (laneReg l b.r).toNat).2⟩)
  /-- BADD2 -/
  | badd2 (g : Guard) (b a : Src) (d : Nat) : FloatOp x (.badd2 g b a d)
      (⟨4, execLanes x g, [srcUse a 1, srcUse b 1], [regUse d 1], fun _ l =>
        laneFloat l d (bf2 fun i => fAdd bf16 .rne 0 (half i (laneReg l a.r).toNat) (half i (laneReg l b.r).toNat))⟩)
  /-- BMUL2 -/
  | bmul2 (g : Guard) (b a : Src) (d : Nat) : FloatOp x (.bmul2 g b a d)
      (⟨4, execLanes x g, [srcUse a 1, srcUse b 1], [regUse d 1], fun _ l =>
        laneFloat l d (bf2 fun i => fMul bf16 .rne 0 (half i (laneReg l a.r).toNat) (half i (laneReg l b.r).toNat))⟩)
  /-- BFMA2 -/
  | bfma2 (g : Guard) (b a : Src) (d : Nat) : FloatOp x (.bfma2 g b a d)
      (⟨4, execLanes x g, [srcUse a 1, srcUse b 1, regUse d 1], [regUse d 1], fun _ l =>
        laneFloat l d (bf2 fun i => fFma bf16 .rne 0 (half i (laneReg l a.r).toNat) (half i (laneReg l b.r).toNat) (half i (laneReg l d).toNat))⟩)

/-- Operations under a directed mode and conversions; a stochastic form reads SRCTR before it advances it (R50, R120, R126). -/
inductive DirectedOp (s : State) (x : Sel) : Instr → LaneOp → Prop where
  /-- FADD under a mode -/
  | faddDirected (rm : RMode) (b a : Src) (d : Nat) : DirectedOp s x (.faddDirected rm b a d)
      (⟨4, execLanes x .always, [srcUse a 1, srcUse b 1], [regUse d 1], fun i l =>
        let r := laneFloat l d (fAdd fp32 rm (if rm = .sr then srWord s x.beam i l else 0) (laneVal l a.r) (laneVal l b.r))
        if rm = .sr then { r with srctr := r.srctr + 1 } else r⟩)
  /-- FSUB under a mode -/
  | fsubDirected (rm : RMode) (b a : Src) (d : Nat) : DirectedOp s x (.fsubDirected rm b a d)
      (⟨4, execLanes x .always, [srcUse a 1, srcUse b 1], [regUse d 1], fun i l =>
        let r := laneFloat l d (fAdd fp32 rm (if rm = .sr then srWord s x.beam i l else 0) (laneVal l a.r) (fNegVal (laneVal l b.r)))
        if rm = .sr then { r with srctr := r.srctr + 1 } else r⟩)
  /-- FMUL under a mode -/
  | fmulDirected (rm : RMode) (b a : Src) (d : Nat) : DirectedOp s x (.fmulDirected rm b a d)
      (⟨4, execLanes x .always, [srcUse a 1, srcUse b 1], [regUse d 1], fun i l =>
        let r := laneFloat l d (fMul fp32 rm (if rm = .sr then srWord s x.beam i l else 0) (laneVal l a.r) (laneVal l b.r))
        if rm = .sr then { r with srctr := r.srctr + 1 } else r⟩)
  /-- FFMA under a mode -/
  | ffmaDirected (rm : RMode) (b a : Src) (d : Nat) : DirectedOp s x (.ffmaDirected rm b a d)
      (⟨4, execLanes x .always, [srcUse a 1, srcUse b 1, regUse d 1], [regUse d 1], fun i l =>
        let r := laneFloat l d (fFma fp32 rm (if rm = .sr then srWord s x.beam i l else 0) (laneVal l a.r) (laneVal l b.r) (laneVal l d))
        if rm = .sr then { r with srctr := r.srctr + 1 } else r⟩)
  /-- CVT -/
  | cvt (g : Guard) (k : CvtKind) (a : Src) (d : Nat) : DirectedOp s x (.cvt g k a d)
      (⟨4, execLanes x g, [srcUse a 1], [regUse d 1], fun i l =>
        let r := laneFloat l d (convert k (srWord s x.beam i l) (laneReg l a.r).toNat)
        if stochastic k then { r with srctr := r.srctr + 1 } else r⟩)

/-- Predicates and votes (R127-R129). -/
inductive PredOp (x : Sel) : Instr → LaneOp → Prop where
  /-- PLOP: bit 2 p(a) + p(b) of the table -/
  | plop (t bp ap pd : Nat) : PredOp x (.plop t bp ap pd)
      (⟨4, execLanes x .always, [], [], fun _ l =>
        laneSetPred l pd (bit t (2 * (lanePred l ap).toNat + (lanePred l bp).toNat))⟩)
  /-- P2G: bit 0 reads 1 -/
  | p2g (g : Guard) (d : Nat) : PredOp x (.p2g g d)
      (⟨4, execLanes x g, [], [regUse d 1], fun _ l => laneSet l d (l.preds ||| 1)⟩)
  /-- G2P: bit 0 stays 1 -/
  | g2p (g : Guard) (a : Src) : PredOp x (.g2p g a)
      (⟨4, execLanes x g, [srcUse a 1], [], fun _ l => { l with preds := laneReg l a.r ||| 1 }⟩)
  /-- VOTE.any over the run -/
  | voteAny (ap pd : Nat) : PredOp x (.voteAny ap pd)
      (⟨4, x.run, [], [], fun _ l => laneSetPred l pd (x.run.any fun j => lanePred (laneOf x.beam j) ap)⟩)
  /-- VOTE.all over the run -/
  | voteAll (ap pd : Nat) : PredOp x (.voteAll ap pd)
      (⟨4, x.run, [], [], fun _ l => laneSetPred l pd (x.run.all fun j => lanePred (laneOf x.beam j) ap)⟩)
  /-- VOTE.ballot: the lanes of the run whose predicate is 1 -/
  | voteBallot (ap d : Nat) : PredOp x (.voteBallot ap d)
      (⟨4, x.run, [], [regUse d 1], fun _ l => laneSet l d (BitVec.ofNat 32 (maskOf (x.run.filter fun j => lanePred (laneOf x.beam j) ap)))⟩)
  /-- VOTE.first: the lowest lane of the run -/
  | voteFirst (pd : Nat) : PredOp x (.voteFirst pd)
      (⟨4, x.run, [], [], fun i l => laneSetPred l pd (i == leastD 0 x.run)⟩)

/-- Instructions whose lanes read each other (R130-R133). -/
inductive CrossOp (x : Sel) : Instr → LaneOp → Prop where
  /-- SHFL: the operand of the lane named, where that lane is in the run; else its own -/
  | shfl (m : ShflMode) (b a : Src) (d : Nat) : CrossOp x (.shfl m b a d)
      (⟨4, x.run, [srcUse a 1, srcUse b 1], [regUse d 1], fun i l =>
        laneSet l d (match shflFrom m i (laneReg l b.r).toNat with
          | some j => if x.run.contains j then laneReg (laneOf x.beam j) a.r else laneReg l a.r
          | none => laneReg l a.r)⟩)
  /-- PERM -/
  | perm (g : Guard) (b a : Src) (d : Nat) : CrossOp x (.perm g b a d)
      (op2 4 x g b a d fun a b => permute a b)
  /-- REDUX: the same value and flags in every lane -/
  | redux (o : RedOp) (a : Src) (d : Nat) : CrossOp x (.redux o a d)
      (⟨4, x.run, [srcUse a 1], [regUse d 1], fun _ l =>
        laneFlags (laneSet l d (reduxValue x o a).1) (reduxValue x o a).2⟩)
  /-- SCAN: the running value of the lanes up to each -/
  | scan (o : RedOp) (a : Src) (d : Nat) : CrossOp x (.scan o a d)
      (⟨4, x.run, [srcUse a 1], [regUse d 1], fun i l =>
        laneFlags (laneSet l d (lookD (scanFrom x o a x.run (redIdent o)).1 i 0)) (scanFrom x o a x.run (redIdent o)).2⟩)

/-- RAND, RDSP and WIDF (R105, R106, R136). -/
inductive NamedOp (s : State) (x : Sel) : Instr → LaneOp → Prop where
  /-- RAND: k1 = WID, k2 = RANDCTR, which advances -/
  | rand (g : Guard) (d : Nat) : NamedOp s x (.rand g d)
      (⟨4, execLanes x g, [], [regUse d 1], fun i l =>
        { laneSet l d (BitVec.ofNat 32 (randMix (seedOf s x.beam) (widOf s x.beam i).toNat l.randctr.toNat)) with
          randctr := l.randctr + 1 }⟩)
  /-- RDSP of a register of one word or two; FSTAT once no flags are to come -/
  | rdsp (g : Guard) (sp : SpReg) (d : Nat) (_h : sp ≠ .fstat ∨ flagsPending x (execLanes x g) = false) : NamedOp s x (.rdsp g sp d)
      (⟨4, execLanes x g, [], [regUse d (if sp.isPair then 2 else 1)], fun i l =>
        if sp.isPair then laneSetPair l d (specialReg x s sp i l) else laneSet l d ((specialReg x s sp i l).setWidth 32)⟩)
  /-- WIDF -/
  | widf (g : Guard) (n d : Nat) : NamedOp s x (.widf g n d)
      (⟨4, execLanes x g, [], [regUse d 1], fun i l => laneSet l d (widField s x.beam i n)⟩)

/-- The 16-bit forms, 2 bytes long: the T forms on (d, d, a), the first source under the block policy (R26). -/
inductive ShortOp (x : Sel) : Instr → LaneOp → Prop where
  /-- MOV -/
  | movS (d : Nat) (a : Src) : ShortOp x (.movS d a)
      ({ op1 x .always a d (fun a => a) with len := 2 })
  /-- IADD -/
  | iaddS (d : Nat) (a : Src) : ShortOp x (.iaddS d a)
      (op2 2 x .always a ⟨d, false⟩ d fun d a => d + a)
  /-- ISUB -/
  | isubS (d : Nat) (a : Src) : ShortOp x (.isubS d a)
      (op2 2 x .always a ⟨d, false⟩ d fun d a => d - a)
  /-- IMUL -/
  | imulS (d : Nat) (a : Src) : ShortOp x (.imulS d a)
      (op2 2 x .always a ⟨d, false⟩ d fun d a => d * a)
  /-- AND -/
  | andS (d : Nat) (a : Src) : ShortOp x (.andS d a)
      (op2 2 x .always a ⟨d, false⟩ d fun d a => d &&& a)
  /-- OR -/
  | orS (d : Nat) (a : Src) : ShortOp x (.orS d a)
      (op2 2 x .always a ⟨d, false⟩ d fun d a => d ||| a)
  /-- XOR -/
  | xorS (d : Nat) (a : Src) : ShortOp x (.xorS d a)
      (op2 2 x .always a ⟨d, false⟩ d fun d a => d ^^^ a)
  /-- SHL -/
  | shlS (d : Nat) (a : Src) : ShortOp x (.shlS d a)
      (op2 2 x .always a ⟨d, false⟩ d fun d a => d <<< (a.toNat % 256))
  /-- SHR -/
  | shrS (d : Nat) (a : Src) : ShortOp x (.shrS d a)
      (op2 2 x .always a ⟨d, false⟩ d fun d a => d >>> (a.toNat % 256))
  /-- SRA -/
  | sraS (d : Nat) (a : Src) : ShortOp x (.sraS d a)
      (op2 2 x .always a ⟨d, false⟩ d fun d a => d.sshiftRight (a.toNat % 256))
  /-- IMIN.i32 -/
  | iminS (d : Nat) (a : Src) : ShortOp x (.iminS d a)
      (op2 2 x .always a ⟨d, false⟩ d fun d a => if d.sle a then d else a)
  /-- IMAX.i32 -/
  | imaxS (d : Nat) (a : Src) : ShortOp x (.imaxS d a)
      (op2 2 x .always a ⟨d, false⟩ d fun d a => if d.sle a then a else d)
  /-- FADD -/
  | faddS (d : Nat) (a : Src) : ShortOp x (.faddS d a)
      (⟨2, execLanes x .always, [⟨d, 1, false⟩, srcUse a 1], [regUse d 1], fun _ l => laneFloat l d (fAdd fp32 .rne 0 (laneVal l d) (laneVal l a.r))⟩)
  /-- FSUB -/
  | fsubS (d : Nat) (a : Src) : ShortOp x (.fsubS d a)
      (⟨2, execLanes x .always, [⟨d, 1, false⟩, srcUse a 1], [regUse d 1], fun _ l => laneFloat l d (fAdd fp32 .rne 0 (laneVal l d) (fNegVal (laneVal l a.r)))⟩)
  /-- FMUL -/
  | fmulS (d : Nat) (a : Src) : ShortOp x (.fmulS d a)
      (⟨2, execLanes x .always, [⟨d, 1, false⟩, srcUse a 1], [regUse d 1], fun _ l => laneFloat l d (fMul fp32 .rne 0 (laneVal l d) (laneVal l a.r))⟩)
  /-- FMAX -/
  | fmaxS (d : Nat) (a : Src) : ShortOp x (.fmaxS d a)
      (⟨2, execLanes x .always, [⟨d, 1, false⟩, srcUse a 1], [regUse d 1], fun _ l => laneFloat l d (fMinMax true (laneReg l d).toNat (laneReg l a.r).toNat)⟩)

end Sys2Proof.Machine
end

