-- ==== Sys2Proof/Certificates/Slice0/Obligations.lean ====
section
/-!
DEFINITION. The statements about the model for the provers, each named for what it states.
-/

open Sys2Proof Sys2Proof.Machine

/-! ## Encoding, decoding and the step -/

/-- Decoding the encoding of a well-formed instruction gives it back (R24, R26, R27, R33, R34, R35). -/
def Obligations.DecodeOfEncode : Prop :=
  ∀ (i : Instr) (l rest : List Byte), i.wf = true → encode i = some l → decodeBytes (l ++ rest) = .ok (i, l.length)

/-- Every instruction the decoder reads is well-formed and its encoding is the bytes read (R24, R26, R27, R36). -/
def Obligations.EncodeOfDecode : Prop :=
  ∀ (l : List Byte) (i : Instr) (n : Nat), decodeBytes l = .ok (i, n) → i.wf = true ∧ encode i = some (l.take n)

/-- Words written out from the encoding tables decode to the instructions they stand for (R26, R27, R33, R34, R35). -/
def Obligations.SpecWordsDecode : Prop :=
  decodeTableWord 16 0x8C42 = some (.iaddS 2 ⟨3, true⟩) ∧
    decodeTableWord 32 0x30E18507 = some (.iadd ⟨3, false⟩ ⟨7, false⟩ ⟨6, false⟩ 5) ∧
    decodeTableWord 32 0x30308507 = some (.iadd ⟨3, false⟩ ⟨1, false⟩ ⟨2, true⟩ 5) ∧
    decodeTableWord 32 0x38208507 = some (.iadd ⟨3, false⟩ ⟨1, true⟩ ⟨2, false⟩ 5) ∧
    decodeTableWord 32 0x1101C631 = some (.imulh true ⟨8, false⟩ ⟨7, false⟩ 6) ∧
    decodeTableWord 32 0x268000BF = some (.fence ⟨.dev, .rel, false⟩) ∧
    decodeTableWord 32 0xA970CC03 = some (.movi 12 173507) ∧
    decodeTableWord 32 0xBCAA0C0B = some (.iaddi ⟨3, true⟩ 101 ⟨40, false⟩ 12) ∧
    decodeTableWord 32 0x004187AD = some (.ldl32 .always 2 ⟨6, false⟩ 7) ∧
    decodeTableWord 32 0xFB246191 = some (.mcall 33 17 50 62) ∧
    decodeTableWord 32 0x30030089 = some (.brx ⟨3, false⟩ ⟨12, false⟩) ∧
    decodeTableWord 32 0x00040181 = some (.bra false 1 16) ∧
    decodeTableWord 32 0x00081E8B = some (.call 30 32) ∧
    decodeTableWord 32 0x0007808D = some (.ret .always ⟨30, false⟩) ∧
    decodeTableWord 32 0x00000185 = some (.split 1) ∧
    decodeTableWord 32 0x00000087 = some (.join 0) ∧
    decodeTableWord 32 0x0000008F = some (.exit .always)

/-- A step does what the bytes at the selected run's PC decode to (R24, R25, R36, R85). Rests also on the model's own choices and
readings: log entries 1, 3. -/
def Obligations.StepRunsDecodedInstruction : Prop :=
  ∀ (s : State),
    let early := fun i => !late i
    (∀ i rest, takeDue early s.clk s.agenda = some (i, rest) → step s = exec i { s with agenda := rest }) ∧
    (takeDue early s.clk s.agenda = none →
      (s.closed = false →
        (∀ k t rest, trapDue s = some (k, t, rest) → step s = .next (takeWaiting s k t rest)) ∧
        (trapDue s = none → ∀ x, selected s = some x →
          (∀ l s1 i n, fetchBytes s x.key x.beam (selPc x).toNat = (some (.ok l), s1) → decodeBytes l = .ok (i, n) → step s = exec i s1) ∧
          (∀ l s1 e, fetchBytes s x.key x.beam (selPc x).toNat = (some (.ok l), s1) → decodeBytes l = .error e →
            step s = exec (.illegalInstruction e) s1) ∧
          (∀ e s1, fetchBytes s x.key x.beam (selPc x).toNat = (some (.error e), s1) → step s = exec (.illegalInstruction e) s1) ∧
          (∀ s1, fetchBytes s x.key x.beam (selPc x).toNat = (none, s1) → step s = .next (tried s1 x.key)))) ∧
      (s.closed = true ∨ (trapDue s = none ∧ selected s = none) →
        (∀ i rest, takeLate s.clk s.agenda = some (i, rest) → step s = exec i { s with agenda := rest, closed := true }) ∧
        (takeLate s.clk s.agenda = none → step s = .next (tick s))))

/-- The invariant holds right after reset (R324). -/
def Obligations.ResetInvariant : Prop :=
  Inv State.reset

/-- Every step keeps memory canonical and every beam listed once (R9, R84, R85). -/
def Obligations.StepKeepsInvariant : Prop :=
  ∀ s t : State, Inv s → step s = .next t → Inv t

/-- The run whose turn it is is the run of a beam as it stands, and the beam is eligible (R84, R85, R88). -/
def Obligations.SelectedBeamStands : Prop :=
  ∀ (s : State) (x : Sel), Inv s → selected s = some x →
    Turn s x ∧ x.run = runOf x.beam ∧ lanesIn x.beam .runnable ≠ [] ∧ x.beam.tried ≠ s.clk + 1 ∧
      poolOf x.key ∉ s.issued ∧ s.closed = false ∧ x.beam.stopped = false ∧ x.beam.ticket = none ∧
      (x.beam.hold = .none ∨ ∃ t, x.beam.hold = .yield t ∧ t ≤ s.clk)

/-- Of a pool's beams that may issue, the one that issued least recently is chosen, the lower number on a tie (R85). -/
def Obligations.LeastRecentlyIssuedFirst : Prop :=
  ∀ (s : State) (x : Sel), selected s = some x → ∀ k b, (k, b) ∈ s.beams → candidate s k b = true → poolOf k = poolOf x.key →
    x.beam.lastIssue < b.lastIssue ∨ (x.beam.lastIssue = b.lastIssue ∧ x.key ≤ k)

/-! ## Lane instructions -/

/-- MOV, MOVI, MOVHI and SEL write their destination in each executing lane (R109, R117, R107). -/
def Obligations.MovesAndSelect : Prop :=
  ∀ (s : State) (x : Sel) (i : Instr) (o : LaneOp), MoveOp x i o → Turn s x → o.ready x = true → exec i s = .next (o.done s x)

/-- Integer sums, products, LEA, minima and maxima wrap as the rules say (R38, R110, R118, R119). -/
def Obligations.IntegerArithmetic : Prop :=
  ∀ (s : State) (x : Sel) (i : Instr) (o : LaneOp), ArithOp x i o → Turn s x → o.ready x = true → exec i s = .next (o.done s x)

/-- Logic, shifts, counts and bit fields (R112, R113, R114, R115). -/
def Obligations.LogicShiftsAndBits : Prop :=
  ∀ (s : State) (x : Sel) (i : Instr) (o : LaneOp), LogicOp x i o → Turn s x → o.ready x = true → exec i s = .next (o.done s x)

/-- ICMP writes a predicate from a signed or unsigned comparison (R116, R29). -/
def Obligations.IntegerCompares : Prop :=
  ∀ (s : State) (x : Sel) (i : Instr) (o : LaneOp), CompareOp x i o → Turn s x → o.ready x = true → exec i s = .next (o.done s x)

/-- FP32 and packed BF16 operations write their rounded result and OR their flags into FSTAT (R54, R120, R121, R122, R123, R124,
R125). -/
def Obligations.FloatOperations : Prop :=
  ∀ (s : State) (x : Sel) (i : Instr) (o : LaneOp), FloatOp x i o → Turn s x → o.ready x = true → exec i s = .next (o.done s x)

/-- Directed modes and conversions; a stochastic form reads SRCTR and then advances it (R50, R120, R126). -/
def Obligations.DirectedAndConversions : Prop :=
  ∀ (s : State) (x : Sel) (i : Instr) (o : LaneOp), DirectedOp s x i o → Turn s x → o.ready x = true → exec i s = .next (o.done s x)

/-- PLOP, P2G, G2P and VOTE (R127, R128, R129). -/
def Obligations.PredicatesAndVotes : Prop :=
  ∀ (s : State) (x : Sel) (i : Instr) (o : LaneOp), PredOp x i o → Turn s x → o.ready x = true → exec i s = .next (o.done s x)

/-- SHFL, PERM, REDUX and SCAN (R130, R131, R132, R133). -/
def Obligations.CrossLane : Prop :=
  ∀ (s : State) (x : Sel) (i : Instr) (o : LaneOp), CrossOp x i o → Turn s x → o.ready x = true → exec i s = .next (o.done s x)

/-- RAND, RDSP and WIDF (R50, R105, R106, R136). -/
def Obligations.RandomAndIdentity : Prop :=
  ∀ (s : State) (x : Sel) (i : Instr) (o : LaneOp), NamedOp s x i o → Turn s x → o.ready x = true → exec i s = .next (o.done s x)

/-- The 16-bit forms do what their T forms do on (d, d, a) and are two bytes long (R26). -/
def Obligations.ShortForms : Prop :=
  ∀ (s : State) (x : Sel) (i : Instr) (o : LaneOp), ShortOp x i o → Turn s x → o.ready x = true → exec i s = .next (o.done s x)

/-- Lane b of what stood as lane a: the same but for some registers and the PC, which may differ. -/
def SameButRegs (a b : Lane) (ds : List Use) : Prop :=
  (∀ r, (∀ u ∈ ds, r < u.r ∨ u.r + u.n ≤ r) → laneReg b r = laneReg a r) ∧
    b.fstat = a.fstat ∧ b.srctr = a.srctr ∧ b.randctr = a.randctr ∧ b.min = a.min ∧ b.mstep = a.mstep ∧ b.state = a.state ∧
    b.jidx = a.jidx ∧ b.frec = a.frec

/-- Nothing of the machine outside one beam differs, but the turn it has had and its block's count: memory byte for byte,
caches, control registers, the cores and the other beams. -/
def SameOutside (s t : State) (k : Nat) : Prop :=
  (∀ a, memGet t.mem a = memGet s.mem a) ∧ t.csr = s.csr ∧ t.l2 = s.l2 ∧ t.bad = s.bad ∧ t.cores = s.cores ∧ t.gangs = s.gangs ∧
    t.grids = s.grids ∧ t.commits = s.commits ∧ t.applies = s.applies ∧ t.bins = s.bins ∧ t.queues = s.queues ∧
    t.clk = s.clk ∧ ∀ j, j ≠ k → beamOf t j = beamOf s j

/-- Nothing of a beam differs but its lanes, its turn, what walks have told it and its unfinished instructions. -/
def SameBeam (a b : Beam) : Prop :=
  b.block = a.block ∧ b.idx = a.idx ∧ b.psw = a.psw ∧ b.flvl = a.flvl ∧ b.framea = a.framea ∧ b.hold = a.hold ∧ b.under = a.under ∧
    b.arr = a.arr ∧ b.stopped = a.stopped ∧ b.stores = a.stores ∧ b.waiting = a.waiting

/-- What MOV, the integer, logic, shift and bit instructions leave unchanged (R38, R107, R109, R110, R112). -/
def Obligations.IntegerFrame : Prop :=
  ∀ (s : State) (x : Sel) (i : Instr) (o : LaneOp), MoveOp x i o ∨ ArithOp x i o ∨ LogicOp x i o → Turn s x → o.ready x = true →
    ∃ t b, exec i s = .next t ∧ beamOf t x.key = some b ∧ SameOutside s t x.key ∧ SameBeam x.beam b ∧ b.pend = x.beam.pend ∧
      ∀ j, SameButRegs (laneOf x.beam j) (laneOf b j) o.dsts ∧ (laneOf b j).preds = (laneOf x.beam j).preds ∧
        (j ∉ x.run → laneOf b j = laneOf x.beam j)

/-- What ICMP, PLOP, the votes into a predicate, and the floating-point instructions leave unchanged (R29, R54, R107, R108, R116,
R120, R125, R127, R129). -/
def Obligations.PredicateAndFloatFrame : Prop :=
  ∀ (s : State) (x : Sel) (i : Instr) (o : LaneOp), Turn s x → o.ready x = true →
    (∀ pd, ((∃ u c b a, i = .icmp32 u c b a pd ∨ i = .icmp64 u c b a pd) ∨ (∃ t bp ap, i = .plop t bp ap pd) ∨
        (∃ ap, i = .voteAny ap pd ∨ i = .voteAll ap pd) ∨ i = .voteFirst pd) → CompareOp x i o ∨ PredOp x i o → pd < 32 →
      ∃ t b, exec i s = .next t ∧ beamOf t x.key = some b ∧ SameOutside s t x.key ∧ SameBeam x.beam b ∧ b.pend = x.beam.pend ∧
        ∀ j, SameButRegs (laneOf x.beam j) (laneOf b j) [] ∧
          (∀ p, p < 32 → p ≠ pd → lanePred (laneOf b j) p = lanePred (laneOf x.beam j) p) ∧ lanePred (laneOf b j) 0 = true) ∧
    (FloatOp x i o → o.dsts ≠ [] →
      ∃ t b, exec i s = .next t ∧ beamOf t x.key = some b ∧ SameOutside s t x.key ∧ SameBeam x.beam b ∧ b.pend = x.beam.pend ∧
        ∀ j, (∀ r, (∀ u ∈ o.dsts, r < u.r ∨ u.r + u.n ≤ r) → laneReg (laneOf b j) r = laneReg (laneOf x.beam j) r) ∧
          (laneOf b j).preds = (laneOf x.beam j).preds ∧ (laneOf b j).srctr = (laneOf x.beam j).srctr ∧
          (laneOf b j).randctr = (laneOf x.beam j).randctr ∧ (laneOf b j).state = (laneOf x.beam j).state ∧
          (laneOf b j).fstat &&& (laneOf x.beam j).fstat = (laneOf x.beam j).fstat)

/-- An empty source makes the run wait, or trap FullEmptyTrap where its policy bit says so (R30, R31, R89). Rests also on the
model's own choices and readings: log entries 12, 26. -/
def Obligations.EmptySourcesWaitOrTrap : Prop :=
  ∀ (s : State) (x : Sel) (g : Guard) (b a : Src) (d : Nat) (i : Instr),
    i = .iadd g b a d ∨ i = .isub g b a d ∨ i = .imul g b a d ∨ i = .and g b a d ∨ i = .or g b a d ∨ i = .xor g b a d →
    Turn s x →
    let ex := execLanes x g
    let ea := ex.filter fun j => (laneOf x.beam j).empty.contains a.r
    let eb := ex.filter fun j => (laneOf x.beam j).empty.contains b.r
    ((ea ≠ [] ∧ a.trap = false) ∨ (eb ≠ [] ∧ b.trap = false) → exec i s = .next (waited s x)) ∧
    (ea ≠ [] → a.trap = true → (eb = [] ∨ b.trap = true) →
      exec i s = .next (trapped s x { trapOf x 0x03 with lanes := maskOf ea, reg := a.r })) ∧
    (ea = [] → eb ≠ [] → b.trap = true →
      exec i s = .next (trapped s x { trapOf x 0x03 with lanes := maskOf eb, reg := b.r })) ∧
    (ea = [] → eb = [] → pendingWrite x.beam ex (regUse d 1) = true → exec i s = .next (waited s x))

/-! ## Producers (R30, R107, R111, R135) -/

/-- A producer whose results are known has issued: its destinations are empty in its lanes, the run stands at the next
instruction, the results wait to be written, and nothing else of the beam or outside it differs. -/
def ProducerIssued (s t : State) (x : Sel) (i : Instr) (d n : Nat) (ls : List PendLane) : Prop :=
  ∃ b, beamOf t x.key = some b ∧ SameOutside s t x.key ∧ SameBeam x.beam b ∧
    b.pend = x.beam.pend ++ [⟨x.beam.nextId, wordOfInstr i, selPc x, macroStepOf x, maskOf x.run, d, n, .result, ls⟩] ∧
    (∀ j, SameButRegs (laneOf x.beam j) (laneOf b j) [] ∧ (laneOf b j).preds = (laneOf x.beam j).preds ∧
      (laneOf b j).pc = (laneOf x.beam j).pc + (if j ∈ x.run then 4 else 0)) ∧
    (∀ l ∈ ls, l.lane ∈ x.run → ∀ r, d ≤ r → r < d + n → r ∈ (laneOf b l.lane).empty) ∧
    ∃ c, ⟨c, .producerComplete (x.key / 64) (x.key % 64) x.beam.nextId⟩ ∈ t.agenda ∧ s.clk < c

/-- The quotient toward zero, the most negative value by -1 giving itself (R38, R111). -/
def quot {n : Nat} (u : Bool) (a b : BitVec n) : BitVec n := if u then a / b else a.sdiv b

/-- IDIV and IREM are producers of the truncated quotient and its remainder (R30, R38, R107, R111). -/
def Obligations.DivisionsIssue : Prop :=
  ∀ (s : State) (x : Sel) (u : Bool) (b a : Src) (d : Nat), Turn s x →
    (ready x x.run [srcUse a 1, srcUse b 1] [regUse d 1] = true → (∀ j ∈ x.run, laneReg (laneOf x.beam j) b.r ≠ 0) →
      (∃ t, exec (.idiv false u b a d) s = .next t ∧ ProducerIssued s t x (.idiv false u b a d) d 1
        (x.run.map fun j => resultLane j ((quot u (laneReg (laneOf x.beam j) a.r) (laneReg (laneOf x.beam j) b.r)).setWidth 128) 0)) ∧
      ∃ t, exec (.irem false u b a d) s = .next t ∧ ProducerIssued s t x (.irem false u b a d) d 1
        (x.run.map fun j =>
          let p := laneReg (laneOf x.beam j) a.r
          let q := laneReg (laneOf x.beam j) b.r
          resultLane j ((p - quot u p q * q).setWidth 128) 0)) ∧
    (ready x x.run [srcUse a 2, srcUse b 2] [regUse d 2] = true → (∀ j ∈ x.run, lanePair (laneOf x.beam j) b.r ≠ 0) →
      (∃ t, exec (.idiv true u b a d) s = .next t ∧ ProducerIssued s t x (.idiv true u b a d) d 2
        (x.run.map fun j => resultLane j ((quot u (lanePair (laneOf x.beam j) a.r) (lanePair (laneOf x.beam j) b.r)).setWidth 128) 0)) ∧
      ∃ t, exec (.irem true u b a d) s = .next t ∧ ProducerIssued s t x (.irem true u b a d) d 2
        (x.run.map fun j =>
          let p := lanePair (laneOf x.beam j) a.r
          let q := lanePair (laneOf x.beam j) b.r
          resultLane j ((p - quot u p q * q).setWidth 128) 0))

/-- A divisor of 0 in any lane of the run traps IntegerDivide before any effect (R111, R284). Rests also on the model's own choices
and readings: log entry 26. -/
def Obligations.DivisionByZeroTraps : Prop :=
  ∀ (s : State) (x : Sel) (w u : Bool) (b a : Src) (d : Nat) (i : Instr), i = .idiv w u b a d ∨ i = .irem w u b a d → Turn s x →
    let n := if w then 2 else 1
    let zero := x.run.filter fun j => if w then lanePair (laneOf x.beam j) b.r == 0 else laneReg (laneOf x.beam j) b.r == 0
    ready x x.run [srcUse a n, srcUse b n] [regUse d n] = true → zero ≠ [] →
      exec i s = .next (trapped s x { trapOf x 0x14 with lanes := maskOf zero })

/-- FDIV and GXLD are producers (R30, R107, R120, R135). -/
def Obligations.FdivAndGxldIssue : Prop :=
  ∀ (s : State) (x : Sel), Turn s x →
    (∀ g b a d, ready x (execLanes x g) [srcUse a 1, srcUse b 1] [regUse d 1] = true →
      ∃ t, exec (.fdiv g b a d) s = .next t ∧ ProducerIssued s t x (.fdiv g b a d) d 1
        ((execLanes x g).map fun j =>
          let r := fDiv fp32 .rne (laneVal (laneOf x.beam j) a.r) (laneVal (laneOf x.beam j) b.r)
          resultLane j (BitVec.ofNat 128 r.code) r.flags)) ∧
    (∀ a d bl ga gr, homeOf s x.beam = some (bl, ga, gr) → ready x x.run [srcUse a 1] [regUse d 1] = true →
      (∀ j ∈ x.run, 64 ≤ (laneReg (laneOf x.beam j) a.r).toNat ∧ (laneReg (laneOf x.beam j) a.r).toNat < allot gr - gr.depth) →
      ∃ t, exec (.gxld a d) s = .next t ∧ ProducerIssued s t x (.gxld a d) d 1
        (x.run.map fun j => resultLane j ((laneReg (laneOf x.beam j) (laneReg (laneOf x.beam j) a.r).toNat).setWidth 128) 0))

/-- GXST writes the indexed register; an index outside 64 to A - D - 1 traps ProtectionFault (R135, R284, R291). -/
def Obligations.IndexedStores : Prop :=
  ∀ (s : State) (x : Sel) (bl : Block) (ga : Gang) (gr : Grid), Turn s x → homeOf s x.beam = some (bl, ga, gr) → ∀ (b a : Src) (d : Nat),
    let bad := x.run.filter fun j =>
      decide ((laneReg (laneOf x.beam j) a.r).toNat < 64 ∨ allot gr - gr.depth ≤ (laneReg (laneOf x.beam j) a.r).toNat)
    let t := { trapOf x 0x08 with lane := leastD 0 bad, addr := (laneReg (laneOf x.beam (leastD 0 bad)) a.r).setWidth 64 }
    (ready x x.run [srcUse a 1, srcUse b 1] [] = true →
      (bad = [] → exec (.gxst b a) s = .next (LaneOp.done
        ⟨4, x.run, [srcUse a 1, srcUse b 1], [], fun _ l => laneSet l (laneReg l a.r).toNat (laneReg l b.r)⟩ s x)) ∧
      (bad ≠ [] → exec (.gxst b a) s = .next (trapped s x t))) ∧
    (ready x x.run [srcUse a 1] [regUse d 1] = true → bad ≠ [] → exec (.gxld a d) s = .next (trapped s x t))

/-- PRODUCER_COMPLETE performs what is not yet performed, writes the destinations, full, with their flags, and ends the instruction; an
access that no link carries is looked at again later (R30, R54, R107, R150, R152, R164, R165, R294, R321). Rests also on the model's own
choices and readings: log entries 2, 6, 50. -/
def Obligations.ProducersComplete : Prop :=
  ∀ (s : State) (core n id : Nat) (b : Beam), n < 64 → beamOf s (64 * core + n) = some b →
    (b.pend.find? (fun q => q.id == id) = none → exec (.producerComplete core n id) s = .next s) ∧
    ∀ p, b.pend.find? (fun q => q.id == id) = some p →
      let r := performLanes core p.kind s p.lanes
      let shut := isAccess p.kind = true ∧ accessOpen s core p.kind (p.lanes.map fun l => l.target) = false
      (isEntry p.kind = true → exec (.producerComplete core n id) s = .next s) ∧
        (shut → exec (.producerComplete core n id) s = .next (post s 40 (.producerComplete core n id))) ∧
        (isEntry p.kind = false → ¬ shut → ∃ c, exec (.producerComplete core n id) s = .next (setBeam r.1 (64 * core + n) c) ∧
          c = { b with lanes := c.lanes, waiting := c.waiting, pend := b.pend.filter fun q => q.id != id } ∧
          c.waiting = (if r.2.2 = [] then b.waiting else insertTrap s.clk
            (uncorrectable p.run p.epc p.mstep (r.2.2.map fun l => (l.lane, l.target))) b.waiting) ∧
          c.lanes.length = b.lanes.length ∧
          ∀ j, j < b.lanes.length → laneOf c j = match r.2.1.find? fun l => l.lane == j with
            | some l => laneFlags (laneSetN (laneOf b j) p.dst l.res p.n) l.flags
            | none => laneOf b j) ∧
        (p.kind = .result → r = (s, p.lanes, [])) ∧
        (∀ l rest, p.lanes = l :: rest → r.1 = (performLanes core p.kind (performLane s core p.kind l).2 rest).1) ∧
        ∀ l, p.lanes = [l] →
          (∀ m, p.kind = .loadLocal m → r = (s, [{ l with res := BitVec.ofNat 128 (leNat (memBytes s.mem (localBase 0 + l.target) m)) }], [])) ∧
          (∀ m sc const, p.kind = .load m sc const → r = match loadPath s core l.target sc const m with
            | (some v, u) => (u, [{ l with res := BitVec.ofNat 128 (leNat v) }], [])
            | (none, u) => (u, [], [l])) ∧
          (∀ m op q, p.kind = .atomic m op q → r = match atomPath s core l.target m q (atomicNew op m l.data) with
            | (some old, u) => (u, [{ l with res := BitVec.ofNat 128 old }], [])
            | (none, u) => (u, [], [l]))

/-! ## Control (R91-R104) -/

/-- The state after an issue that only sets the PC of each lane of the run. -/
def jumped (s : State) (x : Sel) (f : Lane → Word) : State :=
  issuedBy s x (beamLanes x.beam x.run fun _ l => { l with pc := f l })

/-- The target of a displacement: PC + 2 * sign_extend(disp18), modulo 2^32 (R25). -/
def target (pc : Word) (disp : Nat) : Word := pc + wordOf (2 * sext 18 disp)

/-- BRA branches the whole run where its condition is the same in every lane, and else traps UniformViolation (R96). -/
def Obligations.BranchUniform : Prop :=
  ∀ (s : State) (x : Sel) (sense : Bool) (p disp : Nat), Turn s x →
    let c := fun l => lanePred l p != sense
    ((∀ i ∈ x.run, ∀ j ∈ x.run, c (laneOf x.beam i) = c (laneOf x.beam j)) →
      exec (.bra sense p disp) s = .next (jumped s x fun l => if c l then target l.pc disp else l.pc + 4)) ∧
    ((∃ i ∈ x.run, ∃ j ∈ x.run, c (laneOf x.beam i) ≠ c (laneOf x.beam j)) →
      exec (.bra sense p disp) s = .next (trapped s x { trapOf x 0x04 with lanes := maskOf x.run }))

/-- BRD branches each lane on its own condition (R97). -/
def Obligations.BranchPerLane : Prop :=
  ∀ (s : State) (x : Sel) (sense : Bool) (p disp : Nat), Turn s x →
    exec (.brd sense p disp) s =
      .next (jumped s x fun l => if (lanePred l p != sense) = true then target l.pc disp else l.pc + 4)

/-- BRX, CALL and RET (R98, R99, R100, R31). -/
def Obligations.IndirectBranchCallReturn : Prop :=
  ∀ (s : State) (x : Sel), Turn s x →
    (∀ g a, ready x x.run [srcUse a 1] [] = true →
      let c := guardOf g
      let same := (∀ i ∈ x.run, ∀ j ∈ x.run, c (laneOf x.beam i) = c (laneOf x.beam j)) ∧
        ((∃ i ∈ x.run, c (laneOf x.beam i) = true) → ∀ i ∈ x.run, ∀ j ∈ x.run, laneReg (laneOf x.beam i) a.r = laneReg (laneOf x.beam j) a.r)
      (same → exec (.brx g a) s = .next (jumped s x fun l => if c l then laneReg l a.r else l.pc + 4)) ∧
      (¬ same → exec (.brx g a) s = .next (trapped s x { trapOf x 0x04 with lanes := maskOf x.run }))) ∧
    (∀ lk disp, ready x x.run [] [regUse lk 1] = true →
      exec (.call lk disp) s = .next (issuedBy s x (beamLanes x.beam x.run fun _ l =>
        { laneSet l lk (l.pc + 4) with pc := target l.pc disp }))) ∧
    (∀ g a, ready x (execLanes x g) [srcUse a 1] [] = true →
      exec (.ret g a) s = .next (jumped s x fun l => if guardOf g l then laneReg l a.r else l.pc + 4))

/-- SPLIT writes the run's mask to the rejoin register of all 32 lanes (R91, R92). -/
def Obligations.SplitSavesTheRun : Prop :=
  ∀ (s : State) (x : Sel) (n : Nat) (bl : Block) (ga : Gang) (gr : Grid), Turn s x → homeOf s x.beam = some (bl, ga, gr) →
    (n < gr.depth → exec (.split n) s = .next (issuedBy s x (beamLanes
      (beamLanes x.beam (upTo 32) fun _ l => laneSet l (allot gr - gr.depth + n) (BitVec.ofNat 32 (maskOf x.run))) x.run fun _ l =>
        { l with pc := l.pc + 4 }))) ∧
    (gr.depth ≤ n → exec (.split n) s = .next (trapped s x { trapOf x 0x05 with reg := n }) ∧
      exec (.join n) s = .next (trapped s x { trapOf x 0x05 with reg := n }))

/-- JOIN holds the run until every lane of the mask has arrived or exited, and then releases all who wait there (R90, R93). Rests
also on the model's own choices and readings: log entry 27. -/
def Obligations.JoinHoldsUntilArrived : Prop :=
  ∀ (s : State) (x : Sel) (n : Nat) (bl : Block) (ga : Gang) (gr : Grid), Turn s x → homeOf s x.beam = some (bl, ga, gr) →
    n < gr.depth → (∀ i ∈ x.run, (laneOf x.beam i).pc = selPc x ∧ i < x.beam.lanes.length) →
    let m := (laneReg (laneOf x.beam (leastD 0 x.run)) (allot gr - gr.depth + n)).toNat
    let here := fun i => i ∈ x.run ∨
      ((laneOf x.beam i).state = .waiting ∧ (laneOf x.beam i).pc = selPc x ∧ (laneOf x.beam i).jidx = n)
    ((∃ i ∈ lanesIn x.beam .parked, bit m i = true) → exec (.join n) s = .next (trapped s x (trapOf x (parkedCode x.beam)))) ∧
    ((∀ i ∈ lanesIn x.beam .parked, bit m i = false) →
      ((∀ i < 32, bit m i = true → (laneOf x.beam i).state = .exited ∨ here i) →
        ∃ t b, exec (.join n) s = .next t ∧ beamOf t x.key = some b ∧ SameOutside s t x.key ∧
          ∀ i, i < x.beam.lanes.length →
            (here i → (laneOf b i).state = .runnable ∧ (laneOf b i).pc = selPc x + 4) ∧
            (¬ here i → laneOf b i = laneOf x.beam i)) ∧
      ((∃ i < 32, bit m i = true ∧ (laneOf x.beam i).state ≠ .exited ∧ ¬ here i) →
        (∃ i ∈ lanesIn x.beam .runnable, i ∉ x.run) →
        exec (.join n) s = .next (issuedBy s x (beamLanes x.beam x.run fun _ l => { l with state := .waiting, jidx := n }))))

/-- A lane waits at the same JOIN as lane j: with its PC and its register. -/
def AtSameJoin (b : Beam) (j i : Nat) : Prop :=
  (laneOf b i).state = .waiting ∧ (laneOf b i).pc = (laneOf b j).pc ∧ (laneOf b i).jidx = (laneOf b j).jidx

/-- The JOIN at which lane j waits opens: for the mask of a lane that waits there, every lane of the mask has exited or waits there
(R93; log 27 where the masks of the lanes differ). -/
def Opens (b : Beam) (gr : Grid) (j : Nat) : Prop :=
  ∃ i < 32, AtSameJoin b j i ∧ ∀ k < 32, bit (laneReg (laneOf b i) (maskReg gr (laneOf b i).jidx)).toNat k = true →
    (laneOf b k).state = .exited ∨ AtSameJoin b j k

/-- A beam after release_check for every lane that waits (R93): those whose JOIN opens run on behind it, and no other lane differs. -/
def Released (b c : Beam) (gr : Grid) : Prop :=
  c.lanes.length = b.lanes.length ∧ ∀ j, j < b.lanes.length →
    ((laneOf b j).state = .waiting → Opens b gr j →
      laneOf c j = { laneOf b j with state := .runnable, jidx := 0, pc := (laneOf b j).pc + 4 }) ∧
    ((laneOf b j).state ≠ .waiting ∨ ¬ Opens b gr j → laneOf c j = laneOf b j)

/-- EXIT ends its executing lanes and opens what JOINs it can; the last exit leaves the beam to retire, and waiting lanes alone trap
(R79, R90, R93, R94, R103). Rests also on the model's own choices and readings: log entry 27. -/
def Obligations.ExitEndsLanes : Prop :=
  ∀ (s : State) (x : Sel) (g : Guard) (bl : Block) (ga : Gang) (gr : Grid), Turn s x → homeOf s x.beam = some (bl, ga, gr) →
    let ex := execLanes x g
    let mid := beamLanes x.beam x.run fun i l => if i ∈ ex then { l with state := .exited } else { l with pc := l.pc + 4 }
    (lanesIn x.beam .parked ≠ [] → exec (.exit g) s = .next (trapped s x (trapOf x (parkedCode x.beam)))) ∧
    (lanesIn x.beam .parked = [] →
      ((∃ i ∈ ex, (laneOf x.beam i).empty ≠ []) → exec (.exit g) s = .next (waited s x)) ∧
      ((∀ i ∈ ex, (laneOf x.beam i).empty = []) →
        (ex = [] → exec (.exit g) s = .next (jumped s x fun l => l.pc + 4)) ∧
        (ex ≠ [] → lanesIn mid .runnable ≠ [] ∨ (∃ j ∈ lanesIn mid .waiting, Opens mid gr j) →
          ∃ t b, exec (.exit g) s = .next t ∧ beamOf t x.key = some b ∧ SameOutside s t x.key ∧ Released mid b gr) ∧
        (ex ≠ [] → lanesIn mid .runnable = [] → lanesIn mid .waiting = [] →
          ∃ t b, exec (.exit g) s = .next t ∧ beamOf t x.key = some b ∧ b.lanes = mid.lanes ∧
            (∀ i, i < b.lanes.length → (laneOf b i).state = .exited) ∧ (∀ a, memGet t.mem a = memGet s.mem a) ∧
            ⟨s.clk + 1, .gangRetire bl.gang⟩ ∈ t.agenda) ∧
        (ex ≠ [] → lanesIn mid .runnable = [] → lanesIn mid .waiting ≠ [] → (∀ j ∈ lanesIn mid .waiting, ¬ Opens mid gr j) →
          let i := leastLane mid (lanesIn mid .waiting)
          exec (.exit g) s = .next (idleTrap (issuedBy s x mid) x.key { trapAt mid i 0x05 with reg := (laneOf mid i).jidx }))))

/-- YIELD advances the run and makes the beam ineligible in the 32 clocks after issue (R104). -/
def Obligations.YieldGivesUpTurns : Prop :=
  ∀ (s : State) (x : Sel) (g : Guard), Turn s x →
    ∃ t b, exec (.yield g) s = .next t ∧ beamOf t x.key = some b ∧ SameOutside s t x.key ∧
      (∀ i, laneOf b i = { laneOf x.beam i with pc := (laneOf x.beam i).pc + (if i ∈ x.run then 4 else 0) }) ∧
      b = { x.beam with lanes := b.lanes, hold := b.hold, lastIssue := s.clk + 1, tried := s.clk + 1, told := [] } ∧
      (∀ u : State, u.clk ≤ s.clk + 32 → eligible u x.key b = false) ∧
      ⟨s.clk + 33, .yieldExpiry (x.key / 64) (x.key % 64)⟩ ∈ t.agenda ∧
      ∀ u : State, beamOf u x.key = some b → s.clk + 33 ≤ u.clk →
        exec (.yieldExpiry (x.key / 64) (x.key % 64)) u = .next (setBeam u x.key { b with hold := .none })

/-- MCALL executes one step of the body at each issue, with P0 to P2 in place of registers 61 to 63 (R19, R32, R101, R102). -/
def Obligations.MacroStep : Prop :=
  ∀ (s : State) (x : Sel) (m P0 P1 P2 : Nat) (bl : Block) (ga : Gang) (gr : Grid), Turn s x → homeOf s x.beam = some (bl, ga, gr) →
    selMin x = true ∨ macroLoaded bl gr m = true →
    let y := enterBody x
    let n := selMstep y
    let len := lookD (coreOf s (selCore x)).clen m 0
    let w := (lookD (coreOf s (selCore x)).cstore (32 * m + n) 0).toNat
    (∀ j o, n < len → w % 2 = 1 → bodyOpcode (w / 2 % 128) = true → decodeMacroWord P0 P1 P2 w = .ok j → ArithOp y j o →
      o.ready y = true → selMstep x = n →
      exec (.mcall m P0 P1 P2) s = .next (issuedBy s x (beamLanes x.beam x.run fun i l =>
        let l0 := if selMin x then l else { l with min := true, mstep := 0 }
        nextStep n len (if o.lanes.contains i then o.act i l0 else l0)))) ∧
    (selMin x = true → len ≤ n ∨ w % 2 = 0 ∨ bodyOpcode (w / 2 % 128) = false →
      ∃ t, exec (.mcall m P0 P1 P2) s = .next t ∧
        t = trapped (setBeam s x.key x.beam) x { trapOf x 0x17 with reg := m })

/-! ## Memory instructions (R156-R171) -/

/-- The run stands at the next instruction, and no register, predicate, flag or state of any lane differs otherwise. -/
def Advanced (x : Sel) (b : Beam) : Prop :=
  ∀ j, SameButRegs (laneOf x.beam j) (laneOf b j) [] ∧ (laneOf b j).preds = (laneOf x.beam j).preds ∧
    (laneOf b j).pc = (laneOf x.beam j).pc + (if j ∈ x.run then 4 else 0)

/-- The destinations of some lanes are empty. -/
def Emptied (x : Sel) (b : Beam) (lanes : List Nat) (d n : Nat) : Prop :=
  ∀ j ∈ lanes, j ∈ x.run → ∀ r, d ≤ r → r < d + n → r ∈ (laneOf b j).empty

/-- None of some bytes is touched by an unfinished access or an earlier buffered store of the beam (R86). -/
def Untouched (b : Beam) (sp : List Span) : Prop :=
  ∀ a ∈ sp, (∀ p ∈ b.pend, ∀ c ∈ pendSpans p, overlap c a = false) ∧ ∀ y ∈ b.stores, ∀ c ∈ storeSpans y, overlap c a = false

/-- The access of n bytes of every lane of a list can travel at its scope, and so can the write-backs that its order, its promotion or the
register window bring about, and what the beam has still to do with the same bytes (R86, R161, R165, R167, R315, R317, R321). -/
def Reaches (s : State) (x : Sel) (q : QF) (n : Nat) (write atom : Bool) (ls : List GLane) : Prop :=
  (∀ g ∈ ls, canReach s (selCore x) g.x q.scope write atom = true) ∧ syncReady s x.key { loadOp n q with prm := q.prm } ls = true

/-- A load of some lanes can go, and one that is performed as it issues still can once what goes before it has been performed. -/
def LoadGoes (s : State) (x : Sel) (f : MemForm) (const : Bool) (ls : List GLane) : Prop :=
  Reaches s x f.q f.n false false ls ∧
    (acquires f.q.order = true ∨ (∃ g ∈ ls, g.x.apc = 3) →
      accessOpen (beforeAccess (windowFence s x.key ls) x.key (spansOf ls f.n)) (selCore x) (.load f.n f.q.scope const)
        (ls.map fun g => targetOf g.x) = true)

/-- The bytes of some lanes wait in the beam's buffer, and WRITE_PERFORMED is to come for them. -/
def Buffered (s t : State) (x : Sel) (b : Beam) (kind : StoreKind) (sc : Scope) (pieces : List Piece) : Prop :=
  ⟨x.beam.nextId, kind, sc, selPc x, macroStepOf x, maskOf x.run, pieces⟩ ∈ b.stores ∧
    ∃ c, ⟨c, .writePerformed (x.key / 64) (x.key % 64) x.beam.nextId⟩ ∈ t.agenda ∧ s.clk < c

/-- A load that passes the checks of R157 empties its destinations and is an unfinished instruction at its translated address (R30,
R107, R156, R157, R160, R162, R163, R321). -/
def Obligations.LoadsIssue : Prop :=
  ∀ (s : State) (x : Sel) (i : Instr) (f : MemForm) (const : Bool) (ls : List GLane), LoadForm x i f const → Turn s x →
    ready x f.lanes [srcUse f.a 2] [regUse f.d (regsOf f.n)] = true → f.hits s x (selSup x) false 0 = some ls →
    (∀ g ∈ ls, loadCheck (selCore x) f.n const (selSup x) s g.x g.ea = none) → noLock s x f.n false ls = true →
    LoadGoes s x f const ls →
    ∃ t b, exec i s = .next t ∧ beamOf t x.key = some b ∧ Advanced x b ∧ Emptied x b f.lanes f.d (regsOf f.n) ∧
      (ls ≠ [] → (∃ c, ⟨c, .producerComplete (x.key / 64) (x.key % 64) x.beam.nextId⟩ ∈ t.agenda ∧ s.clk < c) ∧
        (acquires f.q.order = false → (∀ g ∈ ls, g.x.apc ≠ 3) →
          ⟨x.beam.nextId, wordOfInstr i, selPc x, macroStepOf x, maskOf x.run, f.d, regsOf f.n, .load f.n f.q.scope const, ls.map pendLane⟩ ∈ b.pend)) ∧
      (acquires f.q.order = false → Untouched x.beam (spansOf ls f.n) → (∀ g ∈ ls, g.x.apc ≠ 3) → SameOutside s t x.key)

/-- ATOM and ACAS that pass the checks empty their destinations and are unfinished at their translated addresses (R30, R156, R157,
R164, R165, R166). -/
def Obligations.AtomicsIssue : Prop :=
  ∀ (s : State) (x : Sel) (i : Instr) (f : MemForm) (op : Option AtomOp) (m : Nat) (ls : List GLane), AtomForm x i f op m → Turn s x →
    ready x x.run [srcUse f.a 2, regUse f.d m] [regUse f.d (f.n / 4)] = true → f.hits s x (selSup x) true m = some ls → ls ≠ [] →
    (∀ g ∈ ls, atomCheck (selCore x) (selSup x) op s g.x g.ea = none) → noLock s x f.n true ls = true →
    Reaches s x f.q f.n true true ls →
    (f.q.order ≠ .relaxed → accessOpen (beforeAccess (if releases f.q.order then releaseAt s x.key f.q.scope else s) x.key (spansOf ls f.n))
      (selCore x) (.atomic f.n op f.q) (ls.map fun g => targetOf g.x) = true) →
    ∃ t b, exec i s = .next t ∧ beamOf t x.key = some b ∧ Advanced x b ∧ Emptied x b x.run f.d (f.n / 4) ∧
      (∃ c, ⟨c, .producerComplete (x.key / 64) (x.key % 64) x.beam.nextId⟩ ∈ t.agenda ∧ s.clk < c) ∧
      (f.q.order = .relaxed →
        ⟨x.beam.nextId, wordOfInstr i, selPc x, macroStepOf x, maskOf x.run, f.d, f.n / 4, .atomic f.n op f.q, ls.map pendLane⟩ ∈ b.pend) ∧
      (releases f.q.order = true → b.stores = [])

/-- A store that passes the checks is buffered at its computed addresses and changes no other byte; a release leaves nothing
unperformed (R156, R157, R160, R161, R162, R168). -/
def Obligations.StoresIssue : Prop :=
  ∀ (s : State) (x : Sel) (i : Instr) (f : MemForm) (bl : Block) (ga : Gang) (gr : Grid) (ls : List GLane), StoreForm x i f → Turn s x →
    homeOf s x.beam = some (bl, ga, gr) → ready x f.lanes [srcUse f.a 2, regUse f.d (regsOf f.n)] [] = true →
    f.hits s x (selSup x) true (regsOf f.n) = some ls → ls ≠ [] → (∀ g ∈ ls, g.x.d = false) →
    (∀ g ∈ ls, storeCheck (selCore x) f.n (selSup x) s g.x g.ea = none) → noLock s x f.n true ls = true →
    Reaches s x f.q f.n true false ls →
    (releases f.q.order = true ∨ (∃ g ∈ ls, g.x.apc = 3) →
      let u := beforeAccess (windowFence (if releases f.q.order then releaseAt s x.key f.q.scope else s) x.key ls) x.key (spansOf ls f.n)
      ∀ g ∈ ls, canReach u (selCore x) g.x f.q.scope true false = true) →
    ∃ t b, exec i s = .next t ∧ beamOf t x.key = some b ∧ Advanced x b ∧
      (releases f.q.order = true → b.stores = []) ∧
      (releases f.q.order = false → (∀ g ∈ ls, g.x.apc ≠ 3) →
        Buffered s t x b .plain f.q.scope (ls.map fun g => ⟨g.lane, targetOf g.x, bytesLE f.n g.data.toNat⟩) ∧
          (Untouched x.beam (spansOf ls f.n) → SameOutside s t x.key))

/-- On a deferred page ST and RED append their records to the core's log and change no byte of memory (R168, R173, R174, R175). -/
def Obligations.DeferredStoresAppend : Prop :=
  ∀ (s : State) (x : Sel) (i : Instr) (f : MemForm) (bl : Block) (ga : Gang) (gr : Grid) (ls : List GLane) (recs : List Rec),
    (StoreForm x i f ∧ 4 ≤ f.n ∧ recs = ls.flatMap (storeRecords bl f.n)) ∨
      (∃ o, RedForm x i f o ∧ recs = ls.map fun g => recordFor bl (redOp o) (f.n == 8) g.x.pa (g.data.setWidth 64)) →
    Turn s x → homeOf s x.beam = some (bl, ga, gr) → ready x f.lanes [srcUse f.a 2, regUse f.d (regsOf f.n)] [] = true →
    f.hits s x (selSup x) true (regsOf f.n) = some ls → ls ≠ [] →
    (∀ g ∈ ls, g.x.d = true ∧ channelFull s (selCore x) g.x = false) → logRoom s (selCore x) recs.length = true →
    releases f.q.order = false → Reaches s x f.q f.n true false ls →
    ∃ t b, exec i s = .next t ∧ beamOf t x.key = some b ∧ Advanced x b ∧ b.stores = x.beam.stores ∧
      (∀ a, memGet t.mem a = memGet s.mem a) ∧ t.l2 = s.l2 ∧
      (coreOf t (selCore x)).log.map (fun e => e.1) =
        (coreOf s (selCore x)).log.map (fun e => e.1) ++ recs.map (BinItem.record [selCore x]) ∧
      (coreOf t (selCore x)).nextSeq = (coreOf s (selCore x)).nextSeq + BitVec.ofNat 32 recs.length ∧
      ∃ c, ⟨c, .logDrain (selCore x)⟩ ∈ t.agenda

/-- RED on a page without DEF buffers its lanes' operands for the point of R165 and changes no register (R157, R159, R164, R165,
R274). Rests also on the model's own choices and readings: log entry 6. -/
def Obligations.ReductionsPerform : Prop :=
  ∀ (s : State) (x : Sel) (i : Instr) (f : MemForm) (o : AtomOp) (bl : Block) (ga : Gang) (gr : Grid) (ls : List GLane), RedForm x i f o →
    Turn s x → homeOf s x.beam = some (bl, ga, gr) → ready x x.run [srcUse f.a 2, regUse f.d (f.n / 4)] [] = true →
    f.hits s x (selSup x) true (f.n / 4) = some ls → (∀ g ∈ ls, g.x.d = false) →
    (∀ g ∈ ls, redCheck (selCore x) (selSup x) o s g.x g.ea = none) → noLock s x f.n true ls = true →
    Reaches s x f.q f.n true true ls →
    let pieces : List Piece := ls.map fun g => ⟨g.lane, targetOf g.x, bytesLE f.n g.data.toNat⟩
    let y : Store := ⟨x.beam.nextId, .red o f.q, f.q.scope, selPc x, macroStepOf x, maskOf x.run, pieces⟩
    ∃ t b, exec i s = .next t ∧ beamOf t x.key = some b ∧ Advanced x b ∧
      (releases f.q.order = true → ls ≠ [] →
        storeOpen (beforeAccess (releaseAt s x.key f.q.scope) x.key (spansOf ls f.n)) (selCore x) y = true → b.stores = []) ∧
      (releases f.q.order = false → ls ≠ [] →
        Buffered s t x b (.red o f.q) f.q.scope pieces ∧
          (Untouched x.beam (spansOf ls f.n) → SameOutside s t x.key))

/-- WRITE_PERFORMED performs the buffered ST, STL or RED it names lane by lane and removes it; where no link carries it, it comes again
later (R152, R159, R161, R164, R165, R321). Rests also on the model's own choices and readings: log entries 6, 50. -/
def Obligations.StoresPerform : Prop :=
  ∀ (s : State) (core n id : Nat) (b : Beam), n < 64 → beamOf s (64 * core + n) = some b →
    (b.stores.filter (fun z => z.id == id) = [] → exec (.writePerformed core n id) s = .next s) ∧
    ∀ y, b.stores.filter (fun z => z.id == id) = [y] →
      let r := y.pieces.foldl (performPiece core y) (s, [])
      let c := { b with stores := b.stores.filter fun z => z.id != id }
      (storeOpen s core y = false → exec (.writePerformed core n id) s = .next (post s 40 (.writePerformed core n id))) ∧
      (storeOpen s core y = true → exec (.writePerformed core n id) s = .next (setBeam r.1 (64 * core + n) (if r.2 = [] then c else
        { c with waiting := insertTrap s.clk (uncorrectable y.run y.epc y.mstep r.2) b.waiting }))) ∧
      (y.kind = .plain → r = (y.pieces.foldl (fun s p => storePath s core p.target y.scope p.bytes) s, [])) ∧
      (y.kind = .loc → r = ({ s with mem := y.pieces.foldl (fun m p => memPut m (localBase 0 + p.target) p.bytes) s.mem }, [])) ∧
      ∀ o q, y.kind = .red o q →
        (∀ p rest, y.pieces = p :: rest → r.1 = (rest.foldl (performPiece core y) (performPiece core y (s, []) p)).1) ∧
        ∀ p, y.pieces = [p] →
          match atomPath s core p.target p.bytes.length q (fun v => some (atomNew o (8 * p.bytes.length) v (leNat p.bytes))) with
          | (some _, u) => r = (u, [])
          | (none, u) => (tgApc p.target = 1 → r = (u, [(p.lane, p.target)])) ∧
            (tgApc p.target ≠ 1 → tgApc p.target ≠ 2 → r = (poison u (partOfCore u core) (tgPa p.target), []))

/-- LDL empties its destinations and is unfinished at its core offset (R30, R138, R156, R157, R160). -/
def Obligations.LocalLoadsIssue : Prop :=
  ∀ (s : State) (x : Sel) (i : Instr) (f : MemForm) (bl : Block) (ga : Gang) (gr : Grid) (pl : Nat → Nat), LocalLoadForm x i f → Turn s x →
    homeOf s x.beam = some (bl, ga, gr) → ready x f.lanes [srcUse f.a 1] [regUse f.d (regsOf f.n)] = true →
    (∀ j ∈ f.lanes, (f.la x j).toNat % f.n = 0 ∧ localPlace s bl ga gr (f.la x j).toNat f.n = some (pl j) ∧
      lockHit s (pl j / 4194304) true (pl j) f.n false = none) →
    ∃ t b, exec i s = .next t ∧ beamOf t x.key = some b ∧ Advanced x b ∧ Emptied x b f.lanes f.d (regsOf f.n) ∧
      (Untouched x.beam (f.lanes.map fun j => ⟨true, pl j, f.n⟩) → SameOutside s t x.key) ∧
      (f.lanes ≠ [] → ⟨x.beam.nextId, wordOfInstr i, selPc x, macroStepOf x, maskOf x.run, f.d, regsOf f.n, .loadLocal f.n,
        f.lanes.map fun j => ⟨j, (f.la x j).setWidth 64, pl j, 0, 0, 0⟩⟩ ∈ b.pend)

/-- STL buffers its lanes' bytes for their resolved local addresses, which are then written in ascending lane order, and no other
byte (R138, R156, R157, R159, R160, R274). Rests also on the model's own choices and readings: log entry 6. -/
def Obligations.LocalStoresWrite : Prop :=
  ∀ (s : State) (x : Sel) (i : Instr) (f : MemForm) (bl : Block) (ga : Gang) (gr : Grid) (pl : Nat → Nat), LocalStoreForm x i f → Turn s x →
    homeOf s x.beam = some (bl, ga, gr) → ready x f.lanes [srcUse f.a 1, regUse f.d (regsOf f.n)] [] = true →
    (∀ j ∈ f.lanes, (f.la x j).toNat % f.n = 0 ∧ localPlace s bl ga gr (f.la x j).toNat f.n = some (pl j) ∧
      lockHit s (pl j / 4194304) true (pl j) f.n true = none) →
    let pieces : List Piece := f.lanes.map fun j => ⟨j, pl j, bytesLE f.n (f.data (regsOf f.n) x j).toNat⟩
    ∃ t b, exec i s = .next t ∧ beamOf t x.key = some b ∧ Advanced x b ∧
      (f.lanes ≠ [] → Buffered s t x b .loc .bm pieces) ∧
      (Untouched x.beam (f.lanes.map fun j => ⟨true, pl j, f.n⟩) → SameOutside s t x.key) ∧
      ∀ u c, beamOf u x.key = some c → c.stores = [⟨x.beam.nextId, .loc, .bm, selPc x, macroStepOf x, maskOf x.run, pieces⟩] →
        ∃ v, exec (.writePerformed (x.key / 64) (x.key % 64) x.beam.nextId) u = .next v ∧
          v.mem = f.lanes.foldl (fun m j => memPut m (localBase 0 + pl j) (bytesLE f.n (f.data (regsOf f.n) x j).toNat)) u.mem ∧
          (∀ a, (∀ j ∈ f.lanes, a < localBase 0 + pl j ∨ localBase 0 + pl j + f.n ≤ a) → memGet v.mem a = memGet u.mem a) ∧
          SameOutside u { v with mem := u.mem } x.key

/-- FENCE performs what it orders, PREF changes no register and takes no trap, CFLUSH drops the line it names (R162, R169, R170,
R171). Rests also on the model's own choices and readings: log entry 50. -/
def Obligations.FencesPrefetchesAndFlushes : Prop :=
  ∀ (s : State) (x : Sel), Turn s x →
    (∀ q, q.order ≠ .relaxed → syncShut (performAll s x.key) x.key q.scope = true →
      exec (.fence q) s = .next (tried (performAll s x.key) x.key)) ∧
    (∀ q, q.order = .relaxed ∨ syncShut (performAll s x.key) x.key q.scope = false → ∃ t b, exec (.fence q) s = .next t ∧ beamOf t x.key = some b ∧ (∀ j, (laneOf b j).regs = (laneOf x.beam j).regs ∧
        (laneOf b j).pc = (laneOf x.beam j).pc + (if j ∈ x.run then 4 else 0)) ∧
      (releases q.order = true → b.stores = [] ∧ ∀ p ∈ b.pend, isAccess p.kind = false)) ∧
    (∀ a, ready x x.run [srcUse a 2] [] = true →
      let r := x.run.map fun j => laneXlate s x.key x.beam (selSup x) false ⟨j, lanePair (laneOf x.beam j) a.r, 0⟩
      (walkLanes r ≠ [] → exec (.pref a) s = .next (tried (startWalks s x.key (selSup x) false (walkLanes r)) x.key)) ∧
      (walkLanes r = [] → LaneXl.shut ∉ r → (∀ g ∈ okLanes r, g.x.apc = 0 → canReach s (selCore x) g.x .gang false false = true) →
        ∃ t b, exec (.pref a) s = .next t ∧ beamOf t x.key = some b ∧ Advanced x b ∧
          b.pend = x.beam.pend ∧ b.stores = x.beam.stores)) ∧
    (∀ a j y, x.run = [j] → ready x x.run [srcUse a 2] [] = true →
      laneXlate s x.key x.beam (selSup x) true ⟨j, lanePair (laneOf x.beam j) a.r + dwordOf 0, 0⟩ =
        .ok ⟨j, lanePair (laneOf x.beam j) a.r + dwordOf 0, 0, y⟩ → y.apc = 0 → y.d = false →
      lockHit s (selCore x) false ((lanePair (laneOf x.beam j) a.r + dwordOf 0).toNat / 128 * 128) 128 true = none → canReach s (selCore x) y .dev true false = true →
      earlierShut s x.key [⟨false, tgPlace (targetOf y) / 128 * 128, 128⟩] = false →
      ∃ t b, exec (.cflush a) s = .next t ∧ beamOf t x.key = some b ∧ Advanced x b ∧
        look (coreOf t (selCore x)).l1 (y.pa / 128) = none ∧
        look t.l2 (l2Key (homeSector s (partOfCore s (selCore x)) y.pa) 0 y.pa) = none ∧
        look t.l2 (l2Key (selCore x / 4) 0 y.pa) = none)

/-- A misaligned lane traps first; a lane that cannot be translated is parked with its fault record; a page not in the TLB makes the
run wait for a walk (R90, R143, R144, R145, R157, R158, R284). -/
def Obligations.AccessChecksInOrder : Prop :=
  ∀ (s : State) (x : Sel) (i : Instr) (f : MemForm) (const : Bool), LoadForm x i f const → Turn s x →
    ready x f.lanes [srcUse f.a 2] [regUse f.d (regsOf f.n)] = true →
    let xl := fun j => laneXlate s x.key x.beam (selSup x) false ⟨j, f.ea x j, 0⟩
    let r := f.lanes.map xl
    (∀ j, f.lanes.find? (fun j => (f.ea x j).toNat % f.n != 0) = some j →
      exec i s = .next (trapped s x { trapOf x 0x06 with lane := j, addr := f.ea x j })) ∧
    ((∀ j ∈ f.lanes, (f.ea x j).toNat % f.n = 0) →
      (∀ va ∈ walkLanes r, (coreOf s (selCore x)).walks.length + (walkLanes r).length ≤ 32 → ∃ t b, exec i s = .next t ∧
        beamOf t x.key = some b ∧ b.lanes = x.beam.lanes ∧
        ∃ w ∈ (coreOf t (selCore x)).walks, walkServes s (selCore x) va w = true ∧ ⟨x.key, selSup x, false⟩ ∈ w.wants) ∧
      (walkLanes r = [] → LaneXl.shut ∉ r → poorLanes r = [] → (∀ g ∈ okLanes r, loadCheck (selCore x) f.n const (selSup x) s g.x g.ea = none) →
        noLock s x f.n false (okLanes r) = true → LoadGoes (parkLanes s x.key (badLanes r 0)) x f const (okLanes r) →
        (∃ j ∈ lanesIn x.beam .runnable, j ∉ (badLanes r 0).map fun p => p.1) → ∃ t b, exec i s = .next t ∧ beamOf t x.key = some b ∧
          (∀ j ∈ f.lanes, ∀ c, xl j = .fault j (f.ea x j) c → (laneOf b j).state = .parked ∧ (laneOf b j).pc = (laneOf x.beam j).pc ∧
            (laneOf b j).regs = (laneOf x.beam j).regs ∧ (laneOf b j).empty = (laneOf x.beam j).empty ∧
            (laneOf b j).frec = BitVec.ofNat 128 (2 ^ 64 * (f.ea x j).toNat + 2 ^ 12 * c.cause + 2 ^ 10 * c.level)) ∧
          (∀ j ∈ x.run, j ∉ ((badLanes r 0).map fun p => p.1) → (laneOf b j).state = .runnable ∧
            (laneOf b j).pc = (laneOf x.beam j).pc + 4 ∧ (laneOf b j).regs = (laneOf x.beam j).regs) ∧
          (∀ g ∈ okLanes r, ∀ e, f.d ≤ e → e < f.d + regsOf f.n → e ∈ (laneOf b g.lane).empty) ∧
          (okLanes r ≠ [] → acquires f.q.order = false → (∀ g ∈ okLanes r, g.x.apc ≠ 3) →
            ⟨x.beam.nextId, wordOfInstr i, selPc x, macroStepOf x, maskOf x.run, f.d, regsOf f.n, .load f.n f.q.scope const, (okLanes r).map pendLane⟩ ∈ b.pend)))

/-- PAGE_WALK_COMPLETE puts a leaf that serves a waiting access into the TLB, and tells what waits what the walk has found (R90,
R143, R144). Rests also on the model's own choices and readings: log entry 50. -/
def Obligations.WalksComplete : Prop :=
  ∀ (s : State) (core id : Nat) (w : Walk), (coreOf s core).walks.find? (fun w => w.id == id) = some w →
    let part := partOfCore s core
    let r := walkTables s (some (quarterOf core)) part w.va
    (r = .shut → exec (.pageWalkComplete core id) s = .next (postFree s 0 (.pageWalkComplete core id))) ∧
    (r ≠ .shut → ∃ t, exec (.pageWalkComplete core id) s = .next t ∧ (∀ a, memGet t.mem a = memGet s.mem a) ∧
      (coreOf t core).walks = (coreOf s core).walks.filter (fun y => y.id != id) ∧
      (∀ y ∈ w.wants, y.key < 4096 → ∀ b, beamOf s y.key = some b →
        ∃ c, beamOf t y.key = some c ∧ ⟨w.va, r⟩ ∈ c.told ∧ c.lanes = b.lanes) ∧
      (∀ y ∈ w.wants, 4096 ≤ y.key → ⟨w.va, r⟩ ∈ (coreOf t core).told) ∧
      (∀ e, r = .leaf e → (∃ y ∈ w.wants, ∃ z, applyLeaf s part e w.va y.sup y.write = .ok z) →
        (coreOf t core).tlb = tlbAdd s.fresh (coreOf s core).tlb e) ∧
      ((∀ e, r = .leaf e → ∀ y ∈ w.wants, ∀ z, applyLeaf s part e w.va y.sup y.write ≠ .ok z) → (coreOf t core).tlb = (coreOf s core).tlb))

/-! ## Tape and launch (R73-R75) -/

/-- An instruction of the beam that releases at a scope waits: a trap of one of its earlier accesses comes first (R152), or one of these,
or a dirty byte that the release writes back, cannot travel (R317, R321). -/
def heldBack (s : State) (x : Sel) (sc : Scope) : Bool :=
  trapWaits (performAll s x.key) x.key || syncShut (performAll s x.key) x.key sc

/-- The lanes of the run take a value into one register, full, and go on; nothing else of any lane differs. -/
def Delivered (x : Sel) (b : Beam) (d : Nat) (v : Nat → Word) : Prop :=
  ∀ j, SameButRegs (laneOf x.beam j) (laneOf b j) [regUse d 1] ∧ (laneOf b j).preds = (laneOf x.beam j).preds ∧
    (laneOf b j).pc = (laneOf x.beam j).pc + (if j ∈ x.run then 4 else 0) ∧
    (j ∈ x.run → laneReg (laneOf b j) d = v j ∧ d ∉ (laneOf b j).empty)

/-- TAPE pushes the run's records and moves the tape's top; LAUNCH answers 0, 1 or 2 in its destination and moves the tail (R74,
R75, R64, R65, R152, R319). Rests also on the model's own choices and readings: log entries 17, 50. -/
def Obligations.TapeAndLaunch : Prop :=
  ∀ (s : State) (x : Sel) (a : Src) (bl : Block) (g : Gang) (gr : Grid), Turn s x → homeOf s x.beam = some (bl, g, gr) →
    ready x x.run [srcUse a 1] [] = true →
    let u := releaseAt s x.key .dev
    let held := heldBack s x .dev
    (held = true → exec (.tape a) s = .next (waited (performAll s x.key) x) ∧ ∀ d, ready x x.run [srcUse a 1] [regUse d 1] = true →
      exec (.launch a d) s = .next (waited (performAll s x.key) x)) ∧
    (held = false → gr.tapeon = false → exec (.tape a) s = .next (trapped u x { trapOf x 0x10 with lanes := maskOf x.run })) ∧
    (∀ tr, held = false → gr.tapeon = true → eachLane (tapeLane x u bl g gr a) x.run = .error tr →
      exec (.tape a) s = .next (trapped u x tr)) ∧
    (∀ ls, held = false → gr.tapeon = true → eachLane (tapeLane x u bl g gr a) x.run = .ok ls →
      let top := lqTape u gr.queue 10
      let end_ := top + 256 * x.run.length
      let open_ := (upTo ls.length).all fun i => slotOpen u (selCore x) (selPart u x) (top + 256 * i)
      (end_ ≤ lqTape u gr.queue 8 → open_ = false → exec (.tape a) s = .next (waited u x)) ∧
      (end_ ≤ lqTape u gr.queue 8 → open_ = true → ∃ t b, exec (.tape a) s = .next t ∧ beamOf t x.key = some b ∧ Advanced x b ∧ lqTape t gr.queue 10 = end_ ∧
        t.mem = (tapeWrite (selPart u x) (lqPut64 u gr.queue 10 end_) top (ls.map (tapeRecord u bl))).mem) ∧
      (lqTape u gr.queue 8 < end_ → exec (.tape a) s = .next (trapped u x { trapOf x 0x10 with lanes := maskOf x.run }))) ∧
    (∀ d i tr, held = false → x.run = [i] → ready x x.run [srcUse a 1] [regUse d 1] = true →
      recordPlace x u bl g gr a i = .error tr → exec (.launch a d) s = .next (trapped u x tr)) ∧
    (∀ d i p, held = false → x.run = [i] → ready x x.run [srcUse a 1] [regUse d 1] = true → recordPlace x u bl g gr a i = .ok p →
      let l := localBytes u p 256
      let q := pkQsel l
      let shut := partOfQueue u q ≠ selPart u x ∨ lqEn u q = false ∨ lqDev u q = false ∨ tailHeld u q = true
      (shut → ∃ t b, exec (.launch a d) s = .next t ∧ beamOf t x.key = some b ∧ Delivered x b d fun _ => 2) ∧
      (partOfQueue u q = selPart u x ∧ lqEn u q = true ∧ lqDev u q = true ∧ tailHeld u q = false →
        ((lqTl u q + 1) % lqN u q = lqHd u q → ∃ t b, exec (.launch a d) s = .next t ∧ beamOf t x.key = some b ∧
          Delivered x b d fun _ => 1) ∧
        ((lqTl u q + 1) % lqN u q ≠ lqHd u q → slotOpen u (selCore x) (selPart u x) (lqBase u q + 256 * lqTl u q) = false →
          exec (.launch a d) s = .next (waited u x)) ∧
        ((lqTl u q + 1) % lqN u q ≠ lqHd u q → slotOpen u (selCore x) (selPart u x) (lqBase u q + 256 * lqTl u q) = true → ∀ w, schedWrite (selPart u x) false 3 u (lqBase u q + 256 * lqTl u q) l = some w →
          ∃ t b, exec (.launch a d) s = .next t ∧ beamOf t x.key = some b ∧ (Delivered x b d fun _ => 0) ∧
            lqTl t q = (lqTl u q + 1) % lqN u q)))

/-- A COMMIT holds its beam until the markers have passed its logs and every fold has acknowledged; DSTAT reads the core's log
(R175, R187, R188, R189, R190, R192, R317). Rests also on the model's own choices and readings: log entries 42, 50. -/
def Obligations.CommitsWait : Prop :=
  ∀ (s : State), (∀ (x : Sel), Turn s x →
      (∀ i logs d pod, (i, logs, d, pod) ∈ [(Instr.commitBlk, [selCore x], 0, false), (Instr.commitGrid, hgCores s (selCore x), 40, false),
          (Instr.commitPod, hgCores s (selCore x), 40, true)] →
        ∃ t b, exec (i) s = .next t ∧ beamOf t x.key = some b ∧ Advanced x b ∧ b.hold = .commit s.nextKey ∧
          (∀ r, memGet t.mem r = memGet s.mem r) ∧ ⟨s.clk + d + 1, .hgCommitMarkerDelivery s.nextKey⟩ ∈ t.agenda ∧
          (∃ m, look t.commits s.nextKey = some m ∧ m.beams = [x.key] ∧ m.logs = logs ∧ m.started = false ∧ m.done = false ∧
            m.acks = [] ∧ m.fault = none ∧
            m.extra = (selCore x, ((look s.blocks x.beam.block).map fun b => b.past).getD []) ∧ m.pods = if pod then podPeers s (selPart s x) else []) ∧
          ∀ p ∈ podPeers s (selPart s x), pod = true → ∀ l, podLink s p = some l →
            .podMarker l p (podSelf s) s.nextKey ∈ t.sent) ∧
      (∀ d, ready x x.run [] [regUse d 1] = true → ∃ t b, exec (.dstat d) s = .next t ∧ beamOf t x.key = some b ∧
        SameOutside s t x.key ∧ Delivered x b d fun _ => BitVec.ofNat 32 ((if (coreOf s (selCore x)).fullBits.isEmpty then 0 else 2 ^ 31) +
          65536 * logUsed s (selCore x) + (coreOf s (selCore x)).nextSeq.toNat % 65536))) ∧
    (∀ c m, look s.commits c = some m →
      (m.started = false → m.logs.Nodup → ∃ t, exec (.hgCommitMarkerDelivery c) s = .next t ∧ (∀ r, memGet t.mem r = memGet s.mem r) ∧
        (∃ m', look t.commits c = some m' ∧ m'.started = true ∧ m'.logs = m.logs ∧ m'.beams = m.beams ∧
          ∀ k ∈ m.logs, look m'.seqHi k = some ((coreOf s k).nextSeq - 1)) ∧
        ∀ k, (coreOf t k).log = (coreOf s k).log ++ if k ∈ m.logs then [(.mark c k [], 0)] else []) ∧
      (m.done = false → commitReady s m = true → m.beams.Nodup → ∃ t, exec (.commitComplete c) s = .next t ∧ (m.tickets = 0 → look t.commits c = none) ∧
        (∀ g, m.grid = some g → ⟨s.clk, .completionWordWrite g⟩ ∈ t.agenda) ∧
        (∀ d n l, m.origin = some (d, n) → podLink s d = some l → .podAck l d (podSelf s) n m.fault ∈ t.sent) ∧
        ∀ k ∈ m.beams, ∀ b, beamOf s k = some b → b.hold = .commit c → ∃ b', beamOf t k = some b' ∧ b'.hold = .none ∧
          b'.lanes = b.lanes ∧ (m.fault = none → b'.waiting = b.waiting) ∧
          ∀ f, m.fault = some f → ∃ tr, b'.waiting = insertTrap s.clk tr b.waiting ∧ tr.code = 0x0D) ∧
      (commitReady s m = false → exec (.commitComplete c) s = .next s) ∧
      (m.done = true → exec (.commitComplete c) s = .next s) ∧
      (∀ d f, ∃ t, exec (.podAcknowledgementArrival (podSelf s, d) (c, f)) s = .next t ∧ ⟨s.clk, .commitComplete c⟩ ∈ t.agenda ∧
        look t.commits c = some { m with
          pods := m.pods.filter fun p => p != d
          fault := match m.fault with
            | some g => some g
            | none => f })) ∧
    (∀ far d n f, far ≠ podSelf s →
      (podLink s far = none → exec (.podAcknowledgementArrival (far, d) (n, f)) s = .next s ∧ exec (.podMarkerArrival (far, d) n) s = .next s) ∧
      ∀ l, podLink s far = some l →
        exec (.podAcknowledgementArrival (far, d) (n, f)) s = .next { s with sent := s.sent ++ [.podAck l far d n f] } ∧
        exec (.podMarkerArrival (far, d) n) s = .next { s with sent := s.sent ++ [.podMarker l far d n] }) ∧
    (∀ d n, let part := podPart s
      (podMember s part d = true → ∃ t, exec (.podMarkerArrival (podSelf s, d) n) s = .next t ∧ ∃ m, look t.commits s.nextKey = some m ∧ m.origin = some (d, n) ∧
        m.logs = coresOf s part ∧ ⟨s.clk + 1, .hgCommitMarkerDelivery s.nextKey⟩ ∈ t.agenda) ∧
      (podMember s part d = false → exec (.podMarkerArrival (podSelf s, d) n) s = .next s)) ∧
    (∀ d, ∃ t, exec (.podDeviceUnreachable d true) s = .next t ∧ d ∈ t.down) ∧
    (∀ d, ∃ t, exec (.podDeviceUnreachable d false) s = .next t ∧ d ∉ t.down ∧ ∀ m ∈ s.commits, ⟨s.clk, .commitComplete m.1⟩ ∈ t.agenda)

/-- Logs drain oldest first into bins, bins ship and age, engines take deltas, and a fold writes its blocks and acknowledges (R174,
R176, R177, R178, R179, R180, R183, R184, R187, R190). Rests also on the model's own choices and readings: log entries 21, 34. -/
def Obligations.DeferredEvents : Prop :=
  ∀ (s : State),
    (∀ core, ((coreOf s core).log = [] → exec (.logDrain core) s = .next s) ∧
      (∀ c k l n rest, (coreOf s core).log = (.mark c k l, n) :: rest → ∃ t, exec (.logDrain core) s = .next t ∧ (coreOf t core).log = rest ∧
        (coreOf t core).touched = [] ∧ ∀ m, look s.commits c = some m → ∃ m', look t.commits c = some m' ∧
          m'.acks = m.acks ++ withAll (markChannels s core c) (extraChannels s core c) ∧ m'.logs = dropOne core m.logs) ∧
      (∀ ks r n rest, (coreOf s core).log = (.record ks r, n) :: rest →
        let ch := channelOfRecord s core r
        let bin := binKey (core / 4) ch
        (binBlocked s bin = true ∧ 128 ≤ (binOf s bin).items.length → ∃ t, exec (.logDrain core) s = .next t ∧ t.cores = s.cores ∧ t.bins = s.bins ∧
          ∃ d, ⟨d, .logDrain core⟩ ∈ t.agenda ∧ s.clk < d) ∧
        (binBlocked s bin = false ∨ (binOf s bin).items.length < 128 → ∃ t, exec (.logDrain core) s = .next t ∧ (coreOf t core).log = rest ∧
          ch ∈ (coreOf t core).touched ∧ (∀ a, memGet t.mem a = memGet s.mem a) ∧
          ((binOf s bin).items = [] → leavingRecord s ks r = false → (binOf t bin).items = [.record ks r])))) ∧
    (∀ sector bin, let k := 256 * sector + bin
      let age := csrN s (partOfSector s (sector % 12)) 0x200
      age ≠ 0 → (binOf s k).last + age ≤ s.clk → (binOf s k).items ≠ [] → (binOf s k).items.length ≤ 128 → binBlocked s k = false →
      ∃ t, exec (.binAgeExpiry sector bin) s = .next t ∧ (binOf t k).items = [] ∧ ∃ c, s.clk < c ∧
        ⟨c, if isChannelBin k then .binPacketArrival (channelOfBin k) (binOf s k).items
          else .binRingArrival (ringTarget (k / 256) (k % 256 - 128)) (binOf s k).items⟩ ∈ t.agenda) ∧
    (∀ sector ks r, let k := binKey sector (channelOfRecord s (leastD 0 ks) r)
      (binOf s k).items = [] → leavingRecord s ks r = false →
      ∃ t, exec (.binRingArrival sector [.record ks r]) s = .next t ∧ (binOf t k).items = [.record ks r]) ∧
    (∀ ch ks r, ((applyOf s ch).full = false → ∃ t, exec (.binPacketArrival ch [.record ks r]) s = .next t ∧ 
        (applyOf t ch).deltas = takeDelta (deltaSpace s ch) (applyOf s ch).deltas r ∧ ∀ a, memGet t.mem a = memGet s.mem a) ∧
      ((applyOf s ch).full = true → ∃ t, exec (.binPacketArrival ch [.record ks r]) s = .next t ∧ (applyOf t ch).deltas = (applyOf s ch).deltas ∧
        (applyOf t ch).held = (applyOf s ch).held ++ [[.record ks r]])) ∧
    (∀ ch c k l, let a := applyOf s ch
      (a.full = false ∨ a.held.any (oneBin ch [.mark c k l]) = false → ∃ t, exec (.binPacketArrival ch [.mark c k l]) s = .next t ∧ 
        ⟨s.clk, .applyMarkerArrival ch (c, none)⟩ ∈ t.agenda ∧ (applyOf t ch).held = a.held ∧ (applyOf t ch).deltas = a.deltas) ∧
      (a.full = true → a.held.any (oneBin ch [.mark c k l]) = true → ∃ t, exec (.binPacketArrival ch [.mark c k l]) s = .next t ∧ 
        ⟨s.clk, .applyMarkerArrival ch (c, some (senderOf ch (.mark c k l)))⟩ ∈ t.agenda ∧ (applyOf t ch).held = a.held ++ [[.mark c k l]] ∧
        (applyOf t ch).deltas = a.deltas)) ∧
    (∀ ch c q, ((applyOf s ch).fold = none → ∃ t, exec (.applyMarkerArrival ch (c, q)) s = .next t ∧ (applyOf t ch).fold = some (c, q) ∧
        (applyOf t ch).deltas = (applyOf s ch).deltas ∧
        (applyOf t ch).todo = foldOrder s (partOfQuarter s (quarterOfChannel ch)) (applyOf s ch).deltas ∧
        ∃ d i, t.agenda = s.agenda ++ [⟨d, i⟩] ∧ s.clk < d ∧
          (i = .foldRefreshYield ch ∨ i = .foldReadYield ch ∨ i = .foldComplete ch)) ∧
      ((applyOf s ch).fold ≠ none → ∃ t, exec (.applyMarkerArrival ch (c, q)) s = .next t ∧ (applyOf t ch).fold = (applyOf s ch).fold ∧
        (applyOf t ch).queued = (applyOf s ch).queued ++ [(c, q)])) ∧
    (∀ ch, (applyOf s ch).fold = none → ∀ i, i = .foldRefreshYield ch ∨ i = .foldReadYield ch ∨ i = .foldComplete ch →
      exec i s = .next s) ∧
    (∀ ch, (applyOf s ch).fold ≠ none →
      (∃ t, exec (.foldReadYield ch) s = .next t ∧ (applyOf t ch).fold = (applyOf s ch).fold ∧ ∃ n, 1 ≤ n ∧
        t.mem = (foldSome ch n s).mem ∧ (applyOf t ch).todo = (applyOf s ch).todo.drop n ∧
        ((applyOf s ch).full = false → (applyOf t ch).deltas = (applyOf (foldSome ch n s) ch).deltas)) ∧
      (∃ t, exec (.foldRefreshYield ch) s = .next t ∧ (applyOf t ch).fold = (applyOf s ch).fold ∧ ∃ n,
        t.mem = (foldSome ch n s).mem ∧ (applyOf t ch).todo = (applyOf s ch).todo.drop n ∧
        ((applyOf s ch).full = false → (applyOf t ch).deltas.map (fun d => { d with buffered := false }) =
          (applyOf (foldSome ch n s) ch).deltas.map fun d => { d with buffered := false }))) ∧
    (∀ ch c q, (applyOf s ch).fold = some (c, q) → let u := foldAll s ch
      ∃ t, exec (.foldComplete ch) s = .next t ∧ t.mem = u.mem ∧
        ((applyOf s ch).full = false → (applyOf t ch).deltas = (applyOf u ch).deltas) ∧
        ((applyOf s ch).queued = [] → (applyOf t ch).fold = none) ∧
        (∀ d, (applyOf s ch).deltas = [d] → (applyOf s ch).todo = [d.pa / 512] →
          let part := partOfQuarter s (quarterOfChannel ch)
          let n := szBits d.sz
          (blockBad s part (512 * (d.pa / 512)) = false → d.spill = false →
            t.mem = (nearBlockWrite s part d.pa (bytesLE (n / 8)
              (dopApply d.op n (leNat (nearBlockRead s part d.pa (n / 8))) d.value.toNat))).mem) ∧
          (blockBad s part (512 * (d.pa / 512)) = true → t.mem = (poison s part (512 * (d.pa / 512))).mem ∧
            ((applyOf s ch).met = none → (applyOf u ch).met =
              some (d.pa / 512, if blockPoisoned s part (512 * (d.pa / 512)) then 1 else 0)))) ∧
        ∀ m, look s.commits c = some m → ∃ m', look t.commits c = some m' ∧
          m'.acks = (if q.isSome then m.acks else dropOne ch m.acks) ∧
          m'.fault = (match m.fault with
            | some f => some f
            | none => (applyOf u ch).met)) ∧
    (∀ core ch full, ∃ t, exec (.fullStateNotice core ch full) s = .next t ∧ (full = true → ch ∈ (coreOf t core).fullBits) ∧
      (full = false → ch ∉ (coreOf t core).fullBits) ∧ (coreOf t core).log = (coreOf s core).log)

/-- BFREE, BTEST and the two BWAITs do what the state in which their clock found the handle says, and change no register (R194,
R195, R196, R291). -/
def Obligations.BufferStates : Prop :=
  ∀ (s : State) (x : Sel) (bl : Block) (g : Gang) (gr : Grid) (h : Nat), Turn s x → homeOf s x.beam = some (bl, g, gr) →
    let trap := Host.Outcome.next (trapped s x (handleTrap x h noField))
    (∀ e, entryOf bl h = some e →
      let y := handleSeen s (selCore x) e
      let w := handleAt s (selCore x) e
      let goes := fun i => ∃ t b, exec i s = .next t ∧ beamOf t x.key = some b ∧ Advanced x b ∧ SameOutside s t x.key
      (y.state = .free → goes (.bfree h)) ∧
      (y.state = .full ∨ y.state = .draining → ∃ t b, exec (.bfree h) s = .next t ∧ beamOf t x.key = some b ∧ Advanced x b ∧ t.mem = s.mem ∧
        (w.state = .full → handleAt t (selCore x) e = { w with state := .free }) ∧
        (w.state = .draining → handleAt t (selCore x) e = { w with pf := true }) ∧
        (w.state = .free ∨ w.state = .filling → handleAt t (selCore x) e = w)) ∧
      (y.state = .filling → exec (.bfree h) s = trap) ∧
      (∀ st pd, ∃ t b, exec (.btest st h pd) s = .next t ∧ beamOf t x.key = some b ∧ SameOutside s t x.key ∧
        ∀ j, SameButRegs (laneOf x.beam j) (laneOf b j) [] ∧ (j ∈ x.run →
          (laneOf b j).pc = (laneOf x.beam j).pc + 4 ∧ (laneOf b j).preds = (laneSetPred (laneOf x.beam j) pd (y.state == st)).preds)) ∧
      (y.state = .free → goes (.bwaitFree h) ∧ exec (.bwaitFull h) s = trap) ∧
      (y.state = .filling → exec (.bwaitFree h) s = trap ∧ exec (.bwaitFull h) s = .next (waited s x)) ∧
      (y.state = .draining → goes (.bwaitFull h) ∧ (y.pf = true → exec (.bwaitFree h) s = .next (waited s x)) ∧
        (y.pf = false → exec (.bwaitFree h) s = trap)) ∧
      (y.state = .full → y.err = 0 → goes (.bwaitFull h) ∧ exec (.bwaitFree h) s = trap) ∧
      (y.state = .full → y.err ≠ 0 → ∀ i, i = .bwaitFree h ∨ i = .bwaitFull h →
        exec i s = .next (trapped s x { trapOf x y.err with
          reg := h, record := statusWord y, addr := y.eva }))) ∧
    (entryOf bl h = none → ∀ i, (i = .bfree h ∨ i = .bwaitFree h ∨ i = .bwaitFull h ∨ ∃ st pd, i = .btest st h pd) → exec i s = trap)

/-! ## Engine requests (R193-R211) -/

/-- A request of one lane that passes every check of R193 and R197, in the state u in which the beam's earlier accesses are performed:
its block lies at a core offset, its plan holds, its pages are translated. -/
structure Asks (s u : State) (x : Sel) (a : Src) (h size e : Nat) (bl : Block) (g : Gang) (gr : Grid) (q : List Byte)
    (p : Except Trap Plan) (y : Plan) (pages : NMap Nat) : Prop where
  turn : Turn s x
  acts : u = releaseAt s x.key .dev
  calm : heldBack s x .dev = false
  home : homeOf s x.beam = some (bl, g, gr)
  full : ready x x.run [srcUse a 1] [] = true
  one : x.run.length = 1
  entry : entryOf bl h = some e
  free : (handleAt u (selCore x) e).state = .free
  aligned : (laneReg (laneOf x.beam (leastD 0 x.run)) a.r).toNat % 16 = 0
  place : ∃ t, localPlace u bl g gr (laneReg (laneOf x.beam (leastD 0 x.run)) a.r).toNat size = some t ∧ q = localBytes u t size
  plan : p = .ok y
  found : planPages (selCore x) (selSup x) x.beam.told u y.xl [] = .ok pages

/-- Something keeps a request from starting: a lock meets its ranges, or the lock tables, the reader count or the links do not serve it, or
an access of the cluster's beams is still to be performed. -/
def blocked (u : State) (x : Sel) (y : Plan) (pages : NMap Nat) : Bool :=
  y.busy || !locksFree u (selCore x) y.ranges || !pagesOpen u (selCore x) pages || clusterOwes (settleCluster u (selCore x)) (selCore x)

/-- What its read of its source has to wait for first. -/
def sourceWait (u : State) (x : Sel) (y : Plan) : Option EngineStop := readWait (y.reads (settleCluster u (selCore x)))

/-- Nothing keeps a request from starting. -/
def fits (u : State) (x : Sel) (y : Plan) (pages : NMap Nat) : Bool := !blocked u x y pages && (sourceWait u x y).isNone

/-- A handle starts its next instance in a state. -/
def Started (u t : State) (core e : Nat) (st : HState) : Prop :=
  (handleAt t core e).state = st ∧ (handleAt t core e).inst = ((handleAt u core e).inst + 1) % 65536

/-- An operation holds what a read gave: all the bytes, or those before the first failed read and its trap code and address; one that
first needs a walk or a link has read nothing. -/
def HasRead (o : EngineOp) (r : List Byte × Option EngineStop) : Prop :=
  (r.2 = none → o.ready = true ∧ o.data = r.1 ∧ o.err = none) ∧
    (∀ c va, r.2 = some (.fail c va) → o.ready = true ∧ o.data = r.1 ∧ o.err = some (c, va)) ∧
    ((∃ va, r.2 = some (.walk va)) ∨ r.2 = some .shut → o.ready = false)

/-- The handle whose range a COPY reads, where its source is a handle. -/
def copySource (bl : Block) (q : List Byte) : Option Nat := if cpSsp q = 2 then entryOf bl (cpHsrc q) else none

/-- The state in which a COPY reads its source: every access of its cluster performed, its locks taken, its instance started, and the
handle that it reads Draining. -/
def copyReads (u : State) (core e h : Nat) (y : Plan) (bl : Block) (q : List Byte) : State :=
  readerBegin (newInstance (takeLocks u core e h y.ranges) core e fun z =>
    { z with state := .filling, remain := cpTotal q, range := y.ranges.head?.map fun r => r.1 }) core (copySource bl q)

/-- COPY, OFFL, RECALL and DECODE that pass their checks start a new instance of their handle and an operation for it (R193, R195,
R197, R198, R200, R205, R206, R207, R209, R278). Rests also on the model's own choices and readings: log entries 36, 50. -/
def Obligations.RequestsBegin : Prop :=
  ∀ (s u : State) (x : Sel) (a : Src) (h e : Nat) (bl : Block) (g : Gang) (gr : Grid) (q : List Byte) (y : Plan) (pages : NMap Nat),
    (Asks s u x a h 128 e bl g gr q (copyPlan x (.copy a h) h u bl g gr e q) y pages → fits u x y pages = true → ∃ t b, exec (.copy a h) s = .next t ∧ beamOf t x.key = some b ∧ Advanced x b ∧ Started u t (selCore x) e .filling ∧
      (handleAt t (selCore x) e).remain = cpTotal q ∧
      (∃ c, ⟨c, .copyComplete (selCore x) e (handleAt t (selCore x) e).inst⟩ ∈ t.agenda ∧ s.clk < c) ∧
      ∃ o ∈ (coreOf t (selCore x)).copies, o.handle = some e ∧ o.inst = (handleAt t (selCore x) e).inst ∧ o.instr = .copy a h ∧
        o.params = q ∧ o.pages = pages ∧ o.source = copySource bl q ∧ o.block = x.beam.block ∧ o.args.head? = some (selSup x).toNat ∧
        HasRead o (copyAll (copyReads u (selCore x) e h y bl q) o (selCore x))) ∧
    (Asks s u x a h 32 e bl g gr q (offlPlan x (.offl a h) h u bl g gr e q) y pages → fits u x y pages = true → ∃ t b, exec (.offl a h) s = .next t ∧ beamOf t x.key = some b ∧ Advanced x b ∧ Started u t (selCore x) e .draining ∧
      (handleAt t (selCore x) e).pf = true ∧ ∃ o ∈ (coreOf t (selCore x)).copies, o.handle = some e ∧ o.instr = .offl a h ∧ o.params = q) ∧
    (Asks s u x a h 48 e bl g gr q (recallPlan x (.recallCopy a h) h u bl g gr e q) y pages → fits u x y pages = true →
      (((offlNamed u (flOffh q)).bind fun p => (handleAt u p.1 p.2).range) = none → ∃ t b, exec (.recallCopy a h) s = .next t ∧ beamOf t x.key = some b ∧ Advanced x b ∧ Started u t (selCore x) e .filling ∧
        ∃ o ∈ (coreOf t (selCore x)).copies, o.handle = some e ∧ o.instr = .recallCopy a h ∧ o.params = q) ∧
      (∀ oc oe r d, offlNamed u (flOffh q) = some (oc, oe) → (handleAt u oc oe).range = some r →
        requestRange u bl g gr (flLoc q) (flAddr q) (flLen q) = .ok d →
        (r = d → ∃ t b, exec (.recallCopy a h) s = .next t ∧ beamOf t x.key = some b ∧ Advanced x b ∧ Started u t (selCore x) e .full ∧ (handleAt t (selCore x) e).err = 0 ∧
          (handleAt t (selCore x) e).range = some d ∧ (handleAt t oc oe).pf = false) ∧
        (r ≠ d → ∃ t b, exec (.recallCopy a h) s = .next t ∧ beamOf t x.key = some b ∧ Advanced x b ∧ Started u t (selCore x) e .filling ∧
          (∃ c, ⟨c, .copyComplete (selCore x) e (handleAt t (selCore x) e).inst⟩ ∈ t.agenda ∧ s.clk < c) ∧
          ∃ o ∈ (coreOf t (selCore x)).copies, o.handle = some e ∧ o.instr = .recallCopy a h ∧ o.params = q))) ∧
    (Asks s u x a h 64 e bl g gr q (decodePlan x (.decode a h) h u bl g gr e q) y pages → fits u x y pages = true → ∃ t b, exec (.decode a h) s = .next t ∧ beamOf t x.key = some b ∧ Advanced x b ∧ Started u t (selCore x) e .filling ∧
      ⟨s.clk + 1, .decodeStart (selCore x / 12)⟩ ∈ t.agenda ∧
      ∃ o, lookD t.decodeQ (selCore x / 12) [] = lookD s.decodeQ (selCore x / 12) [] ++ [o] ∧ o.handle = some e ∧ o.params = q) ∧
    (∀ i size p, (i, size, p) ∈ [(Instr.copy a h, 128, copyPlan x (.copy a h) h u bl g gr e q),
        (Instr.offl a h, 32, offlPlan x (.offl a h) h u bl g gr e q),
        (Instr.recallCopy a h, 48, recallPlan x (.recallCopy a h) h u bl g gr e q),
        (Instr.decode a h, 64, decodePlan x (.decode a h) h u bl g gr e q)] →
      Asks s u x a h size e bl g gr q p y pages →
        (blocked u x y pages = true → exec i s = .next (waited u x)) ∧
        (blocked u x y pages = false → (sourceWait u x y).isSome = true →
          exec i s = .next (waited (engineAsk u (selCore x) (selSup x) (y.reads (settleCluster u (selCore x)))) x))) ∧
    (Turn s x → homeOf s x.beam = some (bl, g, gr) → ready x x.run [srcUse a 1] [] = true → u = releaseAt s x.key .dev →
      ∀ i, i = .copy a h ∨ i = .offl a h ∨ i = .recallCopy a h ∨ i = .decode a h →
        (heldBack s x .dev = true → exec i s = .next (waited (performAll s x.key) x)) ∧
        (heldBack s x .dev = false → entryOf bl h = some e → (handleAt u (selCore x) e).state ≠ .free →
          exec i s = .next (trapped u x (handleTrap x h noField))))

/-- COPY_COMPLETE, NVME_COMPLETION and DECODE_COMPLETE end their operation: data moved, handle Full, or Free after OFFL, locks gone
(R195, R200, R201, R203, R204, R206, R207, R208, R211). Rests also on the model's own choices and readings: log entries 11, 36, 50.
-/
def Obligations.RequestsEnd : Prop :=
  ∀ (s : State),
    (∀ core h inst, (opOf s core h inst = none → exec (.copyComplete core h inst) s = .next s) ∧
      (∀ o, opOf s core h inst = some o →
        let w := rangeFinish s core o.pages ((handleAt s core h).range.getD ⟨true, 0, 0⟩) 0 o.written o.data
        (pagesOpen s core o.pages = false → ∃ t, exec (.copyComplete core h inst) s = .next t ∧ opOf t core h inst = some o ∧ t.mem = s.mem ∧
          ∃ c, ⟨c, .copyComplete core h inst⟩ ∈ t.agenda ∧ s.clk < c) ∧
        (pagesOpen s core o.pages = true → ∃ t, exec (.copyComplete core h inst) s = .next t ∧ t.mem = w.mem ∧ t.beams = w.beams ∧ opOf t core h inst = none ∧
          (handleAt t core h).state = .full ∧ (handleAt t core h).err = (o.err.map fun e => e.1).getD 0 ∧
          ∀ c, ∀ l ∈ (coreOf t c).locks, ¬ (l.core = core ∧ l.entry = h)))) ∧
    (∀ qp cid sqhead status, let i := Instr.nvmeCompletion qp (cid, sqhead) status
      let s1 := fqPut s qp (cqPlace s qp) (cqe s qp cid sqhead status (flashOf s qp).phase)
      let bad := fillBad s1 (fqPart s1 qp) 0 (cqPlace s qp)
      let e := homeRead s1 (fqPart s1 qp) (cqPlace s qp) 16
      (((flashOf s qp).out.any fun c => c.cid == cid) = false → exec i s = .next s) ∧
      (((flashOf s qp).out.any fun c => c.cid == cid) = true →
        (fqOpen s qp (cqPlace s qp) = false → exec i s = .next (post s 40 i)) ∧
        (fqOpen s qp (cqPlace s qp) = true → bad = true → exec i s = .next (csrPut s1 0 (fq qp 11) (csrGet s1 0 (fq qp 11) ||| 4))) ∧
        (fqOpen s qp (cqPlace s qp) = true → bad = false → bit (leAt e 12 4) 16 = (flashOf s1 qp).phase →
          ∀ c, (flashOf s1 qp).out.find? (fun c => c.cid == leAt e 12 2) = some c →
          let st := entryStatus c e
          let y := handleAt s1 c.core c.entry
          let u := popEntry s1 qp e
          let head := if (flashOf s1 qp).head = fqSize s1 qp then 0 else (flashOf s1 qp).head + 1
          let mine := (opOf s1 c.core c.entry c.inst).isSome
          let unlocked := fun (t : State) => ∀ k, ∀ l ∈ (coreOf t k).locks, ¬ (l.core = c.core ∧ l.entry = c.entry)
          let alone := offlActive (dropOp s1 c.core c.entry c.inst) c.core c.entry = false ∧ y.state = .draining ∧ y.drn = 0
          ∃ t, exec (i) s = .next t ∧ (flashOf t qp).head = head ∧
            s1.sent ++ [.pcie (fq64 s1 qp 4 + 4 * 2 ^ fld (csrN s1 0 (fq qp 6)) 31 28) (bytesLE 4 head)] <+: t.sent ∧
            (st = 0 → t.flashMem = (flashMove u qp c).flashMem ∧ ((flashOf s1 qp).todo = [] → t.mem = (flashMove u qp c).mem)) ∧
            (mine = true → st = 0 → y.remain - c.len ≠ 0 → (handleAt t c.core c.entry).remain = y.remain - c.len ∧
              (handleAt t c.core c.entry).state = y.state) ∧
            (mine = true → st = 0 → y.remain - c.len = 0 → unlocked t ∧
              (c.write = false → (handleAt t c.core c.entry).state = .full ∧ (handleAt t c.core c.entry).err = 0) ∧
              (c.write = true → alone → (handleAt t c.core c.entry).state = if y.pf then .free else .full)) ∧
            (mine = true → st ≠ 0 → unlocked t ∧ (handleAt t c.core c.entry).err = 0x0C ∧ (handleAt t c.core c.entry).nvs = 2 * st ∧
              (handleAt t c.core c.entry).state = .full ∧
              ∀ k, ∀ d ∈ (flashOf t k).todo, ¬ (d.core = c.core ∧ d.entry = c.entry ∧ d.inst = c.inst))))) ∧
    (∀ quarter, (lookD s.decoding quarter false = true ∨ lookD s.decodeQ quarter [] = [] → exec (.decodeStart quarter) s = .next s) ∧
      (∀ o rest, lookD s.decoding quarter false = false → lookD s.decodeQ quarter [] = o :: rest →
        let r := decodeRun s (o.args.getD 1 0) o
        let done := opRead o r.1 r.2
        (done.ready = true → ∃ t, exec (.decodeStart quarter) s = .next t ∧ lookD t.decoding quarter false = true ∧ (∀ a, memGet t.mem a = memGet s.mem a) ∧
          lookD t.decodeQ quarter [] = done :: rest ∧ ∃ c, ⟨c, .decodeComplete quarter⟩ ∈ t.agenda ∧ s.clk < c) ∧
        (done.ready = false → ∃ t, exec (.decodeStart quarter) s = .next t ∧ lookD t.decoding quarter false = false ∧ (∀ a, memGet t.mem a = memGet s.mem a) ∧
          t.decodeQ = s.decodeQ ∧ ∃ c, ⟨c, .decodeStart quarter⟩ ∈ t.agenda ∧ s.clk < c)) ∧
      (lookD s.decodeQ quarter [] = [] → exec (.decodeComplete quarter) s = .next { s with decoding := put s.decoding quarter false }) ∧
      (∀ o rest, lookD s.decodeQ quarter [] = o :: rest →
        let core := o.args.getD 1 0
        let e := o.handle.getD 0
        let u := { s with decodeQ := put s.decodeQ quarter rest, decoding := put s.decoding quarter false }
        let w := decodeFinish u core o ((handleAt u core e).range.getD ⟨true, 0, 0⟩)
        (pagesOpen s core o.pages = false → ∃ t, exec (.decodeComplete quarter) s = .next t ∧ t.mem = s.mem ∧ t.decodeQ = s.decodeQ ∧
          ∃ c, ⟨c, .decodeComplete quarter⟩ ∈ t.agenda ∧ s.clk < c) ∧
        (pagesOpen s core o.pages = true → ∃ t, exec (.decodeComplete quarter) s = .next t ∧ lookD t.decodeQ quarter [] = rest ∧ lookD t.decoding quarter false = false ∧
          t.mem = (if o.err = none then w.mem else s.mem) ∧ (handleAt t core e).state = .full ∧
          (handleAt t core e).err = (o.err.map fun f => f.1).getD 0 ∧
          (∀ k, ∀ l ∈ (coreOf t k).locks, ¬ (l.core = core ∧ l.entry = e)) ∧ ⟨s.clk + 1, .decodeStart quarter⟩ ∈ t.agenda)))

/-! ## Engines that queue (R213-R255) -/

/-- An instruction whose block lies in local memory finds its operand full, and in the state u in which its beam's earlier accesses
are performed the block aligned and inside the gang's allocation: its home, and the bytes of the block. -/
structure BlockAt (s u : State) (x : Sel) (a : Src) (size : Nat) (bl : Block) (g : Gang) (gr : Grid) (q : List Byte) : Prop where
  turn : Turn s x
  acts : u = releaseAt s x.key .gang
  calm : heldBack s x .gang = false
  home : homeOf s x.beam = some (bl, g, gr)
  full : ready x x.run [srcUse a 1] [] = true
  aligned : (laneReg (laneOf x.beam (leastD 0 x.run)) a.r).toNat % 16 = 0
  place : ∃ t, localPlace u bl g gr (laneReg (laneOf x.beam (leastD 0 x.run)) a.r).toNat size = some t ∧ q = localBytes u t size

/-- The operation of the queue's new entry: its instruction, its beam and block, and what it was given. -/
def OpIs (o : EngineOp) (x : Sel) (i : Instr) (params : List Byte) (args : List Nat) : Prop :=
  o.instr = i ∧ o.beam = x.key ∧ o.block = x.beam.block ∧ o.params = params ∧ o.args = (selSup x).toNat :: args

/-- The operation has joined the core's matrix queue behind what stood there, and holds its beam (R228). -/
def JoinsMatrix (s t : State) (x : Sel) (b : Beam) (i : Instr) (params : List Byte) (args : List Nat) : Prop :=
  ⟨s.clk, .matrixQueueDispatch (selCore x)⟩ ∈ t.agenda ∧
    ∃ o, (coreOf t (selCore x)).matrixQ = (coreOf s (selCore x)).matrixQ ++ [o] ∧ OpIs o x i params args ∧ b.hold = .engine o.inst

/-- The operation has joined the core's rule queue, and holds its beam (R251). -/
def JoinsRules (s t : State) (x : Sel) (b : Beam) (i : Instr) (params : List Byte) (places : List Nat) : Prop :=
  ⟨s.clk, .ruleQueueDispatch (selCore x)⟩ ∈ t.agenda ∧
    ∃ o, (coreOf t (selCore x)).ruleQ = (coreOf s (selCore x)).ruleQ ++ [o] ∧
      OpIs o x i params [places.getD 0 0, places.getD 1 0, maskOf x.run, (selPc x).toNat] ∧ b.hold = .engine o.inst

/-- Matrix operations that pass their checks join the core's queue in order; those of R228 hold their beam; SCBS binds a pair (R213,
R215, R218, R222, R227, R228, R230, R231, R232, R233, R240, R241). That one whose release no link carries waits is log entry 50; rests also
on the model's own choices and readings: log entry 37. -/
def Obligations.MatrixOperationsQueue : Prop :=
  ∀ (s u : State) (x : Sel) (a : Src) (bl : Block) (g : Gang) (gr : Grid) (q : List Byte),
    (∀ i sig h e ms, (i, sig) ∈ [(Instr.mma a h, false), (Instr.mmaSig a h, true)] → Turn s x → u = releaseAt s x.key .dev →
      heldBack s x .dev = false → homeOf s x.beam = some (bl, g, gr) → ready x x.run [srcUse a 1] [] = true →
      mmEntry x u bl h = .ok e → mmLanes x u bl g gr a sig x.run [] = .ok ms →
      landingClash (mmLocals ms) [] (mmLandings ms) = none → mmStopped ms = none →
      let good := ms.filter fun m => m.stop.isNone
      good ≠ [] → tooManyLocks (selCore x) (good.flatMap mmLocks) = false → matrixRoom u (selCore x) good.length = true →
      locksFree u (selCore x) (good.flatMap mmLocks) = true → (good.all fun m => pagesOpen u (selCore x) m.pages) = true →
      let v := settleCluster (parkLanes u x.key (mmParked ms)) (selCore x)
      clusterOwes v (selCore x) = false → firstSome (mmAwaits v (selCore x) (selSup x) bl) good = none →
      ∃ t b, exec i s = .next t ∧ beamOf t x.key = some b ∧ Started u t (selCore x) e .filling ∧
        (handleAt t (selCore x) e).remain = good.length ∧
        (∀ j, (∀ p ∈ mmParked ms, p.1 ≠ j) → SameButRegs (laneOf x.beam j) (laneOf b j) [] ∧
          (laneOf b j).preds = (laneOf x.beam j).preds ∧ (laneOf b j).pc = (laneOf x.beam j).pc + (if j ∈ x.run then 4 else 0)) ∧
        (∀ p ∈ mmParked ms, (laneOf b p.1).state = .parked ∧ (laneOf b p.1).frec = p.2 ∧
          (laneOf b p.1).pc = (laneOf x.beam p.1).pc ∧ (laneOf b p.1).regs = (laneOf x.beam p.1).regs) ∧
        ∃ l, (coreOf t (selCore x)).matrixQ = (coreOf s (selCore x)).matrixQ ++ l ∧ l.length = good.length ∧
          ∀ (n : Nat) m, good[n]? = some m → ∃ o, l[n]? = some o ∧ o.instr = i ∧ o.handle = some e ∧ o.beam = x.key ∧
            o.block = x.beam.block ∧ o.params = m.p ++ m.rec_ ∧
            o.args.take 6 = [(selSup x).toNat, m.slot, modeCode (pairMode m.a), m.atA, m.atB, m.a.rows]) ∧
    (matrixRoom u (selCore x) 1 = true →
      (∀ sl, gr.accs > sl → (∀ p, BlockAt s u x a 16 bl g gr q → tdPlan false sl x u bl g gr q = .ok p → locksFree u (selCore x) p.ranges = true → ∃ t b, exec (.aload a sl) s = .next t ∧ beamOf t x.key = some b ∧ Advanced x b ∧ JoinsMatrix s t x b (.aload a sl) p.params p.args) ∧
        (∀ p, BlockAt s u x a 16 bl g gr q → tdPlan true sl x u bl g gr q = .ok p → locksFree u (selCore x) p.ranges = true → ∃ t b, exec (.acvt a sl) s = .next t ∧ beamOf t x.key = some b ∧ Advanced x b ∧ JoinsMatrix s t x b (.acvt a sl) p.params p.args) ∧
        (Turn s x → u = releaseAt s x.key .gang → heldBack s x .gang = false → homeOf s x.beam = some (bl, g, gr) →
          ∃ t b, exec (.aclr sl) s = .next t ∧ beamOf t x.key = some b ∧ Advanced x b ∧ JoinsMatrix s t x b (.aclr sl) [] [bl.slots.getD sl 255, 0])) ∧
      (∀ fs, fsCheck fs x u bl g gr = none → (∀ p, BlockAt s u x a 32 bl g gr q → qcPlan fs x u bl g gr q = .ok p → locksFree u (selCore x) p.ranges = true → ∃ t b, exec (.qcvt a fs) s = .next t ∧ beamOf t x.key = some b ∧ Advanced x b ∧ JoinsMatrix s t x b (.qcvt a fs) p.params p.args)) ∧
      (∀ p, BlockAt s u x a 64 bl g gr q → sgPlan x u bl g gr q = .ok p → locksFree u (selCore x) p.ranges = true → ∃ t b, exec (.sig a) s = .next t ∧ beamOf t x.key = some b ∧ Advanced x b ∧ JoinsMatrix s t x b (.sig a) p.params p.args) ∧
      (∀ p, BlockAt s u x a 32 bl g gr q → sbPlan x u bl g gr q = .ok p → locksFree u (selCore x) p.ranges = true → ∃ t b, exec (.sbwd a) s = .next t ∧ beamOf t x.key = some b ∧ Advanced x b ∧ JoinsMatrix s t x b (.sbwd a) p.params p.args)) ∧
    (Turn s x → ready x x.run [srcUse a 1] [] = true →
      ∀ i h sl fs, (i ∈ [Instr.mma a h, .mmaSig a h] ∧ heldBack s x .dev = true) ∨
          (i ∈ [Instr.aload a sl, .acvt a sl, .aclr sl, .qcvt a fs, .sig a, .sbwd a] ∧ heldBack s x .gang = true) →
        exec i s = .next (waited (performAll s x.key) x)) ∧
    (∀ c k, Turn s x → look s.blocks x.beam.block = some bl → ready x x.run [srcUse a 2, srcUse c 1] [] = true →
      (∀ i ∈ x.run, lanePair (laneOf x.beam i) a.r = lanePair (laneOf x.beam (leastD 0 x.run)) a.r) →
      (∀ i ∈ x.run, laneReg (laneOf x.beam i) c.r = laneReg (laneOf x.beam (leastD 0 x.run)) c.r) →
      let l := laneOf x.beam (leastD 0 x.run)
      ∃ t b, exec (.scbs c a k) s = .next t ∧ beamOf t x.key = some b ∧ Advanced x b ∧ (coreOf t (selCore x)).scaleCache = [] ∧ t.mem = s.mem ∧
        ∃ bl', look t.blocks x.beam.block = some bl' ∧ look bl'.scales k = some (lanePair l a.r, (laneReg l c.r).toNat % 64))

/-- The matrix and rule engines take their queues one operation at a time; what each performs, and what it sets free (R215, R223,
R224, R225, R228, R231, R232, R233, R240, R249, R251, R252). Rests also on the model's own choices and readings: log entries 37, 50.
-/
def Obligations.EnginesRunInOrder : Prop :=
  ∀ (s : State),
    (∀ (u : State) (x : Sel) (a : Src) (bl : Block) (g : Gang) (gr : Grid) (q : List Byte),
      (coreOf u (selCore x)).ruleQ.length < 8 →
      (∀ p, BlockAt s u x a 16 bl g gr q → rtPlan x u bl g gr q = .ok p → locksFree u (selCore x) p.1 = true → ∃ t b, exec (.rtab a) s = .next t ∧ beamOf t x.key = some b ∧ Advanced x b ∧ JoinsRules s t x b (.rtab a) q p.2) ∧ (∀ p, BlockAt s u x a 32 bl g gr q → rlPlan x u bl g gr q = .ok p → locksFree u (selCore x) p.1 = true → ∃ t b, exec (.rule a) s = .next t ∧ beamOf t x.key = some b ∧ Advanced x b ∧ JoinsRules s t x b (.rule a) q p.2) ∧
      (Turn s x → u = releaseAt s x.key .gang → ready x x.run [srcUse a 1] [] = true →
        (∀ i ∈ x.run, laneReg (laneOf x.beam i) a.r = laneReg (laneOf x.beam (leastD 0 x.run)) a.r) →
        (heldBack s x .gang = true → exec (.rgen a) s = .next (waited (performAll s x.key) x)) ∧
        (heldBack s x .gang = false →
          ∃ t b, exec (.rgen a) s = .next t ∧ beamOf t x.key = some b ∧ Advanced x b ∧ JoinsRules s t x b (.rgen a) [] [(laneReg (laneOf x.beam (leastD 0 x.run)) a.r).toNat]))) ∧
    (∀ core, (coreOf s core).matrixOp = none →
      exec (.mmaOperationComplete core) s = .next s ∧ exec (.matrixSyncOpComplete core) s = .next s ∧
      ((coreOf s core).matrixQ = [] → exec (.matrixQueueDispatch core) s = .next s) ∧
      ∀ o rest, (coreOf s core).matrixQ = o :: rest →
        ∃ t, exec (.matrixQueueDispatch core) s = .next t ∧ (coreOf t core).matrixOp = some o ∧ (coreOf t core).matrixQ = rest ∧
          ∃ c, s.clk + Nat.max 1 (opTime s o) ≤ c ∧
            (⟨c, .mmaOperationComplete core⟩ ∈ t.agenda ∨ ⟨c, .matrixSyncOpComplete core⟩ ∈ t.agenda)) ∧
    (∀ core o, (coreOf s core).matrixOp = some o →
      let mma := ∃ a h, o.instr = .mma a h ∨ o.instr = .mmaSig a h
      exec (.matrixQueueDispatch core) s = .next s ∧
      (mma → exec (.matrixSyncOpComplete core) s = .next s ∧
        let r := performMma s core o
        let y := handleAt s core (o.handle.getD 0)
        (∃ t, exec (.mmaOperationComplete core) s = .next t ∧ t.mem = r.mem ∧ (coreOf t core).slots = (coreOf r core).slots ∧ (coreOf t core).matrixOp = none ∧
          (handleAt t core (o.handle.getD 0)).remain = y.remain - 1 ∧
          (y.remain - 1 = 0 → (handleAt t core (o.handle.getD 0)).state = .full) ∧
          (handleAt t core (o.handle.getD 0)).err = (if y.err = 0 then (o.err.map fun e => e.1).getD 0 else y.err) ∧
          ∀ c, ∀ l ∈ (coreOf t c).locks, ¬ (l.core = core ∧ l.entry = opOwner o.inst))) ∧
      (¬ mma → exec (.mmaOperationComplete core) s = .next s ∧
        ∃ t, exec (.matrixSyncOpComplete core) s = .next t ∧ (coreOf t core).matrixOp = none ∧
          (∀ c, ∀ l ∈ (coreOf t c).locks, ¬ (l.core = core ∧ l.entry = opOwner o.inst)) ∧
          (∀ b, beamOf s o.beam = some b → ∃ c, beamOf t o.beam = some c ∧ c.hold = endHold o.inst b.hold ∧
            c.under = b.under.map (endHold o.inst) ∧ c.lanes = b.lanes) ∧
          (∀ bl g gr, homeOfBlock s o.block = some (bl, g, gr) →
            (∀ n, n ≠ opSlot o → slotAt t core n = slotAt s core n) ∧
            (∀ sl, o.instr = .aclr sl → slotAt t core (opSlot o) = Slot.zero ∧ t.mem = s.mem) ∧
            (∀ a sl, o.instr = .aload a sl → t.mem = s.mem ∧
              slotAt t core (opSlot o) = loadSlot s (fslotOf gr (tdFsl o.params)) o.params (opPlace o 0)) ∧
            (∀ a sl, o.instr = .acvt a sl → let f := foldSlot (slotAt s core (opSlot o))
              slotAt t core (opSlot o) = f ∧
              t.mem = (convertSlot gr o.params (opPlace o 0) (opPlace o 1) f (setSlot s core (opSlot o) f)).mem) ∧
            (∀ a fs, o.instr = .qcvt a fs → slotAt t core (opSlot o) = slotAt s core (opSlot o) ∧
              t.mem = (convertTile gr (fslotOf gr fs) o.params (opPlace o 0) (opPlace o 1) (opPlace o 2) s).mem) ∧
            (∀ a, o.instr = .sig a → slotAt t core (opSlot o) = slotAt s core (opSlot o) ∧ t.mem = (performSig s o gr).mem) ∧
            (∀ a, o.instr = .sbwd a → slotAt t core (opSlot o) = slotAt s core (opSlot o) ∧ t.mem = (performSbwd s o).mem)))) ∧
    (∀ core, (coreOf s core).ruleOp = none →
      exec (.ruleGeneration core) s = .next s ∧ exec (.ruleOpComplete core) s = .next s ∧
      ((coreOf s core).ruleQ = [] → exec (.ruleQueueDispatch core) s = .next s) ∧
      ∀ o rest, (coreOf s core).ruleQ = o :: rest →
        ∃ t, exec (.ruleQueueDispatch core) s = .next t ∧ (coreOf t core).ruleOp = some o ∧ (coreOf t core).ruleQ = rest ∧ t.mem = s.mem ∧ t.beams = s.beams) ∧
    (∀ core o bl, (coreOf s core).ruleOp = some o → look s.blocks o.block = some bl →
      exec (.ruleQueueDispatch core) s = .next s ∧
      (∀ a, o.instr = .rule a → (ruleMore s o = false → exec (.ruleGeneration core) s = .next s) ∧
        (ruleMore s o = true → ∃ t, exec (.ruleGeneration core) s = .next t ∧ 
          t.mem = (ruleGeneration o.params (coreOf s core).ruleTab (genDone s o) (o.args.getD 1 0) (o.args.getD 2 0) s).mem ∧
          ∃ c, look t.blocks o.block = some c ∧ c.gen = bl.gen + 1)) ∧
      ∃ t, exec (.ruleOpComplete core) s = .next t ∧ (coreOf t core).ruleOp = none ∧ t.mem = s.mem ∧
        (∀ c, ∀ l ∈ (coreOf t c).locks, ¬ (l.core = core ∧ l.entry = opOwner o.inst)) ∧
        (∀ b, beamOf s o.beam = some b → ∃ c, beamOf t o.beam = some c ∧ c.hold = endHold o.inst b.hold ∧
          c.under = b.under.map (endHold o.inst) ∧ c.lanes = b.lanes) ∧
        ∃ c, look t.blocks o.block = some c ∧
          (∀ a, o.instr = .rgen a → c.gen = BitVec.ofNat 32 (o.args.getD 1 0) ∧ c.tab = bl.tab) ∧
          (∀ a, o.instr = .rule a → c.gen = bl.gen ∧ c.tab = bl.tab) ∧
          (∀ a, o.instr = .rtab a → c.gen = bl.gen ∧ c.tab = some (BitVec.ofNat 32 (rtSrc o.params), rtNe o.params) ∧
            (coreOf t core).ruleOwner = some o.block ∧ ∀ n, n < rtNe o.params →
              lookD (coreOf t core).ruleTab n 0 = (localBytes s (o.args.getD 1 0) (rtNe o.params)).getD n 0))

/-- SYNBAR and SYNARV arrive on their channel, the last arrival ends the phase, and its waiters go on 40 clocks later; words are
broadcast, and a word that differs between lanes traps (R152, R258, R260, R261, R262, R263, R264). That an arrival or a broadcast whose
release no link carries waits rests on the model's own reading: log entry 50. -/
def Obligations.HeliographArrivals : Prop :=
  ∀ (s : State),
    (∀ (x : Sel), Turn s x →
      let early := heldBack s x .gang
      (∀ hc bl g gr, helioCheck x s (some hc) = none → homeOf s x.beam = some (bl, g, gr) →
        ∀ i waits, (i, waits) ∈ [(Instr.synbar hc, true), (Instr.synarv hc, false)] →
        let c := chanOf g hc
        (early = true → exec i s = .next (waited (performAll s x.key) x)) ∧
        (early = false → ∃ t b, exec (i) s = .next t ∧ beamOf t x.key = some b ∧ Advanced x b ∧ b.hold = (if waits then .barrier hc c.ph else x.beam.hold) ∧ ∃ g', look t.gangs bl.gang = some g' ∧
          (∀ n, n ≠ hc → chanOf g' n = chanOf g n) ∧
          (c.cnt + 1 ≠ c.e → bit b.arr hc = true ∧ chanOf g' hc = { c with cnt := c.cnt + 1 }) ∧
          (c.cnt + 1 = c.e → (x.key ∈ gangBeams s g → bit b.arr hc = false) ∧ chanOf g' hc = ⟨c.e - c.pend, 0, 0, c.ph + 1⟩ ∧
            ⟨s.clk + 40, .hgBarrierRelease bl.gang hc c.ph.toNat⟩ ∈ t.agenda))) ∧
      (∀ hc tr, helioCheck x s (some hc) = some tr → ∀ i, i = .synbar hc ∨ i = .synarv hc → exec i s = .next (trapped s x tr)) ∧
      (∀ tr, helioCheck x s none = some tr → ∀ i, ((∃ a hw, i = .synput a hw) ∨ ∃ hw d, i = .synget hw d) →
        exec i s = .next (trapped s x tr)) ∧
      (helioCheck x s none = none →
        (∀ a hw v, ready x x.run [srcUse a 1] [] = true → (∀ i ∈ x.run, laneReg (laneOf x.beam i) a.r = v) →
          (heldBack s x .dev = true → exec (.synput a hw) s = .next (waited (performAll s x.key) x)) ∧
          (heldBack s x .dev = false → ∃ t b, exec (.synput a hw) s = .next t ∧ beamOf t x.key = some b ∧ Advanced x b ∧ ⟨s.clk + 40, .hgBroadcastDelivery (selCore x) hw v⟩ ∈ t.agenda)) ∧
        (∀ a hw, ready x x.run [srcUse a 1] [] = true →
          (∃ i ∈ x.run, laneReg (laneOf x.beam i) a.r ≠ laneReg (laneOf x.beam (leastD 0 x.run)) a.r) →
          exec (.synput a hw) s = .next (trapped s x { trapOf x 0x04 with lanes := maskOf x.run })) ∧
        (∀ hw d, ready x x.run [] [regUse d 1] = true → ∃ t, exec (.synget hw d) s = .next t ∧
          ProducerIssued s t x (.synget hw d) d 1
            (x.run.map fun j => resultLane j ((lookD (coreOf s (selCore x)).hw hw 0).setWidth 128) 0)))) ∧
    (∀ gang ch phase g, look s.gangs gang = some g → ∃ t, exec (.hgBarrierRelease gang ch phase) s = .next t ∧ (∀ k ∈ gangBeams s g, ∀ b, beamOf s k = some b →
      ∃ c, beamOf t k = some c ∧ c.lanes = b.lanes ∧ (b.hold = .barrier ch (BitVec.ofNat 32 phase) → c.hold = .none) ∧
        (b.hold ≠ .barrier ch (BitVec.ofNat 32 phase) → c.hold = b.hold)) ∧ ∀ k, k ∉ gangBeams s g → beamOf t k = beamOf s k) ∧
    (∀ core w v, ∃ t, exec (.hgBroadcastDelivery core w v) s = .next t ∧ (∀ c ∈ hgCores s core, look (coreOf t c).hw w = some v) ∧
      (∀ c, c ∉ hgCores s core → coreOf t c = coreOf s c) ∧ t.mem = s.mem ∧ t.beams = s.beams)

/-! ## Traps (R284-R298) -/

/-- A trap can be taken: the beam is in no handler and has nothing unfinished, no access and no replay entry, the vector table is legal, and
the frame can be written. -/
structure TrapReady (s : State) (k : Nat) (tr : Trap) (b : Beam) (v : List Byte) (u : State) : Prop where
  inv : Inv s
  beam : beamOf s k = some b
  open_ : b.psw.getLsbD 1 = false
  done : b.pend = [] ∧ b.stores = []
  table : vecTable s (k / 64) b.told = some v ∧ vecBad v = false
  handler : leAt v (64 + 4 * tr.code) 4 % 2 = 0 ∧ leAt v (64 + 4 * tr.code) 4 + 4 ≤ vecSvSize v
  frame : ∃ bl g gr, homeOf s b = some (bl, g, gr) ∧
    supWrite (k / 64) b.told 128 s ((if b.flvl = 0 then (leAt v 8 8 + k * 32768) % 2 ^ 64 else b.framea.toNat) + 16384 * b.flvl)
      (frameBytes s k b bl gr tr []) = some u

/-- The beam runs its handler in every lane with the registers it had, in supervisor state with traps masked, and its frame is
written. -/
def Entered (s t : State) (k : Nat) (tr : Trap) (b : Beam) (v : List Byte) (u : State) : Prop :=
  (∃ c, beamOf t k = some c ∧ c.psw = 3 ∧ c.flvl = b.flvl + 1 ∧ c.hold = .none ∧ c.waiting = b.waiting ∧
    (b.flvl = 0 → c.framea = BitVec.ofNat 64 ((leAt v 8 8 + k * 32768) % 2 ^ 64)) ∧ c.lanes.length = b.lanes.length ∧
    ∀ j, j < b.lanes.length → (laneOf c j).state = .runnable ∧ (laneOf c j).min = false ∧
      (laneOf c j).pc = BitVec.ofNat 32 (leAt v (64 + 4 * tr.code) 4) ∧ (laneOf c j).regs = (laneOf b j).regs ∧
      (laneOf c j).empty = (laneOf b j).empty ∧ (laneOf c j).preds = (laneOf b j).preds) ∧
    t.mem = (releaseCaches u (k / 256) .dev).mem ∧ ∀ j, j ≠ k → beamOf t j = beamOf s j

/-- Taking a trap of a beam with nothing unfinished writes the frame and starts the handler in all lanes; SYSC, BKPT and what cannot issue
take theirs (R36, R143, R144, R152, R284, R285, R287, R288, R289, R290, R294, R296, R297). That a fetch refused by R315 or R317 raises
ProtectionFault with the fetch's address is log entry 54; rests also on the model's own choices and readings: log entries 18, 50. -/
def Obligations.TrapEntry : Prop :=
  (∀ s k tr b v u, TrapReady s k tr b v u → Entered s (takeTrap s k tr) k tr b v u) ∧
    (∀ (s : State) (x : Sel), Turn s x →
      let here := completeDue s x.key
      let done := completeDue (retire (advance s x [] (nextPc 4)) x.key) x.key
      (∀ tr b, beamOf here x.key = some b →
        (∀ v u, TrapReady here x.key tr b v u → b.waiting = [] → trapOpen here x.key tr = true →
          Entered here (trapped s x tr) x.key tr b v u) ∧
        (b.waiting = [] → trapOpen here x.key tr = false → trapped s x tr = waited (entryWalks here x.key) x) ∧
        (∀ c y rest, takesTraps here b = true → b.waiting = (c, y) :: rest → trapFirst c y here.clk tr = true →
          trapped s x tr = waited (raiseTrap (onBeam here x.key fun b => { b with waiting := rest }) x.key y) x)) ∧
      (∀ g i7 a d, ready x (execLanes x g) [srcUse a 2] [] = true →
        (execLanes x g = [] → ∃ t b, exec (.sysc g i7 a d) s = .next t ∧ beamOf t x.key = some b ∧ Advanced x b ∧ SameOutside s t x.key) ∧
        (execLanes x g ≠ [] → ∃ t tr, exec (.sysc g i7 a d) s = .next t ∧ tr.code = 0x0F ∧ tr.callm = maskOf (execLanes x g) ∧ tr.imm = i7 ∧
          tr.reg = d ∧ (∀ j ∈ execLanes x g, look tr.args j = some (lanePair (laneOf x.beam j) a.r)) ∧
          ∀ b v u, TrapReady done x.key tr b v u → b.waiting = [] → trapOpen done x.key tr = true → Entered done t x.key tr b v u)) ∧
      (∀ g i7, (execLanes x g = [] → ∃ t b, exec (.bkpt g i7) s = .next t ∧ beamOf t x.key = some b ∧ Advanced x b ∧ SameOutside s t x.key) ∧
        (execLanes x g ≠ [] → ∃ t tr, exec (.bkpt g i7) s = .next t ∧ tr.code = 0x0E ∧ tr.lanes = maskOf (execLanes x g) ∧ tr.imm = i7 ∧
          ∀ b v u, TrapReady done x.key tr b v u → b.waiting = [] → trapOpen done x.key tr = true → Entered done t x.key tr b v u)) ∧
      (∀ e, ∃ t tr, exec (.illegalInstruction e) s = .next t ∧ t = trapped s x tr ∧ tr.run = maskOf x.run ∧ tr.pc = selPc x ∧
        (e = .outside ∨ e = .reservedOpcode ∨ e = .reservedSubOp ∨ e = .badField → tr.code = 0x01) ∧
        (∀ c l va, e = .translation c l va → tr.code = causeCode c) ∧
        (∀ pa, e = .uncorrectable pa → tr.code = 0x0C ∧ tr.lanes = maskOf x.run ∧ tr.addr = BitVec.ofNat 64 pa) ∧
        (∀ va, e = .refused va → tr.code = 0x08 ∧ tr.addr = va)) ∧
      (selSup x = false → ∀ i, (i = .tret ∨ i = .tlbinvAll ∨ (∃ d n, i = .csrr d n ∨ i = .csrw d n) ∨ (∃ a, i = .tlbinvPage a) ∨
        ∃ a m, i = .mcload a m) → exec i s = .next (trapped s x (trapOf x 0x02)))) ∧
    (∀ s k tr b g, beamOf s k = some b → b.psw.getLsbD 1 = true → tr.code ≠ 0x18 → homeOf s b = some g →
      let t := takeTrap s k tr
      let part := partOfCore s (k / 64)
      ⟨s.clk, .abort g.2.1.grid⟩ ∈ t.agenda ∧ t.mem = s.mem ∧ (∃ c, beamOf t k = some c ∧ c.stopped = true ∧ c.lanes = b.lanes) ∧
        (bit (csrN s part 0x310) 31 = true → t.csr = s.csr) ∧
        (bit (csrN s part 0x310) 31 = false → csrGet t part 0x311 = BitVec.ofNat 32 (beamPc b tr) ∧
          csrGet t part 0x312 = BitVec.ofNat 32 (failingAddr b tr) ∧ .msix part ∈ t.sent ∧
          csrGet t part 0x310 = BitVec.ofNat 32 (2 ^ 31 + k % 64 * 2 ^ 16 + k / 64 * 2 ^ 10 + b.flvl * 2 ^ 8 + tr.code)))

/-- The numbers of registers that a write changes in its RW fields alone (R298). -/
def PlainReg (n : Nat) : Prop :=
  n = 0x100 ∨ n = 0x101 ∨ n = 0x300 ∨ n = 0x301 ∨ n = 0x302 ∨ n = 0x303 ∨ n = 0x304 ∨ n = 0x309

/-- CSRR reads and CSRW writes a register after FENCE.acqrel.dev; TLBINV drops translations; MCLOAD writes the control store; TRET from a
frame with no replay entry resumes (R86, R152, R293, R298, R299, R300). That CSRR, CSRW and TLBINV wait where no link carries their release
is log entry 50; rests also on the model's own choices and readings: log entries 3, 40, 41. -/
def Obligations.SystemInstructions : Prop :=
  ∀ (s : State) (x : Sel), Turn s x → selSup x = true →
    let part := selPart s x
    let u := fenceDev s x.key
    let early := heldBack s x .dev
    (∀ d n, early = false → ready x x.run [] [regUse d 1] = true →
      (csrTrap x u n = none → ∃ t b, exec (.csrr d n) s = .next t ∧ beamOf t x.key = some b ∧ (Delivered x b d fun _ => csrRead u part n)) ∧
      (∀ tr, csrTrap x u n = some tr → exec (.csrr d n) s = .next (trapped u x tr))) ∧
    (early = true → (∀ d n, (ready x x.run [] [regUse d 1] = true → exec (.csrr d n) s = .next (waited (performAll s x.key) x)) ∧
        (ready x x.run [regUse d 1] [] = true → exec (.csrw d n) s = .next (waited (performAll s x.key) x))) ∧
      exec .tlbinvAll s = .next (waited (performAll s x.key) x) ∧
      ∀ a, ready x x.run [srcUse a 2] [] = true → exec (.tlbinvPage a) s = .next (waited (performAll s x.key) x)) ∧
    (∀ d n, early = false → ready x x.run [regUse d 1] [] = true → csrTrap x u n = none →
      (∃ i ∈ x.run, laneReg (laneOf x.beam i) d ≠ laneReg (laneOf x.beam (leastD 0 x.run)) d) →
      exec (.csrw d n) s = .next (trapped u x (uniformTrap x))) ∧
    (∀ d n v, early = false → ready x x.run [regUse d 1] [] = true → (∀ i ∈ x.run, laneReg (laneOf x.beam i) d = v) →
      (csrTrap x u n = none → ∃ t b, exec (.csrw d n) s = .next t ∧ beamOf t x.key = some b ∧ Advanced x b ∧ (PlainReg n → csrGet t part n = rwMerge (csrGet s part n) (csrMask n) v ∧
          ∀ m, csrKey part m ≠ csrKey part n → csrGet t part m = csrGet s part m) ∧
        (isHalt n = true → ⟨s.clk, .dbghaltWrite part n v⟩ ∈ t.agenda ∧ t.csr = s.csr) ∧
        (n = 0x30A → t.csr = s.csr ∧ ∀ bl g gr, homeOf s x.beam = some (bl, g, gr) → v.getLsbD 0 = true → ⟨s.clk, .abort g.grid⟩ ∈ t.agenda)) ∧
      (∀ tr, csrTrap x u n = some tr → exec (.csrw d n) s = .next (trapped u x tr))) ∧
    (∀ i vas, early = false → ((i = .tlbinvAll ∧ vas = none) ∨ ∃ a, i = .tlbinvPage a ∧ ready x x.run [srcUse a 2] [] = true ∧
        vas = some (x.run.map fun j => (lanePair (laneOf x.beam j) a.r).toNat)) →
      ∃ t b, exec (i) s = .next t ∧ beamOf t x.key = some b ∧ Advanced x b ∧ b.hold = .tlbinv vas ∧ (∀ c ∈ coresOf s part, (coreOf t c).walks = []) ∧
        ∃ c, ⟨c, .tlbinvComplete (x.key / 64) (x.key % 64)⟩ ∈ t.agenda ∧ s.clk < c) ∧
    (∀ core n b vas, beamOf s (64 * core + n) = some b → firstSome tlbinvHold (holdsOf b).reverse = some vas → ∃ t, exec (.tlbinvComplete core n) s = .next t ∧ t.mem = s.mem ∧
      (∃ c told, beamOf t (64 * core + n) = some c ∧ c = endTlbinv { b with told := told } ∧ (n < 64 → told = toldDrop vas b.told) ∧
        c.lanes = b.lanes ∧
        (b.hold = .tlbinv vas → (∀ h ∈ b.under, tlbinvHold h = none) → c.hold = .none ∧ c.under = b.under)) ∧
      ∀ c ∈ coresOf s (partOfCore s core), (coreOf t c).tlb = tlbDrop vas (coreOf s c).tlb ∧
        (coreOf t c).told = toldDrop vas (coreOf s c).told) ∧
    (∀ a m bl g gr p, ready x x.run [srcUse a 1] [] = true → homeOf s x.beam = some (bl, g, gr) →
      let at_ := (laneReg (laneOf x.beam (leastD 0 x.run)) a.r).toNat
      at_ % 4 = 0 → localPlace s bl g gr at_ 4 = some p →
      let w := beforeAccess s x.key [⟨true, p, 132⟩]
      let len := leNat (localBytes w p 4)
      1 ≤ len → len ≤ 32 → (localPlace s bl g gr at_ (4 + 4 * len)).isSome = true →
      ∃ t b, exec (.mcload a m) s = .next t ∧ beamOf t x.key = some b ∧ Advanced x b ∧ look (coreOf t (selCore x)).clen m = some len ∧ t.mem = w.mem ∧
        ∀ j, j < len → look (coreOf t (selCore x)).cstore (32 * m + j) = some (BitVec.ofNat 32 (leNat (localBytes w (p + 4 + 4 * j) 4)))) ∧
    (∀ f bl g gr w, homeOf s x.beam = some (bl, g, gr) → bl.leave = .none → x.beam.flvl ≠ 0 → x.beam.pend = [] → x.beam.stores = [] →
      (∀ h ∈ x.beam.under, ∀ r c, h ≠ .rewind r c) →
      let r := releaseAt s x.key .dev
      let c := tableRefused x.key { x.beam with psw := BitVec.ofNat 32 (frPswp f) } bl gr f r
      tretOpen x s = true → supRead r (selCore x) x.beam.told 128 (x.beam.framea.toNat + 16384 * (x.beam.flvl - 1)) 4096 = some f → c.1 = some false → frNrep f = 0 → frLevel f ≤ 1 → (bit (frPswp f) 1 = true ∨ frLevel f = 0) →
      endedLanes f = [] → frCode f ≠ 0x18 → writeTrst x (acquireAt c.2 x.key .dev) 0 = some w →
      (∃ j, j < 32 ∧ j < x.beam.lanes.length ∧ fld (frEntry f j) 34 32 % 2 = 0) →
      ∃ t b, exec .tret s = .next t ∧ beamOf t x.key = some b ∧ b.psw = BitVec.ofNat 32 (frPswp f % 4) ∧ b.flvl = frLevel f ∧
        ∀ j, j < 32 → j < x.beam.lanes.length → (laneOf b j).pc = BitVec.ofNat 32 (frEntry f j) ∧
          (laneOf b j).preds = BitVec.ofNat 32 (leAt f (frLanes + 16 * j) 4) ||| 1 ∧ (laneOf b j).min = bit (frEntry f j) 45 ∧
          ((laneOf b j).state = .exited ↔ fld (frEntry f j) 34 32 = 3) ∧ ((laneOf b j).state = .waiting ↔ fld (frEntry f j) 34 32 = 1) ∧
          (frCode f ≠ 0x0F → ∀ n, n < 16 → (∀ m, m < gr.depth → maskReg gr m ≠ n) →
            laneReg (laneOf b j) n = BitVec.ofNat 32 (leAt f (frRegs + 64 * j + 4 * n) 4)))

/-! ## Grids, gangs and hosts -/

/-- A queue whose only packet is the one at its head, which came from its ring. -/
def LastPacket (s : State) (q : Nat) (p : Packet) : Prop :=
  (queueOf s q).head = some p ∧ p.popped = false ∧ (queueOf s q).rewind = none ∧ (lqHd s q + 1) % lqN s q = lqTl s q

/-- That packet has retired with a status: its completion word stands, and the queue is empty (R63, R66). -/
def Retired (s t : State) (q : Nat) (p : Packet) (status : Nat) : Prop :=
  (queueOf t q).head = none ∧ lqHd t q = lqTl s q ∧
    t.mem = (writeSignal s (partOfQueue s q) q (pkTag p.bytes) (pkSignal p.bytes) (pkDeadline p.bytes) status).mem

/-- Packets become ready, are chosen by rank, accepted or retired with their status; tapes are popped; grids end and write their
word (R63, R66, R67, R68, R69, R71, R73, R78, R264, R311, R312, R321). That a completion word whose write-backs no link carries comes 40
clocks later, and from which core the end-of-grid marker starts, is log entry 50; rests also on the model's own choices and readings: log
entries 33, 51. -/
def Obligations.SchedulerAcceptsAndRetires : Prop :=
  ∀ (s : State),
    (∀ q p rw l, s.queues = [(q, ⟨some p, rw, l⟩)] → p.state = .waiting →
      (∀ k ∈ upTo 4, waitNow s (partOfQueue s q) p.bytes k = .yes) → missed s p.bytes = false → rewindBlocked s q p.bytes = false →
      ∃ t, exec (.dependencePoll) s = .next t ∧ (queueOf t q).head = some { p with state := .ready, since := s.clk, ahead := 0 } ∧ t.mem = s.mem) ∧
    (∀ q p, LastPacket s q p → p.state ≠ .accepting → (∀ k ∈ upTo 4, waitNow s (partOfQueue s q) p.bytes k ≠ .failed) →
      missed s p.bytes = true → ∃ t, exec (.deadlineMiss q) s = .next t ∧ Retired s t q p stMissed) ∧
    (∀ part slot, (look s.accepting (2 * part + slot) ≠ none → exec (.packetSelect part slot) s = .next s) ∧
      (∀ r q p, look s.accepting (2 * part + slot) = none → bestOf (readyFor s part slot) = some (r, q) → (queueOf s q).head = some p →
        ∃ t, exec (.packetSelect part slot) s = .next t ∧ look t.accepting (2 * part + slot) = some q ∧
          (queueOf t q).head = some { p with state := .accepting } ∧ ∃ c, ⟨c, .packetAccept part slot⟩ ∈ t.agenda ∧ s.clk ≤ c ∧ c ≤ s.clk + 600 ∧
          (pkClass p.bytes ≠ 0 → s.clk < c) ∧ (pkClass p.bytes = 0 → c ≤ Nat.max s.clk (p.since + 600 * (p.ahead + 1))))) ∧
    (∀ part slot q p, look s.accepting (2 * part + slot) = some q → (queueOf s q).head = some p →
      let s1 := { s with accepting := del s.accepting (2 * part + slot) }
      (∀ l macros, pkType p.bytes = 0 → readImage s1 part p.bytes = some (l, macros) →
        let g := gridOf part q s.nextKey p.launched p.popped p.bytes l macros
        (unplaceable g = true → LastPacket s q p → ∃ t, exec (.packetAccept part slot) s = .next t ∧ Retired s1 t q p stUnplaceable ∧ t.grids = s.grids) ∧
        (unplaceable g = false → ∃ t, exec (.packetAccept part slot) s = .next t ∧ look t.accepting (2 * part + slot) = none ∧ look t.grids s.nextKey = some g ∧
          (g.next < g.lim → ⟨s.clk, .gangDeal part⟩ ∈ t.agenda) ∧ (g.lim ≤ g.next → ⟨s.clk, .gridEnd s.nextKey⟩ ∈ t.agenda))) ∧
      (pkType p.bytes = 0 → readImage s1 part p.bytes = none → LastPacket s q p →
        ∃ t, exec (.packetAccept part slot) s = .next t ∧ Retired s1 t q p stBadImage ∧ t.grids = s.grids) ∧
      (pkType p.bytes = 1 → ∃ t, exec (.packetAccept part slot) s = .next t ∧ (queueOf t q).rewind = some p.bytes ∧ (queueOf t q).head = none ∧
        ⟨s.clk + 1, .rewindPop q⟩ ∈ t.agenda) ∧
      (pkType p.bytes = 2 → LastPacket s q p → ∃ t, exec (.packetAccept part slot) s = .next t ∧ Retired s1 t q p stDone ∧ t.grids = s.grids)) ∧
    (∀ q l, (queueOf s q).rewind = some l → (queueOf s q).head = none →
      (lqTape s q 10 ≤ lqTape s q 6 → ∃ t, exec (.rewindPop q) s = .next t ∧ (queueOf t q).rewind = none ∧
        ∀ g ∈ s.grids, g.2.queue = q → g.2.tapeon = true → ⟨s.clk, .gridEnd g.1⟩ ∈ t.agenda) ∧
      (lqTape s q 6 < lqTape s q 10 → ∃ t, exec (.rewindPop q) s = .next t ∧ lqTape t q 10 = lqTape s q 10 - 256 ∧ (queueOf t q).rewind = some l)) ∧
    (∀ gk g gr, look s.gangs gk = some g → look s.grids g.grid = some gr → g.state = .resident → gr.aborted = false → gangExited s g = true →
      let s0 := (gangBeams s g).foldl performAll s
      ((gangBeams s0 g).any fun k => syncShut s0 k .dev) = false →
      let s1 := (gangBlocks s0 g).foldl shipBlock s0
      (∀ key ∈ g.blocks, ((look s1.blocks key).map (blockQuiet s1 key)).getD true = true) →
      ∃ t, exec (.gangRetire gk) s = .next t ∧ look t.gangs gk = none ∧ look t.grids g.grid = some { gr with live := gr.live - 1 } ∧
        (∀ key ∈ g.blocks, look t.blocks key = none) ∧ (∀ k ∈ gangBeams s g, beamOf t k = none) ∧
        (gridOver s { gr with live := gr.live - 1 } = true → ⟨s.clk, .gridEnd g.grid⟩ ∈ t.agenda)) ∧
    (∀ k g, look s.grids k = some g → (gridOver s g = false → exec (.gridEnd k) s = .next s) ∧
      (gridOver s g = true → ∃ t, exec (.gridEnd k) s = .next t ∧ look t.grids k = some { g with ending := some s.nextKey } ∧
        (∃ m, look t.commits s.nextKey = some m ∧ m.grid = some k ∧ m.logs = hgCores s (leastD 0 (coresOf s g.part))) ∧
        ⟨s.clk + 41, .hgCommitMarkerDelivery s.nextKey⟩ ∈ t.agenda) ∧
      (g.ending ≠ none → ((sectorsOf s g.part).all fun sec => syncOpen s sec .sys) = false →
        exec (.completionWordWrite k) s = .next (post s 40 (.completionWordWrite k))) ∧
      (g.ending ≠ none → ((sectorsOf s g.part).all fun sec => syncOpen s sec .sys) = true → let s1 := (sectorsOf s g.part).foldl (fun s sec => releaseCaches s sec .sys) s
        ∃ t, exec (.completionWordWrite k) s = .next t ∧ look t.grids k = none ∧ t.mem = (writeSignal { s1 with grids := del s1.grids k } g.part g.queue g.tag.toNat
          g.signal.toNat g.deadline (if g.aborted then 7 else 1)).mem))

/-- Gangs are dealt in order, take their resources at once, start T_place later, and are donated to idle clusters (R70, R72, R77,
R80, R81, R82, R83). Which c0 a gang takes is log entry 15; the backoff after an empty steal order, and the clock in which a round begins after
a backoff, are log entry 30. -/
def Obligations.GangsDealtPlacedAndStolen : Prop :=
  ∀ (s : State),
    (∀ part gk g cl, nextGrids s part (fun _ => true) = some gk → look s.grids gk = some g → g.returned = [] → g.next < g.lim →
      (if g.cls = 0 then urgentTarget s part 0 g else fewest s part true) = some cl →
      ∃ t, exec (.gangDeal part) s = .next t ∧ look t.grids gk = some { g with next := g.next + 1, live := g.live + 1 } ∧ s.nextKey ∈ (clusterOf t cl).held ∧
        ⟨s.clk, .gangStart cl⟩ ∈ t.agenda ∧ (∃ y, look t.gangs s.nextKey = some y ∧ y.grid = gk ∧ y.coord = g.next ∧ y.state = .held cl) ∧
        ((clusterOf s cl).stealing = true → (clusterOf s cl).asked = none → s.clk < (clusterOf s cl).backoff →
          (clusterOf t cl).stealing = false)) ∧
    (∀ part gk g cl k rest y, nextGrids s part (fun _ => true) = some gk → look s.grids gk = some g → g.returned = k :: rest →
      look s.gangs k = some y → (if g.cls = 0 then urgentTarget s part 0 g else fewest s part true) = some cl →
      ∃ t, exec (.gangDeal part) s = .next t ∧ look t.grids gk = some { g with returned := rest, live := g.live + 1 } ∧ k ∈ (clusterOf t cl).held ∧
        ⟨s.clk, .gangStart cl⟩ ∈ t.agenda ∧ ∃ z, look t.gangs k = some z ∧ z.state = .held cl ∧ z.coord = y.coord ∧ z.saved = y.saved) ∧
    (∀ cl gk rest g c0, (clusterOf s cl).held = gk :: rest → gangGrid s gk = some g → roomFits g (roomOf s cl [] (some gk)) = some c0 →
      ∃ t, exec (.gangStart cl) s = .next t ∧ (clusterOf t cl).held = rest ∧ ⟨s.clk + placeTime g, .blockThreadStart gk⟩ ∈ t.agenda ∧
        ∃ y, look t.gangs gk = some y ∧ y.state = .starting ∧ y.cluster = cl ∧ y.c0 = c0 ∧ y.blocks.length = g.nblk) ∧
    (∀ gk y gr key b, look s.gangs gk = some y → look s.grids y.grid = some gr → y.state = .starting → y.saved = false → y.blocks = [key] →
      look s.blocks key = some b → b.beams.Nodup → ∃ t, exec (.blockThreadStart gk) s = .next t ∧ (∃ z, look t.gangs gk = some z ∧ z.state = .resident ∧
        z.started = s.clk ∧ z.chans = startChans gr) ∧ ∀ i, ∀ h : i < b.beams.length,
          beamOf t (64 * b.core + b.beams[i]) = some (beamStart key i gr.args)) ∧
    (∀ cl, ((clusterOf s cl).held ≠ [] → ∃ t, exec (.stealRequest cl) s = .next t ∧ (clusterOf t cl).stealing = false ∧ t.gangs = s.gangs) ∧
      ((clusterOf s cl).held = [] → stealOrder s cl ≠ [] → ∃ t, exec (.stealRequest cl) s = .next t ∧ (clusterOf t cl).stealing = true ∧
        (clusterOf t cl).asked = some (roomOf s cl [] none) ∧ ∃ c, ⟨c, .stealReply cl (stealOrder s cl)⟩ ∈ t.agenda ∧ s.clk < c) ∧
      ((clusterOf s cl).held = [] → stealOrder s cl = [] → ∃ t, exec (.stealRequest cl) s = .next t ∧ (clusterOf t cl).backoff = s.clk + 4096 ∧
        ⟨s.clk + 4096, .stealBackoffExpiry cl⟩ ∈ t.agenda)) ∧
    (∀ thief v r, thief ≠ v → (clusterOf s thief).asked = some r →
      let l := shippable s v r
      let m := Nat.min 8 ((l.length + 1) / 2)
      (m = 0 → ∃ t, exec (.stealReply thief [v]) s = .next t ∧ (clusterOf t thief).backoff = s.clk + 4096 ∧
        ⟨s.clk + 4096, .stealBackoffExpiry thief⟩ ∈ t.agenda ∧ t.gangs = s.gangs) ∧
      (m ≠ 0 → let ship := l.drop (l.length - m)
        ∃ t, exec (.stealReply thief [v]) s = .next t ∧ (clusterOf t v).held = (clusterOf s v).held.filter (fun k => !ship.contains k) ∧
          ⟨s.clk, .gangStart v⟩ ∈ t.agenda ∧
          ∃ c, ⟨c, .stealShipmentArrival thief ship⟩ ∈ t.agenda ∧ s.clk < c ∧ c ≤ s.clk + 512)) ∧
    (∀ thief l part d, d ∈ s.agenda → d.clk ≤ s.clk → d.step = .gangDeal part → ∃ i rest,
      takeDue (fun i => !late i) s.clk s.agenda = some (i, rest) ∧ step s = exec i { s with agenda := rest } ∧
        i ≠ .stealShipmentArrival thief l) ∧
    (∀ thief k g, gangGrid s k = some g → ∃ t, exec (.stealShipmentArrival thief [k]) s = .next t ∧ k ∈ (clusterOf t thief).held ∧
      (clusterOf t thief).stealing = false ∧ ⟨s.clk, .gangStart thief⟩ ∈ t.agenda ∧ ∃ y, look t.gangs k = some y ∧ y.state = .held thief) ∧
    (∀ cl, ((clusterOf s cl).held ≠ [] → ∃ t, exec (.stealBackoffExpiry cl) s = .next t ∧ (clusterOf t cl).stealing = false) ∧
      (∀ c, (clusterOf s cl).held = [] → c ∈ sectorsOf s (partOfSector s cl) → (clusterOf s c).held ≠ [] →
        ∃ t, exec (.stealBackoffExpiry cl) s = .next t ∧ (clusterOf t cl).stealing = true ∧ ⟨s.clk + 1, .stealRequest cl⟩ ∈ t.agenda))

/-- A request makes each block drain, save or flush; saves take their area, are written and restored; aborted grids stop (R298,
R301, R302, R304, R305, R306, R307, R308, R309, R319, R323). That what a masked handler has queued is withdrawn when PGRACE expires is log
entry 38, and the clocks of the watchdog and the giving up of a save that is being written are log entry 39; rests also on the model's own
choices and readings: log entries 16, 50. -/
def Obligations.PreemptionRuns : Prop :=
  ∀ (s : State),
    (∀ gk g gr key b, look s.gangs gk = some g → look s.grids g.grid = some gr → g.state = .resident → g.blocks = [key] →
      look s.blocks key = some b → b.leave = .none →
      let request : Preempt := ⟨s.clk, (g.request.bind fun r => r.forGang), s.clk + csrN s gr.part 0x309⟩
      let s1 := { s with gangs := put s.gangs gk { g with requested := true, request := some request } }
      let limit := watchdogTime s1 g gr
      ∃ t, exec (.hgPreemptRequestDelivery [gk]) s = .next t ∧ (∃ y, look t.gangs gk = some y ∧ y.requested = true) ∧
        ⟨s.clk + csrN s gr.part 0x309, .preemptOverdue gk⟩ ∈ t.agenda ∧ ∃ c, look t.blocks key = some c ∧
          c.leave = (match modeOfBlock s1 b g gr with
            | .drain => .drain (s.clk + limit)
            | .flush => .flush
            | .save => .save)) ∧
    (∀ key b d, look s.blocks key = some b → b.leave = .drain d →
      (s.clk < d ∨ drained s key b = true → exec (.drainWatchdogExpiry key) s = .next s) ∧
      (d ≤ s.clk → drained s key b = false → ∃ t, exec (.drainWatchdogExpiry key) s = .next t ∧ ∃ c, look t.blocks key = some c ∧ c.leave = .save ∧
        c.doneByDrain = blockExited s b)) ∧
    (∀ core n b bl, beamOf s (64 * core + n) = some b → look s.blocks b.block = some bl → bl.leave = .save →
      ∃ t, exec (.pgraceExpiry core n) s = .next t ∧ (∃ c, beamOf t (64 * core + n) = some c ∧ c.stopped = true ∧
          ((∀ o ∈ (coreOf s core).ruleQ, o.beam ≠ 64 * core + n) → c = { b with stopped := true })) ∧
        (∀ o ∈ (coreOf t core).ruleQ, o.beam ≠ 64 * core + n) ∧ ⟨s.clk, .gangRetire bl.gang⟩ ∈ t.agenda ∧ t.mem = s.mem) ∧
    (∀ gk g gr, look s.gangs gk = some g → look s.grids g.grid = some gr → g.area = none → (∃ b ∈ gangBlocks s g, b.leave = .saveWait) →
      let f := freeSpan (poolSize s gr.part) (areaGranules gr) (lookD s.pool gr.part [])
      (f = none → exec (.savePoolAlloc gk) s = .next s) ∧
      (∀ first, f = some first → ∃ t, exec (.savePoolAlloc gk) s = .next t ∧ look t.gangs gk = some { g with area := some (first, areaGranules gr) } ∧
        lookD t.pool gr.part [] = (first, areaGranules gr) :: lookD s.pool gr.part [] ∧ ⟨s.clk, .gangRetire gk⟩ ∈ t.agenda)) ∧
    (∀ key b g gr first n, look s.blocks key = some b → look s.gangs b.gang = some g → look s.grids g.grid = some gr →
      g.area = some (first, n) → b.leave = .saveWrite →
      (poolOpen s gr.part b.core g.area = false → exec (.saveWriteComplete key) s = .next (post s 40 (.saveWriteComplete key))) ∧
      (poolOpen s gr.part b.core g.area = true → ∃ t, exec (.saveWriteComplete key) s = .next t ∧ t.mem = (writeBlock s b g gr first).mem ∧
        ∃ c, look t.blocks key = some c ∧ c.leave = .done)) ∧
    (∀ gk g gr, look s.gangs gk = some g → look s.grids g.grid = some gr → g.state = .resident → gr.aborted = false →
      (∀ b ∈ gangBlocks s g, b.leave = .done) → ∃ t, exec (.gangPreempted gk) s = .next t ∧ (∀ key ∈ g.blocks, look t.blocks key = none) ∧
        look t.grids g.grid = some { gr with returned := insertReturned s gk gr.returned, live := gr.live - 1 } ∧
        ∃ y, look t.gangs gk = some y ∧ y.state = .listed ∧ y.blocks = [] ∧ y.saved = g.area.isSome ∧ y.again = g.area.isNone ∧
          y.requested = false) ∧
    (∀ gk g r, look s.gangs gk = some g → g.state = .resident → g.request = some r →
      (((gangGrid s gk).map fun gr => gr.aborted) = some true → exec (.preemptOverdue gk) s = .next s) ∧
      (s.clk < r.overdueAt → exec (.preemptOverdue gk) s = .next s) ∧
      (∀ gr, r.overdueAt ≤ s.clk → overdueBeam s g = none → look s.grids g.grid = some gr → gr.aborted = false →
        let core := ((gangBlocks s g).head?.map fun b => b.core).getD 0
        (bit (csrN s gr.part 0x310) 31 = true → exec (.preemptOverdue gk) s = .next s) ∧
        (bit (csrN s gr.part 0x310) 31 = false → ∃ t, exec (.preemptOverdue gk) s = .next t ∧ csrGet t gr.part 0x310 = BitVec.ofNat 32 (2 ^ 31 + core * 2 ^ 10 + 0x18) ∧
          (∀ i, 0 < i → i < 4 → csrGet t gr.part (0x310 + i) = 0) ∧ .msix gr.part ∈ t.sent)) ∧
      (∀ k b, r.overdueAt ≤ s.clk → ((gangGrid s gk).map fun gr => gr.aborted) ≠ some true → overdueBeam s g = some k → beamOf s k = some b →
        let u := endEnded (giveUpSave s b.block) k
        ∃ tr, tr.code = 0x18 ∧ tr.addr = BitVec.ofNat 64 (s.clk - r.since) ∧ (giveUpSave s b.block).mem = s.mem ∧
          exec (.preemptOverdue gk) s = .next (if trapOpen u k tr then takeTrap u k tr
            else post (entryWalks s k) 1 (.preemptOverdue gk)))) ∧
    (∀ gk g gr first n, look s.gangs gk = some g → look s.grids g.grid = some gr → g.state = .starting → g.area = some (first, n) →
      (areaOpen s g gr = false → exec (.resumeRestoreComplete gk) s = .next (post s 40 (.resumeRestoreComplete gk))) ∧
      (areaOpen s g gr = true → ∃ t, exec (.resumeRestoreComplete gk) s = .next t ∧ ∃ y, look t.gangs gk = some y ∧ y.state = .resident ∧ y.area = none ∧ y.saved = false ∧
        y.started = s.clk ∧ y.chans = restoreChans s gr first)) ∧
    (∀ q, q < 4 → (bit (csrN s 0 0x501) q = true → ∃ t, exec (.quiesceAck q) s = .next t ∧ bit (csrN t 0 0x501) (4 + q) = true ∧
        ∀ i, i ≠ 4 + q → bit (csrN t 0 0x501) i = bit (csrN s 0 0x501) i) ∧
      (bit (csrN s 0 0x501) q = false → exec (.quiesceAck q) s = .next s)) ∧
    (∃ t, exec (.hgRebindComplete) s = .next t ∧ bit (csrN t 0 0x501) 8 = false ∧ t.rebind = [] ∧
      ∀ c, c < 48 → (coreOf t c).hw = (s.rebind.getD (quarterOf c) none).getD (coreOf s c).hw) ∧
    (∀ k g, look s.grids k = some g → (g.aborted = true ∨ g.ending ≠ none → exec (.abort k) s = .next s) ∧
      (g.aborted = false → g.ending = none → ∃ t, exec (.abort k) s = .next t ∧ ⟨s.clk, .gridEnd k⟩ ∈ t.agenda ∧
        ∃ y, look t.grids k = some y ∧ y.aborted = true ∧ y.returned = [] ∧ y.next = y.lim))

/-- A write of a device register by the PF waits for the end of the clock: the register keeps the bits of `keep` and takes those of
`set` (R318). -/
def WaitsForClock (s : State) (i : Instr) (n : Nat) (keep set : Word) : Prop :=
  exec i s = .next { s with pfWrites := s.pfWrites ++ [⟨n, keep, set⟩] }

/-- A pod peer's access is not made: it is answered with nothing where it awaits an answer. -/
def PodRefused (s : State) (dev off : Nat) (access : PodAccess) : Prop :=
  exec (.podAccessArrival dev off access) s = .next (match access with
    | .read _ | .atomic _ _ _ _ true => { s with sent := s.sent ++ [.reply none] }
    | .write _ | .atomic _ _ _ _ false => s)

/-- Host writes act on the registers they reach, by field and legality; host accesses and those of pod peers read, write and change mapped
memory; resets reset (R65, R154, R181, R203, R204, R318, R320, R321, R322, R323). Rests also on the model's own choices and readings: log entries 1, 3,
19, 31, 42. -/
def Obligations.HostAndResets : Prop :=
  ∀ (s : State),
    (∀ part q v, (hostReaches s false part (lq q 4) = false ∨ lqDev s q = true ∨ tailHeld s q = true) → q < 256 →
        exec (.lqtlWrite part q v) s = .next s) ∧
    (∀ part q v, q < 256 → hostReaches s false part (lq q 4) = true → lqDev s q = false → tailHeld s q = false →
      (v.toNat < lqN s q → ∃ t, exec (.lqtlWrite part q v) s = .next t ∧ lqTl t q = v.toNat) ∧
      (lqN s q ≤ v.toNat → ∃ t, exec (.lqtlWrite part q v) s = .next t ∧ lqTl t q = lqTl s q ∧ bit (csrN t 0 (lq q 5)) 2 = true)) ∧
    (∀ part q, q < 256 → hostReaches s false part (lq q 5) = true →
      (csrN s 0 (lq q 0) % 256 = 0 → (queueOf s q).head = none → lqHd s q = lqTl s q → ∃ t, exec (.lqEnable part q) s = .next t ∧ lqEn t q = true) ∧
      (csrN s 0 (lq q 0) % 256 ≠ 0 → lqEn s q = false → ∃ t, exec (.lqEnable part q) s = .next t ∧ lqEn t q = false ∧ bit (csrN t 0 (lq q 5)) 2 = true) ∧
      ∃ t, exec (.lqDisable part q) s = .next t ∧ lqEn t q = false ∧ t.grids = s.grids) ∧
    (∀ part v, hostReaches s false part 0x201 = true →
      (fld v.toNat 7 4 = 0 ∨ 8 < fld v.toNat 3 0 → exec (.defspillWrite part v) s = .next s) ∧
      (fld v.toNat 7 4 ≠ 0 → fld v.toNat 3 0 ≤ 8 → ∃ t, exec (.defspillWrite part v) s = .next t ∧ csrGet t part 0x201 = rwMerge (csrGet s part 0x201) 0xFF v)) ∧
    (∀ part q v, q < 4 → hostReaches s false part (0x510 + q) = true → (fld v.toNat 29 28 = 3 → exec (.milvWrite part q v) s = .next s) ∧
      (fld v.toNat 29 28 ≠ 3 → ∃ t, exec (.milvWrite part q v) s = .next t ∧ csrGet t part (0x510 + q) = rwMerge (csrGet s part (0x510 + q)) 0xF7FF07FF v ∧
        (csrGet t part (0x510 + q) ≠ csrGet s part (0x510 + q) →
          (∀ c ∈ coresOf s q, (coreOf t c).l1 = [] ∧ (coreOf t c).scaleCache = []) ∧
          ∀ e ∈ t.l2, (l2Of e.1).2.1 = 0 → partOfSector s (l2Of e.1).1 ≠ q))) ∧
    (∀ part n v, 0x400 ≤ n → n < 0x460 → hostReaches s false part n = true → ∃ t, exec (.dbghaltWrite part n v) s = .next t ∧ csrGet t part n = v) ∧
    (∀ part, hostReaches s false part 0x310 = true → ∃ t, exec (.dtrapClear part) s = .next t ∧ ∀ i, i < 4 → csrGet t part (0x310 + i) = 0) ∧
    (∀ part, hostReaches s false part 0x205 = true → ∃ t, exec (.dfltClear part) s = .next t ∧ ∀ i, i < 4 → csrGet t part (0x204 + i) = 0) ∧
    (∀ vf off len, (hostNames s vf off len = none → (∀ v, exec (.controlRegisterWrite vf (off, len) (some v)) s = .next s) ∧
        exec (.controlRegisterWrite vf (off, len) none) s = .next { s with sent := s.sent ++ [.reply none] }) ∧
      (∀ p n, hostNames s vf off len = some (p, n) →
        exec (.controlRegisterWrite vf (off, len) none) s = .next { s with sent := s.sent ++ [.reply (some (bytesLE 4 (csrRead s p n).toNat))] } ∧
        ∀ v, (csrOwner n = some .device → exec (.controlRegisterWrite vf (off, len) (some v)) s =
            .next { s with pfWrites := s.pfWrites ++ [⟨n, 0, v⟩] }) ∧
          (PlainReg n → ∃ t, exec (.controlRegisterWrite vf (off, len) (some v)) s = .next t ∧ csrGet t p n = rwMerge (csrGet s p n) (csrMask n) v ∧
            t.mem = s.mem ∧ t.beams = s.beams) ∧
          (isHalt n = true → exec (.controlRegisterWrite vf (off, len) (some v)) s = .next (post s 0 (.dbghaltWrite p n v))))) ∧
    ((∀ n v, 0x800 ≤ n → n < 0x880 → n % 8 < 6 → WaitsForClock s (.hmaskWrite n v) n 0 v) ∧
      (∀ v, WaitsForClock s (.partcfgWrite v) 0x500 0 v ∧ WaitsForClock s (.qreqWrite v) 0x501 0 (v &&& 0xF) ∧ WaitsForClock s (.nbndWrite v) 0x520 0 v ∧
        WaitsForClock s (.qctlWrite v) 0x530 0 v) ∧
      WaitsForClock s .hgrbWrite 0x501 0xF 0x100 ∧
      ∀ qp, qp < 64 → WaitsForClock s (.fqEnable qp) (fq qp 11) 0xC0 1 ∧ WaitsForClock s (.fqDisable qp) (fq qp 11) 0xC0 0) ∧
    (∀ w, s.pfWrites = [w] → s.cfgNext = none → (s.beams.all fun b => !replaying b.2 && !awaitsEntry s b.1) = true → ∃ u, u.csr = s.csr ∧ u.clk = s.clk + 1 ∧ u.pfWrites = [] ∧ u.cfgNext = none ∧
      tick s = applyPartcfg (csrWrite u 0 w.n ((csrGet u 0 w.n &&& w.keep) ||| w.set) none)) ∧
    (∀ n v g, 0x800 ≤ n → n < 0x880 → n % 8 < 6 → let m := v.toNat % 1048576
      let clash := ∃ k, k < 6 ∧ (n - 0x800) / 8 * 8 + 0x800 + k ≠ n ∧ pivot (csrN s 0 ((n - 0x800) / 8 * 8 + 0x800 + k)) = pivot m
      (m = 0 ∨ clash → csrWrite s 0 n v g = s) ∧ (m ≠ 0 ∧ ¬ clash → csrGet (csrWrite s 0 n v g) 0 n = BitVec.ofNat 32 m)) ∧
    (∀ v, let t := csrWrite s 0 0x500 v none
      let stat := fld (csrN t 0 0x501) 11 9
      let touched := (upTo 4).filter fun q => groupOf (csrN s 0 0x500) q != groupOf (v.toNat % 1024) q
      csrGet t 0 0x500 = csrGet s 0 0x500 ∧
      (legalShape (v.toNat % 1024) = false → t.cfgNext = s.cfgNext ∧ stat = 2) ∧
      (legalShape (v.toNat % 1024) = true → (∃ q ∈ touched, bit (csrN s 0 0x501) (4 + q) = false) → t.cfgNext = s.cfgNext ∧ stat = 1) ∧
      (legalShape (v.toNat % 1024) = true → (∀ q, q < 256 → queueIdle s q = true) → (∀ q ∈ touched, bit (csrN s 0 0x501) (4 + q) = true) →
        t.cfgNext = some (BitVec.ofNat 32 (v.toNat % 1024)) ∧ stat = 0)) ∧
    (∀ v, s.cfgNext = some v → csrGet (applyPartcfg s) 0 0x500 = v ∧ (applyPartcfg s).cfgNext = none) ∧
    (∀ v g, bit (csrN s 0 0x501) 8 = false → let t := csrWrite s 0 0x501 v g
      fld (csrN t 0 0x501) 3 0 = v.toNat % 16 ∧ bit (csrN t 0 0x501) 8 = bit v.toNat 8 ∧
      (∀ q, q < 4 → bit v.toNat q = true → bit (csrN s 0 0x501) q = false → ∃ c, ⟨c, .quiesceAck q⟩ ∈ t.agenda ∧ c ≤ s.clk + 200) ∧
      (bit v.toNat 8 = true → ⟨s.clk + 80, .hgRebindComplete⟩ ∈ t.agenda ∧
        t.rebind = (upTo 4).map fun q => if s.unbound.contains q then some (coreOf s (12 * partOfQuarter s q)).hw else none)) ∧
    (∀ v g, let t := csrWrite s 0 0x520 v g
      let opens := ∃ i, i < 8 ∧ bit v.toNat i = true ∧ bit (csrN s 0 0x520) i = false ∧ partOfQuarter s (i % 4) ≠ partOfQuarter s ((i + 1) % 4)
      (opens → csrGet t 0 0x520 = csrGet s 0 0x520 ∧ fld (csrN t 0 0x501) 11 9 = 2) ∧
      (¬ opens → csrGet t 0 0x520 = rwMerge (csrGet s 0 0x520) 0xFF v ∧ fld (csrN t 0 0x501) 11 9 = 0)) ∧
    (∀ v gr, let t := csrWrite s 0 0x530 v gr
      let busy := ∃ g, g < 4 ∧ partOfQuarter s (pidOf (csrN s 0 0x530) g) ≠ partOfQuarter s (pidOf v.toNat g) ∧
        ∃ i, i < 64 ∧ queueIdle s (64 * g + i) = false
      (busy → csrGet t 0 0x530 = csrGet s 0 0x530 ∧ fld (csrN t 0 0x501) 11 9 = 1) ∧
      (¬ busy → csrGet t 0 0x530 = rwMerge (csrGet s 0 0x530) 0xFF v ∧ fld (csrN t 0 0x501) 11 9 = 0)) ∧
    (∀ qp v g, qp < 64 → let t := csrWrite s 0 (fq qp 11) v g
      (v.getLsbD 0 = false → bit (csrN t 0 (fq qp 11)) 0 = false) ∧
      (v.getLsbD 0 = true → fqRefuses s qp = false ∨ bit (csrN s 0 (fq qp 11)) 0 = true → bit (csrN t 0 (fq qp 11)) 0 = true) ∧
      (v.getLsbD 0 = true → fqRefuses s qp = true → bit (csrN s 0 (fq qp 11)) 0 = false → bit (csrN t 0 (fq qp 11)) 0 = false ∧
        bit (csrN t 0 (fq qp 11)) 2 = true)) ∧
    (∀ part pa data, let ok := functionOf s part = true ∧ rangeMapped s part pa data.length = true
      data ≠ [] → (ok → ∃ t, exec (.hostMemoryWrite part pa data) s = .next t ∧ t.mem = (outsideWrite s part pa data).mem ∧ t.beams = s.beams) ∧
        (¬ ok → exec (.hostMemoryWrite part pa data) s = .next s) ∧
        ∃ t, exec (.hostMemoryRead part pa data.length) s = .next t ∧ t.mem = s.mem ∧ (ok → t.sent = s.sent ++ [.reply (outsideRead s part pa data.length)]) ∧ (¬ ok → t.sent = s.sent ++ [.reply none])) ∧
    (∀ part op (wide : Bool) pa v cmp, let n := if wide then 8 else 4
      (functionOf s part = true → pa % n = 0 → rangeMapped s part pa n = true → blockBad (homeDrop s part pa) part pa = false →
        let old := nearBlockRead (homeDrop s part pa) part pa n
        ∃ t, exec (.hostAtomic part op wide pa v cmp) s = .next t ∧ t.sent = s.sent ++ [.reply (some old)] ∧ t.mem = (nearWrite (homeDrop s part pa) part pa
          (bytesLE n (pcieNew op (8 * n) (leNat old) v.toNat cmp.toNat))).mem) ∧
      (pa % n ≠ 0 → ∃ t, exec (.hostAtomic part op wide pa v cmp) s = .next t ∧ t.sent = s.sent ++ [.reply none] ∧ t.mem = s.mem)) ∧
    (∀ off data, off + data.length ≤ 4194304 → ∃ t, exec (.bootMemoryAccess true off data) s = .next t ∧ memBytes t.mem (bootBase + off) data.length = data ∧ t.sent = s.sent ∧
      ∃ t, exec (.bootMemoryAccess false off data) s = .next t ∧ t.sent = s.sent ++ [.reply (some (memBytes s.mem (bootBase + off) data.length))] ∧ t.mem = s.mem) ∧
    (∀ dev off data, let part := podPart s
      let a := off % 2 ^ 40
      let ok := functionOf s part = true ∧ data ≠ [] ∧ rangeMapped s part a data.length = true
      (dev % 64 = podSelf s → ok →
        ∃ t, exec (.podAccessArrival dev off (.write data)) s = .next t ∧ t.mem = (outsideWrite s part a data).mem ∧
          ∃ t, exec (.podAccessArrival dev off (.read data.length)) s = .next t ∧ t.sent = s.sent ++ [.reply (outsideRead s part a data.length)] ∧ t.mem = s.mem) ∧
      ((dev % 64 = podSelf s ∧ ¬ ok) ∨ (dev % 64 ≠ podSelf s ∧ podReach s (dev % 64) = false) →
        PodRefused s dev off (.write data) ∧ PodRefused s dev off (.read data.length)) ∧
      (dev % 64 ≠ podSelf s → podReach s (dev % 64) = true →
        exec (.podAccessArrival dev off (.write data)) s = .next (outerWrite s 2 (podPlace dev off) data) ∧
          exec (.podAccessArrival dev off (.read data.length)) s =
            .next { s with sent := s.sent ++ [.reply (some (outerRead s 2 (podPlace dev off) data.length))] })) ∧
    (∀ dev off op (wide : Bool) v cmp reply, let part := podPart s
      let a := off % 2 ^ 40
      let n := if wide then 8 else 4
      let ok := functionOf s part = true ∧ rangeMapped s part a n = true ∧ a % n = 0
      let act := PodAccess.atomic op wide v cmp reply
      let h := homeDrop s part a
      let old := leNat (nearBlockRead h part a n)
      (dev % 64 = podSelf s → ok → ∃ t, exec (.podAccessArrival dev off act) s = .next t ∧
        (blockBad h part a = false → t.sent = s.sent ++ (if reply then [.reply (some (bytesLE n old))] else []) ∧
          t.mem = (match podNew op n v cmp old with
            | some w => (nearWrite h part a (bytesLE n w)).mem
            | none => h.mem)) ∧
        (blockBad h part a = true → t.sent = s.sent ++ (if reply then [.reply none] else []) ∧
          t.mem = (if reply then h else poison h part a).mem)) ∧
      ((dev % 64 = podSelf s ∧ ¬ ok) ∨ (dev % 64 ≠ podSelf s ∧ podReach s (dev % 64) = false) → PodRefused s dev off act) ∧
      (dev % 64 ≠ podSelf s → podReach s (dev % 64) = true →
        let was := outerRead s 2 (podPlace dev off) n
        ∃ t, exec (.podAccessArrival dev off act) s = .next t ∧ t.sent = s.sent ++ (if reply then [.reply (some was)] else []) ∧
          t.mem = (match podNew op n v cmp (leNat was) with
            | some w => (outerWrite s 2 (podPlace dev off) (bytesLE n w)).mem
            | none => s.mem))) ∧
    (∀ i, i = .pcieReset ∨ i = .pfFunctionLevelReset → ∃ t, exec (i) s = .next t ∧ (∀ part n, csrGet t part n = csrReset n) ∧ t.beams = [] ∧ t.blocks = [] ∧
      t.gangs = [] ∧ t.grids = [] ∧ t.cores = [] ∧ t.commits = [] ∧ t.queues = [] ∧ t.agenda = [] ∧ t.clk = 0 ∧ t.l2 = [] ∧
      t.pfWrites = [] ∧ t.cfgNext = none ∧ (∀ c ∈ t.mem, hostBase ≤ c.1)) ∧
    (∀ part, functionOf s part = true → ∃ t, exec (.vfFunctionLevelReset part) s = .next t ∧ (∀ g ∈ s.grids, g.2.part = part → ⟨s.clk, .abort g.1⟩ ∈ t.agenda) ∧
      ∀ q, q < 256 → partOfQueue s q = part → look t.queues q = none ∧ ∀ k, k < 16 → csrGet t 0 (lq q k) = 0)
end

