-- ==== Sys2Proof/Laws/NMap.lean ====
section
/-!
SUPPORT. Reading after writing in the finite maps, and that writing keeps the canonical form.
-/
namespace Sys2Proof.Machine

@[simp] theorem look_nil {α : Type} (k : Nat) : look ([] : NMap α) k = none := rfl

theorem look_cons {α : Type} (a : Nat) (x : α) (t : NMap α) (k : Nat) :
    look ((a, x) :: t) k = if a = k then some x else look t k := rfl

@[simp] theorem look_put_same {α : Type} (m : NMap α) (k : Nat) (v : α) : look (put m k v) k = some v := by
  induction m with
  | nil => simp [put, look_cons]
  | cons p t ih =>
    obtain ⟨a, x⟩ := p
    unfold put
    split
    · simp [look_cons]
    · split
      · simp [look_cons]
      · rename_i h1 h2
        rw [look_cons, if_neg (by omega), ih]

theorem look_put_other {α : Type} (m : NMap α) (k j : Nat) (v : α) (h : j ≠ k) :
    look (put m k v) j = look m j := by
  induction m with
  | nil => simp [put, look_cons, Ne.symm h]
  | cons p t ih =>
    obtain ⟨a, x⟩ := p
    unfold put
    split
    · rw [look_cons, if_neg (Ne.symm h)]
    · split
      · rename_i h1 h2
        rw [look_cons, look_cons, if_neg (Ne.symm h), if_neg (by omega)]
      · rw [look_cons, look_cons, ih]

theorem look_put {α : Type} (m : NMap α) (k j : Nat) (v : α) :
    look (put m k v) j = if j = k then some v else look m j := by
  split
  · rename_i h; rw [h, look_put_same]
  · rename_i h; exact look_put_other m k j v h

@[simp] theorem look_del_same {α : Type} (m : NMap α) (k : Nat) : look (del m k) k = none := by
  induction m with
  | nil => rfl
  | cons p t ih =>
    obtain ⟨a, x⟩ := p
    unfold del
    split
    · exact ih
    · rename_i h; rw [look_cons, if_neg h, ih]

theorem look_del_other {α : Type} (m : NMap α) (k j : Nat) (h : j ≠ k) : look (del m k) j = look m j := by
  induction m with
  | nil => rfl
  | cons p t ih =>
    obtain ⟨a, x⟩ := p
    unfold del
    split
    · rename_i h1; rw [ih, look_cons, if_neg (by omega)]
    · rw [look_cons, look_cons, ih]

theorem look_del {α : Type} (m : NMap α) (k j : Nat) :
    look (del m k) j = if j = k then none else look m j := by
  split
  · rename_i h; rw [h, look_del_same]
  · rename_i h; exact look_del_other m k j h

theorem risingFrom_put {α : Type} (m : NMap α) (k : Nat) (v : α) (lo : Option Nat)
    (hlo : ∀ l, lo = some l → l < k) (h : risingFrom lo m = true) : risingFrom lo (put m k v) = true := by
  induction m generalizing lo with
  | nil => cases lo with
    | none => simp [put, risingFrom]
    | some l => simp [put, risingFrom, hlo l rfl]
  | cons p t ih =>
    obtain ⟨a, x⟩ := p
    have ht : risingFrom (some a) t = true := by
      cases lo <;> simp [risingFrom] at h <;> tauto
    have hla : ∀ l, lo = some l → l < a := by
      intro l hl; subst hl; simp [risingFrom] at h; exact h.1
    unfold put
    split
    · rename_i hk
      cases lo with
      | none => simp [risingFrom, hk, ht]
      | some l => simp [risingFrom, hk, ht, hlo l rfl]
    · split
      · rename_i h1 h2; subst h2
        cases lo with
        | none => simpa [risingFrom] using ht
        | some l => simp [risingFrom, hlo l rfl, ht]
      · rename_i h1 h2
        have := ih (some a) (by intro l hl; cases hl; omega) ht
        cases lo with
        | none => simpa [risingFrom] using this
        | some l => simp [risingFrom, hla l rfl, this]

/-- Writing keeps the keys rising. -/
theorem rising_put {α : Type} (m : NMap α) (k : Nat) (v : α) (h : rising m = true) : rising (put m k v) = true :=
  risingFrom_put m k v none (by intro l hl; cases hl) h

theorem risingFrom_weaken {α : Type} (m : NMap α) (lo : Option Nat) (b : Nat)
    (hlo : ∀ l, lo = some l → l ≤ b) (h : risingFrom (some b) m = true) : risingFrom lo m = true := by
  cases m with
  | nil => cases lo <;> rfl
  | cons p t =>
    obtain ⟨a, x⟩ := p
    simp [risingFrom] at h
    cases lo with
    | none => simpa [risingFrom] using h.2
    | some l => have := hlo l rfl; simp [risingFrom, h.2]; omega

theorem risingFrom_del {α : Type} (m : NMap α) (k : Nat) (lo : Option Nat) (h : risingFrom lo m = true) :
    risingFrom lo (del m k) = true := by
  induction m generalizing lo with
  | nil => exact h
  | cons p t ih =>
    obtain ⟨a, x⟩ := p
    have ht : risingFrom (some a) t = true := by
      cases lo <;> simp [risingFrom] at h <;> tauto
    have hla : ∀ l, lo = some l → l < a := by
      intro l hl; subst hl; simp [risingFrom] at h; exact h.1
    unfold del
    split
    · exact ih lo (risingFrom_weaken t lo a (fun l hl => Nat.le_of_lt (hla l hl)) ht)
    · cases lo with
      | none => simpa [risingFrom] using ih _ ht
      | some l => simp [risingFrom, hla l rfl, ih _ ht]

/-- Removing keeps the keys rising. -/
theorem rising_del {α : Type} (m : NMap α) (k : Nat) (h : rising m = true) : rising (del m k) = true :=
  risingFrom_del m k none h

end Sys2Proof.Machine
end

