-- ==== Sys2Proof/Laws/Lanes.lean ====
section
/-!
SUPPORT. Lanes and beams: what `mapLanes`, `beamLanes` and `lanesIn` give at a lane, what a selection knows of its run, and what an
issue of a lane instruction comes to.
-/
namespace Sys2Proof.Machine

open Sys2Proof

/-! ## Lanes of a beam -/

theorem mapLanes_length (on : List Nat) (f : Nat → Lane → Lane) :
    ∀ (k : Nat) (l : List Lane), (mapLanes on f k l).length = l.length
  | _, [] => rfl
  | k, _ :: t => by simp [mapLanes, mapLanes_length on f (k + 1) t]

theorem mapLanes_getElem? (on : List Nat) (f : Nat → Lane → Lane) :
    ∀ (k : Nat) (l : List Lane) (i : Nat),
      (mapLanes on f k l)[i]? = (l[i]?).map fun x => if on.contains (k + i) then f (k + i) x else x
  | _, [], i => by simp [mapLanes]
  | k, x :: t, 0 => by simp [mapLanes]
  | k, x :: t, i + 1 => by
    simp only [mapLanes, List.getElem?_cons_succ]
    rw [mapLanes_getElem? on f (k + 1) t i, show k + 1 + i = k + (i + 1) by omega]

/-- Two passes over the lanes are one. -/
theorem mapLanes_mapLanes (on on' : List Nat) (f f' : Nat → Lane → Lane) :
    ∀ (k : Nat) (l : List Lane),
      mapLanes on' f' k (mapLanes on f k l) =
        mapLanes (on ++ on') (fun i x =>
          let y := if on.contains i then f i x else x
          if on'.contains i then f' i y else y) k l
  | _, [] => rfl
  | k, x :: t => by
    simp only [mapLanes]
    rw [mapLanes_mapLanes on on' f f' (k + 1) t]
    congr 1
    by_cases h : on.contains k <;> by_cases h' : on'.contains k <;> simp_all

/-- A pass over the lanes of a list, where what it does there is the same. -/
theorem mapLanes_congr {on on' : List Nat} {f f' : Nat → Lane → Lane}
    (h : ∀ i x, (if on.contains i then f i x else x) = if on'.contains i then f' i x else x) :
    ∀ (k : Nat) (l : List Lane), mapLanes on f k l = mapLanes on' f' k l
  | _, [] => rfl
  | k, x :: t => by simp only [mapLanes, h k x, mapLanes_congr h (k + 1) t]

theorem laneOf_beamLanes (b : Beam) (on : List Nat) (f : Nat → Lane → Lane) (i : Nat) :
    laneOf (beamLanes b on f) i =
      if i < b.lanes.length then (if on.contains i then f i (laneOf b i) else laneOf b i) else Lane.start := by
  simp only [laneOf, beamLanes, List.getD_eq_getElem?_getD, mapLanes_getElem?, Nat.zero_add]
  by_cases h : i < b.lanes.length
  · simp [h]
  · simp [h]

@[simp] theorem beamLanes_block (b : Beam) (on f) : (beamLanes b on f).block = b.block := rfl
@[simp] theorem beamLanes_idx (b : Beam) (on f) : (beamLanes b on f).idx = b.idx := rfl
@[simp] theorem beamLanes_psw (b : Beam) (on f) : (beamLanes b on f).psw = b.psw := rfl
@[simp] theorem beamLanes_flvl (b : Beam) (on f) : (beamLanes b on f).flvl = b.flvl := rfl
@[simp] theorem beamLanes_framea (b : Beam) (on f) : (beamLanes b on f).framea = b.framea := rfl
@[simp] theorem beamLanes_hold (b : Beam) (on f) : (beamLanes b on f).hold = b.hold := rfl
@[simp] theorem beamLanes_pend (b : Beam) (on f) : (beamLanes b on f).pend = b.pend := rfl
@[simp] theorem beamLanes_stores (b : Beam) (on f) : (beamLanes b on f).stores = b.stores := rfl

theorem mem_lanesWith (p : Lane → Bool) : ∀ (k : Nat) (l : List Lane) (i : Nat),
    i ∈ lanesWith p k l ↔ k ≤ i ∧ ∃ x, l[i - k]? = some x ∧ p x = true
  | k, [], i => by simp [lanesWith]
  | k, x :: t, i => by
    have ih := mem_lanesWith p (k + 1) t i
    by_cases hp : p x = true
    · simp only [lanesWith, hp, if_true, List.mem_cons, ih]
      rcases Nat.lt_trichotomy i k with h | rfl | h
      · constructor
        · rintro (rfl | ⟨h1, _⟩) <;> omega
        · rintro ⟨h1, _⟩; omega
      · simp [hp]
      · rw [show i - k = i - (k + 1) + 1 by omega, List.getElem?_cons_succ]
        constructor
        · rintro (rfl | ⟨_, h2⟩)
          · omega
          · exact ⟨by omega, h2⟩
        · rintro ⟨_, h2⟩; exact .inr ⟨by omega, h2⟩
    · simp only [lanesWith, hp, if_false, ih, Bool.false_eq_true]
      rcases Nat.lt_trichotomy i k with h | rfl | h
      · constructor <;> rintro ⟨h1, _⟩ <;> omega
      · constructor
        · rintro ⟨h1, _⟩; omega
        · rintro ⟨_, y, h2, h3⟩; simp at h2; subst h2; exact absurd h3 hp
      · rw [show i - k = i - (k + 1) + 1 by omega, List.getElem?_cons_succ]
        constructor <;> rintro ⟨_, h2⟩ <;> exact ⟨by omega, h2⟩

/-- The lanes in a state of the counter table, one by one. -/
theorem mem_lanesIn (b : Beam) (st : LaneState) (i : Nat) :
    i ∈ lanesIn b st ↔ i < b.lanes.length ∧ (laneOf b i).state = st := by
  simp only [lanesIn, mem_lanesWith, laneOf, List.getD_eq_getElem?_getD, Nat.zero_le, true_and, Nat.sub_zero, beq_iff_eq]
  constructor
  · rintro ⟨x, h1, h2⟩
    obtain ⟨h3, h4⟩ := List.getElem?_eq_some_iff.1 h1
    exact ⟨h3, by simp [h1, h2]⟩
  · rintro ⟨h1, h2⟩
    exact ⟨b.lanes[i], List.getElem?_eq_getElem h1, by simpa [h1] using h2⟩

/-! ## Selections -/

theorem pickFrom_mem (s : State) : ∀ (m : NMap Beam) {k : Nat} {b : Beam}, pickFrom s m = some (k, b) →
    (k, b) ∈ m ∧ candidate s k b = true
  | [], _, _, h => by simp [pickFrom] at h
  | (j, c) :: t, k, b, h => by
    simp only [pickFrom] at h
    cases ht : pickFrom s t with
    | none =>
      simp only [ht] at h
      by_cases hc : candidate s j c = true
      · simp only [hc, if_true, Option.some.injEq, Prod.mk.injEq] at h
        obtain ⟨rfl, rfl⟩ := h
        exact ⟨by simp, hc⟩
      · simp [hc] at h
    | some p =>
      obtain ⟨k', b'⟩ := p
      have ih := pickFrom_mem s t ht
      simp only [ht] at h
      by_cases hc : (candidate s j c && before j c k' b') = true
      · simp only [hc, if_true, Option.some.injEq, Prod.mk.injEq] at h
        obtain ⟨rfl, rfl⟩ := h
        simp only [Bool.and_eq_true] at hc
        exact ⟨by simp, hc.1⟩
      · simp only [hc, Bool.false_eq_true, if_false, Option.some.injEq, Prod.mk.injEq] at h
        obtain ⟨rfl, rfl⟩ := h
        exact ⟨by simp [ih.1], ih.2⟩

/-- What is known of a run whose turn it is. -/
theorem selected_spec {s : State} {x : Sel} (h : selected s = some x) :
    (x.key, x.beam) ∈ s.beams ∧ candidate s x.key x.beam = true ∧ x.run = runOf x.beam := by
  simp only [selected] at h
  split at h
  · cases h
  cases hp : pickFrom s s.beams with
  | none => simp [hp] at h
  | some p =>
    obtain ⟨k, b⟩ := p
    simp only [hp, Option.some.injEq] at h
    subst h
    exact ⟨(pickFrom_mem s _ hp).1, (pickFrom_mem s _ hp).2, rfl⟩

end Sys2Proof.Machine
end

