-- ==== Sys2Proof/Laws/Issue.lean ====
section
/-!
SUPPORT. What an issue can do, said once: the answer of `issue`, of `gated` where the operands are ready, where the run waits and
where it traps, and of `finish` where the beam keeps a runnable lane; and from these the one law of the lane instructions.
-/
namespace Sys2Proof.Machine

open Sys2Proof

/-! ## Beams in the state -/

@[simp] theorem beamOf_setBeam_same (s : State) (k : Nat) (b : Beam) : beamOf (setBeam s k b) k = some b := look_put_same _ _ _

theorem beamOf_setBeam_other (s : State) (k j : Nat) (b : Beam) (h : j ≠ k) : beamOf (setBeam s k b) j = beamOf s j :=
  look_put_other _ _ _ _ h

theorem onBeam_some {s : State} {k : Nat} {b : Beam} (h : beamOf s k = some b) (f : Beam → Beam) :
    onBeam s k f = setBeam s k (f b) := by
  simp only [beamOf] at h
  simp [onBeam, setBeam, alter, h]

theorem onBeam_none {s : State} {k : Nat} (h : beamOf s k = none) (f : Beam → Beam) : onBeam s k f = s := by
  simp only [beamOf] at h
  simp [onBeam, alter, h]

theorem put_put_same {α : Type} : ∀ (m : NMap α) (k : Nat) (v w : α), put (put m k v) k w = put m k w
  | [], k, v, w => by simp [put]
  | (a, x) :: t, k, v, w => by
    simp only [put]
    by_cases h1 : k < a
    · simp [h1, put]
    · by_cases h2 : k = a
      · simp [h2, put]
      · simp [h1, h2, put, put_put_same t k v w]

@[simp] theorem setBeam_setBeam (s : State) (k : Nat) (b c : Beam) : setBeam (setBeam s k b) k c = setBeam s k c := by
  simp [setBeam, put_put_same]

/-! ## Issue -/

theorem issue_selected {s : State} {x : Sel} (h : selected s = some x) (len : Nat) (e : Effect) :
    issue len e s = .next (finish x (nextPc len) (e x s)) := by
  simp [issue, h]

theorem issue_none {s : State} (h : selected s = none) (len : Nat) (e : Effect) : issue len e s = .fault .noRun := by
  simp [issue, h]

/-- A selected run's beam has a runnable lane (R85). -/
theorem selected_runnable {s : State} {x : Sel} (h : selected s = some x) : lanesIn x.beam .runnable ≠ [] := by
  have hc := (selected_spec h).2.1
  simp only [candidate, eligible, Bool.and_eq_true, Bool.not_eq_true', List.isEmpty_eq_false_iff] at hc
  exact hc.2.1.1.2

/-! ## Full/empty checks (R30, R31, R89) -/

theorem gate_ready {x : Sel} {ex : List Nat} {srcs dsts : List Use} (h : ready x ex srcs dsts = true) :
    gate x ex srcs dsts = .go := by
  simp only [ready, Bool.and_eq_true, List.all_eq_true, Bool.not_eq_true'] at h
  have h1 : srcs.any (fun u => !u.trap && !(emptyLanes x.beam ex u).isEmpty) = false := by
    rw [List.any_eq_false]; intro u hu; simp [h.1 u hu]
  have h2 : srcs.find? (fun u => u.trap && !(emptyLanes x.beam ex u).isEmpty) = none := by
    rw [List.find?_eq_none]; intro u hu; simp [h.1 u hu]
  have h3 : dsts.any (pendingWrite x.beam ex) = false := by
    rw [List.any_eq_false]; intro u hu; simp [h.2 u hu]
  simp [gate, h1, h2, h3]

/-- Where the operands are ready the effect is the instruction's own. -/
theorem gated_ready {x : Sel} {s : State} {ex : List Nat} {srcs dsts : List Use} (h : ready x ex srcs dsts = true) (f : Res) :
    gated x s ex srcs dsts f = f := by
  simp [gated, gate_ready h]

/-- A source under the block policy that is empty in an executing lane makes the run wait (R30, R89). -/
theorem gated_waits {x : Sel} {s : State} {ex : List Nat} {srcs dsts : List Use} {u : Use} (hu : u ∈ srcs)
    (hb : u.trap = false) (he : emptyLanes x.beam ex u ≠ []) (f : Res) : gated x s ex srcs dsts f = .hold s := by
  have h1 : srcs.any (fun u => !u.trap && !(emptyLanes x.beam ex u).isEmpty) = true := by
    rw [List.any_eq_true]; exact ⟨u, hu, by simp [hb, he]⟩
  simp [gated, gate, h1]

/-! ## Finishing -/

theorem settleRun_runnable {s : State} {k : Nat} {b : Beam} (h : beamOf s k = some b) (hr : lanesIn b .runnable ≠ []) :
    settleRun s k = s := by
  simp [settleRun, h, hr]

theorem lanesIn_ne_nil {b : Beam} {st : LaneState} {i : Nat} (h1 : i < b.lanes.length) (h2 : (laneOf b i).state = st) :
    lanesIn b st ≠ [] := by
  intro h
  have := (mem_lanesIn b st i).2 ⟨h1, h2⟩
  simp [h] at this

/-- A beam whose lanes keep their states keeps its runnable lanes. -/
theorem runnable_beamLanes {b : Beam} {on : List Nat} {f : Nat → Lane → Lane} (hf : ∀ i l, (f i l).state = l.state)
    (h : lanesIn b .runnable ≠ []) : lanesIn (beamLanes b on f) .runnable ≠ [] := by
  obtain ⟨i, hi⟩ := List.exists_mem_of_ne_nil _ h
  rw [mem_lanesIn] at hi
  refine lanesIn_ne_nil (i := i) (by simp [beamLanes, mapLanes_length, hi.1]) ?_
  rw [laneOf_beamLanes, if_pos hi.1]
  split
  · rw [hf]; exact hi.2
  · exact hi.2

@[simp] theorem retire_beams {s : State} {k : Nat} {b : Beam} (h : beamOf s k = some b) :
    beamOf (retire s k) k = some { b with lastIssue := s.clk + 1, tried := s.clk + 1, told := [] } := by
  simp only [retire, onBeam_some h]
  exact look_put_same _ _ _

/-- `retire` on the beam of a selection, as `issuedBy` says it. -/
theorem retire_setBeam (s : State) (x : Sel) (b : Beam) (hb : b.block = x.beam.block) :
    retire (setBeam s x.key b) x.key = issuedBy s x b := by
  simp only [issuedBy, ← hb]
  simp only [retire, onBeam_some (beamOf_setBeam_same s x.key b), setBeam_setBeam, beamOf_setBeam_same, Option.map_some,
    Option.getD_some]
  rfl

theorem beamOf_issuedBy (s : State) (x : Sel) (b : Beam) :
    beamOf (issuedBy s x b) x.key = some { b with lastIssue := s.clk + 1, tried := s.clk + 1, told := [] } := look_put_same _ _ _

/-- The answer where an effect changed one lane at a time and the beam is as it was otherwise. -/
theorem finish_lanes {s : State} {x : Sel} {len : Nat} {ex : List Nat} {f : Nat → Lane → Lane}
    (ht : Turn s x) (hex : ∀ i ∈ ex, i ∈ x.run) (hs : ∀ i l, (f i l).state = l.state) :
    finish x (nextPc len) (.done (onLanes s x.key ex f) []) =
      issuedBy s x (beamLanes x.beam x.run fun i l =>
        let m := if ex.contains i then f i l else l
        { m with pc := m.pc + BitVec.ofNat 32 len }) := by
  have hall : x.run.filter (fun i => !List.contains [] i) = x.run := by simp
  have hb : advance (onLanes s x.key ex f) x [] (nextPc len) =
      setBeam s x.key (beamLanes x.beam x.run fun i l =>
        let m := if ex.contains i then f i l else l
        { m with pc := m.pc + BitVec.ofNat 32 len }) := by
    simp only [advance, hall, onLanes, onBeam_some ht.2, onBeam_some (beamOf_setBeam_same _ _ _), setBeam_setBeam, beamLanes,
      mapLanes_mapLanes]
    congr 2
    apply mapLanes_congr
    intro i l
    by_cases hi : i ∈ ex
    · simp [hi, hex i hi, nextPc]
    · by_cases hr : i ∈ x.run <;> simp [hi, hr, nextPc]
  simp only [finish]
  rw [hb, retire_setBeam s x _ (beamLanes_block _ _ _)]
  refine settleRun_runnable (beamOf_issuedBy s x _) ?_
  exact runnable_beamLanes (b := x.beam) (on := x.run) (fun i l => by dsimp only; split <;> simp [hs])
    (selected_runnable ht.1)

theorem execLanes_run (x : Sel) (g : Guard) : ∀ i ∈ execLanes x g, i ∈ x.run := by
  intro i h; exact (List.mem_filter.1 h).1

/-- A lane instruction completes: its answer is the state that `LaneOp.done` gives. -/
theorem issue_lane {s : State} {x : Sel} {o : LaneOp} {e : Effect} (ht : Turn s x) (hr : o.ready x = true)
    (hex : ∀ i ∈ o.lanes, i ∈ x.run) (hs : ∀ i l, (o.act i l).state = l.state)
    (he : e x s = gated x s o.lanes o.srcs o.dsts (.done (onLanes s x.key o.lanes o.act) [])) :
    issue o.len e s = .next (o.done s x) := by
  rw [issue_selected ht.1, he, gated_ready hr, finish_lanes ht hex hs]
  rfl

/-- The same for an instruction whose meaning is an issue of that effect. -/
theorem exec_lane {i : Instr} {s : State} {x : Sel} {o : LaneOp} {n : Nat} {e : Effect} (hi : exec i s = issue n e s)
    (hn : n = o.len) (ht : Turn s x) (hr : o.ready x = true) (hex : ∀ i ∈ o.lanes, i ∈ x.run)
    (hs : ∀ i l, (o.act i l).state = l.state)
    (he : e x s = gated x s o.lanes o.srcs o.dsts (.done (onLanes s x.key o.lanes o.act) [])) :
    exec i s = .next (o.done s x) := by
  rw [hi, hn]; exact issue_lane ht hr hex hs he

/-! ## Writes to a lane leave its place in the counter table alone -/

@[simp] theorem laneSet_state (l : Lane) (r : Nat) (v : Word) : (laneSet l r v).state = l.state := rfl
@[simp] theorem laneSetPair_state (l : Lane) (r : Nat) (v : DWord) : (laneSetPair l r v).state = l.state := rfl
@[simp] theorem laneFlags_state (l : Lane) (f : Word) : (laneFlags l f).state = l.state := rfl
@[simp] theorem laneFloat_state (l : Lane) (r : Nat) (v : FRes) : (laneFloat l r v).state = l.state := rfl
@[simp] theorem laneEmpty_state (l : Lane) (r n : Nat) : (laneEmpty l r n).state = l.state := rfl
@[simp] theorem laneSetPred_state (l : Lane) (p : Nat) (v : Bool) : (laneSetPred l p v).state = l.state := by
  unfold laneSetPred; split
  · rfl
  · split <;> rfl
@[simp] theorem laneSetN_state (l : Lane) (r : Nat) (v : QWord) : ∀ n, (laneSetN l r v n).state = l.state
  | 0 => rfl
  | n + 1 => by simp [laneSetN, laneSetN_state l r v n]

end Sys2Proof.Machine
end

