-- ==== Sys2Proof/Laws/Memory.lean ====
section
/-!
SUPPORT. Memory: reading after writing, the canonical form, and that every operation on memory and caches keeps it and changes
nothing else of the state.
-/
namespace Sys2Proof.Machine

open Sys2Proof

set_option Elab.async false

/-! ## One byte and several (R9) -/

theorem look_filter_all {α : Type} (m : NMap α) (p : Nat × α → Bool) (h : m.all p = true) (k : Nat) (v : α)
    (hk : look m k = some v) : p (k, v) = true := by
  induction m with
  | nil => simp at hk
  | cons c t ih =>
    obtain ⟨a, x⟩ := c
    simp only [List.all_cons, Bool.and_eq_true] at h
    rw [look_cons] at hk
    split at hk
    · rename_i e; cases hk; subst e; exact h.1
    · exact ih h.2 hk

theorem all_put {α : Type} (m : NMap α) (p : Nat × α → Bool) (k : Nat) (v : α) (hv : p (k, v) = true) (h : m.all p = true) :
    (put m k v).all p = true := by
  induction m with
  | nil => simp [put, hv]
  | cons c t ih =>
    obtain ⟨a, x⟩ := c
    simp only [List.all_cons, Bool.and_eq_true] at h
    unfold put
    split
    · simp [hv, h.1, h.2]
    · split
      · simp [hv, h.2]
      · simp [h.1, ih h.2]

theorem all_del {α : Type} (m : NMap α) (p : Nat × α → Bool) (k : Nat) (h : m.all p = true) : (del m k).all p = true := by
  induction m with
  | nil => rfl
  | cons c t ih =>
    obtain ⟨a, x⟩ := c
    simp only [List.all_cons, Bool.and_eq_true] at h
    unfold del
    split
    · exact ih h.2
    · simp [h.1, ih h.2]

/-- A byte reads back as it was written, and every other byte as before. -/
theorem memGet_memSet (m : List Host.Cell) (k j : Nat) (v : Byte) : memGet (memSet m k v) j = if j = k then v else memGet m j := by
  unfold memSet memGet lookD
  by_cases hv : v == unwritten
  · have e : v = unwritten := by simpa using hv
    simp only [hv, if_true, look_del]
    by_cases hj : j = k <;> simp [hj, e]
  · simp only [hv, if_false, look_put, Bool.false_eq_true]
    by_cases hj : j = k <;> simp [hj]

/-- Writing a byte keeps the canonical form. -/
theorem memWf_memSet (m : List Host.Cell) (k : Nat) (v : Byte) (h : memWf m = true) : memWf (memSet m k v) = true := by
  simp only [memWf, Bool.and_eq_true] at h ⊢
  unfold memSet
  split
  · exact ⟨rising_del _ _ h.1, all_del _ _ _ h.2⟩
  · rename_i hv
    exact ⟨rising_put _ _ _ h.1, all_put _ _ _ _ (by simpa using hv) h.2⟩

/-- Writing bytes keeps the canonical form. -/
theorem memWf_memPut (l : List Byte) : ∀ (m : List Host.Cell) (k : Nat), memWf m = true → memWf (memPut m k l) = true := by
  induction l with
  | nil => intro m k h; exact h
  | cons b t ih => intro m k h; exact ih _ _ (memWf_memSet _ _ _ h)

/-- Each byte of a range reads back as it was written, and every byte outside as before. -/
theorem memGet_memPut (l : List Byte) : ∀ (m : List Host.Cell) (k j : Nat),
    memGet (memPut m k l) j = if k ≤ j ∧ j < k + l.length then l.getD (j - k) 0 else memGet m j := by
  induction l with
  | nil => intro m k j; simp only [memPut, List.length_nil]; split <;> first | omega | rfl
  | cons b t ih =>
    intro m k j
    simp only [memPut, ih, memGet_memSet, List.length_cons]
    by_cases h1 : j = k
    · subst h1; simp
    · by_cases h2 : k + 1 ≤ j ∧ j < k + 1 + t.length
      · rw [if_pos h2, if_pos (by omega)]
        have : j - k = (j - (k + 1)) + 1 := by omega
        rw [this]; simp
      · rw [if_neg h2, if_neg h1, if_neg (by omega)]

theorem memBytes_length (m : List Host.Cell) : ∀ (n k : Nat), (memBytes m k n).length = n
  | 0, _ => rfl
  | n + 1, k => by simp [memBytes, memBytes_length m n (k + 1)]

theorem memBytes_congr (m m' : List Host.Cell) : ∀ (n k : Nat), (∀ j, k ≤ j → j < k + n → memGet m' j = memGet m j) →
    memBytes m' k n = memBytes m k n
  | 0, _, _ => rfl
  | n + 1, k, h => by
    simp only [memBytes]
    rw [h k (by omega) (by omega), memBytes_congr m m' n (k + 1) fun j h1 h2 => h j (by omega) (by omega)]

/-- A range reads back as it was written. -/
theorem memBytes_memPut (l : List Byte) : ∀ (m : List Host.Cell) (k : Nat), memBytes (memPut m k l) k l.length = l := by
  induction l with
  | nil => intro m k; rfl
  | cons b t ih =>
    intro m k
    simp only [List.length_cons, memBytes]
    have h1 : memGet (memPut m k (b :: t)) k = b := by simp [memGet_memPut]
    rw [h1]
    simp only [memPut]
    rw [ih]

theorem memWf_reset : memWf State.reset.mem = true := rfl

/-! ## What memory and cache operations can do -/

/-- The state t differs from s in memory, the marks of bad blocks, the L2, the cores' own parts, what is remembered of apertures and the
counter of free values alone, and memory keeps its canonical form. -/
structure OnlyMemory (s t : State) : Prop where
  wf : memWf s.mem = true → memWf t.mem = true
  same : t = { s with mem := t.mem, bad := t.bad, l2 := t.l2, cores := t.cores, aliased := t.aliased, fresh := t.fresh }

theorem OnlyMemory.refl (s : State) : OnlyMemory s s := ⟨id, rfl⟩

theorem OnlyMemory.trans {s t u : State} (h : OnlyMemory s t) (g : OnlyMemory t u) : OnlyMemory s u :=
  ⟨fun w => g.wf (h.wf w), by rw [g.same, h.same]⟩

/-- Any field that is not memory's. -/
theorem OnlyMemory.field {s t : State} {α : Type} (h : OnlyMemory s t) (f : State → α)
    (hf : ∀ (s : State) m b l c a n, f { s with mem := m, bad := b, l2 := l, cores := c, aliased := a, fresh := n } = f s) : f t = f s := by
  rw [h.same, hf]

theorem OnlyMemory.beams {s t : State} (h : OnlyMemory s t) : t.beams = s.beams := h.field (·.beams) fun _ _ _ _ _ _ _ => rfl
theorem OnlyMemory.csr {s t : State} (h : OnlyMemory s t) : t.csr = s.csr := h.field (·.csr) fun _ _ _ _ _ _ _ => rfl
theorem OnlyMemory.clk {s t : State} (h : OnlyMemory s t) : t.clk = s.clk := h.field (·.clk) fun _ _ _ _ _ _ _ => rfl
theorem OnlyMemory.agenda {s t : State} (h : OnlyMemory s t) : t.agenda = s.agenda := h.field (·.agenda) fun _ _ _ _ _ _ _ => rfl
theorem OnlyMemory.blocks {s t : State} (h : OnlyMemory s t) : t.blocks = s.blocks := h.field (·.blocks) fun _ _ _ _ _ _ _ => rfl
theorem OnlyMemory.gangs {s t : State} (h : OnlyMemory s t) : t.gangs = s.gangs := h.field (·.gangs) fun _ _ _ _ _ _ _ => rfl
theorem OnlyMemory.grids {s t : State} (h : OnlyMemory s t) : t.grids = s.grids := h.field (·.grids) fun _ _ _ _ _ _ _ => rfl
theorem OnlyMemory.queues {s t : State} (h : OnlyMemory s t) : t.queues = s.queues := h.field (·.queues) fun _ _ _ _ _ _ _ => rfl
theorem OnlyMemory.commits {s t : State} (h : OnlyMemory s t) : t.commits = s.commits := h.field (·.commits) fun _ _ _ _ _ _ _ => rfl
theorem OnlyMemory.sent {s t : State} (h : OnlyMemory s t) : t.sent = s.sent := h.field (·.sent) fun _ _ _ _ _ _ _ => rfl

/-- An operation that is folded over a list keeps the law. -/
theorem OnlyMemory.foldl {α : Type} (f : State → α → State) (hf : ∀ s a, OnlyMemory s (f s a)) :
    ∀ (l : List α) (s : State), OnlyMemory s (l.foldl f s)
  | [], s => .refl s
  | a :: t, s => (hf s a).trans (OnlyMemory.foldl f hf t (f s a))

theorem OnlyMemory.of_mem {s : State} (m : List Host.Cell) (h : memWf s.mem = true → memWf m = true) :
    OnlyMemory s { s with mem := m } := ⟨h, rfl⟩
theorem OnlyMemory.of_bad (s : State) (b : NMap Bool) : OnlyMemory s { s with bad := b } := ⟨id, rfl⟩
theorem OnlyMemory.of_l2 (s : State) (l : NMap (BitVec 1024 × BitVec 128)) : OnlyMemory s { s with l2 := l } := ⟨id, rfl⟩
theorem OnlyMemory.of_aliased (s : State) (a : NMap (List Alias)) : OnlyMemory s { s with aliased := a } := ⟨id, rfl⟩
theorem OnlyMemory.of_draw (s : State) : OnlyMemory s (draw s) := ⟨id, rfl⟩
theorem OnlyMemory.of_setCore (s : State) (c : Nat) (f : Core → Core) : OnlyMemory s (setCore s c f) := ⟨id, rfl⟩
theorem OnlyMemory.of_put (s : State) (k : Nat) (l : List Byte) : OnlyMemory s { s with mem := memPut s.mem k l } :=
  .of_mem _ (memWf_memPut l _ _)

theorem nearBlockWrite_only (s : State) (part pa : Nat) (l : List Byte) : OnlyMemory s (nearBlockWrite s part pa l) := by
  unfold nearBlockWrite; split
  · exact .of_put s _ l
  · exact .refl s

theorem poison_only (s : State) (part pa : Nat) : OnlyMemory s (poison s part pa) := by
  unfold poison; split
  · exact .of_bad s _
  · exact .refl s

theorem nearWrite_only (s : State) (part pa : Nat) (l : List Byte) : OnlyMemory s (nearWrite s part pa l) := by
  have h := nearBlockWrite_only s part pa l
  unfold nearWrite; dsimp only; split
  · exact h
  · split
    · exact h.trans (.of_bad _ _)
    · split
      · exact h.trans (.of_bad _ _)
      · exact h

theorem homeWrite_only (s : State) (part pa : Nat) (l : List Byte) : OnlyMemory s (homeWrite s part pa l) := by
  unfold homeWrite; dsimp only; split
  · exact .of_l2 s _
  · exact nearWrite_only s part pa l

theorem writeRuns_only (w : State → Nat → List Byte → State) (hw : ∀ s a l, OnlyMemory s (w s a l)) (s : State) (base : Nat)
    (r : List (Nat × List Byte)) : OnlyMemory s (writeRuns w s base r) :=
  OnlyMemory.foldl _ (fun s _ => hw s _ _) r s

theorem homeDrop_only (s : State) (part pa : Nat) : OnlyMemory s (homeDrop s part pa) := by
  unfold homeDrop; dsimp only; split
  · exact (writeRuns_only _ (fun s a l => nearWrite_only s part a l) s _ _).trans (.of_l2 _ _)
  · exact .refl s

theorem blockWrite_only (s : State) (part pa : Nat) (l : List Byte) : OnlyMemory s (blockWrite s part pa l) :=
  (OnlyMemory.of_l2 s _).trans (nearWrite_only _ part pa l)

theorem outerWrite_only (s : State) (apc pa : Nat) (l : List Byte) : OnlyMemory s (outerWrite s apc pa l) := by
  unfold outerWrite; split
  · exact homeWrite_only s _ _ l
  · exact .of_put s _ l

theorem copyBack_only (s : State) (part apc pa : Nat) (x : BitVec 1024) (d : BitVec 128) :
    OnlyMemory s (copyBack s part apc pa x d) := by
  unfold copyBack
  refine writeRuns_only _ (fun s a l => ?_) s _ _
  split
  · exact homeWrite_only s part a l
  · exact outerWrite_only s apc a l

theorem evictL2_only (s : State) (k : Nat) : OnlyMemory s (evictL2 s k) := by
  unfold evictL2; dsimp only; split
  · exact .refl s
  · split
    · exact .refl s
    · split
      · exact (copyBack_only s _ _ _ _ _).trans (.of_l2 _ _)
      · exact homeDrop_only s _ _

theorem l2Fill_only (s : State) (k : Nat) (x : BitVec 1024) : OnlyMemory s (l2Fill s k x) := by
  unfold l2Fill; dsimp only; split
  · exact .of_l2 s _
  · split
    · exact .refl s
    · exact (evictL2_only s _).trans (.of_l2 _ _)

theorem sliceRead_only (s : State) (sector apc pa n : Nat) : OnlyMemory s (sliceRead s sector apc pa n).2 := by
  unfold sliceRead; dsimp only; split
  · exact .refl s
  · dsimp only; split
    · exact .refl s
    · exact l2Fill_only s _ _

theorem sliceWrite_only (s : State) (sector apc pa : Nat) (l : List Byte) : OnlyMemory s (sliceWrite s sector apc pa l) := by
  have h := sliceRead_only s sector apc pa 1
  unfold sliceWrite; dsimp only; split
  · exact h.trans (.of_l2 _ _)
  · split
    · exact h.trans (homeWrite_only _ _ _ _)
    · exact h.trans (outerWrite_only _ _ _ _)

theorem outerThrough_only (s : State) (sector : Option Nat) (apc pa : Nat) (l : List Byte) :
    OnlyMemory s (outerThrough s sector apc pa l) := by
  have h := outerWrite_only s apc pa l
  unfold outerThrough; dsimp only; split
  · exact h
  · split
    · exact h.trans (.of_l2 _ _)
    · exact h

theorem throughWrite_only (s : State) (sector pa : Nat) (l : List Byte) : OnlyMemory s (throughWrite s sector pa l) := by
  have h := homeWrite_only s (partOfSector s sector) pa l
  unfold throughWrite; dsimp only; split
  · split
    · exact h.trans (.of_l2 _ _)
    · exact h
  · exact h

theorem syncSector_only (s : State) (sector : Nat) (which : Nat → Bool) (dropIt : Bool) :
    OnlyMemory s (syncSector s sector which dropIt) := by
  unfold syncSector
  refine OnlyMemory.foldl _ (fun s e => ?_) _ s
  dsimp only; split
  · split
    · split
      · exact .refl s
      · split
        · exact (copyBack_only s _ _ _ _ _).trans (.of_l2 _ _)
        · exact (copyBack_only s _ _ _ _ _).trans (.of_l2 _ _)
    · exact .refl s
  · exact .refl s

theorem releaseCaches_only (s : State) (sector : Nat) (sc : Scope) : OnlyMemory s (releaseCaches s sector sc) := by
  cases sc <;> first | exact .refl s | exact syncSector_only s sector _ false

theorem acquireCaches_only (s : State) (core : Nat) (sc : Scope) : OnlyMemory s (acquireCaches s core sc) := by
  cases sc <;> simp only [acquireCaches]
  · exact .refl s
  · exact .of_setCore s core _
  · exact .of_setCore s core _
  all_goals exact (OnlyMemory.of_setCore s core _).trans (syncSector_only _ _ _ true)

theorem l1Read_only (s : State) (core pa n : Nat) (const : Bool) : OnlyMemory s (l1Read s core pa n const).2 := by
  unfold l1Read; split
  · exact .refl s
  · dsimp only; split
    · exact sliceRead_only s _ _ _ _
    · exact (sliceRead_only s _ _ _ _).trans (.of_setCore _ core _)

theorem l1Update_only (s : State) (core pa : Nat) (l : List Byte) : OnlyMemory s (l1Update s core pa l) := by
  unfold l1Update; split
  · exact .of_setCore s core _
  · exact .refl s

theorem l1Drop_only (s : State) (core pa : Nat) : OnlyMemory s (l1Drop s core pa) := .of_setCore s core _
theorem l1DropConst_only (s : State) (core pa : Nat) : OnlyMemory s (l1DropConst s core pa) := .of_setCore s core _

theorem homePut_only (part : Nat) : ∀ (fuel : Nat) (s : State) (pa : Nat) (l : List Byte), OnlyMemory s (homePut s part fuel pa l)
  | 0, s, _, _ => .refl s
  | fuel + 1, s, pa, l => by
    unfold homePut; split
    · exact .refl s
    · split
      · exact (blockWrite_only s part pa _).trans (homePut_only part fuel _ _ _)
      · exact (homeWrite_only s part pa _).trans (homePut_only part fuel _ _ _)

/-! ## Translated accesses -/

theorem devWrite_only {s t : State} {part : Nat} {sector : Option Nat} {x : Xl} {l : List Byte}
    (h : devWrite s part sector x l = some t) : OnlyMemory s t := by
  unfold devWrite at h
  split at h
  · split at h
    · cases h; split
      · exact homeWrite_only s part _ l
      · exact throughWrite_only s _ _ l
    · cases h; exact homeWrite_only s part _ l
  · cases h; exact outerThrough_only s sector 1 _ l
  · split at h
    · cases h; exact outerThrough_only s sector 2 _ l
    · cases h
  · split at h
    · cases h; exact .of_put s _ l
    · split at h
      · cases h; exact nearWrite_only s part _ l
      · cases h

theorem supWrite_only (core : Nat) (told : List Told) : ∀ (fuel : Nat) (s : State) (va : Nat) (l : List Byte) (t : State),
    supWrite core told fuel s va l = some t → OnlyMemory s t
  | 0, s, va, l, t, h => by
    unfold supWrite at h; split at h
    · cases h; exact .refl s
    · cases h
  | fuel + 1, s, va, l, t, h => by
    unfold supWrite at h; split at h
    · cases h; exact .refl s
    · split at h
      iterate 4 · cases h
      · rename_i x _
        have hif : OnlyMemory s (if x.apc = 0 then l1Update s core x.pa (l.take (128 - va % 128)) else s) := by
          split
          · exact l1Update_only s core _ _
          · exact .refl s
        dsimp only at h
        generalize (if x.apc = 0 then l1Update s core x.pa (l.take (128 - va % 128)) else s) = y at h hif
        split at h
        · cases h
        · rename_i s2 h2
          exact hif.trans ((devWrite_only h2).trans (supWrite_only core told fuel _ _ _ _ h))

theorem schedWrite_only (part : Nat) (strict : Bool) : ∀ (fuel : Nat) (s : State) (va : Nat) (l : List Byte) (t : State),
    schedWrite part strict fuel s va l = some t → OnlyMemory s t
  | 0, s, va, l, t, h => by
    unfold schedWrite at h; split at h
    · cases h; exact .refl s
    · cases h
  | fuel + 1, s, va, l, t, h => by
    unfold schedWrite at h; split at h
    · cases h; exact .refl s
    · split at h
      · cases h
      · split at h
        · cases h
        · dsimp only at h
          split at h
          · cases h
          · rename_i h2
            exact (devWrite_only h2).trans (schedWrite_only part strict fuel _ _ _ _ h)

/-! ## Performing -/

theorem ownCopyBack_only (s : State) (sector apc pa : Nat) (dropIt : Bool) : OnlyMemory s (ownCopyBack s sector apc pa dropIt) := by
  unfold ownCopyBack; dsimp only; split
  · split
    · split
      · exact (copyBack_only s _ _ _ _ _).trans (.of_l2 _ _)
      · exact (copyBack_only s _ _ _ _ _).trans (.of_l2 _ _)
    · exact .refl s
  · exact .refl s

theorem noteAlias_only (s : State) (core t : Nat) (old new : List Byte) : OnlyMemory s (noteAlias s core t old new) := by
  unfold noteAlias; split
  · exact .refl s
  · exact .of_aliased s _

theorem aliasMix_only (s : State) (core t : Nat) (l : List Byte) : OnlyMemory s (aliasMix s core t l).2 := by
  unfold aliasMix; dsimp only; split
  · exact .refl s
  · exact .of_draw s

theorem loadBytes_only (s : State) (core t : Nat) (sc : Scope) (const : Bool) (n : Nat) :
    OnlyMemory s (loadBytes s core t sc const n).2 := by
  unfold loadBytes; dsimp only; split
  · split
    · split <;> exact .refl s
    · split
      · split <;> exact .refl s
      · split
        · exact .refl s
        · cases sc <;> dsimp only
          · exact l1Read_only s core _ n const
          · exact l1Read_only s core _ n const
          · exact sliceRead_only s _ _ _ n
          · exact ownCopyBack_only s _ _ _ _
          · exact ownCopyBack_only s _ _ _ _
          · exact ownCopyBack_only s _ _ _ _
  · repeat' split
    all_goals exact .refl s
  · split
    · exact .refl s
    · split
      · exact .refl s
      · cases sc <;> dsimp only
        · exact sliceRead_only s _ _ _ n
        · exact sliceRead_only s _ _ _ n
        · exact sliceRead_only s _ _ _ n
        all_goals exact ownCopyBack_only s _ _ _ _

theorem loadPath_only (s : State) (core t : Nat) (sc : Scope) (const : Bool) (n : Nat) :
    OnlyMemory s (loadPath s core t sc const n).2 := by
  have h := loadBytes_only s core t sc const n
  unfold loadPath
  generalize loadBytes s core t sc const n = r at h
  obtain ⟨_ | l, u⟩ := r
  · exact h
  · exact h.trans (aliasMix_only u core t l)

theorem storeBytes_only (s : State) (core t : Nat) (sc : Scope) (l : List Byte) : OnlyMemory s (storeBytes s core t sc l) := by
  unfold storeBytes; dsimp only; split
  · split
    · exact (l1DropConst_only s core _).trans (homeWrite_only _ _ _ l)
    · cases sc <;> dsimp only
      · exact (l1Update_only s core _ l).trans (sliceWrite_only _ _ _ _ l)
      · exact (l1Update_only s core _ l).trans (sliceWrite_only _ _ _ _ l)
      · exact (l1Update_only s core _ l).trans (sliceWrite_only _ _ _ _ l)
      · exact (l1Update_only s core _ l).trans (throughWrite_only _ _ _ l)
      · exact (l1Update_only s core _ l).trans (throughWrite_only _ _ _ l)
      · exact (l1Update_only s core _ l).trans (throughWrite_only _ _ _ l)
  · split
    · exact .of_put s _ l
    · split
      · exact nearWrite_only s _ _ l
      · exact .refl s
  · split
    · exact outerWrite_only s _ _ l
    · cases sc <;> dsimp only
      · exact sliceWrite_only s _ _ _ l
      · exact sliceWrite_only s _ _ _ l
      · exact sliceWrite_only s _ _ _ l
      all_goals exact outerThrough_only s _ _ _ l

theorem storePath_only (s : State) (core t : Nat) (sc : Scope) (l : List Byte) : OnlyMemory s (storePath s core t sc l) :=
  (noteAlias_only s core t _ l).trans (storeBytes_only _ core t sc l)

theorem promote_only (s : State) (part apc pa : Nat) : OnlyMemory s (promote s part apc pa) := by
  unfold promote
  exact OnlyMemory.foldl _ (fun s sec => (syncSector_only s sec _ false).trans (ownCopyBack_only _ sec apc pa true)) _ s

/-- A step that is taken only under a condition. -/
theorem OnlyMemory.ite {s t : State} (h : OnlyMemory s t) (c : Bool) : OnlyMemory s (if c = true then t else s) := by
  cases c
  · exact .refl s
  · exact h

theorem atomWrite_only (s : State) (core t bytes old : Nat) (v : Option Nat) (w : State → List Byte → State)
    (hw : ∀ s l, OnlyMemory s (w s l)) : OnlyMemory s (atomWrite s core t bytes old v w) := by
  cases v
  · exact .refl s
  · exact (noteAlias_only s core t _ _).trans (hw _ _)

theorem nearAtom_only (s : State) (part pa core t bytes : Nat) (f : Nat → Option Nat) :
    OnlyMemory s (nearAtom s part pa core t bytes f).2 := by
  have h := homeDrop_only s part pa
  unfold nearAtom; dsimp only; split
  · exact h
  · exact h.trans (atomWrite_only _ core t bytes _ _ _ fun s l => nearWrite_only s part pa l)

theorem atomPath_only (s : State) (core t bytes : Nat) (q : QF) (f : Nat → Option Nat) :
    OnlyMemory s (atomPath s core t bytes q f).2 := by
  have h0 := l1Drop_only s core (tgPa t)
  have h1 : ∀ c : Bool, OnlyMemory s (if c = true then promote (l1Drop s core (tgPa t)) (partOfCore s core) 0 (tgPa t)
      else l1Drop s core (tgPa t)) := fun c => h0.trans (OnlyMemory.ite (promote_only _ _ _ _) c)
  have h2 : ∀ (c : Bool) (k : Nat), OnlyMemory s (ownCopyBack (if c = true then promote s (partOfCore s core) (tgApc t) (tgPa t)
      else s) k (tgApc t) (tgPa t) true) := fun c _ => (OnlyMemory.ite (promote_only _ _ _ _) c).trans (ownCopyBack_only _ _ _ _ _)
  unfold atomPath; dsimp only; split
  · split
    · split
      · exact h0
      · exact h0.trans ((sliceRead_only _ _ _ _ _).trans
          (atomWrite_only _ core t bytes _ _ _ fun s l => sliceWrite_only s _ _ _ l))
    · exact (h1 _).trans ((ownCopyBack_only _ _ _ _ _).trans (nearAtom_only _ _ _ _ _ _ _))
  · exact .refl s
  · have h3 := h2 (q.prm && wideScope q.scope) (core / 4)
    generalize ownCopyBack (if (q.prm && wideScope q.scope) = true then promote s (partOfCore s core) (tgApc t) (tgPa t)
      else s) (core / 4) (tgApc t) (tgPa t) true = u at h3 ⊢
    split
    · exact h3.trans (nearAtom_only _ _ _ _ _ _ _)
    · split
      · exact h3
      · exact h3.trans (atomWrite_only _ core t bytes _ _ _ fun s l => outerWrite_only s _ _ l)

end Sys2Proof.Machine
end

