-- ==== Sys2Proof/Laws/PerInstr.lean ====
section
/-!
SUPPORT. The encoder and the decoder agree, said once for each constructor: the fields of a well-formed instruction lie in
their ranges, and decoding them gives the instruction back.
-/
namespace Sys2Proof.Laws.Encode

set_option Elab.async false
set_option linter.unusedSimpArgs false

open Sys2Proof

/-- Every field fits its bits (R27). -/
def InRange (f : Fields) : Prop := f.op < 128 ∧ f.d < 64 ∧ f.a < 64 ∧ f.wa < 2 ∧ f.mid < 128 ∧ f.top < 16

/-- What is said of one instruction: the fields of a 32-bit instruction are in range and decode to it, and a 16-bit one decodes
from its halfword. -/
def Statement (i : Instr) : Prop :=
  i.wf = true →
    (∀ f, encodeFields i = some f → InRange f ∧ decodeFields f = .ok i) ∧
    (∀ op d a, encodeShort i = some (op, d, a) →
      op < 16 ∧ d < 32 ∧ a.r < 32 ∧ decodeShort (2 * op + 32 * d + 1024 * a.r + 32768 * a.trap.toNat) = i)

theorem bool_beq (b : Bool) : (b.toNat == 1) = b := by cases b <;> rfl

theorem bool_lt (b : Bool) : b.toNat < 2 := by cases b <;> decide

@[simp] theorem srcA_mk (op d m t : Nat) (a : Src) : Fields.srcA ⟨op, d, a.r, a.trap.toNat, m, t⟩ = a := by
  simp [Fields.srcA]

theorem srcB_mk (op d a wa t : Nat) (s : Src) (h : s.r < 64) : Fields.srcB ⟨op, d, a, wa, s.code, t⟩ = s := by
  have h1 : s.code % 64 = s.r := by simp [Src.code]; omega
  have h2 : s.code / 64 = s.trap.toNat := by simp [Src.code]; omega
  simp [Fields.srcB, h1, h2]

theorem guard_mk (op d a wa m : Nat) (g : Guard) (h : g.p < 8) : Fields.guard ⟨op, d, a, wa, m, g.code⟩ = g := by
  have h1 : g.code % 8 = g.p := by simp [Guard.code]; omega
  have h2 : g.code / 8 = g.neg.toNat := by simp [Guard.code]; omega
  simp [Fields.guard, h1, h2]

theorem code_lt (s : Src) (h : s.r < 64) : s.code < 128 := by
  have := bool_lt s.trap
  simp only [Src.code]; omega

theorem guard_lt (g : Guard) (h : g.p < 8) : g.code < 16 := by
  have := bool_lt g.neg
  simp only [Guard.code]; omega

theorem q_mk (q : QF) : QF.ofCode q.code = some q := by
  obtain ⟨s, o, p⟩ := q
  cases s <;> cases o <;> cases p <;> rfl

theorem q_lt (q : QF) : q.code < 128 := by
  obtain ⟨s, o, p⟩ := q
  cases s <;> cases o <;> cases p <;> decide

theorem imm_mk (op d imm : Nat) : (Fields.ofImm op d imm).imm18 = imm := by
  simp only [Fields.ofImm, Fields.imm18]; omega

theorem imm_range (op d imm : Nat) (ho : op < 128) (hd : d < 64) (h : imm < 262144) : InRange (Fields.ofImm op d imm) := by
  simp only [InRange, Fields.ofImm]; omega

theorem sense_mk (op p imm : Nat) (b : Bool) (h : p < 32) : (Fields.ofImm op (p + 32 * b.toNat) imm).sense = b := by
  have h2 : (p + 32 * b.toNat) / 32 = b.toNat := by omega
  simp [Fields.ofImm, Fields.sense, h2]

theorem index_mk (op p imm : Nat) (b : Bool) (h : p < 32) : (Fields.ofImm op (p + 32 * b.toNat) imm).index = p := by
  have h2 : (p + 32 * b.toNat) % 32 = p := by omega
  simp [Fields.ofImm, Fields.index, h2]

theorem okPair_lt {s : Src} (h : s.okPair = true) : s.r < 64 := by
  simp [Src.okPair, pair, below] at h; exact h.1

theorem pair_lt {r : Nat} (h : pair r = true) : r < 64 := by simp [pair, below] at h; exact h.1

theorem quad_lt {r : Nat} (h : quad r = true) : r < 64 := by simp [quad, below] at h; exact h.1

theorem regIf_lt {w : Bool} {r : Nat} (h : regIf w r = true) : r < 64 := by
  cases w <;> simp [regIf, reg, pair, below] at h <;> omega

theorem okIf_lt {s : Src} {w : Bool} (h : s.okIf w = true) : s.r < 64 := regIf_lt h

theorem regSize_lt {z : MemSize} {r : Nat} (h : regSize z r = true) : r < 64 := by
  cases z <;> simp [regSize, reg, pair, quad, below] at h <;> omega

theorem ok_lt {s : Src} (h : s.ok = true) : s.r < 64 := by simpa [Src.ok, reg, below] using h

theorem guard_ok_lt {g : Guard} (h : g.ok = true) : g.p < 8 := by simp [Guard.ok, below] at h; exact h.1

theorem below_lt {n x : Nat} (h : below n x = true) : x < n := by simpa [below] using h

theorem reg_lt {x : Nat} (h : reg x = true) : x < 64 := by simpa [reg, below] using h


theorem onlyQ_mk (op d a wa t : Nat) (q : QF) (u : Bool) (i : QF → Instr) :
    onlyQ ⟨op, d, a, wa, q.code, t⟩ u i = only u (i q) := by
  simp only [onlyQ, q_mk]

theorem icond_lt (c : ICond) : c.code < 6 := by cases c <;> decide

theorem fcond_lt (c : FCond) : c.code < 8 := by cases c <;> decide

theorem rmode_lt (c : RMode) : c.code < 5 := by cases c <;> decide

theorem directed_lt (c : RMode) : c.directedCode < 5 := by cases c <;> decide

theorem dir_lt (c : RMode) (h : c.notRne = true) : c.directedCode < 4 := by cases c <;> first | exact absurd h (by decide) | decide

theorem loc_lt (c : MemSize) (h : c.notWord = true) : c.localCode < 4 := by cases c <;> first | exact absurd h (by decide) | decide

theorem frnd_lt (c : RMode) (h : c.notSr = true) : c.code < 4 := by cases c <;> first | exact absurd h (by decide) | decide

theorem cvt_lt (c : CvtKind) : c.code < 16 := by cases c <;> decide

theorem shfl_lt (c : ShflMode) : c.code < 4 := by cases c <;> decide

theorem redop_lt (c : RedOp) : c.code < 11 := by cases c <;> decide

theorem atom_lt (c : AtomOp) : c.code < 12 := by cases c <;> decide

theorem sp_lt (c : SpReg) : c.code < 12 := by cases c <;> decide

theorem hstate_lt (c : HState) : c.code < 4 := by cases c <;> decide

theorem size_lt (c : MemSize) : c.code < 5 := by cases c <;> decide

theorem local_lt (c : MemSize) : c.localCode < 5 := by cases c <;> decide

theorem imm7_lt {i : Nat} (h : below 128 i = true) : i < 128 := below_lt h

theorem short_case {op d : Nat} {a : Src} {i : Instr} (ho : op < 16) (hd : d < 32) (ha : a.r < 32)
    (h : ∀ n, n / 2 % 16 = op → n / 32 % 32 = d → n / 1024 % 32 = a.r → n / 32768 % 2 = a.trap.toNat → decodeShort n = i) :
    op < 16 ∧ d < 32 ∧ a.r < 32 ∧ decodeShort (2 * op + 32 * d + 1024 * a.r + 32768 * a.trap.toNat) = i := by
  have ht := bool_lt a.trap
  exact ⟨ho, hd, ha, h _ (by omega) (by omega) (by omega) (by omega)⟩

theorem event_case {i : Instr} (h : encodeFields i = none) (h2 : encodeShort i = none) : Statement i := by
  intro _
  refine ⟨fun f e => ?_, fun op d a e => ?_⟩
  · rw [h] at e; cases e
  · rw [h2] at e; cases e

theorem movS (d : Nat) (a : Src) : Statement (.movS d a) := by
  intro w
  simp only [Instr.wf, Bool.and_eq_true] at w
  have hd := below_lt w.1
  have ha := below_lt w.2
  refine ⟨fun f h => by simp [encodeFields] at h, fun op d2 a2 h => ?_⟩
  simp only [encodeShort, Option.some.injEq, Prod.mk.injEq] at h
  obtain ⟨rfl, rfl, rfl⟩ := h
  exact short_case (by decide) hd ha fun n e1 e2 e3 e4 => by simp [decodeShort, e1, e2, e3, e4]

theorem iaddS (d : Nat) (a : Src) : Statement (.iaddS d a) := by
  intro w
  simp only [Instr.wf, Bool.and_eq_true] at w
  have hd := below_lt w.1
  have ha := below_lt w.2
  refine ⟨fun f h => by simp [encodeFields] at h, fun op d2 a2 h => ?_⟩
  simp only [encodeShort, Option.some.injEq, Prod.mk.injEq] at h
  obtain ⟨rfl, rfl, rfl⟩ := h
  exact short_case (by decide) hd ha fun n e1 e2 e3 e4 => by simp [decodeShort, e1, e2, e3, e4]

theorem isubS (d : Nat) (a : Src) : Statement (.isubS d a) := by
  intro w
  simp only [Instr.wf, Bool.and_eq_true] at w
  have hd := below_lt w.1
  have ha := below_lt w.2
  refine ⟨fun f h => by simp [encodeFields] at h, fun op d2 a2 h => ?_⟩
  simp only [encodeShort, Option.some.injEq, Prod.mk.injEq] at h
  obtain ⟨rfl, rfl, rfl⟩ := h
  exact short_case (by decide) hd ha fun n e1 e2 e3 e4 => by simp [decodeShort, e1, e2, e3, e4]

theorem imulS (d : Nat) (a : Src) : Statement (.imulS d a) := by
  intro w
  simp only [Instr.wf, Bool.and_eq_true] at w
  have hd := below_lt w.1
  have ha := below_lt w.2
  refine ⟨fun f h => by simp [encodeFields] at h, fun op d2 a2 h => ?_⟩
  simp only [encodeShort, Option.some.injEq, Prod.mk.injEq] at h
  obtain ⟨rfl, rfl, rfl⟩ := h
  exact short_case (by decide) hd ha fun n e1 e2 e3 e4 => by simp [decodeShort, e1, e2, e3, e4]

theorem andS (d : Nat) (a : Src) : Statement (.andS d a) := by
  intro w
  simp only [Instr.wf, Bool.and_eq_true] at w
  have hd := below_lt w.1
  have ha := below_lt w.2
  refine ⟨fun f h => by simp [encodeFields] at h, fun op d2 a2 h => ?_⟩
  simp only [encodeShort, Option.some.injEq, Prod.mk.injEq] at h
  obtain ⟨rfl, rfl, rfl⟩ := h
  exact short_case (by decide) hd ha fun n e1 e2 e3 e4 => by simp [decodeShort, e1, e2, e3, e4]

theorem orS (d : Nat) (a : Src) : Statement (.orS d a) := by
  intro w
  simp only [Instr.wf, Bool.and_eq_true] at w
  have hd := below_lt w.1
  have ha := below_lt w.2
  refine ⟨fun f h => by simp [encodeFields] at h, fun op d2 a2 h => ?_⟩
  simp only [encodeShort, Option.some.injEq, Prod.mk.injEq] at h
  obtain ⟨rfl, rfl, rfl⟩ := h
  exact short_case (by decide) hd ha fun n e1 e2 e3 e4 => by simp [decodeShort, e1, e2, e3, e4]

theorem xorS (d : Nat) (a : Src) : Statement (.xorS d a) := by
  intro w
  simp only [Instr.wf, Bool.and_eq_true] at w
  have hd := below_lt w.1
  have ha := below_lt w.2
  refine ⟨fun f h => by simp [encodeFields] at h, fun op d2 a2 h => ?_⟩
  simp only [encodeShort, Option.some.injEq, Prod.mk.injEq] at h
  obtain ⟨rfl, rfl, rfl⟩ := h
  exact short_case (by decide) hd ha fun n e1 e2 e3 e4 => by simp [decodeShort, e1, e2, e3, e4]

theorem shlS (d : Nat) (a : Src) : Statement (.shlS d a) := by
  intro w
  simp only [Instr.wf, Bool.and_eq_true] at w
  have hd := below_lt w.1
  have ha := below_lt w.2
  refine ⟨fun f h => by simp [encodeFields] at h, fun op d2 a2 h => ?_⟩
  simp only [encodeShort, Option.some.injEq, Prod.mk.injEq] at h
  obtain ⟨rfl, rfl, rfl⟩ := h
  exact short_case (by decide) hd ha fun n e1 e2 e3 e4 => by simp [decodeShort, e1, e2, e3, e4]

theorem shrS (d : Nat) (a : Src) : Statement (.shrS d a) := by
  intro w
  simp only [Instr.wf, Bool.and_eq_true] at w
  have hd := below_lt w.1
  have ha := below_lt w.2
  refine ⟨fun f h => by simp [encodeFields] at h, fun op d2 a2 h => ?_⟩
  simp only [encodeShort, Option.some.injEq, Prod.mk.injEq] at h
  obtain ⟨rfl, rfl, rfl⟩ := h
  exact short_case (by decide) hd ha fun n e1 e2 e3 e4 => by simp [decodeShort, e1, e2, e3, e4]

theorem sraS (d : Nat) (a : Src) : Statement (.sraS d a) := by
  intro w
  simp only [Instr.wf, Bool.and_eq_true] at w
  have hd := below_lt w.1
  have ha := below_lt w.2
  refine ⟨fun f h => by simp [encodeFields] at h, fun op d2 a2 h => ?_⟩
  simp only [encodeShort, Option.some.injEq, Prod.mk.injEq] at h
  obtain ⟨rfl, rfl, rfl⟩ := h
  exact short_case (by decide) hd ha fun n e1 e2 e3 e4 => by simp [decodeShort, e1, e2, e3, e4]

theorem iminS (d : Nat) (a : Src) : Statement (.iminS d a) := by
  intro w
  simp only [Instr.wf, Bool.and_eq_true] at w
  have hd := below_lt w.1
  have ha := below_lt w.2
  refine ⟨fun f h => by simp [encodeFields] at h, fun op d2 a2 h => ?_⟩
  simp only [encodeShort, Option.some.injEq, Prod.mk.injEq] at h
  obtain ⟨rfl, rfl, rfl⟩ := h
  exact short_case (by decide) hd ha fun n e1 e2 e3 e4 => by simp [decodeShort, e1, e2, e3, e4]

theorem imaxS (d : Nat) (a : Src) : Statement (.imaxS d a) := by
  intro w
  simp only [Instr.wf, Bool.and_eq_true] at w
  have hd := below_lt w.1
  have ha := below_lt w.2
  refine ⟨fun f h => by simp [encodeFields] at h, fun op d2 a2 h => ?_⟩
  simp only [encodeShort, Option.some.injEq, Prod.mk.injEq] at h
  obtain ⟨rfl, rfl, rfl⟩ := h
  exact short_case (by decide) hd ha fun n e1 e2 e3 e4 => by simp [decodeShort, e1, e2, e3, e4]

theorem faddS (d : Nat) (a : Src) : Statement (.faddS d a) := by
  intro w
  simp only [Instr.wf, Bool.and_eq_true] at w
  have hd := below_lt w.1
  have ha := below_lt w.2
  refine ⟨fun f h => by simp [encodeFields] at h, fun op d2 a2 h => ?_⟩
  simp only [encodeShort, Option.some.injEq, Prod.mk.injEq] at h
  obtain ⟨rfl, rfl, rfl⟩ := h
  exact short_case (by decide) hd ha fun n e1 e2 e3 e4 => by simp [decodeShort, e1, e2, e3, e4]

theorem fsubS (d : Nat) (a : Src) : Statement (.fsubS d a) := by
  intro w
  simp only [Instr.wf, Bool.and_eq_true] at w
  have hd := below_lt w.1
  have ha := below_lt w.2
  refine ⟨fun f h => by simp [encodeFields] at h, fun op d2 a2 h => ?_⟩
  simp only [encodeShort, Option.some.injEq, Prod.mk.injEq] at h
  obtain ⟨rfl, rfl, rfl⟩ := h
  exact short_case (by decide) hd ha fun n e1 e2 e3 e4 => by simp [decodeShort, e1, e2, e3, e4]

theorem fmulS (d : Nat) (a : Src) : Statement (.fmulS d a) := by
  intro w
  simp only [Instr.wf, Bool.and_eq_true] at w
  have hd := below_lt w.1
  have ha := below_lt w.2
  refine ⟨fun f h => by simp [encodeFields] at h, fun op d2 a2 h => ?_⟩
  simp only [encodeShort, Option.some.injEq, Prod.mk.injEq] at h
  obtain ⟨rfl, rfl, rfl⟩ := h
  exact short_case (by decide) hd ha fun n e1 e2 e3 e4 => by simp [decodeShort, e1, e2, e3, e4]

theorem fmaxS (d : Nat) (a : Src) : Statement (.fmaxS d a) := by
  intro w
  simp only [Instr.wf, Bool.and_eq_true] at w
  have hd := below_lt w.1
  have ha := below_lt w.2
  refine ⟨fun f h => by simp [encodeFields] at h, fun op d2 a2 h => ?_⟩
  simp only [encodeShort, Option.some.injEq, Prod.mk.injEq] at h
  obtain ⟨rfl, rfl, rfl⟩ := h
  exact short_case (by decide) hd ha fun n e1 e2 e3 e4 => by simp [decodeShort, e1, e2, e3, e4]

theorem movB32 (g : Guard) (a : Src) (d : Nat) : Statement (.movB32 g a d) := by
  intro w
  refine ⟨fun f h => ?_, fun _ _ _ h => by simp [encodeShort] at h⟩
  simp only [encodeFields, Option.some.injEq] at h
  subst h
  simp only [Instr.wf, Bool.and_eq_true] at w
  obtain ⟨⟨h0, h1⟩, h2⟩ := w
  have k_g := guard_ok_lt h0
  have c_g := guard_lt g k_g
  have k_a := ok_lt h1
  have k_d := reg_lt h2
  have t_a := bool_lt a.trap
  refine ⟨by simp only [InRange]; omega, ?_⟩
  show Except.ok (Instr.movB32 (Fields.guard ⟨_, _, _, _, _, _⟩) (Fields.srcA ⟨_, _, _, _, _, _⟩) _) = _
  rw [guard_mk _ _ _ _ _ _ k_g, srcA_mk]

theorem movi (d : Nat) (i18 : Nat) : Statement (.movi d i18) := by
  intro w
  refine ⟨fun f h => ?_, fun _ _ _ h => by simp [encodeShort] at h⟩
  simp only [encodeFields, Option.some.injEq] at h
  subst h
  simp only [Instr.wf, Bool.and_eq_true] at w
  obtain ⟨h0, h1⟩ := w
  have k_d := reg_lt h0
  have k_i18 := below_lt h1
  refine ⟨imm_range _ _ _ (by decide) (by omega) k_i18, ?_⟩
  have e3 := imm_mk 1 d i18
  show Except.ok _ = _
  rw [e3]
  rfl

theorem movhi (d : Nat) (i18 : Nat) : Statement (.movhi d i18) := by
  intro w
  refine ⟨fun f h => ?_, fun _ _ _ h => by simp [encodeShort] at h⟩
  simp only [encodeFields, Option.some.injEq] at h
  subst h
  simp only [Instr.wf, Bool.and_eq_true] at w
  obtain ⟨h0, h1⟩ := w
  have k_d := reg_lt h0
  have k_i18 := below_lt h1
  refine ⟨imm_range _ _ _ (by decide) (by omega) k_i18, ?_⟩
  have e3 := imm_mk 2 d i18
  show Except.ok _ = _
  rw [e3]
  rfl

theorem iadd (g : Guard) (b : Src) (a : Src) (d : Nat) : Statement (.iadd g b a d) := by
  intro w
  refine ⟨fun f h => ?_, fun _ _ _ h => by simp [encodeShort] at h⟩
  simp only [encodeFields, Option.some.injEq] at h
  subst h
  simp only [Instr.wf, Bool.and_eq_true] at w
  obtain ⟨⟨⟨h0, h1⟩, h2⟩, h3⟩ := w
  have k_g := guard_ok_lt h0
  have c_g := guard_lt g k_g
  have k_b := ok_lt h1
  have k_a := ok_lt h2
  have k_d := reg_lt h3
  have t_b := bool_lt b.trap
  have c_b := code_lt b k_b
  have t_a := bool_lt a.trap
  refine ⟨by simp only [InRange]; omega, ?_⟩
  show Except.ok (Instr.iadd (Fields.guard ⟨_, _, _, _, _, _⟩) (Fields.srcB ⟨_, _, _, _, _, _⟩) (Fields.srcA ⟨_, _, _, _, _, _⟩) _) = _
  rw [guard_mk _ _ _ _ _ _ k_g, srcB_mk _ _ _ _ _ _ k_b, srcA_mk]

theorem isub (g : Guard) (b : Src) (a : Src) (d : Nat) : Statement (.isub g b a d) := by
  intro w
  refine ⟨fun f h => ?_, fun _ _ _ h => by simp [encodeShort] at h⟩
  simp only [encodeFields, Option.some.injEq] at h
  subst h
  simp only [Instr.wf, Bool.and_eq_true] at w
  obtain ⟨⟨⟨h0, h1⟩, h2⟩, h3⟩ := w
  have k_g := guard_ok_lt h0
  have c_g := guard_lt g k_g
  have k_b := ok_lt h1
  have k_a := ok_lt h2
  have k_d := reg_lt h3
  have t_b := bool_lt b.trap
  have c_b := code_lt b k_b
  have t_a := bool_lt a.trap
  refine ⟨by simp only [InRange]; omega, ?_⟩
  show Except.ok (Instr.isub (Fields.guard ⟨_, _, _, _, _, _⟩) (Fields.srcB ⟨_, _, _, _, _, _⟩) (Fields.srcA ⟨_, _, _, _, _, _⟩) _) = _
  rw [guard_mk _ _ _ _ _ _ k_g, srcB_mk _ _ _ _ _ _ k_b, srcA_mk]

theorem iaddi (g : Guard) (i7 : Nat) (a : Src) (d : Nat) : Statement (.iaddi g i7 a d) := by
  intro w
  refine ⟨fun f h => ?_, fun _ _ _ h => by simp [encodeShort] at h⟩
  simp only [encodeFields, Option.some.injEq] at h
  subst h
  simp only [Instr.wf, Bool.and_eq_true] at w
  obtain ⟨⟨⟨h0, h1⟩, h2⟩, h3⟩ := w
  have k_g := guard_ok_lt h0
  have c_g := guard_lt g k_g
  have k_i7 := below_lt h1
  have k_a := ok_lt h2
  have k_d := reg_lt h3
  have t_a := bool_lt a.trap
  refine ⟨by simp only [InRange]; omega, ?_⟩
  show Except.ok (Instr.iaddi (Fields.guard ⟨_, _, _, _, _, _⟩) _ (Fields.srcA ⟨_, _, _, _, _, _⟩) _) = _
  rw [guard_mk _ _ _ _ _ _ k_g, srcA_mk]

theorem imul (g : Guard) (b : Src) (a : Src) (d : Nat) : Statement (.imul g b a d) := by
  intro w
  refine ⟨fun f h => ?_, fun _ _ _ h => by simp [encodeShort] at h⟩
  simp only [encodeFields, Option.some.injEq] at h
  subst h
  simp only [Instr.wf, Bool.and_eq_true] at w
  obtain ⟨⟨⟨h0, h1⟩, h2⟩, h3⟩ := w
  have k_g := guard_ok_lt h0
  have c_g := guard_lt g k_g
  have k_b := ok_lt h1
  have k_a := ok_lt h2
  have k_d := reg_lt h3
  have t_b := bool_lt b.trap
  have c_b := code_lt b k_b
  have t_a := bool_lt a.trap
  refine ⟨by simp only [InRange]; omega, ?_⟩
  show Except.ok (Instr.imul (Fields.guard ⟨_, _, _, _, _, _⟩) (Fields.srcB ⟨_, _, _, _, _, _⟩) (Fields.srcA ⟨_, _, _, _, _, _⟩) _) = _
  rw [guard_mk _ _ _ _ _ _ k_g, srcB_mk _ _ _ _ _ _ k_b, srcA_mk]

theorem imad (g : Guard) (b : Src) (a : Src) (d : Nat) : Statement (.imad g b a d) := by
  intro w
  refine ⟨fun f h => ?_, fun _ _ _ h => by simp [encodeShort] at h⟩
  simp only [encodeFields, Option.some.injEq] at h
  subst h
  simp only [Instr.wf, Bool.and_eq_true] at w
  obtain ⟨⟨⟨h0, h1⟩, h2⟩, h3⟩ := w
  have k_g := guard_ok_lt h0
  have c_g := guard_lt g k_g
  have k_b := ok_lt h1
  have k_a := ok_lt h2
  have k_d := reg_lt h3
  have t_b := bool_lt b.trap
  have c_b := code_lt b k_b
  have t_a := bool_lt a.trap
  refine ⟨by simp only [InRange]; omega, ?_⟩
  show Except.ok (Instr.imad (Fields.guard ⟨_, _, _, _, _, _⟩) (Fields.srcB ⟨_, _, _, _, _, _⟩) (Fields.srcA ⟨_, _, _, _, _, _⟩) _) = _
  rw [guard_mk _ _ _ _ _ _ k_g, srcB_mk _ _ _ _ _ _ k_b, srcA_mk]

theorem and (g : Guard) (b : Src) (a : Src) (d : Nat) : Statement (.and g b a d) := by
  intro w
  refine ⟨fun f h => ?_, fun _ _ _ h => by simp [encodeShort] at h⟩
  simp only [encodeFields, Option.some.injEq] at h
  subst h
  simp only [Instr.wf, Bool.and_eq_true] at w
  obtain ⟨⟨⟨h0, h1⟩, h2⟩, h3⟩ := w
  have k_g := guard_ok_lt h0
  have c_g := guard_lt g k_g
  have k_b := ok_lt h1
  have k_a := ok_lt h2
  have k_d := reg_lt h3
  have t_b := bool_lt b.trap
  have c_b := code_lt b k_b
  have t_a := bool_lt a.trap
  refine ⟨by simp only [InRange]; omega, ?_⟩
  show Except.ok (Instr.and (Fields.guard ⟨_, _, _, _, _, _⟩) (Fields.srcB ⟨_, _, _, _, _, _⟩) (Fields.srcA ⟨_, _, _, _, _, _⟩) _) = _
  rw [guard_mk _ _ _ _ _ _ k_g, srcB_mk _ _ _ _ _ _ k_b, srcA_mk]

theorem or (g : Guard) (b : Src) (a : Src) (d : Nat) : Statement (.or g b a d) := by
  intro w
  refine ⟨fun f h => ?_, fun _ _ _ h => by simp [encodeShort] at h⟩
  simp only [encodeFields, Option.some.injEq] at h
  subst h
  simp only [Instr.wf, Bool.and_eq_true] at w
  obtain ⟨⟨⟨h0, h1⟩, h2⟩, h3⟩ := w
  have k_g := guard_ok_lt h0
  have c_g := guard_lt g k_g
  have k_b := ok_lt h1
  have k_a := ok_lt h2
  have k_d := reg_lt h3
  have t_b := bool_lt b.trap
  have c_b := code_lt b k_b
  have t_a := bool_lt a.trap
  refine ⟨by simp only [InRange]; omega, ?_⟩
  show Except.ok (Instr.or (Fields.guard ⟨_, _, _, _, _, _⟩) (Fields.srcB ⟨_, _, _, _, _, _⟩) (Fields.srcA ⟨_, _, _, _, _, _⟩) _) = _
  rw [guard_mk _ _ _ _ _ _ k_g, srcB_mk _ _ _ _ _ _ k_b, srcA_mk]

theorem xor (g : Guard) (b : Src) (a : Src) (d : Nat) : Statement (.xor g b a d) := by
  intro w
  refine ⟨fun f h => ?_, fun _ _ _ h => by simp [encodeShort] at h⟩
  simp only [encodeFields, Option.some.injEq] at h
  subst h
  simp only [Instr.wf, Bool.and_eq_true] at w
  obtain ⟨⟨⟨h0, h1⟩, h2⟩, h3⟩ := w
  have k_g := guard_ok_lt h0
  have c_g := guard_lt g k_g
  have k_b := ok_lt h1
  have k_a := ok_lt h2
  have k_d := reg_lt h3
  have t_b := bool_lt b.trap
  have c_b := code_lt b k_b
  have t_a := bool_lt a.trap
  refine ⟨by simp only [InRange]; omega, ?_⟩
  show Except.ok (Instr.xor (Fields.guard ⟨_, _, _, _, _, _⟩) (Fields.srcB ⟨_, _, _, _, _, _⟩) (Fields.srcA ⟨_, _, _, _, _, _⟩) _) = _
  rw [guard_mk _ _ _ _ _ _ k_g, srcB_mk _ _ _ _ _ _ k_b, srcA_mk]

theorem andn (g : Guard) (b : Src) (a : Src) (d : Nat) : Statement (.andn g b a d) := by
  intro w
  refine ⟨fun f h => ?_, fun _ _ _ h => by simp [encodeShort] at h⟩
  simp only [encodeFields, Option.some.injEq] at h
  subst h
  simp only [Instr.wf, Bool.and_eq_true] at w
  obtain ⟨⟨⟨h0, h1⟩, h2⟩, h3⟩ := w
  have k_g := guard_ok_lt h0
  have c_g := guard_lt g k_g
  have k_b := ok_lt h1
  have k_a := ok_lt h2
  have k_d := reg_lt h3
  have t_b := bool_lt b.trap
  have c_b := code_lt b k_b
  have t_a := bool_lt a.trap
  refine ⟨by simp only [InRange]; omega, ?_⟩
  show Except.ok (Instr.andn (Fields.guard ⟨_, _, _, _, _, _⟩) (Fields.srcB ⟨_, _, _, _, _, _⟩) (Fields.srcA ⟨_, _, _, _, _, _⟩) _) = _
  rw [guard_mk _ _ _ _ _ _ k_g, srcB_mk _ _ _ _ _ _ k_b, srcA_mk]

theorem shl (g : Guard) (b : Src) (a : Src) (d : Nat) : Statement (.shl g b a d) := by
  intro w
  refine ⟨fun f h => ?_, fun _ _ _ h => by simp [encodeShort] at h⟩
  simp only [encodeFields, Option.some.injEq] at h
  subst h
  simp only [Instr.wf, Bool.and_eq_true] at w
  obtain ⟨⟨⟨h0, h1⟩, h2⟩, h3⟩ := w
  have k_g := guard_ok_lt h0
  have c_g := guard_lt g k_g
  have k_b := ok_lt h1
  have k_a := ok_lt h2
  have k_d := reg_lt h3
  have t_b := bool_lt b.trap
  have c_b := code_lt b k_b
  have t_a := bool_lt a.trap
  refine ⟨by simp only [InRange]; omega, ?_⟩
  show Except.ok (Instr.shl (Fields.guard ⟨_, _, _, _, _, _⟩) (Fields.srcB ⟨_, _, _, _, _, _⟩) (Fields.srcA ⟨_, _, _, _, _, _⟩) _) = _
  rw [guard_mk _ _ _ _ _ _ k_g, srcB_mk _ _ _ _ _ _ k_b, srcA_mk]

theorem shr (g : Guard) (b : Src) (a : Src) (d : Nat) : Statement (.shr g b a d) := by
  intro w
  refine ⟨fun f h => ?_, fun _ _ _ h => by simp [encodeShort] at h⟩
  simp only [encodeFields, Option.some.injEq] at h
  subst h
  simp only [Instr.wf, Bool.and_eq_true] at w
  obtain ⟨⟨⟨h0, h1⟩, h2⟩, h3⟩ := w
  have k_g := guard_ok_lt h0
  have c_g := guard_lt g k_g
  have k_b := ok_lt h1
  have k_a := ok_lt h2
  have k_d := reg_lt h3
  have t_b := bool_lt b.trap
  have c_b := code_lt b k_b
  have t_a := bool_lt a.trap
  refine ⟨by simp only [InRange]; omega, ?_⟩
  show Except.ok (Instr.shr (Fields.guard ⟨_, _, _, _, _, _⟩) (Fields.srcB ⟨_, _, _, _, _, _⟩) (Fields.srcA ⟨_, _, _, _, _, _⟩) _) = _
  rw [guard_mk _ _ _ _ _ _ k_g, srcB_mk _ _ _ _ _ _ k_b, srcA_mk]

theorem sra (g : Guard) (b : Src) (a : Src) (d : Nat) : Statement (.sra g b a d) := by
  intro w
  refine ⟨fun f h => ?_, fun _ _ _ h => by simp [encodeShort] at h⟩
  simp only [encodeFields, Option.some.injEq] at h
  subst h
  simp only [Instr.wf, Bool.and_eq_true] at w
  obtain ⟨⟨⟨h0, h1⟩, h2⟩, h3⟩ := w
  have k_g := guard_ok_lt h0
  have c_g := guard_lt g k_g
  have k_b := ok_lt h1
  have k_a := ok_lt h2
  have k_d := reg_lt h3
  have t_b := bool_lt b.trap
  have c_b := code_lt b k_b
  have t_a := bool_lt a.trap
  refine ⟨by simp only [InRange]; omega, ?_⟩
  show Except.ok (Instr.sra (Fields.guard ⟨_, _, _, _, _, _⟩) (Fields.srcB ⟨_, _, _, _, _, _⟩) (Fields.srcA ⟨_, _, _, _, _, _⟩) _) = _
  rw [guard_mk _ _ _ _ _ _ k_g, srcB_mk _ _ _ _ _ _ k_b, srcA_mk]

theorem rotl (g : Guard) (b : Src) (a : Src) (d : Nat) : Statement (.rotl g b a d) := by
  intro w
  refine ⟨fun f h => ?_, fun _ _ _ h => by simp [encodeShort] at h⟩
  simp only [encodeFields, Option.some.injEq] at h
  subst h
  simp only [Instr.wf, Bool.and_eq_true] at w
  obtain ⟨⟨⟨h0, h1⟩, h2⟩, h3⟩ := w
  have k_g := guard_ok_lt h0
  have c_g := guard_lt g k_g
  have k_b := ok_lt h1
  have k_a := ok_lt h2
  have k_d := reg_lt h3
  have t_b := bool_lt b.trap
  have c_b := code_lt b k_b
  have t_a := bool_lt a.trap
  refine ⟨by simp only [InRange]; omega, ?_⟩
  show Except.ok (Instr.rotl (Fields.guard ⟨_, _, _, _, _, _⟩) (Fields.srcB ⟨_, _, _, _, _, _⟩) (Fields.srcA ⟨_, _, _, _, _, _⟩) _) = _
  rw [guard_mk _ _ _ _ _ _ k_g, srcB_mk _ _ _ _ _ _ k_b, srcA_mk]

theorem iminI32 (g : Guard) (b : Src) (a : Src) (d : Nat) : Statement (.iminI32 g b a d) := by
  intro w
  refine ⟨fun f h => ?_, fun _ _ _ h => by simp [encodeShort] at h⟩
  simp only [encodeFields, Option.some.injEq] at h
  subst h
  simp only [Instr.wf, Bool.and_eq_true] at w
  obtain ⟨⟨⟨h0, h1⟩, h2⟩, h3⟩ := w
  have k_g := guard_ok_lt h0
  have c_g := guard_lt g k_g
  have k_b := ok_lt h1
  have k_a := ok_lt h2
  have k_d := reg_lt h3
  have t_b := bool_lt b.trap
  have c_b := code_lt b k_b
  have t_a := bool_lt a.trap
  refine ⟨by simp only [InRange]; omega, ?_⟩
  show Except.ok (Instr.iminI32 (Fields.guard ⟨_, _, _, _, _, _⟩) (Fields.srcB ⟨_, _, _, _, _, _⟩) (Fields.srcA ⟨_, _, _, _, _, _⟩) _) = _
  rw [guard_mk _ _ _ _ _ _ k_g, srcB_mk _ _ _ _ _ _ k_b, srcA_mk]

theorem imaxI32 (g : Guard) (b : Src) (a : Src) (d : Nat) : Statement (.imaxI32 g b a d) := by
  intro w
  refine ⟨fun f h => ?_, fun _ _ _ h => by simp [encodeShort] at h⟩
  simp only [encodeFields, Option.some.injEq] at h
  subst h
  simp only [Instr.wf, Bool.and_eq_true] at w
  obtain ⟨⟨⟨h0, h1⟩, h2⟩, h3⟩ := w
  have k_g := guard_ok_lt h0
  have c_g := guard_lt g k_g
  have k_b := ok_lt h1
  have k_a := ok_lt h2
  have k_d := reg_lt h3
  have t_b := bool_lt b.trap
  have c_b := code_lt b k_b
  have t_a := bool_lt a.trap
  refine ⟨by simp only [InRange]; omega, ?_⟩
  show Except.ok (Instr.imaxI32 (Fields.guard ⟨_, _, _, _, _, _⟩) (Fields.srcB ⟨_, _, _, _, _, _⟩) (Fields.srcA ⟨_, _, _, _, _, _⟩) _) = _
  rw [guard_mk _ _ _ _ _ _ k_g, srcB_mk _ _ _ _ _ _ k_b, srcA_mk]

theorem iminZ32 (g : Guard) (b : Src) (a : Src) (d : Nat) : Statement (.iminZ32 g b a d) := by
  intro w
  refine ⟨fun f h => ?_, fun _ _ _ h => by simp [encodeShort] at h⟩
  simp only [encodeFields, Option.some.injEq] at h
  subst h
  simp only [Instr.wf, Bool.and_eq_true] at w
  obtain ⟨⟨⟨h0, h1⟩, h2⟩, h3⟩ := w
  have k_g := guard_ok_lt h0
  have c_g := guard_lt g k_g
  have k_b := ok_lt h1
  have k_a := ok_lt h2
  have k_d := reg_lt h3
  have t_b := bool_lt b.trap
  have c_b := code_lt b k_b
  have t_a := bool_lt a.trap
  refine ⟨by simp only [InRange]; omega, ?_⟩
  show Except.ok (Instr.iminZ32 (Fields.guard ⟨_, _, _, _, _, _⟩) (Fields.srcB ⟨_, _, _, _, _, _⟩) (Fields.srcA ⟨_, _, _, _, _, _⟩) _) = _
  rw [guard_mk _ _ _ _ _ _ k_g, srcB_mk _ _ _ _ _ _ k_b, srcA_mk]

theorem imaxZ32 (g : Guard) (b : Src) (a : Src) (d : Nat) : Statement (.imaxZ32 g b a d) := by
  intro w
  refine ⟨fun f h => ?_, fun _ _ _ h => by simp [encodeShort] at h⟩
  simp only [encodeFields, Option.some.injEq] at h
  subst h
  simp only [Instr.wf, Bool.and_eq_true] at w
  obtain ⟨⟨⟨h0, h1⟩, h2⟩, h3⟩ := w
  have k_g := guard_ok_lt h0
  have c_g := guard_lt g k_g
  have k_b := ok_lt h1
  have k_a := ok_lt h2
  have k_d := reg_lt h3
  have t_b := bool_lt b.trap
  have c_b := code_lt b k_b
  have t_a := bool_lt a.trap
  refine ⟨by simp only [InRange]; omega, ?_⟩
  show Except.ok (Instr.imaxZ32 (Fields.guard ⟨_, _, _, _, _, _⟩) (Fields.srcB ⟨_, _, _, _, _, _⟩) (Fields.srcA ⟨_, _, _, _, _, _⟩) _) = _
  rw [guard_mk _ _ _ _ _ _ k_g, srcB_mk _ _ _ _ _ _ k_b, srcA_mk]

theorem icmp32 (u : Bool) (c : ICond) (b : Src) (a : Src) (pd : Nat) : Statement (.icmp32 u c b a pd) := by
  intro w
  refine ⟨fun f h => ?_, fun _ _ _ h => by simp [encodeShort] at h⟩
  simp only [encodeFields, Option.some.injEq] at h
  subst h
  simp only [Instr.wf, Bool.and_eq_true] at w
  obtain ⟨⟨h0, h1⟩, h2⟩ := w
  have k_b := ok_lt h0
  have k_a := ok_lt h1
  have k_pd := below_lt h2
  have t_b := bool_lt b.trap
  have c_b := code_lt b k_b
  have t_a := bool_lt a.trap
  have x_u := bool_lt u
  have x_c := icond_lt c
  refine ⟨by simp only [InRange]; omega, ?_⟩
  cases u <;> cases c <;> (show Except.ok (Instr.icmp32 _ _ (Fields.srcB ⟨_, _, _, _, _, _⟩) (Fields.srcA ⟨_, _, _, _, _, _⟩) _) = _; rw [srcB_mk _ _ _ _ _ _ k_b, srcA_mk])

theorem icmp64 (u : Bool) (c : ICond) (b : Src) (a : Src) (pd : Nat) : Statement (.icmp64 u c b a pd) := by
  intro w
  refine ⟨fun f h => ?_, fun _ _ _ h => by simp [encodeShort] at h⟩
  simp only [encodeFields, Option.some.injEq] at h
  subst h
  simp only [Instr.wf, Bool.and_eq_true] at w
  obtain ⟨⟨h0, h1⟩, h2⟩ := w
  have k_b := okPair_lt h0
  have k_a := okPair_lt h1
  have k_pd := below_lt h2
  have t_b := bool_lt b.trap
  have c_b := code_lt b k_b
  have t_a := bool_lt a.trap
  have x_u := bool_lt u
  have x_c := icond_lt c
  refine ⟨by simp only [InRange]; omega, ?_⟩
  cases u <;> cases c <;> (show Except.ok (Instr.icmp64 _ _ (Fields.srcB ⟨_, _, _, _, _, _⟩) (Fields.srcA ⟨_, _, _, _, _, _⟩) _) = _; rw [srcB_mk _ _ _ _ _ _ k_b, srcA_mk])

theorem sel (p : Nat) (b : Src) (a : Src) (d : Nat) : Statement (.sel p b a d) := by
  intro w
  refine ⟨fun f h => ?_, fun _ _ _ h => by simp [encodeShort] at h⟩
  simp only [encodeFields, Option.some.injEq] at h
  subst h
  simp only [Instr.wf, Bool.and_eq_true] at w
  obtain ⟨⟨⟨h0, h1⟩, h2⟩, h3⟩ := w
  have k_p := below_lt h0
  have k_b := ok_lt h1
  have k_a := ok_lt h2
  have k_d := reg_lt h3
  have t_b := bool_lt b.trap
  have c_b := code_lt b k_b
  have t_a := bool_lt a.trap
  refine ⟨by simp only [InRange]; omega, ?_⟩
  show Except.ok (Instr.sel _ (Fields.srcB ⟨_, _, _, _, _, _⟩) (Fields.srcA ⟨_, _, _, _, _, _⟩) _) = _
  rw [srcB_mk _ _ _ _ _ _ k_b, srcA_mk]

theorem lea (sh : Nat) (b : Src) (a : Src) (d : Nat) : Statement (.lea sh b a d) := by
  intro w
  refine ⟨fun f h => ?_, fun _ _ _ h => by simp [encodeShort] at h⟩
  simp only [encodeFields, Option.some.injEq] at h
  subst h
  simp only [Instr.wf, Bool.and_eq_true] at w
  obtain ⟨⟨⟨h0, h1⟩, h2⟩, h3⟩ := w
  have k_sh := below_lt h0
  have k_b := ok_lt h1
  have k_a := okPair_lt h2
  have k_d := pair_lt h3
  have t_b := bool_lt b.trap
  have c_b := code_lt b k_b
  have t_a := bool_lt a.trap
  refine ⟨by simp only [InRange]; omega, ?_⟩
  show Except.ok (Instr.lea _ (Fields.srcB ⟨_, _, _, _, _, _⟩) (Fields.srcA ⟨_, _, _, _, _, _⟩) _) = _
  rw [srcB_mk _ _ _ _ _ _ k_b, srcA_mk]

theorem imulh (u : Bool) (b : Src) (a : Src) (d : Nat) : Statement (.imulh u b a d) := by
  intro w
  refine ⟨fun f h => ?_, fun _ _ _ h => by simp [encodeShort] at h⟩
  simp only [encodeFields, Option.some.injEq] at h
  subst h
  simp only [Instr.wf, Bool.and_eq_true] at w
  obtain ⟨⟨h0, h1⟩, h2⟩ := w
  have k_b := ok_lt h0
  have k_a := ok_lt h1
  have k_d := reg_lt h2
  have t_b := bool_lt b.trap
  have c_b := code_lt b k_b
  have t_a := bool_lt a.trap
  have x_u := bool_lt u
  refine ⟨by simp only [InRange]; omega, ?_⟩
  cases u <;> (show Except.ok (Instr.imulh _ (Fields.srcB ⟨_, _, _, _, _, _⟩) (Fields.srcA ⟨_, _, _, _, _, _⟩) _) = _; rw [srcB_mk _ _ _ _ _ _ k_b, srcA_mk])

theorem idiv (w : Bool) (u : Bool) (b : Src) (a : Src) (d : Nat) : Statement (.idiv w u b a d) := by
  intro w
  refine ⟨fun f h => ?_, fun _ _ _ h => by simp [encodeShort] at h⟩
  simp only [encodeFields, Option.some.injEq] at h
  subst h
  simp only [Instr.wf, Bool.and_eq_true] at w
  obtain ⟨⟨h0, h1⟩, h2⟩ := w
  have k_b := okIf_lt h0
  have k_a := okIf_lt h1
  have k_d := regIf_lt h2
  have t_b := bool_lt b.trap
  have c_b := code_lt b k_b
  have t_a := bool_lt a.trap
  have x_w := bool_lt w
  have x_u := bool_lt u
  refine ⟨by simp only [InRange]; omega, ?_⟩
  cases w <;> cases u <;> (show Except.ok (Instr.idiv _ _ (Fields.srcB ⟨_, _, _, _, _, _⟩) (Fields.srcA ⟨_, _, _, _, _, _⟩) _) = _; rw [srcB_mk _ _ _ _ _ _ k_b, srcA_mk])

theorem irem (w : Bool) (u : Bool) (b : Src) (a : Src) (d : Nat) : Statement (.irem w u b a d) := by
  intro w
  refine ⟨fun f h => ?_, fun _ _ _ h => by simp [encodeShort] at h⟩
  simp only [encodeFields, Option.some.injEq] at h
  subst h
  simp only [Instr.wf, Bool.and_eq_true] at w
  obtain ⟨⟨h0, h1⟩, h2⟩ := w
  have k_b := okIf_lt h0
  have k_a := okIf_lt h1
  have k_d := regIf_lt h2
  have t_b := bool_lt b.trap
  have c_b := code_lt b k_b
  have t_a := bool_lt a.trap
  have x_w := bool_lt w
  have x_u := bool_lt u
  refine ⟨by simp only [InRange]; omega, ?_⟩
  cases w <;> cases u <;> (show Except.ok (Instr.irem _ _ (Fields.srcB ⟨_, _, _, _, _, _⟩) (Fields.srcA ⟨_, _, _, _, _, _⟩) _) = _; rw [srcB_mk _ _ _ _ _ _ k_b, srcA_mk])

theorem inegI32 (g : Guard) (a : Src) (d : Nat) : Statement (.inegI32 g a d) := by
  intro w
  refine ⟨fun f h => ?_, fun _ _ _ h => by simp [encodeShort] at h⟩
  simp only [encodeFields, Option.some.injEq] at h
  subst h
  simp only [Instr.wf, Bool.and_eq_true] at w
  obtain ⟨⟨h0, h1⟩, h2⟩ := w
  have k_g := guard_ok_lt h0
  have c_g := guard_lt g k_g
  have k_a := ok_lt h1
  have k_d := reg_lt h2
  have t_a := bool_lt a.trap
  refine ⟨by simp only [InRange]; omega, ?_⟩
  show Except.ok (Instr.inegI32 (Fields.guard ⟨_, _, _, _, _, _⟩) (Fields.srcA ⟨_, _, _, _, _, _⟩) _) = _
  rw [guard_mk _ _ _ _ _ _ k_g, srcA_mk]

theorem iabsI32 (g : Guard) (a : Src) (d : Nat) : Statement (.iabsI32 g a d) := by
  intro w
  refine ⟨fun f h => ?_, fun _ _ _ h => by simp [encodeShort] at h⟩
  simp only [encodeFields, Option.some.injEq] at h
  subst h
  simp only [Instr.wf, Bool.and_eq_true] at w
  obtain ⟨⟨h0, h1⟩, h2⟩ := w
  have k_g := guard_ok_lt h0
  have c_g := guard_lt g k_g
  have k_a := ok_lt h1
  have k_d := reg_lt h2
  have t_a := bool_lt a.trap
  refine ⟨by simp only [InRange]; omega, ?_⟩
  show Except.ok (Instr.iabsI32 (Fields.guard ⟨_, _, _, _, _, _⟩) (Fields.srcA ⟨_, _, _, _, _, _⟩) _) = _
  rw [guard_mk _ _ _ _ _ _ k_g, srcA_mk]

theorem notB32 (g : Guard) (a : Src) (d : Nat) : Statement (.notB32 g a d) := by
  intro w
  refine ⟨fun f h => ?_, fun _ _ _ h => by simp [encodeShort] at h⟩
  simp only [encodeFields, Option.some.injEq] at h
  subst h
  simp only [Instr.wf, Bool.and_eq_true] at w
  obtain ⟨⟨h0, h1⟩, h2⟩ := w
  have k_g := guard_ok_lt h0
  have c_g := guard_lt g k_g
  have k_a := ok_lt h1
  have k_d := reg_lt h2
  have t_a := bool_lt a.trap
  refine ⟨by simp only [InRange]; omega, ?_⟩
  show Except.ok (Instr.notB32 (Fields.guard ⟨_, _, _, _, _, _⟩) (Fields.srcA ⟨_, _, _, _, _, _⟩) _) = _
  rw [guard_mk _ _ _ _ _ _ k_g, srcA_mk]

theorem clzB32 (g : Guard) (a : Src) (d : Nat) : Statement (.clzB32 g a d) := by
  intro w
  refine ⟨fun f h => ?_, fun _ _ _ h => by simp [encodeShort] at h⟩
  simp only [encodeFields, Option.some.injEq] at h
  subst h
  simp only [Instr.wf, Bool.and_eq_true] at w
  obtain ⟨⟨h0, h1⟩, h2⟩ := w
  have k_g := guard_ok_lt h0
  have c_g := guard_lt g k_g
  have k_a := ok_lt h1
  have k_d := reg_lt h2
  have t_a := bool_lt a.trap
  refine ⟨by simp only [InRange]; omega, ?_⟩
  show Except.ok (Instr.clzB32 (Fields.guard ⟨_, _, _, _, _, _⟩) (Fields.srcA ⟨_, _, _, _, _, _⟩) _) = _
  rw [guard_mk _ _ _ _ _ _ k_g, srcA_mk]

theorem popcB32 (g : Guard) (a : Src) (d : Nat) : Statement (.popcB32 g a d) := by
  intro w
  refine ⟨fun f h => ?_, fun _ _ _ h => by simp [encodeShort] at h⟩
  simp only [encodeFields, Option.some.injEq] at h
  subst h
  simp only [Instr.wf, Bool.and_eq_true] at w
  obtain ⟨⟨h0, h1⟩, h2⟩ := w
  have k_g := guard_ok_lt h0
  have c_g := guard_lt g k_g
  have k_a := ok_lt h1
  have k_d := reg_lt h2
  have t_a := bool_lt a.trap
  refine ⟨by simp only [InRange]; omega, ?_⟩
  show Except.ok (Instr.popcB32 (Fields.guard ⟨_, _, _, _, _, _⟩) (Fields.srcA ⟨_, _, _, _, _, _⟩) _) = _
  rw [guard_mk _ _ _ _ _ _ k_g, srcA_mk]

theorem brev (g : Guard) (a : Src) (d : Nat) : Statement (.brev g a d) := by
  intro w
  refine ⟨fun f h => ?_, fun _ _ _ h => by simp [encodeShort] at h⟩
  simp only [encodeFields, Option.some.injEq] at h
  subst h
  simp only [Instr.wf, Bool.and_eq_true] at w
  obtain ⟨⟨h0, h1⟩, h2⟩ := w
  have k_g := guard_ok_lt h0
  have c_g := guard_lt g k_g
  have k_a := ok_lt h1
  have k_d := reg_lt h2
  have t_a := bool_lt a.trap
  refine ⟨by simp only [InRange]; omega, ?_⟩
  show Except.ok (Instr.brev (Fields.guard ⟨_, _, _, _, _, _⟩) (Fields.srcA ⟨_, _, _, _, _, _⟩) _) = _
  rw [guard_mk _ _ _ _ _ _ k_g, srcA_mk]

theorem inegI64 (g : Guard) (a : Src) (d : Nat) : Statement (.inegI64 g a d) := by
  intro w
  refine ⟨fun f h => ?_, fun _ _ _ h => by simp [encodeShort] at h⟩
  simp only [encodeFields, Option.some.injEq] at h
  subst h
  simp only [Instr.wf, Bool.and_eq_true] at w
  obtain ⟨⟨h0, h1⟩, h2⟩ := w
  have k_g := guard_ok_lt h0
  have c_g := guard_lt g k_g
  have k_a := okPair_lt h1
  have k_d := pair_lt h2
  have t_a := bool_lt a.trap
  refine ⟨by simp only [InRange]; omega, ?_⟩
  show Except.ok (Instr.inegI64 (Fields.guard ⟨_, _, _, _, _, _⟩) (Fields.srcA ⟨_, _, _, _, _, _⟩) _) = _
  rw [guard_mk _ _ _ _ _ _ k_g, srcA_mk]

theorem iabsI64 (g : Guard) (a : Src) (d : Nat) : Statement (.iabsI64 g a d) := by
  intro w
  refine ⟨fun f h => ?_, fun _ _ _ h => by simp [encodeShort] at h⟩
  simp only [encodeFields, Option.some.injEq] at h
  subst h
  simp only [Instr.wf, Bool.and_eq_true] at w
  obtain ⟨⟨h0, h1⟩, h2⟩ := w
  have k_g := guard_ok_lt h0
  have c_g := guard_lt g k_g
  have k_a := okPair_lt h1
  have k_d := pair_lt h2
  have t_a := bool_lt a.trap
  refine ⟨by simp only [InRange]; omega, ?_⟩
  show Except.ok (Instr.iabsI64 (Fields.guard ⟨_, _, _, _, _, _⟩) (Fields.srcA ⟨_, _, _, _, _, _⟩) _) = _
  rw [guard_mk _ _ _ _ _ _ k_g, srcA_mk]

theorem clzB64 (g : Guard) (a : Src) (d : Nat) : Statement (.clzB64 g a d) := by
  intro w
  refine ⟨fun f h => ?_, fun _ _ _ h => by simp [encodeShort] at h⟩
  simp only [encodeFields, Option.some.injEq] at h
  subst h
  simp only [Instr.wf, Bool.and_eq_true] at w
  obtain ⟨⟨h0, h1⟩, h2⟩ := w
  have k_g := guard_ok_lt h0
  have c_g := guard_lt g k_g
  have k_a := okPair_lt h1
  have k_d := reg_lt h2
  have t_a := bool_lt a.trap
  refine ⟨by simp only [InRange]; omega, ?_⟩
  show Except.ok (Instr.clzB64 (Fields.guard ⟨_, _, _, _, _, _⟩) (Fields.srcA ⟨_, _, _, _, _, _⟩) _) = _
  rw [guard_mk _ _ _ _ _ _ k_g, srcA_mk]

theorem popcB64 (g : Guard) (a : Src) (d : Nat) : Statement (.popcB64 g a d) := by
  intro w
  refine ⟨fun f h => ?_, fun _ _ _ h => by simp [encodeShort] at h⟩
  simp only [encodeFields, Option.some.injEq] at h
  subst h
  simp only [Instr.wf, Bool.and_eq_true] at w
  obtain ⟨⟨h0, h1⟩, h2⟩ := w
  have k_g := guard_ok_lt h0
  have c_g := guard_lt g k_g
  have k_a := okPair_lt h1
  have k_d := reg_lt h2
  have t_a := bool_lt a.trap
  refine ⟨by simp only [InRange]; omega, ?_⟩
  show Except.ok (Instr.popcB64 (Fields.guard ⟨_, _, _, _, _, _⟩) (Fields.srcA ⟨_, _, _, _, _, _⟩) _) = _
  rw [guard_mk _ _ _ _ _ _ k_g, srcA_mk]

theorem bfx (u : Bool) (b : Src) (a : Src) (d : Nat) : Statement (.bfx u b a d) := by
  intro w
  refine ⟨fun f h => ?_, fun _ _ _ h => by simp [encodeShort] at h⟩
  simp only [encodeFields, Option.some.injEq] at h
  subst h
  simp only [Instr.wf, Bool.and_eq_true] at w
  obtain ⟨⟨h0, h1⟩, h2⟩ := w
  have k_b := ok_lt h0
  have k_a := ok_lt h1
  have k_d := reg_lt h2
  have t_b := bool_lt b.trap
  have c_b := code_lt b k_b
  have t_a := bool_lt a.trap
  have x_u := bool_lt u
  refine ⟨by simp only [InRange]; omega, ?_⟩
  cases u <;> (show Except.ok (Instr.bfx _ (Fields.srcB ⟨_, _, _, _, _, _⟩) (Fields.srcA ⟨_, _, _, _, _, _⟩) _) = _; rw [srcB_mk _ _ _ _ _ _ k_b, srcA_mk])

theorem bfi (b : Src) (a : Src) (d : Nat) : Statement (.bfi b a d) := by
  intro w
  refine ⟨fun f h => ?_, fun _ _ _ h => by simp [encodeShort] at h⟩
  simp only [encodeFields, Option.some.injEq] at h
  subst h
  simp only [Instr.wf, Bool.and_eq_true] at w
  obtain ⟨⟨h0, h1⟩, h2⟩ := w
  have k_b := ok_lt h0
  have k_a := ok_lt h1
  have k_d := reg_lt h2
  have t_b := bool_lt b.trap
  have c_b := code_lt b k_b
  have t_a := bool_lt a.trap
  refine ⟨by simp only [InRange]; omega, ?_⟩
  show Except.ok (Instr.bfi (Fields.srcB ⟨_, _, _, _, _, _⟩) (Fields.srcA ⟨_, _, _, _, _, _⟩) _) = _
  rw [srcB_mk _ _ _ _ _ _ k_b, srcA_mk]

theorem movB64 (a : Src) (d : Nat) : Statement (.movB64 a d) := by
  intro w
  refine ⟨fun f h => ?_, fun _ _ _ h => by simp [encodeShort] at h⟩
  simp only [encodeFields, Option.some.injEq] at h
  subst h
  simp only [Instr.wf, Bool.and_eq_true] at w
  obtain ⟨h0, h1⟩ := w
  have k_a := okPair_lt h0
  have k_d := pair_lt h1
  have t_a := bool_lt a.trap
  refine ⟨by simp only [InRange]; omega, ?_⟩
  show Except.ok (Instr.movB64 (Fields.srcA ⟨_, _, _, _, _, _⟩) _) = _
  rw [srcA_mk]

theorem isubI64 (b : Src) (a : Src) (d : Nat) : Statement (.isubI64 b a d) := by
  intro w
  refine ⟨fun f h => ?_, fun _ _ _ h => by simp [encodeShort] at h⟩
  simp only [encodeFields, Option.some.injEq] at h
  subst h
  simp only [Instr.wf, Bool.and_eq_true] at w
  obtain ⟨⟨h0, h1⟩, h2⟩ := w
  have k_b := okPair_lt h0
  have k_a := okPair_lt h1
  have k_d := pair_lt h2
  have t_b := bool_lt b.trap
  have c_b := code_lt b k_b
  have t_a := bool_lt a.trap
  refine ⟨by simp only [InRange]; omega, ?_⟩
  show Except.ok (Instr.isubI64 (Fields.srcB ⟨_, _, _, _, _, _⟩) (Fields.srcA ⟨_, _, _, _, _, _⟩) _) = _
  rw [srcB_mk _ _ _ _ _ _ k_b, srcA_mk]

theorem imulI64 (b : Src) (a : Src) (d : Nat) : Statement (.imulI64 b a d) := by
  intro w
  refine ⟨fun f h => ?_, fun _ _ _ h => by simp [encodeShort] at h⟩
  simp only [encodeFields, Option.some.injEq] at h
  subst h
  simp only [Instr.wf, Bool.and_eq_true] at w
  obtain ⟨⟨h0, h1⟩, h2⟩ := w
  have k_b := okPair_lt h0
  have k_a := okPair_lt h1
  have k_d := pair_lt h2
  have t_b := bool_lt b.trap
  have c_b := code_lt b k_b
  have t_a := bool_lt a.trap
  refine ⟨by simp only [InRange]; omega, ?_⟩
  show Except.ok (Instr.imulI64 (Fields.srcB ⟨_, _, _, _, _, _⟩) (Fields.srcA ⟨_, _, _, _, _, _⟩) _) = _
  rw [srcB_mk _ _ _ _ _ _ k_b, srcA_mk]

theorem iminI64 (b : Src) (a : Src) (d : Nat) : Statement (.iminI64 b a d) := by
  intro w
  refine ⟨fun f h => ?_, fun _ _ _ h => by simp [encodeShort] at h⟩
  simp only [encodeFields, Option.some.injEq] at h
  subst h
  simp only [Instr.wf, Bool.and_eq_true] at w
  obtain ⟨⟨h0, h1⟩, h2⟩ := w
  have k_b := okPair_lt h0
  have k_a := okPair_lt h1
  have k_d := pair_lt h2
  have t_b := bool_lt b.trap
  have c_b := code_lt b k_b
  have t_a := bool_lt a.trap
  refine ⟨by simp only [InRange]; omega, ?_⟩
  show Except.ok (Instr.iminI64 (Fields.srcB ⟨_, _, _, _, _, _⟩) (Fields.srcA ⟨_, _, _, _, _, _⟩) _) = _
  rw [srcB_mk _ _ _ _ _ _ k_b, srcA_mk]

theorem imaxI64 (b : Src) (a : Src) (d : Nat) : Statement (.imaxI64 b a d) := by
  intro w
  refine ⟨fun f h => ?_, fun _ _ _ h => by simp [encodeShort] at h⟩
  simp only [encodeFields, Option.some.injEq] at h
  subst h
  simp only [Instr.wf, Bool.and_eq_true] at w
  obtain ⟨⟨h0, h1⟩, h2⟩ := w
  have k_b := okPair_lt h0
  have k_a := okPair_lt h1
  have k_d := pair_lt h2
  have t_b := bool_lt b.trap
  have c_b := code_lt b k_b
  have t_a := bool_lt a.trap
  refine ⟨by simp only [InRange]; omega, ?_⟩
  show Except.ok (Instr.imaxI64 (Fields.srcB ⟨_, _, _, _, _, _⟩) (Fields.srcA ⟨_, _, _, _, _, _⟩) _) = _
  rw [srcB_mk _ _ _ _ _ _ k_b, srcA_mk]

theorem iminZ64 (b : Src) (a : Src) (d : Nat) : Statement (.iminZ64 b a d) := by
  intro w
  refine ⟨fun f h => ?_, fun _ _ _ h => by simp [encodeShort] at h⟩
  simp only [encodeFields, Option.some.injEq] at h
  subst h
  simp only [Instr.wf, Bool.and_eq_true] at w
  obtain ⟨⟨h0, h1⟩, h2⟩ := w
  have k_b := okPair_lt h0
  have k_a := okPair_lt h1
  have k_d := pair_lt h2
  have t_b := bool_lt b.trap
  have c_b := code_lt b k_b
  have t_a := bool_lt a.trap
  refine ⟨by simp only [InRange]; omega, ?_⟩
  show Except.ok (Instr.iminZ64 (Fields.srcB ⟨_, _, _, _, _, _⟩) (Fields.srcA ⟨_, _, _, _, _, _⟩) _) = _
  rw [srcB_mk _ _ _ _ _ _ k_b, srcA_mk]

theorem imaxZ64 (b : Src) (a : Src) (d : Nat) : Statement (.imaxZ64 b a d) := by
  intro w
  refine ⟨fun f h => ?_, fun _ _ _ h => by simp [encodeShort] at h⟩
  simp only [encodeFields, Option.some.injEq] at h
  subst h
  simp only [Instr.wf, Bool.and_eq_true] at w
  obtain ⟨⟨h0, h1⟩, h2⟩ := w
  have k_b := okPair_lt h0
  have k_a := okPair_lt h1
  have k_d := pair_lt h2
  have t_b := bool_lt b.trap
  have c_b := code_lt b k_b
  have t_a := bool_lt a.trap
  refine ⟨by simp only [InRange]; omega, ?_⟩
  show Except.ok (Instr.imaxZ64 (Fields.srcB ⟨_, _, _, _, _, _⟩) (Fields.srcA ⟨_, _, _, _, _, _⟩) _) = _
  rw [srcB_mk _ _ _ _ _ _ k_b, srcA_mk]

theorem andB64 (b : Src) (a : Src) (d : Nat) : Statement (.andB64 b a d) := by
  intro w
  refine ⟨fun f h => ?_, fun _ _ _ h => by simp [encodeShort] at h⟩
  simp only [encodeFields, Option.some.injEq] at h
  subst h
  simp only [Instr.wf, Bool.and_eq_true] at w
  obtain ⟨⟨h0, h1⟩, h2⟩ := w
  have k_b := okPair_lt h0
  have k_a := okPair_lt h1
  have k_d := pair_lt h2
  have t_b := bool_lt b.trap
  have c_b := code_lt b k_b
  have t_a := bool_lt a.trap
  refine ⟨by simp only [InRange]; omega, ?_⟩
  show Except.ok (Instr.andB64 (Fields.srcB ⟨_, _, _, _, _, _⟩) (Fields.srcA ⟨_, _, _, _, _, _⟩) _) = _
  rw [srcB_mk _ _ _ _ _ _ k_b, srcA_mk]

theorem orB64 (b : Src) (a : Src) (d : Nat) : Statement (.orB64 b a d) := by
  intro w
  refine ⟨fun f h => ?_, fun _ _ _ h => by simp [encodeShort] at h⟩
  simp only [encodeFields, Option.some.injEq] at h
  subst h
  simp only [Instr.wf, Bool.and_eq_true] at w
  obtain ⟨⟨h0, h1⟩, h2⟩ := w
  have k_b := okPair_lt h0
  have k_a := okPair_lt h1
  have k_d := pair_lt h2
  have t_b := bool_lt b.trap
  have c_b := code_lt b k_b
  have t_a := bool_lt a.trap
  refine ⟨by simp only [InRange]; omega, ?_⟩
  show Except.ok (Instr.orB64 (Fields.srcB ⟨_, _, _, _, _, _⟩) (Fields.srcA ⟨_, _, _, _, _, _⟩) _) = _
  rw [srcB_mk _ _ _ _ _ _ k_b, srcA_mk]

theorem xorB64 (b : Src) (a : Src) (d : Nat) : Statement (.xorB64 b a d) := by
  intro w
  refine ⟨fun f h => ?_, fun _ _ _ h => by simp [encodeShort] at h⟩
  simp only [encodeFields, Option.some.injEq] at h
  subst h
  simp only [Instr.wf, Bool.and_eq_true] at w
  obtain ⟨⟨h0, h1⟩, h2⟩ := w
  have k_b := okPair_lt h0
  have k_a := okPair_lt h1
  have k_d := pair_lt h2
  have t_b := bool_lt b.trap
  have c_b := code_lt b k_b
  have t_a := bool_lt a.trap
  refine ⟨by simp only [InRange]; omega, ?_⟩
  show Except.ok (Instr.xorB64 (Fields.srcB ⟨_, _, _, _, _, _⟩) (Fields.srcA ⟨_, _, _, _, _, _⟩) _) = _
  rw [srcB_mk _ _ _ _ _ _ k_b, srcA_mk]

theorem shlB64 (b : Src) (a : Src) (d : Nat) : Statement (.shlB64 b a d) := by
  intro w
  refine ⟨fun f h => ?_, fun _ _ _ h => by simp [encodeShort] at h⟩
  simp only [encodeFields, Option.some.injEq] at h
  subst h
  simp only [Instr.wf, Bool.and_eq_true] at w
  obtain ⟨⟨h0, h1⟩, h2⟩ := w
  have k_b := ok_lt h0
  have k_a := okPair_lt h1
  have k_d := pair_lt h2
  have t_b := bool_lt b.trap
  have c_b := code_lt b k_b
  have t_a := bool_lt a.trap
  refine ⟨by simp only [InRange]; omega, ?_⟩
  show Except.ok (Instr.shlB64 (Fields.srcB ⟨_, _, _, _, _, _⟩) (Fields.srcA ⟨_, _, _, _, _, _⟩) _) = _
  rw [srcB_mk _ _ _ _ _ _ k_b, srcA_mk]

theorem shrB64 (b : Src) (a : Src) (d : Nat) : Statement (.shrB64 b a d) := by
  intro w
  refine ⟨fun f h => ?_, fun _ _ _ h => by simp [encodeShort] at h⟩
  simp only [encodeFields, Option.some.injEq] at h
  subst h
  simp only [Instr.wf, Bool.and_eq_true] at w
  obtain ⟨⟨h0, h1⟩, h2⟩ := w
  have k_b := ok_lt h0
  have k_a := okPair_lt h1
  have k_d := pair_lt h2
  have t_b := bool_lt b.trap
  have c_b := code_lt b k_b
  have t_a := bool_lt a.trap
  refine ⟨by simp only [InRange]; omega, ?_⟩
  show Except.ok (Instr.shrB64 (Fields.srcB ⟨_, _, _, _, _, _⟩) (Fields.srcA ⟨_, _, _, _, _, _⟩) _) = _
  rw [srcB_mk _ _ _ _ _ _ k_b, srcA_mk]

theorem sraB64 (b : Src) (a : Src) (d : Nat) : Statement (.sraB64 b a d) := by
  intro w
  refine ⟨fun f h => ?_, fun _ _ _ h => by simp [encodeShort] at h⟩
  simp only [encodeFields, Option.some.injEq] at h
  subst h
  simp only [Instr.wf, Bool.and_eq_true] at w
  obtain ⟨⟨h0, h1⟩, h2⟩ := w
  have k_b := ok_lt h0
  have k_a := okPair_lt h1
  have k_d := pair_lt h2
  have t_b := bool_lt b.trap
  have c_b := code_lt b k_b
  have t_a := bool_lt a.trap
  refine ⟨by simp only [InRange]; omega, ?_⟩
  show Except.ok (Instr.sraB64 (Fields.srcB ⟨_, _, _, _, _, _⟩) (Fields.srcA ⟨_, _, _, _, _, _⟩) _) = _
  rw [srcB_mk _ _ _ _ _ _ k_b, srcA_mk]

theorem iaddI64 (g : Guard) (b : Src) (a : Src) (d : Nat) : Statement (.iaddI64 g b a d) := by
  intro w
  refine ⟨fun f h => ?_, fun _ _ _ h => by simp [encodeShort] at h⟩
  simp only [encodeFields, Option.some.injEq] at h
  subst h
  simp only [Instr.wf, Bool.and_eq_true] at w
  obtain ⟨⟨⟨h0, h1⟩, h2⟩, h3⟩ := w
  have k_g := guard_ok_lt h0
  have c_g := guard_lt g k_g
  have k_b := okPair_lt h1
  have k_a := okPair_lt h2
  have k_d := pair_lt h3
  have t_b := bool_lt b.trap
  have c_b := code_lt b k_b
  have t_a := bool_lt a.trap
  refine ⟨by simp only [InRange]; omega, ?_⟩
  show Except.ok (Instr.iaddI64 (Fields.guard ⟨_, _, _, _, _, _⟩) (Fields.srcB ⟨_, _, _, _, _, _⟩) (Fields.srcA ⟨_, _, _, _, _, _⟩) _) = _
  rw [guard_mk _ _ _ _ _ _ k_g, srcB_mk _ _ _ _ _ _ k_b, srcA_mk]

theorem gxld (a : Src) (d : Nat) : Statement (.gxld a d) := by
  intro w
  refine ⟨fun f h => ?_, fun _ _ _ h => by simp [encodeShort] at h⟩
  simp only [encodeFields, Option.some.injEq] at h
  subst h
  simp only [Instr.wf, Bool.and_eq_true] at w
  obtain ⟨h0, h1⟩ := w
  have k_a := ok_lt h0
  have k_d := reg_lt h1
  have t_a := bool_lt a.trap
  refine ⟨by simp only [InRange]; omega, ?_⟩
  show Except.ok (Instr.gxld (Fields.srcA ⟨_, _, _, _, _, _⟩) _) = _
  rw [srcA_mk]

theorem gxst (b : Src) (a : Src) : Statement (.gxst b a) := by
  intro w
  refine ⟨fun f h => ?_, fun _ _ _ h => by simp [encodeShort] at h⟩
  simp only [encodeFields, Option.some.injEq] at h
  subst h
  simp only [Instr.wf, Bool.and_eq_true] at w
  obtain ⟨h0, h1⟩ := w
  have k_b := ok_lt h0
  have k_a := ok_lt h1
  have t_b := bool_lt b.trap
  have c_b := code_lt b k_b
  have t_a := bool_lt a.trap
  refine ⟨by simp only [InRange]; omega, ?_⟩
  show Except.ok (Instr.gxst (Fields.srcB ⟨_, _, _, _, _, _⟩) (Fields.srcA ⟨_, _, _, _, _, _⟩)) = _
  rw [srcB_mk _ _ _ _ _ _ k_b, srcA_mk]

theorem fadd (g : Guard) (b : Src) (a : Src) (d : Nat) : Statement (.fadd g b a d) := by
  intro w
  refine ⟨fun f h => ?_, fun _ _ _ h => by simp [encodeShort] at h⟩
  simp only [encodeFields, Option.some.injEq] at h
  subst h
  simp only [Instr.wf, Bool.and_eq_true] at w
  obtain ⟨⟨⟨h0, h1⟩, h2⟩, h3⟩ := w
  have k_g := guard_ok_lt h0
  have c_g := guard_lt g k_g
  have k_b := ok_lt h1
  have k_a := ok_lt h2
  have k_d := reg_lt h3
  have t_b := bool_lt b.trap
  have c_b := code_lt b k_b
  have t_a := bool_lt a.trap
  refine ⟨by simp only [InRange]; omega, ?_⟩
  show Except.ok (Instr.fadd (Fields.guard ⟨_, _, _, _, _, _⟩) (Fields.srcB ⟨_, _, _, _, _, _⟩) (Fields.srcA ⟨_, _, _, _, _, _⟩) _) = _
  rw [guard_mk _ _ _ _ _ _ k_g, srcB_mk _ _ _ _ _ _ k_b, srcA_mk]

theorem fsub (g : Guard) (b : Src) (a : Src) (d : Nat) : Statement (.fsub g b a d) := by
  intro w
  refine ⟨fun f h => ?_, fun _ _ _ h => by simp [encodeShort] at h⟩
  simp only [encodeFields, Option.some.injEq] at h
  subst h
  simp only [Instr.wf, Bool.and_eq_true] at w
  obtain ⟨⟨⟨h0, h1⟩, h2⟩, h3⟩ := w
  have k_g := guard_ok_lt h0
  have c_g := guard_lt g k_g
  have k_b := ok_lt h1
  have k_a := ok_lt h2
  have k_d := reg_lt h3
  have t_b := bool_lt b.trap
  have c_b := code_lt b k_b
  have t_a := bool_lt a.trap
  refine ⟨by simp only [InRange]; omega, ?_⟩
  show Except.ok (Instr.fsub (Fields.guard ⟨_, _, _, _, _, _⟩) (Fields.srcB ⟨_, _, _, _, _, _⟩) (Fields.srcA ⟨_, _, _, _, _, _⟩) _) = _
  rw [guard_mk _ _ _ _ _ _ k_g, srcB_mk _ _ _ _ _ _ k_b, srcA_mk]

theorem fmul (g : Guard) (b : Src) (a : Src) (d : Nat) : Statement (.fmul g b a d) := by
  intro w
  refine ⟨fun f h => ?_, fun _ _ _ h => by simp [encodeShort] at h⟩
  simp only [encodeFields, Option.some.injEq] at h
  subst h
  simp only [Instr.wf, Bool.and_eq_true] at w
  obtain ⟨⟨⟨h0, h1⟩, h2⟩, h3⟩ := w
  have k_g := guard_ok_lt h0
  have c_g := guard_lt g k_g
  have k_b := ok_lt h1
  have k_a := ok_lt h2
  have k_d := reg_lt h3
  have t_b := bool_lt b.trap
  have c_b := code_lt b k_b
  have t_a := bool_lt a.trap
  refine ⟨by simp only [InRange]; omega, ?_⟩
  show Except.ok (Instr.fmul (Fields.guard ⟨_, _, _, _, _, _⟩) (Fields.srcB ⟨_, _, _, _, _, _⟩) (Fields.srcA ⟨_, _, _, _, _, _⟩) _) = _
  rw [guard_mk _ _ _ _ _ _ k_g, srcB_mk _ _ _ _ _ _ k_b, srcA_mk]

theorem ffma (g : Guard) (b : Src) (a : Src) (d : Nat) : Statement (.ffma g b a d) := by
  intro w
  refine ⟨fun f h => ?_, fun _ _ _ h => by simp [encodeShort] at h⟩
  simp only [encodeFields, Option.some.injEq] at h
  subst h
  simp only [Instr.wf, Bool.and_eq_true] at w
  obtain ⟨⟨⟨h0, h1⟩, h2⟩, h3⟩ := w
  have k_g := guard_ok_lt h0
  have c_g := guard_lt g k_g
  have k_b := ok_lt h1
  have k_a := ok_lt h2
  have k_d := reg_lt h3
  have t_b := bool_lt b.trap
  have c_b := code_lt b k_b
  have t_a := bool_lt a.trap
  refine ⟨by simp only [InRange]; omega, ?_⟩
  show Except.ok (Instr.ffma (Fields.guard ⟨_, _, _, _, _, _⟩) (Fields.srcB ⟨_, _, _, _, _, _⟩) (Fields.srcA ⟨_, _, _, _, _, _⟩) _) = _
  rw [guard_mk _ _ _ _ _ _ k_g, srcB_mk _ _ _ _ _ _ k_b, srcA_mk]

theorem fmin (g : Guard) (b : Src) (a : Src) (d : Nat) : Statement (.fmin g b a d) := by
  intro w
  refine ⟨fun f h => ?_, fun _ _ _ h => by simp [encodeShort] at h⟩
  simp only [encodeFields, Option.some.injEq] at h
  subst h
  simp only [Instr.wf, Bool.and_eq_true] at w
  obtain ⟨⟨⟨h0, h1⟩, h2⟩, h3⟩ := w
  have k_g := guard_ok_lt h0
  have c_g := guard_lt g k_g
  have k_b := ok_lt h1
  have k_a := ok_lt h2
  have k_d := reg_lt h3
  have t_b := bool_lt b.trap
  have c_b := code_lt b k_b
  have t_a := bool_lt a.trap
  refine ⟨by simp only [InRange]; omega, ?_⟩
  show Except.ok (Instr.fmin (Fields.guard ⟨_, _, _, _, _, _⟩) (Fields.srcB ⟨_, _, _, _, _, _⟩) (Fields.srcA ⟨_, _, _, _, _, _⟩) _) = _
  rw [guard_mk _ _ _ _ _ _ k_g, srcB_mk _ _ _ _ _ _ k_b, srcA_mk]

theorem fmax (g : Guard) (b : Src) (a : Src) (d : Nat) : Statement (.fmax g b a d) := by
  intro w
  refine ⟨fun f h => ?_, fun _ _ _ h => by simp [encodeShort] at h⟩
  simp only [encodeFields, Option.some.injEq] at h
  subst h
  simp only [Instr.wf, Bool.and_eq_true] at w
  obtain ⟨⟨⟨h0, h1⟩, h2⟩, h3⟩ := w
  have k_g := guard_ok_lt h0
  have c_g := guard_lt g k_g
  have k_b := ok_lt h1
  have k_a := ok_lt h2
  have k_d := reg_lt h3
  have t_b := bool_lt b.trap
  have c_b := code_lt b k_b
  have t_a := bool_lt a.trap
  refine ⟨by simp only [InRange]; omega, ?_⟩
  show Except.ok (Instr.fmax (Fields.guard ⟨_, _, _, _, _, _⟩) (Fields.srcB ⟨_, _, _, _, _, _⟩) (Fields.srcA ⟨_, _, _, _, _, _⟩) _) = _
  rw [guard_mk _ _ _ _ _ _ k_g, srcB_mk _ _ _ _ _ _ k_b, srcA_mk]

theorem fabs (g : Guard) (a : Src) (d : Nat) : Statement (.fabs g a d) := by
  intro w
  refine ⟨fun f h => ?_, fun _ _ _ h => by simp [encodeShort] at h⟩
  simp only [encodeFields, Option.some.injEq] at h
  subst h
  simp only [Instr.wf, Bool.and_eq_true] at w
  obtain ⟨⟨h0, h1⟩, h2⟩ := w
  have k_g := guard_ok_lt h0
  have c_g := guard_lt g k_g
  have k_a := ok_lt h1
  have k_d := reg_lt h2
  have t_a := bool_lt a.trap
  refine ⟨by simp only [InRange]; omega, ?_⟩
  show Except.ok (Instr.fabs (Fields.guard ⟨_, _, _, _, _, _⟩) (Fields.srcA ⟨_, _, _, _, _, _⟩) _) = _
  rw [guard_mk _ _ _ _ _ _ k_g, srcA_mk]

theorem fneg (g : Guard) (a : Src) (d : Nat) : Statement (.fneg g a d) := by
  intro w
  refine ⟨fun f h => ?_, fun _ _ _ h => by simp [encodeShort] at h⟩
  simp only [encodeFields, Option.some.injEq] at h
  subst h
  simp only [Instr.wf, Bool.and_eq_true] at w
  obtain ⟨⟨h0, h1⟩, h2⟩ := w
  have k_g := guard_ok_lt h0
  have c_g := guard_lt g k_g
  have k_a := ok_lt h1
  have k_d := reg_lt h2
  have t_a := bool_lt a.trap
  refine ⟨by simp only [InRange]; omega, ?_⟩
  show Except.ok (Instr.fneg (Fields.guard ⟨_, _, _, _, _, _⟩) (Fields.srcA ⟨_, _, _, _, _, _⟩) _) = _
  rw [guard_mk _ _ _ _ _ _ k_g, srcA_mk]

theorem frcp (g : Guard) (a : Src) (d : Nat) : Statement (.frcp g a d) := by
  intro w
  refine ⟨fun f h => ?_, fun _ _ _ h => by simp [encodeShort] at h⟩
  simp only [encodeFields, Option.some.injEq] at h
  subst h
  simp only [Instr.wf, Bool.and_eq_true] at w
  obtain ⟨⟨h0, h1⟩, h2⟩ := w
  have k_g := guard_ok_lt h0
  have c_g := guard_lt g k_g
  have k_a := ok_lt h1
  have k_d := reg_lt h2
  have t_a := bool_lt a.trap
  refine ⟨by simp only [InRange]; omega, ?_⟩
  show Except.ok (Instr.frcp (Fields.guard ⟨_, _, _, _, _, _⟩) (Fields.srcA ⟨_, _, _, _, _, _⟩) _) = _
  rw [guard_mk _ _ _ _ _ _ k_g, srcA_mk]

theorem frsq (g : Guard) (a : Src) (d : Nat) : Statement (.frsq g a d) := by
  intro w
  refine ⟨fun f h => ?_, fun _ _ _ h => by simp [encodeShort] at h⟩
  simp only [encodeFields, Option.some.injEq] at h
  subst h
  simp only [Instr.wf, Bool.and_eq_true] at w
  obtain ⟨⟨h0, h1⟩, h2⟩ := w
  have k_g := guard_ok_lt h0
  have c_g := guard_lt g k_g
  have k_a := ok_lt h1
  have k_d := reg_lt h2
  have t_a := bool_lt a.trap
  refine ⟨by simp only [InRange]; omega, ?_⟩
  show Except.ok (Instr.frsq (Fields.guard ⟨_, _, _, _, _, _⟩) (Fields.srcA ⟨_, _, _, _, _, _⟩) _) = _
  rw [guard_mk _ _ _ _ _ _ k_g, srcA_mk]

theorem fsqrt (g : Guard) (a : Src) (d : Nat) : Statement (.fsqrt g a d) := by
  intro w
  refine ⟨fun f h => ?_, fun _ _ _ h => by simp [encodeShort] at h⟩
  simp only [encodeFields, Option.some.injEq] at h
  subst h
  simp only [Instr.wf, Bool.and_eq_true] at w
  obtain ⟨⟨h0, h1⟩, h2⟩ := w
  have k_g := guard_ok_lt h0
  have c_g := guard_lt g k_g
  have k_a := ok_lt h1
  have k_d := reg_lt h2
  have t_a := bool_lt a.trap
  refine ⟨by simp only [InRange]; omega, ?_⟩
  show Except.ok (Instr.fsqrt (Fields.guard ⟨_, _, _, _, _, _⟩) (Fields.srcA ⟨_, _, _, _, _, _⟩) _) = _
  rw [guard_mk _ _ _ _ _ _ k_g, srcA_mk]

theorem fexp2 (g : Guard) (a : Src) (d : Nat) : Statement (.fexp2 g a d) := by
  intro w
  refine ⟨fun f h => ?_, fun _ _ _ h => by simp [encodeShort] at h⟩
  simp only [encodeFields, Option.some.injEq] at h
  subst h
  simp only [Instr.wf, Bool.and_eq_true] at w
  obtain ⟨⟨h0, h1⟩, h2⟩ := w
  have k_g := guard_ok_lt h0
  have c_g := guard_lt g k_g
  have k_a := ok_lt h1
  have k_d := reg_lt h2
  have t_a := bool_lt a.trap
  refine ⟨by simp only [InRange]; omega, ?_⟩
  show Except.ok (Instr.fexp2 (Fields.guard ⟨_, _, _, _, _, _⟩) (Fields.srcA ⟨_, _, _, _, _, _⟩) _) = _
  rw [guard_mk _ _ _ _ _ _ k_g, srcA_mk]

theorem flog2 (g : Guard) (a : Src) (d : Nat) : Statement (.flog2 g a d) := by
  intro w
  refine ⟨fun f h => ?_, fun _ _ _ h => by simp [encodeShort] at h⟩
  simp only [encodeFields, Option.some.injEq] at h
  subst h
  simp only [Instr.wf, Bool.and_eq_true] at w
  obtain ⟨⟨h0, h1⟩, h2⟩ := w
  have k_g := guard_ok_lt h0
  have c_g := guard_lt g k_g
  have k_a := ok_lt h1
  have k_d := reg_lt h2
  have t_a := bool_lt a.trap
  refine ⟨by simp only [InRange]; omega, ?_⟩
  show Except.ok (Instr.flog2 (Fields.guard ⟨_, _, _, _, _, _⟩) (Fields.srcA ⟨_, _, _, _, _, _⟩) _) = _
  rw [guard_mk _ _ _ _ _ _ k_g, srcA_mk]

theorem frnd (g : Guard) (rm : RMode) (a : Src) (d : Nat) : Statement (.frnd g rm a d) := by
  intro w
  refine ⟨fun f h => ?_, fun _ _ _ h => by simp [encodeShort] at h⟩
  simp only [encodeFields, Option.some.injEq] at h
  subst h
  simp only [Instr.wf, Bool.and_eq_true] at w
  obtain ⟨⟨⟨h0, h1⟩, h2⟩, h3⟩ := w
  have k_g := guard_ok_lt h0
  have c_g := guard_lt g k_g
  have k_a := ok_lt h2
  have k_d := reg_lt h3
  have t_a := bool_lt a.trap
  have x_rm := rmode_lt rm
  have y_rm := frnd_lt rm h1
  refine ⟨by simp only [InRange]; omega, ?_⟩
  cases rm <;> first | exact absurd h1 (by decide) | (show Except.ok (Instr.frnd (Fields.guard ⟨_, _, _, _, _, _⟩) _ (Fields.srcA ⟨_, _, _, _, _, _⟩) _) = _; rw [guard_mk _ _ _ _ _ _ k_g, srcA_mk])

theorem fcmp (c : FCond) (b : Src) (a : Src) (pd : Nat) : Statement (.fcmp c b a pd) := by
  intro w
  refine ⟨fun f h => ?_, fun _ _ _ h => by simp [encodeShort] at h⟩
  simp only [encodeFields, Option.some.injEq] at h
  subst h
  simp only [Instr.wf, Bool.and_eq_true] at w
  obtain ⟨⟨h0, h1⟩, h2⟩ := w
  have k_b := ok_lt h0
  have k_a := ok_lt h1
  have k_pd := below_lt h2
  have t_b := bool_lt b.trap
  have c_b := code_lt b k_b
  have t_a := bool_lt a.trap
  have x_c := fcond_lt c
  refine ⟨by simp only [InRange]; omega, ?_⟩
  cases c <;> (show Except.ok (Instr.fcmp _ (Fields.srcB ⟨_, _, _, _, _, _⟩) (Fields.srcA ⟨_, _, _, _, _, _⟩) _) = _; rw [srcB_mk _ _ _ _ _ _ k_b, srcA_mk])

theorem fdiv (g : Guard) (b : Src) (a : Src) (d : Nat) : Statement (.fdiv g b a d) := by
  intro w
  refine ⟨fun f h => ?_, fun _ _ _ h => by simp [encodeShort] at h⟩
  simp only [encodeFields, Option.some.injEq] at h
  subst h
  simp only [Instr.wf, Bool.and_eq_true] at w
  obtain ⟨⟨⟨h0, h1⟩, h2⟩, h3⟩ := w
  have k_g := guard_ok_lt h0
  have c_g := guard_lt g k_g
  have k_b := ok_lt h1
  have k_a := ok_lt h2
  have k_d := reg_lt h3
  have t_b := bool_lt b.trap
  have c_b := code_lt b k_b
  have t_a := bool_lt a.trap
  refine ⟨by simp only [InRange]; omega, ?_⟩
  show Except.ok (Instr.fdiv (Fields.guard ⟨_, _, _, _, _, _⟩) (Fields.srcB ⟨_, _, _, _, _, _⟩) (Fields.srcA ⟨_, _, _, _, _, _⟩) _) = _
  rw [guard_mk _ _ _ _ _ _ k_g, srcB_mk _ _ _ _ _ _ k_b, srcA_mk]

theorem faddDirected (rm : RMode) (b : Src) (a : Src) (d : Nat) : Statement (.faddDirected rm b a d) := by
  intro w
  refine ⟨fun f h => ?_, fun _ _ _ h => by simp [encodeShort] at h⟩
  simp only [encodeFields, Option.some.injEq] at h
  subst h
  simp only [Instr.wf, Bool.and_eq_true] at w
  obtain ⟨⟨⟨h0, h1⟩, h2⟩, h3⟩ := w
  have k_b := ok_lt h1
  have k_a := ok_lt h2
  have k_d := reg_lt h3
  have t_b := bool_lt b.trap
  have c_b := code_lt b k_b
  have t_a := bool_lt a.trap
  have x_rm := directed_lt rm
  have y_rm := dir_lt rm h0
  refine ⟨by simp only [InRange]; omega, ?_⟩
  cases rm <;> first | exact absurd h0 (by decide) | (show Except.ok (Instr.faddDirected _ (Fields.srcB ⟨_, _, _, _, _, _⟩) (Fields.srcA ⟨_, _, _, _, _, _⟩) _) = _; rw [srcB_mk _ _ _ _ _ _ k_b, srcA_mk])

theorem fsubDirected (rm : RMode) (b : Src) (a : Src) (d : Nat) : Statement (.fsubDirected rm b a d) := by
  intro w
  refine ⟨fun f h => ?_, fun _ _ _ h => by simp [encodeShort] at h⟩
  simp only [encodeFields, Option.some.injEq] at h
  subst h
  simp only [Instr.wf, Bool.and_eq_true] at w
  obtain ⟨⟨⟨h0, h1⟩, h2⟩, h3⟩ := w
  have k_b := ok_lt h1
  have k_a := ok_lt h2
  have k_d := reg_lt h3
  have t_b := bool_lt b.trap
  have c_b := code_lt b k_b
  have t_a := bool_lt a.trap
  have x_rm := directed_lt rm
  have y_rm := dir_lt rm h0
  refine ⟨by simp only [InRange]; omega, ?_⟩
  cases rm <;> first | exact absurd h0 (by decide) | (show Except.ok (Instr.fsubDirected _ (Fields.srcB ⟨_, _, _, _, _, _⟩) (Fields.srcA ⟨_, _, _, _, _, _⟩) _) = _; rw [srcB_mk _ _ _ _ _ _ k_b, srcA_mk])

theorem fmulDirected (rm : RMode) (b : Src) (a : Src) (d : Nat) : Statement (.fmulDirected rm b a d) := by
  intro w
  refine ⟨fun f h => ?_, fun _ _ _ h => by simp [encodeShort] at h⟩
  simp only [encodeFields, Option.some.injEq] at h
  subst h
  simp only [Instr.wf, Bool.and_eq_true] at w
  obtain ⟨⟨⟨h0, h1⟩, h2⟩, h3⟩ := w
  have k_b := ok_lt h1
  have k_a := ok_lt h2
  have k_d := reg_lt h3
  have t_b := bool_lt b.trap
  have c_b := code_lt b k_b
  have t_a := bool_lt a.trap
  have x_rm := directed_lt rm
  have y_rm := dir_lt rm h0
  refine ⟨by simp only [InRange]; omega, ?_⟩
  cases rm <;> first | exact absurd h0 (by decide) | (show Except.ok (Instr.fmulDirected _ (Fields.srcB ⟨_, _, _, _, _, _⟩) (Fields.srcA ⟨_, _, _, _, _, _⟩) _) = _; rw [srcB_mk _ _ _ _ _ _ k_b, srcA_mk])

theorem ffmaDirected (rm : RMode) (b : Src) (a : Src) (d : Nat) : Statement (.ffmaDirected rm b a d) := by
  intro w
  refine ⟨fun f h => ?_, fun _ _ _ h => by simp [encodeShort] at h⟩
  simp only [encodeFields, Option.some.injEq] at h
  subst h
  simp only [Instr.wf, Bool.and_eq_true] at w
  obtain ⟨⟨⟨h0, h1⟩, h2⟩, h3⟩ := w
  have k_b := ok_lt h1
  have k_a := ok_lt h2
  have k_d := reg_lt h3
  have t_b := bool_lt b.trap
  have c_b := code_lt b k_b
  have t_a := bool_lt a.trap
  have x_rm := directed_lt rm
  have y_rm := dir_lt rm h0
  refine ⟨by simp only [InRange]; omega, ?_⟩
  cases rm <;> first | exact absurd h0 (by decide) | (show Except.ok (Instr.ffmaDirected _ (Fields.srcB ⟨_, _, _, _, _, _⟩) (Fields.srcA ⟨_, _, _, _, _, _⟩) _) = _; rw [srcB_mk _ _ _ _ _ _ k_b, srcA_mk])

theorem badd2 (g : Guard) (b : Src) (a : Src) (d : Nat) : Statement (.badd2 g b a d) := by
  intro w
  refine ⟨fun f h => ?_, fun _ _ _ h => by simp [encodeShort] at h⟩
  simp only [encodeFields, Option.some.injEq] at h
  subst h
  simp only [Instr.wf, Bool.and_eq_true] at w
  obtain ⟨⟨⟨h0, h1⟩, h2⟩, h3⟩ := w
  have k_g := guard_ok_lt h0
  have c_g := guard_lt g k_g
  have k_b := ok_lt h1
  have k_a := ok_lt h2
  have k_d := reg_lt h3
  have t_b := bool_lt b.trap
  have c_b := code_lt b k_b
  have t_a := bool_lt a.trap
  refine ⟨by simp only [InRange]; omega, ?_⟩
  show Except.ok (Instr.badd2 (Fields.guard ⟨_, _, _, _, _, _⟩) (Fields.srcB ⟨_, _, _, _, _, _⟩) (Fields.srcA ⟨_, _, _, _, _, _⟩) _) = _
  rw [guard_mk _ _ _ _ _ _ k_g, srcB_mk _ _ _ _ _ _ k_b, srcA_mk]

theorem bmul2 (g : Guard) (b : Src) (a : Src) (d : Nat) : Statement (.bmul2 g b a d) := by
  intro w
  refine ⟨fun f h => ?_, fun _ _ _ h => by simp [encodeShort] at h⟩
  simp only [encodeFields, Option.some.injEq] at h
  subst h
  simp only [Instr.wf, Bool.and_eq_true] at w
  obtain ⟨⟨⟨h0, h1⟩, h2⟩, h3⟩ := w
  have k_g := guard_ok_lt h0
  have c_g := guard_lt g k_g
  have k_b := ok_lt h1
  have k_a := ok_lt h2
  have k_d := reg_lt h3
  have t_b := bool_lt b.trap
  have c_b := code_lt b k_b
  have t_a := bool_lt a.trap
  refine ⟨by simp only [InRange]; omega, ?_⟩
  show Except.ok (Instr.bmul2 (Fields.guard ⟨_, _, _, _, _, _⟩) (Fields.srcB ⟨_, _, _, _, _, _⟩) (Fields.srcA ⟨_, _, _, _, _, _⟩) _) = _
  rw [guard_mk _ _ _ _ _ _ k_g, srcB_mk _ _ _ _ _ _ k_b, srcA_mk]

theorem bfma2 (g : Guard) (b : Src) (a : Src) (d : Nat) : Statement (.bfma2 g b a d) := by
  intro w
  refine ⟨fun f h => ?_, fun _ _ _ h => by simp [encodeShort] at h⟩
  simp only [encodeFields, Option.some.injEq] at h
  subst h
  simp only [Instr.wf, Bool.and_eq_true] at w
  obtain ⟨⟨⟨h0, h1⟩, h2⟩, h3⟩ := w
  have k_g := guard_ok_lt h0
  have c_g := guard_lt g k_g
  have k_b := ok_lt h1
  have k_a := ok_lt h2
  have k_d := reg_lt h3
  have t_b := bool_lt b.trap
  have c_b := code_lt b k_b
  have t_a := bool_lt a.trap
  refine ⟨by simp only [InRange]; omega, ?_⟩
  show Except.ok (Instr.bfma2 (Fields.guard ⟨_, _, _, _, _, _⟩) (Fields.srcB ⟨_, _, _, _, _, _⟩) (Fields.srcA ⟨_, _, _, _, _, _⟩) _) = _
  rw [guard_mk _ _ _ _ _ _ k_g, srcB_mk _ _ _ _ _ _ k_b, srcA_mk]

theorem cvt (g : Guard) (k : CvtKind) (a : Src) (d : Nat) : Statement (.cvt g k a d) := by
  intro w
  refine ⟨fun f h => ?_, fun _ _ _ h => by simp [encodeShort] at h⟩
  simp only [encodeFields, Option.some.injEq] at h
  subst h
  simp only [Instr.wf, Bool.and_eq_true] at w
  obtain ⟨⟨h0, h1⟩, h2⟩ := w
  have k_g := guard_ok_lt h0
  have c_g := guard_lt g k_g
  have k_a := ok_lt h1
  have k_d := reg_lt h2
  have t_a := bool_lt a.trap
  have x_k := cvt_lt k
  refine ⟨by simp only [InRange]; omega, ?_⟩
  cases k <;> (show Except.ok (Instr.cvt (Fields.guard ⟨_, _, _, _, _, _⟩) _ (Fields.srcA ⟨_, _, _, _, _, _⟩) _) = _; rw [guard_mk _ _ _ _ _ _ k_g, srcA_mk])

theorem plop (t : Nat) (pb : Nat) (pa : Nat) (pd : Nat) : Statement (.plop t pb pa pd) := by
  intro w
  refine ⟨fun f h => ?_, fun _ _ _ h => by simp [encodeShort] at h⟩
  simp only [encodeFields, Option.some.injEq] at h
  subst h
  simp only [Instr.wf, Bool.and_eq_true] at w
  obtain ⟨⟨⟨h0, h1⟩, h2⟩, h3⟩ := w
  have k_t := below_lt h0
  have k_pb := below_lt h1
  have k_pa := below_lt h2
  have k_pd := below_lt h3
  refine ⟨by simp only [InRange]; omega, ?_⟩
  rfl

theorem p2g (g : Guard) (d : Nat) : Statement (.p2g g d) := by
  intro w
  refine ⟨fun f h => ?_, fun _ _ _ h => by simp [encodeShort] at h⟩
  simp only [encodeFields, Option.some.injEq] at h
  subst h
  simp only [Instr.wf, Bool.and_eq_true] at w
  obtain ⟨h0, h1⟩ := w
  have k_g := guard_ok_lt h0
  have c_g := guard_lt g k_g
  have k_d := reg_lt h1
  refine ⟨by simp only [InRange]; omega, ?_⟩
  show Except.ok (Instr.p2g (Fields.guard ⟨_, _, _, _, _, _⟩) _) = _
  rw [guard_mk _ _ _ _ _ _ k_g]

theorem g2p (g : Guard) (a : Src) : Statement (.g2p g a) := by
  intro w
  refine ⟨fun f h => ?_, fun _ _ _ h => by simp [encodeShort] at h⟩
  simp only [encodeFields, Option.some.injEq] at h
  subst h
  simp only [Instr.wf, Bool.and_eq_true] at w
  obtain ⟨h0, h1⟩ := w
  have k_g := guard_ok_lt h0
  have c_g := guard_lt g k_g
  have k_a := ok_lt h1
  have t_a := bool_lt a.trap
  refine ⟨by simp only [InRange]; omega, ?_⟩
  show Except.ok (Instr.g2p (Fields.guard ⟨_, _, _, _, _, _⟩) (Fields.srcA ⟨_, _, _, _, _, _⟩)) = _
  rw [guard_mk _ _ _ _ _ _ k_g, srcA_mk]

theorem voteAny (pa : Nat) (pd : Nat) : Statement (.voteAny pa pd) := by
  intro w
  refine ⟨fun f h => ?_, fun _ _ _ h => by simp [encodeShort] at h⟩
  simp only [encodeFields, Option.some.injEq] at h
  subst h
  simp only [Instr.wf, Bool.and_eq_true] at w
  obtain ⟨h0, h1⟩ := w
  have k_pa := below_lt h0
  have k_pd := below_lt h1
  refine ⟨by simp only [InRange]; omega, ?_⟩
  rfl

theorem voteAll (pa : Nat) (pd : Nat) : Statement (.voteAll pa pd) := by
  intro w
  refine ⟨fun f h => ?_, fun _ _ _ h => by simp [encodeShort] at h⟩
  simp only [encodeFields, Option.some.injEq] at h
  subst h
  simp only [Instr.wf, Bool.and_eq_true] at w
  obtain ⟨h0, h1⟩ := w
  have k_pa := below_lt h0
  have k_pd := below_lt h1
  refine ⟨by simp only [InRange]; omega, ?_⟩
  rfl

theorem voteBallot (pa : Nat) (d : Nat) : Statement (.voteBallot pa d) := by
  intro w
  refine ⟨fun f h => ?_, fun _ _ _ h => by simp [encodeShort] at h⟩
  simp only [encodeFields, Option.some.injEq] at h
  subst h
  simp only [Instr.wf, Bool.and_eq_true] at w
  obtain ⟨h0, h1⟩ := w
  have k_pa := below_lt h0
  have k_d := reg_lt h1
  refine ⟨by simp only [InRange]; omega, ?_⟩
  rfl

theorem voteFirst (pd : Nat) : Statement (.voteFirst pd) := by
  intro w
  refine ⟨fun f h => ?_, fun _ _ _ h => by simp [encodeShort] at h⟩
  simp only [encodeFields, Option.some.injEq] at h
  subst h
  simp only [Instr.wf] at w
  have h0 := w
  have k_pd := below_lt h0
  refine ⟨by simp only [InRange]; omega, ?_⟩
  rfl

theorem shfl (m : ShflMode) (b : Src) (a : Src) (d : Nat) : Statement (.shfl m b a d) := by
  intro w
  refine ⟨fun f h => ?_, fun _ _ _ h => by simp [encodeShort] at h⟩
  simp only [encodeFields, Option.some.injEq] at h
  subst h
  simp only [Instr.wf, Bool.and_eq_true] at w
  obtain ⟨⟨h0, h1⟩, h2⟩ := w
  have k_b := ok_lt h0
  have k_a := ok_lt h1
  have k_d := reg_lt h2
  have t_b := bool_lt b.trap
  have c_b := code_lt b k_b
  have t_a := bool_lt a.trap
  have x_m := shfl_lt m
  refine ⟨by simp only [InRange]; omega, ?_⟩
  cases m <;> (show Except.ok (Instr.shfl _ (Fields.srcB ⟨_, _, _, _, _, _⟩) (Fields.srcA ⟨_, _, _, _, _, _⟩) _) = _; rw [srcB_mk _ _ _ _ _ _ k_b, srcA_mk])

theorem perm (g : Guard) (b : Src) (a : Src) (d : Nat) : Statement (.perm g b a d) := by
  intro w
  refine ⟨fun f h => ?_, fun _ _ _ h => by simp [encodeShort] at h⟩
  simp only [encodeFields, Option.some.injEq] at h
  subst h
  simp only [Instr.wf, Bool.and_eq_true] at w
  obtain ⟨⟨⟨h0, h1⟩, h2⟩, h3⟩ := w
  have k_g := guard_ok_lt h0
  have c_g := guard_lt g k_g
  have k_b := ok_lt h1
  have k_a := ok_lt h2
  have k_d := reg_lt h3
  have t_b := bool_lt b.trap
  have c_b := code_lt b k_b
  have t_a := bool_lt a.trap
  refine ⟨by simp only [InRange]; omega, ?_⟩
  show Except.ok (Instr.perm (Fields.guard ⟨_, _, _, _, _, _⟩) (Fields.srcB ⟨_, _, _, _, _, _⟩) (Fields.srcA ⟨_, _, _, _, _, _⟩) _) = _
  rw [guard_mk _ _ _ _ _ _ k_g, srcB_mk _ _ _ _ _ _ k_b, srcA_mk]

theorem redux (o : RedOp) (a : Src) (d : Nat) : Statement (.redux o a d) := by
  intro w
  refine ⟨fun f h => ?_, fun _ _ _ h => by simp [encodeShort] at h⟩
  simp only [encodeFields, Option.some.injEq] at h
  subst h
  simp only [Instr.wf, Bool.and_eq_true] at w
  obtain ⟨h0, h1⟩ := w
  have k_a := ok_lt h0
  have k_d := reg_lt h1
  have t_a := bool_lt a.trap
  have x_o := redop_lt o
  refine ⟨by simp only [InRange]; omega, ?_⟩
  cases o <;> (show Except.ok (Instr.redux _ (Fields.srcA ⟨_, _, _, _, _, _⟩) _) = _; rw [srcA_mk])

theorem scan (o : RedOp) (a : Src) (d : Nat) : Statement (.scan o a d) := by
  intro w
  refine ⟨fun f h => ?_, fun _ _ _ h => by simp [encodeShort] at h⟩
  simp only [encodeFields, Option.some.injEq] at h
  subst h
  simp only [Instr.wf, Bool.and_eq_true] at w
  obtain ⟨h0, h1⟩ := w
  have k_a := ok_lt h0
  have k_d := reg_lt h1
  have t_a := bool_lt a.trap
  have x_o := redop_lt o
  refine ⟨by simp only [InRange]; omega, ?_⟩
  cases o <;> (show Except.ok (Instr.scan _ (Fields.srcA ⟨_, _, _, _, _, _⟩) _) = _; rw [srcA_mk])

theorem bra (sense : Bool) (p : Nat) (disp : Nat) : Statement (.bra sense p disp) := by
  intro w
  refine ⟨fun f h => ?_, fun _ _ _ h => by simp [encodeShort] at h⟩
  simp only [encodeFields, Option.some.injEq] at h
  subst h
  simp only [Instr.wf, Bool.and_eq_true] at w
  obtain ⟨h0, h1⟩ := w
  have k_p := below_lt h0
  have k_disp := below_lt h1
  have t_s := bool_lt sense
  refine ⟨imm_range _ _ _ (by decide) (by omega) k_disp, ?_⟩
  have e1 := sense_mk 64 p disp sense k_p
  have e2 := index_mk 64 p disp sense k_p
  have e3 := imm_mk 64 (p + 32 * sense.toNat) disp
  show Except.ok _ = _
  rw [e1, e2, e3]

theorem brd (sense : Bool) (p : Nat) (disp : Nat) : Statement (.brd sense p disp) := by
  intro w
  refine ⟨fun f h => ?_, fun _ _ _ h => by simp [encodeShort] at h⟩
  simp only [encodeFields, Option.some.injEq] at h
  subst h
  simp only [Instr.wf, Bool.and_eq_true] at w
  obtain ⟨h0, h1⟩ := w
  have k_p := below_lt h0
  have k_disp := below_lt h1
  have t_s := bool_lt sense
  refine ⟨imm_range _ _ _ (by decide) (by omega) k_disp, ?_⟩
  have e1 := sense_mk 65 p disp sense k_p
  have e2 := index_mk 65 p disp sense k_p
  have e3 := imm_mk 65 (p + 32 * sense.toNat) disp
  show Except.ok _ = _
  rw [e1, e2, e3]

theorem split (j : Nat) : Statement (.split j) := by
  intro w
  refine ⟨fun f h => ?_, fun _ _ _ h => by simp [encodeShort] at h⟩
  simp only [encodeFields, Option.some.injEq] at h
  subst h
  simp only [Instr.wf] at w
  have h0 := w
  have k_j := below_lt h0
  refine ⟨by simp only [InRange]; omega, ?_⟩
  have e1 : j / 32 = 0 := by omega
  have e2 : j % 32 = j := by omega
  simp [decodeFields, only, Fields.sense, Fields.index, e1, e2]

theorem join (j : Nat) : Statement (.join j) := by
  intro w
  refine ⟨fun f h => ?_, fun _ _ _ h => by simp [encodeShort] at h⟩
  simp only [encodeFields, Option.some.injEq] at h
  subst h
  simp only [Instr.wf] at w
  have h0 := w
  have k_j := below_lt h0
  refine ⟨by simp only [InRange]; omega, ?_⟩
  have e1 : j / 32 = 0 := by omega
  have e2 : j % 32 = j := by omega
  simp [decodeFields, only, Fields.sense, Fields.index, e1, e2]

theorem brx (g : Guard) (a : Src) : Statement (.brx g a) := by
  intro w
  refine ⟨fun f h => ?_, fun _ _ _ h => by simp [encodeShort] at h⟩
  simp only [encodeFields, Option.some.injEq] at h
  subst h
  simp only [Instr.wf, Bool.and_eq_true] at w
  obtain ⟨h0, h1⟩ := w
  have k_g := guard_ok_lt h0
  have c_g := guard_lt g k_g
  have k_a := ok_lt h1
  have t_a := bool_lt a.trap
  refine ⟨by simp only [InRange]; omega, ?_⟩
  show Except.ok (Instr.brx (Fields.guard ⟨_, _, _, _, _, _⟩) (Fields.srcA ⟨_, _, _, _, _, _⟩)) = _
  rw [guard_mk _ _ _ _ _ _ k_g, srcA_mk]

theorem call (l : Nat) (disp : Nat) : Statement (.call l disp) := by
  intro w
  refine ⟨fun f h => ?_, fun _ _ _ h => by simp [encodeShort] at h⟩
  simp only [encodeFields, Option.some.injEq] at h
  subst h
  simp only [Instr.wf, Bool.and_eq_true] at w
  obtain ⟨h0, h1⟩ := w
  have k_l := below_lt h0
  have k_disp := below_lt h1
  refine ⟨imm_range _ _ _ (by decide) (by omega) k_disp, ?_⟩
  have e1 : l / 32 = 0 := by omega
  have e2 : l % 32 = l := by omega
  have e3 := imm_mk 69 l disp
  simp [decodeFields, only, Fields.sense, Fields.index, e3, e1, e2, Fields.ofImm]
  simp [Fields.ofImm, Fields.imm18] at e3
  exact e3

theorem ret (g : Guard) (a : Src) : Statement (.ret g a) := by
  intro w
  refine ⟨fun f h => ?_, fun _ _ _ h => by simp [encodeShort] at h⟩
  simp only [encodeFields, Option.some.injEq] at h
  subst h
  simp only [Instr.wf, Bool.and_eq_true] at w
  obtain ⟨h0, h1⟩ := w
  have k_g := guard_ok_lt h0
  have c_g := guard_lt g k_g
  have k_a := ok_lt h1
  have t_a := bool_lt a.trap
  refine ⟨by simp only [InRange]; omega, ?_⟩
  show Except.ok (Instr.ret (Fields.guard ⟨_, _, _, _, _, _⟩) (Fields.srcA ⟨_, _, _, _, _, _⟩)) = _
  rw [guard_mk _ _ _ _ _ _ k_g, srcA_mk]

theorem exit (g : Guard) : Statement (.exit g) := by
  intro w
  refine ⟨fun f h => ?_, fun _ _ _ h => by simp [encodeShort] at h⟩
  simp only [encodeFields, Option.some.injEq] at h
  subst h
  simp only [Instr.wf] at w
  have h0 := w
  have k_g := guard_ok_lt h0
  have c_g := guard_lt g k_g
  refine ⟨by simp only [InRange]; omega, ?_⟩
  show Except.ok (Instr.exit (Fields.guard ⟨_, _, _, _, _, _⟩)) = _
  rw [guard_mk _ _ _ _ _ _ k_g]

theorem mcall (m : Nat) (P0 : Nat) (P1 : Nat) (P2 : Nat) : Statement (.mcall m P0 P1 P2) := by
  intro w
  refine ⟨fun f h => ?_, fun _ _ _ h => by simp [encodeShort] at h⟩
  simp only [encodeFields, Option.some.injEq] at h
  subst h
  simp only [Instr.wf, Bool.and_eq_true] at w
  obtain ⟨⟨⟨h0, h1⟩, h2⟩, h3⟩ := w
  have k_m := below_lt h0
  have k_P0 := below_lt h1
  have k_P1 := below_lt h2
  have k_P2 := below_lt h3
  have hi : P0 + 64 * P1 + 4096 * P2 < 262144 := by omega
  refine ⟨imm_range _ _ _ (by decide) (by omega) hi, ?_⟩
  have e3 := imm_mk 72 m (P0 + 64 * P1 + 4096 * P2)
  show Except.ok (Instr.mcall _ _ _ _) = _
  rw [e3]
  have e4 : (P0 + 64 * P1 + 4096 * P2) % 64 = P0 := by omega
  have e5 : (P0 + 64 * P1 + 4096 * P2) / 64 % 64 = P1 := by omega
  have e6 : (P0 + 64 * P1 + 4096 * P2) / 4096 = P2 := by omega
  rw [e4, e5, e6]
  rfl

theorem yield (g : Guard) : Statement (.yield g) := by
  intro w
  refine ⟨fun f h => ?_, fun _ _ _ h => by simp [encodeShort] at h⟩
  simp only [encodeFields, Option.some.injEq] at h
  subst h
  simp only [Instr.wf] at w
  have h0 := w
  have k_g := guard_ok_lt h0
  have c_g := guard_lt g k_g
  refine ⟨by simp only [InRange]; omega, ?_⟩
  show Except.ok (Instr.yield (Fields.guard ⟨_, _, _, _, _, _⟩)) = _
  rw [guard_mk _ _ _ _ _ _ k_g]

theorem tape (a : Src) : Statement (.tape a) := by
  intro w
  refine ⟨fun f h => ?_, fun _ _ _ h => by simp [encodeShort] at h⟩
  simp only [encodeFields, Option.some.injEq] at h
  subst h
  simp only [Instr.wf] at w
  have h0 := w
  have k_a := ok_lt h0
  have t_a := bool_lt a.trap
  refine ⟨by simp only [InRange]; omega, ?_⟩
  show Except.ok (Instr.tape (Fields.srcA ⟨_, _, _, _, _, _⟩)) = _
  rw [srcA_mk]

theorem launch (a : Src) (d : Nat) : Statement (.launch a d) := by
  intro w
  refine ⟨fun f h => ?_, fun _ _ _ h => by simp [encodeShort] at h⟩
  simp only [encodeFields, Option.some.injEq] at h
  subst h
  simp only [Instr.wf, Bool.and_eq_true] at w
  obtain ⟨h0, h1⟩ := w
  have k_a := ok_lt h0
  have k_d := reg_lt h1
  have t_a := bool_lt a.trap
  refine ⟨by simp only [InRange]; omega, ?_⟩
  show Except.ok (Instr.launch (Fields.srcA ⟨_, _, _, _, _, _⟩) _) = _
  rw [srcA_mk]

theorem ld32 (g : Guard) (i7 : Nat) (a : Src) (d : Nat) : Statement (.ld32 g i7 a d) := by
  intro w
  refine ⟨fun f h => ?_, fun _ _ _ h => by simp [encodeShort] at h⟩
  simp only [encodeFields, Option.some.injEq] at h
  subst h
  simp only [Instr.wf, Bool.and_eq_true] at w
  obtain ⟨⟨⟨h0, h1⟩, h2⟩, h3⟩ := w
  have k_g := guard_ok_lt h0
  have c_g := guard_lt g k_g
  have k_i7 := below_lt h1
  have k_a := okPair_lt h2
  have k_d := reg_lt h3
  have t_a := bool_lt a.trap
  refine ⟨by simp only [InRange]; omega, ?_⟩
  show Except.ok (Instr.ld32 (Fields.guard ⟨_, _, _, _, _, _⟩) _ (Fields.srcA ⟨_, _, _, _, _, _⟩) _) = _
  rw [guard_mk _ _ _ _ _ _ k_g, srcA_mk]

theorem ld64 (g : Guard) (i7 : Nat) (a : Src) (d : Nat) : Statement (.ld64 g i7 a d) := by
  intro w
  refine ⟨fun f h => ?_, fun _ _ _ h => by simp [encodeShort] at h⟩
  simp only [encodeFields, Option.some.injEq] at h
  subst h
  simp only [Instr.wf, Bool.and_eq_true] at w
  obtain ⟨⟨⟨h0, h1⟩, h2⟩, h3⟩ := w
  have k_g := guard_ok_lt h0
  have c_g := guard_lt g k_g
  have k_i7 := below_lt h1
  have k_a := okPair_lt h2
  have k_d := pair_lt h3
  have t_a := bool_lt a.trap
  refine ⟨by simp only [InRange]; omega, ?_⟩
  show Except.ok (Instr.ld64 (Fields.guard ⟨_, _, _, _, _, _⟩) _ (Fields.srcA ⟨_, _, _, _, _, _⟩) _) = _
  rw [guard_mk _ _ _ _ _ _ k_g, srcA_mk]

theorem ld128 (g : Guard) (i7 : Nat) (a : Src) (d : Nat) : Statement (.ld128 g i7 a d) := by
  intro w
  refine ⟨fun f h => ?_, fun _ _ _ h => by simp [encodeShort] at h⟩
  simp only [encodeFields, Option.some.injEq] at h
  subst h
  simp only [Instr.wf, Bool.and_eq_true] at w
  obtain ⟨⟨⟨h0, h1⟩, h2⟩, h3⟩ := w
  have k_g := guard_ok_lt h0
  have c_g := guard_lt g k_g
  have k_i7 := below_lt h1
  have k_a := okPair_lt h2
  have k_d := quad_lt h3
  have t_a := bool_lt a.trap
  refine ⟨by simp only [InRange]; omega, ?_⟩
  show Except.ok (Instr.ld128 (Fields.guard ⟨_, _, _, _, _, _⟩) _ (Fields.srcA ⟨_, _, _, _, _, _⟩) _) = _
  rw [guard_mk _ _ _ _ _ _ k_g, srcA_mk]

theorem st32 (g : Guard) (i7 : Nat) (a : Src) (d : Nat) : Statement (.st32 g i7 a d) := by
  intro w
  refine ⟨fun f h => ?_, fun _ _ _ h => by simp [encodeShort] at h⟩
  simp only [encodeFields, Option.some.injEq] at h
  subst h
  simp only [Instr.wf, Bool.and_eq_true] at w
  obtain ⟨⟨⟨h0, h1⟩, h2⟩, h3⟩ := w
  have k_g := guard_ok_lt h0
  have c_g := guard_lt g k_g
  have k_i7 := below_lt h1
  have k_a := okPair_lt h2
  have k_d := reg_lt h3
  have t_a := bool_lt a.trap
  refine ⟨by simp only [InRange]; omega, ?_⟩
  show Except.ok (Instr.st32 (Fields.guard ⟨_, _, _, _, _, _⟩) _ (Fields.srcA ⟨_, _, _, _, _, _⟩) _) = _
  rw [guard_mk _ _ _ _ _ _ k_g, srcA_mk]

theorem st64 (g : Guard) (i7 : Nat) (a : Src) (d : Nat) : Statement (.st64 g i7 a d) := by
  intro w
  refine ⟨fun f h => ?_, fun _ _ _ h => by simp [encodeShort] at h⟩
  simp only [encodeFields, Option.some.injEq] at h
  subst h
  simp only [Instr.wf, Bool.and_eq_true] at w
  obtain ⟨⟨⟨h0, h1⟩, h2⟩, h3⟩ := w
  have k_g := guard_ok_lt h0
  have c_g := guard_lt g k_g
  have k_i7 := below_lt h1
  have k_a := okPair_lt h2
  have k_d := pair_lt h3
  have t_a := bool_lt a.trap
  refine ⟨by simp only [InRange]; omega, ?_⟩
  show Except.ok (Instr.st64 (Fields.guard ⟨_, _, _, _, _, _⟩) _ (Fields.srcA ⟨_, _, _, _, _, _⟩) _) = _
  rw [guard_mk _ _ _ _ _ _ k_g, srcA_mk]

theorem st128 (g : Guard) (i7 : Nat) (a : Src) (d : Nat) : Statement (.st128 g i7 a d) := by
  intro w
  refine ⟨fun f h => ?_, fun _ _ _ h => by simp [encodeShort] at h⟩
  simp only [encodeFields, Option.some.injEq] at h
  subst h
  simp only [Instr.wf, Bool.and_eq_true] at w
  obtain ⟨⟨⟨h0, h1⟩, h2⟩, h3⟩ := w
  have k_g := guard_ok_lt h0
  have c_g := guard_lt g k_g
  have k_i7 := below_lt h1
  have k_a := okPair_lt h2
  have k_d := quad_lt h3
  have t_a := bool_lt a.trap
  refine ⟨by simp only [InRange]; omega, ?_⟩
  show Except.ok (Instr.st128 (Fields.guard ⟨_, _, _, _, _, _⟩) _ (Fields.srcA ⟨_, _, _, _, _, _⟩) _) = _
  rw [guard_mk _ _ _ _ _ _ k_g, srcA_mk]

theorem ldl32 (g : Guard) (i7 : Nat) (a : Src) (d : Nat) : Statement (.ldl32 g i7 a d) := by
  intro w
  refine ⟨fun f h => ?_, fun _ _ _ h => by simp [encodeShort] at h⟩
  simp only [encodeFields, Option.some.injEq] at h
  subst h
  simp only [Instr.wf, Bool.and_eq_true] at w
  obtain ⟨⟨⟨h0, h1⟩, h2⟩, h3⟩ := w
  have k_g := guard_ok_lt h0
  have c_g := guard_lt g k_g
  have k_i7 := below_lt h1
  have k_a := ok_lt h2
  have k_d := reg_lt h3
  have t_a := bool_lt a.trap
  refine ⟨by simp only [InRange]; omega, ?_⟩
  show Except.ok (Instr.ldl32 (Fields.guard ⟨_, _, _, _, _, _⟩) _ (Fields.srcA ⟨_, _, _, _, _, _⟩) _) = _
  rw [guard_mk _ _ _ _ _ _ k_g, srcA_mk]

theorem stl32 (g : Guard) (i7 : Nat) (a : Src) (d : Nat) : Statement (.stl32 g i7 a d) := by
  intro w
  refine ⟨fun f h => ?_, fun _ _ _ h => by simp [encodeShort] at h⟩
  simp only [encodeFields, Option.some.injEq] at h
  subst h
  simp only [Instr.wf, Bool.and_eq_true] at w
  obtain ⟨⟨⟨h0, h1⟩, h2⟩, h3⟩ := w
  have k_g := guard_ok_lt h0
  have c_g := guard_lt g k_g
  have k_i7 := below_lt h1
  have k_a := ok_lt h2
  have k_d := reg_lt h3
  have t_a := bool_lt a.trap
  refine ⟨by simp only [InRange]; omega, ?_⟩
  show Except.ok (Instr.stl32 (Fields.guard ⟨_, _, _, _, _, _⟩) _ (Fields.srcA ⟨_, _, _, _, _, _⟩) _) = _
  rw [guard_mk _ _ _ _ _ _ k_g, srcA_mk]

theorem ldNarrow (z : Bool) (a : Src) (d : Nat) : Statement (.ldNarrow z a d) := by
  intro w
  refine ⟨fun f h => ?_, fun _ _ _ h => by simp [encodeShort] at h⟩
  simp only [encodeFields, Option.some.injEq] at h
  subst h
  simp only [Instr.wf, Bool.and_eq_true] at w
  obtain ⟨h0, h1⟩ := w
  have k_a := okPair_lt h0
  have k_d := reg_lt h1
  have t_a := bool_lt a.trap
  have x_z := bool_lt z
  refine ⟨by simp only [InRange]; omega, ?_⟩
  cases z <;> (show Except.ok (Instr.ldNarrow _ (Fields.srcA ⟨_, _, _, _, _, _⟩) _) = _; rw [srcA_mk])

theorem stNarrow (z : Bool) (a : Src) (d : Nat) : Statement (.stNarrow z a d) := by
  intro w
  refine ⟨fun f h => ?_, fun _ _ _ h => by simp [encodeShort] at h⟩
  simp only [encodeFields, Option.some.injEq] at h
  subst h
  simp only [Instr.wf, Bool.and_eq_true] at w
  obtain ⟨h0, h1⟩ := w
  have k_a := okPair_lt h0
  have k_d := reg_lt h1
  have t_a := bool_lt a.trap
  have x_z := bool_lt z
  refine ⟨by simp only [InRange]; omega, ?_⟩
  cases z <;> (show Except.ok (Instr.stNarrow _ (Fields.srcA ⟨_, _, _, _, _, _⟩) _) = _; rw [srcA_mk])

theorem ldlSized (z : MemSize) (a : Src) (d : Nat) : Statement (.ldlSized z a d) := by
  intro w
  refine ⟨fun f h => ?_, fun _ _ _ h => by simp [encodeShort] at h⟩
  simp only [encodeFields, Option.some.injEq] at h
  subst h
  simp only [Instr.wf, Bool.and_eq_true] at w
  obtain ⟨⟨h0, h1⟩, h2⟩ := w
  have k_a := ok_lt h1
  have k_d := regSize_lt h2
  have t_a := bool_lt a.trap
  have x_z := local_lt z
  have y_z := loc_lt z h0
  refine ⟨by simp only [InRange]; omega, ?_⟩
  cases z <;> first | exact absurd h0 (by decide) | (show Except.ok (Instr.ldlSized _ (Fields.srcA ⟨_, _, _, _, _, _⟩) _) = _; rw [srcA_mk])

theorem stlSized (z : MemSize) (a : Src) (d : Nat) : Statement (.stlSized z a d) := by
  intro w
  refine ⟨fun f h => ?_, fun _ _ _ h => by simp [encodeShort] at h⟩
  simp only [encodeFields, Option.some.injEq] at h
  subst h
  simp only [Instr.wf, Bool.and_eq_true] at w
  obtain ⟨⟨h0, h1⟩, h2⟩ := w
  have k_a := ok_lt h1
  have k_d := regSize_lt h2
  have t_a := bool_lt a.trap
  have x_z := local_lt z
  have y_z := loc_lt z h0
  refine ⟨by simp only [InRange]; omega, ?_⟩
  cases z <;> first | exact absurd h0 (by decide) | (show Except.ok (Instr.stlSized _ (Fields.srcA ⟨_, _, _, _, _, _⟩) _) = _; rw [srcA_mk])

theorem ldc (z : Bool) (a : Src) (d : Nat) : Statement (.ldc z a d) := by
  intro w
  refine ⟨fun f h => ?_, fun _ _ _ h => by simp [encodeShort] at h⟩
  simp only [encodeFields, Option.some.injEq] at h
  subst h
  simp only [Instr.wf, Bool.and_eq_true] at w
  obtain ⟨h0, h1⟩ := w
  have k_a := okPair_lt h0
  have k_d := regIf_lt h1
  have t_a := bool_lt a.trap
  have x_z := bool_lt z
  refine ⟨by simp only [InRange]; omega, ?_⟩
  cases z <;> (show Except.ok (Instr.ldc _ (Fields.srcA ⟨_, _, _, _, _, _⟩) _) = _; rw [srcA_mk])

theorem pref (a : Src) : Statement (.pref a) := by
  intro w
  refine ⟨fun f h => ?_, fun _ _ _ h => by simp [encodeShort] at h⟩
  simp only [encodeFields, Option.some.injEq] at h
  subst h
  simp only [Instr.wf] at w
  have h0 := w
  have k_a := okPair_lt h0
  have t_a := bool_lt a.trap
  refine ⟨by simp only [InRange]; omega, ?_⟩
  show Except.ok (Instr.pref (Fields.srcA ⟨_, _, _, _, _, _⟩)) = _
  rw [srcA_mk]

theorem cflush (a : Src) : Statement (.cflush a) := by
  intro w
  refine ⟨fun f h => ?_, fun _ _ _ h => by simp [encodeShort] at h⟩
  simp only [encodeFields, Option.some.injEq] at h
  subst h
  simp only [Instr.wf] at w
  have h0 := w
  have k_a := okPair_lt h0
  have t_a := bool_lt a.trap
  refine ⟨by simp only [InRange]; omega, ?_⟩
  show Except.ok (Instr.cflush (Fields.srcA ⟨_, _, _, _, _, _⟩)) = _
  rw [srcA_mk]

theorem ldOrdered (z : MemSize) (q : QF) (a : Src) (d : Nat) : Statement (.ldOrdered z q a d) := by
  intro w
  refine ⟨fun f h => ?_, fun _ _ _ h => by simp [encodeShort] at h⟩
  simp only [encodeFields, Option.some.injEq] at h
  subst h
  simp only [Instr.wf, Bool.and_eq_true] at w
  obtain ⟨⟨h0, h1⟩, h2⟩ := w
  have k_a := okPair_lt h1
  have k_d := regSize_lt h2
  have c_q := q_lt q
  have t_a := bool_lt a.trap
  have x_z := size_lt z
  refine ⟨by simp only [InRange]; omega, ?_⟩
  cases z <;> (show onlyQ ⟨_, _, _, _, q.code, _⟩ _ _ = _; rw [onlyQ_mk]; show Except.ok (Instr.ldOrdered _ q (Fields.srcA ⟨_, _, _, _, _, _⟩) _) = _; rw [srcA_mk])

theorem stOrdered (z : MemSize) (q : QF) (a : Src) (d : Nat) : Statement (.stOrdered z q a d) := by
  intro w
  refine ⟨fun f h => ?_, fun _ _ _ h => by simp [encodeShort] at h⟩
  simp only [encodeFields, Option.some.injEq] at h
  subst h
  simp only [Instr.wf, Bool.and_eq_true] at w
  obtain ⟨⟨h0, h1⟩, h2⟩ := w
  have k_a := okPair_lt h1
  have k_d := regSize_lt h2
  have c_q := q_lt q
  have t_a := bool_lt a.trap
  have x_z := size_lt z
  refine ⟨by simp only [InRange]; omega, ?_⟩
  cases z <;> (show onlyQ ⟨_, _, _, _, q.code, _⟩ _ _ = _; rw [onlyQ_mk]; show Except.ok (Instr.stOrdered _ q (Fields.srcA ⟨_, _, _, _, _, _⟩) _) = _; rw [srcA_mk])

theorem atom32 (o : AtomOp) (q : QF) (a : Src) (d : Nat) : Statement (.atom32 o q a d) := by
  intro w
  refine ⟨fun f h => ?_, fun _ _ _ h => by simp [encodeShort] at h⟩
  simp only [encodeFields, Option.some.injEq] at h
  subst h
  simp only [Instr.wf, Bool.and_eq_true] at w
  obtain ⟨⟨h0, h1⟩, h2⟩ := w
  have k_a := okPair_lt h1
  have k_d := reg_lt h2
  have c_q := q_lt q
  have t_a := bool_lt a.trap
  have x_o := atom_lt o
  refine ⟨by simp only [InRange]; omega, ?_⟩
  cases o <;> (show onlyQ ⟨_, _, _, _, q.code, _⟩ _ _ = _; rw [onlyQ_mk]; show Except.ok (Instr.atom32 _ q (Fields.srcA ⟨_, _, _, _, _, _⟩) _) = _; rw [srcA_mk])

theorem atom64 (o : AtomOp) (q : QF) (a : Src) (d : Nat) : Statement (.atom64 o q a d) := by
  intro w
  refine ⟨fun f h => ?_, fun _ _ _ h => by simp [encodeShort] at h⟩
  simp only [encodeFields, Option.some.injEq] at h
  subst h
  simp only [Instr.wf, Bool.and_eq_true] at w
  obtain ⟨⟨⟨h0, h1⟩, h2⟩, h3⟩ := w
  have k_a := okPair_lt h1
  have k_d := pair_lt h2
  have c_q := q_lt q
  have t_a := bool_lt a.trap
  have x_o := atom_lt o
  refine ⟨by simp only [InRange]; omega, ?_⟩
  cases o <;> first | exact absurd h3 (by decide) | (show onlyQ ⟨_, _, _, _, q.code, _⟩ _ _ = _; rw [onlyQ_mk]; show Except.ok (Instr.atom64 _ q (Fields.srcA ⟨_, _, _, _, _, _⟩) _) = _; rw [srcA_mk])

theorem red32 (o : AtomOp) (q : QF) (a : Src) (d : Nat) : Statement (.red32 o q a d) := by
  intro w
  refine ⟨fun f h => ?_, fun _ _ _ h => by simp [encodeShort] at h⟩
  simp only [encodeFields, Option.some.injEq] at h
  subst h
  simp only [Instr.wf, Bool.and_eq_true] at w
  obtain ⟨⟨⟨h0, h1⟩, h2⟩, h3⟩ := w
  have k_a := okPair_lt h1
  have k_d := reg_lt h2
  have c_q := q_lt q
  have t_a := bool_lt a.trap
  have x_o := atom_lt o
  refine ⟨by simp only [InRange]; omega, ?_⟩
  cases o <;> first | exact absurd h3 (by decide) | (show onlyQ ⟨_, _, _, _, q.code, _⟩ _ _ = _; rw [onlyQ_mk]; show Except.ok (Instr.red32 _ q (Fields.srcA ⟨_, _, _, _, _, _⟩) _) = _; rw [srcA_mk])

theorem red64 (o : AtomOp) (q : QF) (a : Src) (d : Nat) : Statement (.red64 o q a d) := by
  intro w
  refine ⟨fun f h => ?_, fun _ _ _ h => by simp [encodeShort] at h⟩
  simp only [encodeFields, Option.some.injEq] at h
  subst h
  simp only [Instr.wf, Bool.and_eq_true] at w
  obtain ⟨⟨⟨h0, h1⟩, h2⟩, h3⟩ := w
  have k_a := okPair_lt h1
  have k_d := pair_lt h2
  have c_q := q_lt q
  have t_a := bool_lt a.trap
  have x_o := atom_lt o
  refine ⟨by simp only [InRange]; omega, ?_⟩
  cases o <;> first | exact absurd h3 (by decide) | (show onlyQ ⟨_, _, _, _, q.code, _⟩ _ _ = _; rw [onlyQ_mk]; show Except.ok (Instr.red64 _ q (Fields.srcA ⟨_, _, _, _, _, _⟩) _) = _; rw [srcA_mk])

theorem acas32 (q : QF) (a : Src) (d : Nat) : Statement (.acas32 q a d) := by
  intro w
  refine ⟨fun f h => ?_, fun _ _ _ h => by simp [encodeShort] at h⟩
  simp only [encodeFields, Option.some.injEq] at h
  subst h
  simp only [Instr.wf, Bool.and_eq_true] at w
  obtain ⟨⟨h0, h1⟩, h2⟩ := w
  have k_a := okPair_lt h1
  have k_d := pair_lt h2
  have c_q := q_lt q
  have t_a := bool_lt a.trap
  refine ⟨by simp only [InRange]; omega, ?_⟩
  show onlyQ ⟨_, _, _, _, q.code, _⟩ _ _ = _
  rw [onlyQ_mk]
  show Except.ok (Instr.acas32 q (Fields.srcA ⟨_, _, _, _, _, _⟩) _) = _
  rw [srcA_mk]

theorem acas64 (q : QF) (a : Src) (d : Nat) : Statement (.acas64 q a d) := by
  intro w
  refine ⟨fun f h => ?_, fun _ _ _ h => by simp [encodeShort] at h⟩
  simp only [encodeFields, Option.some.injEq] at h
  subst h
  simp only [Instr.wf, Bool.and_eq_true] at w
  obtain ⟨⟨h0, h1⟩, h2⟩ := w
  have k_a := okPair_lt h1
  have k_d := quad_lt h2
  have c_q := q_lt q
  have t_a := bool_lt a.trap
  refine ⟨by simp only [InRange]; omega, ?_⟩
  show onlyQ ⟨_, _, _, _, q.code, _⟩ _ _ = _
  rw [onlyQ_mk]
  show Except.ok (Instr.acas64 q (Fields.srcA ⟨_, _, _, _, _, _⟩) _) = _
  rw [srcA_mk]

theorem fence (q : QF) : Statement (.fence q) := by
  intro w
  refine ⟨fun f h => ?_, fun _ _ _ h => by simp [encodeShort] at h⟩
  simp only [encodeFields, Option.some.injEq] at h
  subst h
  simp only [Instr.wf] at w
  have h0 := w
  have c_q := q_lt q
  refine ⟨by simp only [InRange]; omega, ?_⟩
  exact onlyQ_mk _ _ _ _ _ q _ _

theorem commitBlk : Statement (.commitBlk) := by
  intro w
  refine ⟨fun f h => ?_, fun _ _ _ h => by simp [encodeShort] at h⟩
  simp only [encodeFields, Option.some.injEq] at h
  subst h
  refine ⟨by simp only [InRange]; omega, ?_⟩
  rfl

theorem commitGrid : Statement (.commitGrid) := by
  intro w
  refine ⟨fun f h => ?_, fun _ _ _ h => by simp [encodeShort] at h⟩
  simp only [encodeFields, Option.some.injEq] at h
  subst h
  refine ⟨by simp only [InRange]; omega, ?_⟩
  rfl

theorem commitPod : Statement (.commitPod) := by
  intro w
  refine ⟨fun f h => ?_, fun _ _ _ h => by simp [encodeShort] at h⟩
  simp only [encodeFields, Option.some.injEq] at h
  subst h
  refine ⟨by simp only [InRange]; omega, ?_⟩
  rfl

theorem dstat (d : Nat) : Statement (.dstat d) := by
  intro w
  refine ⟨fun f h => ?_, fun _ _ _ h => by simp [encodeShort] at h⟩
  simp only [encodeFields, Option.some.injEq] at h
  subst h
  simp only [Instr.wf] at w
  have h0 := w
  have k_d := reg_lt h0
  refine ⟨by simp only [InRange]; omega, ?_⟩
  rfl

theorem copy (a : Src) (h : Nat) : Statement (.copy a h) := by
  intro w
  refine ⟨fun f h => ?_, fun _ _ _ h => by simp [encodeShort] at h⟩
  simp only [encodeFields, Option.some.injEq] at h
  subst h
  simp only [Instr.wf, Bool.and_eq_true] at w
  obtain ⟨h0, h1⟩ := w
  have k_a := ok_lt h0
  have k_h := below_lt h1
  have t_a := bool_lt a.trap
  refine ⟨by simp only [InRange]; omega, ?_⟩
  show Except.ok (Instr.copy (Fields.srcA ⟨_, _, _, _, _, _⟩) _) = _
  rw [srcA_mk]

theorem offl (a : Src) (h : Nat) : Statement (.offl a h) := by
  intro w
  refine ⟨fun f h => ?_, fun _ _ _ h => by simp [encodeShort] at h⟩
  simp only [encodeFields, Option.some.injEq] at h
  subst h
  simp only [Instr.wf, Bool.and_eq_true] at w
  obtain ⟨h0, h1⟩ := w
  have k_a := ok_lt h0
  have k_h := below_lt h1
  have t_a := bool_lt a.trap
  refine ⟨by simp only [InRange]; omega, ?_⟩
  show Except.ok (Instr.offl (Fields.srcA ⟨_, _, _, _, _, _⟩) _) = _
  rw [srcA_mk]

theorem recallCopy (a : Src) (h : Nat) : Statement (.recallCopy a h) := by
  intro w
  refine ⟨fun f h => ?_, fun _ _ _ h => by simp [encodeShort] at h⟩
  simp only [encodeFields, Option.some.injEq] at h
  subst h
  simp only [Instr.wf, Bool.and_eq_true] at w
  obtain ⟨h0, h1⟩ := w
  have k_a := ok_lt h0
  have k_h := below_lt h1
  have t_a := bool_lt a.trap
  refine ⟨by simp only [InRange]; omega, ?_⟩
  show Except.ok (Instr.recallCopy (Fields.srcA ⟨_, _, _, _, _, _⟩) _) = _
  rw [srcA_mk]

theorem decode (a : Src) (h : Nat) : Statement (.decode a h) := by
  intro w
  refine ⟨fun f h => ?_, fun _ _ _ h => by simp [encodeShort] at h⟩
  simp only [encodeFields, Option.some.injEq] at h
  subst h
  simp only [Instr.wf, Bool.and_eq_true] at w
  obtain ⟨h0, h1⟩ := w
  have k_a := ok_lt h0
  have k_h := below_lt h1
  have t_a := bool_lt a.trap
  refine ⟨by simp only [InRange]; omega, ?_⟩
  show Except.ok (Instr.decode (Fields.srcA ⟨_, _, _, _, _, _⟩) _) = _
  rw [srcA_mk]

theorem bfree (h : Nat) : Statement (.bfree h) := by
  intro w
  refine ⟨fun f h => ?_, fun _ _ _ h => by simp [encodeShort] at h⟩
  simp only [encodeFields, Option.some.injEq] at h
  subst h
  simp only [Instr.wf] at w
  have h0 := w
  have k_h := below_lt h0
  refine ⟨by simp only [InRange]; omega, ?_⟩
  rfl

theorem btest (st : HState) (h : Nat) (pd : Nat) : Statement (.btest st h pd) := by
  intro w
  refine ⟨fun f h => ?_, fun _ _ _ h => by simp [encodeShort] at h⟩
  simp only [encodeFields, Option.some.injEq] at h
  subst h
  simp only [Instr.wf, Bool.and_eq_true] at w
  obtain ⟨⟨h0, h1⟩, h2⟩ := w
  have k_h := below_lt h1
  have k_pd := below_lt h2
  have x_st := hstate_lt st
  refine ⟨by simp only [InRange]; omega, ?_⟩
  cases st <;> (rfl)

theorem bwaitFree (h : Nat) : Statement (.bwaitFree h) := by
  intro w
  refine ⟨fun f h => ?_, fun _ _ _ h => by simp [encodeShort] at h⟩
  simp only [encodeFields, Option.some.injEq] at h
  subst h
  simp only [Instr.wf] at w
  have h0 := w
  have k_h := below_lt h0
  refine ⟨by simp only [InRange]; omega, ?_⟩
  rfl

theorem bwaitFull (h : Nat) : Statement (.bwaitFull h) := by
  intro w
  refine ⟨fun f h => ?_, fun _ _ _ h => by simp [encodeShort] at h⟩
  simp only [encodeFields, Option.some.injEq] at h
  subst h
  simp only [Instr.wf] at w
  have h0 := w
  have k_h := below_lt h0
  refine ⟨by simp only [InRange]; omega, ?_⟩
  rfl

theorem mma (a : Src) (h : Nat) : Statement (.mma a h) := by
  intro w
  refine ⟨fun f h => ?_, fun _ _ _ h => by simp [encodeShort] at h⟩
  simp only [encodeFields, Option.some.injEq] at h
  subst h
  simp only [Instr.wf, Bool.and_eq_true] at w
  obtain ⟨h0, h1⟩ := w
  have k_a := ok_lt h0
  have k_h := below_lt h1
  have t_a := bool_lt a.trap
  refine ⟨by simp only [InRange]; omega, ?_⟩
  show Except.ok (Instr.mma (Fields.srcA ⟨_, _, _, _, _, _⟩) _) = _
  rw [srcA_mk]

theorem mmaSig (a : Src) (h : Nat) : Statement (.mmaSig a h) := by
  intro w
  refine ⟨fun f h => ?_, fun _ _ _ h => by simp [encodeShort] at h⟩
  simp only [encodeFields, Option.some.injEq] at h
  subst h
  simp only [Instr.wf, Bool.and_eq_true] at w
  obtain ⟨h0, h1⟩ := w
  have k_a := ok_lt h0
  have k_h := below_lt h1
  have t_a := bool_lt a.trap
  refine ⟨by simp only [InRange]; omega, ?_⟩
  show Except.ok (Instr.mmaSig (Fields.srcA ⟨_, _, _, _, _, _⟩) _) = _
  rw [srcA_mk]

theorem aload (a : Src) (sl : Nat) : Statement (.aload a sl) := by
  intro w
  refine ⟨fun f h => ?_, fun _ _ _ h => by simp [encodeShort] at h⟩
  simp only [encodeFields, Option.some.injEq] at h
  subst h
  simp only [Instr.wf, Bool.and_eq_true] at w
  obtain ⟨h0, h1⟩ := w
  have k_a := ok_lt h0
  have k_sl := below_lt h1
  have t_a := bool_lt a.trap
  refine ⟨by simp only [InRange]; omega, ?_⟩
  show Except.ok (Instr.aload (Fields.srcA ⟨_, _, _, _, _, _⟩) _) = _
  rw [srcA_mk]

theorem acvt (a : Src) (sl : Nat) : Statement (.acvt a sl) := by
  intro w
  refine ⟨fun f h => ?_, fun _ _ _ h => by simp [encodeShort] at h⟩
  simp only [encodeFields, Option.some.injEq] at h
  subst h
  simp only [Instr.wf, Bool.and_eq_true] at w
  obtain ⟨h0, h1⟩ := w
  have k_a := ok_lt h0
  have k_sl := below_lt h1
  have t_a := bool_lt a.trap
  refine ⟨by simp only [InRange]; omega, ?_⟩
  show Except.ok (Instr.acvt (Fields.srcA ⟨_, _, _, _, _, _⟩) _) = _
  rw [srcA_mk]

theorem aclr (sl : Nat) : Statement (.aclr sl) := by
  intro w
  refine ⟨fun f h => ?_, fun _ _ _ h => by simp [encodeShort] at h⟩
  simp only [encodeFields, Option.some.injEq] at h
  subst h
  simp only [Instr.wf] at w
  have h0 := w
  have k_sl := below_lt h0
  refine ⟨by simp only [InRange]; omega, ?_⟩
  rfl

theorem qcvt (a : Src) (fs : Nat) : Statement (.qcvt a fs) := by
  intro w
  refine ⟨fun f h => ?_, fun _ _ _ h => by simp [encodeShort] at h⟩
  simp only [encodeFields, Option.some.injEq] at h
  subst h
  simp only [Instr.wf, Bool.and_eq_true] at w
  obtain ⟨h0, h1⟩ := w
  have k_a := ok_lt h0
  have k_fs := below_lt h1
  have t_a := bool_lt a.trap
  refine ⟨by simp only [InRange]; omega, ?_⟩
  show Except.ok (Instr.qcvt (Fields.srcA ⟨_, _, _, _, _, _⟩) _) = _
  rw [srcA_mk]

theorem scbs (b : Src) (a : Src) (k : Nat) : Statement (.scbs b a k) := by
  intro w
  refine ⟨fun f h => ?_, fun _ _ _ h => by simp [encodeShort] at h⟩
  simp only [encodeFields, Option.some.injEq] at h
  subst h
  simp only [Instr.wf, Bool.and_eq_true] at w
  obtain ⟨⟨h0, h1⟩, h2⟩ := w
  have k_b := ok_lt h0
  have k_a := okPair_lt h1
  have k_k := below_lt h2
  have t_b := bool_lt b.trap
  have c_b := code_lt b k_b
  have t_a := bool_lt a.trap
  refine ⟨by simp only [InRange]; omega, ?_⟩
  show Except.ok (Instr.scbs (Fields.srcB ⟨_, _, _, _, _, _⟩) (Fields.srcA ⟨_, _, _, _, _, _⟩) _) = _
  rw [srcB_mk _ _ _ _ _ _ k_b, srcA_mk]

theorem sig (a : Src) : Statement (.sig a) := by
  intro w
  refine ⟨fun f h => ?_, fun _ _ _ h => by simp [encodeShort] at h⟩
  simp only [encodeFields, Option.some.injEq] at h
  subst h
  simp only [Instr.wf] at w
  have h0 := w
  have k_a := ok_lt h0
  have t_a := bool_lt a.trap
  refine ⟨by simp only [InRange]; omega, ?_⟩
  show Except.ok (Instr.sig (Fields.srcA ⟨_, _, _, _, _, _⟩)) = _
  rw [srcA_mk]

theorem sbwd (a : Src) : Statement (.sbwd a) := by
  intro w
  refine ⟨fun f h => ?_, fun _ _ _ h => by simp [encodeShort] at h⟩
  simp only [encodeFields, Option.some.injEq] at h
  subst h
  simp only [Instr.wf] at w
  have h0 := w
  have k_a := ok_lt h0
  have t_a := bool_lt a.trap
  refine ⟨by simp only [InRange]; omega, ?_⟩
  show Except.ok (Instr.sbwd (Fields.srcA ⟨_, _, _, _, _, _⟩)) = _
  rw [srcA_mk]

theorem rtab (a : Src) : Statement (.rtab a) := by
  intro w
  refine ⟨fun f h => ?_, fun _ _ _ h => by simp [encodeShort] at h⟩
  simp only [encodeFields, Option.some.injEq] at h
  subst h
  simp only [Instr.wf] at w
  have h0 := w
  have k_a := ok_lt h0
  have t_a := bool_lt a.trap
  refine ⟨by simp only [InRange]; omega, ?_⟩
  show Except.ok (Instr.rtab (Fields.srcA ⟨_, _, _, _, _, _⟩)) = _
  rw [srcA_mk]

theorem rule (a : Src) : Statement (.rule a) := by
  intro w
  refine ⟨fun f h => ?_, fun _ _ _ h => by simp [encodeShort] at h⟩
  simp only [encodeFields, Option.some.injEq] at h
  subst h
  simp only [Instr.wf] at w
  have h0 := w
  have k_a := ok_lt h0
  have t_a := bool_lt a.trap
  refine ⟨by simp only [InRange]; omega, ?_⟩
  show Except.ok (Instr.rule (Fields.srcA ⟨_, _, _, _, _, _⟩)) = _
  rw [srcA_mk]

theorem rgen (a : Src) : Statement (.rgen a) := by
  intro w
  refine ⟨fun f h => ?_, fun _ _ _ h => by simp [encodeShort] at h⟩
  simp only [encodeFields, Option.some.injEq] at h
  subst h
  simp only [Instr.wf] at w
  have h0 := w
  have k_a := ok_lt h0
  have t_a := bool_lt a.trap
  refine ⟨by simp only [InRange]; omega, ?_⟩
  show Except.ok (Instr.rgen (Fields.srcA ⟨_, _, _, _, _, _⟩)) = _
  rw [srcA_mk]

theorem synbar (hc : Nat) : Statement (.synbar hc) := by
  intro w
  refine ⟨fun f h => ?_, fun _ _ _ h => by simp [encodeShort] at h⟩
  simp only [encodeFields, Option.some.injEq] at h
  subst h
  simp only [Instr.wf] at w
  have h0 := w
  have k_hc := below_lt h0
  refine ⟨by simp only [InRange]; omega, ?_⟩
  rfl

theorem synarv (hc : Nat) : Statement (.synarv hc) := by
  intro w
  refine ⟨fun f h => ?_, fun _ _ _ h => by simp [encodeShort] at h⟩
  simp only [encodeFields, Option.some.injEq] at h
  subst h
  simp only [Instr.wf] at w
  have h0 := w
  have k_hc := below_lt h0
  refine ⟨by simp only [InRange]; omega, ?_⟩
  rfl

theorem synput (a : Src) (hw : Nat) : Statement (.synput a hw) := by
  intro w
  refine ⟨fun f h => ?_, fun _ _ _ h => by simp [encodeShort] at h⟩
  simp only [encodeFields, Option.some.injEq] at h
  subst h
  simp only [Instr.wf, Bool.and_eq_true] at w
  obtain ⟨h0, h1⟩ := w
  have k_a := ok_lt h0
  have k_hw := below_lt h1
  have t_a := bool_lt a.trap
  refine ⟨by simp only [InRange]; omega, ?_⟩
  show Except.ok (Instr.synput (Fields.srcA ⟨_, _, _, _, _, _⟩) _) = _
  rw [srcA_mk]

theorem synget (hw : Nat) (d : Nat) : Statement (.synget hw d) := by
  intro w
  refine ⟨fun f h => ?_, fun _ _ _ h => by simp [encodeShort] at h⟩
  simp only [encodeFields, Option.some.injEq] at h
  subst h
  simp only [Instr.wf, Bool.and_eq_true] at w
  obtain ⟨h0, h1⟩ := w
  have k_hw := below_lt h0
  have k_d := reg_lt h1
  refine ⟨by simp only [InRange]; omega, ?_⟩
  rfl

theorem rand (g : Guard) (d : Nat) : Statement (.rand g d) := by
  intro w
  refine ⟨fun f h => ?_, fun _ _ _ h => by simp [encodeShort] at h⟩
  simp only [encodeFields, Option.some.injEq] at h
  subst h
  simp only [Instr.wf, Bool.and_eq_true] at w
  obtain ⟨h0, h1⟩ := w
  have k_g := guard_ok_lt h0
  have c_g := guard_lt g k_g
  have k_d := reg_lt h1
  refine ⟨by simp only [InRange]; omega, ?_⟩
  show Except.ok (Instr.rand (Fields.guard ⟨_, _, _, _, _, _⟩) _) = _
  rw [guard_mk _ _ _ _ _ _ k_g]

theorem rdsp (g : Guard) (sp : SpReg) (d : Nat) : Statement (.rdsp g sp d) := by
  intro w
  refine ⟨fun f h => ?_, fun _ _ _ h => by simp [encodeShort] at h⟩
  simp only [encodeFields, Option.some.injEq] at h
  subst h
  simp only [Instr.wf, Bool.and_eq_true] at w
  obtain ⟨h0, h1⟩ := w
  have k_g := guard_ok_lt h0
  have c_g := guard_lt g k_g
  have k_d := regIf_lt h1
  have x_sp := sp_lt sp
  refine ⟨by simp only [InRange]; omega, ?_⟩
  cases sp <;> (show Except.ok (Instr.rdsp (Fields.guard ⟨_, _, _, _, _, _⟩) _ _) = _; rw [guard_mk _ _ _ _ _ _ k_g])

theorem widf (g : Guard) (n : Nat) (d : Nat) : Statement (.widf g n d) := by
  intro w
  refine ⟨fun f h => ?_, fun _ _ _ h => by simp [encodeShort] at h⟩
  simp only [encodeFields, Option.some.injEq] at h
  subst h
  simp only [Instr.wf, Bool.and_eq_true] at w
  obtain ⟨⟨h0, h1⟩, h2⟩ := w
  have k_g := guard_ok_lt h0
  have c_g := guard_lt g k_g
  have k_n := below_lt h1
  have k_d := reg_lt h2
  refine ⟨by simp only [InRange]; omega, ?_⟩
  show Except.ok (Instr.widf (Fields.guard ⟨_, _, _, _, _, _⟩) _ _) = _
  rw [guard_mk _ _ _ _ _ _ k_g]

theorem sysc (g : Guard) (i7 : Nat) (a : Src) (d : Nat) : Statement (.sysc g i7 a d) := by
  intro w
  refine ⟨fun f h => ?_, fun _ _ _ h => by simp [encodeShort] at h⟩
  simp only [encodeFields, Option.some.injEq] at h
  subst h
  simp only [Instr.wf, Bool.and_eq_true] at w
  obtain ⟨⟨⟨h0, h1⟩, h2⟩, h3⟩ := w
  have k_g := guard_ok_lt h0
  have c_g := guard_lt g k_g
  have k_i7 := below_lt h1
  have k_a := okPair_lt h2
  have k_d := pair_lt h3
  have t_a := bool_lt a.trap
  refine ⟨by simp only [InRange]; omega, ?_⟩
  show Except.ok (Instr.sysc (Fields.guard ⟨_, _, _, _, _, _⟩) _ (Fields.srcA ⟨_, _, _, _, _, _⟩) _) = _
  rw [guard_mk _ _ _ _ _ _ k_g, srcA_mk]

theorem tret : Statement (.tret) := by
  intro w
  refine ⟨fun f h => ?_, fun _ _ _ h => by simp [encodeShort] at h⟩
  simp only [encodeFields, Option.some.injEq] at h
  subst h
  refine ⟨by simp only [InRange]; omega, ?_⟩
  rfl

theorem bkpt (g : Guard) (i7 : Nat) : Statement (.bkpt g i7) := by
  intro w
  refine ⟨fun f h => ?_, fun _ _ _ h => by simp [encodeShort] at h⟩
  simp only [encodeFields, Option.some.injEq] at h
  subst h
  simp only [Instr.wf, Bool.and_eq_true] at w
  obtain ⟨h0, h1⟩ := w
  have k_g := guard_ok_lt h0
  have c_g := guard_lt g k_g
  have k_i7 := below_lt h1
  refine ⟨by simp only [InRange]; omega, ?_⟩
  show Except.ok (Instr.bkpt (Fields.guard ⟨_, _, _, _, _, _⟩) _) = _
  rw [guard_mk _ _ _ _ _ _ k_g]

theorem csrr (d : Nat) (i18 : Nat) : Statement (.csrr d i18) := by
  intro w
  refine ⟨fun f h => ?_, fun _ _ _ h => by simp [encodeShort] at h⟩
  simp only [encodeFields, Option.some.injEq] at h
  subst h
  simp only [Instr.wf, Bool.and_eq_true] at w
  obtain ⟨h0, h1⟩ := w
  have k_d := reg_lt h0
  have k_i18 := below_lt h1
  refine ⟨imm_range _ _ _ (by decide) (by omega) k_i18, ?_⟩
  have e3 := imm_mk 123 d i18
  show Except.ok _ = _
  rw [e3]
  rfl

theorem csrw (d : Nat) (i18 : Nat) : Statement (.csrw d i18) := by
  intro w
  refine ⟨fun f h => ?_, fun _ _ _ h => by simp [encodeShort] at h⟩
  simp only [encodeFields, Option.some.injEq] at h
  subst h
  simp only [Instr.wf, Bool.and_eq_true] at w
  obtain ⟨h0, h1⟩ := w
  have k_d := reg_lt h0
  have k_i18 := below_lt h1
  refine ⟨imm_range _ _ _ (by decide) (by omega) k_i18, ?_⟩
  have e3 := imm_mk 124 d i18
  show Except.ok _ = _
  rw [e3]
  rfl

theorem tlbinvAll : Statement (.tlbinvAll) := by
  intro w
  refine ⟨fun f h => ?_, fun _ _ _ h => by simp [encodeShort] at h⟩
  simp only [encodeFields, Option.some.injEq] at h
  subst h
  refine ⟨by simp only [InRange]; omega, ?_⟩
  rfl

theorem tlbinvPage (a : Src) : Statement (.tlbinvPage a) := by
  intro w
  refine ⟨fun f h => ?_, fun _ _ _ h => by simp [encodeShort] at h⟩
  simp only [encodeFields, Option.some.injEq] at h
  subst h
  simp only [Instr.wf] at w
  have h0 := w
  have k_a := okPair_lt h0
  have t_a := bool_lt a.trap
  refine ⟨by simp only [InRange]; omega, ?_⟩
  show Except.ok (Instr.tlbinvPage (Fields.srcA ⟨_, _, _, _, _, _⟩)) = _
  rw [srcA_mk]

theorem mcload (a : Src) (m : Nat) : Statement (.mcload a m) := by
  intro w
  refine ⟨fun f h => ?_, fun _ _ _ h => by simp [encodeShort] at h⟩
  simp only [encodeFields, Option.some.injEq] at h
  subst h
  simp only [Instr.wf, Bool.and_eq_true] at w
  obtain ⟨h0, h1⟩ := w
  have k_a := ok_lt h0
  have k_m := below_lt h1
  have t_a := bool_lt a.trap
  refine ⟨by simp only [InRange]; omega, ?_⟩
  show Except.ok (Instr.mcload (Fields.srcA ⟨_, _, _, _, _, _⟩) _) = _
  rw [srcA_mk]

theorem producerComplete (core : Nat) (beam : Nat) (id : Nat) : Statement (.producerComplete core beam id) := by
  exact event_case rfl rfl

theorem pageWalkComplete (core : Nat) (id : Nat) : Statement (.pageWalkComplete core id) := by
  exact event_case rfl rfl

theorem yieldExpiry (core : Nat) (beam : Nat) : Statement (.yieldExpiry core beam) := by
  exact event_case rfl rfl

theorem dependencePoll : Statement (.dependencePoll) := by
  exact event_case rfl rfl

theorem deadlineMiss (q : Nat) : Statement (.deadlineMiss q) := by
  exact event_case rfl rfl

theorem packetSelect (part : Nat) (slot : Nat) : Statement (.packetSelect part slot) := by
  exact event_case rfl rfl

theorem packetAccept (part : Nat) (slot : Nat) : Statement (.packetAccept part slot) := by
  exact event_case rfl rfl

theorem rewindPop (q : Nat) : Statement (.rewindPop q) := by
  exact event_case rfl rfl

theorem gangDeal (part : Nat) : Statement (.gangDeal part) := by
  exact event_case rfl rfl

theorem gangStart (cluster : Nat) : Statement (.gangStart cluster) := by
  exact event_case rfl rfl

theorem blockThreadStart (gang : Nat) : Statement (.blockThreadStart gang) := by
  exact event_case rfl rfl

theorem stealRequest (cluster : Nat) : Statement (.stealRequest cluster) := by
  exact event_case rfl rfl

theorem stealReply (thief : Nat) (victims : List Nat) : Statement (.stealReply thief victims) := by
  exact event_case rfl rfl

theorem stealShipmentArrival (thief : Nat) (gangs : List Nat) : Statement (.stealShipmentArrival thief gangs) := by
  exact event_case rfl rfl

theorem stealBackoffExpiry (cluster : Nat) : Statement (.stealBackoffExpiry cluster) := by
  exact event_case rfl rfl

theorem gangRetire (gang : Nat) : Statement (.gangRetire gang) := by
  exact event_case rfl rfl

theorem gridEnd (grid : Nat) : Statement (.gridEnd grid) := by
  exact event_case rfl rfl

theorem completionWordWrite (grid : Nat) : Statement (.completionWordWrite grid) := by
  exact event_case rfl rfl

theorem logDrain (core : Nat) : Statement (.logDrain core) := by
  exact event_case rfl rfl

theorem binAgeExpiry (sector : Nat) (bin : Nat) : Statement (.binAgeExpiry sector bin) := by
  exact event_case rfl rfl

theorem binRingArrival (sector : Nat) (items : List BinItem) : Statement (.binRingArrival sector items) := by
  exact event_case rfl rfl

theorem binPacketArrival (ch : Nat) (items : List BinItem) : Statement (.binPacketArrival ch items) := by
  exact event_case rfl rfl

theorem applyMarkerArrival (ch : Nat) (commit : Nat × Option Nat) : Statement (.applyMarkerArrival ch commit) := by
  exact event_case rfl rfl

theorem foldRefreshYield (ch : Nat) : Statement (.foldRefreshYield ch) := by
  exact event_case rfl rfl

theorem foldReadYield (ch : Nat) : Statement (.foldReadYield ch) := by
  exact event_case rfl rfl

theorem foldComplete (ch : Nat) : Statement (.foldComplete ch) := by
  exact event_case rfl rfl

theorem fullStateNotice (core : Nat) (ch : Nat) (full : Bool) : Statement (.fullStateNotice core ch full) := by
  exact event_case rfl rfl

theorem commitComplete (commit : Nat) : Statement (.commitComplete commit) := by
  exact event_case rfl rfl

theorem hgBarrierRelease (gang : Nat) (ch : Nat) (phase : Nat) : Statement (.hgBarrierRelease gang ch phase) := by
  exact event_case rfl rfl

theorem hgBroadcastDelivery (core : Nat) (w : Nat) (v : Word) : Statement (.hgBroadcastDelivery core w v) := by
  exact event_case rfl rfl

theorem hgCommitMarkerDelivery (commit : Nat) : Statement (.hgCommitMarkerDelivery commit) := by
  exact event_case rfl rfl

theorem copyComplete (core : Nat) (h : Nat) (inst : Nat) : Statement (.copyComplete core h inst) := by
  exact event_case rfl rfl

theorem decodeStart (quarter : Nat) : Statement (.decodeStart quarter) := by
  exact event_case rfl rfl

theorem decodeComplete (quarter : Nat) : Statement (.decodeComplete quarter) := by
  exact event_case rfl rfl

theorem matrixQueueDispatch (core : Nat) : Statement (.matrixQueueDispatch core) := by
  exact event_case rfl rfl

theorem mmaOperationComplete (core : Nat) : Statement (.mmaOperationComplete core) := by
  exact event_case rfl rfl

theorem matrixSyncOpComplete (core : Nat) : Statement (.matrixSyncOpComplete core) := by
  exact event_case rfl rfl

theorem ruleQueueDispatch (core : Nat) : Statement (.ruleQueueDispatch core) := by
  exact event_case rfl rfl

theorem ruleGeneration (core : Nat) : Statement (.ruleGeneration core) := by
  exact event_case rfl rfl

theorem ruleOpComplete (core : Nat) : Statement (.ruleOpComplete core) := by
  exact event_case rfl rfl

theorem hgPreemptRequestDelivery (gangs : List Nat) : Statement (.hgPreemptRequestDelivery gangs) := by
  exact event_case rfl rfl

theorem drainWatchdogExpiry (block : Nat) : Statement (.drainWatchdogExpiry block) := by
  exact event_case rfl rfl

theorem pgraceExpiry (core : Nat) (beam : Nat) : Statement (.pgraceExpiry core beam) := by
  exact event_case rfl rfl

theorem savePoolAlloc (gang : Nat) : Statement (.savePoolAlloc gang) := by
  exact event_case rfl rfl

theorem saveWriteComplete (block : Nat) : Statement (.saveWriteComplete block) := by
  exact event_case rfl rfl

theorem gangPreempted (gang : Nat) : Statement (.gangPreempted gang) := by
  exact event_case rfl rfl

theorem preemptOverdue (gang : Nat) : Statement (.preemptOverdue gang) := by
  exact event_case rfl rfl

theorem resumeRestoreComplete (gang : Nat) : Statement (.resumeRestoreComplete gang) := by
  exact event_case rfl rfl

theorem quiesceAck (q : Nat) : Statement (.quiesceAck q) := by
  exact event_case rfl rfl

theorem hgRebindComplete : Statement (.hgRebindComplete) := by
  exact event_case rfl rfl

theorem abort (grid : Nat) : Statement (.abort grid) := by
  exact event_case rfl rfl

theorem illegalInstruction (e : FetchError) : Statement (.illegalInstruction e) := by
  exact event_case rfl rfl

theorem writePerformed (core : Nat) (beam : Nat) (id : Nat) : Statement (.writePerformed core beam id) := by
  exact event_case rfl rfl

theorem tlbinvComplete (core : Nat) (beam : Nat) : Statement (.tlbinvComplete core beam) := by
  exact event_case rfl rfl

theorem podMarkerArrival (route : Nat × Nat) (tag : Nat) : Statement (.podMarkerArrival route tag) := by
  exact event_case rfl rfl

theorem nvmeCompletion (qp : Nat) (entry : Nat × Nat) (status : Nat) : Statement (.nvmeCompletion qp entry status) := by
  exact event_case rfl rfl

theorem podAccessArrival (dev : Nat) (off : Nat) (access : PodAccess) : Statement (.podAccessArrival dev off access) := by
  exact event_case rfl rfl

theorem lqtlWrite (part : Nat) (q : Nat) (v : Word) : Statement (.lqtlWrite part q v) := by
  exact event_case rfl rfl

theorem lqEnable (part : Nat) (q : Nat) : Statement (.lqEnable part q) := by
  exact event_case rfl rfl

theorem lqDisable (part : Nat) (q : Nat) : Statement (.lqDisable part q) := by
  exact event_case rfl rfl

theorem hmaskWrite (n : Nat) (v : Word) : Statement (.hmaskWrite n v) := by
  exact event_case rfl rfl

theorem defspillWrite (part : Nat) (v : Word) : Statement (.defspillWrite part v) := by
  exact event_case rfl rfl

theorem milvWrite (part : Nat) (q : Nat) (v : Word) : Statement (.milvWrite part q v) := by
  exact event_case rfl rfl

theorem partcfgWrite (v : Word) : Statement (.partcfgWrite v) := by
  exact event_case rfl rfl

theorem qreqWrite (v : Word) : Statement (.qreqWrite v) := by
  exact event_case rfl rfl

theorem hgrbWrite : Statement (.hgrbWrite) := by
  exact event_case rfl rfl

theorem nbndWrite (v : Word) : Statement (.nbndWrite v) := by
  exact event_case rfl rfl

theorem qctlWrite (v : Word) : Statement (.qctlWrite v) := by
  exact event_case rfl rfl

theorem dtrapClear (part : Nat) : Statement (.dtrapClear part) := by
  exact event_case rfl rfl

theorem dfltClear (part : Nat) : Statement (.dfltClear part) := by
  exact event_case rfl rfl

theorem fqEnable (qp : Nat) : Statement (.fqEnable qp) := by
  exact event_case rfl rfl

theorem fqDisable (qp : Nat) : Statement (.fqDisable qp) := by
  exact event_case rfl rfl

theorem dbghaltWrite (part : Nat) (n : Nat) (v : Word) : Statement (.dbghaltWrite part n v) := by
  exact event_case rfl rfl

theorem controlRegisterWrite (vf : Option Nat) (place : Nat × Nat) (v : Option Word) : Statement (.controlRegisterWrite vf place v) := by
  exact event_case rfl rfl

theorem hostMemoryWrite (part : Nat) (pa : Nat) (data : List Byte) : Statement (.hostMemoryWrite part pa data) := by
  exact event_case rfl rfl

theorem hostMemoryRead (part : Nat) (pa : Nat) (len : Nat) : Statement (.hostMemoryRead part pa len) := by
  exact event_case rfl rfl

theorem hostAtomic (part : Nat) (op : PcieAtomic) (wide : Bool) (pa : Nat) (v : DWord) (cmp : DWord) : Statement (.hostAtomic part op wide pa v cmp) := by
  exact event_case rfl rfl

theorem bootMemoryAccess (write : Bool) (off : Nat) (data : List Byte) : Statement (.bootMemoryAccess write off data) := by
  exact event_case rfl rfl

theorem pcieReset : Statement (.pcieReset) := by
  exact event_case rfl rfl

theorem pfFunctionLevelReset : Statement (.pfFunctionLevelReset) := by
  exact event_case rfl rfl

theorem vfFunctionLevelReset (part : Nat) : Statement (.vfFunctionLevelReset part) := by
  exact event_case rfl rfl

theorem podAcknowledgementArrival (route : Nat × Nat) (commit : Nat × Option (Nat × Nat)) : Statement (.podAcknowledgementArrival route commit) := by
  exact event_case rfl rfl

theorem podDeviceUnreachable (dev : Nat) (down : Bool) : Statement (.podDeviceUnreachable dev down) := by
  exact event_case rfl rfl

end Sys2Proof.Laws.Encode
end

