-- ==== Sys2Proof/Laws/State.lean ====
section
/-!
SUPPORT. Updates of the state, field by field: each named update changes its own field alone, and what that field then reads.
-/
namespace Sys2Proof.Machine

open Sys2Proof

set_option Elab.async false

/-! ## setBeam -/

@[simp] theorem setBeam_clk (s : State) (k : Nat) (b : Beam) : (setBeam s k b).clk = s.clk := rfl
@[simp] theorem setBeam_fresh (s : State) (k : Nat) (b : Beam) : (setBeam s k b).fresh = s.fresh := rfl
@[simp] theorem setBeam_nextKey (s : State) (k : Nat) (b : Beam) : (setBeam s k b).nextKey = s.nextKey := rfl
@[simp] theorem setBeam_issued (s : State) (k : Nat) (b : Beam) : (setBeam s k b).issued = s.issued := rfl
@[simp] theorem setBeam_closed (s : State) (k : Nat) (b : Beam) : (setBeam s k b).closed = s.closed := rfl
@[simp] theorem setBeam_pfWrites (s : State) (k : Nat) (b : Beam) : (setBeam s k b).pfWrites = s.pfWrites := rfl
@[simp] theorem setBeam_cfgNext (s : State) (k : Nat) (b : Beam) : (setBeam s k b).cfgNext = s.cfgNext := rfl
@[simp] theorem setBeam_rebind (s : State) (k : Nat) (b : Beam) : (setBeam s k b).rebind = s.rebind := rfl
@[simp] theorem setBeam_unbound (s : State) (k : Nat) (b : Beam) : (setBeam s k b).unbound = s.unbound := rfl
@[simp] theorem setBeam_agenda (s : State) (k : Nat) (b : Beam) : (setBeam s k b).agenda = s.agenda := rfl
@[simp] theorem setBeam_mem (s : State) (k : Nat) (b : Beam) : (setBeam s k b).mem = s.mem := rfl
@[simp] theorem setBeam_csr (s : State) (k : Nat) (b : Beam) : (setBeam s k b).csr = s.csr := rfl
@[simp] theorem setBeam_bad (s : State) (k : Nat) (b : Beam) : (setBeam s k b).bad = s.bad := rfl
@[simp] theorem setBeam_l2 (s : State) (k : Nat) (b : Beam) : (setBeam s k b).l2 = s.l2 := rfl
@[simp] theorem setBeam_blocks (s : State) (k : Nat) (b : Beam) : (setBeam s k b).blocks = s.blocks := rfl
@[simp] theorem setBeam_gangs (s : State) (k : Nat) (b : Beam) : (setBeam s k b).gangs = s.gangs := rfl
@[simp] theorem setBeam_grids (s : State) (k : Nat) (b : Beam) : (setBeam s k b).grids = s.grids := rfl
@[simp] theorem setBeam_cores (s : State) (k : Nat) (b : Beam) : (setBeam s k b).cores = s.cores := rfl
@[simp] theorem setBeam_clusters (s : State) (k : Nat) (b : Beam) : (setBeam s k b).clusters = s.clusters := rfl
@[simp] theorem setBeam_queues (s : State) (k : Nat) (b : Beam) : (setBeam s k b).queues = s.queues := rfl
@[simp] theorem setBeam_accepting (s : State) (k : Nat) (b : Beam) : (setBeam s k b).accepting = s.accepting := rfl
@[simp] theorem setBeam_bins (s : State) (k : Nat) (b : Beam) : (setBeam s k b).bins = s.bins := rfl
@[simp] theorem setBeam_applies (s : State) (k : Nat) (b : Beam) : (setBeam s k b).applies = s.applies := rfl
@[simp] theorem setBeam_commits (s : State) (k : Nat) (b : Beam) : (setBeam s k b).commits = s.commits := rfl
@[simp] theorem setBeam_pool (s : State) (k : Nat) (b : Beam) : (setBeam s k b).pool = s.pool := rfl
@[simp] theorem setBeam_flash (s : State) (k : Nat) (b : Beam) : (setBeam s k b).flash = s.flash := rfl
@[simp] theorem setBeam_flashMem (s : State) (k : Nat) (b : Beam) : (setBeam s k b).flashMem = s.flashMem := rfl
@[simp] theorem setBeam_decodeQ (s : State) (k : Nat) (b : Beam) : (setBeam s k b).decodeQ = s.decodeQ := rfl
@[simp] theorem setBeam_decoding (s : State) (k : Nat) (b : Beam) : (setBeam s k b).decoding = s.decoding := rfl
@[simp] theorem setBeam_scLines (s : State) (k : Nat) (b : Beam) : (setBeam s k b).scLines = s.scLines := rfl
@[simp] theorem setBeam_aliased (s : State) (k : Nat) (b : Beam) : (setBeam s k b).aliased = s.aliased := rfl
@[simp] theorem setBeam_down (s : State) (k : Nat) (b : Beam) : (setBeam s k b).down = s.down := rfl
@[simp] theorem setBeam_sent (s : State) (k : Nat) (b : Beam) : (setBeam s k b).sent = s.sent := rfl

/-! ## onBeam -/

@[simp] theorem onBeam_clk (s : State) (k : Nat) (f : Beam → Beam) : (onBeam s k f).clk = s.clk := rfl
@[simp] theorem onBeam_fresh (s : State) (k : Nat) (f : Beam → Beam) : (onBeam s k f).fresh = s.fresh := rfl
@[simp] theorem onBeam_nextKey (s : State) (k : Nat) (f : Beam → Beam) : (onBeam s k f).nextKey = s.nextKey := rfl
@[simp] theorem onBeam_issued (s : State) (k : Nat) (f : Beam → Beam) : (onBeam s k f).issued = s.issued := rfl
@[simp] theorem onBeam_closed (s : State) (k : Nat) (f : Beam → Beam) : (onBeam s k f).closed = s.closed := rfl
@[simp] theorem onBeam_pfWrites (s : State) (k : Nat) (f : Beam → Beam) : (onBeam s k f).pfWrites = s.pfWrites := rfl
@[simp] theorem onBeam_cfgNext (s : State) (k : Nat) (f : Beam → Beam) : (onBeam s k f).cfgNext = s.cfgNext := rfl
@[simp] theorem onBeam_rebind (s : State) (k : Nat) (f : Beam → Beam) : (onBeam s k f).rebind = s.rebind := rfl
@[simp] theorem onBeam_unbound (s : State) (k : Nat) (f : Beam → Beam) : (onBeam s k f).unbound = s.unbound := rfl
@[simp] theorem onBeam_agenda (s : State) (k : Nat) (f : Beam → Beam) : (onBeam s k f).agenda = s.agenda := rfl
@[simp] theorem onBeam_mem (s : State) (k : Nat) (f : Beam → Beam) : (onBeam s k f).mem = s.mem := rfl
@[simp] theorem onBeam_csr (s : State) (k : Nat) (f : Beam → Beam) : (onBeam s k f).csr = s.csr := rfl
@[simp] theorem onBeam_bad (s : State) (k : Nat) (f : Beam → Beam) : (onBeam s k f).bad = s.bad := rfl
@[simp] theorem onBeam_l2 (s : State) (k : Nat) (f : Beam → Beam) : (onBeam s k f).l2 = s.l2 := rfl
@[simp] theorem onBeam_blocks (s : State) (k : Nat) (f : Beam → Beam) : (onBeam s k f).blocks = s.blocks := rfl
@[simp] theorem onBeam_gangs (s : State) (k : Nat) (f : Beam → Beam) : (onBeam s k f).gangs = s.gangs := rfl
@[simp] theorem onBeam_grids (s : State) (k : Nat) (f : Beam → Beam) : (onBeam s k f).grids = s.grids := rfl
@[simp] theorem onBeam_cores (s : State) (k : Nat) (f : Beam → Beam) : (onBeam s k f).cores = s.cores := rfl
@[simp] theorem onBeam_clusters (s : State) (k : Nat) (f : Beam → Beam) : (onBeam s k f).clusters = s.clusters := rfl
@[simp] theorem onBeam_queues (s : State) (k : Nat) (f : Beam → Beam) : (onBeam s k f).queues = s.queues := rfl
@[simp] theorem onBeam_accepting (s : State) (k : Nat) (f : Beam → Beam) : (onBeam s k f).accepting = s.accepting := rfl
@[simp] theorem onBeam_bins (s : State) (k : Nat) (f : Beam → Beam) : (onBeam s k f).bins = s.bins := rfl
@[simp] theorem onBeam_applies (s : State) (k : Nat) (f : Beam → Beam) : (onBeam s k f).applies = s.applies := rfl
@[simp] theorem onBeam_commits (s : State) (k : Nat) (f : Beam → Beam) : (onBeam s k f).commits = s.commits := rfl
@[simp] theorem onBeam_pool (s : State) (k : Nat) (f : Beam → Beam) : (onBeam s k f).pool = s.pool := rfl
@[simp] theorem onBeam_flash (s : State) (k : Nat) (f : Beam → Beam) : (onBeam s k f).flash = s.flash := rfl
@[simp] theorem onBeam_flashMem (s : State) (k : Nat) (f : Beam → Beam) : (onBeam s k f).flashMem = s.flashMem := rfl
@[simp] theorem onBeam_decodeQ (s : State) (k : Nat) (f : Beam → Beam) : (onBeam s k f).decodeQ = s.decodeQ := rfl
@[simp] theorem onBeam_decoding (s : State) (k : Nat) (f : Beam → Beam) : (onBeam s k f).decoding = s.decoding := rfl
@[simp] theorem onBeam_scLines (s : State) (k : Nat) (f : Beam → Beam) : (onBeam s k f).scLines = s.scLines := rfl
@[simp] theorem onBeam_aliased (s : State) (k : Nat) (f : Beam → Beam) : (onBeam s k f).aliased = s.aliased := rfl
@[simp] theorem onBeam_down (s : State) (k : Nat) (f : Beam → Beam) : (onBeam s k f).down = s.down := rfl
@[simp] theorem onBeam_sent (s : State) (k : Nat) (f : Beam → Beam) : (onBeam s k f).sent = s.sent := rfl

/-! ## onLanes -/

@[simp] theorem onLanes_clk (s : State) (k : Nat) (on : List Nat) (f : Nat → Lane → Lane) : (onLanes s k on f).clk = s.clk := rfl
@[simp] theorem onLanes_fresh (s : State) (k : Nat) (on : List Nat) (f : Nat → Lane → Lane) : (onLanes s k on f).fresh = s.fresh := rfl
@[simp] theorem onLanes_nextKey (s : State) (k : Nat) (on : List Nat) (f : Nat → Lane → Lane) : (onLanes s k on f).nextKey = s.nextKey := rfl
@[simp] theorem onLanes_issued (s : State) (k : Nat) (on : List Nat) (f : Nat → Lane → Lane) : (onLanes s k on f).issued = s.issued := rfl
@[simp] theorem onLanes_closed (s : State) (k : Nat) (on : List Nat) (f : Nat → Lane → Lane) : (onLanes s k on f).closed = s.closed := rfl
@[simp] theorem onLanes_pfWrites (s : State) (k : Nat) (on : List Nat) (f : Nat → Lane → Lane) : (onLanes s k on f).pfWrites = s.pfWrites := rfl
@[simp] theorem onLanes_cfgNext (s : State) (k : Nat) (on : List Nat) (f : Nat → Lane → Lane) : (onLanes s k on f).cfgNext = s.cfgNext := rfl
@[simp] theorem onLanes_rebind (s : State) (k : Nat) (on : List Nat) (f : Nat → Lane → Lane) : (onLanes s k on f).rebind = s.rebind := rfl
@[simp] theorem onLanes_unbound (s : State) (k : Nat) (on : List Nat) (f : Nat → Lane → Lane) : (onLanes s k on f).unbound = s.unbound := rfl
@[simp] theorem onLanes_agenda (s : State) (k : Nat) (on : List Nat) (f : Nat → Lane → Lane) : (onLanes s k on f).agenda = s.agenda := rfl
@[simp] theorem onLanes_mem (s : State) (k : Nat) (on : List Nat) (f : Nat → Lane → Lane) : (onLanes s k on f).mem = s.mem := rfl
@[simp] theorem onLanes_csr (s : State) (k : Nat) (on : List Nat) (f : Nat → Lane → Lane) : (onLanes s k on f).csr = s.csr := rfl
@[simp] theorem onLanes_bad (s : State) (k : Nat) (on : List Nat) (f : Nat → Lane → Lane) : (onLanes s k on f).bad = s.bad := rfl
@[simp] theorem onLanes_l2 (s : State) (k : Nat) (on : List Nat) (f : Nat → Lane → Lane) : (onLanes s k on f).l2 = s.l2 := rfl
@[simp] theorem onLanes_blocks (s : State) (k : Nat) (on : List Nat) (f : Nat → Lane → Lane) : (onLanes s k on f).blocks = s.blocks := rfl
@[simp] theorem onLanes_gangs (s : State) (k : Nat) (on : List Nat) (f : Nat → Lane → Lane) : (onLanes s k on f).gangs = s.gangs := rfl
@[simp] theorem onLanes_grids (s : State) (k : Nat) (on : List Nat) (f : Nat → Lane → Lane) : (onLanes s k on f).grids = s.grids := rfl
@[simp] theorem onLanes_cores (s : State) (k : Nat) (on : List Nat) (f : Nat → Lane → Lane) : (onLanes s k on f).cores = s.cores := rfl
@[simp] theorem onLanes_clusters (s : State) (k : Nat) (on : List Nat) (f : Nat → Lane → Lane) : (onLanes s k on f).clusters = s.clusters := rfl
@[simp] theorem onLanes_queues (s : State) (k : Nat) (on : List Nat) (f : Nat → Lane → Lane) : (onLanes s k on f).queues = s.queues := rfl
@[simp] theorem onLanes_accepting (s : State) (k : Nat) (on : List Nat) (f : Nat → Lane → Lane) : (onLanes s k on f).accepting = s.accepting := rfl
@[simp] theorem onLanes_bins (s : State) (k : Nat) (on : List Nat) (f : Nat → Lane → Lane) : (onLanes s k on f).bins = s.bins := rfl
@[simp] theorem onLanes_applies (s : State) (k : Nat) (on : List Nat) (f : Nat → Lane → Lane) : (onLanes s k on f).applies = s.applies := rfl
@[simp] theorem onLanes_commits (s : State) (k : Nat) (on : List Nat) (f : Nat → Lane → Lane) : (onLanes s k on f).commits = s.commits := rfl
@[simp] theorem onLanes_pool (s : State) (k : Nat) (on : List Nat) (f : Nat → Lane → Lane) : (onLanes s k on f).pool = s.pool := rfl
@[simp] theorem onLanes_flash (s : State) (k : Nat) (on : List Nat) (f : Nat → Lane → Lane) : (onLanes s k on f).flash = s.flash := rfl
@[simp] theorem onLanes_flashMem (s : State) (k : Nat) (on : List Nat) (f : Nat → Lane → Lane) : (onLanes s k on f).flashMem = s.flashMem := rfl
@[simp] theorem onLanes_decodeQ (s : State) (k : Nat) (on : List Nat) (f : Nat → Lane → Lane) : (onLanes s k on f).decodeQ = s.decodeQ := rfl
@[simp] theorem onLanes_decoding (s : State) (k : Nat) (on : List Nat) (f : Nat → Lane → Lane) : (onLanes s k on f).decoding = s.decoding := rfl
@[simp] theorem onLanes_scLines (s : State) (k : Nat) (on : List Nat) (f : Nat → Lane → Lane) : (onLanes s k on f).scLines = s.scLines := rfl
@[simp] theorem onLanes_aliased (s : State) (k : Nat) (on : List Nat) (f : Nat → Lane → Lane) : (onLanes s k on f).aliased = s.aliased := rfl
@[simp] theorem onLanes_down (s : State) (k : Nat) (on : List Nat) (f : Nat → Lane → Lane) : (onLanes s k on f).down = s.down := rfl
@[simp] theorem onLanes_sent (s : State) (k : Nat) (on : List Nat) (f : Nat → Lane → Lane) : (onLanes s k on f).sent = s.sent := rfl

/-! ## csrPut -/

@[simp] theorem csrPut_clk (s : State) (p n : Nat) (v : Word) : (csrPut s p n v).clk = s.clk := rfl
@[simp] theorem csrPut_fresh (s : State) (p n : Nat) (v : Word) : (csrPut s p n v).fresh = s.fresh := rfl
@[simp] theorem csrPut_nextKey (s : State) (p n : Nat) (v : Word) : (csrPut s p n v).nextKey = s.nextKey := rfl
@[simp] theorem csrPut_issued (s : State) (p n : Nat) (v : Word) : (csrPut s p n v).issued = s.issued := rfl
@[simp] theorem csrPut_closed (s : State) (p n : Nat) (v : Word) : (csrPut s p n v).closed = s.closed := rfl
@[simp] theorem csrPut_pfWrites (s : State) (p n : Nat) (v : Word) : (csrPut s p n v).pfWrites = s.pfWrites := rfl
@[simp] theorem csrPut_cfgNext (s : State) (p n : Nat) (v : Word) : (csrPut s p n v).cfgNext = s.cfgNext := rfl
@[simp] theorem csrPut_rebind (s : State) (p n : Nat) (v : Word) : (csrPut s p n v).rebind = s.rebind := rfl
@[simp] theorem csrPut_unbound (s : State) (p n : Nat) (v : Word) : (csrPut s p n v).unbound = s.unbound := rfl
@[simp] theorem csrPut_agenda (s : State) (p n : Nat) (v : Word) : (csrPut s p n v).agenda = s.agenda := rfl
@[simp] theorem csrPut_mem (s : State) (p n : Nat) (v : Word) : (csrPut s p n v).mem = s.mem := rfl
@[simp] theorem csrPut_bad (s : State) (p n : Nat) (v : Word) : (csrPut s p n v).bad = s.bad := rfl
@[simp] theorem csrPut_l2 (s : State) (p n : Nat) (v : Word) : (csrPut s p n v).l2 = s.l2 := rfl
@[simp] theorem csrPut_beams (s : State) (p n : Nat) (v : Word) : (csrPut s p n v).beams = s.beams := rfl
@[simp] theorem csrPut_blocks (s : State) (p n : Nat) (v : Word) : (csrPut s p n v).blocks = s.blocks := rfl
@[simp] theorem csrPut_gangs (s : State) (p n : Nat) (v : Word) : (csrPut s p n v).gangs = s.gangs := rfl
@[simp] theorem csrPut_grids (s : State) (p n : Nat) (v : Word) : (csrPut s p n v).grids = s.grids := rfl
@[simp] theorem csrPut_cores (s : State) (p n : Nat) (v : Word) : (csrPut s p n v).cores = s.cores := rfl
@[simp] theorem csrPut_clusters (s : State) (p n : Nat) (v : Word) : (csrPut s p n v).clusters = s.clusters := rfl
@[simp] theorem csrPut_queues (s : State) (p n : Nat) (v : Word) : (csrPut s p n v).queues = s.queues := rfl
@[simp] theorem csrPut_accepting (s : State) (p n : Nat) (v : Word) : (csrPut s p n v).accepting = s.accepting := rfl
@[simp] theorem csrPut_bins (s : State) (p n : Nat) (v : Word) : (csrPut s p n v).bins = s.bins := rfl
@[simp] theorem csrPut_applies (s : State) (p n : Nat) (v : Word) : (csrPut s p n v).applies = s.applies := rfl
@[simp] theorem csrPut_commits (s : State) (p n : Nat) (v : Word) : (csrPut s p n v).commits = s.commits := rfl
@[simp] theorem csrPut_pool (s : State) (p n : Nat) (v : Word) : (csrPut s p n v).pool = s.pool := rfl
@[simp] theorem csrPut_flash (s : State) (p n : Nat) (v : Word) : (csrPut s p n v).flash = s.flash := rfl
@[simp] theorem csrPut_flashMem (s : State) (p n : Nat) (v : Word) : (csrPut s p n v).flashMem = s.flashMem := rfl
@[simp] theorem csrPut_decodeQ (s : State) (p n : Nat) (v : Word) : (csrPut s p n v).decodeQ = s.decodeQ := rfl
@[simp] theorem csrPut_decoding (s : State) (p n : Nat) (v : Word) : (csrPut s p n v).decoding = s.decoding := rfl
@[simp] theorem csrPut_scLines (s : State) (p n : Nat) (v : Word) : (csrPut s p n v).scLines = s.scLines := rfl
@[simp] theorem csrPut_aliased (s : State) (p n : Nat) (v : Word) : (csrPut s p n v).aliased = s.aliased := rfl
@[simp] theorem csrPut_down (s : State) (p n : Nat) (v : Word) : (csrPut s p n v).down = s.down := rfl
@[simp] theorem csrPut_sent (s : State) (p n : Nat) (v : Word) : (csrPut s p n v).sent = s.sent := rfl

/-! ## setCore -/

@[simp] theorem setCore_clk (s : State) (c : Nat) (f : Core → Core) : (setCore s c f).clk = s.clk := rfl
@[simp] theorem setCore_fresh (s : State) (c : Nat) (f : Core → Core) : (setCore s c f).fresh = s.fresh := rfl
@[simp] theorem setCore_nextKey (s : State) (c : Nat) (f : Core → Core) : (setCore s c f).nextKey = s.nextKey := rfl
@[simp] theorem setCore_issued (s : State) (c : Nat) (f : Core → Core) : (setCore s c f).issued = s.issued := rfl
@[simp] theorem setCore_closed (s : State) (c : Nat) (f : Core → Core) : (setCore s c f).closed = s.closed := rfl
@[simp] theorem setCore_pfWrites (s : State) (c : Nat) (f : Core → Core) : (setCore s c f).pfWrites = s.pfWrites := rfl
@[simp] theorem setCore_cfgNext (s : State) (c : Nat) (f : Core → Core) : (setCore s c f).cfgNext = s.cfgNext := rfl
@[simp] theorem setCore_rebind (s : State) (c : Nat) (f : Core → Core) : (setCore s c f).rebind = s.rebind := rfl
@[simp] theorem setCore_unbound (s : State) (c : Nat) (f : Core → Core) : (setCore s c f).unbound = s.unbound := rfl
@[simp] theorem setCore_agenda (s : State) (c : Nat) (f : Core → Core) : (setCore s c f).agenda = s.agenda := rfl
@[simp] theorem setCore_mem (s : State) (c : Nat) (f : Core → Core) : (setCore s c f).mem = s.mem := rfl
@[simp] theorem setCore_csr (s : State) (c : Nat) (f : Core → Core) : (setCore s c f).csr = s.csr := rfl
@[simp] theorem setCore_bad (s : State) (c : Nat) (f : Core → Core) : (setCore s c f).bad = s.bad := rfl
@[simp] theorem setCore_l2 (s : State) (c : Nat) (f : Core → Core) : (setCore s c f).l2 = s.l2 := rfl
@[simp] theorem setCore_beams (s : State) (c : Nat) (f : Core → Core) : (setCore s c f).beams = s.beams := rfl
@[simp] theorem setCore_blocks (s : State) (c : Nat) (f : Core → Core) : (setCore s c f).blocks = s.blocks := rfl
@[simp] theorem setCore_gangs (s : State) (c : Nat) (f : Core → Core) : (setCore s c f).gangs = s.gangs := rfl
@[simp] theorem setCore_grids (s : State) (c : Nat) (f : Core → Core) : (setCore s c f).grids = s.grids := rfl
@[simp] theorem setCore_clusters (s : State) (c : Nat) (f : Core → Core) : (setCore s c f).clusters = s.clusters := rfl
@[simp] theorem setCore_queues (s : State) (c : Nat) (f : Core → Core) : (setCore s c f).queues = s.queues := rfl
@[simp] theorem setCore_accepting (s : State) (c : Nat) (f : Core → Core) : (setCore s c f).accepting = s.accepting := rfl
@[simp] theorem setCore_bins (s : State) (c : Nat) (f : Core → Core) : (setCore s c f).bins = s.bins := rfl
@[simp] theorem setCore_applies (s : State) (c : Nat) (f : Core → Core) : (setCore s c f).applies = s.applies := rfl
@[simp] theorem setCore_commits (s : State) (c : Nat) (f : Core → Core) : (setCore s c f).commits = s.commits := rfl
@[simp] theorem setCore_pool (s : State) (c : Nat) (f : Core → Core) : (setCore s c f).pool = s.pool := rfl
@[simp] theorem setCore_flash (s : State) (c : Nat) (f : Core → Core) : (setCore s c f).flash = s.flash := rfl
@[simp] theorem setCore_flashMem (s : State) (c : Nat) (f : Core → Core) : (setCore s c f).flashMem = s.flashMem := rfl
@[simp] theorem setCore_decodeQ (s : State) (c : Nat) (f : Core → Core) : (setCore s c f).decodeQ = s.decodeQ := rfl
@[simp] theorem setCore_decoding (s : State) (c : Nat) (f : Core → Core) : (setCore s c f).decoding = s.decoding := rfl
@[simp] theorem setCore_scLines (s : State) (c : Nat) (f : Core → Core) : (setCore s c f).scLines = s.scLines := rfl
@[simp] theorem setCore_aliased (s : State) (c : Nat) (f : Core → Core) : (setCore s c f).aliased = s.aliased := rfl
@[simp] theorem setCore_down (s : State) (c : Nat) (f : Core → Core) : (setCore s c f).down = s.down := rfl
@[simp] theorem setCore_sent (s : State) (c : Nat) (f : Core → Core) : (setCore s c f).sent = s.sent := rfl

/-! ## post -/

@[simp] theorem post_clk (s : State) (d : Nat) (i : Instr) : (post s d i).clk = s.clk := rfl
@[simp] theorem post_fresh (s : State) (d : Nat) (i : Instr) : (post s d i).fresh = s.fresh := rfl
@[simp] theorem post_nextKey (s : State) (d : Nat) (i : Instr) : (post s d i).nextKey = s.nextKey := rfl
@[simp] theorem post_issued (s : State) (d : Nat) (i : Instr) : (post s d i).issued = s.issued := rfl
@[simp] theorem post_closed (s : State) (d : Nat) (i : Instr) : (post s d i).closed = s.closed := rfl
@[simp] theorem post_pfWrites (s : State) (d : Nat) (i : Instr) : (post s d i).pfWrites = s.pfWrites := rfl
@[simp] theorem post_cfgNext (s : State) (d : Nat) (i : Instr) : (post s d i).cfgNext = s.cfgNext := rfl
@[simp] theorem post_rebind (s : State) (d : Nat) (i : Instr) : (post s d i).rebind = s.rebind := rfl
@[simp] theorem post_unbound (s : State) (d : Nat) (i : Instr) : (post s d i).unbound = s.unbound := rfl
@[simp] theorem post_mem (s : State) (d : Nat) (i : Instr) : (post s d i).mem = s.mem := rfl
@[simp] theorem post_csr (s : State) (d : Nat) (i : Instr) : (post s d i).csr = s.csr := rfl
@[simp] theorem post_bad (s : State) (d : Nat) (i : Instr) : (post s d i).bad = s.bad := rfl
@[simp] theorem post_l2 (s : State) (d : Nat) (i : Instr) : (post s d i).l2 = s.l2 := rfl
@[simp] theorem post_beams (s : State) (d : Nat) (i : Instr) : (post s d i).beams = s.beams := rfl
@[simp] theorem post_blocks (s : State) (d : Nat) (i : Instr) : (post s d i).blocks = s.blocks := rfl
@[simp] theorem post_gangs (s : State) (d : Nat) (i : Instr) : (post s d i).gangs = s.gangs := rfl
@[simp] theorem post_grids (s : State) (d : Nat) (i : Instr) : (post s d i).grids = s.grids := rfl
@[simp] theorem post_cores (s : State) (d : Nat) (i : Instr) : (post s d i).cores = s.cores := rfl
@[simp] theorem post_clusters (s : State) (d : Nat) (i : Instr) : (post s d i).clusters = s.clusters := rfl
@[simp] theorem post_queues (s : State) (d : Nat) (i : Instr) : (post s d i).queues = s.queues := rfl
@[simp] theorem post_accepting (s : State) (d : Nat) (i : Instr) : (post s d i).accepting = s.accepting := rfl
@[simp] theorem post_bins (s : State) (d : Nat) (i : Instr) : (post s d i).bins = s.bins := rfl
@[simp] theorem post_applies (s : State) (d : Nat) (i : Instr) : (post s d i).applies = s.applies := rfl
@[simp] theorem post_commits (s : State) (d : Nat) (i : Instr) : (post s d i).commits = s.commits := rfl
@[simp] theorem post_pool (s : State) (d : Nat) (i : Instr) : (post s d i).pool = s.pool := rfl
@[simp] theorem post_flash (s : State) (d : Nat) (i : Instr) : (post s d i).flash = s.flash := rfl
@[simp] theorem post_flashMem (s : State) (d : Nat) (i : Instr) : (post s d i).flashMem = s.flashMem := rfl
@[simp] theorem post_decodeQ (s : State) (d : Nat) (i : Instr) : (post s d i).decodeQ = s.decodeQ := rfl
@[simp] theorem post_decoding (s : State) (d : Nat) (i : Instr) : (post s d i).decoding = s.decoding := rfl
@[simp] theorem post_scLines (s : State) (d : Nat) (i : Instr) : (post s d i).scLines = s.scLines := rfl
@[simp] theorem post_aliased (s : State) (d : Nat) (i : Instr) : (post s d i).aliased = s.aliased := rfl
@[simp] theorem post_down (s : State) (d : Nat) (i : Instr) : (post s d i).down = s.down := rfl
@[simp] theorem post_sent (s : State) (d : Nat) (i : Instr) : (post s d i).sent = s.sent := rfl

/-! ## draw -/

@[simp] theorem draw_clk (s : State) : (draw s).clk = s.clk := rfl
@[simp] theorem draw_nextKey (s : State) : (draw s).nextKey = s.nextKey := rfl
@[simp] theorem draw_issued (s : State) : (draw s).issued = s.issued := rfl
@[simp] theorem draw_closed (s : State) : (draw s).closed = s.closed := rfl
@[simp] theorem draw_pfWrites (s : State) : (draw s).pfWrites = s.pfWrites := rfl
@[simp] theorem draw_cfgNext (s : State) : (draw s).cfgNext = s.cfgNext := rfl
@[simp] theorem draw_rebind (s : State) : (draw s).rebind = s.rebind := rfl
@[simp] theorem draw_unbound (s : State) : (draw s).unbound = s.unbound := rfl
@[simp] theorem draw_agenda (s : State) : (draw s).agenda = s.agenda := rfl
@[simp] theorem draw_mem (s : State) : (draw s).mem = s.mem := rfl
@[simp] theorem draw_csr (s : State) : (draw s).csr = s.csr := rfl
@[simp] theorem draw_bad (s : State) : (draw s).bad = s.bad := rfl
@[simp] theorem draw_l2 (s : State) : (draw s).l2 = s.l2 := rfl
@[simp] theorem draw_beams (s : State) : (draw s).beams = s.beams := rfl
@[simp] theorem draw_blocks (s : State) : (draw s).blocks = s.blocks := rfl
@[simp] theorem draw_gangs (s : State) : (draw s).gangs = s.gangs := rfl
@[simp] theorem draw_grids (s : State) : (draw s).grids = s.grids := rfl
@[simp] theorem draw_cores (s : State) : (draw s).cores = s.cores := rfl
@[simp] theorem draw_clusters (s : State) : (draw s).clusters = s.clusters := rfl
@[simp] theorem draw_queues (s : State) : (draw s).queues = s.queues := rfl
@[simp] theorem draw_accepting (s : State) : (draw s).accepting = s.accepting := rfl
@[simp] theorem draw_bins (s : State) : (draw s).bins = s.bins := rfl
@[simp] theorem draw_applies (s : State) : (draw s).applies = s.applies := rfl
@[simp] theorem draw_commits (s : State) : (draw s).commits = s.commits := rfl
@[simp] theorem draw_pool (s : State) : (draw s).pool = s.pool := rfl
@[simp] theorem draw_flash (s : State) : (draw s).flash = s.flash := rfl
@[simp] theorem draw_flashMem (s : State) : (draw s).flashMem = s.flashMem := rfl
@[simp] theorem draw_decodeQ (s : State) : (draw s).decodeQ = s.decodeQ := rfl
@[simp] theorem draw_decoding (s : State) : (draw s).decoding = s.decoding := rfl
@[simp] theorem draw_scLines (s : State) : (draw s).scLines = s.scLines := rfl
@[simp] theorem draw_aliased (s : State) : (draw s).aliased = s.aliased := rfl
@[simp] theorem draw_down (s : State) : (draw s).down = s.down := rfl
@[simp] theorem draw_sent (s : State) : (draw s).sent = s.sent := rfl

/-! ## postFree -/

@[simp] theorem postFree_clk (s : State) (d : Nat) (i : Instr) : (postFree s d i).clk = s.clk := rfl
@[simp] theorem postFree_nextKey (s : State) (d : Nat) (i : Instr) : (postFree s d i).nextKey = s.nextKey := rfl
@[simp] theorem postFree_issued (s : State) (d : Nat) (i : Instr) : (postFree s d i).issued = s.issued := rfl
@[simp] theorem postFree_closed (s : State) (d : Nat) (i : Instr) : (postFree s d i).closed = s.closed := rfl
@[simp] theorem postFree_pfWrites (s : State) (d : Nat) (i : Instr) : (postFree s d i).pfWrites = s.pfWrites := rfl
@[simp] theorem postFree_cfgNext (s : State) (d : Nat) (i : Instr) : (postFree s d i).cfgNext = s.cfgNext := rfl
@[simp] theorem postFree_rebind (s : State) (d : Nat) (i : Instr) : (postFree s d i).rebind = s.rebind := rfl
@[simp] theorem postFree_unbound (s : State) (d : Nat) (i : Instr) : (postFree s d i).unbound = s.unbound := rfl
@[simp] theorem postFree_mem (s : State) (d : Nat) (i : Instr) : (postFree s d i).mem = s.mem := rfl
@[simp] theorem postFree_csr (s : State) (d : Nat) (i : Instr) : (postFree s d i).csr = s.csr := rfl
@[simp] theorem postFree_bad (s : State) (d : Nat) (i : Instr) : (postFree s d i).bad = s.bad := rfl
@[simp] theorem postFree_l2 (s : State) (d : Nat) (i : Instr) : (postFree s d i).l2 = s.l2 := rfl
@[simp] theorem postFree_beams (s : State) (d : Nat) (i : Instr) : (postFree s d i).beams = s.beams := rfl
@[simp] theorem postFree_blocks (s : State) (d : Nat) (i : Instr) : (postFree s d i).blocks = s.blocks := rfl
@[simp] theorem postFree_gangs (s : State) (d : Nat) (i : Instr) : (postFree s d i).gangs = s.gangs := rfl
@[simp] theorem postFree_grids (s : State) (d : Nat) (i : Instr) : (postFree s d i).grids = s.grids := rfl
@[simp] theorem postFree_cores (s : State) (d : Nat) (i : Instr) : (postFree s d i).cores = s.cores := rfl
@[simp] theorem postFree_clusters (s : State) (d : Nat) (i : Instr) : (postFree s d i).clusters = s.clusters := rfl
@[simp] theorem postFree_queues (s : State) (d : Nat) (i : Instr) : (postFree s d i).queues = s.queues := rfl
@[simp] theorem postFree_accepting (s : State) (d : Nat) (i : Instr) : (postFree s d i).accepting = s.accepting := rfl
@[simp] theorem postFree_bins (s : State) (d : Nat) (i : Instr) : (postFree s d i).bins = s.bins := rfl
@[simp] theorem postFree_applies (s : State) (d : Nat) (i : Instr) : (postFree s d i).applies = s.applies := rfl
@[simp] theorem postFree_commits (s : State) (d : Nat) (i : Instr) : (postFree s d i).commits = s.commits := rfl
@[simp] theorem postFree_pool (s : State) (d : Nat) (i : Instr) : (postFree s d i).pool = s.pool := rfl
@[simp] theorem postFree_flash (s : State) (d : Nat) (i : Instr) : (postFree s d i).flash = s.flash := rfl
@[simp] theorem postFree_flashMem (s : State) (d : Nat) (i : Instr) : (postFree s d i).flashMem = s.flashMem := rfl
@[simp] theorem postFree_decodeQ (s : State) (d : Nat) (i : Instr) : (postFree s d i).decodeQ = s.decodeQ := rfl
@[simp] theorem postFree_decoding (s : State) (d : Nat) (i : Instr) : (postFree s d i).decoding = s.decoding := rfl
@[simp] theorem postFree_scLines (s : State) (d : Nat) (i : Instr) : (postFree s d i).scLines = s.scLines := rfl
@[simp] theorem postFree_aliased (s : State) (d : Nat) (i : Instr) : (postFree s d i).aliased = s.aliased := rfl
@[simp] theorem postFree_down (s : State) (d : Nat) (i : Instr) : (postFree s d i).down = s.down := rfl
@[simp] theorem postFree_sent (s : State) (d : Nat) (i : Instr) : (postFree s d i).sent = s.sent := rfl

/-! ## setHandle -/

@[simp] theorem setHandle_clk (s : State) (c e : Nat) (f : Handle → Handle) : (setHandle s c e f).clk = s.clk := rfl
@[simp] theorem setHandle_fresh (s : State) (c e : Nat) (f : Handle → Handle) : (setHandle s c e f).fresh = s.fresh := rfl
@[simp] theorem setHandle_nextKey (s : State) (c e : Nat) (f : Handle → Handle) : (setHandle s c e f).nextKey = s.nextKey := rfl
@[simp] theorem setHandle_issued (s : State) (c e : Nat) (f : Handle → Handle) : (setHandle s c e f).issued = s.issued := rfl
@[simp] theorem setHandle_closed (s : State) (c e : Nat) (f : Handle → Handle) : (setHandle s c e f).closed = s.closed := rfl
@[simp] theorem setHandle_pfWrites (s : State) (c e : Nat) (f : Handle → Handle) : (setHandle s c e f).pfWrites = s.pfWrites := rfl
@[simp] theorem setHandle_cfgNext (s : State) (c e : Nat) (f : Handle → Handle) : (setHandle s c e f).cfgNext = s.cfgNext := rfl
@[simp] theorem setHandle_rebind (s : State) (c e : Nat) (f : Handle → Handle) : (setHandle s c e f).rebind = s.rebind := rfl
@[simp] theorem setHandle_unbound (s : State) (c e : Nat) (f : Handle → Handle) : (setHandle s c e f).unbound = s.unbound := rfl
@[simp] theorem setHandle_agenda (s : State) (c e : Nat) (f : Handle → Handle) : (setHandle s c e f).agenda = s.agenda := rfl
@[simp] theorem setHandle_mem (s : State) (c e : Nat) (f : Handle → Handle) : (setHandle s c e f).mem = s.mem := rfl
@[simp] theorem setHandle_csr (s : State) (c e : Nat) (f : Handle → Handle) : (setHandle s c e f).csr = s.csr := rfl
@[simp] theorem setHandle_bad (s : State) (c e : Nat) (f : Handle → Handle) : (setHandle s c e f).bad = s.bad := rfl
@[simp] theorem setHandle_l2 (s : State) (c e : Nat) (f : Handle → Handle) : (setHandle s c e f).l2 = s.l2 := rfl
@[simp] theorem setHandle_beams (s : State) (c e : Nat) (f : Handle → Handle) : (setHandle s c e f).beams = s.beams := rfl
@[simp] theorem setHandle_blocks (s : State) (c e : Nat) (f : Handle → Handle) : (setHandle s c e f).blocks = s.blocks := rfl
@[simp] theorem setHandle_gangs (s : State) (c e : Nat) (f : Handle → Handle) : (setHandle s c e f).gangs = s.gangs := rfl
@[simp] theorem setHandle_grids (s : State) (c e : Nat) (f : Handle → Handle) : (setHandle s c e f).grids = s.grids := rfl
@[simp] theorem setHandle_clusters (s : State) (c e : Nat) (f : Handle → Handle) : (setHandle s c e f).clusters = s.clusters := rfl
@[simp] theorem setHandle_queues (s : State) (c e : Nat) (f : Handle → Handle) : (setHandle s c e f).queues = s.queues := rfl
@[simp] theorem setHandle_accepting (s : State) (c e : Nat) (f : Handle → Handle) : (setHandle s c e f).accepting = s.accepting := rfl
@[simp] theorem setHandle_bins (s : State) (c e : Nat) (f : Handle → Handle) : (setHandle s c e f).bins = s.bins := rfl
@[simp] theorem setHandle_applies (s : State) (c e : Nat) (f : Handle → Handle) : (setHandle s c e f).applies = s.applies := rfl
@[simp] theorem setHandle_commits (s : State) (c e : Nat) (f : Handle → Handle) : (setHandle s c e f).commits = s.commits := rfl
@[simp] theorem setHandle_pool (s : State) (c e : Nat) (f : Handle → Handle) : (setHandle s c e f).pool = s.pool := rfl
@[simp] theorem setHandle_flash (s : State) (c e : Nat) (f : Handle → Handle) : (setHandle s c e f).flash = s.flash := rfl
@[simp] theorem setHandle_flashMem (s : State) (c e : Nat) (f : Handle → Handle) : (setHandle s c e f).flashMem = s.flashMem := rfl
@[simp] theorem setHandle_decodeQ (s : State) (c e : Nat) (f : Handle → Handle) : (setHandle s c e f).decodeQ = s.decodeQ := rfl
@[simp] theorem setHandle_decoding (s : State) (c e : Nat) (f : Handle → Handle) : (setHandle s c e f).decoding = s.decoding := rfl
@[simp] theorem setHandle_scLines (s : State) (c e : Nat) (f : Handle → Handle) : (setHandle s c e f).scLines = s.scLines := rfl
@[simp] theorem setHandle_aliased (s : State) (c e : Nat) (f : Handle → Handle) : (setHandle s c e f).aliased = s.aliased := rfl
@[simp] theorem setHandle_down (s : State) (c e : Nat) (f : Handle → Handle) : (setHandle s c e f).down = s.down := rfl
@[simp] theorem setHandle_sent (s : State) (c e : Nat) (f : Handle → Handle) : (setHandle s c e f).sent = s.sent := rfl

/-! ## setQueue -/

@[simp] theorem setQueue_clk (s : State) (q : Nat) (f : QueueRun → QueueRun) : (setQueue s q f).clk = s.clk := rfl
@[simp] theorem setQueue_fresh (s : State) (q : Nat) (f : QueueRun → QueueRun) : (setQueue s q f).fresh = s.fresh := rfl
@[simp] theorem setQueue_nextKey (s : State) (q : Nat) (f : QueueRun → QueueRun) : (setQueue s q f).nextKey = s.nextKey := rfl
@[simp] theorem setQueue_issued (s : State) (q : Nat) (f : QueueRun → QueueRun) : (setQueue s q f).issued = s.issued := rfl
@[simp] theorem setQueue_closed (s : State) (q : Nat) (f : QueueRun → QueueRun) : (setQueue s q f).closed = s.closed := rfl
@[simp] theorem setQueue_pfWrites (s : State) (q : Nat) (f : QueueRun → QueueRun) : (setQueue s q f).pfWrites = s.pfWrites := rfl
@[simp] theorem setQueue_cfgNext (s : State) (q : Nat) (f : QueueRun → QueueRun) : (setQueue s q f).cfgNext = s.cfgNext := rfl
@[simp] theorem setQueue_rebind (s : State) (q : Nat) (f : QueueRun → QueueRun) : (setQueue s q f).rebind = s.rebind := rfl
@[simp] theorem setQueue_unbound (s : State) (q : Nat) (f : QueueRun → QueueRun) : (setQueue s q f).unbound = s.unbound := rfl
@[simp] theorem setQueue_agenda (s : State) (q : Nat) (f : QueueRun → QueueRun) : (setQueue s q f).agenda = s.agenda := rfl
@[simp] theorem setQueue_mem (s : State) (q : Nat) (f : QueueRun → QueueRun) : (setQueue s q f).mem = s.mem := rfl
@[simp] theorem setQueue_csr (s : State) (q : Nat) (f : QueueRun → QueueRun) : (setQueue s q f).csr = s.csr := rfl
@[simp] theorem setQueue_bad (s : State) (q : Nat) (f : QueueRun → QueueRun) : (setQueue s q f).bad = s.bad := rfl
@[simp] theorem setQueue_l2 (s : State) (q : Nat) (f : QueueRun → QueueRun) : (setQueue s q f).l2 = s.l2 := rfl
@[simp] theorem setQueue_beams (s : State) (q : Nat) (f : QueueRun → QueueRun) : (setQueue s q f).beams = s.beams := rfl
@[simp] theorem setQueue_blocks (s : State) (q : Nat) (f : QueueRun → QueueRun) : (setQueue s q f).blocks = s.blocks := rfl
@[simp] theorem setQueue_gangs (s : State) (q : Nat) (f : QueueRun → QueueRun) : (setQueue s q f).gangs = s.gangs := rfl
@[simp] theorem setQueue_grids (s : State) (q : Nat) (f : QueueRun → QueueRun) : (setQueue s q f).grids = s.grids := rfl
@[simp] theorem setQueue_cores (s : State) (q : Nat) (f : QueueRun → QueueRun) : (setQueue s q f).cores = s.cores := rfl
@[simp] theorem setQueue_clusters (s : State) (q : Nat) (f : QueueRun → QueueRun) : (setQueue s q f).clusters = s.clusters := rfl
@[simp] theorem setQueue_accepting (s : State) (q : Nat) (f : QueueRun → QueueRun) : (setQueue s q f).accepting = s.accepting := rfl
@[simp] theorem setQueue_bins (s : State) (q : Nat) (f : QueueRun → QueueRun) : (setQueue s q f).bins = s.bins := rfl
@[simp] theorem setQueue_applies (s : State) (q : Nat) (f : QueueRun → QueueRun) : (setQueue s q f).applies = s.applies := rfl
@[simp] theorem setQueue_commits (s : State) (q : Nat) (f : QueueRun → QueueRun) : (setQueue s q f).commits = s.commits := rfl
@[simp] theorem setQueue_pool (s : State) (q : Nat) (f : QueueRun → QueueRun) : (setQueue s q f).pool = s.pool := rfl
@[simp] theorem setQueue_flash (s : State) (q : Nat) (f : QueueRun → QueueRun) : (setQueue s q f).flash = s.flash := rfl
@[simp] theorem setQueue_flashMem (s : State) (q : Nat) (f : QueueRun → QueueRun) : (setQueue s q f).flashMem = s.flashMem := rfl
@[simp] theorem setQueue_decodeQ (s : State) (q : Nat) (f : QueueRun → QueueRun) : (setQueue s q f).decodeQ = s.decodeQ := rfl
@[simp] theorem setQueue_decoding (s : State) (q : Nat) (f : QueueRun → QueueRun) : (setQueue s q f).decoding = s.decoding := rfl
@[simp] theorem setQueue_scLines (s : State) (q : Nat) (f : QueueRun → QueueRun) : (setQueue s q f).scLines = s.scLines := rfl
@[simp] theorem setQueue_aliased (s : State) (q : Nat) (f : QueueRun → QueueRun) : (setQueue s q f).aliased = s.aliased := rfl
@[simp] theorem setQueue_down (s : State) (q : Nat) (f : QueueRun → QueueRun) : (setQueue s q f).down = s.down := rfl
@[simp] theorem setQueue_sent (s : State) (q : Nat) (f : QueueRun → QueueRun) : (setQueue s q f).sent = s.sent := rfl

/-! ## setCluster -/

@[simp] theorem setCluster_clk (s : State) (c : Nat) (f : Cluster → Cluster) : (setCluster s c f).clk = s.clk := rfl
@[simp] theorem setCluster_fresh (s : State) (c : Nat) (f : Cluster → Cluster) : (setCluster s c f).fresh = s.fresh := rfl
@[simp] theorem setCluster_nextKey (s : State) (c : Nat) (f : Cluster → Cluster) : (setCluster s c f).nextKey = s.nextKey := rfl
@[simp] theorem setCluster_issued (s : State) (c : Nat) (f : Cluster → Cluster) : (setCluster s c f).issued = s.issued := rfl
@[simp] theorem setCluster_closed (s : State) (c : Nat) (f : Cluster → Cluster) : (setCluster s c f).closed = s.closed := rfl
@[simp] theorem setCluster_pfWrites (s : State) (c : Nat) (f : Cluster → Cluster) : (setCluster s c f).pfWrites = s.pfWrites := rfl
@[simp] theorem setCluster_cfgNext (s : State) (c : Nat) (f : Cluster → Cluster) : (setCluster s c f).cfgNext = s.cfgNext := rfl
@[simp] theorem setCluster_rebind (s : State) (c : Nat) (f : Cluster → Cluster) : (setCluster s c f).rebind = s.rebind := rfl
@[simp] theorem setCluster_unbound (s : State) (c : Nat) (f : Cluster → Cluster) : (setCluster s c f).unbound = s.unbound := rfl
@[simp] theorem setCluster_agenda (s : State) (c : Nat) (f : Cluster → Cluster) : (setCluster s c f).agenda = s.agenda := rfl
@[simp] theorem setCluster_mem (s : State) (c : Nat) (f : Cluster → Cluster) : (setCluster s c f).mem = s.mem := rfl
@[simp] theorem setCluster_csr (s : State) (c : Nat) (f : Cluster → Cluster) : (setCluster s c f).csr = s.csr := rfl
@[simp] theorem setCluster_bad (s : State) (c : Nat) (f : Cluster → Cluster) : (setCluster s c f).bad = s.bad := rfl
@[simp] theorem setCluster_l2 (s : State) (c : Nat) (f : Cluster → Cluster) : (setCluster s c f).l2 = s.l2 := rfl
@[simp] theorem setCluster_beams (s : State) (c : Nat) (f : Cluster → Cluster) : (setCluster s c f).beams = s.beams := rfl
@[simp] theorem setCluster_blocks (s : State) (c : Nat) (f : Cluster → Cluster) : (setCluster s c f).blocks = s.blocks := rfl
@[simp] theorem setCluster_gangs (s : State) (c : Nat) (f : Cluster → Cluster) : (setCluster s c f).gangs = s.gangs := rfl
@[simp] theorem setCluster_grids (s : State) (c : Nat) (f : Cluster → Cluster) : (setCluster s c f).grids = s.grids := rfl
@[simp] theorem setCluster_cores (s : State) (c : Nat) (f : Cluster → Cluster) : (setCluster s c f).cores = s.cores := rfl
@[simp] theorem setCluster_queues (s : State) (c : Nat) (f : Cluster → Cluster) : (setCluster s c f).queues = s.queues := rfl
@[simp] theorem setCluster_accepting (s : State) (c : Nat) (f : Cluster → Cluster) : (setCluster s c f).accepting = s.accepting := rfl
@[simp] theorem setCluster_bins (s : State) (c : Nat) (f : Cluster → Cluster) : (setCluster s c f).bins = s.bins := rfl
@[simp] theorem setCluster_applies (s : State) (c : Nat) (f : Cluster → Cluster) : (setCluster s c f).applies = s.applies := rfl
@[simp] theorem setCluster_commits (s : State) (c : Nat) (f : Cluster → Cluster) : (setCluster s c f).commits = s.commits := rfl
@[simp] theorem setCluster_pool (s : State) (c : Nat) (f : Cluster → Cluster) : (setCluster s c f).pool = s.pool := rfl
@[simp] theorem setCluster_flash (s : State) (c : Nat) (f : Cluster → Cluster) : (setCluster s c f).flash = s.flash := rfl
@[simp] theorem setCluster_flashMem (s : State) (c : Nat) (f : Cluster → Cluster) : (setCluster s c f).flashMem = s.flashMem := rfl
@[simp] theorem setCluster_decodeQ (s : State) (c : Nat) (f : Cluster → Cluster) : (setCluster s c f).decodeQ = s.decodeQ := rfl
@[simp] theorem setCluster_decoding (s : State) (c : Nat) (f : Cluster → Cluster) : (setCluster s c f).decoding = s.decoding := rfl
@[simp] theorem setCluster_scLines (s : State) (c : Nat) (f : Cluster → Cluster) : (setCluster s c f).scLines = s.scLines := rfl
@[simp] theorem setCluster_aliased (s : State) (c : Nat) (f : Cluster → Cluster) : (setCluster s c f).aliased = s.aliased := rfl
@[simp] theorem setCluster_down (s : State) (c : Nat) (f : Cluster → Cluster) : (setCluster s c f).down = s.down := rfl
@[simp] theorem setCluster_sent (s : State) (c : Nat) (f : Cluster → Cluster) : (setCluster s c f).sent = s.sent := rfl

/-! ## setApply -/

@[simp] theorem setApply_clk (s : State) (c : Nat) (f : Apply → Apply) : (setApply s c f).clk = s.clk := rfl
@[simp] theorem setApply_fresh (s : State) (c : Nat) (f : Apply → Apply) : (setApply s c f).fresh = s.fresh := rfl
@[simp] theorem setApply_nextKey (s : State) (c : Nat) (f : Apply → Apply) : (setApply s c f).nextKey = s.nextKey := rfl
@[simp] theorem setApply_issued (s : State) (c : Nat) (f : Apply → Apply) : (setApply s c f).issued = s.issued := rfl
@[simp] theorem setApply_closed (s : State) (c : Nat) (f : Apply → Apply) : (setApply s c f).closed = s.closed := rfl
@[simp] theorem setApply_pfWrites (s : State) (c : Nat) (f : Apply → Apply) : (setApply s c f).pfWrites = s.pfWrites := rfl
@[simp] theorem setApply_cfgNext (s : State) (c : Nat) (f : Apply → Apply) : (setApply s c f).cfgNext = s.cfgNext := rfl
@[simp] theorem setApply_rebind (s : State) (c : Nat) (f : Apply → Apply) : (setApply s c f).rebind = s.rebind := rfl
@[simp] theorem setApply_unbound (s : State) (c : Nat) (f : Apply → Apply) : (setApply s c f).unbound = s.unbound := rfl
@[simp] theorem setApply_agenda (s : State) (c : Nat) (f : Apply → Apply) : (setApply s c f).agenda = s.agenda := rfl
@[simp] theorem setApply_mem (s : State) (c : Nat) (f : Apply → Apply) : (setApply s c f).mem = s.mem := rfl
@[simp] theorem setApply_csr (s : State) (c : Nat) (f : Apply → Apply) : (setApply s c f).csr = s.csr := rfl
@[simp] theorem setApply_bad (s : State) (c : Nat) (f : Apply → Apply) : (setApply s c f).bad = s.bad := rfl
@[simp] theorem setApply_l2 (s : State) (c : Nat) (f : Apply → Apply) : (setApply s c f).l2 = s.l2 := rfl
@[simp] theorem setApply_beams (s : State) (c : Nat) (f : Apply → Apply) : (setApply s c f).beams = s.beams := rfl
@[simp] theorem setApply_blocks (s : State) (c : Nat) (f : Apply → Apply) : (setApply s c f).blocks = s.blocks := rfl
@[simp] theorem setApply_gangs (s : State) (c : Nat) (f : Apply → Apply) : (setApply s c f).gangs = s.gangs := rfl
@[simp] theorem setApply_grids (s : State) (c : Nat) (f : Apply → Apply) : (setApply s c f).grids = s.grids := rfl
@[simp] theorem setApply_cores (s : State) (c : Nat) (f : Apply → Apply) : (setApply s c f).cores = s.cores := rfl
@[simp] theorem setApply_clusters (s : State) (c : Nat) (f : Apply → Apply) : (setApply s c f).clusters = s.clusters := rfl
@[simp] theorem setApply_queues (s : State) (c : Nat) (f : Apply → Apply) : (setApply s c f).queues = s.queues := rfl
@[simp] theorem setApply_accepting (s : State) (c : Nat) (f : Apply → Apply) : (setApply s c f).accepting = s.accepting := rfl
@[simp] theorem setApply_bins (s : State) (c : Nat) (f : Apply → Apply) : (setApply s c f).bins = s.bins := rfl
@[simp] theorem setApply_commits (s : State) (c : Nat) (f : Apply → Apply) : (setApply s c f).commits = s.commits := rfl
@[simp] theorem setApply_pool (s : State) (c : Nat) (f : Apply → Apply) : (setApply s c f).pool = s.pool := rfl
@[simp] theorem setApply_flash (s : State) (c : Nat) (f : Apply → Apply) : (setApply s c f).flash = s.flash := rfl
@[simp] theorem setApply_flashMem (s : State) (c : Nat) (f : Apply → Apply) : (setApply s c f).flashMem = s.flashMem := rfl
@[simp] theorem setApply_decodeQ (s : State) (c : Nat) (f : Apply → Apply) : (setApply s c f).decodeQ = s.decodeQ := rfl
@[simp] theorem setApply_decoding (s : State) (c : Nat) (f : Apply → Apply) : (setApply s c f).decoding = s.decoding := rfl
@[simp] theorem setApply_scLines (s : State) (c : Nat) (f : Apply → Apply) : (setApply s c f).scLines = s.scLines := rfl
@[simp] theorem setApply_aliased (s : State) (c : Nat) (f : Apply → Apply) : (setApply s c f).aliased = s.aliased := rfl
@[simp] theorem setApply_down (s : State) (c : Nat) (f : Apply → Apply) : (setApply s c f).down = s.down := rfl
@[simp] theorem setApply_sent (s : State) (c : Nat) (f : Apply → Apply) : (setApply s c f).sent = s.sent := rfl

/-! ## setChan -/

@[simp] theorem setChan_clk (s : State) (g c : Nat) (f : Chan → Chan) : (setChan s g c f).clk = s.clk := rfl
@[simp] theorem setChan_fresh (s : State) (g c : Nat) (f : Chan → Chan) : (setChan s g c f).fresh = s.fresh := rfl
@[simp] theorem setChan_nextKey (s : State) (g c : Nat) (f : Chan → Chan) : (setChan s g c f).nextKey = s.nextKey := rfl
@[simp] theorem setChan_issued (s : State) (g c : Nat) (f : Chan → Chan) : (setChan s g c f).issued = s.issued := rfl
@[simp] theorem setChan_closed (s : State) (g c : Nat) (f : Chan → Chan) : (setChan s g c f).closed = s.closed := rfl
@[simp] theorem setChan_pfWrites (s : State) (g c : Nat) (f : Chan → Chan) : (setChan s g c f).pfWrites = s.pfWrites := rfl
@[simp] theorem setChan_cfgNext (s : State) (g c : Nat) (f : Chan → Chan) : (setChan s g c f).cfgNext = s.cfgNext := rfl
@[simp] theorem setChan_rebind (s : State) (g c : Nat) (f : Chan → Chan) : (setChan s g c f).rebind = s.rebind := rfl
@[simp] theorem setChan_unbound (s : State) (g c : Nat) (f : Chan → Chan) : (setChan s g c f).unbound = s.unbound := rfl
@[simp] theorem setChan_agenda (s : State) (g c : Nat) (f : Chan → Chan) : (setChan s g c f).agenda = s.agenda := rfl
@[simp] theorem setChan_mem (s : State) (g c : Nat) (f : Chan → Chan) : (setChan s g c f).mem = s.mem := rfl
@[simp] theorem setChan_csr (s : State) (g c : Nat) (f : Chan → Chan) : (setChan s g c f).csr = s.csr := rfl
@[simp] theorem setChan_bad (s : State) (g c : Nat) (f : Chan → Chan) : (setChan s g c f).bad = s.bad := rfl
@[simp] theorem setChan_l2 (s : State) (g c : Nat) (f : Chan → Chan) : (setChan s g c f).l2 = s.l2 := rfl
@[simp] theorem setChan_beams (s : State) (g c : Nat) (f : Chan → Chan) : (setChan s g c f).beams = s.beams := rfl
@[simp] theorem setChan_blocks (s : State) (g c : Nat) (f : Chan → Chan) : (setChan s g c f).blocks = s.blocks := rfl
@[simp] theorem setChan_grids (s : State) (g c : Nat) (f : Chan → Chan) : (setChan s g c f).grids = s.grids := rfl
@[simp] theorem setChan_cores (s : State) (g c : Nat) (f : Chan → Chan) : (setChan s g c f).cores = s.cores := rfl
@[simp] theorem setChan_clusters (s : State) (g c : Nat) (f : Chan → Chan) : (setChan s g c f).clusters = s.clusters := rfl
@[simp] theorem setChan_queues (s : State) (g c : Nat) (f : Chan → Chan) : (setChan s g c f).queues = s.queues := rfl
@[simp] theorem setChan_accepting (s : State) (g c : Nat) (f : Chan → Chan) : (setChan s g c f).accepting = s.accepting := rfl
@[simp] theorem setChan_bins (s : State) (g c : Nat) (f : Chan → Chan) : (setChan s g c f).bins = s.bins := rfl
@[simp] theorem setChan_applies (s : State) (g c : Nat) (f : Chan → Chan) : (setChan s g c f).applies = s.applies := rfl
@[simp] theorem setChan_commits (s : State) (g c : Nat) (f : Chan → Chan) : (setChan s g c f).commits = s.commits := rfl
@[simp] theorem setChan_pool (s : State) (g c : Nat) (f : Chan → Chan) : (setChan s g c f).pool = s.pool := rfl
@[simp] theorem setChan_flash (s : State) (g c : Nat) (f : Chan → Chan) : (setChan s g c f).flash = s.flash := rfl
@[simp] theorem setChan_flashMem (s : State) (g c : Nat) (f : Chan → Chan) : (setChan s g c f).flashMem = s.flashMem := rfl
@[simp] theorem setChan_decodeQ (s : State) (g c : Nat) (f : Chan → Chan) : (setChan s g c f).decodeQ = s.decodeQ := rfl
@[simp] theorem setChan_decoding (s : State) (g c : Nat) (f : Chan → Chan) : (setChan s g c f).decoding = s.decoding := rfl
@[simp] theorem setChan_scLines (s : State) (g c : Nat) (f : Chan → Chan) : (setChan s g c f).scLines = s.scLines := rfl
@[simp] theorem setChan_aliased (s : State) (g c : Nat) (f : Chan → Chan) : (setChan s g c f).aliased = s.aliased := rfl
@[simp] theorem setChan_down (s : State) (g c : Nat) (f : Chan → Chan) : (setChan s g c f).down = s.down := rfl
@[simp] theorem setChan_sent (s : State) (g c : Nat) (f : Chan → Chan) : (setChan s g c f).sent = s.sent := rfl

/-! ## What the changed field reads -/

@[simp] theorem draw_fresh (s : State) : (draw s).fresh = s.fresh + 1 := rfl
@[simp] theorem post_agenda (s : State) (d : Nat) (i : Instr) : (post s d i).agenda = s.agenda ++ [⟨s.clk + d, i⟩] := rfl
@[simp] theorem postFree_agenda (s : State) (d : Nat) (i : Instr) :
    (postFree s d i).agenda = s.agenda ++ [⟨s.clk + (1 + drawn s d), i⟩] := rfl

@[simp] theorem coreOf_setCore_same (s : State) (c : Nat) (f : Core → Core) : coreOf (setCore s c f) c = f (coreOf s c) := by
  simp [coreOf, setCore, lookD]

theorem coreOf_setCore_other (s : State) (c d : Nat) (f : Core → Core) (h : d ≠ c) : coreOf (setCore s c f) d = coreOf s d := by
  simp only [coreOf, setCore, lookD, look_put_other _ _ _ _ h]

theorem csrGet_csrPut (s : State) (p n : Nat) (v : Word) (q m : Nat) :
    csrGet (csrPut s p n v) q m = if csrKey q m = csrKey p n then v else csrGet s q m := by
  by_cases h : csrKey q m = csrKey p n <;> simp only [csrGet, csrPut, lookD, look_put, h, if_true, if_false]

@[simp] theorem csrGet_csrPut_same (s : State) (p n : Nat) (v : Word) : csrGet (csrPut s p n v) p n = v := by
  simp [csrGet_csrPut]

@[simp] theorem handleAt_setHandle_same (s : State) (c e : Nat) (f : Handle → Handle) :
    handleAt (setHandle s c e f) c e = f (handleAt s c e) := by
  simp [handleAt, setHandle, lookD]

@[simp] theorem queueOf_setQueue_same (s : State) (q : Nat) (f : QueueRun → QueueRun) :
    queueOf (setQueue s q f) q = f (queueOf s q) := by
  simp [queueOf, setQueue, lookD]

@[simp] theorem clusterOf_setCluster_same (s : State) (c : Nat) (f : Cluster → Cluster) :
    clusterOf (setCluster s c f) c = f (clusterOf s c) := by
  simp [clusterOf, setCluster, lookD]

@[simp] theorem applyOf_setApply_same (s : State) (c : Nat) (f : Apply → Apply) : applyOf (setApply s c f) c = f (applyOf s c) := by
  simp [applyOf, setApply, lookD]

/-- Changing what is there at a key keeps the keys rising. -/
theorem rising_alter {α : Type} (m : NMap α) (k : Nat) (f : α → α) (h : rising m = true) : rising (alter m k f) = true := by
  unfold alter; split
  · exact rising_put _ _ _ h
  · exact h

theorem look_alter {α : Type} (m : NMap α) (k j : Nat) (f : α → α) :
    look (alter m k f) j = if j = k then (look m k).map f else look m j := by
  unfold alter
  split
  · rename_i x h; rw [look_put]; split <;> simp_all
  · rename_i h; split
    · rename_i e; subst e; simp [h]
    · rfl

theorem rising_setBeam (s : State) (k : Nat) (b : Beam) (h : rising s.beams = true) : rising (setBeam s k b).beams = true :=
  rising_put _ _ _ h
theorem rising_onBeam (s : State) (k : Nat) (f : Beam → Beam) (h : rising s.beams = true) : rising (onBeam s k f).beams = true :=
  rising_alter _ _ _ h

end Sys2Proof.Machine
end

