-- ==== Sys2Proof/Laws/Perform.lean ====
section
/-!
SUPPORT. What performing, settling, releasing, acquiring and taking a trap can do: memory and its caches change, the one beam
changes, and the invariant stays.
-/
namespace Sys2Proof.Machine

open Sys2Proof

set_option Elab.async false

/-! ## Two laws -/

/-- Memory keeps its canonical form and the beams their order. -/
structure Keeps (s t : State) : Prop where
  mem : memWf s.mem = true → memWf t.mem = true
  beams : rising s.beams = true → rising t.beams = true

theorem Keeps.refl (s : State) : Keeps s s := ⟨id, id⟩
theorem Keeps.trans {s t u : State} (h : Keeps s t) (g : Keeps t u) : Keeps s u :=
  ⟨fun w => g.mem (h.mem w), fun w => g.beams (h.beams w)⟩
theorem Keeps.inv {s t : State} (h : Keeps s t) (i : Inv s) : Inv t := ⟨h.mem i.1, h.beams i.2⟩
theorem Keeps.of_eq {s t : State} (hm : t.mem = s.mem) (hb : t.beams = s.beams) : Keeps s t :=
  ⟨fun w => hm ▸ w, fun w => hb ▸ w⟩
theorem Keeps.foldl {α : Type} (f : State → α → State) (hf : ∀ s a, Keeps s (f s a)) :
    ∀ (l : List α) (s : State), Keeps s (l.foldl f s)
  | [], s => .refl s
  | a :: t, s => (hf s a).trans (Keeps.foldl f hf t (f s a))

theorem OnlyMemory.keeps {s t : State} (h : OnlyMemory s t) : Keeps s t := ⟨h.wf, fun w => by rw [h.beams]; exact w⟩

/-- The state t differs from s in what memory's operations change and in the beam k alone, and both canonical forms stay. -/
structure OnlyBeam (k : Nat) (s t : State) : Prop where
  keeps : Keeps s t
  same : t = { s with mem := t.mem, bad := t.bad, l2 := t.l2, cores := t.cores, aliased := t.aliased, fresh := t.fresh, beams := t.beams }
  others : ∀ j, j ≠ k → beamOf t j = beamOf s j

theorem OnlyBeam.refl (k : Nat) (s : State) : OnlyBeam k s s := ⟨.refl s, rfl, fun _ _ => rfl⟩

theorem OnlyBeam.trans {k : Nat} {s t u : State} (h : OnlyBeam k s t) (g : OnlyBeam k t u) : OnlyBeam k s u :=
  ⟨h.keeps.trans g.keeps, by rw [g.same, h.same], fun j hj => (g.others j hj).trans (h.others j hj)⟩

theorem OnlyMemory.beam {s t : State} (h : OnlyMemory s t) (k : Nat) : OnlyBeam k s t :=
  ⟨h.keeps, by rw [h.same], fun j _ => by simp only [beamOf, h.beams]⟩

theorem OnlyBeam.foldl {α : Type} {k : Nat} (f : State → α → State) (hf : ∀ s a, OnlyBeam k s (f s a)) :
    ∀ (l : List α) (s : State), OnlyBeam k s (l.foldl f s)
  | [], s => .refl k s
  | a :: t, s => (hf s a).trans (OnlyBeam.foldl f hf t (f s a))

/-- Any field that is neither memory's nor the beams'. -/
theorem OnlyBeam.field {k : Nat} {s t : State} {α : Type} (h : OnlyBeam k s t) (f : State → α)
    (hf : ∀ (s : State) m b l c a n x, f { s with mem := m, bad := b, l2 := l, cores := c, aliased := a, fresh := n, beams := x } = f s) : f t = f s := by
  rw [h.same, hf]

/-! ## Beams -/

theorem setBeam_only (s : State) (k : Nat) (b : Beam) : OnlyBeam k s (setBeam s k b) :=
  ⟨⟨id, fun w => rising_put _ _ _ w⟩, rfl, fun _ hj => beamOf_setBeam_other _ _ _ _ hj⟩

theorem onBeam_only (s : State) (k : Nat) (f : Beam → Beam) : OnlyBeam k s (onBeam s k f) := by
  cases h : beamOf s k with
  | none => rw [onBeam_none h]; exact .refl k s
  | some b => rw [onBeam_some h]; exact setBeam_only s k _

theorem onLanes_only (s : State) (k : Nat) (on : List Nat) (f : Nat → Lane → Lane) : OnlyBeam k s (onLanes s k on f) :=
  onBeam_only s k _

/-! ## Performing (R86, R159, R161) -/

theorem performLane_only (s : State) (core : Nat) (k : PendKind) (l : PendLane) : OnlyMemory s (performLane s core k l).2 := by
  cases k with
  | result => exact .refl s
  | parked => exact .refl s
  | again => exact .refl s
  | loadLocal n => exact .refl s
  | load n sc const =>
    have h := loadPath_only s core l.target sc const n
    unfold performLane; dsimp only
    generalize loadPath s core l.target sc const n = r at h
    obtain ⟨_ | v, t⟩ := r <;> exact h
  | atomic n op q =>
    have h := atomPath_only s core l.target n q (atomicNew op n l.data)
    unfold performLane; dsimp only
    generalize atomPath s core l.target n q (atomicNew op n l.data) = r at h
    obtain ⟨_ | v, t⟩ := r <;> exact h

theorem performLanes_only (core : Nat) (k : PendKind) : ∀ (l : List PendLane) (s : State), OnlyMemory s (performLanes core k s l).1
  | [], s => .refl s
  | a :: t, s => by
    have h := performLane_only s core k a
    unfold performLanes
    generalize performLane s core k a = r at h
    obtain ⟨_ | v, u⟩ := r <;> exact h.trans (performLanes_only core k t u)

theorem queueTrap_only (s : State) (k : Nat) (t : Trap) : OnlyBeam k s (queueTrap s k t) := onBeam_only s k _

theorem OnlyBeam.ite {k : Nat} {s t u : State} (h : OnlyBeam k s t) (g : OnlyBeam k s u) (c : Bool) :
    OnlyBeam k s (if c = true then t else u) := by
  cases c
  · exact g
  · exact h

theorem performPend_only (s : State) (k : Nat) (p : Pend) : OnlyBeam k s (performPend s k p) := by
  have h := fun f => ((performLanes_only (k / 64) p.kind p.lanes s).beam k).trans (onBeam_only _ k f)
  exact OnlyBeam.ite (.refl k s) (OnlyBeam.ite (h _) ((h _).trans (queueTrap_only _ k _)) _) _

theorem writePend_only (s : State) (k : Nat) (p : Pend) : OnlyBeam k s (writePend s k p) := onBeam_only s k _

theorem completePend_only (s : State) (k id : Nat) : OnlyBeam k s (completePend s k id) := by
  unfold completePend
  split
  · exact .refl k s
  · rename_i p _
    have h := performPend_only s k p
    dsimp only; split
    · split
      · exact h.trans (writePend_only _ k _)
      · exact h
    · exact h

theorem performWhere_only (s : State) (k : Nat) (f : Pend → Bool) : OnlyBeam k s (performWhere s k f) := by
  unfold performWhere; split
  · exact .refl k s
  · exact OnlyBeam.foldl _ (fun s p => performPend_only s k p) _ s

theorem redPiece_only (s : State) (core : Nat) (op : AtomOp) (q : QF) (p : Piece) : OnlyMemory s (redPiece s core op q p).1 := by
  have h := atomPath_only s core p.target p.bytes.length q fun old => some (atomNew op (8 * p.bytes.length) old (leNat p.bytes))
  unfold redPiece; dsimp only
  generalize atomPath s core p.target p.bytes.length q (fun old => some (atomNew op (8 * p.bytes.length) old (leNat p.bytes))) = r at h
  obtain ⟨_ | v, t⟩ := r
  · dsimp only at h ⊢
    split
    · exact h
    · split
      · exact h.trans (poison_only _ _ _)
      · exact h.trans (poison_only _ _ _)
  · exact h

theorem performPiece_only (core : Nat) (x : Store) (r : State × List (Nat × Nat)) (p : Piece) :
    OnlyMemory r.1 (performPiece core x r p).1 := by
  unfold performPiece; split
  · exact storePath_only _ _ _ _ _
  · exact .of_put _ _ _
  · exact redPiece_only _ _ _ _ _

theorem performPieces_only (core : Nat) (x : Store) : ∀ (l : List Piece) (r : State × List (Nat × Nat)),
    OnlyMemory r.1 (l.foldl (performPiece core x) r).1
  | [], r => .refl r.1
  | a :: t, r => (performPiece_only core x r a).trans (performPieces_only core x t (performPiece core x r a))

theorem performStore_only (s : State) (k : Nat) (x : Store) : OnlyBeam k s (performStore s k x) := by
  have h := fun f => ((performPieces_only (k / 64) x x.pieces (s, [])).beam k).trans (onBeam_only _ k f)
  exact OnlyBeam.ite (.refl k s) (OnlyBeam.ite (h _) ((h _).trans (queueTrap_only _ k _)) _) _

theorem drainWhere_only (s : State) (k : Nat) (f : Store → Bool) : OnlyBeam k s (drainWhere s k f) := by
  unfold drainWhere; split
  · exact .refl k s
  · exact OnlyBeam.foldl _ (fun s x => performStore_only s k x) _ s

theorem beforeAccess_only (s : State) (k : Nat) (sp : List Span) : OnlyBeam k s (beforeAccess s k sp) :=
  (drainWhere_only s k _).trans (performWhere_only _ k _)

/-! ## Releases and acquires (R147, R162, R169) -/

theorem performAll_only (s : State) (k : Nat) : OnlyBeam k s (performAll s k) :=
  (performWhere_only s k _).trans (drainWhere_only _ k _)

theorem releaseAt_only (s : State) (k : Nat) (sc : Scope) : OnlyBeam k s (releaseAt s k sc) :=
  (performAll_only s k).trans ((releaseCaches_only _ _ sc).beam k)

theorem acquireAt_only (s : State) (k : Nat) (sc : Scope) : OnlyBeam k s (acquireAt s k sc) :=
  (performWhere_only s k _).trans ((acquireCaches_only _ _ sc).beam k)

/-! ## Walks (R143) -/

/-- The state t differs from s in the cores' own parts, the agenda and the counters of the model alone: a walk is started, or a
fetch fills a line. -/
def OnlyWalks (s t : State) : Prop := t = { s with cores := t.cores, agenda := t.agenda, fresh := t.fresh, nextKey := t.nextKey }

theorem OnlyWalks.refl (s : State) : OnlyWalks s s := rfl
theorem OnlyWalks.trans {s t u : State} (h : OnlyWalks s t) (g : OnlyWalks t u) : OnlyWalks s u := by
  unfold OnlyWalks at *; rw [g, h]
theorem OnlyWalks.keeps {s t : State} (h : OnlyWalks s t) : Keeps s t := .of_eq (by rw [h]) (by rw [h])
theorem OnlyWalks.beams {s t : State} (h : OnlyWalks s t) : t.beams = s.beams := by rw [h]
theorem OnlyWalks.foldl {α : Type} (f : State → α → State) (hf : ∀ s a, OnlyWalks s (f s a)) :
    ∀ (l : List α) (s : State), OnlyWalks s (l.foldl f s)
  | [], s => .refl s
  | a :: t, s => (hf s a).trans (OnlyWalks.foldl f hf t (f s a))

theorem startWalks_only (s : State) (k : Nat) (sup write : Bool) (vas : List Nat) : OnlyWalks s (startWalks s k sup write vas) := by
  refine OnlyWalks.foldl _ (fun s va => ?_) vas s
  dsimp only; split
  · split <;> exact .refl _
  · split <;> exact .refl _

/-! ## Traps (R287, R288, R292) -/

theorem settling_only (s : State) (k : Nat) : OnlyBeam k s (settling s k).1 := by
  unfold settling; split
  · exact .refl k s
  · exact (drainWhere_only s k _).trans (OnlyBeam.foldl _ (fun s p => completePend_only s k _) _ _)

theorem settle_only (s : State) (k : Nat) : OnlyBeam k s (settle s k).1 := (settling_only s k).trans (onBeam_only _ k _)

theorem doubleRecord_keeps (s : State) (k code addr pc lvl : Nat) : Keeps s (doubleRecord s k code addr pc lvl) := by
  unfold doubleRecord; dsimp only; split
  · exact .refl s
  · exact .of_eq rfl rfl

theorem doubleTrap_keeps (s : State) (k code addr pc lvl : Nat) : Keeps s (doubleTrap s k code addr pc lvl) := by
  have h := doubleRecord_keeps s k code addr pc lvl
  unfold doubleTrap; dsimp only; split
  · exact h.trans ((onBeam_only _ k _).keeps.trans (.of_eq rfl rfl))
  · exact h

/-- Taking a trap keeps the canonical forms. -/
theorem takeTrap_keeps (s : State) (k : Nat) (t : Trap) : Keeps s (takeTrap s k t) := by
  unfold takeTrap
  split
  · exact .refl s
  · dsimp only
    split
    · exact doubleTrap_keeps s k _ _ _ _
    · have h := (settle_only s k).keeps
      generalize settle s k = r at h
      obtain ⟨s1, w⟩ := r
      dsimp only at h ⊢
      split
      · exact h
      · split
        · split
          · exact h.trans (doubleTrap_keeps s1 k _ _ _ _)
          · split
            · exact h.trans (doubleTrap_keeps s1 k _ _ _ _)
            · rename_i s2 h2
              exact h.trans ((supWrite_only _ _ _ _ _ _ _ h2).keeps.trans
                ((releaseCaches_only s2 _ _).keeps.trans (setBeam_only _ k _).keeps))
        · exact h.trans (doubleTrap_keeps s1 k _ _ _ _)

/-! ## Finishing (R85, R88, R90, R94) -/

theorem entryWalks_only (s : State) (k : Nat) : OnlyWalks s (entryWalks s k) := by
  unfold entryWalks; split
  · exact .refl s
  · dsimp only; split
    · split
      · exact startWalks_only s k _ _ _
      · exact .refl s
    · exact startWalks_only s k _ _ _

theorem raiseTrap_keeps (s : State) (k : Nat) (t : Trap) : Keeps s (raiseTrap s k t) := by
  unfold raiseTrap; split
  · exact takeTrap_keeps s k _
  · exact (entryWalks_only s k).keeps.trans (queueTrap_only _ k t).keeps

theorem completeDue_keeps (s : State) (k : Nat) : Keeps s (completeDue s k) := by
  refine Keeps.foldl _ (fun s d => ?_) _ s
  split
  · exact .refl s
  · split
    · split
      · exact (completePend_only s k _).keeps
      · exact .refl s
    · split
      · exact (drainWhere_only s k _).keeps
      · exact .refl s
    · exact .refl s

theorem firstTrap_keeps (s : State) (k : Nat) (t : Trap) (now later : State → State) (hn : ∀ s, Keeps s (now s))
    (hl : ∀ s, Keeps s (later s)) : Keeps s (firstTrap s k t now later) := by
  have h := completeDue_keeps s k
  unfold firstTrap; dsimp only; split
  · split
    · exact h.trans ((onBeam_only _ k _).keeps.trans ((hl _).trans (raiseTrap_keeps _ k _)))
    · exact h.trans (hn _)
  · exact h.trans (hn _)

theorem preciseTrap_keeps (s : State) (k : Nat) (t : Trap) : Keeps s (preciseTrap s k t) := by
  refine firstTrap_keeps s k t _ _ (fun s => ?_) fun s => .refl s
  split
  · exact takeTrap_keeps s k t
  · exact (entryWalks_only s k).keeps

theorem idleTrap_keeps (s : State) (k : Nat) (t : Trap) : Keeps s (idleTrap s k t) :=
  firstTrap_keeps s k t _ _ (fun s => raiseTrap_keeps s k t) fun s => .refl s

theorem afterTrap_keeps (s : State) (k : Nat) (t : Trap) : Keeps s (afterTrap s k t) :=
  firstTrap_keeps s k t _ _ (fun s => raiseTrap_keeps s k t) fun s => (queueTrap_only s k t).keeps

theorem settleRun_keeps (s : State) (k : Nat) : Keeps s (settleRun s k) := by
  unfold settleRun; split
  · exact .refl s
  · split
    · exact .refl s
    · split
      · exact idleTrap_keeps s k _
      · split
        · exact idleTrap_keeps s k _
        · exact .refl s

theorem retire_keeps (s : State) (k : Nat) : Keeps s (retire s k) := by
  have h := (onBeam_only s k fun b => { b with lastIssue := s.clk + 1, tried := s.clk + 1, told := [] }).keeps
  unfold retire; exact ⟨fun w => h.mem w, fun w => h.beams w⟩

/-- The state an effect leaves. -/
def Res.state : Res → State
  | .done s _ | .moved s | .hold s | .trap s _ | .after s _ => s

/-- Finishing an issue keeps the canonical forms. -/
theorem finish_keeps (x : Sel) (adv : Lane → Lane) (r : Res) : Keeps r.state (finish x adv r) := by
  cases r with
  | done s stay =>
    exact (onLanes_only s x.key _ _).keeps.trans ((retire_keeps _ _).trans (settleRun_keeps _ _))
  | moved s => exact (retire_keeps s _).trans (settleRun_keeps _ _)
  | hold s => exact (onBeam_only s x.key _).keeps
  | trap s t => exact (preciseTrap_keeps s _ t).trans (onBeam_only _ x.key _).keeps
  | after s t => exact (onLanes_only s x.key _ _).keeps.trans ((retire_keeps _ _).trans (afterTrap_keeps _ _ t))

/-- An issue answers only next states or the fault of no run, and keeps the canonical forms where its effect does. -/
theorem issue_keeps {len : Nat} {e : Effect} {s t : State} (he : ∀ x, Keeps s (e x s).state) (h : issue len e s = .next t) :
    Keeps s t := by
  unfold issue at h; split at h
  · cases h
  · cases h; exact (he _).trans (finish_keeps _ _ _)

/-- The full/empty checks keep what the effect keeps (R30, R31, R89). -/
theorem gated_keeps {x : Sel} {s : State} {ex : List Nat} {srcs dsts : List Use} {f : Res} (h : Keeps s f.state) :
    Keeps s (gated x s ex srcs dsts f).state := by
  unfold gated; split
  · exact h
  · exact .refl s
  · exact .refl s

theorem laneEffect_keeps (g : Guard) (srcs dsts : List Use) (f : Nat → Lane → Lane) (x : Sel) (s : State) :
    Keeps s (laneEffect g srcs dsts f x s).state := gated_keeps (onLanes_only s x.key _ f).keeps

theorem crossEffect_keeps (srcs dsts : List Use) (f : Sel → Nat → Lane → Lane) (x : Sel) (s : State) :
    Keeps s (crossEffect srcs dsts f x s).state := gated_keeps (onLanes_only s x.key _ _).keeps

/-! ## Fetching (R14, R24) -/

theorem codeLine_only (s : State) (k grid va : Nat) (told : List Told) (sup : Bool) :
    OnlyWalks s (codeLine s k grid va told sup).2 := by
  unfold codeLine; dsimp only
  split
  · exact .refl s
  · split
    · exact startWalks_only s k sup false _
    iterate 3 · exact .refl s
    · split
      · exact .refl s
      · split
        · exact .refl s
        · split
          · exact .refl s
          · dsimp only; split
            · exact .refl s
            · exact (rfl : OnlyWalks s (setCore s (k / 64) _))

theorem codeHalf_only (s : State) (k grid base pc : Nat) (told : List Told) (sup : Bool) :
    OnlyWalks s (codeHalf s k grid base pc told sup).2 := by
  have h := codeLine_only s k grid ((base + pc) % 2 ^ 64) told sup
  unfold codeHalf; dsimp only
  generalize codeLine s k grid ((base + pc) % 2 ^ 64) told sup = r at h
  obtain ⟨_ | _ | l, t⟩ := r <;> exact h

theorem fetchBytes_only (s : State) (k : Nat) (b : Beam) (pc : Nat) : OnlyWalks s (fetchBytes s k b pc).2 := by
  unfold fetchBytes
  generalize codeOf s k b = r
  obtain ⟨grid, base, size, sup⟩ := r
  dsimp only; split
  · exact startWalks_only s k true false _
  · split
    · exact .refl s
    · have h := codeHalf_only s k grid base pc b.told sup
      generalize codeHalf s k grid base pc b.told sup = r at h
      obtain ⟨_ | _ | l, t⟩ := r
      · exact h
      · exact h
      · dsimp only at h ⊢
        split
        · split
          · exact h
          · have h2 := codeHalf_only t k grid base (pc + 2) b.told sup
            generalize codeHalf t k grid base (pc + 2) b.told sup = q at h2
            obtain ⟨_ | _ | m, u⟩ := q <;> exact h.trans h2
        · exact h

theorem fetch_only (s : State) (x : Sel) : OnlyWalks s (fetch s x).2 := by
  have h := fetchBytes_only s x.key x.beam (selPc x).toNat
  unfold fetch
  generalize fetchBytes s x.key x.beam (selPc x).toNat = r at h
  obtain ⟨_ | _ | l, t⟩ := r
  · exact h
  · exact h
  · dsimp only at h ⊢
    split <;> exact h

end Sys2Proof.Machine
end

