-- ==== Sys2Proof/Tests/Slice0.lean ====
section
/-!
SUPPORT. Small tests: what the well-formedness checks refuse, words of the encoding tables decoded, one step on small states with
results from the spec's worked examples, and for every obligation with hypotheses a state and operands that meet them.
-/
namespace Sys2Proof.Tests

open Sys2Proof Sys2Proof.Machine

set_option maxRecDepth 100000
set_option Elab.async false

/-! ## Well-formedness refuses (R28, R29, R35, R36) -/

/-- One ill-formed term for each check: a range, an alignment, the guard, a mode, a size, an operation, an order. -/
def illFormed : List Instr :=
  [.movS 32 ⟨0, false⟩, .movS 0 ⟨32, false⟩, .movB32 ⟨8, false⟩ ⟨0, false⟩ 0, .movB32 ⟨0, true⟩ ⟨0, false⟩ 0,
   .movB32 .always ⟨64, false⟩ 0, .movB32 .always ⟨0, false⟩ 64, .movi 0 262144, .iaddi .always 128 ⟨0, false⟩ 0,
   .icmp32 false .eq ⟨0, false⟩ ⟨0, false⟩ 32, .icmp64 false .eq ⟨1, false⟩ ⟨0, false⟩ 0, .sel 16 ⟨0, false⟩ ⟨0, false⟩ 0,
   .lea 16 ⟨0, false⟩ ⟨0, false⟩ 0, .lea 0 ⟨0, false⟩ ⟨0, false⟩ 1, .idiv true false ⟨0, false⟩ ⟨3, false⟩ 0,
   .movB64 ⟨5, false⟩ 0, .frnd .always .sr ⟨0, false⟩ 0, .faddDirected .rne ⟨0, false⟩ ⟨0, false⟩ 0, .plop 16 0 0 0,
   .voteAny 32 0, .bra false 32 0, .brd false 0 262144, .split 16, .join 16, .call 32 0, .mcall 64 0 0 0, .ld32 .always 128 ⟨0, false⟩ 0,
   .ld64 .always 0 ⟨0, false⟩ 1, .ld128 .always 0 ⟨0, false⟩ 2, .ldlSized .b32 ⟨0, false⟩ 0, .ldOrdered .b32 ⟨.dev, .rel, false⟩ ⟨0, false⟩ 0,
   .ldOrdered .b32 ⟨.dev, .acq, true⟩ ⟨0, false⟩ 0, .stOrdered .b32 ⟨.dev, .acq, false⟩ ⟨0, false⟩ 0,
   .atom64 .addF32 .plain ⟨0, false⟩ 0, .red32 .exch .plain ⟨0, false⟩ 0, .acas64 .plain ⟨0, false⟩ 2, .fence .plain,
   .copy ⟨0, false⟩ 64, .btest .free 64 0, .aload ⟨0, false⟩ 24, .qcvt ⟨0, false⟩ 8, .scbs ⟨0, false⟩ ⟨0, false⟩ 8, .synbar 64,
   .rdsp .always .clk 1, .widf .always 6 0, .sysc .always 0 ⟨1, false⟩ 0, .bkpt .always 128, .csrr 0 262144, .mcload ⟨0, false⟩ 64]

theorem test_illFormed_refused : illFormed.all (fun i => !i.wf) = true := by decide +kernel

/-! ## Words of the encoding tables (R26, R27, R33, R34, R35) -/

/-- A word decodes to an instruction, which encodes as that word. -/
def reads (nbits : Nat) (p : Nat × Instr) : Bool :=
  decodeTableWord nbits p.1 == some p.2 && p.2.wf && encode p.2 == some (bytesLE (nbits / 8) p.1)

/-- MOV_S to FMAX_S. -/
theorem test_words_1 : [(0xE640, Instr.movS 18 ⟨25, true⟩), (0xE642, .iaddS 18 ⟨25, true⟩), (0xE644, .isubS 18 ⟨25, true⟩), (0xE646, .imulS
    18 ⟨25, true⟩), (0xE648, .andS 18 ⟨25, true⟩), (0xE64A, .orS 18 ⟨25, true⟩), (0xE64C, .xorS 18 ⟨25, true⟩), (0xE64E,
    .shlS 18 ⟨25, true⟩), (0xE650, .shrS 18 ⟨25, true⟩), (0xE652, .sraS 18 ⟨25, true⟩), (0xE654, .iminS 18 ⟨25, true⟩),
    (0xE656, .imaxS 18 ⟨25, true⟩), (0xE658, .faddS 18 ⟨25, true⟩), (0xE65A, .fsubS 18 ⟨25, true⟩), (0xE65C, .fmulS 18
    ⟨25, true⟩), (0xE65E, .fmaxS 18 ⟨25, true⟩)].all (reads 16) = true := by decide +kernel

/-- MOV_B32 to ROTL. -/
theorem test_words_2 : [(0xB00A0C01, Instr.movB32 ⟨3, true⟩ ⟨40, false⟩ 12), (0xA970CC03, .movi 12 173507), (0xA970CC05, .movhi 12 173507),
    (0xBA8A0C07, .iadd ⟨3, true⟩ ⟨20, true⟩ ⟨40, false⟩ 12), (0xBA8A0C09, .isub ⟨3, true⟩ ⟨20, true⟩ ⟨40, false⟩ 12),
    (0xBCAA0C0B, .iaddi ⟨3, true⟩ 101 ⟨40, false⟩ 12), (0xBA8A0C0D, .imul ⟨3, true⟩ ⟨20, true⟩ ⟨40, false⟩ 12),
    (0xBA8A0C0F, .imad ⟨3, true⟩ ⟨20, true⟩ ⟨40, false⟩ 12), (0xBA8A0C11, .and ⟨3, true⟩ ⟨20, true⟩ ⟨40, false⟩ 12),
    (0xBA8A0C13, .or ⟨3, true⟩ ⟨20, true⟩ ⟨40, false⟩ 12), (0xBA8A0C15, .xor ⟨3, true⟩ ⟨20, true⟩ ⟨40, false⟩ 12),
    (0xBA8A0C17, .andn ⟨3, true⟩ ⟨20, true⟩ ⟨40, false⟩ 12), (0xBA8A0C19, .shl ⟨3, true⟩ ⟨20, true⟩ ⟨40, false⟩ 12),
    (0xBA8A0C1B, .shr ⟨3, true⟩ ⟨20, true⟩ ⟨40, false⟩ 12), (0xBA8A0C1D, .sra ⟨3, true⟩ ⟨20, true⟩ ⟨40, false⟩ 12),
    (0xBA8A0C1F, .rotl ⟨3, true⟩ ⟨20, true⟩ ⟨40, false⟩ 12)].all (reads 32) = true := by decide +kernel

/-- IMIN_I32 to POPC_B32. -/
theorem test_words_3 : [(0xBA8A0C21, Instr.iminI32 ⟨3, true⟩ ⟨20, true⟩ ⟨40, false⟩ 12), (0xBA8A0C23, .imaxI32 ⟨3, true⟩ ⟨20, true⟩ ⟨40,
    false⟩ 12), (0xBA8A0C25, .iminZ32 ⟨3, true⟩ ⟨20, true⟩ ⟨40, false⟩ 12), (0xBA8A0C27, .imaxZ32 ⟨3, true⟩ ⟨20, true⟩
    ⟨40, false⟩ 12), (0xDA8A1B29, .icmp32 true .ge ⟨20, true⟩ ⟨40, false⟩ 27), (0xAA8A1B2B, .icmp64 true .lt ⟨20, true⟩
    ⟨40, false⟩ 27), (0xDA8A0C2D, .sel 13 ⟨20, true⟩ ⟨40, false⟩ 12), (0x9A8A0C2F, .lea 9 ⟨20, true⟩ ⟨40, false⟩ 12),
    (0x1A8A0C31, .imulh true ⟨20, true⟩ ⟨40, false⟩ 12), (0x5A8A0C33, .idiv true true ⟨20, true⟩ ⟨40, false⟩ 12),
    (0x7A8A0C33, .irem true true ⟨20, true⟩ ⟨40, false⟩ 12), (0xB00A0C35, .inegI32 ⟨3, true⟩ ⟨40, false⟩ 12),
    (0xB02A0C35, .iabsI32 ⟨3, true⟩ ⟨40, false⟩ 12), (0xB04A0C35, .notB32 ⟨3, true⟩ ⟨40, false⟩ 12), (0xB06A0C35,
    .clzB32 ⟨3, true⟩ ⟨40, false⟩ 12), (0xB08A0C35, .popcB32 ⟨3, true⟩ ⟨40, false⟩ 12)].all (reads 32) = true := by decide +kernel

/-- BREV to OR_B64. -/
theorem test_words_4 : [(0xB0AA0C35, Instr.brev ⟨3, true⟩ ⟨40, false⟩ 12), (0xB0CA0C35, .inegI64 ⟨3, true⟩ ⟨40, false⟩ 12), (0xB0EA0C35,
    .iabsI64 ⟨3, true⟩ ⟨40, false⟩ 12), (0xB10A0C35, .clzB64 ⟨3, true⟩ ⟨40, false⟩ 12), (0xB12A0C35, .popcB64 ⟨3, true⟩
    ⟨40, false⟩ 12), (0x1A8A0C37, .bfx true ⟨20, true⟩ ⟨40, false⟩ 12), (0x0A8A0C39, .bfi ⟨20, true⟩ ⟨40, false⟩ 12),
    (0x000A0C3B, .movB64 ⟨40, false⟩ 12), (0x1A8A0C3B, .isubI64 ⟨20, true⟩ ⟨40, false⟩ 12), (0x2A8A0C3B, .imulI64 ⟨20,
    true⟩ ⟨40, false⟩ 12), (0x3A8A0C3B, .iminI64 ⟨20, true⟩ ⟨40, false⟩ 12), (0x4A8A0C3B, .imaxI64 ⟨20, true⟩ ⟨40,
    false⟩ 12), (0x5A8A0C3B, .iminZ64 ⟨20, true⟩ ⟨40, false⟩ 12), (0x6A8A0C3B, .imaxZ64 ⟨20, true⟩ ⟨40, false⟩ 12),
    (0x7A8A0C3B, .andB64 ⟨20, true⟩ ⟨40, false⟩ 12), (0x8A8A0C3B, .orB64 ⟨20, true⟩ ⟨40, false⟩ 12)].all (reads 32) = true := by decide +kernel

/-- XOR_B64 to FRCP. -/
theorem test_words_5 : [(0x9A8A0C3B, Instr.xorB64 ⟨20, true⟩ ⟨40, false⟩ 12), (0xAA8A0C3B, .shlB64 ⟨20, true⟩ ⟨40, false⟩ 12), (0xBA8A0C3B,
    .shrB64 ⟨20, true⟩ ⟨40, false⟩ 12), (0xCA8A0C3B, .sraB64 ⟨20, true⟩ ⟨40, false⟩ 12), (0xBA8A0C3D, .iaddI64 ⟨3, true⟩
    ⟨20, true⟩ ⟨40, false⟩ 12), (0x000A0C3F, .gxld ⟨40, false⟩ 12), (0x1A8A003F, .gxst ⟨20, true⟩ ⟨40, false⟩),
    (0xBA8A0C41, .fadd ⟨3, true⟩ ⟨20, true⟩ ⟨40, false⟩ 12), (0xBA8A0C43, .fsub ⟨3, true⟩ ⟨20, true⟩ ⟨40, false⟩ 12),
    (0xBA8A0C45, .fmul ⟨3, true⟩ ⟨20, true⟩ ⟨40, false⟩ 12), (0xBA8A0C47, .ffma ⟨3, true⟩ ⟨20, true⟩ ⟨40, false⟩ 12),
    (0xBA8A0C49, .fmin ⟨3, true⟩ ⟨20, true⟩ ⟨40, false⟩ 12), (0xBA8A0C4B, .fmax ⟨3, true⟩ ⟨20, true⟩ ⟨40, false⟩ 12),
    (0xB00A0C4D, .fabs ⟨3, true⟩ ⟨40, false⟩ 12), (0xB02A0C4D, .fneg ⟨3, true⟩ ⟨40, false⟩ 12), (0xB04A0C4D, .frcp ⟨3,
    true⟩ ⟨40, false⟩ 12)].all (reads 32) = true := by decide +kernel

/-- FRSQ to PLOP. -/
theorem test_words_6 : [(0xB06A0C4D, Instr.frsq ⟨3, true⟩ ⟨40, false⟩ 12), (0xB08A0C4D, .fsqrt ⟨3, true⟩ ⟨40, false⟩ 12), (0xB0AA0C4D,
    .fexp2 ⟨3, true⟩ ⟨40, false⟩ 12), (0xB0CA0C4D, .flog2 ⟨3, true⟩ ⟨40, false⟩ 12), (0xB16A0C4D, .frnd ⟨3, true⟩ .rup
    ⟨40, false⟩ 12), (0x6A8A1B4F, .fcmp .un ⟨20, true⟩ ⟨40, false⟩ 27), (0xBA8A0C51, .fdiv ⟨3, true⟩ ⟨20, true⟩ ⟨40,
    false⟩ 12), (0x3A8A0C53, .faddDirected .sr ⟨20, true⟩ ⟨40, false⟩ 12), (0x4A8A0C53, .fsubDirected .rtz ⟨20, true⟩
    ⟨40, false⟩ 12), (0x9A8A0C53, .fmulDirected .rdn ⟨20, true⟩ ⟨40, false⟩ 12), (0xEA8A0C53, .ffmaDirected .rup ⟨20,
    true⟩ ⟨40, false⟩ 12), (0xBA8A0C55, .badd2 ⟨3, true⟩ ⟨20, true⟩ ⟨40, false⟩ 12), (0xBA8A0C57, .bmul2 ⟨3, true⟩ ⟨20,
    true⟩ ⟨40, false⟩ 12), (0xBA8A0C59, .bfma2 ⟨3, true⟩ ⟨20, true⟩ ⟨40, false⟩ 12), (0xB1EA0C5B, .cvt ⟨3, true⟩
    .e4m3F32Sr ⟨40, false⟩ 12), (0x83C4DF71, .plop 8 30 19 31)].all (reads 32) = true := by decide +kernel

/-- P2G to CALL. -/
theorem test_words_7 : [(0xB0000C73, Instr.p2g ⟨3, true⟩ 12), (0xB00A0075, .g2p ⟨3, true⟩ ⟨40, false⟩), (0x0004DF77, .voteAny 19 31),
    (0x1004DF77, .voteAll 19 31), (0x2004DF77, .voteBallot 19 31), (0x30001F77, .voteFirst 31), (0x2A8A0C79, .shfl .down
    ⟨20, true⟩ ⟨40, false⟩ 12), (0xBA8A0C7B, .perm ⟨3, true⟩ ⟨20, true⟩ ⟨40, false⟩ 12), (0xA00A0C7D, .redux .maxF32
    ⟨40, false⟩ 12), (0x400A0C7F, .scan .maxZ32 ⟨40, false⟩ 12), (0xFFFC6D81, .bra true 13 262129), (0xFFFC6D83, .brd
    true 13 262129), (0x00000B85, .split 11), (0x00000B87, .join 11), (0xB00A0089, .brx ⟨3, true⟩ ⟨40, false⟩),
    (0xFFFC5D8B, .call 29 262129)].all (reads 32) = true := by decide +kernel

/-- RET to ST_NARROW. -/
theorem test_words_8 : [(0xB00A008D, Instr.ret ⟨3, true⟩ ⟨40, false⟩), (0xB000008F, .exit ⟨3, true⟩), (0xFB246191, .mcall 33 17 50 62),
    (0xB0000093, .yield ⟨3, true⟩), (0x000A0095, .tape ⟨40, false⟩), (0x000A0C97, .launch ⟨40, false⟩ 12), (0xBB4A0CA1,
    .ld32 ⟨3, true⟩ 90 ⟨40, false⟩ 12), (0xBB4A0CA3, .ld64 ⟨3, true⟩ 90 ⟨40, false⟩ 12), (0xBB4A0CA5, .ld128 ⟨3, true⟩
    90 ⟨40, false⟩ 12), (0xBB4A0CA7, .st32 ⟨3, true⟩ 90 ⟨40, false⟩ 12), (0xBB4A0CA9, .st64 ⟨3, true⟩ 90 ⟨40, false⟩
    12), (0xBB4A0CAB, .st128 ⟨3, true⟩ 90 ⟨40, false⟩ 12), (0xBB4A0CAD, .ldl32 ⟨3, true⟩ 90 ⟨40, false⟩ 12),
    (0xBB4A0CAF, .stl32 ⟨3, true⟩ 90 ⟨40, false⟩ 12), (0x100A0CB1, .ldNarrow true ⟨40, false⟩ 12), (0x300A0CB1,
    .stNarrow true ⟨40, false⟩ 12)].all (reads 32) = true := by decide +kernel

/-- LDL_SIZED to COMMIT_GRID. -/
theorem test_words_9 : [(0x600A0CB1, Instr.ldlSized .b64 ⟨40, false⟩ 12), (0xA00A0CB1, .stlSized .b64 ⟨40, false⟩ 12), (0xD00A0CB1, .ldc
    true ⟨40, false⟩ 12), (0xE00A00B1, .pref ⟨40, false⟩), (0xF00A00B1, .cflush ⟨40, false⟩), (0x464A0CB3, .ldOrdered
    .b128 ⟨.dev, .acq, false⟩ ⟨40, false⟩ 12), (0x4A8A0CB5, .stOrdered .b128 ⟨.sys, .rel, false⟩ ⟨40, false⟩ 12),
    (0x74EA0CB7, .atom32 .maxF32 ⟨.gang, .acqrel, true⟩ ⟨40, false⟩ 12), (0xB92A0CB9, .atom64 .exch ⟨.pod, .sc, true⟩
    ⟨40, false⟩ 12), (0x128A0CBB, .red32 .addF32 ⟨.blk, .rel, false⟩ ⟨40, false⟩ 12), (0xA70A0CBD, .red64 .xor ⟨.dev,
    .sc, false⟩ ⟨40, false⟩ 12), (0x006A0CBF, .acas32 ⟨.bm, .acq, true⟩ ⟨40, false⟩ 12), (0x1A0A0CBF, .acas64 ⟨.sys,
    .relaxed, false⟩ ⟨40, false⟩ 12), (0x24C000BF, .fence ⟨.gang, .acqrel, false⟩), (0x000000C1, .commitBlk),
    (0x100000C1, .commitGrid)].all (reads 32) = true := by decide +kernel

/-- COMMIT_POD to QCVT. -/
theorem test_words_10 : [(0x200000C1, Instr.commitPod), (0x00000CC3, .dstat 12), (0x000A25C5, .copy ⟨40, false⟩ 37), (0x100A25C5, .offl ⟨40,
    false⟩ 37), (0x200A25C5, .recallCopy ⟨40, false⟩ 37), (0x300A25C5, .decode ⟨40, false⟩ 37), (0x000025C7, .bfree 37),
    (0x300947C7, .btest .full 37 7), (0x500025C7, .bwaitFree 37), (0x600025C7, .bwaitFull 37), (0x000A25D1, .mma ⟨40,
    false⟩ 37), (0x100A25D1, .mmaSig ⟨40, false⟩ 37), (0x000A17D3, .aload ⟨40, false⟩ 23), (0x100A17D3, .acvt ⟨40,
    false⟩ 23), (0x200017D3, .aclr 23), (0x300A05D3, .qcvt ⟨40, false⟩ 5)].all (reads 32) = true := by decide +kernel

/-- SCBS to BKPT. -/
theorem test_words_11 : [(0x0A8A07D5, Instr.scbs ⟨20, true⟩ ⟨40, false⟩ 7), (0x000A00D7, .sig ⟨40, false⟩), (0x100A00D7, .sbwd ⟨40, false⟩),
    (0x000A00D9, .rtab ⟨40, false⟩), (0x100A00D9, .rule ⟨40, false⟩), (0x200A00D9, .rgen ⟨40, false⟩), (0x000009E1,
    .synbar 9), (0x100009E1, .synarv 9), (0x200A2CE1, .synput ⟨40, false⟩ 44), (0x300B0CE1, .synget 44 12), (0xB0000CE3,
    .rand ⟨3, true⟩ 12), (0xB1000CE5, .rdsp ⟨3, true⟩ .dtime 12), (0xB0800CE7, .widf ⟨3, true⟩ 4 12), (0xBCAA0CF1, .sysc
    ⟨3, true⟩ 101 ⟨40, false⟩ 12), (0x000000F3, .tret), (0xBCA000F5, .bkpt ⟨3, true⟩ 101)].all (reads 32) = true := by decide +kernel

/-- CSRR to MCLOAD. -/
theorem test_words_12 : [(0xA970CCF7, Instr.csrr 12 173507), (0xA970CCF9, .csrw 12 173507), (0x000000FB, .tlbinvAll), (0x100A00FB,
    .tlbinvPage ⟨40, false⟩), (0x000A2DFD, .mcload ⟨40, false⟩ 45)].all (reads 32) = true := by decide +kernel

/-- The words that the spec writes out itself beside its assembly. -/
theorem test_words_of_the_spec : [(0x00018095, Instr.tape ⟨6, false⟩), (0x00018397, .launch ⟨6, false⟩ 3), (0x00040181, .bra false 1 16),
    (0xFFFEA281, .bra true 2 0x3FFFA), (0x30E18507, .iadd ⟨3, false⟩ ⟨7, false⟩ ⟨6, false⟩ 5), (0x00000185, .split 1), (0x00000087, .join 0),
    (0x30030089, .brx ⟨3, false⟩ ⟨12, false⟩), (0x00081E8B, .call 30 32), (0x0007808D, .ret .always ⟨30, false⟩),
    (0x002009E5, .rdsp .always .lane 9), (0x00E004E5, .rdsp .always .clk 4), (0x004009E7, .widf .always 2 9),
    (0x1101C631, .imulh true ⟨8, false⟩ ⟨7, false⟩ 6), (0xA1628129, .icmp32 true .lt ⟨11, false⟩ ⟨10, false⟩ 1),
    (0x4120842F, .lea 4 ⟨9, false⟩ ⟨2, false⟩ 4), (0x01C34C47, .ffma .always ⟨14, false⟩ ⟨13, false⟩ 12),
    (0x30A10353, .faddDirected .sr ⟨5, false⟩ ⟨4, false⟩ 3), (0x0141855B, .cvt .always .e4m3F32 ⟨6, false⟩ 5),
    (0x40404371, .plop 4 2 1 3), (0x30000677, .voteFirst 6), (0x8002097D, .redux .addF32 ⟨8, false⟩ 9), (0x0002CA3F, .gxld ⟨11, false⟩ 10),
    (0x1182C03F, .gxst ⟨12, false⟩ ⟨11, false⟩), (0x000004E3, .rand .always 4)].all (reads 32) = true := by decide +kernel

theorem test_memory_and_system_words_of_the_spec : [(0x004187AD, Instr.ldl32 .always 2 ⟨6, false⟩ 7),
    (0x268108B5, .stOrdered .b32 ⟨.dev, .rel, false⟩ ⟨4, false⟩ 8), (0x000106B1, .ldNarrow false ⟨4, false⟩ 6),
    (0x060106B7, .atom32 .add ⟨.dev, .relaxed, false⟩ ⟨4, false⟩ 6), (0x100108BB, .red32 .addF32 .plain ⟨4, false⟩ 8),
    (0x06610ABF, .acas32 ⟨.dev, .acq, true⟩ ⟨4, false⟩ 10), (0x268000BF, .fence ⟨.dev, .rel, false⟩), (0x000005C3, .dstat 5),
    (0x100183C5, .offl ⟨6, false⟩ 3), (0x200184C5, .recallCopy ⟨6, false⟩ 4), (0x3001C5C5, .decode ⟨7, false⟩ 5),
    (0x000181D1, .mma ⟨6, false⟩ 1), (0x100181D1, .mmaSig ⟨6, false⟩ 1), (0x012103D5, .scbs ⟨9, false⟩ ⟨4, false⟩ 3),
    (0x006106F1, .sysc .always 3 ⟨4, false⟩ 6), (0x012000F5, .bkpt .always 9), (0x00C0C5F7, .csrr 5 0x303), (0x00C086F9, .csrw 6 0x302),
    (0x000185FD, .mcload ⟨6, false⟩ 5)].all (reads 32) = true := by decide +kernel

/-- R36: the check that refuses a word, by its number. -/
theorem test_words_refused : (decodeWord 0x0000005D = .error .reservedOpcode ∧ decodeWord 0x000000FF = .error .reservedOpcode) ∧
    (decodeWord 0x60000029 = .error .reservedSubOp ∧ decodeWord 0x00E0004D = .error .reservedSubOp ∧
      decodeWord 0x0200005B = .error .reservedSubOp ∧ decodeWord 0x100000B9 = .error .reservedSubOp ∧ decodeWord 0xC00000B7 = .error .reservedSubOp) ∧
    (decodeWord 0x80000007 = .error .badField ∧ decodeWord 0x0000413B = .error .badField ∧
      decodeWord 0x0000013B = .error .badField ∧ decodeWord 0x000000BF ≠ .error .badField ∧ decodeWord 0x200000BF = .error .badField ∧
      decodeWord 0x00001085 = .error .badField ∧ decodeWord 0x00C000E7 = .error .badField ∧ decodeWord 0x002000E3 = .error .badField ∧
      decodeWord 0x00200095 = .error .badField ∧ decodeWord 0x000018D3 = .error .badField) := by decide +kernel

/-! ## Small states -/

/-- A hand-placed program's beam, its 32 lanes at the first instruction. -/
def user : State := placeCode State.reset []
/-- The same with lane 0 alone, the others exited. -/
def one : State := onLanes user 0 ((upTo 32).drop 1) fun _ l => { l with state := .exited }
/-- A register given a value in every lane. -/
def withReg (s : State) (r : Nat) (f : Nat → Word) : State := onLanes s 0 (upTo 32) fun i l => laneSet l r (f i)
/-- The same, one value. -/
def withVal (s : State) (r : Nat) (v : Word) : State := withReg s r fun _ => v
/-- A register empty in lane 0. -/
def withEmpty (s : State) (r : Nat) : State := onLanes s 0 [0] fun _ l => laneEmpty l r 1
/-- A predicate set in lane 0. -/
def withPred (s : State) (p : Nat) : State := onLanes s 0 [0] fun _ l => laneSetPred l p true
/-- The run whose turn it is. -/
def sel (s : State) : Sel := (selected s).getD ⟨0, beamStart 0 0 0, []⟩
/-- No die link carries traffic (R321): core 0 reaches the device memory of its own quarter alone. -/
def cutOff (s : State) : State := csrPut s 0 0x520 0
/-- A dirty byte of sector 0 whose home lies in quarter 1. -/
def farDirty (s : State) : State := { cutOff s with l2 := put s.l2 (l2Key 0 0 0x80000000) (0, 1) }
/-- What an instruction leaves in a lane. -/
def laneAfter (s : State) (i : Instr) (lane : Nat) : Option Lane :=
  match exec i s with
  | .next t => (beamOf t 0).map fun b => laneOf b lane
  | .fault _ | .refused _ => none
/-- What it leaves in a register of a lane, and the lane's FSTAT. -/
def regAfter (s : State) (i : Instr) (lane r : Nat) : Option (Word × Word) := (laneAfter s i lane).map fun l => (laneReg l r, l.fstat)
/-- The results that wait to be written after it. -/
def pendAfter (s : State) (i : Instr) : List (QWord × Word) :=
  match exec i s with
  | .next t => ((beamOf t 0).map fun b => b.pend.flatMap fun p => p.lanes.map fun l => (l.res, l.flags)).getD []
  | .fault _ | .refused _ => []

theorem user_turn : Turn user (sel user) := by decide +kernel
theorem one_turn : Turn one (sel one) := by decide +kernel

/-! ## Results from the worked examples of the spec -/

/-- R110: g7 = g8 = 0x8000_0000. -/
theorem test_imulh : regAfter (withVal (withVal one 7 0x80000000) 8 0x80000000) (.imulh true ⟨8, false⟩ ⟨7, false⟩ 6) 0 6 = some (0x40000000, 0) ∧
    regAfter (withVal (withVal one 7 0x80000000) 8 0x80000000) (.imulh false ⟨8, false⟩ ⟨7, false⟩ 6) 0 6 = some (0x40000000, 0) := by decide +kernel
/-- R111: -7 by 2. -/
theorem test_division : pendAfter (withVal (withVal one 7 0xFFFFFFF9) 8 2) (.idiv false false ⟨8, false⟩ ⟨7, false⟩ 6) = [(0xFFFFFFFD, 0)] ∧
    pendAfter (withVal (withVal one 7 0xFFFFFFF9) 8 2) (.irem false false ⟨8, false⟩ ⟨7, false⟩ 6) = [(0xFFFFFFFF, 0)] ∧
    pendAfter (withVal (withVal one 7 0xFFFFFFF9) 8 2) (.idiv false true ⟨8, false⟩ ⟨7, false⟩ 6) = [(0x7FFFFFFC, 0)] := by decide +kernel
/-- R115: a = 0xB40, pos 6, len 4. -/
theorem test_bfx : regAfter (withVal (withVal one 7 0xB40) 8 0x406) (.bfx false ⟨8, false⟩ ⟨7, false⟩ 6) 0 6 = some (0xD, 0) ∧
    regAfter (withVal (withVal one 7 0xB40) 8 0x406) (.bfx true ⟨8, false⟩ ⟨7, false⟩ 6) 0 6 = some (0xFFFFFFFD, 0) := by decide +kernel
/-- R118: a = 2^32, g9 = -3, sh = 4. -/
theorem test_lea : regAfter (withVal (withVal one 3 1) 9 0xFFFFFFFD) (.lea 4 ⟨9, false⟩ ⟨2, false⟩ 4) 0 4 = some (0xFFFFFFD0, 0) ∧
    regAfter (withVal (withVal one 3 1) 9 0xFFFFFFFD) (.lea 4 ⟨9, false⟩ ⟨2, false⟩ 4) 0 5 = some (0, 0) := by decide +kernel
/-- R125: (1.0, 2.0) + (1.0, 1.0). -/
theorem test_badd2 : regAfter (withVal (withVal one 7 0x40003F80) 8 0x3F803F80) (.badd2 .always ⟨8, false⟩ ⟨7, false⟩ 6) 0 6 =
    some (0x40404000, 0) := by decide +kernel
/-- The four rows of CVT.e4m3.f32 (R126); OF, UF and NX are bits 2, 3 and 4 of FSTAT, R54. -/
theorem test_cvt_e4m3 : regAfter (withVal one 6 0x43FA0000) (.cvt .always .e4m3F32 ⟨6, false⟩ 5) 0 5 = some (0x7E, 0x14) ∧
    regAfter (withVal one 6 0x3C23D70A) (.cvt .always .e4m3F32 ⟨6, false⟩ 5) 0 5 = some (5, 0x18) ∧
    regAfter (withVal one 6 0x7FC00000) (.cvt .always .e4m3F32 ⟨6, false⟩ 5) 0 5 = some (0x7F, 0) ∧
    regAfter (withVal one 6 0xFF800000) (.cvt .always .e4m3F32 ⟨6, false⟩ 5) 0 5 = some (0xFE, 4) := by decide +kernel
/-- R131: two sign-extended halfwords. -/
theorem test_perm : regAfter (withVal (withVal one 7 0x80FF) 8 0x9810) (.perm .always ⟨8, false⟩ ⟨7, false⟩ 6) 0 6 = some (0xFFFF80FF, 0) := by decide +kernel
/-- R132, R133: the two orders of the sum of 2^24 and 31 ones. -/
theorem test_two_orders :
    let s := withReg user 8 fun i => if i = 0 then 0x4B800000 else 0x3F800000
    (regAfter s (.redux .addF32 ⟨8, false⟩ 9) 31 9).map (fun p => p.1) = some 0x4B80000F ∧
      (regAfter s (.scan .addF32 ⟨8, false⟩ 10) 31 10).map (fun p => p.1) = some 0x4B800000 := by decide +kernel
/-- R130: SHFL.xor with 1 exchanges the lanes of a pair. -/
theorem test_shfl : regAfter (withVal (withReg user 7 fun i => BitVec.ofNat 32 i) 20 1) (.shfl .xor ⟨20, false⟩ ⟨7, false⟩ 7) 4 7 = some (5, 0) := by decide +kernel
/-- The stream `A2 24 07 85 E1 30 81 A2 FE FF` of the worked example in 02_encoding.md. -/
theorem test_stream : decodeBytes [0xA2, 0x24, 0x07, 0x85] = .ok (.iaddS 5 ⟨9, false⟩, 2) ∧
    decodeBytes [0x07, 0x85, 0xE1, 0x30, 0x81] = .ok (.iadd ⟨3, false⟩ ⟨7, false⟩ ⟨6, false⟩ 5, 4) ∧
    decodeBytes [0x81, 0xA2, 0xFE, 0xFF] = .ok (.bra true 2 0x3FFFA, 4) ∧ target 0x46 0x3FFFA = 0x3A := by decide +kernel

/-! ## Witnesses: encoding and the step -/

theorem witness_DecodeOfEncode : (Instr.iadd ⟨3, true⟩ ⟨63, true⟩ ⟨6, false⟩ 5).wf = true ∧
    encode (.iadd ⟨3, true⟩ ⟨63, true⟩ ⟨6, false⟩ 5) = some [0x07, 0x85, 0xE1, 0xBF] := by decide +kernel
theorem witness_EncodeOfDecode : decodeBytes [0xA2, 0x24] = .ok (.iaddS 5 ⟨9, false⟩, 2) := by decide +kernel
/-- No event of either kind is due, the clock is open, and no trap waits. -/
def idle (s : State) : Bool :=
  (takeDue (fun i => !late i) s.clk s.agenda).isNone && (takeLate s.clk s.agenda).isNone && !s.closed && (trapDue s).isNone
theorem witness_step_due : takeDue (fun i => !late i) user.clk (post user 0 (.gangDeal 0)).agenda = some (.gangDeal 0, []) ∧
    takeDue (fun i => !late i) user.clk (post user 0 (.producerComplete 0 0 7)).agenda = none ∧
    takeLate user.clk (post user 0 (.producerComplete 0 0 7)).agenda = some (.producerComplete 0 0 7, []) := by decide +kernel
theorem witness_step_trap : let s := onBeam user 0 fun b => { b with waiting := [(0, trapOf (sel user) 0x0C)] }
    takeDue (fun i => !late i) s.clk s.agenda = none ∧ s.closed = false ∧ trapDue s = some (0, trapOf (sel user) 0x0C, []) := by decide +kernel
theorem witness_step_decodes : let s := placeCode State.reset [0xA2, 0x24]
    idle s = true ∧ selected s = some (sel s) ∧
      (match fetchBytes s 0 (sel s).beam (selPc (sel s)).toNat with
      | (some (.ok l), _) => decide (decodeBytes l = .ok (.iaddS 5 ⟨9, false⟩, 2))
      | (some (.error _), _) | (none, _) => false) = true := by decide +kernel
theorem witness_step_refuses : let s := placeCode State.reset [0x5D, 0, 0, 0]
    idle s = true ∧ selected s = some (sel s) ∧
      (match fetchBytes s 0 (sel s).beam (selPc (sel s)).toNat with
      | (some (.ok l), _) => decide (decodeBytes l = .error .reservedOpcode)
      | (some (.error _), _) | (none, _) => false) = true := by decide +kernel
theorem witness_step_cannot_fetch : let s := onLanes user 0 (upTo 32) fun _ l => { l with pc := 4096 }
    idle s = true ∧ selected s = some (sel s) ∧
      (match fetchBytes s 0 (sel s).beam (selPc (sel s)).toNat with
      | (some (.ok _), _) | (none, _) => false
      | (some (.error e), _) => decide (e = .outside)) = true := by decide +kernel
/-- No translation of the code in the TLB: the beam waits for the walk. -/
theorem witness_step_waits : let s := setCore user 0 fun c => { c with tlb := [] }
    idle s = true ∧ selected s = some (sel s) ∧ (fetchBytes s 0 (sel s).beam (selPc (sel s)).toNat).1 = none := by decide +kernel
theorem witness_step_idle : idle State.reset = true ∧ selected State.reset = none ∧ ({ user with closed := true } : State).closed = true := by decide +kernel
theorem witness_StepKeepsInvariant : Inv user ∧ (match step user with
    | .next _ => true
    | .fault _ | .refused _ => false) = true := by decide +kernel
theorem witness_SelectedBeamStands : Inv user ∧ selected user = some (sel user) := by decide +kernel
theorem witness_LeastRecentlyIssuedFirst : selected user = some (sel user) ∧ (0, (sel user).beam) ∈ user.beams ∧
    candidate user 0 (sel user).beam = true ∧ poolOf 0 = poolOf (sel user).key := by decide +kernel

/-! ## Witnesses: lane instructions -/

theorem witness_MovesAndSelect : ∃ i o, MoveOp (sel user) i o ∧ Turn user (sel user) ∧ o.ready (sel user) = true :=
  ⟨_, _, .movi 63 0x3FFFF, user_turn, by decide +kernel⟩
theorem witness_IntegerArithmetic : ∃ i o, ArithOp (sel user) i o ∧ Turn user (sel user) ∧ o.ready (sel user) = true :=
  ⟨_, _, .imad .always ⟨1, false⟩ ⟨2, false⟩ 5, user_turn, by decide +kernel⟩
theorem witness_LogicShiftsAndBits : ∃ i o, LogicOp (sel user) i o ∧ Turn user (sel user) ∧ o.ready (sel user) = true :=
  ⟨_, _, .rotl .always ⟨1, false⟩ ⟨2, false⟩ 5, user_turn, by decide +kernel⟩
theorem witness_IntegerCompares : ∃ i o, CompareOp (sel user) i o ∧ Turn user (sel user) ∧ o.ready (sel user) = true :=
  ⟨_, _, .icmp32 true .lt ⟨11, false⟩ ⟨10, false⟩ 1, user_turn, by decide +kernel⟩
theorem witness_FloatOperations : ∃ i o, FloatOp (sel user) i o ∧ Turn user (sel user) ∧ o.ready (sel user) = true ∧ o.dsts ≠ [] :=
  ⟨_, _, .ffma .always ⟨1, false⟩ ⟨2, false⟩ 5, user_turn, by decide +kernel, by decide +kernel⟩
theorem witness_DirectedAndConversions : ∃ i o, DirectedOp user (sel user) i o ∧ Turn user (sel user) ∧ o.ready (sel user) = true :=
  ⟨_, _, .cvt .always .e4m3F32Sr ⟨6, false⟩ 5, user_turn, by decide +kernel⟩
theorem witness_PredicatesAndVotes : ∃ i o, PredOp (sel user) i o ∧ Turn user (sel user) ∧ o.ready (sel user) = true :=
  ⟨_, _, .voteFirst 31, user_turn, by decide +kernel⟩
theorem witness_CrossLane : ∃ i o, CrossOp (sel user) i o ∧ Turn user (sel user) ∧ o.ready (sel user) = true :=
  ⟨_, _, .redux .addF32 ⟨8, false⟩ 9, user_turn, by decide +kernel⟩
theorem witness_RandomAndIdentity : ∃ i o, NamedOp user (sel user) i o ∧ Turn user (sel user) ∧ o.ready (sel user) = true :=
  ⟨_, _, .rand .always 4, user_turn, by decide +kernel⟩
theorem witness_ShortForms : ∃ i o, ShortOp (sel user) i o ∧ Turn user (sel user) ∧ o.ready (sel user) = true :=
  ⟨_, _, .iaddS 5 ⟨9, false⟩, user_turn, by decide +kernel⟩
theorem witness_PredicateAndFloatFrame : ∃ o, CompareOp (sel user) (.icmp32 true .lt ⟨11, false⟩ ⟨10, false⟩ 31) o ∧ Turn user (sel user) ∧
    o.ready (sel user) = true := ⟨_, .icmp32 true .lt ⟨11, false⟩ ⟨10, false⟩ 31, user_turn, by decide +kernel⟩
/-- Each clause: a source that waits, a source that traps, a destination whose producer has not finished. -/
theorem witness_EmptySourcesWaitOrTrap : Turn (withEmpty user 2) (sel (withEmpty user 2)) ∧
    (execLanes (sel (withEmpty user 2)) .always).filter (fun j => (laneOf (sel (withEmpty user 2)).beam j).empty.contains 2) = [0] ∧
    (execLanes (sel (withEmpty user 2)) .always).filter (fun j => (laneOf (sel (withEmpty user 2)).beam j).empty.contains 3) = [] := by decide +kernel
/-- A division that has issued and not completed. -/
def dividing : State :=
  match exec (.idiv false true ⟨8, false⟩ ⟨7, false⟩ 6) (withVal one 8 2) with
  | .next t => { t with clk := t.clk + 1, issued := [] }
  | .fault _ | .refused _ => one
theorem witness_pending_destination : Turn dividing (sel dividing) ∧ pendingWrite (sel dividing).beam (execLanes (sel dividing) .always) (regUse 6 1) = true := by
  decide

/-! ## Witnesses: producers -/

/-- A state whose beam sits in its block, gang and grid. -/
def Home (s : State) : Prop := ∃ bl ga gr, homeOf s (sel s).beam = some (bl, ga, gr) ∧ gr.depth = 16 ∧ allot gr = 128 ∧ bl.leave = .none
theorem home_of {s : State} (h : homeOf s (sel s).beam = some (handBlock 2, handGang 1 3, handGrid)) : Home s :=
  ⟨_, _, _, h, rfl, rfl, rfl⟩
theorem user_home : Home user := home_of (by decide +kernel)

theorem witness_DivisionsIssue : let s := withVal (withVal user 8 2) 10 1
    Turn s (sel s) ∧ ready (sel s) (sel s).run [srcUse ⟨6, false⟩ 1, srcUse ⟨8, false⟩ 1] [regUse 12 1] = true ∧
      (∀ j ∈ (sel s).run, laneReg (laneOf (sel s).beam j) 8 ≠ 0) ∧
      ready (sel s) (sel s).run [srcUse ⟨6, false⟩ 2, srcUse ⟨10, false⟩ 2] [regUse 12 2] = true ∧
      ∀ j ∈ (sel s).run, lanePair (laneOf (sel s).beam j) 10 ≠ 0 := by decide +kernel
theorem witness_DivisionByZeroTraps : Turn user (sel user) ∧
    ready (sel user) (sel user).run [srcUse ⟨6, false⟩ 1, srcUse ⟨8, false⟩ 1] [regUse 12 1] = true ∧
    (sel user).run.filter (fun j => laneReg (laneOf (sel user).beam j) 8 == 0) ≠ [] := by decide +kernel
/-- GXLD at its lowest and at its highest index. -/
theorem witness_FdivAndGxldIssue : let s := withVal (withVal user 8 64) 9 111
    Turn s (sel s) ∧ Home s ∧ ready (sel s) (execLanes (sel s) .always) [srcUse ⟨6, false⟩ 1, srcUse ⟨8, false⟩ 1] [regUse 12 1] = true ∧
      ∀ a, a = 8 ∨ a = 9 → ready (sel s) (sel s).run [srcUse ⟨a, false⟩ 1] [regUse 12 1] = true ∧
        ∀ j ∈ (sel s).run, 64 ≤ (laneReg (laneOf (sel s).beam j) a).toNat ∧ (laneReg (laneOf (sel s).beam j) a).toNat < 128 - 16 :=
  ⟨by decide +kernel, home_of (by decide +kernel), by decide +kernel, fun a h => by obtain h | h := h <;> subst h <;> decide +kernel⟩
/-- GXST inside the range, at 63 and at A - D. -/
theorem witness_IndexedStores : ∀ v, v = (64 : Word) ∨ v = 63 ∨ v = 112 → let s := withVal one 8 v
    Turn s (sel s) ∧ Home s ∧ ready (sel s) (sel s).run [srcUse ⟨8, false⟩ 1, srcUse ⟨9, false⟩ 1] [] = true ∧
      ((sel s).run.filter (fun j => decide ((laneReg (laneOf (sel s).beam j) 8).toNat < 64 ∨
        128 - 16 ≤ (laneReg (laneOf (sel s).beam j) 8).toNat)) = [] ↔ v = 64) := by
  intro v h
  obtain h | h | h := h <;> subst h <;> exact ⟨by decide +kernel, home_of (by decide +kernel), by decide +kernel, by decide +kernel⟩

/-- An unfinished instruction of lane 0 into g12. -/
def unfinished (k : PendKind) (target : Nat) : Pend := ⟨7, 0, 0, none, 1, 12, 1, k, [⟨0, 0x200, target, 5, 9, 0⟩]⟩
/-- A beam that has it. -/
def withPend (k : PendKind) (target : Nat) : State := onBeam one 0 fun b => { b with pend := [unfinished k target] }
theorem witness_ProducersComplete : ∀ k, k ∈ [PendKind.result, .loadLocal 4, .load 4 .bm false, .atomic 4 (some .add) .plain, .parked 0, .again 1] →
    ∃ b, beamOf (withPend k 0x200) (64 * 0 + 0) = some b ∧ b.pend.find? (fun q => q.id == 7) = some (unfinished k 0x200) ∧
      0 < b.lanes.length := by
  intro k h
  simp only [List.mem_cons, List.not_mem_nil, or_false] at h
  obtain h | h | h | h | h | h := h <;> subst h <;> exact ⟨_, rfl, by decide +kernel, by decide +kernel⟩
theorem witness_load_performs : (loadPath one 0 0x200 .bm false 4).1 = some [0, 0, 0, 0] ∧
    (atomPath one 0 0x200 4 .plain (atomicNew (some .add) 4 5)).1 = some 0 := by decide +kernel
/-- R152: a bad block. -/
theorem witness_load_fails : (loadPath (poison one 0 0x200) 0 0x200 .bm false 4).1 = none := by decide +kernel

/-! ## Witnesses: control -/

/-- A branch with one condition in all lanes, and with two. -/
theorem witness_BranchUniform : (Turn user (sel user) ∧ ∀ i ∈ (sel user).run, ∀ j ∈ (sel user).run,
      (lanePred (laneOf (sel user).beam i) 1 != false) = (lanePred (laneOf (sel user).beam j) 1 != false)) ∧
    let s := withPred user 1
    Turn s (sel s) ∧ ∃ i ∈ (sel s).run, ∃ j ∈ (sel s).run,
      (lanePred (laneOf (sel s).beam i) 1 != false) ≠ (lanePred (laneOf (sel s).beam j) 1 != false) :=
  ⟨⟨user_turn, by decide +kernel⟩, by decide +kernel, 0, by decide +kernel, 1, by decide +kernel, by decide +kernel⟩
/-- R25: the largest displacements. -/
theorem test_target : target 0x100 0x1FFFF = 0x400FE ∧ target 0x100 0x20000 = 0xFFFC0100 := by decide +kernel
theorem witness_IndirectBranchCallReturn : Turn user (sel user) ∧ ready (sel user) (sel user).run [srcUse ⟨12, false⟩ 1] [] = true ∧
    ready (sel user) (sel user).run [] [regUse 31 1] = true ∧ (∀ i ∈ (sel user).run, ∀ j ∈ (sel user).run,
      laneReg (laneOf (sel user).beam i) 12 = laneReg (laneOf (sel user).beam j) 12) := by decide +kernel
theorem witness_SplitSavesTheRun : Turn user (sel user) ∧ Home user := ⟨user_turn, user_home⟩

/-- A join on j15, whose mask register is g127: lane 0 is at it; the mask and lane 1 are given. -/
def joining (mask : Word) (f : Lane → Lane) : State :=
  onLanes (onLanes (withVal user 127 mask) 0 ((upTo 32).drop 2) fun _ l => { l with state := .exited }) 0 [1] fun _ l => f l
theorem witness_join_completes : let s := joining 1 fun l => { l with pc := 8 }
    Turn s (sel s) ∧ Home s ∧ (sel s).run = [0] ∧ (∀ i ∈ (sel s).run, (laneOf (sel s).beam i).pc = selPc (sel s) ∧ i < (sel s).beam.lanes.length) ∧
      lanesIn (sel s).beam .parked = [] ∧ ∀ i < 32, bit (laneReg (laneOf (sel s).beam 0) 127).toNat i = true → i ∈ (sel s).run :=
  ⟨by decide +kernel, home_of (by decide +kernel), by decide +kernel, by decide +kernel, by decide +kernel, by decide +kernel⟩
theorem witness_join_waits : let s := joining 3 fun l => { l with pc := 8 }
    Turn s (sel s) ∧ Home s ∧ (sel s).run = [0] ∧ bit (laneReg (laneOf (sel s).beam 0) 127).toNat 1 = true ∧
      (laneOf (sel s).beam 1).state = .runnable ∧ 1 ∉ (sel s).run :=
  ⟨by decide +kernel, home_of (by decide +kernel), by decide +kernel, by decide +kernel, by decide +kernel, by decide +kernel⟩
theorem witness_join_parked : let s := joining 3 fun l => { l with state := .parked }
    Turn s (sel s) ∧ Home s ∧ lanesIn (sel s).beam .parked = [1] ∧ bit (laneReg (laneOf (sel s).beam 0) 127).toNat 1 = true :=
  ⟨by decide +kernel, home_of (by decide +kernel), by decide +kernel, by decide +kernel⟩

/-- EXIT: of every lane, of some, of none (p0 reads 1, R29), with an empty register, with a parked lane. -/
theorem witness_ExitEndsLanes : (Turn one (sel one) ∧ Home one ∧ execLanes (sel one) .always = [0] ∧
      ∀ i < (sel one).beam.lanes.length, (laneOf (sel one).beam i).state = .exited ∨ i ∈ execLanes (sel one) .always) ∧
    (let s := withPred user 1;
      Turn s (sel s) ∧ execLanes (sel s) ⟨1, false⟩ = [0] ∧ 1 ∈ lanesIn (sel s).beam .runnable ∧ execLanes (sel s) ⟨2, false⟩ = []) ∧
    (laneOf (sel (withEmpty one 2)).beam 0).empty = [2] :=
  ⟨⟨one_turn, home_of (by decide +kernel), by decide +kernel, by decide +kernel⟩, by decide +kernel, by decide +kernel⟩

/-- The beam once the lanes of an EXIT have exited. -/
def left (s : State) : Beam :=
  beamLanes (sel s).beam (sel s).run fun i l => if i ∈ execLanes (sel s) .always then { l with state := .exited } else { l with pc := l.pc + 4 }
/-- Lane 1 waits at join 15: with a mask of both lanes, which the exit of lane 0 opens. -/
theorem witness_exit_opens : let s := joining 3 fun l => { l with state := .waiting, jidx := 15 }
    Turn s (sel s) ∧ execLanes (sel s) .always = [0] ∧ lanesIn (left s) .runnable = [] ∧ lanesIn (left s) .waiting = [1] ∧ Opens (left s) handGrid 1 ∧
      (∀ i ∈ execLanes (sel s) .always, (laneOf (sel s).beam i).empty = []) :=
  ⟨by decide +kernel, by decide +kernel, by decide +kernel, by decide +kernel, by unfold Opens AtSameJoin; decide +kernel, by decide +kernel⟩
/-- Lanes 1 and 2 wait at joins 15 and 14, each for the other. -/
def crossed : State :=
  onLanes (withVal (joining 6 fun l => { l with state := .waiting, jidx := 15 }) 126 6) 0 [2] fun _ l => { l with state := .waiting, jidx := 14 }
theorem witness_exit_leaves_waiting : Turn crossed (sel crossed) ∧ lanesIn (left crossed) .runnable = [] ∧ lanesIn (left crossed) .waiting = [1, 2] ∧
    ∀ j ∈ lanesIn (left crossed) .waiting, ¬ Opens (left crossed) handGrid j :=
  ⟨by decide +kernel, by decide +kernel, by decide +kernel, by unfold Opens AtSameJoin; decide +kernel⟩

/-- Macro 3 of one step in the control store: IADD g5, P0, P1. -/
def macro3 : State :=
  setCore (onLanes one 0 [0] fun _ l => { l with min := true }) 0 fun c => { c with clen := [(3, 1)], cstore := [(96, 0x07CF4507)] }
theorem witness_MacroStep : let s := macro3
    let x := sel s
    Turn s x ∧ Home s ∧ selMin x = true ∧ selMstep (enterBody x) = 0 ∧ lookD (coreOf s (selCore x)).clen 3 0 = 1 ∧
      bodyOpcode ((lookD (coreOf s (selCore x)).cstore (32 * 3 + 0) 0).toNat / 2 % 128) = true ∧
      decodeMacroWord 10 11 12 (lookD (coreOf s (selCore x)).cstore (32 * 3 + 0) 0).toNat = .ok (.iadd .always ⟨11, false⟩ ⟨10, false⟩ 5) ∧
      (op2 4 (enterBody x) .always ⟨11, false⟩ ⟨10, false⟩ 5 fun a b => a + b).ready (enterBody x) = true :=
  ⟨by decide +kernel, home_of (by decide +kernel), by decide +kernel, by decide +kernel, by decide +kernel, by decide +kernel, by decide +kernel, by decide +kernel⟩
/-- The body's end, where MCALL traps inside a macro. -/
theorem witness_macro_traps : selMin (sel macro3) = true ∧ lookD (coreOf macro3 (selCore (sel macro3))).clen 4 0 ≤ selMstep (enterBody (sel macro3)) := by decide +kernel

/-! ## Witnesses: memory instructions -/

/-- Lane 0 with the address v in g2:g3 and the data 5 in g12. -/
def at_ (s : State) (v : Word) : State := withVal (withVal s 2 v) 12 5
/-- The translations of a form. -/
def hitsOf (s : State) (f : MemForm) (write : Bool) (m : Nat) : List GLane := (f.hits s (sel s) (selSup (sel s)) write m).getD []
/-- A form's lanes all translate, at least one, and meet no lock. -/
def Hits (s : State) (f : MemForm) (write atom : Bool) (m : Nat) : Prop :=
  Turn s (sel s) ∧ f.hits s (sel s) (selSup (sel s)) write m = some (hitsOf s f write m) ∧ hitsOf s f write m ≠ [] ∧
    noLock s (sel s) f.n write (hitsOf s f write m) = true ∧ Untouched (sel s).beam (spansOf (hitsOf s f write m) f.n) ∧
    Reaches s (sel s) f.q f.n write atom (hitsOf s f write m)

theorem untouched_of {b : Beam} (sp : List Span) (h : b.pend = [] ∧ b.stores = []) : Untouched b sp := by
  intro a _; rw [h.1, h.2]; exact ⟨by simp, by simp⟩
theorem reaches_of {s : State} {x : Sel} {q : QF} {n : Nat} {write atom : Bool} {ls : List GLane}
    (h : (ls.all fun g => canReach s (selCore x) g.x q.scope write atom) = true ∧
      syncReady s x.key { loadOp n q with prm := q.prm } ls = true) : Reaches s x q n write atom ls :=
  ⟨fun g hg => List.all_eq_true.mp h.1 g hg, h.2⟩

/-- The last word of the page. -/
theorem witness_LoadsIssue : ∀ v, v = (0x200 : Word) ∨ v = 0xFFFC → let s := at_ one v
    let f : MemForm := ⟨execLanes (sel s) .always, 4, sext 7 0 * 4, .plain, ⟨2, false⟩, 13⟩
    LoadForm (sel s) (.ld32 .always 0 ⟨2, false⟩ 13) f false ∧ Hits s f false false 0 ∧
      ready (sel s) f.lanes [srcUse f.a 2] [regUse f.d (regsOf f.n)] = true ∧
      (∀ g ∈ hitsOf s f false 0, loadCheck (selCore (sel s)) f.n false (selSup (sel s)) s g.x g.ea = none) ∧
      acquires f.q.order = false ∧ ∀ g ∈ hitsOf s f false 0, g.x.apc ≠ 3 := by
  intro v h
  obtain h | h := h <;> subst h <;>
    exact ⟨.ld32 .always 0 ⟨2, false⟩ 13, ⟨by decide +kernel, by decide +kernel, by decide +kernel, by decide +kernel, untouched_of _ (by decide +kernel), reaches_of (by decide +kernel)⟩, by decide +kernel, by decide +kernel,
      by decide +kernel, by decide +kernel⟩
/-- ATOM in every order class of the statement: relaxed, and a release. -/
theorem witness_AtomicsIssue : ∀ q, q = QF.plain ∨ q = ⟨.dev, .acqrel, true⟩ → let s := at_ one 0x200
    let f : MemForm := ⟨(sel s).run, 4, 0, q, ⟨2, false⟩, 12⟩
    AtomForm (sel s) (.atom32 .add q ⟨2, false⟩ 12) f (some .add) 1 ∧ Hits s f true true 1 ∧
      ready (sel s) (sel s).run [srcUse f.a 2, regUse f.d 1] [regUse f.d (f.n / 4)] = true ∧
      (∀ g ∈ hitsOf s f true 1, atomCheck (selCore (sel s)) (selSup (sel s)) (some .add) s g.x g.ea = none) ∧
      accessOpen (beforeAccess (if releases q.order then releaseAt s (sel s).key q.scope else s) (sel s).key (spansOf (hitsOf s f true 1) 4))
        0 (.atomic 4 (some .add) q) ((hitsOf s f true 1).map fun g => targetOf g.x) = true := by
  intro q h
  obtain h | h := h <;> subst h <;>
    exact ⟨.atom32 .add _ ⟨2, false⟩ 12, ⟨by decide +kernel, by decide +kernel, by decide +kernel, by decide +kernel, untouched_of _ (by decide +kernel), reaches_of (by decide +kernel)⟩, by decide +kernel, by decide +kernel, by decide +kernel⟩
theorem witness_StoresIssue : ∀ q, q = QF.plain ∨ q = ⟨.dev, .rel, false⟩ → let s := at_ one 0x200
    let f : MemForm := ⟨execLanes (sel s) .always, 4, 0, q, ⟨2, false⟩, 12⟩
    StoreForm (sel s) (.stOrdered .b32 q ⟨2, false⟩ 12) f ∧ Hits s f true false (regsOf f.n) ∧ Home s ∧
      ready (sel s) f.lanes [srcUse f.a 2, regUse f.d (regsOf f.n)] [] = true ∧ (∀ g ∈ hitsOf s f true 1, g.x.d = false ∧ g.x.apc ≠ 3) ∧
      (∀ g ∈ hitsOf s f true 1, storeCheck (selCore (sel s)) f.n (selSup (sel s)) s g.x g.ea = none) ∧
      ∀ g ∈ hitsOf s f true 1, canReach (beforeAccess (releaseAt s (sel s).key .dev) (sel s).key (spansOf (hitsOf s f true 1) 4)) 0 g.x q.scope true false = true := by
  intro q h
  obtain h | h := h <;> subst h <;>
    exact ⟨.stOrdered .b32 _ ⟨2, false⟩ 12, ⟨by decide +kernel, by decide +kernel, by decide +kernel, by decide +kernel, untouched_of _ (by decide +kernel), reaches_of (by decide +kernel)⟩, home_of (by decide +kernel),
      by decide +kernel, by decide +kernel, by decide +kernel, by decide +kernel⟩

/-- The page is deferred. -/
def deferredPage (s : State) : State := setCore s 0 fun c => { c with tlb := [{ handPage with d := true }] }
/-- ST of 4 bytes, and RED, on a deferred page with room in the log. -/
theorem witness_DeferredStoresAppend : let s := deferredPage (at_ one 0x200)
    let f : MemForm := ⟨execLanes (sel s) .always, 4, 0, .plain, ⟨2, false⟩, 12⟩
    StoreForm (sel s) (.stOrdered .b32 .plain ⟨2, false⟩ 12) f ∧ RedForm (sel s) (.red32 .add .plain ⟨2, false⟩ 12) ⟨(sel s).run, 4, 0, .plain, ⟨2, false⟩, 12⟩ .add ∧
      f.lanes = (sel s).run ∧ Hits s f true false 1 ∧ Home s ∧ ready (sel s) f.lanes [srcUse f.a 2, regUse f.d (regsOf f.n)] [] = true ∧
      (∀ g ∈ hitsOf s f true 1, g.x.d = true ∧ channelFull s (selCore (sel s)) g.x = false) ∧ logRoom s (selCore (sel s)) 1 = true ∧
      releases f.q.order = false :=
  ⟨.stOrdered .b32 .plain ⟨2, false⟩ 12, .red32 .add .plain ⟨2, false⟩ 12, by decide +kernel,
    ⟨by decide +kernel, by decide +kernel, by decide +kernel, by decide +kernel, untouched_of _ (by decide +kernel), reaches_of (by decide +kernel)⟩, home_of (by decide +kernel), by decide +kernel, by decide +kernel, by decide +kernel, by decide +kernel⟩
theorem witness_ReductionsPerform : ∀ q, q = QF.plain ∨ q = ⟨.dev, .rel, false⟩ → let s := at_ one 0x200
    let f : MemForm := ⟨(sel s).run, 4, 0, q, ⟨2, false⟩, 12⟩
    RedForm (sel s) (.red32 .add q ⟨2, false⟩ 12) f .add ∧ Hits s f true true 1 ∧ Home s ∧
      ready (sel s) (sel s).run [srcUse f.a 2, regUse f.d (f.n / 4)] [] = true ∧ (∀ g ∈ hitsOf s f true 1, g.x.d = false) ∧
      (∀ g ∈ hitsOf s f true 1, redCheck (selCore (sel s)) (selSup (sel s)) .add s g.x g.ea = none) ∧
      (hitsOf s f true 1).length = 1 ∧
      storeOpen (beforeAccess (releaseAt s (sel s).key .dev) (sel s).key (spansOf (hitsOf s f true 1) 4)) 0
        ⟨0, .red .add q, q.scope, 0, none, 1, (hitsOf s f true 1).map fun g => ⟨g.lane, targetOf g.x, [5, 0, 0, 0]⟩⟩ = true := by
  intro q h
  obtain h | h := h <;> subst h <;>
    exact ⟨.red32 .add _ ⟨2, false⟩ 12, ⟨by decide +kernel, by decide +kernel, by decide +kernel, by decide +kernel, untouched_of _ (by decide +kernel), reaches_of (by decide +kernel)⟩, home_of (by decide +kernel), by decide +kernel,
      by decide +kernel, by decide +kernel, by decide +kernel, by decide +kernel⟩

/-- A buffered write of lane 0. -/
def written (kind : StoreKind) (target : Nat) : Store := ⟨7, kind, .bm, 0, none, 1, [⟨0, target, [1, 2, 3, 4]⟩]⟩
def withStore (kind : StoreKind) (target : Nat) (s : State) : State := onBeam s 0 fun b => { b with stores := [written kind target] }
theorem witness_StoresPerform : (∀ k, k = StoreKind.plain ∨ k = .loc ∨ k = .red .add .plain →
      (beamOf (withStore k (0x200 + 2 ^ 50) one) (64 * 0 + 0)).map (fun b => b.stores.filter fun z => z.id == 7) = some [written k (0x200 + 2 ^ 50)]) ∧
    (beamOf one (64 * 0 + 0)).map (fun b => b.stores.filter fun z => z.id == 7) = some [] := by
  refine ⟨?_, by decide +kernel⟩
  intro k h; obtain h | h | h := h <;> subst h <;> decide +kernel
/-- Both answers of a buffered RED: a sum, and a bad block. -/
theorem witness_reduction_answers : (atomPath one 0 0x200 4 .plain fun v => some (atomNew .add 32 v 5)).1 = some 0 ∧
    (atomPath (poison one 0 0x200) 0 0x200 4 .plain fun v => some (atomNew .add 32 v 5)).1 = none ∧ tgApc 0x200 = 0 := by decide +kernel
/-- A write and an access behind a closed link, and the same where the links are open (R321). -/
theorem witness_performed_or_waits : ∀ k, k = StoreKind.plain ∨ k = .red .add .plain →
    storeOpen one 0 (written k 0x80000000) = true ∧ storeOpen (cutOff one) 0 (written k 0x80000000) = false ∧
      accessOpen one 0 (.load 4 .bm false) [0x80000000] = true ∧ accessOpen (cutOff one) 0 (.load 4 .bm false) [0x80000000] = false := by
  intro k h; obtain h | h := h <;> subst h <;> decide +kernel
/-- R165, R159: a RED's sum is what a load at the same place reads. -/
theorem test_reduction_then_load : (match exec (.writePerformed 0 0 7) (withStore (.red .add .plain) 0x200 (outsideWrite one 0 0x200 [1, 0, 0, 0])) with
    | .next t => decide ((loadPath t 0 0x200 .bm false 4).1 = some [2, 2, 3, 4])
    | .fault _ | .refused _ => false) = true := by decide +kernel
/-- A performed store is what a load at the same place reads (R161). -/
theorem test_store_then_load : (match exec (.writePerformed 0 0 7) (withStore .plain (0x200 + 2 ^ 50) one) with
    | .next t => decide ((loadPath t 0 (0x200 + 2 ^ 50) .bm false 4).1 = some [1, 2, 3, 4])
    | .fault _ | .refused _ => false) = true := by decide +kernel

/-- Local accesses at the first byte and at the last word of the allocation of 64 KiB. -/
theorem witness_local_accesses : ∀ v, v = (0 : Word) ∨ v = 0xFFFC → let s := withVal one 6 v
    let f : MemForm := ⟨execLanes (sel s) .always, 4, sext 7 0 * 4, .plain, ⟨6, false⟩, 12⟩
    LocalLoadForm (sel s) (.ldl32 .always 0 ⟨6, false⟩ 12) f ∧ LocalStoreForm (sel s) (.stl32 .always 0 ⟨6, false⟩ 12) f ∧ Turn s (sel s) ∧
      homeOf s (sel s).beam = some (handBlock 2, handGang 1 3, handGrid) ∧
      ready (sel s) f.lanes [srcUse f.a 1] [regUse f.d (regsOf f.n)] = true ∧ ready (sel s) f.lanes [srcUse f.a 1, regUse f.d (regsOf f.n)] [] = true ∧
      ∀ j ∈ f.lanes, (f.la (sel s) j).toNat % f.n = 0 ∧
        localPlace s (handBlock 2) (handGang 1 3) handGrid (f.la (sel s) j).toNat f.n = some v.toNat ∧
        lockHit s (v.toNat / 4194304) true v.toNat f.n true = none ∧ lockHit s (v.toNat / 4194304) true v.toNat f.n false = none := by
  intro v h
  obtain h | h := h <;> subst h <;>
    exact ⟨.ldl32 .always 0 ⟨6, false⟩ 12, .stl32 .always 0 ⟨6, false⟩ 12, by decide +kernel, by decide +kernel, by decide +kernel, by decide +kernel, by decide +kernel⟩
theorem witness_FencesPrefetchesAndFlushes : let s := at_ one 0x200
    Turn s (sel s) ∧ (sel s).run = [0] ∧ ready (sel s) (sel s).run [srcUse ⟨2, false⟩ 2] [] = true ∧
      laneXlate s (sel s).key (sel s).beam (selSup (sel s)) true ⟨0, lanePair (laneOf (sel s).beam 0) 2 + dwordOf 0, 0⟩ =
        .ok ⟨0, lanePair (laneOf (sel s).beam 0) 2 + dwordOf 0, 0, ⟨0x200, 0, true, false, true⟩⟩ ∧
      lockHit s (selCore (sel s)) false ((lanePair (laneOf (sel s).beam 0) 2 + dwordOf 0).toNat / 128 * 128) 128 true = none ∧
      canReach s (selCore (sel s)) ⟨0x200, 0, true, false, true⟩ .dev true false = true ∧
      canReach s (selCore (sel s)) ⟨0x200, 0, true, false, true⟩ .gang false false = true ∧ earlierShut s (sel s).key [⟨false, 0x200, 128⟩] = false ∧
      syncShut (performAll s (sel s).key) (sel s).key .dev = false := by decide +kernel
/-- A misaligned lane; a page outside the TLB, for a walk; and an address that is not canonical, which parks lane 0 while lane 1 goes on. -/
theorem witness_AccessChecksInOrder :
    (let s := at_ one 0x201;
      Turn s (sel s) ∧ (execLanes (sel s) .always).find? (fun j => (lanePair (laneOf (sel s).beam j) 2).toNat % 4 != 0) = some 0) ∧
    (let s := at_ one 0x10000;
      walkLanes ((execLanes (sel s) .always).map fun j => laneXlate s (sel s).key (sel s).beam (selSup (sel s)) false
        ⟨j, lanePair (laneOf (sel s).beam j) 2, 0⟩) = [0x10000] ∧ (coreOf s 0).walks.length + 1 ≤ 32) ∧
    (let s := withVal (onLanes one 0 [1] fun _ l => { l with state := .runnable, pc := 8 }) 3 0x00800000;
      let r := (execLanes (sel s) .always).map fun j => laneXlate s (sel s).key (sel s).beam (selSup (sel s)) false
        ⟨j, lanePair (laneOf (sel s).beam j) 2, 0⟩;
      walkLanes r = [] ∧ okLanes r = [] ∧ 1 ∈ lanesIn (sel s).beam .runnable ∧ 1 ∉ execLanes (sel s) .always) ∧
    -- lanes 0 and 1 execute: lane 0 is parked, lane 1 passes every check
    (let s := onLanes (onLanes (at_ one 0x200) 0 [1] fun _ l => { l with state := .runnable }) 0 [0] fun _ l => laneSet l 3 0x00800000;
      let r := (execLanes (sel s) .always).map fun j => laneXlate s (sel s).key (sel s).beam (selSup (sel s)) false
        ⟨j, lanePair (laneOf (sel s).beam j) 2, 0⟩;
      execLanes (sel s) .always = [0, 1] ∧ walkLanes r = [] ∧ (badLanes r 0).map (fun p => p.1) = [0] ∧ (okLanes r).map (fun g => g.lane) = [1] ∧
        ((okLanes r).all fun g => (loadCheck (selCore (sel s)) 4 false (selSup (sel s)) s g.x g.ea).isNone && canReach s (selCore (sel s)) g.x .bm false false) = true ∧
        noLock s (sel s) 4 false (okLanes r) = true ∧ 1 ∈ lanesIn (sel s).beam .runnable) := by decide +kernel
/-- Page tables of partition 0 (R140): a root at 0x40000 and a level 2 table at 0x50000 with this leaf; and a user's read waits for it. -/
def tables (leaf : Nat) : State :=
  let s := setCore (csrPut one 0 0x100 0x40001) 0 fun c => { c with walks := [⟨9, 0x10000, [⟨0, false, false⟩]⟩] }
  let inner := 2 ^ 48 + 2 ^ 50 + 2 ^ 53
  outsideWrite (outsideWrite s 0 0x40000 (bytesLE 8 (0x50000 + inner))) 0 0x50000 (bytesLE 8 leaf)
/-- A leaf for users, which serves the read, and one for the supervisor, which does not. -/
def leafOf (v : Nat) : Option (Option Nat) :=
  match walkTables (tables v) (some 0) 0 0x10000 with
  | .leaf e => match applyLeaf (tables v) 0 e 0x10000 false false with
    | .ok _ => some none
    | .error f => some (some f.cause)
  | .fault _ | .bad _ | .shut => none
theorem witness_walk_leaves : leafOf (2 ^ 48 + 2 ^ 49 + 2 ^ 53) = some none ∧ leafOf (2 ^ 48 + 2 ^ 49) = some (some 2) := by decide +kernel
/-- A walk for the beam that asked: of an empty table, which fails. -/
def walking : State := setCore (csrPut one 0 0x100 1) 0 fun c => { c with walks := [⟨9, 0x10000, [⟨0, false, false⟩]⟩] }
theorem witness_WalksComplete : (coreOf walking 0).walks.find? (fun w => w.id == 9) = some ⟨9, 0x10000, [⟨0, false, false⟩]⟩ ∧
    (match walkTables walking (some (quarterOf 0)) (partOfCore walking 0) 0x10000 with
    | .fault _ => true
    | .leaf _ | .bad _ | .shut => false) = true ∧ (beamOf walking 0).isSome = true := by decide +kernel
/-- A walk that the core's engines asked for as well. -/
theorem witness_walk_of_engines : let s := setCore walking 0 fun c => { c with walks := [⟨9, 0x10000, [⟨0, false, false⟩, ⟨4096, false, true⟩]⟩] }
    ∃ w, (coreOf s 0).walks.find? (fun w => w.id == 9) = some w ∧ ∃ y ∈ w.wants, 4096 ≤ y.key :=
  ⟨_, rfl, ⟨4096, false, true⟩, by decide, by decide⟩
/-- The tables begin in another quarter, to which no die link is open (R321); or in a block that cannot be read (R152). -/
theorem witness_walk_waits : walkTables (csrPut (csrPut walking 0 0x100 0x80000001) 0 0x520 0) (some 0) 0 0x10000 = .shut ∧
    (match walkTables (poison walking 0 0) (some 0) 0 0x10000 with
    | .bad _ => true
    | .leaf _ | .fault _ | .shut => false) = true := by decide +kernel

/-! ## Witnesses: tape, launch and deferred memory -/

/-- A state with a grid that has a tape, whose limit is `lim`. -/
def taping (lim : Word) : State :=
  let s := withVal one 6 0
  csrPut (csrPut { s with grids := put s.grids 1 { handGrid with tapeon := true } } 0 (lq 0 8) lim) 0 (lq 0 10) 0x8000
/-- What TAPE finds once the beam's earlier accesses are performed: its records, and whether they fit. -/
def tapes (s : State) (gr : Grid) : Option (Nat × Bool) :=
  let u := releaseAt s (sel s).key .dev
  match eachLane (tapeLane (sel s) u (handBlock 2) (handGang 1 3) gr ⟨6, false⟩) (sel s).run with
  | .ok l => some (l.length, decide (lqTape u 0 10 + 256 * (sel s).run.length ≤ lqTape u 0 8))
  | .error _ => none
/-- The last record that fits, and the first that does not. -/
theorem witness_TAPE : ∀ lim, lim = (0x8100 : Word) ∨ lim = 0x80FF → let s := taping lim
    Turn s (sel s) ∧ homeOf s (sel s).beam = some (handBlock 2, handGang 1 3, { handGrid with tapeon := true }) ∧
      ready (sel s) (sel s).run [srcUse ⟨6, false⟩ 1] [] = true ∧ heldBack s (sel s) .dev = false ∧
      tapes s { handGrid with tapeon := true } = some (1, decide (lim = 0x8100)) := by
  intro lim h
  obtain h | h := h <;> subst h <;> decide +kernel
/-- An earlier load of a block that is uncorrectable, which reports before TAPE or LAUNCH (R152); a grid without a tape; a record outside
the allocation. -/
theorem witness_TAPE_traps : (let s := onBeam (poison one 0 0x200) 0 fun b => { b with pend := [unfinished (.load 4 .bm false) 0x200] };
      Turn s (sel s) ∧ heldBack s (sel s) .dev = true ∧ ready (sel s) (sel s).run [srcUse ⟨6, false⟩ 1] [regUse 7 1] = true) ∧
    handGrid.tapeon = false ∧ (let s := withVal (taping 0x8100) 6 0x80000000;
      tapes s { handGrid with tapeon := true } = none) := by decide +kernel

/-- Translation off: the scheduler reaches device memory as it stands (R142). -/
def flat (s : State) : State := csrPut s 0 0x100 0
/-- Queue 0 with a ring of 2 at 0x2000, its control word and its two indexes. -/
def ring (ctl hd tl : Word) : State :=
  let s := flat (withVal one 6 0)
  csrPut (csrPut (csrPut (csrPut (csrPut s 0 (lq 0 0) 0x2000) 0 (lq 0 2) 1) 0 (lq 0 3) hd) 0 (lq 0 4) tl) 0 (lq 0 5) ctl
theorem witness_LAUNCH_shut : let s := ring 1 0 0
    let u := releaseAt s 0 .dev
    Turn s (sel s) ∧ (sel s).run = [0] ∧ ready (sel s) (sel s).run [srcUse ⟨6, false⟩ 1] [regUse 7 1] = true ∧
      heldBack s (sel s) .dev = false ∧ lqDev u 0 = false ∧
      (match recordPlace (sel s) u (handBlock 2) (handGang 1 3) handGrid ⟨6, false⟩ 0 with
      | .ok p => p == 0
      | .error _ => false) = true ∧ pkQsel (localBytes u 0 256) = 0 := by decide +kernel
theorem witness_LAUNCH_full : let u := releaseAt (ring 9 1 0) 0 .dev
    partOfQueue u 0 = selPart u (sel u) ∧ lqEn u 0 = true ∧ lqDev u 0 = true ∧ tailHeld u 0 = false ∧ (lqTl u 0 + 1) % lqN u 0 = lqHd u 0 := by decide +kernel
theorem witness_LAUNCH_accepts : let u := releaseAt (ring 9 0 0) 0 .dev
    (lqTl u 0 + 1) % lqN u 0 ≠ lqHd u 0 ∧ (schedWrite 0 false 3 u (lqBase u 0 + 256 * lqTl u 0) (localBytes u 0 256)).isSome = true := by decide +kernel

/-- A commit of beam 0 with logs, and what it still waits for. -/
def commitOf (started : Bool) (logs acks : List Nat) : Commit :=
  { part := 0, beams := [0], grid := none, origin := none, logs := logs, acks := acks, pod := false, pods := [], started := started,
    fault := none, seqHi := [], tickets := 0, done := false, extra := (0, []), moved := false }
def committing (m : Commit) : State := { onBeam one 0 (fun b => { b with hold := .commit 7 }) with commits := [(7, m)] }
theorem witness_CommitsWait : (Turn one (sel one) ∧ ready (sel one) (sel one).run [] [regUse 12 1] = true) ∧
    (look (committing (commitOf false [0, 1] [])).commits 7 = some (commitOf false [0, 1] []) ∧ [0, 1].Nodup) ∧
    (commitReady (committing (commitOf true [] [])) (commitOf true [] []) = true ∧
      (beamOf (committing (commitOf true [] [])) 0).map (fun b => b.hold) = some (.commit 7)) ∧
    commitReady (committing (commitOf true [] [3])) (commitOf true [] [3]) = false := by decide +kernel
/-- Device 1 of the pod behind link 3, which is enabled; device 2, outside it. -/
def podded : State := csrPut (csrPut one 0 0x540 0x0800) 0 0x581 0x83
theorem witness_pod : let s := podded
    podMember s (podPart s) 1 = true ∧ podMember s (podPart s) 2 = false ∧ podLink s 1 = some 3 ∧ podLink s 2 = none ∧ podSelf s = 0 ∧
      podPeers s (selPart s (sel s)) = [1] := by decide +kernel
/-- Commits ahead of whose end the other clauses stand: not ready, ended, with a fault, with an origin and with a grid. -/
theorem witness_commit_ends : commitReady (committing (commitOf false [0] [])) (commitOf false [0] []) = false ∧
    ({ commitOf true [] [] with done := true } : Commit).done = true ∧
    commitReady podded { commitOf true [] [] with fault := some (1, 0), origin := some (1, 5), grid := some 1 } = true := by decide +kernel

/-- A record of core 0 for address 0x200. -/
def rec0 : Rec := ⟨5, .addI, false, 0, 0x200⟩
/-- Core 0's log with one item. -/
def logging (i : BinItem) : State := setCore one 0 fun c => { c with log := [(i, 0)], touched := [9] }
/-- Full states of an apply engine. -/
def fullChannel (s : State) (ch : Nat) : State := setApply s ch fun a => { a with full := true }
theorem witness_log_drains : (coreOf one 0).log = [] ∧ (coreOf (logging (.mark 7 0 [])) 0).log = [(.mark 7 0 [], 0)] ∧
    (let s := logging (.record [0] rec0);
      (coreOf s 0).log = [(.record [0] rec0, 0)] ∧ binBlocked s (binKey 0 (channelOfRecord s 0 rec0)) = false ∧
        (binOf s (binKey 0 (channelOfRecord s 0 rec0))).items = [] ∧ leavingRecord s [0] rec0 = false) ∧
    (let s := { fullChannel (logging (.record [0] rec0)) (channelOfRecord one 0 rec0) with
        bins := [(binKey 0 (channelOfRecord one 0 rec0), ⟨List.replicate 128 (.record [0] rec0), 0, false⟩)] };
      binBlocked s (binKey 0 (channelOfRecord s 0 rec0)) = true ∧ 128 ≤ (binOf s (binKey 0 (channelOfRecord s 0 rec0))).items.length) := by decide +kernel
/-- A bin that has aged ships. -/
theorem witness_bins :
    (let s := { csrPut one 0 0x200 1 with bins := [(0, ⟨[.record [0] rec0], 0, false⟩)], clk := 1 };
      csrN s (partOfSector s (0 % 12)) 0x200 ≠ 0 ∧ (binOf s 0).last + csrN s (partOfSector s (0 % 12)) 0x200 ≤ s.clk ∧ (binOf s 0).items ≠ [] ∧
        (binOf s 0).items.length ≤ 128 ∧ binBlocked s 0 = false) ∧
    (binOf one (binKey 0 (channelOfRecord one 0 rec0))).items = [] := by decide +kernel
/-- Apply engines: full and not, folding and not, for a marker and for a request, with one delta. -/
def folding (q : Option Nat) : State :=
  setApply one 5 fun a => { a with fold := some (7, q), deltas := [⟨5, .addI, false, 0x200, false, false⟩], todo := [1] }
theorem witness_engines_apply : (applyOf one 5).full = false ∧ (applyOf (fullChannel one 5) 5).full = true ∧ (applyOf one 5).fold = none ∧
    (applyOf (folding (some 0)) 5).fold = some (7, some 0) ∧ (applyOf (folding none) 5).fold = some (7, none) ∧
    (applyOf (folding none) 5).queued = [] ∧ (applyOf (folding none) 5).deltas = [⟨5, .addI, false, 0x200, false, false⟩] ∧
    (applyOf (folding none) 5).todo = [0x200 / 512] ∧
    blockBad (folding none) (partOfQuarter (folding none) (quarterOfChannel 5)) (512 * (0x200 / 512)) = false ∧
    (let s := poison (folding none) 0 0x200;
      blockBad s (partOfQuarter s (quarterOfChannel 5)) (512 * (0x200 / 512)) = true ∧ (applyOf s 5).met = none) ∧
    (let s := setApply one 5 fun a => { a with full := true, held := [[.record [0] rec0]] };
      (applyOf s 5).held.any (oneBin 5 [.mark 7 0 []]) = true) := by decide +kernel
/-- R174: a fold adds its delta to the word. -/
theorem test_fold : (match exec (.foldComplete 5) (folding none) with
    | .next t => nearBlockRead t 0 0x200 4
    | .fault _ | .refused _ => []) = [5, 0, 0, 0] := by decide +kernel

/-! ## Witnesses: buffers and requests -/

/-- The clock begins: it finds the handles as they are (R196). -/
def clocked (s : State) : State := setCore s 0 fun c => { c with were := [] }
/-- Handle 3's table entry as a state of each kind has it. -/
def handle3 (f : Handle → Handle) : State := clocked (setHandle one 0 3 f)
theorem witness_BufferStates : Home one ∧ entryOf (handBlock 2) 3 = some 3 ∧ entryOf (handBlock 2) 64 = none ∧ (handleSeen one 0 3).state = .free ∧
    (∀ st, st = HState.full ∨ st = HState.draining ∨ st = HState.filling → let s := handle3 fun y => { y with state := st }
      (handleSeen s 0 3).state = st ∧ (handleAt s 0 3).state = st ∧ (handleSeen s 0 3).err = 0) ∧
    (handleSeen (handle3 fun y => { y with state := .draining, pf := true }) 0 3).pf = true ∧
    (handleSeen (handle3 fun y => { y with state := .full, err := 0x0C }) 0 3).err ≠ 0 :=
  ⟨home_of (by decide +kernel), by decide +kernel, by decide +kernel, by decide +kernel, fun st h => by obtain h | h | h := h <;> subst h <;> decide +kernel, by decide +kernel, by decide +kernel⟩

/-- A block of a request or of an engine instruction at local address 0x100, which g6 holds. -/
def withBlock (s : State) (n v : Nat) : State := localPut (withVal s 6 0x100) 0x100 (bytesLE n v)
/-- COPY of 8 bytes from local 0x1000 to local 0x2000, by a stride record (R198, R199). -/
def copyBlock : Nat := 0x500 + 7 * 2 ^ 64 + 0x2000 * 2 ^ 128 + 0x1000 * 2 ^ 256 + 2 ^ 572
/-- OFFL of 4096 bytes at 0x1000 by pair 0 (R205). -/
def offlBlock : Nat := 0x1000 + 4096 * 2 ^ 64
/-- RECALL of 4096 bytes to local 0x1000, of no OFFL and of the OFFL of core 0's entry 5, instance 1. -/
def recallBlock (offh : Nat) : Nat := 0x1000 + 4096 * 2 ^ 64 + 2 ^ 105 + offh * 2 ^ 192
/-- DECODE of an empty stream to local 0x2000, 64 bytes (R209). -/
def decodeBlock : Nat := 0x2000 * 2 ^ 128 + 64 * 2 ^ 192 + 2 ^ 267 + 2 ^ 277
/-- Pair 0 enabled for quarter 0. -/
def flashOn (s : State) : State := csrPut s 0 (fq 0 11) 1
/-- An OFFL under way on entry 5. -/
def offloading (s : State) : State :=
  setHandle (setCore s 0 fun c => { c with copies := [⟨.offl ⟨6, false⟩ 5, 0, 3, some 5, 1, [], [], [], none, true, [], none, []⟩] }) 0 5 fun y =>
    { y with state := .draining, inst := 1, pf := true, range := some ⟨true, 0x1000, 4096⟩, remain := 4096 }

/-- A request that is ready: its plan holds and its pages translate (compare `Passes`). -/
def passes (s : State) (size : Nat) (plan : Sel → State → Block → Gang → Grid → Nat → List Byte → Except Trap Plan) : Bool :=
  let x := sel s
  let u := releaseAt s x.key .dev
  let q := localBytes u 0x100 size
  decide (Turn s x) && !heldBack s x .dev && decide (homeOf s x.beam = some (handBlock 2, handGang 1 3, handGrid)) && ready x x.run [srcUse ⟨6, false⟩ 1] [] &&
    decide (x.run.length = 1) && decide (entryOf (handBlock 2) 3 = some 3) && decide ((handleAt u (selCore x) 3).state = .free) &&
    decide ((laneReg (laneOf x.beam (leastD 0 x.run)) 6).toNat = 0x100) &&
    decide (localPlace u (handBlock 2) (handGang 1 3) handGrid 0x100 size = some 0x100) &&
    match plan x u (handBlock 2) (handGang 1 3) handGrid 3 q with
    | .error _ => false
    | .ok y =>
      match planPages (selCore x) (selSup x) x.beam.told u y.xl [] with
      | .ok pages => fits u x y pages
      | .error _ => false
theorem witness_requests : passes (withBlock one 128 copyBlock) 128 (fun x => copyPlan x (.copy ⟨6, false⟩ 3) 3) = true ∧
    passes (flashOn (withBlock one 32 offlBlock)) 32 (fun x => offlPlan x (.offl ⟨6, false⟩ 3) 3) = true ∧
    passes (flashOn (withBlock one 48 (recallBlock 0))) 48 (fun x => recallPlan x (.recallCopy ⟨6, false⟩ 3) 3) = true ∧
    passes (offloading (flashOn (withBlock one 48 (recallBlock (2 ^ 48 + 5))))) 48 (fun x => recallPlan x (.recallCopy ⟨6, false⟩ 3) 3) = true ∧
    passes (withBlock one 64 decodeBlock) 64 (fun x => decodePlan x (.decode ⟨6, false⟩ 3) 3) = true := by decide +kernel
theorem witness_recall_named : offlNamed (offloading one) (2 ^ 48 + 5) = some (0, 5) ∧ offlNamed one 0 = none ∧
    (handleAt (offloading one) 0 5).range = some ⟨true, 0x1000, 4096⟩ ∧
    (match requestRange one (handBlock 2) (handGang 1 3) handGrid true 0x1000 4096 with
    | .ok r => decide (r = ⟨true, 0x1000, 4096⟩)
    | .error _ => false) = true := by decide +kernel
/-- The copy, issued and completed, moves its bytes (R200). -/
def copying : State := localPut (withBlock one 128 copyBlock) 0x1000 [1, 2, 3, 4, 5, 6, 7, 8, 9]
def copied : State :=
  match exec (.copy ⟨6, false⟩ 3) copying with
  | .next t => t
  | .fault _ | .refused _ => one
theorem test_copy : (match exec (.copyComplete 0 3 (handleAt copied 0 3).inst) copied with
    | .next t => (localBytes t 0x2000 9, (handleAt t 0 3).state)
    | .fault _ | .refused _ => ([], .free)) = ([1, 2, 3, 4, 5, 6, 7, 8, 0], HState.full) := by decide +kernel
/-- Command 0 of pair 0, the only one out, which ends the offload of entry 5 or moves the first n bytes of it. -/
def command (write : Bool) (n : Nat) : FlashCmd := ⟨0, 0, 5, 1, write, false, 0, 0, n, ⟨true, 0x1000, 4096⟩, [], some (List.replicate n 7), []⟩
def flashing (c : FlashCmd) : State := { flashOn (offloading one) with flash := [(0, ⟨[c], [], 0, 0, 0, true⟩)] }
/-- The completion of command 0 with a status is read as an entry of the present phase, which names that command. -/
def completes (s : State) (status : Nat) : Bool :=
  let s1 := fqPut s 0 (cqPlace s 0) (cqe s 0 0 1 status (flashOf s 0).phase)
  let e := homeRead s1 (fqPart s1 0) (cqPlace s 0) 16
  !fillBad s1 (fqPart s1 0) 0 (cqPlace s 0) && (bit (leAt e 12 4) 16 == (flashOf s1 0).phase) &&
    ((flashOf s1 0).out.find? (fun c => c.cid == leAt e 12 2)).isSome && (opOf s1 0 5 1).isSome
theorem witness_RequestsEnd : opOf one 0 3 1 = none ∧ (opOf copied 0 3 (handleAt copied 0 3).inst).isSome = true ∧
    (flashOf one 0).out.any (fun c => c.cid == 0) = false ∧
    (∀ c, c = command true 4096 ∨ c = command false 4096 ∨ c = command true 512 → (flashOf (flashing c) 0).out.any (fun c => c.cid == 0) = true ∧
      completes (flashing c) 0 = true ∧ completes (flashing c) 2 = true) ∧
    (let s := poison (flashing (command true 4096)) 0 0;
      fillBad (fqPut s 0 (cqPlace s 0) (cqe s 0 0 1 0 true)) (fqPart s 0) 0 (cqPlace s 0) = true) ∧
    (let s := flashing (command true 4096);
      offlActive (dropOp s 0 5 1) 0 5 = false ∧ (handleAt s 0 5).state = .draining ∧ (handleAt s 0 5).drn = 0) := by
  refine ⟨by decide +kernel, by decide +kernel, by decide +kernel, ?_, by decide +kernel, by decide +kernel⟩
  intro c h; obtain h | h | h := h <;> subst h <;> decide +kernel
/-- The completion queue lies in quarter 0, as the pair does, or behind a closed link (R203, R321). -/
theorem witness_flash_waits : ∀ v, v = (0 : Word) ∨ v = 0x80000000 →
    let s := csrPut (cutOff (flashing (command true 4096))) 0 (fq 0 2) v
    (flashOf s 0).out.any (fun c => c.cid == 0) = true ∧ fqOpen s 0 (cqPlace s 0) = decide (v = 0) := by
  intro v h; obtain h | h := h <;> subst h <;> decide +kernel
/-- R206: the Write that ends the offload leaves its handle Free, and the device holds the bytes. -/
theorem test_offload_ends : (match exec (.nvmeCompletion 0 (0, 1) 0) (csrPut (flashing (command true 4096)) 0 (fq 0 6) 15) with
    | .next t => ((handleAt t 0 5).state, (flashOf t 0).out.length, (flashOf t 0).sqhead)
    | .fault _ | .refused _ => (.full, 0, 0)) = (HState.free, 0, 1) := by decide +kernel
/-- A request in the decode queue of quarter 0. -/
def decodingQueue : State := { one with decodeQ := [(0, [⟨.decode ⟨6, false⟩ 3, 0, 3, some 3, 1, [], [0, 0], [], none, false, [], none, []⟩])] }
theorem witness_decode_queue : lookD decodingQueue.decoding 0 false = false ∧ (lookD decodingQueue.decodeQ 0 []).length = 1 ∧
    lookD ({ decodingQueue with decoding := [(0, true)] } : State).decoding 0 false = true := by decide +kernel
/-- R208: T.6 code `1` (V0) below a line of white is a line of white; `001 1011 011` is 4 of white and 4 of black. -/
theorem test_t6 : decodeT6 false 8 1 [0x80] = ⟨0, 8, 1, false, [(8, List.replicate 8 0)]⟩ ∧
    decodeT6 false 8 1 [0x36, 0xC0] = ⟨0, 8, 1, false, [(8, [0, 0, 0, 0, 1, 1, 1, 1])]⟩ := by decide +kernel

/-- A request's plan, whether something keeps it from starting, and whether its read of its source has to wait (compare `passes`). -/
def fitting (s : State) : Option (Bool × Bool) :=
  let x := sel s
  let u := releaseAt s x.key .dev
  let q := localBytes u 0x100 128
  match copyPlan x (.copy ⟨6, false⟩ 3) 3 u (handBlock 2) (handGang 1 3) handGrid 3 q with
  | .error _ => none
  | .ok y =>
    match planPages (selCore x) (selSup x) x.beam.told u y.xl [] with
    | .ok pages => some (blocked u x y pages, (sourceWait u x y).isSome)
    | .error _ => none
/-- A lock on the bytes that the COPY reads. -/
def lockedAway (s : State) : State := setCore s 0 fun c => { c with locks := [⟨⟨true, 0x1000, 8⟩, true, 0, 9, 9⟩] }
/-- The COPY whose source lies in global memory, in a page that no TLB has. -/
def farSource : Nat := copyBlock - 0x100 + (0x30000 - 0x1000) * 2 ^ 256
theorem witness_request_waits : fitting copying = some (false, false) ∧ fitting (lockedAway copying) = some (true, false) ∧
    fitting (withBlock one 128 farSource) = some (false, true) ∧
    (let s := onBeam (cutOff copying) 0 fun b => { b with stores := [written .plain 0x80000000] };
      fitting s = some (true, false)) ∧
    copySource (handBlock 2) (bytesLE 128 copyBlock) = none := by decide +kernel

/-- An operation of entry 3 into the page at virtual 0x10000, whose bytes lie in quarter 1; it has read, or has not. -/
def reading (ready : Bool) (i : Instr) : EngineOp :=
  { instr := i, beam := 0, block := 3, handle := some 3, inst := 1, params := [], args := [0, 0], pages := [(1, 0x80000000)], source := none, ready := ready, data := [], err := none, written := [] }
/-- COPY's, and the decode engine's. -/
def busyCopy (ready : Bool) : State := setCore one 0 fun c => { c with copies := [reading ready (.copy ⟨6, false⟩ 3)] }
def busyDecode (q : List Byte) : State := { one with decodeQ := [(0, [{ reading false (.decode ⟨6, false⟩ 3) with params := q }])] }
theorem witness_engines_wait : (opOf (busyCopy true) 0 3 1).isSome = true ∧
    (∀ b, b = true ∨ b = false → pagesOpen (if b then one else cutOff one) 0 (reading true (.copy ⟨6, false⟩ 3)).pages = b) ∧
    -- the decode engine reads nothing, and a byte of a page that no TLB has
    (∀ q, q = ([] : List Byte) ∨ q = bytesLE 64 (0x30000 + 2 ^ 64) →
      let o := { reading false (.decode ⟨6, false⟩ 3) with params := q }
      let r := decodeRun (busyDecode q) 0 o
      lookD (busyDecode q).decoding 0 false = false ∧ lookD (busyDecode q).decodeQ 0 [] = [o] ∧ (opRead o r.1 r.2).ready = decide (q = [])) := by
  refine ⟨by decide +kernel, ?_, ?_⟩
  · intro b h; obtain h | h := h <;> subst h <;> decide +kernel
  · intro q h; obtain h | h := h <;> subst h <;> decide +kernel

/-! ## Witnesses: the engines -/

/-- The grid with BF16 in format slot 0 (R20: VALID, EFMT 1). -/
def bfGrid : Grid := { handGrid with fslots := [0x8000000000000001] }
/-- The block with a table bound (R252). -/
def tabBlock : Block := { handBlock 2 with tab := some (0x1000, 1) }
/-- A state with both, and a parameter block at local 0x100. -/
def engine (n v : Nat) : State := let s := withBlock one n v; { s with grids := put s.grids 1 bfGrid, blocks := put s.blocks 3 tabBlock }
/-- An engine instruction finds its block (compare `BlockAt`). -/
def found (s : State) (size : Nat) : Bool :=
  let x := sel s
  let u := releaseAt s x.key .gang
  decide (Turn s x) && !heldBack s x .gang && decide (homeOf s x.beam = some (tabBlock, handGang 1 3, bfGrid)) &&
    ready x x.run [srcUse ⟨6, false⟩ 1] [] && decide ((laneReg (laneOf x.beam (leastD 0 x.run)) 6).toNat = 0x100) &&
    decide (localPlace u tabBlock (handGang 1 3) bfGrid 0x100 size = some 0x100)
/-- A plan that holds and meets no lock. -/
def planned (s : State) (size : Nat) (plan : Sel → State → Block → Gang → Grid → List Byte → SCheck) : Bool :=
  let u := releaseAt s (sel s).key .gang
  found s size && matrixRoom u 0 1 && match plan (sel s) u tabBlock (handGang 1 3) bfGrid (localBytes u 0x100 size) with
    | .ok p => locksFree u 0 p.ranges
    | .trap _ | .wait => false

/-- MMA of 128 x 64 x 32 BF16 (R221): A at local 0x1000 and B at local 0x4000, both of pitch 64; the same with a SIG record of one
bucket at local 0x8000. -/
def mmaBlock : Nat := 2 ^ 16 + (0x1000 + 4 * 2 ^ 96) * 2 ^ 64 + (0x4000 + 4 * 2 ^ 96) * 2 ^ 192
def sigBlock : Nat := mmaBlock + 0x8000 * 2 ^ 320
def mmaReady (s : State) (sig : Bool) : Bool :=
  let x := sel s
  let u := releaseAt s x.key .dev
  found s 64 && (match mmEntry x u tabBlock 3 with
    | .ok e => e == 3
    | .error _ => false) && match mmLanes x u tabBlock (handGang 1 3) bfGrid ⟨6, false⟩ sig x.run [] with
    | .error _ => false
    | .ok ms =>
      let good := ms.filter fun m => m.stop.isNone
      (landingClash (mmLocals ms) [] (mmLandings ms)).isNone && (mmStopped ms).isNone && good.length == 1 && (mmParked ms).isEmpty &&
        !tooManyLocks 0 (good.flatMap mmLocks) && matrixRoom u 0 good.length && locksFree u 0 (good.flatMap mmLocks) &&
        good.all (fun m => pagesOpen u 0 m.pages) &&
        let v := settleCluster (parkLanes u x.key (mmParked ms)) 0
        !clusterOwes v 0 && (firstSome (mmAwaits v 0 (selSup x) tabBlock) good).isNone
theorem witness_MMA : mmaReady (engine 64 mmaBlock) false = true ∧
    mmaReady (localPut (engine 64 sigBlock) 0x8100 [1]) true = true := by decide +kernel
/-- ALOAD and ACVT of a 128 x 64 BF16 tile (R229), QCVT of 1 x 32 (R233), SIG of 128 x 32 (R235), SBWD of one bucket (R242). -/
theorem witness_operations_that_hold : planned (engine 16 (0x1000 + 8 * 2 ^ 32)) 16 (tdPlan false 23) = true ∧
    planned (engine 16 (0x1000 + 8 * 2 ^ 32)) 16 (tdPlan true 0) = true ∧
    planned (engine 32 (0x1000 + 0x8000 * 2 ^ 64 + 4 * 2 ^ 96 + 2 ^ 176)) 32 (qcPlan 0) = true ∧
    planned (engine 64 (0x1000 + 4 * 2 ^ 96 + 0x4000 * 2 ^ 128 + 0x8000 * 2 ^ 160 + 2 ^ 256)) 64 sgPlan = true ∧
    planned (localPut (engine 32 (0x1000 + 8 * 2 ^ 32 + 0x8000 * 2 ^ 64 + 8 * 2 ^ 96 + 0xC000 * 2 ^ 128 + 2 ^ 160)) 0xC100 [1]) 32 sbPlan = true ∧
    (∀ sl, sl = 0 ∨ sl = 23 → handGrid.accs > sl) ∧ fsCheck 0 (sel one) one tabBlock (handGang 1 3) bfGrid = none := by
  refine ⟨by decide +kernel, by decide +kernel, by decide +kernel, by decide +kernel, by decide +kernel, ?_, by decide +kernel⟩
  intro sl h; obtain h | h := h <;> subst h <;> decide +kernel
theorem witness_SCBS : Turn one (sel one) ∧ look one.blocks (sel one).beam.block = some (handBlock 2) ∧
    ready (sel one) (sel one).run [srcUse ⟨4, false⟩ 2, srcUse ⟨9, false⟩ 1] [] = true ∧
    (∀ i ∈ (sel one).run, lanePair (laneOf (sel one).beam i) 4 = lanePair (laneOf (sel one).beam (leastD 0 (sel one).run)) 4) := by decide +kernel

/-- RTAB of one entry (R252) and RULE of one generation of 16 x 16 cells (R247). -/
theorem witness_rules_queue : (coreOf one 0).ruleQ.length < 8 ∧
    (let s := engine 16 (0x1000 + 2 ^ 32);
      let u := releaseAt s (sel s).key .gang;
      found s 16 = true ∧ (coreOf u 0).ruleQ.length < 8 ∧ (match rtPlan (sel s) u tabBlock (handGang 1 3) bfGrid (localBytes u 0x100 16) with
        | .ok p => locksFree u 0 p.1
        | .error _ => false) = true) ∧
    (let s := engine 32 (0x1000 + 0x4000 * 2 ^ 32 + 2 ^ 64 + 2 ^ 96 + 2 ^ 104 + 2 ^ 136);
      let u := releaseAt s (sel s).key .gang;
      found s 32 = true ∧ (match rlPlan (sel s) u tabBlock (handGang 1 3) bfGrid (localBytes u 0x100 32) with
        | .ok p => locksFree u 0 p.1
        | .error _ => false) = true) := by decide +kernel

/-- An operation of beam 0's block. -/
def operation (i : Instr) (params : List Byte) : EngineOp :=
  { instr := i, beam := 0, block := 3, handle := none, inst := 9, params := params, args := [0, 0, 0], pages := [], source := none, ready := true, data := [], err := none, written := [] }
/-- It is the matrix engine's, or the rule engine's, present operation. -/
def performing (i : Instr) : State := setCore (onBeam one 0 fun b => { b with hold := .engine 9 }) 0 fun c => { c with matrixOp := some (operation i []) }
def stepping (i : Instr) : State := setCore (onBeam one 0 fun b => { b with hold := .engine 9 }) 0 fun c => { c with ruleOp := some (operation i []) }
theorem witness_EnginesRunInOrder : (let s := setCore one 0 fun c => { c with matrixQ := [operation (.aclr 0) []], ruleQ := [operation (.rgen ⟨6, false⟩) []] };
      (coreOf s 0).matrixOp = none ∧ (coreOf s 0).matrixQ = [operation (.aclr 0) []] ∧ (coreOf s 0).ruleOp = none ∧
        (coreOf s 0).ruleQ = [operation (.rgen ⟨6, false⟩) []]) ∧
    (coreOf (performing (.aclr 0)) 0).matrixOp = some (operation (.aclr 0) []) ∧
    (coreOf (performing (.mma ⟨6, false⟩ 3)) 0).matrixOp = some (operation (.mma ⟨6, false⟩ 3) []) ∧
    (coreOf (stepping (.rgen ⟨6, false⟩)) 0).ruleOp = some (operation (.rgen ⟨6, false⟩) []) ∧
    (homeOfBlock (performing (.aclr 0)) 3).isSome = true ∧ (beamOf (performing (.aclr 0)) 0).map (fun b => (b.block, b.hold, b.under)) = some (3, .engine 9, []) ∧
    (look (stepping (.rule ⟨6, false⟩)).blocks 3).isSome = true ∧
    ruleMore (stepping (.rule ⟨6, false⟩)) (operation (.rule ⟨6, false⟩) []) = false ∧
    ruleMore (stepping (.rule ⟨6, false⟩)) (operation (.rule ⟨6, false⟩) (bytesLE 32 (2 ^ 64 + 2 ^ 96 + 2 ^ 104 + 2 ^ 136))) = true := by decide +kernel
/-- R231: the slot is clear and the beam goes on. -/
theorem test_aclr : (match exec (.matrixSyncOpComplete 0) (performing (.aclr 0)) with
    | .next t => (slotAt t 0 0 == Slot.zero) && (beamOf t 0).map (fun b => b.hold) == some .none
    | .fault _ | .refused _ => false) = true := by decide +kernel

/-! ## Witnesses: Heliograph -/

/-- Channel 63 of the gang: it expects n arrivals of which none has come. -/
def expecting (n : Nat) : State :=
  { one with gangs := put one.gangs 2 { handGang 1 3 with chans := (startChans handGrid).set 63 ⟨n, 0, 0, 5⟩ } }
theorem witness_HeliographArrivals : (∀ n, n = 1 ∨ n = 2 → helioCheck (sel (expecting n)) (expecting n) (some 63) = none) ∧
    (helioCheck (sel one) one (some 64)).isSome = true ∧ helioCheck (sel one) one none = none ∧
    (helioCheck (sel (withPred user 1)) (onLanes user 0 [1] fun _ l => { l with pc := 8 }) none).isSome = false ∧
    ready (sel one) (sel one).run [srcUse ⟨6, false⟩ 1] [] = true ∧ ready (sel one) (sel one).run [] [regUse 12 1] = true ∧
    (look one.gangs 2).isSome = true ∧ 0 ∈ hgCores one 0 ∧
    -- an operand that differs between the lanes of the run (R261)
    (let s := withReg user 6 fun i => BitVec.ofNat 32 i;
      Turn s (sel s) ∧ helioCheck (sel s) s none = none ∧ ready (sel s) (sel s).run [srcUse ⟨6, false⟩ 1] [] = true ∧
        ∃ i ∈ (sel s).run, laneReg (laneOf (sel s).beam i) 6 ≠ laneReg (laneOf (sel s).beam (leastD 0 (sel s).run)) 6) := by
  refine ⟨?_, by decide +kernel, by decide +kernel, by decide +kernel, by decide +kernel, by decide +kernel, by decide +kernel, by decide +kernel, by decide +kernel⟩
  intro n h; obtain h | h := h <;> subst h <;> decide +kernel
/-- Lanes outside the run, which SYNPUT refuses (R260). -/
theorem witness_heliograph_refuses : let s := onLanes user 0 [1] fun _ l => { l with pc := 8 }
    (helioCheck (sel s) s none).isSome = true := by decide +kernel

/-! ## Witnesses: traps and the system -/

/-- A vector table in boot memory at 0 (R285): handlers at 0x100 for every code, supervisor code of 0x200 bytes, frames at
0x100000; translation off. -/
def vectors : List Byte :=
  bytesLE 8 0 ++ bytesLE 8 0x100000 ++ bytesLE 4 0x200 ++ List.replicate 48 0 ++ (upTo 24).flatMap (fun _ => bytesLE 4 0x100) ++ List.replicate 92 0
def guarded (s : State) : State := csrPut { flat s with mem := memPut s.mem bootBase vectors } 0 0x300 1
/-- A trap can be taken (compare `TrapReady`). -/
def canTrap (s : State) (tr : Trap) : Bool :=
  decide (Inv s) && match beamOf s 0, vecTable s 0 (((beamOf s 0).map fun b => b.told).getD []) with
    | some b, some v =>
      !b.psw.getLsbD 1 && b.pend.isEmpty && b.stores.isEmpty && !vecBad v && leAt v (64 + 4 * tr.code) 4 % 2 == 0 &&
        decide (leAt v (64 + 4 * tr.code) 4 + 4 ≤ vecSvSize v) && match homeOf s b with
          | some (bl, _, gr) =>
            (supWrite 0 b.told 128 s ((if b.flvl = 0 then (leAt v 8 8 + 0 * 32768) % 2 ^ 64 else b.framea.toNat) + 16384 * b.flvl)
              (frameBytes s 0 b bl gr tr [])).isSome
          | none => false
    | _, _ => false
theorem witness_TrapEntry : canTrap (guarded one) (trapOf (sel one) 0x04) = true := by decide +kernel
theorem witness_double_trap : let s := onBeam one 0 fun b => { b with psw := 3, flvl := 1 }
    (beamOf s 0).map (fun b => b.psw.getLsbD 1) = some true ∧ bit (csrN s 0 0x310) 31 = false ∧
      bit (csrN (csrPut s 0 0x310 0x80000000) 0 0x310) 31 = true := by decide +kernel
/-- R287: the handler runs in every lane, in supervisor state with traps masked. -/
theorem test_trap_entry : (beamOf (takeTrap (guarded one) 0 (trapOf (sel one) 0x04)) 0).map (fun b =>
    (b.psw, b.flvl, b.framea, (laneOf b 31).state, (laneOf b 31).pc)) = some (3, 1, 0x100000, .runnable, 0x100) := by decide +kernel
/-- R290: CODE, PC, RUN and EXITED of the header; R87: the counter-table entry of an exited lane. -/
theorem test_frame_header : (let h := frameHeader one 0 (sel one).beam 5 (trapOf (sel one) 0x04) 0
    (fld h 7 0, fld h 103 96, fld h 159 128, fld h 191 160, fld h 351 320)) = (4, 5, 0, 1, 0xFFFFFFFE) ∧
    tableEntry (laneOf (sel one).beam 31) = 3 * 2 ^ 32 := by decide +kernel

/-- A supervisor beam with translation off. -/
def sup : State := onBeam (flat one) 0 fun b => { b with psw := 1 }
theorem witness_SystemInstructions : Turn sup (sel sup) ∧ selSup (sel sup) = true ∧ ready (sel sup) (sel sup).run [] [regUse 12 1] = true ∧
    ready (sel sup) (sel sup).run [regUse 12 1] [] = true ∧ csrTrap (sel sup) (fenceDev sup 0) 0x303 = none ∧
    (csrTrap (sel sup) (fenceDev sup 0) 0x999).isSome = true ∧ ready (sel sup) (sel sup).run [srcUse ⟨4, false⟩ 2] [] = true ∧
    heldBack sup (sel sup) .dev = false ∧
    (let s := onBeam (poison sup 0 0x200) 0 fun b => { b with pend := [unfinished (.load 4 .bm false) 0x200] };
      Turn s (sel s) ∧ selSup (sel s) = true ∧ heldBack s (sel s) .dev = true) := by decide +kernel
/-- TLBINV's wait, of the beam itself and beneath a handler. -/
theorem witness_TLBINV_completes : (∀ b, b = { (sel sup).beam with hold := .tlbinv none } ∨
    b = { (sel sup).beam with hold := .none, under := [.tlbinv none] } → firstSome tlbinvHold (holdsOf b).reverse = some none) := by
  intro b h; obtain h | h := h <;> subst h <;> decide +kernel
/-- MCLOAD of the shortest and of the longest body. -/
theorem witness_MCLOAD : ∀ n, n = 1 ∨ n = 32 → let s := withBlock sup 4 n
    homeOf s (sel s).beam = some (handBlock 2, handGang 1 3, handGrid) ∧ localPlace s (handBlock 2) (handGang 1 3) handGrid 0x100 4 = some 0x100 ∧
      leNat (localBytes (beforeAccess s (sel s).key [⟨true, 0x100, 132⟩]) 0x100 4) = n ∧ (localPlace s (handBlock 2) (handGang 1 3) handGrid 0x100 (4 + 4 * n)).isSome = true := by
  intro n h; obtain h | h := h <;> subst h <;> decide +kernel
/-- A page of boot memory at virtual 0x100000. -/
def bootPage : TlbEntry := ⟨16, 16, 0x10000, 3, false, true, false, false, 0⟩
/-- A beam in its handler, whose frame at 0x100000 is zero but for the entries of lanes 1 and 2: lane 1 waits at join 0, lane 2 is at
PC 0x10 (R87, R289). -/
def handling : State :=
  let s := setCore (onBeam user 0 fun b => { b with psw := 3, flvl := 1, framea := 0x100000 }) 0 fun c => { c with tlb := [bootPage] }
  { s with mem := memPut s.mem (bootBase + 0x10000 + 76) [1, 0, 0, 0, 0x10] }
theorem witness_TRET_turn : Turn handling (sel handling) ∧ selSup (sel handling) = true ∧ Home handling ∧ (sel handling).beam.flvl = 1 ∧
    (sel handling).beam.pend = [] ∧ (sel handling).beam.stores = [] := ⟨by decide +kernel, by decide +kernel, home_of (by decide +kernel), by decide +kernel, by decide +kernel, by decide +kernel⟩
/-- That frame. -/
def frame : List Byte := List.replicate 76 0 ++ [1, 0, 0, 0, 0x10] ++ List.replicate 4015 0
theorem frame_read : supRead (releaseAt handling 0 .dev) 0 [] 128 0x100000 4096 = some frame := by decide +kernel
theorem witness_TRET :
    (let c := tableRefused 0 { (sel handling).beam with psw := BitVec.ofNat 32 (frPswp frame) } (handBlock 2) handGrid frame (releaseAt handling 0 .dev);
      c.1 == some false && tretOpen (sel handling) handling && (sel handling).beam.told.isEmpty && frNrep frame == 0 && decide (frLevel frame ≤ 1) && (bit (frPswp frame) 1 || frLevel frame == 0) && (endedLanes frame).isEmpty &&
        frCode frame != 0x18 && (writeTrst (sel handling) (acquireAt c.2 0 .dev) 0).isSome && fld (frEntry frame 0) 34 32 % 2 == 0) = true := by decide +kernel
/-- R293: the lanes are where the frame says. -/
theorem test_tret : (let b := beamRestored frame handGrid [] (sel handling).beam
    (b.psw, b.flvl, lanesIn b .waiting, (laneOf b 2).pc)) = (0, 0, [1], 0x10) := by decide +kernel

/-- A replay entry of LD.32 g12, [g2:g3] in lane 0, at an address, with an ACT. -/
def entry (id act : Nat) (ea : DWord) : Pend :=
  ⟨id, wordOfInstr (.ld32 .always 0 ⟨2, false⟩ 12), 0, none, 1, 12, 1, .again act, [⟨0, ea, 0, 5, 0, 0⟩]⟩
/-- A beam with such entries whose g12 is empty: what is left of them, whether g12 is empty still, and what it holds. -/
def replayed (l : List Pend) : Option (List Nat × Bool × Word) :=
  (beamOf (replay (onBeam (withEmpty one 12) 0 fun b => { b with pend := l, nextId := 9 }) 0) 0).map fun b =>
    (b.pend.map fun p => p.id, (laneOf b 0).empty.contains 12, laneReg (laneOf b 0) 12)
/-- R293: ACT 1 writes DATA and ACT 2 zero; R31: a write waits for an earlier one of the same register, here one that waits for a walk. -/
theorem test_replay : replayed [entry 7 1 0] = some ([], false, 5) ∧ replayed [entry 7 1 0, entry 8 2 0] = some ([], false, 0) ∧
    (replayed [entry 7 0 0x10000, entry 8 1 0]).map (fun r => (r.1, r.2.1)) = some ([7, 8], true) := by decide +kernel

/-! ## Witnesses: closed links -/

/-- A release at device scope cannot write it back; one at gang scope writes nothing back (R147). -/
theorem witness_held_back : (let s := farDirty one; Turn s (sel s) ∧ heldBack s (sel s) .dev = true ∧ heldBack s (sel s) .gang = false) ∧
    (let s := farDirty sup; Turn s (sel s) ∧ selSup (sel s) = true ∧ heldBack s (sel s) .dev = true) ∧
    (let s := farDirty (at_ one 0x200); Turn s (sel s) ∧ syncShut (performAll s (sel s).key) (sel s).key .dev = true) := by decide +kernel
/-- A record of the tape, and a slot of queue 0's ring, in quarter 0 and in quarter 1. -/
theorem witness_slots : ∀ v, v = (0x8000 : Word) ∨ v = 0x80000000 →
    (let s := cutOff (flat (csrPut (taping (v + 0x100)) 0 (lq 0 10) v))
      let u := releaseAt s 0 .dev
      Turn s (sel s) ∧ heldBack s (sel s) .dev = false ∧ tapes s { handGrid with tapeon := true } = some (1, true) ∧
        slotOpen u (selCore (sel s)) (selPart u (sel s)) (lqTape u 0 10 + 256 * 0) = decide (v = 0x8000)) ∧
    (let s := cutOff (csrPut (ring 9 0 0) 0 (lq 0 0) v)
      let u := releaseAt s 0 .dev
      heldBack s (sel s) .dev = false ∧ (lqTl u 0 + 1) % lqN u 0 ≠ lqHd u 0 ∧ lqDev u 0 = true ∧
        slotOpen u (selCore (sel s)) (selPart u (sel s)) (lqBase u 0 + 256 * lqTl u 0) = decide (v = 0x8000)) := by
  intro v h; obtain h | h := h <;> subst h <;> decide +kernel

/-- Traps where their run stands: taken; of a beam whose vector table lies behind a closed link; behind one that waits. -/
theorem witness_trap_at_issue : (let s := guarded one
      let here := completeDue s (sel s).key
      Turn s (sel s) ∧ canTrap here (trapOf (sel s) 0x04) = true ∧ (beamOf here 0).map (fun b => b.waiting) = some [] ∧
        trapOpen here 0 (trapOf (sel s) 0x04) = true) ∧
    (let s := farDirty (guarded one)
      let here := completeDue s (sel s).key
      Turn s (sel s) ∧ (beamOf here 0).map (fun b => b.waiting) = some [] ∧ trapOpen here 0 (trapOf (sel s) 0x04) = false) ∧
    (let s := guarded one
      let done := completeDue (retire (advance s (sel s) [] (nextPc 4)) (sel s).key) (sel s).key
      ready (sel s) (execLanes (sel s) .always) [srcUse ⟨2, false⟩ 2] [] = true ∧ execLanes (sel s) .always ≠ [] ∧
        canTrap done (trapOf (sel s) 0x0F) = true ∧ (beamOf done 0).map (fun b => b.waiting) = some [] ∧ trapOpen done 0 (trapOf (sel s) 0x0F) = true) ∧
    (let s := onBeam (guarded one) 0 fun b => { b with waiting := [(0, trapOf (sel one) 0x0C)] }
      let here := completeDue { s with clk := 1 } 0
      trapFirst 0 (trapOf (sel one) 0x0C) here.clk (trapOf (sel s) 0x04) = true ∧
        (beamOf here 0).map (fun b => (takesTraps here b, b.waiting)) = some (true, [(0, trapOf (sel one) 0x0C)])) := by decide +kernel
theorem witness_CSRW_of_a_halt : isHalt 0x400 = true ∧ isHalt 0x45F = true ∧ csrTrap (sel sup) (fenceDev sup 0) 0x400 = none := by decide +kernel

/-! ## Witnesses: queues, packets and grids -/

/-- The packet of value v. -/
def atHead (st : PacketState) (v : Nat) : Packet := ⟨bytesLE 256 v, st, false, false, 0, 0⟩
/-- Queue 0, its ring of 2 holding one packet of value v, which stands at its head. -/
def queued (st : PacketState) (v : Nat) : State := { ring 1 0 1 with queues := [(0, ⟨some (atHead st v), none, []⟩)] }
/-- Chosen by slot 1 of partition 0. -/
def accepting (v : Nat) : State := { queued .accepting v with accepting := [(1, 0)] }
/-- An image at 0x8000 (R15): one gang of one block of 32 threads, two instructions at 0x100. -/
def image : Nat := 0x4B5A4758 + 2 ^ 32 + 0x100 * 2 ^ 64 + 4 * 2 ^ 96 + 5 * 2 ^ 192 + 2 ^ 240 + 2 ^ 243 + 2 ^ 246 + 32 * 2 ^ 256 + 2 ^ 268 + 2 ^ 296
def imaged (v : Nat) : State := outsideWrite (accepting v) 0 0x8000 (bytesLE 256 image)
/-- An image of 1,024 threads of 1,024 registers, for which no cluster has the registers (R77). -/
def tooLarge : Nat := image + 5 * 2 ^ 192 + (1024 - 32) * 2 ^ 256 + 14 * 2 ^ 268
/-- Whether acceptance reads the image and finds that it can be placed; the first gang and the limit. -/
def accepts (s : State) (v : Nat) : Option (Bool × Nat × Nat) :=
  (readImage { s with accepting := del s.accepting 1 } 0 (bytesLE 256 v)).map fun r =>
    let g := gridOf 0 0 s.nextKey false false (bytesLE 256 v) r.1 r.2
    (unplaceable g, g.next, g.lim)
/-- A kernel packet of that image with an extent of n threads (R61). -/
def kernel (n : Nat) : Nat := 0x8000 * 2 ^ 128 + n * 2 ^ 320

theorem witness_LastPacket : LastPacket (queued .waiting 2) 0 (atHead .waiting 2) := by unfold LastPacket; decide
theorem witness_packet_ready : (queued .waiting 2).queues = [(0, ⟨some (atHead .waiting 2), none, []⟩)] ∧
    (∀ k ∈ upTo 4, waitNow (queued .waiting 2) (partOfQueue (queued .waiting 2) 0) (atHead .waiting 2).bytes k = .yes) ∧
    missed (queued .waiting 2) (atHead .waiting 2).bytes = false ∧ rewindBlocked (queued .waiting 2) 0 (atHead .waiting 2).bytes = false := by decide +kernel
/-- A packet with MISSDROP and DEADLINE 1, at clock 100. -/
theorem witness_packet_missed : let s := { queued .waiting (2 + 256 + 2 ^ 64) with clk := 100 }
    let p := atHead .waiting (2 + 256 + 2 ^ 64)
    (queueOf s 0).head = some p ∧ (lqHd s 0 + 1) % lqN s 0 = lqTl s 0 ∧ missed s p.bytes = true ∧
      ∀ k ∈ upTo 4, waitNow s (partOfQueue s 0) p.bytes k ≠ .failed := by decide +kernel
theorem witness_packet_chosen : look (accepting 2).accepting (2 * 0 + 1) ≠ none ∧ look (queued .ready 2).accepting (2 * 0 + 1) = none ∧
    bestOf (readyFor (queued .ready 2) 0 1) = some (rankOf 0 0 0, 0) ∧ (queueOf (queued .ready 2) 0).head = some (atHead .ready 2) := by decide +kernel
/-- A kernel packet of one gang and one of none, one without an image, a rewind packet and a barrier packet. -/
theorem witness_packet_accepted : (∀ n, n = 0 ∨ n = 32 → let s := imaged (kernel n)
      look s.accepting (2 * 0 + 1) = some 0 ∧ (queueOf s 0).head = some (atHead .accepting (kernel n)) ∧
      accepts s (kernel n) = some (false, 0, n / 32)) ∧
    accepts (outsideWrite (accepting (kernel 1024)) 0 0x8000 (bytesLE 256 tooLarge)) (kernel 1024) = some (true, 0, 1) ∧
    readImage (accepting (kernel 32)) 0 (bytesLE 256 (kernel 32)) = none ∧
    (∀ v, v = kernel 32 ∨ v = 1 ∨ v = 2 → look (accepting v).accepting (2 * 0 + 1) = some 0 ∧ (queueOf (accepting v) 0).head = some (atHead .accepting v) ∧
      (lqHd (accepting v) 0 + 1) % lqN (accepting v) 0 = lqTl (accepting v) 0) ∧
    pkType (bytesLE 256 (kernel 32)) = 0 ∧ pkType (bytesLE 256 1) = 1 ∧ pkType (bytesLE 256 2) = 2 := by
  refine ⟨?_, by decide +kernel, by decide +kernel, ?_, by decide +kernel, by decide +kernel, by decide +kernel⟩
  · intro n h; obtain h | h := h <;> subst h <;> decide +kernel
  · intro v h; obtain h | h | h := h <;> subst h <;> decide +kernel
/-- R15: what acceptance reads of the header. -/
theorem test_accept_kernel : (match exec (.packetAccept 0 1) (imaged (kernel 32)) with
    | .next t => (look t.grids (imaged 0).nextKey).map fun g => (g.thr, g.codeoff, g.codesz, g.lim)
    | .fault _ | .refused _ => none) = some (32, 0x100, 4, 1) := by decide +kernel
/-- A rewind at the head, its tape empty or of one record. -/
theorem witness_rewind : ∀ n, n = 0 ∨ n = 256 → let s := csrPut { ring 1 0 1 with queues := [(0, ⟨none, some (bytesLE 256 1), []⟩)] } 0 (lq 0 10) (BitVec.ofNat 32 n)
    (queueOf s 0).rewind = some (bytesLE 256 1) ∧ (queueOf s 0).head = none ∧ (lqTape s 0 10 ≤ lqTape s 0 6 ↔ n = 0) := by
  intro n h; obtain h | h := h <;> subst h <;> decide +kernel

/-- Every lane has exited. -/
def gone : State := onLanes one 0 (upTo 32) fun _ l => { l with state := .exited }
theorem witness_gang_retires : look gone.gangs 2 = some (handGang 1 3) ∧ look gone.grids 1 = some handGrid ∧ gangExited gone (handGang 1 3) = true ∧
    (let s0 := (gangBeams gone (handGang 1 3)).foldl performAll gone
      let s1 := (gangBlocks s0 (handGang 1 3)).foldl shipBlock s0
      ((gangBeams s0 (handGang 1 3)).any fun k => syncShut s0 k .dev) = false ∧ ∀ key ∈ (handGang 1 3).blocks, ((look s1.blocks key).map (blockQuiet s1 key)).getD true = true) := by decide +kernel
theorem witness_grid_ends : gridOver one handGrid = false ∧ gridOver one { handGrid with live := 0 } = true ∧ look one.grids 1 = some handGrid ∧
    ({ handGrid with ending := some 7 } : Grid).ending ≠ none := by decide +kernel
/-- R311: a grid whose tape a rewind is reading is not over. -/
theorem test_grid_waits_for_its_tape : gridOver { one with queues := [(0, ⟨none, some (bytesLE 256 1), []⟩)] }
    { handGrid with live := 0, tapeon := true } = false := by decide +kernel

/-- A chosen packet of class 0 and one of class 1. -/
theorem witness_packet_classes : ∀ v, v = 2 ∨ v = 6 → pkClass (bytesLE 256 v) = (if v = 2 then 0 else 1) ∧
    bestOf (readyFor (queued .ready v) 0 1) = some (rankOf (if v = 2 then 0 else 1) 0 0, 0) := by
  intro v h; obtain h | h := h <;> subst h <;> decide +kernel
/-- A gang that cannot retire, and a grid whose word is not written, while dirty bytes cannot travel. -/
theorem witness_retirement_waits : ((gangBeams gone (handGang 1 3)).any fun k => syncShut gone k .dev) = false ∧
    ((gangBeams (farDirty gone) (handGang 1 3)).any fun k => syncShut (farDirty gone) k .dev) = true ∧
    ((sectorsOf one 0).all fun sec => syncOpen one sec .sys) = true ∧
    ((sectorsOf (farDirty one) 0).all fun sec => syncOpen (farDirty one) sec .sys) = false := by decide +kernel

/-! ## Witnesses: clusters -/

/-- A grid of two gangs of class c, the first of which runs. -/
def dealing (c : Nat) : State := { one with grids := put one.grids 1 { handGrid with cls := c, lim := 2 } }
/-- A gang that cluster 1 holds, of a grid with 32 channels. -/
def pairGrid : Grid := { handGrid with lim := 2, hgch := 32 }
def holding : State :=
  let s := { one with grids := put one.grids 1 pairGrid, gangs := put one.gangs 9 { handGang 1 3 with state := .held 1, cluster := 1, blocks := [] } }
  setCluster s 1 fun c => { c with held := [9] }
theorem witness_gangs_dealt : ∀ c, c = 0 ∨ c = 1 → nextGrids (dealing c) 0 (fun _ => true) = some 1 ∧
    look (dealing c).grids 1 = some { handGrid with cls := c, lim := 2 } ∧
    ((if c = 0 then urgentTarget (dealing c) 0 0 { handGrid with cls := c, lim := 2 } else fewest (dealing c) 0 true) = some 1) := by
  intro c h; obtain h | h := h <;> subst h <;> decide +kernel
theorem witness_gang_starts : (clusterOf holding 1).held = 9 :: [] ∧ gangGrid holding 9 = some pairGrid ∧
    roomFits pairGrid (roomOf holding 1 [] (some 9)) = some 0 := by decide +kernel
/-- R81: the gang starts T_place = 300 + ceil(65536 / 1024) clocks on (R71). -/
theorem test_gang_start : (match exec (.gangStart 1) holding with
    | .next t => t.agenda.contains ⟨364, .blockThreadStart 9⟩ && ((look t.gangs 9).map fun g => g.state == .starting).getD false
    | .fault _ | .refused _ => false) = true := by decide +kernel
theorem witness_threads_start : let s := { one with gangs := put one.gangs 2 { handGang 1 3 with state := .starting } }
    look s.gangs 2 = some { handGang 1 3 with state := .starting } ∧ look s.grids 1 = some handGrid ∧ look s.blocks 3 = some (handBlock 2) ∧
      (handBlock 2).beams.Nodup := by decide +kernel
/-- The gang that cluster 1 holds may be asked for by cluster 0, which has nothing held; cluster 2 has nothing to ship. -/
def asking : State := setCluster holding 0 fun c => { c with stealing := true, asked := some (roomOf holding 0 [] none) }
theorem witness_work_donation : (clusterOf holding 1).held ≠ [] ∧ (clusterOf holding 0).held = [] ∧ stealOrder holding 0 ≠ [] ∧
    (clusterOf asking 0).asked = some (roomOf holding 0 [] none) ∧
    Nat.min 8 (((shippable asking 2 (roomOf holding 0 [] none)).length + 1) / 2) = 0 ∧
    Nat.min 8 (((shippable asking 1 (roomOf holding 0 [] none)).length + 1) / 2) ≠ 0 ∧ (gangGrid holding 9).isSome = true ∧
    1 ∈ sectorsOf holding (partOfSector holding 0) ∧ ⟨holding.clk, .gangDeal 0⟩ ∈ (post holding 0 (.gangDeal 0)).agenda := by decide +kernel
/-- A gang that was pre-empted and lies in its grid's list, to be dealt first; a cluster whose wait after an empty round a deal ends. -/
theorem witness_returned_gang : let s := { holding with
      grids := put holding.grids 1 { pairGrid with returned := [9] }
      gangs := put holding.gangs 9 { handGang 1 3 with state := .listed, blocks := [] } }
    nextGrids s 0 (fun _ => true) = some 1 ∧ look s.grids 1 = some { pairGrid with returned := [9] } ∧ (look s.gangs 9).isSome = true ∧
      (if pairGrid.cls = 0 then urgentTarget s 0 0 { pairGrid with returned := [9] } else fewest s 0 true) ≠ none ∧
      (let u := setCluster s 1 fun c => { c with stealing := true, backoff := 4096 };
        (clusterOf u 1).stealing = true ∧ (clusterOf u 1).asked = none ∧ u.clk < (clusterOf u 1).backoff) := by decide +kernel

theorem witness_deal_first : let s := post (post holding 0 (.stealShipmentArrival 0 [9])) 0 (.gangDeal 0)
    ⟨s.clk, .gangDeal 0⟩ ∈ s.agenda ∧ (takeDue (fun i => !late i) s.clk s.agenda).map (fun p => p.1) = some (.gangDeal 0) := by decide +kernel

/-! ## Witnesses: pre-emption -/

/-- The block stands so in a pre-emption, its gang with a request of clock 0 and a save area where one is given. -/
def leaving (l : Leave) (area : Option (Nat × Nat)) (st : GangState) : State :=
  { one with
    blocks := put one.blocks 3 { handBlock 2 with leave := l }
    gangs := put one.gangs 2 { handGang 1 3 with state := st, requested := true, request := some ⟨0, none, 100⟩, area := area } }
/-- The three modes of R301: exited lanes drain, a new idempotent block flushes, another saves. -/
def flushing : State :=
  csrPut (csrPut { one with grids := put one.grids 1 { handGrid with idem := true, expins := 1000 } } 0 0x304 255) 0 0x303 0xFFFFFF
theorem witness_modes : modeOfBlock gone (handBlock 2) (handGang 1 3) handGrid = .drain ∧
    modeOfBlock (csrPut one 0 0x303 0xFFFFFF) (handBlock 2) (handGang 1 3) handGrid = .save ∧
    modeOfBlock (csrPut flushing 0 0x303 0x10000) (handBlock 2) (handGang 1 3) { handGrid with idem := true, expins := 0x100000 } = .flush ∧
    look one.blocks 3 = some (handBlock 2) ∧ (handBlock 2).leave = .none := by decide +kernel
theorem witness_drains : look (leaving (.drain 5) none .resident).blocks 3 = some { handBlock 2 with leave := .drain 5 } ∧
    (leaving (.drain 5) none .resident).clk < 5 ∧ 5 ≤ ({ leaving (.drain 5) none .resident with clk := 5 } : State).clk ∧
    drained (leaving (.drain 5) none .resident) 3 { handBlock 2 with leave := .drain 5 } = false ∧
    drained gone 3 { handBlock 2 with leave := .drain 5 } = true := by decide +kernel
theorem witness_saves : (let s := leaving .save none .resident;
      (beamOf s (64 * 0 + 0)).map (fun b => b.block) = some 3 ∧ (look s.blocks 3).map (fun b => b.leave) = some .save) ∧
    (∀ n, n = 0 ∨ n = 1024 → let s := csrPut (leaving .saveWait none .resident) 0 0x308 (BitVec.ofNat 32 n);
      (∃ b ∈ gangBlocks s { handGang 1 3 with requested := true, request := some ⟨0, none, 100⟩ }, b.leave = .saveWait) ∧
        (freeSpan (poolSize s 0) (areaGranules handGrid) (lookD s.pool 0 []) = none ↔ n = 0)) ∧
    (let s := leaving .saveWrite (some (0, 1)) .resident;
      (look s.gangs 2).map (fun g => g.area) = some (some (0, 1)) ∧ (look s.blocks 3).map (fun b => b.leave) = some .saveWrite) ∧
    (let s := leaving .done (some (0, 1)) .resident
      ∃ g, look s.gangs 2 = some g ∧ g.state = .resident ∧ ∀ b ∈ gangBlocks s g, b.leave = .done) ∧
    (look (leaving .none (some (0, 1)) .starting).gangs 2).map (fun g => (g.state, g.area)) = some (.starting, some (0, 1)) := by
  refine ⟨by decide +kernel, ?_, by decide +kernel, ⟨_, rfl, rfl, by decide +kernel⟩, by decide +kernel⟩
  intro n h; obtain h | h := h <;> subst h <;> exact ⟨⟨_, List.mem_singleton.mpr rfl, rfl⟩, by decide +kernel⟩
theorem witness_overdue : (look (leaving .save none .resident).gangs 2).map (fun g => g.request) = some (some ⟨0, none, 100⟩) ∧
    overdueBeam (leaving .save none .resident) (handGang 1 3) = some 0 ∧ (beamOf (leaving .save none .resident) 0).isSome = true ∧
    overdueBeam gone (handGang 1 3) = none ∧ bit (csrN one 0 0x310) 31 = false := by decide +kernel
theorem witness_quiesce : bit (csrN (csrPut one 0 0x501 1) 0 0x501) 0 = true ∧ bit (csrN one 0 0x501) 0 = false ∧
    (∀ q, q < 4 → partOfQuarter one (partOfQuarter one q) = partOfQuarter one q) ∧ handGrid.aborted = false ∧ handGrid.ending = none := by decide +kernel

/-- Save areas in quarter 0 and in quarter 1, seen from core 0; a gang that restores one. -/
def pooled (base : Word) : State := csrPut (csrPut (cutOff (leaving .saveWrite (some (0, 1)) .starting)) 0 0x306 base) 0 0x308 1024
theorem witness_save_areas : ∀ v, v = (0 : Word) ∨ v = 0x80000000 →
    poolOpen (pooled v) 0 0 (some (0, 1)) = decide (v = 0) ∧
      areaOpen (pooled v) { handGang 1 3 with state := .starting, saved := true, area := some (0, 1) } handGrid = decide (v = 0) := by
  intro v h; obtain h | h := h <;> subst h <;> decide +kernel
/-- PODUE's trap where the beam stands: taken, and kept from it by a closed link; a grid that was aborted. -/
theorem witness_overdue_traps : (let s := guarded (leaving .save none .resident)
      trapOpen (endEnded (giveUpSave s 3) 0) 0 (trapOf (sel one) 0x18) = true ∧
        trapOpen (endEnded (giveUpSave (farDirty s) 3) 0) 0 (trapOf (sel one) 0x18) = false) ∧
    ((gangGrid { leaving .save none .resident with grids := put one.grids 1 { handGrid with aborted := true } } 2).map fun gr => gr.aborted) = some true ∧
    ((gangGrid (leaving .save none .resident) 2).map fun gr => gr.aborted) = some false := by decide +kernel
/-- Rule operations of the beam and of another: at the end of the grace time the beam's own is withdrawn. -/
theorem witness_grace : ∀ k, k = 0 ∨ k = 5 →
    let s := setCore (leaving .save none .resident) 0 fun c => { c with ruleQ := [{ operation (.rgen ⟨6, false⟩) [] with beam := k }] }
    ((∀ o ∈ (coreOf s 0).ruleQ, o.beam ≠ 64 * 0 + 0) ↔ k = 5) ∧ (look s.blocks 3).map (fun b => b.leave) = some .save := by
  intro k h; obtain h | h := h <;> subst h <;> decide +kernel

/-! ## Witnesses: the host -/

theorem witness_host_queue : let s := ring 0 0 0
    hostReaches s false 0 (lq 0 4) = true ∧ lqDev s 0 = false ∧ tailHeld s 0 = false ∧ (1 : Word).toNat < lqN s 0 ∧ lqN s 0 ≤ (2 : Word).toNat ∧
      hostReaches s false 0 (lq 0 5) = true ∧ csrN s 0 (lq 0 0) % 256 = 0 ∧ (queueOf s 0).head = none ∧ lqHd s 0 = lqTl s 0 ∧ lqEn s 0 = false ∧
      csrN (csrPut s 0 (lq 0 0) 0x80) 0 (lq 0 0) % 256 ≠ 0 := by decide +kernel
theorem witness_host_registers : (∀ n, n = 0x201 ∨ n = 0x205 ∨ n = 0x310 ∨ n = 0x400 ∨ n = 0x45F ∨ n = 0x510 ∨ n = 0x513 ∨ n = 0x100 ∨ n = 0x101 →
      hostReaches one false 0 n = true) ∧ hostReaches one false 1 0x100 = false ∧
    fld 0 7 4 = 0 ∧ fld 0x18 7 4 ≠ 0 ∧ fld 0x18 3 0 ≤ 8 ∧ fld 0x30000000 29 28 = 3 ∧ fld 0 29 28 ≠ 3 := by
  refine ⟨?_, by decide +kernel, by decide +kernel, by decide +kernel, by decide +kernel, by decide +kernel, by decide +kernel⟩
  intro n h; obtain h | h | h | h | h | h | h | h | h := h <;> subst h <;> decide +kernel
/-- BAR0 (R313): register 0x100 through a VF's window and through the PF's window of partition 0; one beyond a VF's window; a device
register, which only the PF reaches; a plain register. -/
theorem witness_host_names : hostNames one (some 0) 0x400 4 = some (0, 0x100) ∧ hostNames one none 0x400 4 = some (0, 0x100) ∧
    hostNames one (some 0) (1048576 + 0x400) 4 = none ∧ hostNames one (some 0) (4 * 0x501) 4 = none ∧ hostNames one none (4 * 0x501) 4 = some (0, 0x501) ∧
    csrOwner 0x501 = some .device ∧ PlainReg 0x100 := ⟨by decide +kernel, by decide +kernel, by decide +kernel, by decide +kernel, by decide +kernel, by decide +kernel, .inl rfl⟩
/-- R318: a write of the PF waits for the clock's end. -/
theorem test_pf_write_waits : (match exec (.qreqWrite 1) one with
    | .next t => (bit (csrN t 0 0x501) 0, bit (csrN (applyPfWrites t) 0 0x501) 0)
    | .fault _ | .refused _ => (true, true)) = (false, true) := by decide +kernel
theorem witness_pf_writes : ({ one with pfWrites := [⟨0x501, 0, 1⟩] } : State).cfgNext = none ∧
    (one.beams.all fun b => !replaying b.2 && !awaitsEntry one b.1) = true ∧
    ({ one with cfgNext := some 0xE4 } : State).cfgNext = some 0xE4 := by decide +kernel
/-- HMASK5 of stack 15, given the pivot of HMASK0 and one of its own. -/
theorem witness_hmask : pivot (csrN one 0 0x878) = pivot (csrN one 0 0x878 % 1048576) ∧ csrN one 0 0x878 ≠ 0 ∧
    (∀ k, k < 6 → (0x87D - 0x800) / 8 * 8 + 0x800 + k ≠ 0x87D → pivot (csrN one 0 ((0x87D - 0x800) / 8 * 8 + 0x800 + k)) ≠ pivot 0x80000) := by decide +kernel
/-- One partition of four quarters, four of one each, and a partition whose leader is not its lowest quarter. -/
theorem witness_partcfg : legalShape 0 = true ∧ legalShape 0xE4 = true ∧ legalShape 0x55 = false := by decide +kernel
theorem witness_idle : (∀ q, q < 256 → queueIdle State.reset q = true) ∧
    (∀ q, q < 4 → bit (csrN (csrPut State.reset 0 0x501 0xFF) 0 0x501) (4 + q) = true) := by decide +kernel
theorem witness_partctl : bit (csrN one 0 0x501) 8 = false ∧ bit (1 : Word).toNat 0 = true ∧
    (∀ i, i < 8 → bit (0 : Word).toNat i = true → bit (csrN one 0 0x520) i = true) ∧
    (let s := csrPut (csrPut one 0 0x500 0xE4) 0 0x520 0;
      bit (1 : Word).toNat 0 = true ∧ bit (csrN s 0 0x520) 0 = false ∧ partOfQuarter s (0 % 4) ≠ partOfQuarter s ((0 + 1) % 4)) := by decide +kernel
/-- A pair set up for enabling, and one as reset leaves it. -/
theorem witness_flash_pair : fqRefuses (csrPut one 0 (fq 0 6) 0x09C0000F) 0 = false ∧ fqRefuses one 63 = true ∧
    bit (csrN one 0 (fq 63 11)) 0 = false := by decide +kernel
theorem witness_host_memory : functionOf one 0 = true ∧ functionOf one 1 = false ∧ rangeMapped one 0 0x1000 1 = true ∧
    rangeMapped one 0 0x1000 300 = true ∧ rangeMapped one 0 (2 ^ 40) 1 = false ∧ blockBad (homeDrop one 0 0x1000) 0 0x1000 = false ∧
    0x1000 % 8 = 0 ∧ 0x1002 % 4 ≠ 0 ∧ 0 % 64 = podSelf one ∧ podPart one = 0 ∧
    1 % 64 ≠ podSelf podded ∧ podReach podded (1 % 64) = true ∧ podReach podded (2 % 64) = false ∧ rangeMapped one 0 0x1000 8 = true ∧
    blockBad (homeDrop (poison one 0 0x1000) 0 0x1000) 0 0x1000 = true := by decide +kernel
/-- A pod peer's ATOM.add executes here (R165, R317): it answers the old value and leaves the sum. -/
theorem test_pod_atomic : (match exec (.podAccessArrival 0 0x1000 (.atomic (some .add) false 5 0 true)) (outsideWrite one 0 0x1000 [0xFF, 0, 0, 0]) with
    | .next t => (t.sent, outsideRead t 0 0x1000 4)
    | .fault _ | .refused _ => ([], none)) = ([.reply (some [0xFF, 0, 0, 0])], some [4, 1, 0, 0]) := by decide +kernel
/-- R314: FetchAdd answers the old value and leaves the sum. -/
theorem test_host_atomic : (match exec (.hostAtomic 0 .fetchAdd false 0x1000 5 0) (outsideWrite one 0 0x1000 [0xFF, 0xFF, 0xFF, 0xFF]) with
    | .next t => (t.sent, outsideRead t 0 0x1000 4)
    | .fault _ | .refused _ => ([], none)) = ([.reply (some [0xFF, 0xFF, 0xFF, 0xFF])], some [4, 0, 0, 0]) := by decide +kernel
/-- Four partitions of one quarter, and a queue of the first that is not idle: its owner may not change (R322). -/
theorem witness_queue_owner : let s := csrPut (csrPut one 0 0x500 0xE4) 0 (lq 0 4) 1
    partOfQuarter s (pidOf (csrN s 0 0x530) 0) ≠ partOfQuarter s (pidOf (1 : Word).toNat 0) ∧ queueIdle s (64 * 0 + 0) = false ∧
      partOfQuarter one (pidOf (csrN one 0 0x530) 0) = partOfQuarter one (pidOf (1 : Word).toNat 0) := by decide +kernel
theorem witness_host_halt : hostNames one (some 0) (4 * 0x400) 4 = some (0, 0x400) ∧ isHalt 0x400 = true := by decide +kernel

end Sys2Proof.Tests
end

section
/-!
PROOF of O6. Every step keeps memory's canonical form and lists every beam once: one law for each operation that a step is made of, in
the order of the model's files, up to `KeepsNext.exec` for every instruction and event and `KeepsNext.step`.
-/
namespace Sys2Proof.Machine

open Sys2Proof

set_option Elab.async false

/-! ## Canonical maps (R9)

What leaving out entries, changing values and entering several keys make of a map whose keys rise. -/

theorem risingFrom_filter {α : Type} (p : Nat × α → Bool) :
    ∀ (m : NMap α) (lo : Option Nat), risingFrom lo m = true → risingFrom lo (m.filter p) = true
  | [], _, h => h
  | (a, x) :: t, lo, h => by
    have ht : risingFrom (some a) t = true := by
      cases lo <;> simp_all [risingFrom]
    have hlo : ∀ b, lo = some b → b < a := by
      rintro b rfl; simp_all [risingFrom]
    have ih := risingFrom_filter p t (some a) ht
    by_cases hp : p (a, x) = true
    · rw [List.filter_cons_of_pos hp]
      cases lo with
      | none => exact ih
      | some b => simp [risingFrom, hlo b rfl, ih]
    · rw [List.filter_cons_of_neg hp]
      exact risingFrom_weaken _ lo a (fun b hb => (hlo b hb).le) ih

/-- Leaving entries out keeps the keys rising. -/
theorem rising_filter {α : Type} {m : NMap α} (p : Nat × α → Bool) (h : rising m = true) : rising (m.filter p) = true :=
  risingFrom_filter p m none h

/-- Leaving bytes out keeps memory's canonical form. -/
theorem memWf_filter {m : List Host.Cell} (p : Host.Cell → Bool) (h : memWf m = true) : memWf (m.filter p) = true := by
  simp only [memWf, Bool.and_eq_true, List.all_eq_true] at h ⊢
  exact ⟨rising_filter p h.1, fun c hc => h.2 c (List.mem_of_mem_filter hc)⟩

theorem risingFrom_map {α : Type} {f : Nat × α → Nat × α} (hf : ∀ x, (f x).1 = x.1) :
    ∀ (m : NMap α) (lo : Option Nat), risingFrom lo (m.map f) = risingFrom lo m
  | [], _ => rfl
  | (a, x) :: t, lo => by
    have ha : f (a, x) = (a, (f (a, x)).2) := Prod.ext (hf _) rfl
    rw [List.map_cons, ha]
    cases lo <;> simp only [risingFrom, risingFrom_map hf t]

/-- Changing values alone keeps the keys as they are. -/
theorem rising_map {α : Type} {f : Nat × α → Nat × α} (hf : ∀ x, (f x).1 = x.1) (m : NMap α) : rising (m.map f) = rising m :=
  risingFrom_map hf m none

/-- Entering beams one after another keeps the keys rising. -/
theorem rising_putAll {α β γ : Type} (key : β → Nat) (value : γ → α) (next : γ → γ) :
    ∀ (l : List β) (r : NMap α × γ), rising r.1 = true →
      rising (l.foldl (fun x n => (put x.1 (key n) (value x.2), next x.2)) r).1 = true
  | [], _, h => h
  | _ :: l, _, h => rising_putAll key value next l _ (rising_put _ _ _ h)

/-! ## Answers that keep the invariant's two halves (R9, R84, R85)

`Keeps s t` goes through the machine's operations one by one below. Every law has the form "from `Keeps s₀ s`, `Keeps s₀` of what the
operation makes of `s`", so that the proof for a composite operation is its own text with the laws in place of the calls. -/

section

variable {s₀ s t : State}

/-- A state that an operation may answer, or none. -/
def KeepsSome (s : State) (o : Option State) : Prop := ∀ t, o = some t → Keeps s t

/-- An answer of an instruction or event: a next state, or a stop. -/
def KeepsNext (s : State) (o : Host.Outcome State Fault Refusal) : Prop := ∀ t, o = .next t → Keeps s t

/-- The two ways in which an entry of the replay queue ends (R293). -/
def KeepsEither (s : State) (r : Except State State) : Prop := ∀ t, r = .ok t ∨ r = .error t → Keeps s t

/-- What a request's plan does when it starts (R193). -/
def KeepsPlan (p : Except Trap Plan) : Prop := ∀ y, p = .ok y → ∀ {s t pages}, Keeps s t → Keeps s (y.act t pages)

/-- A change of fields that are neither memory nor beams. -/
theorem Keeps.same (h : Keeps s₀ s)
    {clk fresh nextKey issued closed pfWrites cfgNext rebind unbound agenda csr bad l2 blocks gangs grids cores clusters
      queues accepting bins applies commits pool flash flashMem decodeQ decoding scLines aliased down sent} :
    Keeps s₀ ⟨clk, fresh, nextKey, issued, closed, pfWrites, cfgNext, rebind, unbound, agenda, s.mem, csr, bad, l2, s.beams, blocks,
      gangs, grids, cores, clusters, queues, accepting, bins, applies, commits, pool, flash, flashMem, decodeQ, decoding,
      scLines, aliased, down, sent⟩ :=
  ⟨h.mem, h.beams⟩

theorem Keeps.memPut (h : Keeps s₀ s) {k l} : Keeps s₀ { s with mem := Machine.memPut s.mem k l } :=
  h.trans (OnlyMemory.of_put s k l).keeps

theorem Keeps.ite {c : Prop} [Decidable c] (h : Keeps s₀ s) (g : Keeps s₀ t) : Keeps s₀ (if c then s else t) := by
  split
  · exact h
  · exact g

theorem Keeps.fold {α : Type} {f : State → α → State} {l : List α} (h : Keeps s₀ s)
    (hf : ∀ {u a}, Keeps s₀ u → Keeps s₀ (f u a)) : Keeps s₀ (l.foldl f s) := by
  induction l generalizing s with
  | nil => exact h
  | cons a l ih => exact ih (hf h)

/-- The same where the state is carried along with something else. -/
theorem Keeps.foldFst {α β : Type} {f : State × β → α → State × β} {l : List α} {r : State × β} (h : Keeps s₀ r.1)
    (hf : ∀ {q a}, Keeps s₀ q.1 → Keeps s₀ (f q a).1) : Keeps s₀ (l.foldl f r).1 := by
  induction l generalizing r with
  | nil => exact h
  | cons a l ih => exact ih (hf h)

theorem Keeps.foldSnd {α β : Type} {f : β × State → α → β × State} {l : List α} {r : β × State} (h : Keeps s₀ r.2)
    (hf : ∀ {q a}, Keeps s₀ q.2 → Keeps s₀ (f q a).2) : Keeps s₀ (l.foldl f r).2 := by
  induction l generalizing r with
  | nil => exact h
  | cons a l ih => exact ih (hf h)

theorem Keeps.fst {α : Type} {r : State × α} {a : α} (h : Keeps s₀ r.1) (e : r = (s, a)) : Keeps s₀ s := by
  subst e; exact h

theorem Keeps.snd {α : Type} {r : α × State} {a : α} (h : Keeps s₀ r.2) (e : r = (a, s)) : Keeps s₀ s := by
  subst e; exact h

theorem Keeps.iteFst {α : Type} {c : Prop} [Decidable c] {r q : State × α} (h : Keeps s₀ r.1) (g : Keeps s₀ q.1) :
    Keeps s₀ (if c then r else q).1 := by
  split
  · exact h
  · exact g

theorem Keeps.iteSnd {α : Type} {c : Prop} [Decidable c] {r q : α × State} (h : Keeps s₀ r.2) (g : Keeps s₀ q.2) :
    Keeps s₀ (if c then r else q).2 := by
  split
  · exact h
  · exact g

theorem KeepsSome.none : KeepsSome s₀ none := nofun

theorem KeepsSome.some (h : Keeps s₀ s) : KeepsSome s₀ (some s) := by
  rintro _ ⟨⟩; exact h

theorem KeepsSome.ite {c : Prop} [Decidable c] {o p : Option State} (h : KeepsSome s₀ o) (g : KeepsSome s₀ p) :
    KeepsSome s₀ (if c then o else p) := by
  split
  · exact h
  · exact g

theorem KeepsSome.map {α : Type} {o : Option α} {f : α → State} (h : ∀ a, Keeps s₀ (f a)) : KeepsSome s₀ (o.map f) := by
  cases o with
  | none => exact .none
  | some a => exact .some (h a)

theorem Keeps.getD {o : Option State} (h : KeepsSome s₀ o) (g : Keeps s₀ s) : Keeps s₀ (o.getD s) := by
  cases o with
  | none => exact g
  | some u => exact h u rfl

theorem KeepsNext.next (h : Keeps s₀ s) : KeepsNext s₀ (.next s) := by
  rintro _ ⟨⟩; exact h

theorem KeepsNext.ite {c : Prop} [Decidable c] {o p : Host.Outcome State Fault Refusal} (h : KeepsNext s₀ o) (g : KeepsNext s₀ p) :
    KeepsNext s₀ (if c then o else p) := by
  split
  · exact h
  · exact g

theorem KeepsEither.ok (h : Keeps s₀ s) : KeepsEither s₀ (.ok s) := by
  rintro _ (⟨⟨⟩⟩ | ⟨⟨⟩⟩); exact h

theorem KeepsEither.error (h : Keeps s₀ s) : KeepsEither s₀ (.error s) := by
  rintro _ (⟨⟨⟩⟩ | ⟨⟨⟩⟩); exact h

theorem KeepsPlan.error {e : Trap} : KeepsPlan (.error e) := nofun

theorem KeepsPlan.ok {p : Plan} (h : ∀ {s t pages}, Keeps s t → Keeps s (p.act t pages)) : KeepsPlan (.ok p) := by
  rintro _ ⟨⟩; exact h

/-! ## What an effect leaves, and its issue (R30, R85, R88) -/

theorem Keeps.done (h : Keeps s₀ s) {l} : Keeps s₀ (Res.done s l).state := h
theorem Keeps.moved (h : Keeps s₀ s) : Keeps s₀ (Res.moved s).state := h
theorem Keeps.hold (h : Keeps s₀ s) : Keeps s₀ (Res.hold s).state := h
theorem Keeps.trap (h : Keeps s₀ s) {e} : Keeps s₀ (Res.trap s e).state := h
theorem Keeps.after (h : Keeps s₀ s) {e} : Keeps s₀ (Res.after s e).state := h

theorem Keeps.iteRes {c : Prop} [Decidable c] {r q : Res} (h : Keeps s₀ r.state) (g : Keeps s₀ q.state) :
    Keeps s₀ (if c then r else q).state := by
  split
  · exact h
  · exact g

theorem Keeps.ofRes {r q : Res} (h : Keeps s₀ r.state) (e : r = q) : Keeps s₀ q.state := e ▸ h

theorem Keeps.gated (h : Keeps s₀ s) {x ex srcs dsts} {r : Res} (hr : Keeps s₀ r.state) :
    Keeps s₀ (Machine.gated x s ex srcs dsts r).state := by
  unfold Machine.gated
  split
  · exact hr
  · exact h
  · exact h

theorem Keeps.finish {x adv} {r : Res} (hr : Keeps s₀ r.state) : Keeps s₀ (Machine.finish x adv r) := hr.trans (finish_keeps x adv r)

theorem KeepsNext.issue {len} {e : Effect} (he : ∀ x, Keeps s₀ (e x s).state) : KeepsNext s₀ (Machine.issue len e s) := by
  unfold Machine.issue
  split
  · exact nofun
  · exact .next (.finish (he _))

theorem KeepsNext.issuePriv (h : Keeps s₀ s) {e : Effect} (he : ∀ x, Keeps s₀ (e x s).state) : KeepsNext s₀ (Machine.issuePriv e s) := by
  refine .issue fun x => ?_
  split
  · exact he x
  · exact .trap h

/-! ## Control registers (R64, R142) -/

theorem Keeps.csrPut (h : Keeps s₀ s) {part n v} : Keeps s₀ (Machine.csrPut s part n v) :=
  .same h

/-! ## Memory and the caches (R9, R147-R150, R152) -/

theorem Keeps.nearBlockWrite (h : Keeps s₀ s) {part pa l} : Keeps s₀ (Machine.nearBlockWrite s part pa l) :=
  h.trans (nearBlockWrite_only _ _ _ _).keeps

theorem Keeps.poison (h : Keeps s₀ s) {part pa} : Keeps s₀ (Machine.poison s part pa) :=
  h.trans (poison_only _ _ _).keeps

theorem Keeps.nearWrite (h : Keeps s₀ s) {part pa l} : Keeps s₀ (Machine.nearWrite s part pa l) :=
  h.trans (nearWrite_only _ _ _ _).keeps

theorem Keeps.homeWrite (h : Keeps s₀ s) {part pa l} : Keeps s₀ (Machine.homeWrite s part pa l) :=
  h.trans (homeWrite_only _ _ _ _).keeps

theorem Keeps.homeDrop (h : Keeps s₀ s) {part pa} : Keeps s₀ (Machine.homeDrop s part pa) :=
  h.trans (homeDrop_only _ _ _).keeps

theorem Keeps.blockWrite (h : Keeps s₀ s) {part pa l} : Keeps s₀ (Machine.blockWrite s part pa l) :=
  h.trans (blockWrite_only _ _ _ _).keeps

theorem Keeps.outerWrite (h : Keeps s₀ s) {apc pa l} : Keeps s₀ (Machine.outerWrite s apc pa l) :=
  h.trans (outerWrite_only _ _ _ _).keeps

theorem Keeps.evictL2 (h : Keeps s₀ s) {key} : Keeps s₀ (Machine.evictL2 s key) :=
  h.trans (evictL2_only _ _).keeps

theorem Keeps.sliceRead (h : Keeps s₀ s) {sector apc pa n} : Keeps s₀ (Machine.sliceRead s sector apc pa n).2 :=
  h.trans (sliceRead_only _ _ _ _ _).keeps

theorem Keeps.releaseCaches (h : Keeps s₀ s) {sector sc} : Keeps s₀ (Machine.releaseCaches s sector sc) :=
  h.trans (releaseCaches_only _ _ _).keeps

theorem Keeps.setCore (h : Keeps s₀ s) {c f} : Keeps s₀ (Machine.setCore s c f) :=
  .same h

theorem Keeps.acquireCaches (h : Keeps s₀ s) {core sc} : Keeps s₀ (Machine.acquireCaches s core sc) :=
  h.trans (acquireCaches_only _ _ _).keeps

theorem Keeps.l1Read (h : Keeps s₀ s) {core pa n const} : Keeps s₀ (Machine.l1Read s core pa n const).2 :=
  h.trans (l1Read_only _ _ _ _ _).keeps

theorem Keeps.l1Drop (h : Keeps s₀ s) {core pa} : Keeps s₀ (Machine.l1Drop s core pa) :=
  h.trans (l1Drop_only _ _ _).keeps

theorem Keeps.homePut (h : Keeps s₀ s) {part x x1 x2} : Keeps s₀ (Machine.homePut s part x x1 x2) :=
  h.trans (homePut_only _ _ _ _ _).keeps

/-! ## Translation and the scheduler's writes (R139-R144) -/

theorem Keeps.podSend (h : Keeps s₀ s) {d m} : Keeps s₀ (Machine.podSend s d m) := by
  unfold Machine.podSend
  split
  · exact .same h
  · exact h

theorem KeepsSome.supWrite (h : Keeps s₀ s) {core told x x1 x2} : KeepsSome s₀ (Machine.supWrite core told x s x1 x2) :=
  fun _ e => h.trans (supWrite_only _ _ _ _ _ _ _ e).keeps

theorem KeepsSome.schedWrite (h : Keeps s₀ s) {part strict x x1 x2} : KeepsSome s₀ (Machine.schedWrite part strict x s x1 x2) :=
  fun _ e => h.trans (schedWrite_only _ _ _ _ _ _ _ e).keeps

/-! ## Beams, lanes and the agenda (R84-R88) -/

theorem Keeps.post (h : Keeps s₀ s) {d i} : Keeps s₀ (Machine.post s d i) :=
  .same h

theorem Keeps.postFirst (h : Keeps s₀ s) {i} : Keeps s₀ (Machine.postFirst s i) :=
  .same h

theorem Keeps.draw (h : Keeps s₀ s) : Keeps s₀ (Machine.draw s) :=
  .same h

theorem Keeps.postFree (h : Keeps s₀ s) {bound i} : Keeps s₀ (Machine.postFree s bound i) :=
  .draw (.post h)

theorem Keeps.newKey (h : Keeps s₀ s) : Keeps s₀ (Machine.newKey s).2 :=
  .same h

theorem Keeps.startWalksFor (h : Keeps s₀ s) {core want vas} : Keeps s₀ (Machine.startWalksFor s core want vas) := by
  unfold Machine.startWalksFor
  refine .fold h fun h => ?_
  extract_lets c
  split
  · exact .ite h (.setCore h)
  · refine .ite ?_ h
    split
    · rename_i id s1 e
      exact .postFree (.setCore (.snd (.newKey h) e))

theorem Keeps.startWalks (h : Keeps s₀ s) {k sup write vas} : Keeps s₀ (Machine.startWalks s k sup write vas) :=
  h.trans (startWalks_only _ _ _ _ _).keeps

theorem Keeps.setBeam (h : Keeps s₀ s) {k b} : Keeps s₀ (Machine.setBeam s k b) :=
  h.trans (setBeam_only _ _ _).keeps

theorem Keeps.onBeam (h : Keeps s₀ s) {k f} : Keeps s₀ (Machine.onBeam s k f) :=
  h.trans (onBeam_only _ _ _).keeps

theorem Keeps.onLanes (h : Keeps s₀ s) {k on f} : Keeps s₀ (Machine.onLanes s k on f) :=
  h.trans (onLanes_only _ _ _ _).keeps

theorem Keeps.queueTrap (h : Keeps s₀ s) {k t} : Keeps s₀ (Machine.queueTrap s k t) :=
  h.trans (queueTrap_only _ _ _).keeps

/-! ## Performing accesses (R147-R150, R161-R167) -/

theorem Keeps.ownCopyBack (h : Keeps s₀ s) {sector apc pa dropIt} : Keeps s₀ (Machine.ownCopyBack s sector apc pa dropIt) :=
  h.trans (ownCopyBack_only _ _ _ _ _).keeps

theorem Keeps.storePath (h : Keeps s₀ s) {core t sc l} : Keeps s₀ (Machine.storePath s core t sc l) :=
  h.trans (storePath_only _ _ _ _ _).keeps

theorem Keeps.performPend (h : Keeps s₀ s) {k p} : Keeps s₀ (Machine.performPend s k p) :=
  h.trans (performPend_only _ _ _).keeps

theorem Keeps.completePend (h : Keeps s₀ s) {k id} : Keeps s₀ (Machine.completePend s k id) :=
  h.trans (completePend_only _ _ _).keeps

theorem Keeps.performStore (h : Keeps s₀ s) {k x} : Keeps s₀ (Machine.performStore s k x) :=
  h.trans (performStore_only _ _ _).keeps

theorem Keeps.drainWhere (h : Keeps s₀ s) {k f} : Keeps s₀ (Machine.drainWhere s k f) :=
  h.trans (drainWhere_only _ _ _).keeps

theorem Keeps.beforeAccess (h : Keeps s₀ s) {k sp} : Keeps s₀ (Machine.beforeAccess s k sp) :=
  h.trans (beforeAccess_only _ _ _).keeps

theorem Keeps.performAll (h : Keeps s₀ s) {k} : Keeps s₀ (Machine.performAll s k) :=
  h.trans (performAll_only _ _).keeps

theorem Keeps.releaseAt (h : Keeps s₀ s) {k sc} : Keeps s₀ (Machine.releaseAt s k sc) :=
  h.trans (releaseAt_only _ _ _).keeps

theorem Keeps.released (h : Keeps s₀ s) {k sc f} (hf : ∀ {u}, Keeps s₀ u → Keeps s₀ (f u).state) :
    Keeps s₀ (Machine.released s k sc f).state := by
  unfold Machine.released
  extract_lets +onlyGivenNames s1
  have hs1 : Keeps s₀ s1 := .performAll h
  split
  · exact .hold hs1
  · exact hf (.releaseCaches hs1)

theorem Keeps.acquireAt (h : Keeps s₀ s) {k sc} : Keeps s₀ (Machine.acquireAt s k sc) :=
  h.trans (acquireAt_only _ _ _).keeps

theorem Keeps.fenceDev (h : Keeps s₀ s) {k} : Keeps s₀ (Machine.fenceDev s k) :=
  .acquireAt (.releaseAt h)

/-! ## Fetching and traps (R24, R285-R293) -/

theorem Keeps.fetchBytes (h : Keeps s₀ s) {k b pc} : Keeps s₀ (Machine.fetchBytes s k b pc).2 :=
  h.trans (fetchBytes_only _ _ _ _).keeps

theorem Keeps.fetch (h : Keeps s₀ s) {x} : Keeps s₀ (Machine.fetch s x).2 :=
  h.trans (fetch_only _ _).keeps

theorem Keeps.takeTrap (h : Keeps s₀ s) {k t} : Keeps s₀ (Machine.takeTrap s k t) :=
  h.trans (takeTrap_keeps _ _ _)

theorem Keeps.entryWalks (h : Keeps s₀ s) {k} : Keeps s₀ (Machine.entryWalks s k) :=
  h.trans (entryWalks_only _ _).keeps

theorem Keeps.preciseTrap (h : Keeps s₀ s) {k t} : Keeps s₀ (Machine.preciseTrap s k t) :=
  h.trans (preciseTrap_keeps _ _ _)

theorem Keeps.settleRun (h : Keeps s₀ s) {k} : Keeps s₀ (Machine.settleRun s k) :=
  h.trans (settleRun_keeps _ _)

theorem Keeps.tried (h : Keeps s₀ s) {k} : Keeps s₀ (Machine.tried s k) :=
  .onBeam h

/-! ## Lane forms and producers (R28-R31) -/

theorem Keeps.laneEffect (h : Keeps s₀ s) {g srcs dsts f x} : Keeps s₀ (Machine.laneEffect g srcs dsts f x s).state :=
  h.trans (laneEffect_keeps _ _ _ _ _ _)

theorem Keeps.crossEffect (h : Keeps s₀ s) {srcs dsts f x} : Keeps s₀ (Machine.crossEffect srcs dsts f x s).state :=
  h.trans (crossEffect_keeps _ _ _ _ _)

theorem Keeps.startProducer (h : Keeps s₀ s) {x i dst n kind lanes bound} :
    Keeps s₀ (Machine.startProducer x s i dst n kind lanes bound) := by
  unfold Machine.startProducer
  extract_lets +onlyGivenNames id on s1
  have hs1 : Keeps s₀ s1 := .onBeam h
  exact .postFree hs1

theorem Keeps.producer (h : Keeps s₀ s) {i g srcs d n bound f x} : Keeps s₀ (Machine.producer i g srcs d n bound f x s).state :=
  .gated h (.done (.startProducer h))

/-! ## The Heliograph (R256-R265) -/

theorem Keeps.setChan (h : Keeps s₀ s) {gk c f} : Keeps s₀ (Machine.setChan s gk c f) :=
  .same h

theorem Keeps.completePhase (h : Keeps s₀ s) {gk c} : Keeps s₀ (Machine.completePhase s gk c) := by
  unfold Machine.completePhase
  split
  · exact h
  · extract_lets ch s1 s2
    have hs1 : Keeps s₀ s1 := .setChan h
    have hs2 : Keeps s₀ s2 := .fold hs1 fun h => .onBeam h
    exact .post hs2

theorem Keeps.arrive (h : Keeps s₀ s) {gk c k} : Keeps s₀ (Machine.arrive s gk c k) := by
  unfold Machine.arrive
  extract_lets s1
  have hs1 : Keeps s₀ s1 := .setChan (.onBeam h)
  split
  · exact hs1
  · exact .ite (.completePhase hs1) hs1

theorem Keeps.exitChannel (h : Keeps s₀ s) {gk c k} : Keeps s₀ (Machine.exitChannel s gk c k) := by
  unfold Machine.exitChannel
  split
  · refine .ite (.setChan h) ?_
    extract_lets e s1
    have hs1 : Keeps s₀ s1 := .setChan h
    exact .ite (.completePhase hs1) hs1
  · exact h

theorem Keeps.beamExited (h : Keeps s₀ s) {k} : Keeps s₀ (Machine.beamExited s k) := by
  unfold Machine.beamExited
  split
  · extract_lets s1
    have hs1 : Keeps s₀ s1 := .ite (.fold h fun h => .exitChannel h) h
    exact .post hs1
  · exact h

theorem Keeps.helioArrive (h : Keeps s₀ s) {hc waits x} : Keeps s₀ (Machine.helioArrive hc waits x s).state := by
  unfold Machine.helioArrive
  split
  · exact .trap h
  · exact .hold h
  · refine .released h fun h => ?_
    extract_lets s2
    have hs2 : Keeps s₀ s2 := .ite (.onBeam h) h
    exact .done (.arrive hs2)

theorem Keeps.effSynput (h : Keeps s₀ s) {a hw x} : Keeps s₀ (Machine.effSynput a hw x s).state := by
  unfold Machine.effSynput
  split
  · exact .trap h
  · exact .gated h (.iteRes (.released h fun h => .done (.post h)) (.trap h))

theorem Keeps.effSynget (h : Keeps s₀ s) {hw d x} : Keeps s₀ (Machine.effSynget hw d x s).state := by
  unfold Machine.effSynget
  split
  · exact .trap h
  · exact .gated h (.done (.startProducer h))

theorem KeepsNext.execHgBarrierRelease (h : Keeps s₀ s) {gang ch phase} : KeepsNext s₀ (Machine.execHgBarrierRelease gang ch phase s) := by
  unfold Machine.execHgBarrierRelease
  split
  · exact .next h
  · extract_lets ph
    refine .next (.fold h fun h => ?_)
    split
    · exact h
    · exact .ite (.acquireCaches (.setBeam h)) h

/-! ## Control instructions (R92-R104) -/

theorem Keeps.effSplit (h : Keeps s₀ s) {j x} : Keeps s₀ (Machine.effSplit j x s).state := by
  unfold Machine.effSplit
  split
  · exact .hold h
  · exact .iteRes (.trap h) (.done (.onLanes h))

theorem Keeps.effJoin (h : Keeps s₀ s) {j x} : Keeps s₀ (Machine.effJoin j x s).state := by
  unfold Machine.effJoin
  split
  · exact .hold h
  · exact .iteRes (.trap h) (.iteRes (.trap h) (.moved (.setBeam h)))

theorem Keeps.exitedAll (h : Keeps s₀ s) {k} : Keeps s₀ (Machine.exitedAll s k) := by
  unfold Machine.exitedAll
  split
  · exact h
  · exact .ite (.beamExited h) h

theorem Keeps.effExit (h : Keeps s₀ s) {g x} : Keeps s₀ (Machine.effExit g x s).state := by
  unfold Machine.effExit
  extract_lets +onlyGivenNames ex
  refine .iteRes (.trap h) (.iteRes (.hold h) ?_)
  extract_lets b b1 s1
  have hs1 : Keeps s₀ s1 := .setBeam h
  exact .moved (.ite hs1 (.exitedAll hs1))

theorem KeepsNext.execIllegalInstruction (h : Keeps s₀ s) {e} : KeepsNext s₀ (Machine.execIllegalInstruction e s) := by
  unfold Machine.execIllegalInstruction
  refine .issue fun x => ?_
  split <;> exact .trap h

/-! ## Division (R30, R109) -/

theorem Keeps.divide (h : Keeps s₀ s) {i w b a d bound f x} : Keeps s₀ (Machine.divide i w b a d bound f x s).state :=
  .gated h (.iteRes (.done (.startProducer h)) (.trap h))

/-! ## Packets, queues and the completion word (R61-R69) -/

theorem Keeps.lqPut64 (h : Keeps s₀ s) {q k v} : Keeps s₀ (Machine.lqPut64 s q k v) :=
  .csrPut (.csrPut h)

theorem Keeps.lqFault (h : Keeps s₀ s) {q} : Keeps s₀ (Machine.lqFault s q) :=
  .csrPut h

theorem Keeps.lqReadFault (h : Keeps s₀ s) {q} : Keeps s₀ (Machine.lqReadFault s q) :=
  .csrPut h

theorem Keeps.lqAdvance (h : Keeps s₀ s) {q} : Keeps s₀ (Machine.lqAdvance s q) :=
  .csrPut h

theorem Keeps.setQueue (h : Keeps s₀ s) {q f} : Keeps s₀ (Machine.setQueue s q f) :=
  .same h

theorem Keeps.writeSignal (h : Keeps s₀ s) {part q tag signal deadline status} :
    Keeps s₀ (Machine.writeSignal s part q tag signal deadline status) := by
  unfold Machine.writeSignal
  extract_lets late w s1
  have hs1 : Keeps s₀ s1 := by
    unfold s1
    refine .ite h ?_
    split
    · rename_i t e
      exact KeepsSome.schedWrite h _ e
    · exact .lqFault h
  exact .post hs1

theorem Keeps.retirePacket (h : Keeps s₀ s) {q p status} : Keeps s₀ (Machine.retirePacket s q p status) := by
  unfold Machine.retirePacket
  extract_lets s1 s2
  have hs1 : Keeps s₀ s1 := .writeSignal h
  have hs2 : Keeps s₀ s2 := .setQueue hs1
  exact .ite (.post hs2) (.lqAdvance hs2)

theorem Keeps.takeTape (h : Keeps s₀ s) {q l} : Keeps s₀ (Machine.takeTape s q l) :=
  .ite (.lqPut64 (.lqPut64 (.lqPut64 h))) h

theorem Keeps.judge (h : Keeps s₀ s) {q} : Keeps s₀ (Machine.judge s q) := by
  unfold Machine.judge
  split
  · exact h
  · refine .ite h ?_
    extract_lets +onlyGivenNames part w
    refine .ite (.retirePacket h) (.ite (.retirePacket h) (.ite ?_ h))
    extract_lets ready s1
    have hs1 : Keeps s₀ s1 := .setQueue h
    exact .post (.post hs1)

theorem Keeps.present (h : Keeps s₀ s) {q l popped launched} : Keeps s₀ (Machine.present s q l popped launched) := by
  unfold Machine.present
  extract_lets +onlyGivenNames p
  refine .ite (.retirePacket h) ?_
  extract_lets s1 s2 s3 s4
  have hs1 : Keeps s₀ s1 := .ite (.takeTape h) h
  have hs2 : Keeps s₀ s2 := .setQueue hs1
  have hs3 : Keeps s₀ s3 := .ite (.postFree hs2) hs2
  have hs4 : Keeps s₀ s4 := .ite (.post hs3) hs3
  exact .judge hs4

theorem Keeps.examine {q} : ∀ {n s}, Keeps s₀ s → Keeps s₀ (Machine.examine s q n)
  | 0, _, h => h
  | n + 1, s, h => by
    unfold Machine.examine
    extract_lets +onlyGivenNames r
    split
    · exact h
    · split
      · exact h
      · split
        · exact .lqReadFault h
        · exact .examine (.present (.setQueue h))

theorem Keeps.pump (h : Keeps s₀ s) {q} : Keeps s₀ (Machine.pump s q) :=
  .examine (.judge h)

theorem Keeps.countChosen (h : Keeps s₀ s) {part p} : Keeps s₀ (Machine.countChosen s part p) :=
  .ite (.same h) h

theorem Keeps.postWithin (h : Keeps s₀ s) {bound i} : Keeps s₀ (Machine.postWithin s bound i) :=
  .ite (.post h) (.postFree h)

theorem KeepsNext.execPacketSelect (h : Keeps s₀ s) {part slot} : KeepsNext s₀ (Machine.execPacketSelect part slot s) := by
  unfold Machine.execPacketSelect
  refine .next (.ite h ?_)
  split
  · exact h
  · split
    · exact h
    · extract_lets s1
      have hs1 : Keeps s₀ s1 := .countChosen (.setQueue h)
      exact .postWithin (.same hs1)

theorem Keeps.acceptKernel (h : Keeps s₀ s) {part q p} : Keeps s₀ (Machine.acceptKernel s part q p) := by
  unfold Machine.acceptKernel
  split
  · exact .retirePacket h
  · split
    · rename_i k s1 e
      extract_lets +onlyGivenNames g
      refine .ite (.retirePacket h) ?_
      extract_lets s2 s3
      have hs2 : Keeps s₀ s2 := .setQueue (.same (.snd (.newKey h) e))
      have hs3 : Keeps s₀ s3 := .ite hs2 (.lqAdvance hs2)
      exact .ite (.post hs3) (.post hs3)

theorem KeepsNext.execPacketAccept (h : Keeps s₀ s) {part slot} : KeepsNext s₀ (Machine.execPacketAccept part slot s) := by
  unfold Machine.execPacketAccept
  refine .next ?_
  split
  · exact h
  · extract_lets s1 s2
    have hs1 : Keeps s₀ s1 := .same h
    have hs2 : Keeps s₀ s2 := by
      unfold s2
      split
      · exact hs1
      · split
        · exact .acceptKernel hs1
        · exact .post (.setQueue hs1)
        · exact .retirePacket hs1
    exact .post (.pump hs2)

theorem KeepsNext.execRewindPop (h : Keeps s₀ s) {q} : KeepsNext s₀ (Machine.execRewindPop q s) := by
  unfold Machine.execRewindPop
  refine .next ?_
  split
  · exact h
  · refine .ite h (.ite ?_ ?_)
    · extract_lets s1 s2
      have hs1 : Keeps s₀ s1 := .writeSignal h
      have hs2 : Keeps s₀ s2 := .pump (.lqAdvance (.setQueue hs1))
      exact .fold hs2 fun h => .ite (.post h) h
    · extract_lets t s1
      have hs1 : Keeps s₀ s1 := .lqPut64 h
      split
      · exact .post (.lqFault hs1)
      · exact .ite (.present hs1) (.retirePacket hs1)

theorem KeepsNext.execDependencePoll (h : Keeps s₀ s) : KeepsNext s₀ (Machine.execDependencePoll s) := by
  unfold Machine.execDependencePoll
  extract_lets s1 waits
  have hs1 : Keeps s₀ s1 := .fold h fun h => .pump h
  exact .next (.ite (.postFree hs1) hs1)

/-! ## Gangs, placement and work donation (R70-R84) -/

theorem Keeps.setCluster (h : Keeps s₀ s) {c f} : Keeps s₀ (Machine.setCluster s c f) :=
  .same h

theorem Keeps.enterHeld (h : Keeps s₀ s) {cl gk} : Keeps s₀ (Machine.enterHeld s cl gk) := by
  unfold Machine.enterHeld
  split
  · rename_i n s1 e
    extract_lets s2
    have hs2 : Keeps s₀ s2 := .same (.snd (.newKey h) e)
    exact .setCluster hs2

theorem Keeps.requestRoom (h : Keeps s₀ s) {cl gk} : Keeps s₀ (Machine.requestRoom s cl gk) := by
  unfold Machine.requestRoom
  split
  · exact h
  · extract_lets +onlyGivenNames mine
    refine .ite h ?_
    split
    · exact h
    · extract_lets s1 s2
      have hs1 : Keeps s₀ s1 := .fold h fun h => .same h
      have hs2 : Keeps s₀ s2 := .setCluster hs1
      exact .post hs2

/-- The state in which a grid has given up its next gang. -/
theorem Keeps.takeGang (h : Keeps s₀ s) {gk g k} (e : Machine.takeGang s gk g = some (k, t)) : Keeps s₀ t := by
  unfold Machine.takeGang at e
  split at e
  · cases e; exact .same h
  · split at e
    · cases e; exact .same h
    · cases e

theorem Keeps.wakeThieves (h : Keeps s₀ s) {part} : Keeps s₀ (Machine.wakeThieves s part) :=
  .fold h fun h => .ite (.postFree (.setCluster h)) h

theorem Keeps.wakeThief (h : Keeps s₀ s) {cl} : Keeps s₀ (Machine.wakeThief s cl) :=
  .ite (.post (.setCluster h)) h

theorem Keeps.endBackoff (h : Keeps s₀ s) {cl} : Keeps s₀ (Machine.endBackoff s cl) :=
  .ite (.setCluster (.same h)) h

theorem Keeps.dealTo (h : Keeps s₀ s) {part gk cl g} : Keeps s₀ (Machine.dealTo s part gk cl g) := by
  unfold Machine.dealTo
  split
  · exact h
  · rename_i k s1 e
    extract_lets +onlyGivenNames s2 s3
    have hs2 : Keeps s₀ s2 := .enterHeld (.takeGang h e)
    have hs3 : Keeps s₀ s3 := .ite (.requestRoom hs2) hs2
    exact .wakeThieves (.post (.postFirst (.endBackoff hs3)))

theorem KeepsNext.execGangDeal (h : Keeps s₀ s) {part} : KeepsNext s₀ (Machine.execGangDeal part s) := by
  unfold Machine.execGangDeal
  refine .next ?_
  split
  · exact h
  · split
    · exact h
    · refine .ite ?_ ?_
      · split
        · exact .dealTo h
        · exact h
      · split
        · exact .dealTo h
        · exact h

theorem Keeps.setHandle (h : Keeps s₀ s) {core e f} : Keeps s₀ (Machine.setHandle s core e f) :=
  .setCore h

theorem Keeps.takeBlock (h : Keeps s₀ s) {gk k core g} : Keeps s₀ (Machine.takeBlock s gk k core g) := by
  unfold Machine.takeBlock
  extract_lets bs nb base b
  split
  · rename_i key s1 e
    exact .same (.snd (.newKey h) e)

theorem Keeps.placeGang (h : Keeps s₀ s) {cl gk c0 g} : Keeps s₀ (Machine.placeGang s cl gk c0 g) := by
  unfold Machine.placeGang
  extract_lets s1 s2 s3
  have hs1 : Keeps s₀ s1 := .same h
  have hs2 : Keeps s₀ s2 := .fold hs1 fun h => .takeBlock h
  have hs3 : Keeps s₀ s3 := .setCluster hs2
  exact .post hs3

theorem KeepsNext.execGangStart (h : Keeps s₀ s) {cl} : KeepsNext s₀ (Machine.execGangStart cl s) := by
  unfold Machine.execGangStart
  refine .next ?_
  split
  · exact .wakeThief h
  · split
    · exact .setCluster h
    · split
      · extract_lets part s1
        have hs1 : Keeps s₀ s1 := .placeGang h
        exact .post (.postFirst hs1)
      · exact .ite (.requestRoom h) h

theorem Keeps.loadMacros (h : Keeps s₀ s) {core g} : Keeps s₀ (Machine.loadMacros s core g) :=
  .fold h fun h => .setCore h

theorem Keeps.zeroLocal (h : Keeps s₀ s) {core base n} : Keeps s₀ (Machine.zeroLocal s core base n) :=
  ⟨fun w => memWf_filter _ (h.mem w), h.beams⟩

theorem Keeps.readyCore (h : Keeps s₀ s) {key b g} : Keeps s₀ (Machine.readyCore s key b g) := by
  unfold Machine.readyCore
  extract_lets s1 s2 s3 s4 s5
  have hs1 : Keeps s₀ s1 := .loadMacros h
  have hs2 : Keeps s₀ s2 := .zeroLocal hs1
  have hs3 : Keeps s₀ s3 := .setCore hs2
  have hs4 : Keeps s₀ s4 := .fold hs3 fun h => .setHandle h
  have hs5 : Keeps s₀ s5 := .setCore hs4
  exact .same hs5

theorem Keeps.startBlock (h : Keeps s₀ s) {key g again} : Keeps s₀ (Machine.startBlock s key g again) := by
  unfold Machine.startBlock
  split
  · exact h
  · rename_i b _
    extract_lets +onlyGivenNames s0 s1
    have hs0 : Keeps s₀ s0 := .readyCore h
    have hs1 : Keeps s₀ s1 := .ite (.acquireCaches hs0) (.ite (.acquireCaches hs0) hs0)
    have hbeams := rising_putAll (fun n => 64 * b.core + n) (fun i => beamStart key i g.args) (· + 1) b.beams (s1.beams, 0)
    exact ⟨hs1.mem, fun w => hbeams (hs1.beams w)⟩

theorem Keeps.startBlocks (h : Keeps s₀ s) {gang g gr} : Keeps s₀ (Machine.startBlocks s gang g gr) := by
  unfold Machine.startBlocks
  extract_lets s1
  have hs1 : Keeps s₀ s1 := .fold h fun h => .startBlock h
  exact .same hs1

theorem Keeps.runDrains (h : Keeps s₀ s) {g} : Keeps s₀ (Machine.runDrains s g) := by
  unfold Machine.runDrains
  refine .fold h fun h => ?_
  split
  · exact h
  · split
    · exact .fold h fun h => .onBeam h
    all_goals exact h

theorem KeepsNext.execBlockThreadStart (h : Keeps s₀ s) {gang} : KeepsNext s₀ (Machine.execBlockThreadStart gang s) := by
  unfold Machine.execBlockThreadStart
  refine .next ?_
  split
  · split
    · exact .ite (.postFree h) (.startBlocks h)
    · exact .ite (.postFree h) (.runDrains h)
    · exact h
    · exact h
  · exact h

theorem Keeps.stealNothing (h : Keeps s₀ s) {cl} : Keeps s₀ (Machine.stealNothing s cl) :=
  .post (.setCluster h)

theorem KeepsNext.execStealRequest (h : Keeps s₀ s) {cl} : KeepsNext s₀ (Machine.execStealRequest cl s) := by
  unfold Machine.execStealRequest
  refine .next (.ite (.setCluster h) ?_)
  extract_lets s1
  have hs1 : Keeps s₀ s1 := .setCluster h
  split
  · exact .stealNothing hs1
  · exact .postFree hs1

theorem KeepsNext.execStealReply (h : Keeps s₀ s) {thief vs} : KeepsNext s₀ (Machine.execStealReply thief vs s) := by
  unfold Machine.execStealReply
  refine .next ?_
  split
  · exact .stealNothing h
  · exact .setCluster h
  · extract_lets +onlyGivenNames l m
    refine .ite (.ite (.stealNothing h) (.postFree h)) ?_
    extract_lets ship s1 s2
    have hs1 : Keeps s₀ s1 := .setCluster h
    have hs2 : Keeps s₀ s2 := .fold hs1 fun h => .same h
    exact .postFree (.post (.postFirst (.setCluster hs2)))

theorem KeepsNext.execStealShipmentArrival (h : Keeps s₀ s) {thief gangs} :
    KeepsNext s₀ (Machine.execStealShipmentArrival thief gangs s) := by
  unfold Machine.execStealShipmentArrival
  extract_lets here s1
  have hs1 : Keeps s₀ s1 := .fold h fun h => .enterHeld h
  exact .next (.wakeThieves (.postFirst (.setCluster hs1)))

/-! ## Deferred memory and commits (R172-R192) -/

theorem Keeps.nudge (h : Keeps s₀ s) : Keeps s₀ (Machine.nudge s) :=
  .fold h fun h => .ite (.post h) h

theorem Keeps.appendRecord (h : Keeps s₀ s) {core r} : Keeps s₀ (Machine.appendRecord s core r) :=
  .postFree (.setCore h)

theorem Keeps.setApply (h : Keeps s₀ s) {ch f} : Keeps s₀ (Machine.setApply s ch f) :=
  .same h

theorem Keeps.sendPacket (h : Keeps s₀ s) {i} : Keeps s₀ (Machine.sendPacket s i) :=
  .draw (.same h)

theorem Keeps.shipBin (h : Keeps s₀ s) {k} : Keeps s₀ (Machine.shipBin s k) := by
  unfold Machine.shipBin
  extract_lets +onlyGivenNames b
  refine .ite h (.ite (.same h) ?_)
  extract_lets s1
  have hs1 : Keeps s₀ s1 := .same h
  exact .fold hs1 fun h => .sendPacket h

theorem Keeps.binEnter (h : Keeps s₀ s) {k i} : Keeps s₀ (Machine.binEnter s k i) := by
  unfold Machine.binEnter
  extract_lets +onlyGivenNames b age
  split
  · extract_lets s1 s2
    have hs1 : Keeps s₀ s1 := .same h
    have hs2 : Keeps s₀ s2 := .ite (.postFree hs1) hs1
    exact .shipBin hs2
  · extract_lets items s1 s2
    have hs1 : Keeps s₀ s1 := .same h
    have hs2 : Keeps s₀ s2 := .ite hs1 (.post hs1)
    exact .ite (.shipBin hs2) hs2

theorem Keeps.shipBlock (h : Keeps s₀ s) {b} : Keeps s₀ (Machine.shipBlock s b) :=
  .fold h fun h => .ite (.shipBin h) h

theorem Keeps.markerOut (h : Keeps s₀ s) {core c} : Keeps s₀ (Machine.markerOut s core c) := by
  unfold Machine.markerOut
  extract_lets +onlyGivenNames chans sec s1 s2 own s3 s4
  have hs1 : Keeps s₀ s1 := .setCore h
  have hs2 : Keeps s₀ s2 := .same hs1
  have hs3 : Keeps s₀ s3 := .fold hs2 fun h => .binEnter h
  have hs4 : Keeps s₀ s4 := .fold hs3 fun h => .ite h (.binEnter h)
  exact .post hs4

theorem KeepsNext.execLogDrain (h : Keeps s₀ s) {core} : KeepsNext s₀ (Machine.execLogDrain core s) := by
  unfold Machine.execLogDrain
  refine .next ?_
  split
  · exact h
  · extract_lets +onlyGivenNames pop
    split
    · exact .markerOut (.setCore h)
    · extract_lets +onlyGivenNames ch k
      refine .ite (.postFree h) ?_
      extract_lets s1
      have hs1 : Keeps s₀ s1 := .setCore (.setCore h)
      exact .binEnter hs1

theorem KeepsNext.execBinRingArrival (h : Keeps s₀ s) {sector items} : KeepsNext s₀ (Machine.execBinRingArrival sector items s) := by
  unfold Machine.execBinRingArrival
  refine .next (.fold h fun h => ?_)
  split
  · exact .binEnter h
  · exact .fold h fun h => .binEnter h

theorem Keeps.noticeFull (h : Keeps s₀ s) {ch full} : Keeps s₀ (Machine.noticeFull s ch full) :=
  .fold h fun h => .postFree (.same h)

theorem Keeps.takePacket (h : Keeps s₀ s) {ch items} : Keeps s₀ (Machine.takePacket s ch items) := by
  unfold Machine.takePacket
  extract_lets s1 l full
  have hs1 : Keeps s₀ s1 := by
    unfold s1
    refine .fold h fun h => ?_
    split
    · exact .setApply h
    · exact .post h
  exact .ite (.noticeFull (.setApply hs1)) hs1

theorem Keeps.holdPacket (h : Keeps s₀ s) {ch items} : Keeps s₀ (Machine.holdPacket s ch items) := by
  unfold Machine.holdPacket
  refine .fold (.setApply h) fun h => ?_
  split
  · exact h
  · exact .post h

theorem Keeps.foldOn (h : Keeps s₀ s) {ch} : Keeps s₀ (Machine.foldOn s ch) :=
  .postFree (.draw (.draw h))

theorem Keeps.beginFold (h : Keeps s₀ s) {ch c} : Keeps s₀ (Machine.beginFold s ch c) :=
  .foldOn (.setApply h)

theorem KeepsNext.execApplyMarkerArrival (h : Keeps s₀ s) {ch c} : KeepsNext s₀ (Machine.execApplyMarkerArrival ch c s) := by
  unfold Machine.execApplyMarkerArrival
  refine .next ?_
  split
  · exact .setApply h
  · exact .beginFold h

theorem Keeps.applyDelta (h : Keeps s₀ s) {part d} : Keeps s₀ (Machine.applyDelta s part d) :=
  .nearBlockWrite h

theorem Keeps.foldBlock (h : Keeps s₀ s) {part k l} : Keeps s₀ (Machine.foldBlock s part k l).1 :=
  .iteFst (.poison h) (.iteFst (.poison h) (.fold h fun h => .applyDelta h))

theorem Keeps.foldNext (h : Keeps s₀ s) {ch} : Keeps s₀ (Machine.foldNext s ch) := by
  unfold Machine.foldNext
  extract_lets +onlyGivenNames a
  split
  · exact h
  · exact .setApply (.foldBlock h)

theorem Keeps.foldSome {ch} : ∀ {n s}, Keeps s₀ s → Keeps s₀ (Machine.foldSome ch n s)
  | 0, _, h => h
  | n + 1, s, h => by
    unfold Machine.foldSome
    exact .foldSome (.foldNext h)

theorem Keeps.foldAll (h : Keeps s₀ s) {ch} : Keeps s₀ (Machine.foldAll s ch) :=
  .foldSome h

theorem Keeps.acknowledge (h : Keeps s₀ s) {c ch fault} : Keeps s₀ (Machine.acknowledge s c ch fault) := by
  unfold Machine.acknowledge
  extract_lets s1
  have hs1 : Keeps s₀ s1 := .same h
  exact .ite hs1 (.post hs1)

theorem Keeps.clearFull (h : Keeps s₀ s) {ch} : Keeps s₀ (Machine.clearFull s ch) :=
  .fold (.noticeFull (.setApply h)) fun h => .ite (.takePacket h) (.setApply h)

theorem Keeps.leaveFull (h : Keeps s₀ s) {ch} : Keeps s₀ (Machine.leaveFull s ch) :=
  .ite (.clearFull h) h

theorem KeepsNext.execFoldReadYield (h : Keeps s₀ s) {ch} : KeepsNext s₀ (Machine.execFoldReadYield ch s) := by
  unfold Machine.execFoldReadYield
  refine .next ?_
  split
  · exact h
  · exact .foldOn (.leaveFull (.foldSome h))

theorem KeepsNext.execFoldRefreshYield (h : Keeps s₀ s) {ch} : KeepsNext s₀ (Machine.execFoldRefreshYield ch s) := by
  unfold Machine.execFoldRefreshYield
  refine .next ?_
  split
  · exact h
  · extract_lets s1 n k mark
    have hs1 : Keeps s₀ s1 := .leaveFull (.foldSome h)
    exact .foldOn (.draw (.draw (.setApply hs1)))

theorem KeepsNext.execFoldComplete (h : Keeps s₀ s) {ch} : KeepsNext s₀ (Machine.execFoldComplete ch s) := by
  unfold Machine.execFoldComplete
  refine .next ?_
  split
  · exact h
  · extract_lets s1 a s3 s4
    have hs1 : Keeps s₀ s1 := .foldAll h
    have hs3 : Keeps s₀ s3 := .leaveFull (.setApply hs1)
    have hs4 : Keeps s₀ s4 := .nudge (.acknowledge hs3)
    split
    · exact hs4
    · exact .beginFold (.setApply hs4)

theorem KeepsNext.execFullStateNotice (h : Keeps s₀ s) {core ch full} : KeepsNext s₀ (Machine.execFullStateNotice core ch full s) := by
  unfold Machine.execFullStateNotice
  extract_lets s1 k
  have hs1 : Keeps s₀ s1 := .setCore h
  exact .next (.ite (.shipBin hs1) hs1)

theorem Keeps.newCommit (h : Keeps s₀ s) {part d logs f} : Keeps s₀ (Machine.newCommit s part d logs f).2 := by
  unfold Machine.newCommit
  split
  · rename_i c s1 e
    exact .post (.same (.snd (.newKey h) e))

theorem KeepsNext.execHgCommitMarkerDelivery (h : Keeps s₀ s) {c} : KeepsNext s₀ (Machine.execHgCommitMarkerDelivery c s) := by
  unfold Machine.execHgCommitMarkerDelivery
  refine .next ?_
  split
  · exact h
  · refine .ite h ?_
    extract_lets +onlyGivenNames s1
    have hs1 : Keeps s₀ s1 := .fold h fun h => .postFree (.same (.setCore h))
    exact .post (.same hs1)

theorem Keeps.prunePast (h : Keeps s₀ s) {m} : Keeps s₀ (Machine.prunePast s m) := by
  unfold Machine.prunePast
  refine .ite h (.fold h fun h => ?_)
  split
  · exact .same h
  · exact h

theorem Keeps.releaseCommit (h : Keeps s₀ s) {c k m} : Keeps s₀ (Machine.releaseCommit s c k m) := by
  unfold Machine.releaseCommit
  split
  · exact h
  · split
    · exact .queueTrap (.setBeam h)
    · exact .setBeam h

theorem Keeps.recordFault (h : Keeps s₀ s) {part x} : Keeps s₀ (Machine.recordFault s part x) := by
  unfold Machine.recordFault
  refine .ite h ?_
  extract_lets s1
  have hs1 : Keeps s₀ s1 := .fold h fun h => .csrPut h
  exact .same hs1

theorem KeepsNext.execCommitComplete (h : Keeps s₀ s) {c} : KeepsNext s₀ (Machine.execCommitComplete c s) := by
  unfold Machine.execCommitComplete
  refine .next ?_
  split
  · exact h
  · refine .ite h ?_
    extract_lets +onlyGivenNames s1 low s2 s3 s4
    have hs1 : Keeps s₀ s1 := .fold (.prunePast h) fun h => .releaseCommit h
    have hs2 : Keeps s₀ s2 := by
      unfold s2
      split
      · exact .ite (.recordFault hs1) hs1
      · exact .fold hs1 fun h => .setCore h
    have hs3 : Keeps s₀ s3 := .same hs2
    have hs4 : Keeps s₀ s4 := by
      unfold s4
      split
      · exact .podSend hs3
      · exact hs3
    split
    · exact .post hs4
    · exact hs4

theorem Keeps.commitBy (h : Keeps s₀ s) {pod logs d x} : Keeps s₀ (Machine.commitBy pod logs d x s).state := by
  unfold Machine.commitBy
  extract_lets +onlyGivenNames part peers past
  split
  · rename_i c s1 e
    extract_lets s2
    have hs2 : Keeps s₀ s2 := .fold (.snd (.newCommit h) e) fun h => .podSend h
    exact .done (.onBeam hs2)

/-! ## Writes of control registers (R316-R323) -/

theorem Keeps.csrPlain (h : Keeps s₀ s) {part n v} : Keeps s₀ (Machine.csrPlain s part n v) :=
  .csrPut h

theorem Keeps.setStat (h : Keeps s₀ s) {v} : Keeps s₀ (Machine.setStat s v) :=
  .csrPut h

theorem Keeps.writePartcfg (h : Keeps s₀ s) {v grid} : Keeps s₀ (Machine.writePartcfg s v grid) :=
  .ite (.setStat h) (.ite (.setStat h) (.same (.setStat h)))

theorem Keeps.applyPartcfg (h : Keeps s₀ s) : Keeps s₀ (Machine.applyPartcfg s) := by
  unfold Machine.applyPartcfg
  split
  · exact h
  · extract_lets +onlyGivenNames old _ s1
    have hs1 : Keeps s₀ s1 := .same (.csrPut h)
    exact .same hs1

theorem Keeps.writePartctl (h : Keeps s₀ s) {v} : Keeps s₀ (Machine.writePartctl s v) := by
  unfold Machine.writePartctl
  extract_lets old busy req ack start s1 s2
  have hs1 : Keeps s₀ s1 := .csrPut h
  have hs2 : Keeps s₀ s2 := .fold hs1 fun h => .ite (.postFree h) h
  exact .ite (.post (.same hs2)) hs2

theorem Keeps.writeNbnd (h : Keeps s₀ s) {v} : Keeps s₀ (Machine.writeNbnd s v) := by
  unfold Machine.writeNbnd
  refine .ite (.setStat h) ?_
  extract_lets s1
  have hs1 : Keeps s₀ s1 := .setStat (.csrPlain h)
  exact .fold hs1 fun h => .ite (.shipBin h) h

theorem Keeps.writeQctl (h : Keeps s₀ s) {v} : Keeps s₀ (Machine.writeQctl s v) :=
  .ite (.setStat h) (.setStat (.csrPlain h))

theorem Keeps.writeTail (h : Keeps s₀ s) {q v} : Keeps s₀ (Machine.writeTail s q v) := by
  unfold Machine.writeTail
  refine .ite h (.ite (.lqFault h) ?_)
  extract_lets s1
  have hs1 : Keeps s₀ s1 := .setQueue h
  exact .pump (.csrPut hs1)

theorem Keeps.writeLqctl (h : Keeps s₀ s) {q v} : Keeps s₀ (Machine.writeLqctl s q v) := by
  unfold Machine.writeLqctl
  extract_lets old en refused fault dev on s1
  have hs1 : Keeps s₀ s1 := .csrPut h
  exact .ite (.pump hs1) hs1

theorem Keeps.writeLq (h : Keeps s₀ s) {q k v} : Keeps s₀ (Machine.writeLq s q k v) := by
  unfold Machine.writeLq
  split
  · exact .ite h (.csrPlain h)
  · exact .ite h (.csrPlain h)
  · exact .ite h (.csrPlain h)
  · exact .writeTail h
  · exact .writeLqctl h
  · exact h

theorem Keeps.writeFqctl (h : Keeps s₀ s) {k v} : Keeps s₀ (Machine.writeFqctl s k v) := by
  unfold Machine.writeFqctl
  extract_lets +onlyGivenNames old en refused err on s1
  have hs1 : Keeps s₀ s1 := .csrPut h
  exact .ite (.same hs1) hs1

theorem Keeps.writeFq (h : Keeps s₀ s) {k j v} : Keeps s₀ (Machine.writeFq s k j v) :=
  .ite (.writeFqctl h) (.ite h (.csrPlain h))

theorem Keeps.writeHmask (h : Keeps s₀ s) {n v} : Keeps s₀ (Machine.writeHmask s n v) :=
  .ite h (.csrPut h)

theorem Keeps.writeBinage (h : Keeps s₀ s) {part v} : Keeps s₀ (Machine.writeBinage s part v) := by
  unfold Machine.writeBinage
  extract_lets s1 age
  have hs1 : Keeps s₀ s1 := .csrPlain h
  exact .ite hs1 (.fold hs1 fun h => .ite (.post h) h)

theorem Keeps.writeMilv (h : Keeps s₀ s) {part n v} : Keeps s₀ (Machine.writeMilv s part n v) := by
  unfold Machine.writeMilv
  refine .ite h ?_
  extract_lets +onlyGivenNames s1
  have hs1 : Keeps s₀ s1 := .csrPlain h
  refine .ite h ?_
  extract_lets s2
  have hs2 : Keeps s₀ s2 := .fold hs1 fun h => .setCore h
  exact .same hs2

theorem Keeps.csrClear (h : Keeps s₀ s) {part n k} : Keeps s₀ (Machine.csrClear s part n k) :=
  .fold h fun h => .csrPut h

theorem Keeps.csrWrite (h : Keeps s₀ s) {part n v grid} : Keeps s₀ (Machine.csrWrite s part n v grid) :=
  .ite (.writeBinage h) <|
  .ite (.ite h (.csrPlain h)) <|
  .ite (.ite (.csrClear h) h) <|
  .ite (.ite h (.csrPlain h)) <|
  .ite (.nudge (.csrPlain h)) <|
  .ite (.ite (.csrClear h) h) <|
  .ite (.writePartcfg h) <|
  .ite (.writePartctl h) <|
  .ite (.writeMilv h) <|
  .ite (.writeNbnd h) <|
  .ite (.writeQctl h) <|
  .ite (.fold (.csrPlain h) fun h => .post h) <|
  .ite (.writeHmask h) <|
  .ite (.writeFq h) <|
  .ite (.writeLq h) (.csrPlain h)

theorem Keeps.pfWrite (h : Keeps s₀ s) {n keep set} : Keeps s₀ (Machine.pfWrite s n keep set) :=
  .same h

theorem Keeps.applyPfWrites (h : Keeps s₀ s) : Keeps s₀ (Machine.applyPfWrites s) :=
  .fold (.same h) fun h => .applyPartcfg (.csrWrite h)

theorem KeepsNext.hostWrite (h : Keeps s₀ s) {p n v} : KeepsNext s₀ (Machine.hostWrite p n v s) :=
  .next (.ite (.csrWrite h) h)

theorem Keeps.answer (h : Keeps s₀ s) {d} : Keeps s₀ (Machine.answer s d) :=
  .same h

theorem KeepsNext.execControlRegisterWrite (h : Keeps s₀ s) {vf place v} :
    KeepsNext s₀ (Machine.execControlRegisterWrite vf place v s) := by
  unfold Machine.execControlRegisterWrite
  refine .next ?_
  split
  · exact .ite (.pfWrite h) (.ite (.post h) (.csrWrite h))
  · exact h
  · exact .answer h
  · exact .answer h

theorem KeepsNext.execHgRebindComplete (h : Keeps s₀ s) : KeepsNext s₀ (Machine.execHgRebindComplete s) := by
  unfold Machine.execHgRebindComplete
  extract_lets +onlyGivenNames _ s1
  have hs1 : Keeps s₀ s1 := .same (.csrPut h)
  exact .next (.fold hs1 fun h => .setCore h)

/-! ## Loads, stores, atomics and walks (R156-R171) -/

theorem Keeps.parkLanes (h : Keeps s₀ s) {k l} : Keeps s₀ (Machine.parkLanes s k l) :=
  .onLanes h

theorem Keeps.accessGlobal (h : Keeps s₀ s) {x op sup lanes act} (ha : ∀ {u ls}, Keeps s₀ u → KeepsSome s₀ (act u ls)) :
    Keeps s₀ (Machine.accessGlobal x s op sup lanes act).state := by
  unfold Machine.accessGlobal
  split
  · exact .trap h
  · extract_lets +onlyGivenNames r bad parked good s1
    have hs1 : Keeps s₀ s1 := .parkLanes h
    split
    · exact .hold (.startWalks h)
    · split
      · exact .hold h
      · split
        · exact .trap hs1
        · split
          · exact .trap hs1
          · split
            · exact .trap hs1
            · split
              · exact .hold h
              · split
                · rename_i s2 e
                  exact .done (ha hs1 _ e)
                · exact .hold h

theorem Keeps.scStamp (h : Keeps s₀ s) {core sc atom targets} : Keeps s₀ (Machine.scStamp s core sc atom targets) := by
  unfold Machine.scStamp
  extract_lets t s1
  have hs1 : Keeps s₀ s1 := .setCore h
  exact .same hs1

theorem Keeps.stampIf (h : Keeps s₀ s) {core q atom targets} : Keeps s₀ (Machine.stampIf s core q atom targets) := by
  unfold Machine.stampIf
  split
  · exact .scStamp h
  all_goals exact h

theorem Keeps.startAccess (h : Keeps s₀ s) {x word epc dst n kind lanes now} :
    Keeps s₀ (Machine.startAccess x s word epc dst n kind lanes now) := by
  unfold Machine.startAccess
  extract_lets +onlyGivenNames id on p s1 s2
  have hs1 : Keeps s₀ s1 := .onBeam h
  have hs2 : Keeps s₀ s2 := .ite (.performPend hs1) hs1
  exact .postFree hs2

theorem Keeps.windowFence (h : Keeps s₀ s) {k ls} : Keeps s₀ (Machine.windowFence s k ls) :=
  .ite (.fenceDev h) h

theorem KeepsSome.loadAct (h : Keeps s₀ s) {x word epc d n q const ls} : KeepsSome s₀ (Machine.loadAct x word epc d n q const s ls) := by
  unfold Machine.loadAct
  refine .ite (.some h) ?_
  extract_lets +onlyGivenNames now s1
  have hs1 : Keeps s₀ s1 := .beforeAccess (.windowFence h)
  refine .ite .none ?_
  extract_lets s2 s3
  have hs2 : Keeps s₀ s2 := .startAccess hs1
  have hs3 : Keeps s₀ s3 := .stampIf hs2
  exact .some (.ite (.acquireCaches hs3) hs3)

theorem Keeps.loadLanes (h : Keeps s₀ s) {x sup word epc d n q const lanes} :
    Keeps s₀ (Machine.loadLanes x s sup word epc d n q const lanes).state :=
  .accessGlobal h fun h => .loadAct h

theorem Keeps.effLoad (h : Keeps s₀ s) {i g n off q const a d x} : Keeps s₀ (Machine.effLoad i g n off q const a d x s).state :=
  .gated h (.loadLanes h)

theorem Keeps.appendAll (h : Keeps s₀ s) {core l} : Keeps s₀ (Machine.appendAll s core l) :=
  .fold h fun h => .appendRecord h

theorem Keeps.beamWritesCsr (h : Keeps s₀ s) {k n v} : Keeps s₀ (Machine.beamWritesCsr s k n v) := by
  unfold Machine.beamWritesCsr
  dsimp only
  refine .ite ?_ (.ite (.post h) (.csrWrite h))
  split
  · exact .ite (.post h) h
  · exact h

theorem Keeps.storeNow (h : Keeps s₀ s) {k sc n g} : Keeps s₀ (Machine.storeNow s k sc n g) :=
  .ite (.beamWritesCsr h) (.storePath h)

theorem Keeps.bufferStore (h : Keeps s₀ s) {x kind sc now pieces} : Keeps s₀ (Machine.bufferStore x s kind sc now pieces) := by
  unfold Machine.bufferStore
  extract_lets id st s1
  have hs1 : Keeps s₀ s1 := .onBeam h
  exact .ite (.performStore hs1) (.postFree hs1)

theorem KeepsSome.storeAct (h : Keeps s₀ s) {x n q ls} : KeepsSome s₀ (Machine.storeAct x n q s ls) := by
  unfold Machine.storeAct
  split
  · exact .some h
  · extract_lets +onlyGivenNames x3 plain recs
    refine .ite (.some h) (.ite .none ?_)
    extract_lets +onlyGivenNames rel s1 s2
    have hs1 : Keeps s₀ s1 := .ite (.releaseAt h) h
    have hs2 : Keeps s₀ s2 := .appendAll hs1
    refine .ite (.some hs2) ?_
    extract_lets +onlyGivenNames s3 now
    have hs3 : Keeps s₀ s3 := .beforeAccess (.windowFence hs2)
    refine .ite .none ?_
    extract_lets s4
    have hs4 : Keeps s₀ s4 := .ite (.fold hs3 fun h => .storeNow h) (.bufferStore hs3)
    exact .some (.stampIf hs4)

theorem Keeps.effStore (h : Keeps s₀ s) {g n off q a d x} : Keeps s₀ (Machine.effStore g n off q a d x s).state :=
  .gated h (.accessGlobal h fun h => .storeAct h)

theorem Keeps.accessLocal (h : Keeps s₀ s) {x n write lanes act} (ha : ∀ {u ls}, Keeps s₀ u → Keeps s₀ (act u ls)) :
    Keeps s₀ (Machine.accessLocal x s n write lanes act).state := by
  unfold Machine.accessLocal
  split
  · exact .trap h
  · split
    · exact .hold h
    · extract_lets +onlyGivenNames r
      split
      · exact .trap h
      · extract_lets +onlyGivenNames ls
        split
        · exact .trap h
        · exact .done (ha h)

theorem Keeps.ldlLanes (h : Keeps s₀ s) {x word epc d n lanes} : Keeps s₀ (Machine.ldlLanes x s word epc d n lanes).state := by
  unfold Machine.ldlLanes
  refine .accessLocal h fun h => ?_
  refine .ite h ?_
  extract_lets s1
  have hs1 : Keeps s₀ s1 := .beforeAccess h
  exact .startAccess hs1

theorem Keeps.effLdl (h : Keeps s₀ s) {i g n off a d x} : Keeps s₀ (Machine.effLdl i g n off a d x s).state :=
  .gated h (.ldlLanes h)

theorem Keeps.effStl (h : Keeps s₀ s) {g n off a d x} : Keeps s₀ (Machine.effStl g n off a d x s).state :=
  .gated h (.accessLocal h fun h => .ite h (.bufferStore (.beforeAccess h)))

theorem KeepsSome.atomAct (h : Keeps s₀ s) {x word epc d dn bytes op q ls} :
    KeepsSome s₀ (Machine.atomAct x word epc d dn bytes op q s ls) := by
  unfold Machine.atomAct
  refine .ite (.some h) ?_
  extract_lets +onlyGivenNames s1 s2
  have hs1 : Keeps s₀ s1 := .ite (.releaseAt h) h
  have hs2 : Keeps s₀ s2 := .beforeAccess hs1
  refine .ite .none ?_
  extract_lets s3 s4
  have hs3 : Keeps s₀ s3 := .startAccess hs2
  have hs4 : Keeps s₀ s4 := .stampIf hs3
  exact .some (.ite (.acquireCaches hs4) hs4)

theorem Keeps.atomLanes (h : Keeps s₀ s) {x sup word epc d dn bytes op q lanes} :
    Keeps s₀ (Machine.atomLanes x s sup word epc d dn bytes op q lanes).state :=
  .accessGlobal h fun h => .atomAct h

theorem Keeps.effAtom (h : Keeps s₀ s) {i bytes op q a d x} : Keeps s₀ (Machine.effAtom i bytes op q a d x s).state :=
  .gated h (.atomLanes h)

theorem Keeps.effAcas (h : Keeps s₀ s) {i bytes q a d x} : Keeps s₀ (Machine.effAcas i bytes q a d x s).state :=
  .gated h (.atomLanes h)

theorem KeepsSome.redAct (h : Keeps s₀ s) {x bytes op q ls} : KeepsSome s₀ (Machine.redAct x bytes op q s ls) := by
  unfold Machine.redAct
  split
  · exact .some h
  · extract_lets +onlyGivenNames x3 plain
    refine .ite (.some h) (.ite .none ?_)
    extract_lets +onlyGivenNames s1 s2
    have hs1 : Keeps s₀ s1 := .ite (.releaseAt h) h
    have hs2 : Keeps s₀ s2 := .appendAll hs1
    refine .ite (.some hs2) ?_
    extract_lets s3
    have hs3 : Keeps s₀ s3 := .bufferStore (.beforeAccess hs2)
    exact .some (.stampIf hs3)

theorem Keeps.effRed (h : Keeps s₀ s) {bytes op q a d x} : Keeps s₀ (Machine.effRed bytes op q a d x s).state :=
  .gated h (.accessGlobal h fun h => .redAct h)

theorem Keeps.effFence (h : Keeps s₀ s) {q x} : Keeps s₀ (Machine.effFence q x s).state := by
  unfold Machine.effFence
  extract_lets +onlyGivenNames s0
  have hs0 : Keeps s₀ s0 := .performAll h
  refine .iteRes (.hold hs0) ?_
  extract_lets s1 s2
  have hs1 : Keeps s₀ s1 := .ite (.releaseAt h) h
  have hs2 : Keeps s₀ s2 := .ite (.acquireAt hs1) hs1
  exact .done (.stampIf hs2)

theorem Keeps.prefetch (h : Keeps s₀ s) {core g} : Keeps s₀ (Machine.prefetch s core g) :=
  .l1Read (.sliceRead h)

theorem Keeps.noteFlush (h : Keeps s₀ s) {core x} : Keeps s₀ (Machine.noteFlush s core x) := by
  unfold Machine.noteFlush
  split
  · exact h
  · exact .same h

theorem Keeps.flushLine (h : Keeps s₀ s) {core x} : Keeps s₀ (Machine.flushLine s core x) := by
  unfold Machine.flushLine
  extract_lets +onlyGivenNames s1 s11
  have hs1 : Keeps s₀ s1 := .noteFlush h
  have hs11 : Keeps s₀ s11 := .ite (.ownCopyBack hs1) hs1
  split
  · exact hs11
  · extract_lets s2
    have hs2 : Keeps s₀ s2 := .ownCopyBack hs11
    exact .l1Drop (.homeDrop (.ownCopyBack hs2))

theorem KeepsNext.execProducerComplete (h : Keeps s₀ s) {core beam id} : KeepsNext s₀ (Machine.execProducerComplete core beam id s) := by
  unfold Machine.execProducerComplete
  extract_lets s1
  have hs1 : Keeps s₀ s1 := .completePend h
  refine .next ?_
  split
  · exact .ite (.post hs1) hs1
  · exact hs1

theorem Keeps.tellWalk (h : Keeps s₀ s) {core key va r} : Keeps s₀ (Machine.tellWalk s core key va r) :=
  .ite (.onBeam h) (.setCore h)

theorem KeepsNext.execPageWalkComplete (h : Keeps s₀ s) {core id} : KeepsNext s₀ (Machine.execPageWalkComplete core id s) := by
  unfold Machine.execPageWalkComplete
  -- The walk's result is a variable here: the kernel would otherwise compute the walk when it compares the cases.
  obtain ⟨walked, hw⟩ : ∃ f, f = walkTables s (some (quarterOf core)) := ⟨_, rfl⟩
  rw [← hw]
  refine .next ?_
  split
  · exact h
  · extract_lets +onlyGivenNames part
    split
    · exact .postFree h
    · extract_lets s1 s2
      have hs1 : Keeps s₀ s1 := .setCore h
      have hs2 : Keeps s₀ s2 := .fold hs1 fun h => .tellWalk h
      split
      · exact .ite (.setCore hs2) hs2
      all_goals exact hs2

theorem KeepsNext.execWritePerformed (h : Keeps s₀ s) {core beam id} : KeepsNext s₀ (Machine.execWritePerformed core beam id s) := by
  unfold Machine.execWritePerformed
  extract_lets s1
  have hs1 : Keeps s₀ s1 := .drainWhere h
  exact .next (.ite (.post hs1) hs1)

/-! ## Control-store bodies and MCALL (R101, R102) -/

/-- What a control-store body may hold keeps the two forms (R102). -/
theorem Keeps.bodyEffect (h : Keeps s₀ s) {i e x} (hi : Machine.bodyEffect i = some e) : Keeps s₀ (e x s).state := by
  cases i with
  | movB32 | movi | movhi | iadd | isub | iaddi | imul | imad | and | or | xor | andn | shl | shr | sra | rotl
    | iminI32 | imaxI32 | iminZ32 | imaxZ32 | icmp32 | icmp64 | sel | lea | imulh | inegI32 | iabsI32 | notB32
    | clzB32 | popcB32 | brev | inegI64 | iabsI64 | clzB64 | popcB64 | bfx | bfi | movB64 | isubI64 | imulI64
    | iminI64 | imaxI64 | iminZ64 | imaxZ64 | andB64 | orB64 | xorB64 | shlB64 | shrB64 | sraB64 | iaddI64 | fadd
    | fsub | fmul | ffma | fmin | fmax | fabs | fneg | frcp | frsq | fsqrt | fexp2 | flog2 | frnd | fcmp
    | faddDirected | fsubDirected | fmulDirected | ffmaDirected | badd2 | bmul2 | bfma2 | cvt | plop | p2g | g2p
    | perm | rand | widf => cases hi; exact .laneEffect h
  | idiv | irem => cases hi; exact .divide h
  | gxld => cases hi; exact .gated h (.iteRes (.done (.startProducer h)) (.trap h))
  | gxst => cases hi; exact .gated h (.iteRes (.done (.onLanes h)) (.trap h))
  | fdiv => cases hi; exact .producer h
  | voteAny | voteAll | voteBallot | voteFirst | shfl | redux | scan => cases hi; exact .crossEffect h
  | ld32 | ld64 | ld128 | ldNarrow | ldc | ldOrdered => cases hi; exact .effLoad h
  | st32 | st64 | st128 | stNarrow | stOrdered => cases hi; exact .effStore h
  | ldl32 | ldlSized => cases hi; exact .effLdl h
  | stl32 | stlSized => cases hi; exact .effStl h
  | pref => cases hi; exact .gated h (.iteRes (.hold (.startWalks h)) (.iteRes (.hold h) (.done (.fold h fun h => .prefetch h))))
  | cflush => cases hi; exact .gated h (.accessGlobal h fun h => .some (.fold h fun h => .flushLine (.beforeAccess h)))
  | atom32 | atom64 => cases hi; exact .effAtom h
  | red32 | red64 => cases hi; exact .effRed h
  | acas32 | acas64 => cases hi; exact .effAcas h
  | fence => cases hi; exact .effFence h
  | rdsp => cases hi; exact .iteRes (.hold h) (.laneEffect h)
  | _ => cases hi

theorem Keeps.macroStep (h : Keeps s₀ s) {m P0 P1 P2 x} : Keeps s₀ (Machine.macroStep m P0 P1 P2 x s).state := by
  unfold Machine.macroStep
  extract_lets +onlyGivenNames i w
  split
  · exact .trap h
  · split
    · exact .trap h
    · split
      · exact .trap h
      · split
        · exact .trap h
        · rename_i e he
          exact .bodyEffect h he

theorem Keeps.undoEntry {x r} (hr : Keeps s₀ r.state) : Keeps s₀ (Machine.undoEntry x r).state := by
  cases r with
  | hold s => exact .hold (.ite hr (.onLanes hr))
  | done | moved | trap | after => exact hr

theorem Keeps.effMcall (h : Keeps s₀ s) {m P0 P1 P2 x} : Keeps s₀ (Machine.effMcall m P0 P1 P2 x s).state := by
  unfold Machine.effMcall
  split
  · exact .hold h
  · split
    · exact .trap h
    · exact .undoEntry (.macroStep (.setBeam h))

theorem KeepsNext.execMcall (h : Keeps s₀ s) {m P0 P1 P2} : KeepsNext s₀ (Machine.execMcall m P0 P1 P2 s) := by
  unfold Machine.execMcall
  split
  · exact nofun
  · exact .next (.finish (.effMcall h))

/-! ## Engine requests (R193-R212) -/

theorem Keeps.handleMoved (h : Keeps s₀ s) : Keeps s₀ (Machine.handleMoved s) :=
  .nudge (.post h)

theorem Keeps.dropLocks (h : Keeps s₀ s) {core e} : Keeps s₀ (Machine.dropLocks s core e) :=
  .same h

theorem Keeps.settleDrain (h : Keeps s₀ s) {core e} : Keeps s₀ (Machine.settleDrain s core e) :=
  .ite (.handleMoved (.setHandle h)) h

theorem Keeps.readerDone (h : Keeps s₀ s) {core src inst} : Keeps s₀ (Machine.readerDone s core src inst) := by
  unfold Machine.readerDone
  split
  · exact h
  · exact .ite (.settleDrain (.setHandle h)) h

theorem Keeps.readerBegin (h : Keeps s₀ s) {core src} : Keeps s₀ (Machine.readerBegin s core src) := by
  unfold Machine.readerBegin
  split
  · exact h
  · exact .setHandle h

theorem Keeps.newInstance (h : Keeps s₀ s) {core e f} : Keeps s₀ (Machine.newInstance s core e f) :=
  .setHandle h

theorem Keeps.fillDone (h : Keeps s₀ s) {core e err nvs eva} : Keeps s₀ (Machine.fillDone s core e err nvs eva) :=
  .handleMoved (.dropLocks (.setHandle h))

theorem Keeps.freeHandle (h : Keeps s₀ s) {core e} : Keeps s₀ (Machine.freeHandle s core e) := by
  unfold Machine.freeHandle
  split
  · exact h
  · exact h
  · exact .handleMoved (.setHandle h)
  · exact .setHandle h

theorem Keeps.effBfree (h : Keeps s₀ s) {h' x} : Keeps s₀ (Machine.effBfree h' x s).state := by
  unfold Machine.effBfree
  split
  · exact .hold h
  · split
    · exact .trap h
    · split
      · exact .trap h
      · exact .done h
      · exact .done (.freeHandle h)
      · exact .done (.freeHandle h)

theorem Keeps.effBtest (h : Keeps s₀ s) {st h' pd x} : Keeps s₀ (Machine.effBtest st h' pd x s).state := by
  unfold Machine.effBtest
  split
  · exact .hold h
  · split
    · exact .trap h
    · exact .done (.onLanes h)

theorem Keeps.effBwaitFree (h : Keeps s₀ s) {h' x} : Keeps s₀ (Machine.effBwaitFree h' x s).state := by
  unfold Machine.effBwaitFree
  split
  · exact .hold h
  · split
    · exact .trap h
    · extract_lets y
      split
      · exact .done h
      · exact .iteRes (.hold h) (.trap h)
      · exact .iteRes (.trap h) (.trap h)
      · exact .trap h

theorem Keeps.effBwaitFull (h : Keeps s₀ s) {h' x} : Keeps s₀ (Machine.effBwaitFull h' x s).state := by
  unfold Machine.effBwaitFull
  split
  · exact .hold h
  · split
    · exact .trap h
    · extract_lets y
      split
      · exact .trap h
      · exact .hold h
      · exact .iteRes (.done h) (.trap h)
      · exact .done h

theorem Keeps.engineAsk (h : Keeps s₀ s) {core sup r} : Keeps s₀ (Machine.engineAsk s core sup r) := by
  unfold Machine.engineAsk
  split
  · exact .startWalksFor h
  · exact h
  · exact .setCore h
  · exact .setCore h

theorem Keeps.localPut (h : Keeps s₀ s) {target l} : Keeps s₀ (Machine.localPut s target l) :=
  .memPut h

theorem Keeps.engineDrop (h : Keeps s₀ s) {core pa} : Keeps s₀ (Machine.engineDrop s core pa) :=
  .l1Drop (.ownCopyBack h)

theorem Keeps.engineWriteLine (h : Keeps s₀ s) {core pa l} : Keeps s₀ (Machine.engineWriteLine s core pa l) :=
  .homeWrite (.engineDrop h)

theorem Keeps.engineWriteBlock (h : Keeps s₀ s) {core pa l} : Keeps s₀ (Machine.engineWriteBlock s core pa l) :=
  .blockWrite (.fold h fun h => .engineDrop h)

theorem Keeps.engineWrite {core pages} : ∀ {n s va l}, Keeps s₀ s → Keeps s₀ (Machine.engineWrite core pages n s va l)
  | 0, _, _, _, h => h
  | n + 1, s, va, l, h => by
    unfold Machine.engineWrite
    split
    · exact h
    · extract_lets +onlyGivenNames va1 pa
      split
      · exact .engineWrite (.engineWriteBlock h)
      · exact .engineWrite (.engineWriteLine h)

theorem Keeps.rangePut (h : Keeps s₀ s) {core pages r off l} : Keeps s₀ (Machine.rangePut s core pages r off l) :=
  .ite (.localPut h) (.engineWrite h)

theorem Keeps.putRest {core pages r written} :
    ∀ {n s off l}, Keeps s₀ s → Keeps s₀ (Machine.putRest core pages r written n s off l)
  | 0, _, _, _, h => h
  | n + 1, s, off, l, h => by
    unfold Machine.putRest
    split
    · exact h
    · exact .putRest (.ite (.fold h fun h => .ite h (.rangePut h)) (.rangePut h))

theorem Keeps.rangeFinish (h : Keeps s₀ s) {core pages r off written l} : Keeps s₀ (Machine.rangeFinish s core pages r off written l) :=
  .ite (.rangePut h) (.putRest h)

theorem Keeps.writeEarly (h : Keeps s₀ s) {core e pages r off written l} :
    Keeps s₀ (Machine.writeEarly s core e pages r off written l).1 := by
  refine .foldFst h fun h => ?_
  split
  · exact .rangePut h
  · exact h

theorem Keeps.settleCluster (h : Keeps s₀ s) {core} : Keeps s₀ (Machine.settleCluster s core) :=
  .fold h fun h => .ite (.performAll h) h

theorem Keeps.takeLocks (h : Keeps s₀ s) {core e h' rs} : Keeps s₀ (Machine.takeLocks s core e h' rs) :=
  .fold (.settleCluster h) fun h => .ite h (.setCore h)

/-- A request keeps what its plan's start keeps. -/
theorem Keeps.request (h : Keeps s₀ s) {a h' size plan x} (hp : ∀ {s bl g gr e q}, KeepsPlan (plan s bl g gr e q)) :
    Keeps s₀ (Machine.request a h' size plan x s).state := by
  unfold Machine.request
  refine .gated h (.released h fun h => ?_)
  split
  · exact .hold h
  · extract_lets +onlyGivenNames lane adr
    split
    · exact .trap h
    · split
      · exact .trap h
      · split
        · exact .trap h
        · split
          · exact .trap h
          · split
            · exact .trap h
            · rename_i p e
              split
              · exact .done (.parkLanes h)
              · exact .trap h
              · exact .trap h
              · exact .hold (.startWalks h)
              · exact .hold h
              · extract_lets +onlyGivenNames s1
                split
                · exact .hold h
                · split
                  · exact .hold (.engineAsk h)
                  · exact .done (hp p e (.takeLocks h))

theorem Keeps.startEngine (h : Keeps s₀ s) {core o r} : Keeps s₀ (Machine.startEngine s core o r) :=
  .postFree (.setCore (.engineAsk h))

theorem KeepsPlan.copyPlan {x i h s bl g gr e q} : KeepsPlan (Machine.copyPlan x i h s bl g gr e q) := by
  unfold Machine.copyPlan
  extract_lets +onlyGivenNames core
  split
  · exact .error
  · extract_lets +onlyGivenNames src hs short
    split
    · exact .error
    · split
      · exact .error
      · exact .error
      · exact .ok fun h => .startEngine (.readerBegin (.newInstance h))

theorem Keeps.effCopy (h : Keeps s₀ s) {a h' x} : Keeps s₀ (Machine.effCopy a h' x s).state :=
  .request h .copyPlan

theorem Keeps.fqPut (h : Keeps s₀ s) {k pa l} : Keeps s₀ (Machine.fqPut s k pa l) :=
  .homePut h

theorem Keeps.submit (h : Keeps s₀ s) {k c} : Keeps s₀ (Machine.submit s k c) := by
  unfold Machine.submit
  extract_lets f slot tail c1 s0 s1
  have hs0 : Keeps s₀ s0 := .ite (.fqPut h) h
  have hs1 : Keeps s₀ s1 := .fqPut hs0
  exact .same hs1

theorem Keeps.pumpFlash {k} : ∀ {n s}, Keeps s₀ s → Keeps s₀ (Machine.pumpFlash k n s)
  | 0, _, h => h
  | n + 1, s, h => by
    unfold Machine.pumpFlash
    extract_lets +onlyGivenNames f
    split
    · exact h
    · exact .ite (.pumpFlash (.submit h)) h

theorem Keeps.addFlash (h : Keeps s₀ s) {k l} : Keeps s₀ (Machine.addFlash s k l) :=
  .pumpFlash (.same h)

theorem Keeps.startFlash (h : Keeps s₀ s) {core e k write q r o} : Keeps s₀ (Machine.startFlash s core e k write q r o) := by
  unfold Machine.startFlash
  extract_lets s1
  have hs1 : Keeps s₀ s1 := .setCore h
  exact .addFlash hs1

theorem KeepsPlan.offlPlan {x i h s bl g gr e q} : KeepsPlan (Machine.offlPlan x i h s bl g gr e q) := by
  unfold Machine.offlPlan
  extract_lets +onlyGivenNames core
  split
  · exact .error
  · split
    · exact .error
    · exact .ok fun h => .startFlash (.newInstance h)

theorem Keeps.effOffl (h : Keeps s₀ s) {a h' x} : Keeps s₀ (Machine.effOffl a h' x s).state :=
  .request h .offlPlan

theorem KeepsPlan.recallPlan {x i h s bl g gr e q} : KeepsPlan (Machine.recallPlan x i h s bl g gr e q) := by
  unfold Machine.recallPlan
  extract_lets +onlyGivenNames core
  split
  · exact .error
  · split
    · exact .error
    · split
      · exact .error
      · dsimp only
        split
        · split
          · exact .ok fun h => .handleMoved (.newInstance (.setHandle h))
          · exact .ok fun h => .startEngine (.newInstance h)
        · exact .ok fun h => .startFlash (.newInstance h)

theorem Keeps.effRecall (h : Keeps s₀ s) {a h' x} : Keeps s₀ (Machine.effRecall a h' x s).state :=
  .request h .recallPlan

theorem Keeps.dropOp (h : Keeps s₀ s) {core e inst} : Keeps s₀ (Machine.dropOp s core e inst) :=
  .setCore h

theorem Keeps.setOp (h : Keeps s₀ s) {core e inst f} : Keeps s₀ (Machine.setOp s core e inst f) :=
  .setCore h

theorem KeepsNext.execCopyComplete (h : Keeps s₀ s) {core h' inst} : KeepsNext s₀ (Machine.execCopyComplete core h' inst s) := by
  unfold Machine.execCopyComplete
  refine .next ?_
  split
  · exact h
  · refine .ite (.postFree h) ?_
    extract_lets d s1
    have hs1 : Keeps s₀ s1 := .readerDone (.dropOp (.rangeFinish h))
    split <;> exact .fillDone hs1

theorem Keeps.flashMove (h : Keeps s₀ s) {k c} : Keeps s₀ (Machine.flashMove s k c) :=
  .ite (.same h) (.rangeFinish h)

theorem Keeps.flashStep (h : Keeps s₀ s) {c status} : Keeps s₀ (Machine.flashStep s c status) := by
  unfold Machine.flashStep
  extract_lets +onlyGivenNames core e
  refine .ite ?_ ?_
  · extract_lets s1
    have hs1 : Keeps s₀ s1 := .setHandle h
    exact .ite hs1 (.ite (.settleDrain (.dropLocks (.dropOp hs1))) (.fillDone (.dropOp hs1)))
  · extract_lets +onlyGivenNames eva s1
    have hs1 : Keeps s₀ s1 := .same h
    exact .ite (.handleMoved (.dropLocks (.dropOp (.setHandle hs1)))) (.fillDone (.dropOp hs1))

theorem Keeps.popEntry (h : Keeps s₀ s) {k e} : Keeps s₀ (Machine.popEntry s k e) :=
  .same h

theorem Keeps.takeCompletion (h : Keeps s₀ s) {k e} : Keeps s₀ (Machine.takeCompletion s k e) := by
  unfold Machine.takeCompletion
  extract_lets +onlyGivenNames s1
  have hs1 : Keeps s₀ s1 := .popEntry h
  split
  · exact hs1
  · extract_lets status s2 s3
    have hs2 : Keeps s₀ s2 := .ite (.flashMove hs1) hs1
    have hs3 : Keeps s₀ s3 := .ite (.flashStep hs2) hs2
    exact .pumpFlash hs3

theorem KeepsNext.execNvmeCompletion (h : Keeps s₀ s) {qp entry status} : KeepsNext s₀ (Machine.execNvmeCompletion qp entry status s) := by
  unfold Machine.execNvmeCompletion
  refine .next (.ite ?_ h)
  refine .ite (.post h) ?_
  extract_lets +onlyGivenNames s1
  have hs1 : Keeps s₀ s1 := .fqPut h
  exact .ite (.csrPut hs1) (.ite (.takeCompletion hs1) hs1)

theorem KeepsPlan.decodePlan {x i h s bl g gr e q} : KeepsPlan (Machine.decodePlan x i h s bl g gr e q) := by
  unfold Machine.decodePlan
  extract_lets +onlyGivenNames core
  split
  · exact .error
  · split
    · exact .error
    · exact .ok fun h => .post (.same (.newInstance h))

theorem Keeps.effDecode (h : Keeps s₀ s) {a h' x} : Keeps s₀ (Machine.effDecode a h' x s).state :=
  .request h .decodePlan

theorem KeepsNext.execDecodeStart (h : Keeps s₀ s) {quarter} : KeepsNext s₀ (Machine.execDecodeStart quarter s) := by
  unfold Machine.execDecodeStart
  refine .next (.ite h ?_)
  split
  · exact h
  · extract_lets core r done s1
    have hs1 : Keeps s₀ s1 := .engineAsk h
    exact .ite (.postFree (.same hs1)) (.postFree hs1)

theorem Keeps.decodeFinish (h : Keeps s₀ s) {core o d} : Keeps s₀ (Machine.decodeFinish s core o d) :=
  .rangePut (.rangeFinish h)

theorem KeepsNext.execDecodeComplete (h : Keeps s₀ s) {quarter} : KeepsNext s₀ (Machine.execDecodeComplete quarter s) := by
  unfold Machine.execDecodeComplete
  refine .next ?_
  split
  · exact .same h
  · extract_lets +onlyGivenNames core e
    refine .ite (.postFree h) ?_
    extract_lets s0 d s2
    have hs0 : Keeps s₀ s0 := .same h
    have hs2 : Keeps s₀ s2 := by
      unfold s2
      split
      · exact .fillDone hs0
      · exact .fillDone (.decodeFinish hs0)
    exact .post hs2

theorem Keeps.earlyCopies (h : Keeps s₀ s) {core} : Keeps s₀ (Machine.earlyCopies s core) :=
  .fold h fun h => .setOp (.writeEarly h)

theorem Keeps.earlyDecode (h : Keeps s₀ s) {quarter} : Keeps s₀ (Machine.earlyDecode s quarter) := by
  unfold Machine.earlyDecode
  split
  · exact .same (.writeEarly h)
  · exact h

theorem Keeps.earlyRead (h : Keeps s₀ s) {k c} : Keeps s₀ (Machine.earlyRead k s c) :=
  .ite h (.same (.writeEarly h))

theorem Keeps.engineWrites (h : Keeps s₀ s) : Keeps s₀ (Machine.engineWrites s) := by
  unfold Machine.engineWrites
  extract_lets s1 s2 s3
  have hs1 : Keeps s₀ s1 := .fold h fun h => .earlyCopies h
  have hs2 : Keeps s₀ s2 := .fold hs1 fun h => .earlyDecode h
  have hs3 : Keeps s₀ s3 := .fold hs2 fun h => .fold h fun h => .earlyRead h
  exact .fold hs3 fun h => .ite h (.pumpFlash h)

/-! ## The matrix engine (R213-R234) -/

theorem Keeps.setSlot (h : Keeps s₀ s) {core i v} : Keeps s₀ (Machine.setSlot s core i v) :=
  .setCore h

theorem Keeps.enterMatrix (h : Keeps s₀ s) {core l} : Keeps s₀ (Machine.enterMatrix s core l) :=
  .post (.setCore h)

theorem Keeps.postFrom (h : Keeps s₀ s) {least i} : Keeps s₀ (Machine.postFrom s least i) :=
  .draw (.post h)

theorem Keeps.scaleByte (h : Keeps s₀ s) {core sup va} : Keeps s₀ (Machine.scaleByte s core sup va).2 := by
  unfold Machine.scaleByte
  split
  · exact h
  · extract_lets +onlyGivenNames near
    split
    · exact h
    · refine .iteSnd ?_ ?_
      · split
        · exact h
        · dsimp only
          exact .setCore (.draw h)
      · split <;> exact h

theorem Keeps.scaleBytes {core sup} : ∀ {l s}, Keeps s₀ s → Keeps s₀ (Machine.scaleBytes core sup s l).2
  | [], _, h => h
  | va :: l, s, h => by
    unfold Machine.scaleBytes
    split
    · rename_i s1 e
      exact .snd (.scaleByte h) e
    · rename_i s1 e
      exact .scaleBytes (.snd (.scaleByte h) e)

theorem Keeps.fetchScales (h : Keeps s₀ s) {core sup t p} : Keeps s₀ (Machine.fetchScales core sup t p s).2 :=
  .iteSnd (.scaleBytes h) h

theorem Keeps.mmRead (h : Keeps s₀ s) {core sup ta tb pa pb o} : Keeps s₀ (Machine.mmRead s core sup ta tb pa pb o).2 :=
  .engineAsk (.fetchScales (.fetchScales h))

theorem Keeps.mmStart (h : Keeps s₀ s) {x i h' e bl m} : Keeps s₀ (Machine.mmStart x i h' e bl s m) := by
  unfold Machine.mmStart
  extract_lets core r s1 pa pb o y
  have hs1 : Keeps s₀ s1 := .takeLocks (.newKey h)
  exact .enterMatrix (.mmRead hs1)

theorem Keeps.mmIssue (h : Keeps s₀ s) {x i h' e bl ms} : Keeps s₀ (Machine.mmIssue x i h' e bl s ms).state := by
  unfold Machine.mmIssue
  extract_lets +onlyGivenNames core
  split
  · exact .trap h
  · split
    · extract_lets bad parked
      split
      · exact .trap (.parkLanes h)
      · exact .trap (.parkLanes h)
      all_goals exact .hold (.startWalks h)
    · extract_lets +onlyGivenNames parked good locks s1
      have hs1 : Keeps s₀ s1 := .parkLanes h
      refine .iteRes (.trap hs1) (.iteRes (.done hs1) (.iteRes (.hold h) ?_))
      split
      · exact .hold (.engineAsk h)
      · extract_lets s2
        have hs2 : Keeps s₀ s2 := .newInstance hs1
        exact .done (.fold hs2 fun h => .mmStart h)

theorem Keeps.effMmaOf (h : Keeps s₀ s) {i sig a h' x} : Keeps s₀ (Machine.effMmaOf i sig a h' x s).state := by
  unfold Machine.effMmaOf
  refine .gated h (.released h fun h => ?_)
  split
  · exact .hold h
  · split
    · exact .trap h
    · split
      · exact .trap h
      · exact .hold (.startWalks h)
      · exact .hold h
      · exact .hold h
      · exact .mmIssue h

theorem Keeps.landTile (h : Keeps s₀ s) {t x lines} : Keeps s₀ (Machine.landTile t x s lines) :=
  .fold h fun h => .localPut h

theorem Keeps.performMma (h : Keeps s₀ s) {core o} : Keeps s₀ (Machine.performMma s core o) := by
  unfold Machine.performMma
  split
  · exact h
  · extract_lets p arg a b bytesA bytesB codes s1 s2 la lb m sa sb
    have hs1 : Keeps s₀ s1 := .landTile h
    have hs2 : Keeps s₀ s2 := .landTile hs1
    exact .setSlot (.draw hs2)

theorem Keeps.mmEnd (h : Keeps s₀ s) {core o} : Keeps s₀ (Machine.mmEnd s core o) := by
  unfold Machine.mmEnd
  extract_lets +onlyGivenNames e s1 y
  have hs1 : Keeps s₀ s1 := .setHandle (.dropLocks h)
  exact .ite (.fillDone hs1) hs1

theorem Keeps.matrixFree (h : Keeps s₀ s) {core} : Keeps s₀ (Machine.matrixFree s core) :=
  .nudge (.post (.setCore h))

theorem KeepsNext.execMatrixQueueDispatch (h : Keeps s₀ s) {core} : KeepsNext s₀ (Machine.execMatrixQueueDispatch core s) := by
  unfold Machine.execMatrixQueueDispatch
  refine .next ?_
  split
  · extract_lets s1
    have hs1 : Keeps s₀ s1 := .setCore h
    split <;> exact .postFrom hs1
  · exact h
  · exact h

theorem KeepsNext.execMmaOperationComplete (h : Keeps s₀ s) {core} : KeepsNext s₀ (Machine.execMmaOperationComplete core s) := by
  unfold Machine.execMmaOperationComplete
  refine .next ?_
  split
  · exact h
  · split
    · exact .matrixFree (.mmEnd (.performMma h))
    · exact .matrixFree (.mmEnd (.performMma h))
    · exact h

theorem Keeps.effScbs (h : Keeps s₀ s) {b a k x} : Keeps s₀ (Machine.effScbs b a k x s).state := by
  unfold Machine.effScbs
  refine .gated h (.iteRes (.trap h) ?_)
  extract_lets l s1
  have hs1 : Keeps s₀ s1 := .same h
  exact .done (.setCore hs1)

theorem Keeps.syncEnter (h : Keeps s₀ s) {x i p} : Keeps s₀ (Machine.syncEnter x i s p).state := by
  unfold Machine.syncEnter
  extract_lets +onlyGivenNames core
  refine .iteRes (.hold h) ?_
  extract_lets r o s1
  have hs1 : Keeps s₀ s1 := .takeLocks (.draw (.newKey h))
  exact .done (.enterMatrix (.onBeam hs1))

theorem Keeps.syncIssue (h : Keeps s₀ s) {i a size first plan x} : Keeps s₀ (Machine.syncIssue i a size first plan x s).state := by
  unfold Machine.syncIssue
  refine .gated h (.released h fun h => ?_)
  split
  · exact .hold h
  · split
    · exact .trap h
    · extract_lets lane adr
      refine .iteRes (.trap h) ?_
      split
      · exact .trap h
      · split
        · exact .trap h
        · exact .hold h
        · exact .syncEnter h

theorem Keeps.effAclr (h : Keeps s₀ s) {sl x} : Keeps s₀ (Machine.effAclr sl x s).state := by
  unfold Machine.effAclr
  refine .released h fun h => ?_
  split
  · exact .hold h
  · split
    · exact .trap h
    · exact .syncEnter h

theorem Keeps.putRow (h : Keeps s₀ s) {d out pitch sc r c} : Keeps s₀ (Machine.putRow d out pitch sc s r c) := by
  unfold Machine.putRow
  extract_lets b s1
  have hs1 : Keeps s₀ s1 := .localPut h
  exact .ite (.localPut hs1) hs1

theorem Keeps.convertSlot (h : Keeps s₀ s) {gr q out sc sl} : Keeps s₀ (Machine.convertSlot gr q out sc sl s) :=
  .fold h fun h => .putRow h

theorem Keeps.convertTile (h : Keeps s₀ s) {gr d q inp out sc} : Keeps s₀ (Machine.convertTile gr d q inp out sc s) :=
  .fold h fun h => .putRow h

theorem Keeps.performSync (h : Keeps s₀ s) {core o gr} : Keeps s₀ (Machine.performSync s core o gr) := by
  unfold Machine.performSync
  extract_lets +onlyGivenNames q i
  split
  · exact .setSlot h
  · exact .convertSlot (.setSlot h)
  · exact .setSlot h
  · exact .convertTile h
  · exact h

theorem Keeps.freeBeam (h : Keeps s₀ s) {k id} : Keeps s₀ (Machine.freeBeam s k id) :=
  .onBeam h

/-! ## The Prism stage (R235-R245) -/

theorem Keeps.performSig (h : Keeps s₀ s) {o gr} : Keeps s₀ (Machine.performSig s o gr) := by
  unfold Machine.performSig
  extract_lets +onlyGivenNames q t lines scales vals u rows
  split
  · extract_lets reps s1
    have hs1 : Keeps s₀ s1 := .fold h fun h => .localPut h
    exact .localPut hs1

theorem Keeps.performSbwd (h : Keeps s₀ s) {o} : Keeps s₀ (Machine.performSbwd s o) :=
  .fold h fun h => .localPut h

theorem KeepsNext.execMatrixSyncOpComplete (h : Keeps s₀ s) {core} : KeepsNext s₀ (Machine.execMatrixSyncOpComplete core s) := by
  unfold Machine.execMatrixSyncOpComplete
  refine .next ?_
  split
  · exact h
  · split
    · exact h
    · exact h
    · extract_lets s1
      have hs1 : Keeps s₀ s1 := by
        unfold s1
        split
        · exact h
        · split
          · exact .performSig h
          · exact .performSbwd h
          · exact .performSync h
      exact .matrixFree (.freeBeam (.dropLocks hs1))

/-! ## Rule mode (R246-R255) -/

theorem Keeps.ruleEnter (h : Keeps s₀ s) {x i ranges params places} : Keeps s₀ (Machine.ruleEnter x i s ranges params places).state := by
  unfold Machine.ruleEnter
  extract_lets +onlyGivenNames core
  refine .iteRes (.hold h) ?_
  extract_lets r o s1 s2
  have hs1 : Keeps s₀ s1 := .takeLocks (.draw (.newKey h))
  have hs2 : Keeps s₀ s2 := .setCore (.onBeam hs1)
  exact .done (.post hs2)

theorem Keeps.ruleIssue (h : Keeps s₀ s) {i a size plan x} : Keeps s₀ (Machine.ruleIssue i a size plan x s).state := by
  unfold Machine.ruleIssue
  refine .gated h (.released h fun h => ?_)
  split
  · exact .hold h
  · extract_lets +onlyGivenNames lane adr
    refine .iteRes (.trap h) ?_
    split
    · exact .trap h
    · extract_lets q
      split
      · exact .trap h
      · exact .ruleEnter h

theorem Keeps.loadTable (h : Keeps s₀ s) {core block x n} : Keeps s₀ (Machine.loadTable s core block x n) := by
  unfold Machine.loadTable
  extract_lets
  exact .setCore h

theorem Keeps.writeCells (h : Keeps s₀ s) {q x cells} : Keeps s₀ (Machine.writeCells s q x cells) :=
  .fold h fun h => .localPut h

theorem Keeps.ruleGeneration (h : Keeps s₀ s) {q table i t0 t1} : Keeps s₀ (Machine.ruleGeneration q table i t0 t1 s) :=
  .writeCells h

theorem KeepsNext.execRuleQueueDispatch (h : Keeps s₀ s) {core} : KeepsNext s₀ (Machine.execRuleQueueDispatch core s) := by
  unfold Machine.execRuleQueueDispatch
  refine .next ?_
  split
  · extract_lets +onlyGivenNames s1
    have hs1 : Keeps s₀ s1 := .setCore h
    split
    · extract_lets fresh s2 load
      have hs2 : Keeps s₀ s2 := by
        unfold s2
        split
        · split
          · exact .loadTable hs1
          · exact hs1
        · exact hs1
        · exact hs1
      exact .ite (.postFrom hs2) (.postFrom hs2)
    · exact .postFrom hs1
    · exact .postFrom hs1
  · exact h
  · exact h

theorem Keeps.ruleFree (h : Keeps s₀ s) {core} : Keeps s₀ (Machine.ruleFree s core) :=
  .nudge (.post (.setCore h))

theorem Keeps.rewindBeam (h : Keeps s₀ s) {o} : Keeps s₀ (Machine.rewindBeam s o) :=
  .onBeam (.dropLocks h)

theorem Keeps.withdrawWhere (h : Keeps s₀ s) {core p} : Keeps s₀ (Machine.withdrawWhere s core p) :=
  .fold (.setCore h) fun h => .rewindBeam h

theorem Keeps.withdrawRules (h : Keeps s₀ s) {core block} : Keeps s₀ (Machine.withdrawRules s core block) :=
  .withdrawWhere h

theorem KeepsNext.execRuleGeneration (h : Keeps s₀ s) {core} : KeepsNext s₀ (Machine.execRuleGeneration core s) := by
  unfold Machine.execRuleGeneration
  refine .next ?_
  split
  · exact h
  · split
    · refine .ite h ?_
      extract_lets s1 s2
      have hs1 : Keeps s₀ s1 := .ruleGeneration h
      have hs2 : Keeps s₀ s2 := .same hs1
      exact .ite (.postFrom hs2) (.ite (.ruleFree (.rewindBeam hs2)) (.postFrom hs2))
    · exact h

theorem KeepsNext.execRuleOpComplete (h : Keeps s₀ s) {core} : KeepsNext s₀ (Machine.execRuleOpComplete core s) := by
  unfold Machine.execRuleOpComplete
  refine .next ?_
  split
  · exact h
  · extract_lets onBlock s1
    have hs1 : Keeps s₀ s1 := by
      unfold s1
      split
      · exact .same (.loadTable h)
      · exact .same h
      · exact h
    exact .ruleFree (.freeBeam (.dropLocks hs1))

/-! ## The end of gangs and grids (R298, R311, R312) -/

theorem Keeps.leaveBeam (h : Keeps s₀ s) {b k} : Keeps s₀ (Machine.leaveBeam s b k) := by
  unfold Machine.leaveBeam
  split
  · exact .releaseAt h
  all_goals exact .performAll h

theorem Keeps.clearBlock (h : Keeps s₀ s) {grid key} : Keeps s₀ (Machine.clearBlock grid s key) := by
  unfold Machine.clearBlock
  split
  · exact h
  · extract_lets +onlyGivenNames ks s1 s2 s3
    have hs1 : Keeps s₀ s1 := .fold h fun h => .leaveBeam h
    have hs3 : Keeps s₀ s3 := .setCore (.fold hs1 fun h => .setHandle h)
    exact ⟨hs3.mem, fun w => rising_filter _ (hs3.beams w)⟩

theorem Keeps.victimGone (h : Keeps s₀ s) {cl gk blocks channels} : Keeps s₀ (Machine.victimGone s cl gk blocks channels) :=
  .setCluster h

theorem Keeps.freeArea (h : Keeps s₀ s) {part a} : Keeps s₀ (Machine.freeArea s part a) := by
  unfold Machine.freeArea
  split
  · exact h
  · extract_lets s1
    have hs1 : Keeps s₀ s1 := .same h
    exact .fold hs1 fun h => .ite (.post h) h

theorem Keeps.leaveCluster (h : Keeps s₀ s) {gk g gr} : Keeps s₀ (Machine.leaveCluster s gk g gr) := by
  unfold Machine.leaveCluster
  extract_lets bs s1
  have hs1 : Keeps s₀ s1 := .victimGone (.fold h fun h => .clearBlock h)
  exact .handleMoved (.post (.postFirst hs1))

theorem Keeps.dropGang (h : Keeps s₀ s) {gk g} : Keeps s₀ (Machine.dropGang s gk g) := by
  unfold Machine.dropGang
  extract_lets s1
  have hs1 : Keeps s₀ s1 := .same h
  split
  · exact .ite (.post hs1) hs1
  · exact hs1

theorem Keeps.retireGang (h : Keeps s₀ s) {gk g gr} : Keeps s₀ (Machine.retireGang s gk g gr) :=
  .dropGang (.freeArea (.leaveCluster h))

theorem KeepsNext.execGridEnd (h : Keeps s₀ s) {grid} : KeepsNext s₀ (Machine.execGridEnd grid s) := by
  unfold Machine.execGridEnd
  refine .next ?_
  split
  · exact h
  · refine .ite h ?_
    split
    · rename_i c s1 e
      exact .same (.snd (.newCommit h) e)

theorem KeepsNext.execCompletionWordWrite (h : Keeps s₀ s) {grid} : KeepsNext s₀ (Machine.execCompletionWordWrite grid s) := by
  unfold Machine.execCompletionWordWrite
  refine .next ?_
  split
  · exact h
  · refine .ite h (.ite (.post h) ?_)
    extract_lets s1 s2 s3 s4
    have hs1 : Keeps s₀ s1 := .fold h fun h => .releaseCaches h
    have hs2 : Keeps s₀ s2 := .same hs1
    have hs3 : Keeps s₀ s3 := .writeSignal hs2
    have hs4 : Keeps s₀ s4 := .fold hs3 fun h => .ite (.setCore h) h
    exact .ite (.post hs4) hs4

theorem Keeps.abortBlock (h : Keeps s₀ s) {key} : Keeps s₀ (Machine.abortBlock s key) := by
  unfold Machine.abortBlock
  split
  · exact h
  · extract_lets s1 s2
    have hs1 : Keeps s₀ s1 := .same h
    have hs2 : Keeps s₀ s2 := .fold hs1 fun h => .onBeam h
    exact .withdrawRules (.shipBlock hs2)

theorem Keeps.abortGang (h : Keeps s₀ s) {gk g gr} : Keeps s₀ (Machine.abortGang s gk g gr) := by
  unfold Machine.abortGang
  split
  · exact .post (.freeArea (.fold (.same h) fun h => .abortBlock h))
  · exact .dropGang (.freeArea (.leaveCluster h))
  · extract_lets s1
    have hs1 : Keeps s₀ s1 := .setCluster h
    exact .postFirst (.dropGang (.freeArea hs1))
  · extract_lets s1 s2
    have hs1 : Keeps s₀ s1 := .same h
    have hs2 : Keeps s₀ s2 := .ite hs1 (.same hs1)
    exact .freeArea hs2

theorem KeepsNext.execAbort (h : Keeps s₀ s) {grid} : KeepsNext s₀ (Machine.execAbort grid s) := by
  unfold Machine.execAbort
  refine .next ?_
  split
  · exact h
  · refine .ite h ?_
    extract_lets mine s1 s2
    have hs1 : Keeps s₀ s1 := .fold h fun h => .abortGang h
    have hs2 : Keeps s₀ s2 := .same hs1
    exact .post hs2

/-! ## Save areas (R305-R308) -/

theorem Keeps.poolPut (h : Keeps s₀ s) {part pa l} : Keeps s₀ (Machine.poolPut s part pa l) :=
  .homePut h

theorem Keeps.writeBlock (h : Keeps s₀ s) {b g gr first} : Keeps s₀ (Machine.writeBlock s b g gr first) := by
  unfold Machine.writeBlock
  extract_lets base s1
  have hs1 : Keeps s₀ s1 := .poolPut h
  exact .poolPut hs1

theorem Keeps.handleFrom (h : Keeps s₀ s) {core e r} : Keeps s₀ (Machine.handleFrom s core e r) :=
  .ite (.newInstance h) h

theorem Keeps.keepTicket (h : Keeps s₀ s) {k c} : Keeps s₀ (Machine.keepTicket k s c) :=
  .same h

theorem Keeps.keepTickets (h : Keeps s₀ s) {k} : Keeps s₀ (Machine.keepTickets s k) :=
  .fold h fun h => .keepTicket h

theorem Keeps.takeTicket (h : Keeps s₀ s) {k c} : Keeps s₀ (Machine.takeTicket k s c) := by
  unfold Machine.takeTicket
  split
  · exact .onBeam h
  · exact .ite (.releaseCommit (.same h)) (.same h)

theorem Keeps.takeTickets (h : Keeps s₀ s) {k} : Keeps s₀ (Machine.takeTickets s k) :=
  .fold h fun h => .takeTicket h

theorem Keeps.setHalt (h : Keeps s₀ s) {k} : Keeps s₀ (Machine.setHalt s k) :=
  .csrPut h

theorem Keeps.restoreBeam (h : Keeps s₀ s) {key b kept a l t regAt fullAt i} :
    Keeps s₀ (Machine.restoreBeam key b kept a l t regAt fullAt s i) := by
  unfold Machine.restoreBeam
  extract_lets +onlyGivenNames r k lanes s1 s2
  have hs1 : Keeps s₀ s1 := .setBeam h
  have hs2 : Keeps s₀ s2 := .takeTickets (.ite (.setHalt hs1) hs1)
  exact .settleRun (.acquireCaches hs2)

theorem Keeps.restoreBlock (h : Keeps s₀ s) {gr first kept key} : Keeps s₀ (Machine.restoreBlock gr first kept s key) := by
  unfold Machine.restoreBlock
  split
  · exact h
  · extract_lets s0 base l t a r b s1 fullAt x s2 s3 s4
    have hs0 : Keeps s₀ s0 := .readyCore h
    have hs1 : Keeps s₀ s1 := .same hs0
    have hs2 : Keeps s₀ s2 := .setCore hs1
    have hs3 : Keeps s₀ s3 := .localPut hs2
    have hs4 : Keeps s₀ s4 := .setCore (.fold hs3 fun h => .handleFrom h)
    exact .fold hs4 fun h => .restoreBeam h

/-! ## Pre-emption and retirement (R301-R311) -/

theorem Keeps.endEnded (h : Keeps s₀ s) {k} : Keeps s₀ (Machine.endEnded s k) := by
  unfold Machine.endEnded
  split
  · exact h
  · exact .ite h (.exitedAll (.onBeam h))

theorem Keeps.stopBeam (h : Keeps s₀ s) {k} : Keeps s₀ (Machine.stopBeam s k) := by
  unfold Machine.stopBeam
  split
  · exact h
  · extract_lets expire
    refine .ite (.post h) ?_
    split
    · exact .ite (.post (.takeTrap (.setBeam h))) (.onBeam (.ite (.entryWalks h) h))
    · exact .setBeam h

theorem Keeps.setLeave (h : Keeps s₀ s) {gk key l} : Keeps s₀ (Machine.setLeave s gk key l) :=
  .post (.same h)

theorem Keeps.enterSave (h : Keeps s₀ s) {gk key} : Keeps s₀ (Machine.enterSave s gk key) := by
  unfold Machine.enterSave
  split
  · exact h
  · exact .withdrawRules (.shipBlock (.fold (.setLeave h) fun h => .stopBeam h))

theorem Keeps.beginLeave (h : Keeps s₀ s) {gk key g gr} : Keeps s₀ (Machine.beginLeave s gk key g gr) := by
  unfold Machine.beginLeave
  split
  · exact h
  · split
    · exact .post (.shipBlock (.setLeave h))
    · extract_lets s1
      have hs1 : Keeps s₀ s1 := .fold (.setLeave h) fun h => .onBeam h
      exact .withdrawRules (.shipBlock hs1)
    · exact .enterSave h

theorem Keeps.resumeGang (h : Keeps s₀ s) {gang g gr} : Keeps s₀ (Machine.resumeGang s gang g gr) := by
  unfold Machine.resumeGang
  split
  · exact h
  · extract_lets g1 s1
    have hs1 : Keeps s₀ s1 := .same h
    exact .nudge (.freeArea (.fold hs1 fun h => .restoreBlock h))

theorem Keeps.beginEarly (h : Keeps s₀ s) {gang g gr} : Keeps s₀ (Machine.beginEarly s gang g gr) := by
  unfold Machine.beginEarly
  split
  · extract_lets s1
    have hs1 : Keeps s₀ s1 := .ite (.resumeGang h) (.startBlocks h)
    exact .fold hs1 fun h => .onBeam h
  all_goals exact h

theorem Keeps.beginsPlaced (h : Keeps s₀ s) {gk} : Keeps s₀ (Machine.beginsPlaced s gk) := by
  unfold Machine.beginsPlaced
  split
  · exact .ite (.beginEarly h) h
  · exact h

theorem Keeps.deliverTo (h : Keeps s₀ s) {gk} : Keeps s₀ (Machine.deliverTo s gk) := by
  unfold Machine.deliverTo
  split
  · extract_lets +onlyGivenNames s0
    have hs0 : Keeps s₀ s0 := .beginsPlaced h
    refine .ite (.post hs0) (.ite h ?_)
    extract_lets podue r s1
    have hs1 : Keeps s₀ s1 := .same hs0
    exact .post (.fold hs1 fun h => .beginLeave h)
  · exact h

theorem KeepsNext.execPgraceExpiry (h : Keeps s₀ s) {core beam} : KeepsNext s₀ (Machine.execPgraceExpiry core beam s) := by
  unfold Machine.execPgraceExpiry
  extract_lets k
  refine .next ?_
  split
  · exact h
  · split
    · exact h
    · split
      · exact .post (.withdrawWhere (.setBeam h))
      all_goals exact h

theorem Keeps.saveDrained (h : Keeps s₀ s) {gk key} : Keeps s₀ (Machine.saveDrained s gk key) :=
  .enterSave (.same h)

theorem KeepsNext.execDrainWatchdogExpiry (h : Keeps s₀ s) {block} : KeepsNext s₀ (Machine.execDrainWatchdogExpiry block s) := by
  unfold Machine.execDrainWatchdogExpiry
  refine .next ?_
  split
  · exact h
  · split
    · exact .ite (.saveDrained h) h
    all_goals exact h

theorem Keeps.completeBeam (h : Keeps s₀ s) {k} : Keeps s₀ (Machine.completeBeam s k) := by
  unfold Machine.completeBeam
  split
  · exact h
  · exact .ite (.fold (.drainWhere h) fun h => .completePend h) h

theorem Keeps.finishBeam (h : Keeps s₀ s) {k} : Keeps s₀ (Machine.finishBeam s k) := by
  unfold Machine.finishBeam
  extract_lets s1
  have hs1 : Keeps s₀ s1 := .completeBeam h
  exact .ite (.stopBeam hs1) hs1

theorem Keeps.waitSync (h : Keeps s₀ s) {gk b} : Keeps s₀ (Machine.waitSync s gk b) :=
  .ite (.post h) h

theorem Keeps.stepBlock (h : Keeps s₀ s) {gk g gr key} : Keeps s₀ (Machine.stepBlock gk g gr s key) := by
  unfold Machine.stepBlock
  split
  · exact h
  · split
    · exact h
    · exact h
    · exact h
    · exact .ite (.saveDrained h) h
    · extract_lets s1
      have hs1 : Keeps s₀ s1 := .fold h fun h => .performAll h
      exact .ite (.setLeave (.fold hs1 fun h => .releaseAt h)) (.waitSync hs1)
    · extract_lets s1
      have hs1 : Keeps s₀ s1 := .fold h fun h => .finishBeam h
      exact .ite (.setLeave (.fold hs1 fun h => .releaseAt h)) (.waitSync hs1)
    · exact .ite (.post h) (.ite (.postFree (.setLeave h)) (.post h))

theorem KeepsNext.execGangRetire (h : Keeps s₀ s) {gang} : KeepsNext s₀ (Machine.execGangRetire gang s) := by
  unfold Machine.execGangRetire
  refine .next ?_
  split
  · refine .ite h (.ite ?_ ?_)
    · extract_lets s1
      have hs1 : Keeps s₀ s1 := .fold h fun h => .completeBeam h
      exact .ite (.post hs1) (.ite (.retireGang hs1) hs1)
    · refine .ite ?_ ?_
      · extract_lets +onlyGivenNames s0
        have hs0 : Keeps s₀ s0 := .fold h fun h => .performAll h
        refine .ite (.post hs0) ?_
        extract_lets s1
        have hs1 : Keeps s₀ s1 := .fold hs0 fun h => .shipBlock h
        exact .ite (.retireGang hs1) hs1
      · extract_lets s1
        have hs1 : Keeps s₀ s1 := .fold h fun h => .stepBlock h
        exact .ite (.post hs1) hs1
  · exact h

theorem KeepsNext.execSavePoolAlloc (h : Keeps s₀ s) {gang} : KeepsNext s₀ (Machine.execSavePoolAlloc gang s) := by
  unfold Machine.execSavePoolAlloc
  refine .next ?_
  split
  · refine .ite h ?_
    extract_lets used n
    split
    · exact h
    · exact .post (.same h)
  · exact h

theorem KeepsNext.execSaveWriteComplete (h : Keeps s₀ s) {block} : KeepsNext s₀ (Machine.execSaveWriteComplete block s) := by
  unfold Machine.execSaveWriteComplete
  refine .next ?_
  split
  · exact h
  · split
    · split
      · exact .ite (.post h) (.setLeave (.fold (.writeBlock h) fun h => .keepTickets h))
      · exact h
    · exact h

theorem Keeps.keepNumber (h : Keeps s₀ s) {k} : Keeps s₀ (Machine.keepNumber s k) := by
  unfold Machine.keepNumber
  split
  · exact .ite h (.setCore h)
  · exact h

theorem KeepsNext.execGangPreempted (h : Keeps s₀ s) {gang} : KeepsNext s₀ (Machine.execGangPreempted gang s) := by
  unfold Machine.execGangPreempted
  refine .next ?_
  split
  · refine .ite h ?_
    extract_lets s1 left s2
    have hs1 : Keeps s₀ s1 := .ite (.fold h fun h => .keepNumber h) h
    have hs2 : Keeps s₀ s2 := .leaveCluster hs1
    exact .same hs2
  · exact h

theorem KeepsNext.execResumeRestoreComplete (h : Keeps s₀ s) {gang} : KeepsNext s₀ (Machine.execResumeRestoreComplete gang s) := by
  unfold Machine.execResumeRestoreComplete
  refine .next ?_
  split
  · split
    · refine .ite (.post h) ?_
      extract_lets s1
      have hs1 : Keeps s₀ s1 := .resumeGang h
      exact .same hs1
    · exact .runDrains (.same h)
    · exact h
    · exact h
  · exact h

theorem Keeps.giveUpSave (h : Keeps s₀ s) {key} : Keeps s₀ (Machine.giveUpSave s key) := by
  unfold Machine.giveUpSave
  split
  · exact h
  · extract_lets back
    have hback : Keeps s₀ back := .same h
    split
    · exact hback
    · exact .same hback
    · exact .ite (.same h) (.fold hback fun h => .takeTickets h)
    all_goals exact h

theorem Keeps.overdueRecord (h : Keeps s₀ s) {part core} : Keeps s₀ (Machine.overdueRecord s part core) := by
  unfold Machine.overdueRecord
  refine .ite h ?_
  extract_lets s1
  have hs1 : Keeps s₀ s1 := .csrPut h
  exact .same (.csrClear hs1)

theorem KeepsNext.execPreemptOverdue (h : Keeps s₀ s) {gang} : KeepsNext s₀ (Machine.execPreemptOverdue gang s) := by
  unfold Machine.execPreemptOverdue
  refine .next ?_
  split
  · exact h
  · split
    · refine .ite h ?_
      split
      · exact .overdueRecord h
      · split
        · exact h
        · extract_lets s1 t
          have hs1 : Keeps s₀ s1 := .endEnded (.giveUpSave h)
          exact .ite (.takeTrap hs1) (.post (.entryWalks h))
    · exact h

theorem Keeps.leaveHandler (h : Keeps s₀ s) {k overdue} : Keeps s₀ (Machine.leaveHandler s k overdue) := by
  unfold Machine.leaveHandler
  split
  · exact h
  · rename_i bl g gr _
    extract_lets +onlyGivenNames podue s1
    have hs1 : Keeps s₀ s1 := by
      unfold s1
      split
      · exact .post (.same h)
      · exact h
    cases bl.leave with
    | save | flush => exact .post (.ite (.onBeam hs1) (.stopBeam hs1))
    | none | drain | saveWait | saveWrite | done => exact hs1

/-! ## System instructions (R293-R300) -/

theorem Keeps.fencedDev (h : Keeps s₀ s) {k f} (hf : ∀ {u}, Keeps s₀ u → Keeps s₀ (f u).state) :
    Keeps s₀ (Machine.fencedDev s k f).state :=
  .released h fun h => hf (.acquireAt h)

theorem Keeps.effCsrr (h : Keeps s₀ s) {d i18 x} : Keeps s₀ (Machine.effCsrr d i18 x s).state := by
  unfold Machine.effCsrr
  refine .gated h (.fencedDev h fun h => ?_)
  split
  · exact .trap h
  · exact .done (.onLanes h)

theorem Keeps.effCsrw (h : Keeps s₀ s) {d i18 x} : Keeps s₀ (Machine.effCsrw d i18 x s).state := by
  unfold Machine.effCsrw
  refine .gated h (.fencedDev h fun h => ?_)
  split
  · exact .trap h
  · exact .iteRes (.done (.beamWritesCsr h)) (.trap h)

theorem Keeps.startTlbinv (h : Keeps s₀ s) {k vas} : Keeps s₀ (Machine.startTlbinv s k vas) := by
  unfold Machine.startTlbinv
  extract_lets s1
  have hs1 : Keeps s₀ s1 := .fold h fun h => .setCore h
  exact .postFree (.onBeam hs1)

theorem Keeps.effTlbinvAll (h : Keeps s₀ s) {x} : Keeps s₀ (Machine.effTlbinvAll x s).state :=
  .released h fun h => .done (.startTlbinv h)

theorem Keeps.effTlbinvPage (h : Keeps s₀ s) {a x} : Keeps s₀ (Machine.effTlbinvPage a x s).state :=
  .gated h (.released h fun h => .done (.startTlbinv h))

theorem KeepsNext.execTlbinvComplete (h : Keeps s₀ s) {core beam} : KeepsNext s₀ (Machine.execTlbinvComplete core beam s) := by
  unfold Machine.execTlbinvComplete
  extract_lets +onlyGivenNames k
  refine .next ?_
  split
  · exact h
  · split
    · extract_lets +onlyGivenNames part s1 here s2
      have hs1 : Keeps s₀ s1 := .fold h fun h => .setCore h
      have key : ∀ x, (here x).1 = x.1 := fun x => by unfold here; split <;> rfl
      have hs2 : Keeps s₀ s2 := ⟨hs1.mem, fun w => (rising_map key s1.beams).trans (hs1.beams w)⟩
      exact .nudge (.onBeam hs2)
    · exact h

theorem Keeps.effMcload (h : Keeps s₀ s) {a m x} : Keeps s₀ (Machine.effMcload a m x s).state := by
  unfold Machine.effMcload
  refine .gated h ?_
  split
  · exact .hold h
  · extract_lets +onlyGivenNames i x1 addr
    refine .iteRes (.trap h) ?_
    split
    · exact .trap h
    · extract_lets +onlyGivenNames s1 len
      have hs1 : Keeps s₀ s1 := .beforeAccess h
      refine .iteRes (.trap hs1) ?_
      split
      · exact .trap hs1
      · extract_lets +onlyGivenNames w s11
        have hs11 : Keeps s₀ s11 := .setCore hs1
        exact .done (.same hs11)

theorem Keeps.calledLen (h : Keeps s₀ s) {k b bl gr pc} : Keeps s₀ (Machine.calledLen s k b bl gr pc).2 := by
  unfold Machine.calledLen
  split
  · rename_i s1 e
    exact .snd (.fetchBytes h) e
  · rename_i x s1 e
    exact .snd (.fetchBytes h) e
  · rename_i l s1 e
    split <;> exact .snd (.fetchBytes h) e

theorem Keeps.entryRefused (h : Keeps s₀ s) {k b bl gr e} : Keeps s₀ (Machine.entryRefused k b bl gr e s).2 := by
  unfold Machine.entryRefused
  extract_lets st
  refine .iteSnd h (.iteSnd ?_ h)
  split
  · rename_i n s1 e
    exact .snd (.calledLen h) e

theorem Keeps.tableRefused (h : Keeps s₀ s) {k b bl gr f} : Keeps s₀ (Machine.tableRefused k b bl gr f s).2 :=
  .foldSnd h fun h => .entryRefused h

theorem Keeps.reissue (h : Keeps s₀ s) {k b p lanes} : Keeps s₀ (Machine.reissue s k b p lanes).state := by
  unfold Machine.reissue
  extract_lets x al
  split
  · exact .ldlLanes h
  · exact .atomLanes h
  · exact .loadLanes h
  · exact .done h

theorem Keeps.placeAgain (h : Keeps s₀ s) {k next p rest} : Keeps s₀ (Machine.placeAgain s k next p rest) :=
  .onBeam h

theorem Keeps.replayTrap (h : Keeps s₀ s) {k t} : Keeps s₀ (Machine.replayTrap s k t) := by
  unfold Machine.replayTrap
  extract_lets lvl s1
  have hs1 : Keeps s₀ s1 := .preciseTrap h
  exact .ite hs1 (.preciseTrap (.endEnded h))

theorem KeepsEither.replayOne (h : Keeps s₀ s) {k b p} : KeepsEither s₀ (Machine.replayOne s k b p) := by
  unfold Machine.replayOne
  extract_lets +onlyGivenNames earlier late go
  split
  · exact .error h
  · split
    · split
      · rename_i e
        exact .ok (.placeAgain (.ofRes (.reissue h) e))
      · rename_i e
        exact .ok (.placeAgain (.ofRes (.reissue h) e))
      · rename_i e
        exact .error (.ofRes (.reissue h) e)
      · rename_i e
        exact .error (.replayTrap (.ofRes (.reissue h) e))
      · rename_i e
        exact .error (.replayTrap (.ofRes (.reissue h) e))
    · exact .ok (.placeAgain (.onLanes h))

theorem Keeps.replayOn {k} : ∀ {n s}, Keeps s₀ s → Keeps s₀ (Machine.replayOn k n s)
  | 0, _, h => h
  | n + 1, s, h => by
    unfold Machine.replayOn
    split
    · exact h
    · split
      · rename_i s1 e
        exact .replayOn (KeepsEither.replayOne h _ (.inl e))
      · rename_i s1 e
        exact KeepsEither.replayOne h _ (.inr e)

theorem Keeps.replayDone (h : Keeps s₀ s) {k} : Keeps s₀ (Machine.replayDone s k) := by
  unfold Machine.replayDone
  extract_lets +onlyGivenNames s1
  have hs1 : Keeps s₀ s1 := .endEnded h
  split
  · exact hs1
  · rename_i b _
    refine .ite ?_ hs1
    cases homeOf s1 b with
    | none => exact hs1
    | some home => exact .post hs1

theorem Keeps.replay (h : Keeps s₀ s) {k} : Keeps s₀ (Machine.replay s k) := by
  unfold Machine.replay
  split
  · exact h
  · extract_lets s1 still s2
    have hs1 : Keeps s₀ s1 := .ite (.replayOn h) h
    have hs2 : Keeps s₀ s2 := .settleRun (.ite (.replayDone hs1) hs1)
    exact .ite (.stopBeam hs2) hs2

theorem Keeps.freeNumber (h : Keeps s₀ s) {part framea level} : Keeps s₀ (Machine.freeNumber s part framea level) :=
  .ite h (.fold h fun h => .ite (.postFirst (.setCore h)) h)

theorem KeepsSome.writeTrst (h : Keeps s₀ s) {x n} : KeepsSome s₀ (Machine.writeTrst x s n) :=
  .supWrite h

theorem Keeps.resume (h : Keeps s₀ s) {x gr f reps} : Keeps s₀ (Machine.resume s x gr f reps).state := by
  unfold Machine.resume
  extract_lets +onlyGivenNames k
  split
  · exact .trap h
  · rename_i s1 e
    extract_lets s2 s3
    have hs2 : Keeps s₀ s2 := .onBeam (KeepsSome.writeTrst (.acquireAt h) _ e)
    have hs3 : Keeps s₀ s3 := .ite (.endEnded hs2) hs2
    exact .moved (.replay (.leaveHandler (.freeNumber hs3)))

/-- A resumption that is refused writes its status, or its frame cannot be reached (R293). -/
theorem Keeps.refuse (h : Keeps s₀ s) {x n} :
    Keeps s₀ ((Machine.writeTrst x s n).elim (Res.trap s (frameTrap x s true)) fun u => .done u []).state := by
  cases e : Machine.writeTrst x s n with
  | none => exact .trap h
  | some u => exact .done (KeepsSome.writeTrst h _ e)

theorem Keeps.tretFrom (h : Keeps s₀ s) {x bl gr} : Keeps s₀ (Machine.tretFrom x s bl gr).state := by
  unfold Machine.tretFrom
  extract_lets +onlyGivenNames core refuse
  split
  · exact .trap h
  · extract_lets +onlyGivenNames _ c
    have hc : Keeps s₀ c.2 := .tableRefused h
    refine .iteRes (.hold hc) (.iteRes (.refuse hc) (.iteRes (.refuse hc) ?_))
    split
    · exact .trap hc
    · split
      · exact .refuse hc
      · exact .iteRes (.refuse hc) (.resume hc)

theorem Keeps.effTret (h : Keeps s₀ s) {x} : Keeps s₀ (Machine.effTret x s).state := by
  unfold Machine.effTret
  refine .iteRes (.trap h) ?_
  split
  · exact .hold h
  · extract_lets s0
    have hs0 : Keeps s₀ s0 := .performAll h
    have quiet : Keeps s₀ (x.beam.pend.foldl (fun s p => Machine.completePend s x.key p.id) (Machine.releaseAt s x.key .dev)) :=
      .fold (.releaseAt h) fun h => .completePend h
    exact .iteRes (.hold (.startWalks hs0)) (.iteRes (.hold (.startWalks hs0)) (.iteRes (.hold hs0) (.tretFrom quiet)))

/-! ## The host, the pod and the resets (R313-R317) -/

theorem Keeps.outsideWrite (h : Keeps s₀ s) {part pa l} : Keeps s₀ (Machine.outsideWrite s part pa l) :=
  .homePut h

theorem KeepsNext.execHostAtomic (h : Keeps s₀ s) {part op wide pa v cmp} :
    KeepsNext s₀ (Machine.execHostAtomic part op wide pa v cmp s) := by
  unfold Machine.execHostAtomic
  extract_lets +onlyGivenNames n
  refine .next (.ite ?_ (.answer h))
  extract_lets +onlyGivenNames s1
  have hs1 : Keeps s₀ s1 := .homeDrop h
  exact .ite (.answer hs1) (.answer (.nearWrite hs1))

theorem Keeps.podAtom (h : Keeps s₀ s) {part a n f reply} : Keeps s₀ (Machine.podAtom s part a n f reply).2 := by
  unfold Machine.podAtom
  extract_lets +onlyGivenNames s1
  have hs1 : Keeps s₀ s1 := .homeDrop h
  exact .iteSnd (.ite hs1 (.poison hs1)) (.getD (.map fun _ => .nearWrite hs1) hs1)

theorem Keeps.podRefuse (h : Keeps s₀ s) {access} : Keeps s₀ (Machine.podRefuse s access) := by
  unfold Machine.podRefuse
  split
  · exact .answer h
  · exact .answer h
  · exact h
  · exact h

theorem Keeps.podHere (h : Keeps s₀ s) {part a access} : Keeps s₀ (Machine.podHere s part a access) := by
  unfold Machine.podHere
  extract_lets +onlyGivenNames n
  refine .ite ?_ (.podRefuse h)
  split
  · exact .answer h
  · exact .outsideWrite h
  · exact .ite (.ite (.answer (.podAtom h)) (.podAtom h)) (.podRefuse h)

theorem Keeps.podOnward (h : Keeps s₀ s) {pa access} : Keeps s₀ (Machine.podOnward s pa access) := by
  unfold Machine.podOnward
  extract_lets +onlyGivenNames old
  split
  · exact .answer h
  · exact .outerWrite h
  · extract_lets n s1
    have hs1 : Keeps s₀ s1 := .getD (.map fun _ => .outerWrite h) h
    exact .ite (.answer hs1) hs1

theorem Keeps.resetDevice (h : Keeps s₀ s) : Keeps s₀ (Machine.resetDevice s) :=
  ⟨fun w => memWf_filter _ (h.mem w), fun _ => rfl⟩

theorem Keeps.resetQueue (h : Keeps s₀ s) {q} : Keeps s₀ (Machine.resetQueue s q) :=
  .same h

theorem KeepsNext.execVfFunctionLevelReset (h : Keeps s₀ s) {part} : KeepsNext s₀ (Machine.execVfFunctionLevelReset part s) := by
  unfold Machine.execVfFunctionLevelReset
  refine .next (.ite ?_ h)
  extract_lets s1
  have hs1 : Keeps s₀ s1 := .fold h fun h => .ite (.post h) h
  exact .fold hs1 fun h => .resetQueue h

/-! ## TAPE and LAUNCH (R74, R75) -/

theorem Keeps.tapeWrite {part} : ∀ {l s a}, Keeps s₀ s → Keeps s₀ (Machine.tapeWrite part s a l)
  | [], _, _, h => h
  | r :: l, s, a, h => by
    unfold Machine.tapeWrite
    exact .tapeWrite (.getD (.schedWrite h) h)

theorem Keeps.effTape (h : Keeps s₀ s) {a x} : Keeps s₀ (Machine.effTape a x s).state := by
  unfold Machine.effTape
  refine .gated h (.released h fun h => ?_)
  split
  · exact .hold h
  · extract_lets +onlyGivenNames _ full
    refine .iteRes (.trap h) ?_
    split
    · exact .trap h
    · extract_lets +onlyGivenNames q t t2
      refine .iteRes (.trap h) (.iteRes (.hold h) ?_)
      extract_lets s1
      have hs1 : Keeps s₀ s1 := .lqPut64 h
      exact .done (.tapeWrite hs1)

theorem Keeps.launchPacket (h : Keeps s₀ s) {part l} : Keeps s₀ (Machine.launchPacket s part l).2 := by
  unfold Machine.launchPacket
  extract_lets +onlyGivenNames q
  refine .iteSnd h ?_
  extract_lets +onlyGivenNames next
  refine .iteSnd h ?_
  split
  · exact .lqFault h
  · rename_i s1 e
    extract_lets s2
    have hs2 : Keeps s₀ s2 := .setQueue (KeepsSome.schedWrite h _ e)
    exact .pump (.csrPut hs2)

theorem Keeps.launchLanes {k part d} : ∀ {l s}, Keeps s₀ s → Keeps s₀ (Machine.launchLanes k part d s l)
  | [], _, h => h
  | p :: l, s, h => by
    unfold Machine.launchLanes
    exact .launchLanes (.onLanes (.launchPacket h))

theorem Keeps.effLaunch (h : Keeps s₀ s) {a d x} : Keeps s₀ (Machine.effLaunch a d x s).state := by
  unfold Machine.effLaunch
  refine .gated h (.released h fun h => ?_)
  split
  · exact .hold h
  · split
    · exact .trap h
    · exact .iteRes (.done (.launchLanes h)) (.hold h)

/-! ## Between instructions (R152, R190, R294) -/

theorem Keeps.takeWaiting (h : Keeps s₀ s) {k t rest} : Keeps s₀ (Machine.takeWaiting s k t rest) :=
  .takeTrap (.onBeam h)

theorem Keeps.betweenIssues (h : Keeps s₀ s) {k b} : Keeps s₀ (Machine.betweenIssues s k b) := by
  unfold Machine.betweenIssues
  extract_lets s1
  have hs1 : Keeps s₀ s1 := .ite (.replay h) h
  exact .ite (.entryWalks hs1) hs1

theorem Keeps.evictSome (h : Keeps s₀ s) : Keeps s₀ (Machine.evictSome s) := by
  unfold Machine.evictSome
  extract_lets n s1
  have hs1 : Keeps s₀ s1 := .same h
  exact .draw (.fold hs1 fun h => .ite (.evictL2 h) h)

theorem Keeps.blockErrors (h : Keeps s₀ s) : Keeps s₀ (Machine.blockErrors s) := by
  unfold Machine.blockErrors
  split
  · exact .ite h (.same h)
  · exact h

theorem Keeps.nextClock (h : Keeps s₀ s) : Keeps s₀ (Machine.nextClock s) :=
  .same h

theorem Keeps.tick (h : Keeps s₀ s) : Keeps s₀ (Machine.tick s) := by
  unfold Machine.tick
  extract_lets s1
  have hs1 : Keeps s₀ s1 := .fold h fun h => .betweenIssues h
  exact .applyPfWrites (.applyPartcfg (.nextClock (.evictSome (.engineWrites (.blockErrors hs1)))))

/-! ## Every instruction and event -/

/-- What a control-store body may hold issues in the stream as that effect (R101, R102). -/
theorem exec_of_bodyEffect {i e} (hi : bodyEffect i = some e) : Machine.exec i s = Machine.issue 4 e s := by
  cases i <;> cases hi <;> rfl

/-- Every instruction and every event keeps the two forms. -/
theorem KeepsNext.exec (h : Keeps s₀ s) {i} : KeepsNext s₀ (Machine.exec i s) := by
  cases hi : bodyEffect i with
  | some e => rw [exec_of_bodyEffect hi]; exact .issue fun _ => .bodyEffect h hi
  | none =>
    cases i with
    | movS | iaddS | isubS | imulS | andS | orS | xorS | shlS | shrS | sraS | iminS | imaxS | faddS | fsubS | fmulS
      | fmaxS => exact .issue fun _ => .laneEffect h
    | bra => exact .issue fun _ => .iteRes (.moved (.onLanes h)) (.trap h)
    | brd => exact .issue fun _ => .moved (.onLanes h)
    | split => exact .issue fun _ => .effSplit h
    | join => exact .issue fun _ => .effJoin h
    | brx => exact .issue fun _ => .gated h (.iteRes (.moved (.onLanes h)) (.trap h))
    | call | ret => exact .issue fun _ => .gated h (.moved (.onLanes h))
    | exit => exact .issue fun _ => .effExit h
    | mcall => exact .execMcall h
    | yield => exact .issue fun _ => .done (.post (.onBeam h))
    | tape => exact .issue fun _ => .effTape h
    | launch => exact .issue fun _ => .effLaunch h
    | commitBlk | commitGrid | commitPod => exact .issue fun _ => .commitBy h
    | dstat => exact .issue fun _ => .gated h (.done (.onLanes h))
    | copy => exact .issue fun _ => .effCopy h
    | offl => exact .issue fun _ => .effOffl h
    | recallCopy => exact .issue fun _ => .effRecall h
    | decode => exact .issue fun _ => .effDecode h
    | bfree => exact .issue fun _ => .effBfree h
    | btest => exact .issue fun _ => .effBtest h
    | bwaitFree => exact .issue fun _ => .effBwaitFree h
    | bwaitFull => exact .issue fun _ => .effBwaitFull h
    | mma | mmaSig => exact .issue fun _ => .effMmaOf h
    | aload | acvt | qcvt | sig | sbwd => exact .issue fun _ => .syncIssue h
    | aclr => exact .issue fun _ => .effAclr h
    | scbs => exact .issue fun _ => .effScbs h
    | rtab | rule => exact .issue fun _ => .ruleIssue h
    | rgen => exact .issue fun _ => .gated h (.iteRes (.trap h) (.released h fun h => .ruleEnter h))
    | synbar | synarv => exact .issue fun _ => .helioArrive h
    | synput => exact .issue fun _ => .effSynput h
    | synget => exact .issue fun _ => .effSynget h
    | sysc => exact .issue fun _ => .gated h (.iteRes (.done h) (.after h))
    | tret => exact .issuePriv h fun _ => .effTret h
    | bkpt => exact .issue fun _ => .iteRes (.done h) (.after h)
    | csrr => exact .issuePriv h fun _ => .effCsrr h
    | csrw => exact .issuePriv h fun _ => .effCsrw h
    | tlbinvAll => exact .issuePriv h fun _ => .effTlbinvAll h
    | tlbinvPage => exact .issuePriv h fun _ => .effTlbinvPage h
    | mcload => exact .issuePriv h fun _ => .effMcload h
    | producerComplete => exact .execProducerComplete h
    | pageWalkComplete => exact .execPageWalkComplete h
    | yieldExpiry => exact .next (.onBeam h)
    | dependencePoll => exact .execDependencePoll h
    | deadlineMiss => exact .next (.pump h)
    | packetSelect => exact .execPacketSelect h
    | packetAccept => exact .execPacketAccept h
    | rewindPop => exact .execRewindPop h
    | gangDeal => exact .execGangDeal h
    | gangStart => exact .execGangStart h
    | blockThreadStart => exact .execBlockThreadStart h
    | stealRequest => exact .execStealRequest h
    | stealReply => exact .execStealReply h
    | stealShipmentArrival => exact .execStealShipmentArrival h
    | stealBackoffExpiry => exact .next (.wakeThief (.setCluster h))
    | gangRetire => exact .execGangRetire h
    | gridEnd => exact .execGridEnd h
    | completionWordWrite => exact .execCompletionWordWrite h
    | logDrain => exact .execLogDrain h
    | binAgeExpiry => exact .next (.ite (.shipBin h) h)
    | binRingArrival => exact .execBinRingArrival h
    | binPacketArrival => exact .next (.nudge (.ite (.takePacket h) (.holdPacket h)))
    | applyMarkerArrival => exact .execApplyMarkerArrival h
    | foldRefreshYield => exact .execFoldRefreshYield h
    | foldReadYield => exact .execFoldReadYield h
    | foldComplete => exact .execFoldComplete h
    | fullStateNotice => exact .execFullStateNotice h
    | commitComplete => exact .execCommitComplete h
    | hgBarrierRelease => exact .execHgBarrierRelease h
    | hgBroadcastDelivery => exact .next (.fold h fun h => .setCore h)
    | hgCommitMarkerDelivery => exact .execHgCommitMarkerDelivery h
    | copyComplete => exact .execCopyComplete h
    | decodeStart => exact .execDecodeStart h
    | decodeComplete => exact .execDecodeComplete h
    | matrixQueueDispatch => exact .execMatrixQueueDispatch h
    | mmaOperationComplete => exact .execMmaOperationComplete h
    | matrixSyncOpComplete => exact .execMatrixSyncOpComplete h
    | ruleQueueDispatch => exact .execRuleQueueDispatch h
    | ruleGeneration => exact .execRuleGeneration h
    | ruleOpComplete => exact .execRuleOpComplete h
    | hgPreemptRequestDelivery => exact .next (.fold h fun h => .deliverTo h)
    | drainWatchdogExpiry => exact .execDrainWatchdogExpiry h
    | pgraceExpiry => exact .execPgraceExpiry h
    | savePoolAlloc => exact .execSavePoolAlloc h
    | saveWriteComplete => exact .execSaveWriteComplete h
    | gangPreempted => exact .execGangPreempted h
    | preemptOverdue => exact .execPreemptOverdue h
    | resumeRestoreComplete => exact .execResumeRestoreComplete h
    | quiesceAck => exact .next (.ite (.csrPut h) h)
    | hgRebindComplete => exact .execHgRebindComplete h
    | abort => exact .execAbort h
    | illegalInstruction => exact .execIllegalInstruction h
    | writePerformed => exact .execWritePerformed h
    | tlbinvComplete => exact .execTlbinvComplete h
    | podMarkerArrival => exact .next (.ite (.podSend h) (.ite (.newCommit h) h))
    | nvmeCompletion => exact .execNvmeCompletion h
    | podAccessArrival => exact .next (.ite (.podHere h) (.ite (.podOnward h) (.podRefuse h)))
    | lqtlWrite | lqEnable | lqDisable | defspillWrite | dtrapClear | dfltClear => exact .hostWrite h
    | hmaskWrite | fqEnable | fqDisable => exact .next (.ite (.pfWrite h) h)
    | milvWrite | dbghaltWrite => exact .next (.ite (.csrWrite h) h)
    | partcfgWrite | qreqWrite | hgrbWrite | nbndWrite | qctlWrite => exact .next (.pfWrite h)
    | controlRegisterWrite => exact .execControlRegisterWrite h
    | hostMemoryWrite => exact .next (.ite (.outsideWrite h) h)
    | hostMemoryRead => exact .next (.answer h)
    | hostAtomic => exact .execHostAtomic h
    | bootMemoryAccess => exact .next (.ite (.ite h (.answer h)) (.ite (.memPut h) (.answer h)))
    | pcieReset | pfFunctionLevelReset => exact .next (.resetDevice h)
    | vfFunctionLevelReset => exact .execVfFunctionLevelReset h
    | podAcknowledgementArrival => exact .next (.ite (.podSend h) (.post (.same h)))
    | podDeviceUnreachable => exact .next (.ite (.same h) (.fold (.same h) fun h => .post h))
    | _ => cases hi

/-! ## The step (R85) -/

theorem KeepsNext.stepRun (h : Keeps s₀ s) {x} : KeepsNext s₀ (Machine.stepRun s x) := by
  unfold Machine.stepRun
  split
  · rename_i s1 e
    exact .next (.tried (.snd (.fetch h) e))
  · rename_i e s1 e
    exact .exec (.snd (.fetch h) e)
  · rename_i i s1 e
    exact .exec (.snd (.fetch h) e)

theorem KeepsNext.stepLate (h : Keeps s₀ s) : KeepsNext s₀ (Machine.stepLate s) := by
  unfold Machine.stepLate
  split
  · exact .exec (.same h)
  · exact .next (.tick h)

theorem KeepsNext.stepBeam (h : Keeps s₀ s) : KeepsNext s₀ (Machine.stepBeam s) := by
  unfold Machine.stepBeam
  refine .ite (.stepLate h) ?_
  split
  · exact .next (.takeWaiting h)
  · split
    · exact .stepRun h
    · exact .stepLate h

theorem KeepsNext.step (h : Keeps s₀ s) : KeepsNext s₀ (Machine.step s) := by
  unfold Machine.step
  split
  · exact .exec (.same h)
  · exact .stepBeam h

end

/-- Settles O6: `Keeps` holds of every step, by the laws above, one for each operation the step is made of. -/
theorem stepKeepsInvariant : Obligations.StepKeepsInvariant := by
  unfold Obligations.StepKeepsInvariant
  intro s t hi hs
  exact (KeepsNext.step (.refl s) t hs).inv hi

end Sys2Proof.Machine
end

section
/-!
PROOF of O34. An issue of MCALL performs one step of a control-store body: what the entry of a run into the body makes of its lanes,
what `macroStep` answers where the word executes and where the control store refuses it, and how the issue finishes.
-/
namespace Sys2Proof.Machine

open Sys2Proof

/-! ## The integer instructions as body steps (R102, R110, R118, R119) -/

theorem ArithOp.lanes_run {x : Sel} {j : Instr} {o : LaneOp} (h : ArithOp x j o) : ∀ i ∈ o.lanes, i ∈ x.run := by
  cases h <;> exact execLanes_run x _

theorem ArithOp.act_state {x : Sel} {j : Instr} {o : LaneOp} (h : ArithOp x j o) (i : Nat) (l : Lane) :
    (o.act i l).state = l.state := by
  cases h <;> rfl

/-- The order of IMIN and IMAX, of unsigned or signed values (R119). -/
theorem decide_asInt_le {n : Nat} (u : Bool) (a b : BitVec n) :
    decide (asInt u a ≤ asInt u b) = if u then a.ule b else a.sle b := by
  cases u with
  | true => simp [asInt, BitVec.ule]
  | false => rfl

theorem pick_min {n : Nat} (u : Bool) (a b : BitVec n) :
    pick u false a b = if (if u then a.ule b else a.sle b) then a else b := by
  simp only [pick, decide_asInt_le, Bool.bne_false]

theorem pick_max {n : Nat} (u : Bool) (a b : BitVec n) :
    pick u true a b = if (if u then a.ule b else a.sle b) then b else a := by
  simp only [pick, decide_asInt_le]
  generalize (if u then a.ule b else a.sle b) = le
  cases le <;> rfl

/-- Bits 63:32 of an integer's low 64 bits are its quotient by 2^32, modulo 2^32. -/
theorem setWidth_ofInt_ushiftRight (z : Int) : (BitVec.ofInt 64 z >>> 32).setWidth 32 = wordOf (z / 2 ^ 32) := by
  apply BitVec.eq_of_toNat_eq
  simp only [wordOf, BitVec.toNat_setWidth, BitVec.toNat_ushiftRight, BitVec.toNat_ofInt, Nat.shiftRight_eq_div_pow]
  omega

/-- Bits 63:32 of the exact product, unsigned and signed (R110). -/
theorem mulHigh_eq (u : Bool) (a b : Word) : mulHigh u a b =
    if u then ((a.setWidth 64 * b.setWidth 64) >>> 32).setWidth 32
    else ((a.signExtend 64 * b.signExtend 64) >>> 32).setWidth 32 := by
  cases u with
  | true =>
    have hexact : a.setWidth 64 * b.setWidth 64 = BitVec.ofInt 64 (a.toNat * b.toNat : Nat) := by
      rw [BitVec.ofInt_natCast, BitVec.ofNat_mul, BitVec.ofNat_toNat, BitVec.ofNat_toNat]
    rw [if_pos rfl, hexact, setWidth_ofInt_ushiftRight]
    exact (BitVec.ofInt_natCast 32 _).symm
  | false =>
    have hexact : a.signExtend 64 * b.signExtend 64 = BitVec.ofInt 64 (a.toInt * b.toInt) := (BitVec.ofInt_mul _ _).symm
    rw [if_neg Bool.false_ne_true, hexact, setWidth_ofInt_ushiftRight]
    rfl

/-- A body may hold every integer instruction, whose effect there is the one of the table (R102). -/
theorem ArithOp.bodyEffect {x : Sel} {j : Instr} {o : LaneOp} (h : ArithOp x j o) :
    ∃ e, Machine.bodyEffect j = some e ∧
      ∀ s, e x s = gated x s o.lanes o.srcs o.dsts (.done (onLanes s x.key o.lanes o.act) []) := by
  cases h with
  | iadd | isub | imul | iaddi | imad | iaddI64 | isubI64 | imulI64 | lea => exact ⟨_, rfl, fun _ => rfl⟩
  | imulh u => exact ⟨_, rfl, fun _ => by simp only [effImulh, mulHigh_eq]; rfl⟩
  | iminI32 | iminI64 | iminZ32 | iminZ64 =>
    exact ⟨_, rfl, fun _ => by simp only [effIminI32, effIminI64, effIminZ32, effIminZ64, pick_min]; rfl⟩
  | imaxI32 | imaxI64 | imaxZ32 | imaxZ64 =>
    exact ⟨_, rfl, fun _ => by simp only [effImaxI32, effImaxI64, effImaxZ32, effImaxZ64, pick_max]; rfl⟩

/-! ## Entering a body (R101) -/

/-- A lane of the run once the run is inside the body: at step 0 where the run was outside. -/
def enterLane (x : Sel) (l : Lane) : Lane := if selMin x then l else { l with min := true, mstep := 0 }

@[simp] theorem enterLane_state (x : Sel) (l : Lane) : (enterLane x l).state = l.state := by
  unfold enterLane; split <;> rfl

theorem enterBody_of_min {x : Sel} (h : selMin x = true) : enterBody x = x := by simp [enterBody, h]

@[simp] theorem enterBody_key (x : Sel) : (enterBody x).key = x.key := by
  unfold enterBody; split <;> rfl

@[simp] theorem enterBody_run (x : Sel) : (enterBody x).run = x.run := by
  unfold enterBody; split <;> rfl

@[simp] theorem selCore_enterBody (x : Sel) : selCore (enterBody x) = selCore x := by simp [selCore]

theorem mapLanes_id (on : List Nat) : ∀ (k : Nat) (l : List Lane), mapLanes on (fun _ l => l) k l = l
  | _, [] => rfl
  | k, x :: t => by simp [mapLanes, mapLanes_id on (k + 1) t]

theorem enterBody_beam (x : Sel) : (enterBody x).beam = beamLanes x.beam x.run fun _ l => enterLane x l := by
  cases h : selMin x with
  | true => simp [enterBody, enterLane, h, beamLanes, mapLanes_id]
  | false => simp [enterBody, enterLane, h]

/-! ## One step of a body (R19, R101, R102) -/

/-- LEN of entry m in a core's control store. -/
abbrev bodyLen (s : State) (core m : Nat) : Nat := lookD (coreOf s core).clen m 0

/-- Word n of entry m in a core's control store. -/
abbrev bodyWord (s : State) (core m n : Nat) : Nat := (lookD (coreOf s core).cstore (32 * m + n) 0).toNat

/-- Whether the control store holds no step n that a body may hold in entry m (R102). -/
abbrev NoStep (s : State) (core m n : Nat) : Prop :=
  bodyLen s core m ≤ n ∨ bodyWord s core m n % 2 = 0 ∨ bodyOpcode (bodyWord s core m n / 2 % 128) = false

theorem macroStep_executes {m P0 P1 P2 : Nat} {x : Sel} {s : State} {j : Instr} {e : Effect}
    (hs : ¬ NoStep s (selCore x) m (selMstep x))
    (hd : decodeMacroWord P0 P1 P2 (bodyWord s (selCore x) m (selMstep x)) = .ok j) (he : bodyEffect j = some e) :
    macroStep m P0 P1 P2 x s = e x s := by
  obtain ⟨hlen, hword⟩ := not_or.1 hs
  simp only [macroStep, if_neg hlen, if_neg hword, hd, he]

theorem macroStep_refuses {m P0 P1 P2 : Nat} {x : Sel} {s : State} (hs : NoStep s (selCore x) m (selMstep x)) :
    macroStep m P0 P1 P2 x s = .trap s (storeTrap x m) := by
  unfold macroStep
  by_cases hlen : bodyLen s (selCore x) m ≤ selMstep x
  · exact if_pos hlen
  · exact (if_neg hlen).trans (if_pos (hs.resolve_left hlen))

/-! ## MCALL (R101) -/

/-- MCALL of a run that is inside a body or enters a loaded entry is the step of the body. -/
theorem effMcall_enters {m P0 P1 P2 : Nat} {x : Sel} {s : State} {bl : Block} {ga : Gang} {gr : Grid}
    (hh : homeOf s x.beam = some (bl, ga, gr)) (hl : selMin x = true ∨ macroLoaded bl gr m = true) :
    effMcall m P0 P1 P2 x s = undoEntry x (macroStep m P0 P1 P2 (enterBody x) (setBeam s x.key (enterBody x).beam)) := by
  have hin : (!selMin x && !macroLoaded bl gr m) = false := by
    rcases hl with h | h <;> simp [h]
  simp [effMcall, hh, hin]

theorem exec_mcall {m P0 P1 P2 : Nat} {x : Sel} {s : State} (h : selected s = some x) :
    exec (.mcall m P0 P1 P2) s =
      .next (finish x (nextStep (selMstep x) (bodyLen s (selCore x) m)) (effMcall m P0 P1 P2 x s)) := by
  change execMcall m P0 P1 P2 s = _
  simp [execMcall, h]

@[simp] theorem nextStep_state (n len : Nat) (l : Lane) : (nextStep n len l).state = l.state := by
  unfold nextStep; split <;> rfl

/-- The answer where the lanes of a run went through g, the executing ones then through f, and all through the advance. -/
theorem finish_onLanes_beamLanes {s : State} {x : Sel} {adv : Lane → Lane} {ex : List Nat} {f g : Nat → Lane → Lane}
    (ht : Turn s x) (hex : ∀ i ∈ ex, i ∈ x.run) (hf : ∀ i l, (f i l).state = l.state) (hg : ∀ i l, (g i l).state = l.state)
    (ha : ∀ l, (adv l).state = l.state) :
    finish x adv (.done (onLanes (setBeam s x.key (beamLanes x.beam x.run g)) x.key ex f) []) =
      issuedBy s x (beamLanes x.beam x.run fun i l => adv (if ex.contains i then f i (g i l) else g i l)) := by
  have hb : advance (onLanes (setBeam s x.key (beamLanes x.beam x.run g)) x.key ex f) x [] adv =
      setBeam s x.key (beamLanes x.beam x.run fun i l => adv (if ex.contains i then f i (g i l) else g i l)) := by
    have hall : x.run.filter (fun i => !List.contains [] i) = x.run := by simp
    simp only [advance, hall, onLanes, onBeam_some (beamOf_setBeam_same _ _ _), setBeam_setBeam, beamLanes, mapLanes_mapLanes]
    congr 2
    refine mapLanes_congr (fun i l => ?_) _ _
    by_cases hr : i ∈ x.run
    · simp [hr]
    · simp [hr, mt (hex i) hr]
  simp only [finish]
  rw [hb, retire_setBeam s x _ (beamLanes_block _ _ _)]
  refine settleRun_runnable (beamOf_issuedBy s x _) ?_
  exact runnable_beamLanes (b := x.beam) (fun i l => by rw [ha]; split <;> simp [hf, hg]) (selected_runnable ht.1)

/-- A step that is an integer instruction with ready operands takes its effect, and its run goes on. -/
theorem exec_mcall_arith {m P0 P1 P2 : Nat} {x : Sel} {s : State} {bl : Block} {ga : Gang} {gr : Grid} {j : Instr} {o : LaneOp}
    (ht : Turn s x) (hh : homeOf s x.beam = some (bl, ga, gr)) (hl : selMin x = true ∨ macroLoaded bl gr m = true)
    (hs : ¬ NoStep s (selCore x) m (selMstep (enterBody x)))
    (hd : decodeMacroWord P0 P1 P2 (bodyWord s (selCore x) m (selMstep (enterBody x))) = .ok j)
    (ho : ArithOp (enterBody x) j o) (hr : o.ready (enterBody x) = true) :
    exec (.mcall m P0 P1 P2) s = .next (issuedBy s x (beamLanes x.beam x.run fun i l =>
      nextStep (selMstep x) (bodyLen s (selCore x) m)
        (if o.lanes.contains i then o.act i (enterLane x l) else enterLane x l))) := by
  obtain ⟨e, he, hact⟩ := ho.bodyEffect
  have hstep := macroStep_executes (x := enterBody x) (s := setBeam s x.key (enterBody x).beam)
    (by rw [selCore_enterBody]; exact hs) (by rw [selCore_enterBody]; exact hd) he
  have hlanes : ∀ i ∈ o.lanes, i ∈ x.run := fun i hi => enterBody_run x ▸ ho.lanes_run i hi
  rw [exec_mcall ht.1, effMcall_enters hh hl, hstep, hact, gated_ready hr, enterBody_key, enterBody_beam]
  simp only [undoEntry]
  rw [finish_onLanes_beamLanes ht hlanes ho.act_state (fun _ => enterLane_state x) (nextStep_state _ _)]

/-- A run inside a body traps ControlStore where the control store holds no step for it. -/
theorem exec_mcall_noStep {m P0 P1 P2 : Nat} {x : Sel} {s : State} {bl : Block} {ga : Gang} {gr : Grid}
    (ht : Turn s x) (hh : homeOf s x.beam = some (bl, ga, gr)) (hm : selMin x = true) (hs : NoStep s (selCore x) m (selMstep x)) :
    exec (.mcall m P0 P1 P2) s = .next (trapped (setBeam s x.key x.beam) x (storeTrap x m)) := by
  rw [exec_mcall ht.1, effMcall_enters hh (.inl hm), enterBody_of_min hm,
    macroStep_refuses (s := setBeam s x.key x.beam) hs]
  rfl

end Sys2Proof.Machine

namespace Sys2Proof.Certificates

open Sys2Proof Sys2Proof.Machine

/-- Settles O34: a step that executes by `exec_mcall_arith`, one that the control store refuses by `exec_mcall_noStep`. -/
theorem macroStep : Obligations.MacroStep := by
  unfold Obligations.MacroStep
  intro s x m P0 P1 P2 bl ga gr ht hh hl y n len w
  constructor
  · intro j o hlen hbit hop hd ho hr hn
    have hstep : ¬ NoStep s (selCore x) m n := by
      rintro (h | h | h)
      · exact absurd hlen (Nat.not_lt.2 h)
      · exact absurd (hbit.symm.trans h) Nat.one_ne_zero
      · exact absurd (hop.symm.trans h) (Bool.false_ne_true ∘ Eq.symm)
    rw [← hn]
    exact exec_mcall_arith ht hh hl hstep hd ho hr
  · intro hm hs
    have hn : n = selMstep x := congrArg selMstep (enterBody_of_min hm)
    have hno : NoStep s (selCore x) m n := hs
    exact ⟨_, exec_mcall_noStep ht hh hm (hn ▸ hno), rfl⟩

end Sys2Proof.Certificates
end

section
/-!
PROOF of O1, O2 and O3. Encoding and decoding are inverse: the words and bytes of some fields, the laws of the constructors put
together, and the opcode map read backwards.
-/
namespace Sys2Proof.Laws.Encode

open Sys2Proof

set_option Elab.async false

/-! ## A word and its fields (R24, R27) -/

theorem ofWord_word {f : Fields} (h : InRange f) : Fields.ofWord f.word = f := by
  obtain ⟨op, d, a, wa, mid, top⟩ := f
  simp only [InRange] at h
  simp only [Fields.ofWord, Fields.word, Fields.mk.injEq]
  omega

theorem inRange_ofWord (w : Nat) : InRange (Fields.ofWord w) := by
  simp only [InRange, Fields.ofWord]
  omega

/-- An odd number of 32 bits is the word with its fields. -/
theorem word_ofWord {w : Nat} (hodd : w % 2 = 1) (hw : w < 2 ^ 32) : (Fields.ofWord w).word = w := by
  simp only [Fields.ofWord, Fields.word]
  omega

theorem word_odd (f : Fields) : f.word % 2 = 1 := by
  simp only [Fields.word]
  omega

theorem word_lt {f : Fields} (h : InRange f) : f.word < 2 ^ 32 := by
  simp only [InRange] at h
  simp only [Fields.word]
  omega

/-! ## Bytes (R9, R24) -/

theorem bytesLE_length : ∀ n w, (bytesLE n w).length = n
  | 0, _ => rfl
  | n + 1, w => congrArg (· + 1) (bytesLE_length n (w / 256))

/-- A 16-bit instruction decodes from its two bytes (R24, R26). -/
theorem decodeBytes_short {h : Nat} (heven : h % 2 = 0) (hlt : h < 2 ^ 16) (rest : List Byte) :
    decodeBytes (bytesLE 2 h ++ rest) = .ok (decodeShort h, 2) := by
  have hh : h % 256 + 256 * (h / 256 % 256) = h := by omega
  simp [bytesLE, decodeBytes, hh, heven]

/-- A 32-bit instruction decodes from the word that its four bytes make (R24). -/
theorem decodeBytes_word {w : Nat} (hodd : w % 2 = 1) (hlt : w < 2 ^ 32) (rest : List Byte) {i : Instr}
    (hi : decodeWord w = .ok i) : decodeBytes (bytesLE 4 w ++ rest) = .ok (i, 4) := by
  have hlow : (w % 256 + 256 * (w / 256 % 256)) % 2 ≠ 0 := by omega
  have hw : w % 256 + 256 * (w / 256 % 256) + 65536 * (w / 256 / 256 % 256) + 16777216 * (w / 256 / 256 / 256 % 256) = w := by
    omega
  simp [bytesLE, decodeBytes, -Nat.mod_two_not_eq_zero, hlow, hw, hi]

/-! ## Every instruction decodes from its encoding -/

/-- The laws of the constructors, one after another. -/
theorem statement (i : Instr) : Statement i :=
  Instr.rec (motive := Statement)
    movS iaddS isubS imulS andS orS xorS shlS shrS sraS iminS imaxS faddS fsubS fmulS fmaxS movB32 movi movhi iadd isub iaddi
    imul imad and or xor andn shl shr sra rotl iminI32 imaxI32 iminZ32 imaxZ32 icmp32 icmp64 sel lea imulh idiv irem inegI32
    iabsI32 notB32 clzB32 popcB32 brev inegI64 iabsI64 clzB64 popcB64 bfx bfi movB64 isubI64 imulI64 iminI64 imaxI64 iminZ64
    imaxZ64 andB64 orB64 xorB64 shlB64 shrB64 sraB64 iaddI64 gxld gxst fadd fsub fmul ffma fmin fmax fabs fneg frcp frsq fsqrt
    fexp2 flog2 frnd fcmp fdiv faddDirected fsubDirected fmulDirected ffmaDirected badd2 bmul2 bfma2 cvt plop p2g g2p voteAny
    voteAll voteBallot voteFirst shfl perm redux scan bra brd split join brx call ret exit mcall yield tape launch ld32 ld64
    ld128 st32 st64 st128 ldl32 stl32 ldNarrow stNarrow ldlSized stlSized ldc pref cflush ldOrdered stOrdered atom32 atom64
    red32 red64 acas32 acas64 fence commitBlk commitGrid commitPod dstat copy offl recallCopy decode bfree btest bwaitFree
    bwaitFull mma mmaSig aload acvt aclr qcvt scbs sig sbwd rtab rule rgen synbar synarv synput synget rand rdsp widf sysc tret
    bkpt csrr csrw tlbinvAll tlbinvPage mcload producerComplete pageWalkComplete yieldExpiry dependencePoll deadlineMiss
    packetSelect packetAccept rewindPop gangDeal gangStart blockThreadStart stealRequest stealReply stealShipmentArrival
    stealBackoffExpiry gangRetire gridEnd completionWordWrite logDrain binAgeExpiry binRingArrival binPacketArrival
    applyMarkerArrival foldRefreshYield foldReadYield foldComplete fullStateNotice commitComplete hgBarrierRelease
    hgBroadcastDelivery hgCommitMarkerDelivery copyComplete decodeStart decodeComplete matrixQueueDispatch mmaOperationComplete
    matrixSyncOpComplete ruleQueueDispatch ruleGeneration ruleOpComplete hgPreemptRequestDelivery drainWatchdogExpiry
    pgraceExpiry savePoolAlloc saveWriteComplete gangPreempted preemptOverdue resumeRestoreComplete quiesceAck hgRebindComplete
    abort illegalInstruction writePerformed tlbinvComplete dbghaltWrite podMarkerArrival nvmeCompletion podAccessArrival
    lqtlWrite lqEnable lqDisable hmaskWrite defspillWrite milvWrite partcfgWrite qreqWrite hgrbWrite nbndWrite qctlWrite
    dtrapClear dfltClear fqEnable fqDisable controlRegisterWrite hostMemoryWrite hostMemoryRead hostAtomic bootMemoryAccess
    pcieReset pfFunctionLevelReset vfFunctionLevelReset podAcknowledgementArrival podDeviceUnreachable
    i

theorem decode_encode {i : Instr} (hw : i.wf = true) {l : List Byte} (h : encode i = some l) (rest : List Byte) :
    decodeBytes (l ++ rest) = .ok (i, l.length) := by
  obtain ⟨hword, hshort⟩ := statement i hw
  unfold encode at h
  split at h
  case h_1 f hf =>
    obtain ⟨hr, hd⟩ := hword f hf
    obtain rfl := Option.some.inj h
    rw [bytesLE_length]
    refine decodeBytes_word (word_odd f) (word_lt hr) rest ?_
    simp [decodeWord, ofWord_word hr, hd, checked, hw]
  case h_2 =>
    split at h
    case h_1 op d a hs =>
      obtain ⟨hop, hdlt, halt, hd⟩ := hshort op d a hs
      obtain rfl := Option.some.inj h
      have htrap := bool_lt a.trap
      rw [bytesLE_length, decodeBytes_short (by omega) (by omega), hd]
    case h_2 => cases h

/-! ## The codes of what a field reads as (R27, R29, R30, R35) -/

theorem toNat_beq_one {n : Nat} (h : n < 2) : (n == 1).toNat = n := by
  obtain rfl | rfl : n = 0 ∨ n = 1 := by omega
  all_goals rfl

theorem scope_ofCode {n : Nat} {s : Scope} (h : Scope.ofCode n = some s) : s.code = n := by
  unfold Scope.ofCode at h
  split at h <;> cases h <;> rfl

theorem order_ofCode {n : Nat} {o : Order} (h : Order.ofCode n = some o) : o.code = n := by
  unfold Order.ofCode at h
  split at h <;> cases h <;> rfl

theorem q_code {n : Nat} {q : QF} (h : QF.ofCode n = some q) : q.code = n := by
  unfold QF.ofCode at h
  split at h
  case h_1 s o hs ho =>
    cases h
    simp only [QF.code, scope_ofCode hs, order_ofCode ho, toNat_beq_one (show n % 2 < 2 by omega)]
    omega
  case h_2 => cases h

@[simp] theorem srcA_r (f : Fields) : f.srcA.r = f.a := rfl

section

variable {f : Fields} (hf : InRange f)

include hf

theorem guard_code : f.guard.code = f.top := by
  obtain ⟨-, -, -, -, -, htop⟩ := hf
  simp only [Fields.guard, Guard.code, toNat_beq_one (show f.top / 8 < 2 by omega)]
  omega

theorem srcA_trap :  f.srcA.trap.toNat = f.wa := by
  obtain ⟨-, -, -, hwa, -, -⟩ := hf
  exact toNat_beq_one hwa

theorem srcB_code : f.srcB.code = f.mid := by
  obtain ⟨-, -, -, -, hmid, -⟩ := hf
  simp only [Fields.srcB, Src.code, toNat_beq_one (show f.mid / 64 < 2 by omega)]
  omega

theorem ofImm_imm18 {op d : Nat} : Fields.ofImm op d f.imm18 = ⟨op, d, f.a, f.wa, f.mid, f.top⟩ := by
  obtain ⟨-, -, ha, hwa, hmid, -⟩ := hf
  simp only [Fields.ofImm, Fields.imm18, Fields.mk.injEq, true_and]
  omega

theorem index_sense : f.index + 32 * f.sense.toNat = f.d := by
  obtain ⟨-, hd, -, -, -, -⟩ := hf
  simp only [Fields.index, Fields.sense, toNat_beq_one (show f.d / 32 < 2 by omega)]
  omega

theorem index_of_not_sense (hs : f.sense = false) : f.index = f.d := by
  simpa [hs] using index_sense hf

end

/-! ## Every word that decodes is an encoding -/

/-- What the decoder answers for some fields has these fields as its encoding. -/
def Recodes (f : Fields) (r : Except FetchError Instr) : Prop := ∀ i, r = .ok i → encodeFields i = some f

theorem recodes_ok {f : Fields} {i : Instr} : Recodes f (.ok i) ↔ encodeFields i = some f := by
  simp [Recodes]

theorem recodes_error {f : Fields} {e : FetchError} : Recodes f (.error e) := nofun

theorem recodes_only {f : Fields} {unused : Bool} {i : Instr} :
    Recodes f (only unused i) ↔ (unused = true → encodeFields i = some f) := by
  cases unused <;> simp [only, Recodes]

theorem recodes_onlyQ {f : Fields} {unused : Bool} {i : QF → Instr} :
    Recodes f (onlyQ f unused i) ↔ ∀ q, q.code = f.mid → unused = true → encodeFields (i q) = some f := by
  unfold onlyQ
  split
  case h_1 q hq =>
    rw [recodes_only]
    refine ⟨fun h q' hq' => ?_, fun h => h q (q_code hq)⟩
    rw [← hq', q_mk] at hq
    cases hq
    exact h
  case h_2 hq =>
    refine ⟨fun _ q' hq' => ?_, fun _ => recodes_error⟩
    rw [← hq', q_mk] at hq
    cases hq

theorem mk_eq_iff {op d a wa mid top : Nat} {f : Fields} : ⟨op, d, a, wa, mid, top⟩ = f ↔
    op = f.op ∧ d = f.d ∧ a = f.a ∧ wa = f.wa ∧ mid = f.mid ∧ top = f.top := by
  cases f; simp

/-- The opcode map and its inverse agree, row by row: the fields that a row leaves unused are 0, and the others are those of the
operands. -/
theorem decodeFields_recodes {f : Fields} (hf : InRange f) : Recodes f (decodeFields f) := by
  have hmcall : f.imm18 % 64 + 64 * (f.imm18 / 64 % 64) + 4096 * (f.imm18 / 4096) = f.imm18 := by omega
  unfold decodeFields
  repeat' split
  all_goals
    simp +contextual [recodes_ok, recodes_error, recodes_only, recodes_onlyQ, encodeFields, mk_eq_iff, guard_code hf, srcB_code hf,
      srcA_trap hf, ofImm_imm18 hf, index_sense hf, index_of_not_sense hf, ICond.code, FCond.code, RMode.code,
      RMode.directedCode, CvtKind.code, ShflMode.code, RedOp.code, AtomOp.code, SpReg.code, HState.code, MemSize.code,
      MemSize.localCode, *]

theorem checked_eq_ok {i j : Instr} (h : checked i = .ok j) : i.wf = true ∧ i = j := by
  unfold checked at h
  split at h
  · cases h
    exact ⟨‹_›, rfl⟩
  · cases h

theorem decodeWord_eq_ok {w : Nat} {i : Instr} (h : decodeWord w = .ok i) :
    i.wf = true ∧ encodeFields i = some (Fields.ofWord w) := by
  unfold decodeWord at h
  split at h
  case h_1 j hj =>
    obtain ⟨hw, rfl⟩ := checked_eq_ok h
    exact ⟨hw, decodeFields_recodes (inRange_ofWord w) j hj⟩
  case h_2 => cases h

theorem encode_decodeShort (h : Nat) : (decodeShort h).wf = true ∧ encodeFields (decodeShort h) = none ∧
    encodeShort (decodeShort h) = some (h / 2 % 16, h / 32 % 32, ⟨h / 1024 % 32, h / 32768 % 2 == 1⟩) := by
  have hd : h / 32 % 32 < 32 := Nat.mod_lt _ (by decide)
  have ha : h / 1024 % 32 < 32 := Nat.mod_lt _ (by decide)
  have hop : h / 2 % 16 < 16 := Nat.mod_lt _ (by decide)
  unfold decodeShort
  split <;> simp_all [Instr.wf, below, encodeFields, encodeShort]
  omega

/-- An even halfword is the encoding of the 16-bit instruction it decodes to. -/
theorem encode_of_short {h : Nat} (heven : h % 2 = 0) (hlt : h < 2 ^ 16) :
    encode (decodeShort h) = some (bytesLE 2 h) := by
  obtain ⟨-, hword, hshort⟩ := encode_decodeShort h
  simp only [encode, hword, hshort, toNat_beq_one (show h / 32768 % 2 < 2 by omega)]
  congr 2
  omega

/-- The bytes of a number made of two bytes. -/
theorem bytesLE_two (b0 b1 : Byte) : bytesLE 2 (b0.toNat + 256 * b1.toNat) = [b0, b1] := by
  simp only [bytesLE, List.cons.injEq, and_true]
  refine ⟨?_, ?_⟩ <;> apply BitVec.eq_of_toNat_eq <;> simp only [BitVec.toNat_ofNat] <;> omega

theorem bytesLE_four (b0 b1 b2 b3 : Byte) :
    bytesLE 4 (b0.toNat + 256 * b1.toNat + 65536 * b2.toNat + 16777216 * b3.toNat) = [b0, b1, b2, b3] := by
  simp only [bytesLE, List.cons.injEq, and_true]
  refine ⟨?_, ?_, ?_, ?_⟩ <;> apply BitVec.eq_of_toNat_eq <;> simp only [BitVec.toNat_ofNat] <;> omega

theorem encode_decode {l : List Byte} {i : Instr} {n : Nat} (h : decodeBytes l = .ok (i, n)) :
    i.wf = true ∧ encode i = some (l.take n) := by
  unfold decodeBytes at h
  split at h
  case h_2 => cases h
  case h_1 b0 b1 rest =>
    dsimp only at h
    split at h
    case isTrue heven =>
      cases h
      refine ⟨(encode_decodeShort _).1, ?_⟩
      rw [encode_of_short heven (by omega), bytesLE_two]
      rfl
    case isFalse hodd =>
      split at h
      case h_2 => cases h
      case h_1 b2 b3 rest =>
        split at h
        case h_2 => cases h
        case h_1 j hj =>
          cases h
          obtain ⟨hw, he⟩ := decodeWord_eq_ok hj
          refine ⟨hw, ?_⟩
          simp only [encode, he]
          rw [word_ofWord (by omega) (by omega), bytesLE_four]
          rfl

end Sys2Proof.Laws.Encode

namespace Sys2Proof.Certificates

open Sys2Proof Sys2Proof.Machine

/-- Settles O1: the laws of the constructors give back the fields, and the fields the word. -/
theorem decodeOfEncode : Obligations.DecodeOfEncode := by
  unfold Obligations.DecodeOfEncode
  intro i l rest hw h
  exact Laws.Encode.decode_encode hw h rest

/-- Settles O2: the opcode map, read backwards, leaves no bit of an accepted word out. -/
theorem encodeOfDecode : Obligations.EncodeOfDecode := by
  unfold Obligations.EncodeOfDecode
  intro l i n h
  exact Laws.Encode.encode_decode h

/-- Settles O3, by evaluating the decoder. -/
theorem specWordsDecode : Obligations.SpecWordsDecode := by
  unfold Obligations.SpecWordsDecode
  decide

end Sys2Proof.Certificates
end

section
/-!
PROOF of O4. What a step looks at first decides what it does.
-/
namespace Sys2Proof.Machine

open Sys2Proof

set_option Elab.async false

/-! ## A step, case by case (R24, R25, R85, log 1, log 3) -/

section

variable {s : State}

theorem step_due {i : Instr} {rest : List Due} (h : takeDue (fun i => !late i) s.clk s.agenda = some (i, rest)) :
    step s = exec i { s with agenda := rest } := by
  simp [step, h]

theorem step_notDue (h : takeDue (fun i => !late i) s.clk s.agenda = none) : step s = stepBeam s := by
  simp [step, h]

theorem stepBeam_trap (hc : s.closed = false) {k : Nat} {t : Trap} {rest : List (Nat × Trap)} (h : trapDue s = some (k, t, rest)) :
    stepBeam s = .next (takeWaiting s k t rest) := by
  simp [stepBeam, hc, h]

theorem stepBeam_run (hc : s.closed = false) (ht : trapDue s = none) {x : Sel} (hx : selected s = some x) :
    stepBeam s = stepRun s x := by
  simp [stepBeam, hc, ht, hx]

theorem stepBeam_late (h : s.closed = true ∨ (trapDue s = none ∧ selected s = none)) : stepBeam s = stepLate s := by
  unfold stepBeam
  split
  · rfl
  · obtain hc | ⟨ht, hx⟩ := h
    · contradiction
    · simp [ht, hx]

/-! What a run does with what lies at its PC. -/

section

variable {x : Sel} {s1 : State}

theorem stepRun_decodes {l : List Byte} {i : Instr} {n : Nat}
    (h : fetchBytes s x.key x.beam (selPc x).toNat = (some (.ok l), s1)) (hi : decodeBytes l = .ok (i, n)) :
    stepRun s x = exec i s1 := by
  simp [stepRun, fetch, h, hi]

theorem stepRun_undecoded {l : List Byte} {e : FetchError}
    (h : fetchBytes s x.key x.beam (selPc x).toNat = (some (.ok l), s1)) (he : decodeBytes l = .error e) :
    stepRun s x = exec (.illegalInstruction e) s1 := by
  simp [stepRun, fetch, h, he]

theorem stepRun_unfetched {e : FetchError} (h : fetchBytes s x.key x.beam (selPc x).toNat = (some (.error e), s1)) :
    stepRun s x = exec (.illegalInstruction e) s1 := by
  simp [stepRun, fetch, h]

theorem stepRun_awaits (h : fetchBytes s x.key x.beam (selPc x).toNat = (none, s1)) :
    stepRun s x = .next (tried s1 x.key) := by
  simp [stepRun, fetch, h]

end

theorem stepLate_due {i : Instr} {rest : List Due} (h : takeLate s.clk s.agenda = some (i, rest)) :
    stepLate s = exec i { s with agenda := rest, closed := true } := by
  simp [stepLate, h]

theorem stepLate_tick (h : takeLate s.clk s.agenda = none) : stepLate s = .next (tick s) := by
  simp [stepLate, h]

end

end Sys2Proof.Machine

namespace Sys2Proof.Certificates

open Sys2Proof Sys2Proof.Machine

/-- Settles O4, case by case over what a step looks at first. -/
theorem stepRunsDecodedInstruction : Obligations.StepRunsDecodedInstruction := by
  unfold Obligations.StepRunsDecodedInstruction
  intro s
  refine ⟨fun _ _ h => step_due h, fun hd => ⟨fun hc => ⟨fun _ _ _ h => ?_, fun ht x hx => ?_⟩, fun hl => ?_⟩⟩
  · exact (step_notDue hd).trans (stepBeam_trap hc h)
  · have hrun : step s = stepRun s x := by rw [step_notDue hd, stepBeam_run hc ht hx]
    exact ⟨fun _ _ _ _ h hi => hrun.trans (stepRun_decodes h hi), fun _ _ _ h he => hrun.trans (stepRun_undecoded h he),
      fun _ _ h => hrun.trans (stepRun_unfetched h), fun _ h => hrun.trans (stepRun_awaits h)⟩
  · have hlate : step s = stepLate s := by rw [step_notDue hd, stepBeam_late hl]
    exact ⟨fun _ _ h => hlate.trans (stepLate_due h), fun h => hlate.trans (stepLate_tick h)⟩

end Sys2Proof.Certificates
end

section
/-!
PROOF of O18, O20 and O21. The lane instructions: which effect each table row issues, what an issue leaves unchanged, and what becomes
of one whose sources are not full.
-/
namespace Sys2Proof.Machine

open Sys2Proof

set_option Elab.async false

/-! ## Rows of the tables as effects -/

/-- The instruction is an issue of an effect that acts, once its operands are ready, as a row of a table says. -/
structure IssuesAs (s : State) (x : Sel) (i : Instr) (o : LaneOp) : Prop where
  effect : ∃ e : Effect, exec i s = issue o.len e s ∧
    e x s = gated x s o.lanes o.srcs o.dsts (.done (onLanes s x.key o.lanes o.act) [])
  lanes_run : ∀ j ∈ o.lanes, j ∈ x.run
  act_state : ∀ j l, (o.act j l).state = l.state

theorem IssuesAs.exec {s : State} {x : Sel} {i : Instr} {o : LaneOp} (h : IssuesAs s x i o) (ht : Turn s x) (hr : o.ready x = true) :
    exec i s = .next (o.done s x) := by
  obtain ⟨e, hi, he⟩ := h.effect
  exact exec_lane hi rfl ht hr h.lanes_run h.act_state he

/-- The 16-bit forms issue the effects of their T forms (R26). -/
theorem ShortOp.issuesAs {s : State} {x : Sel} {i : Instr} {o : LaneOp} (h : ShortOp x i o) : IssuesAs s x i o := by
  have hrun := execLanes_run x .always
  cases h with
  | iminS d a => exact ⟨⟨_, rfl, by simp only [effIminI32, pick_min]; rfl⟩, hrun, fun _ _ => rfl⟩
  | imaxS d a => exact ⟨⟨_, rfl, by simp only [effImaxI32, pick_max]; rfl⟩, hrun, fun _ _ => rfl⟩
  | movS | iaddS | isubS | imulS | andS | orS | xorS | shlS | shrS | sraS | faddS | fsubS | fmulS | fmaxS =>
    exact ⟨⟨_, rfl, rfl⟩, hrun, fun _ _ => rfl⟩

theorem intCond_asInt {n : Nat} (u : Bool) (c : ICond) (a b : BitVec n) :
    intCond c (asInt u a) (asInt u b) = if u then intCond c a.toNat b.toNat else intCond c a.toInt b.toInt := by
  cases u <;> rfl

theorem CompareOp.issuesAs {s : State} {x : Sel} {i : Instr} {o : LaneOp} (h : CompareOp x i o) : IssuesAs s x i o := by
  have hrun := execLanes_run x .always
  cases h with
  | icmp32 => exact ⟨⟨_, rfl, by simp only [effIcmp32, intCond_asInt]; rfl⟩, hrun, fun _ l => laneSetPred_state l _ _⟩
  | icmp64 => exact ⟨⟨_, rfl, by simp only [effIcmp64, intCond_asInt]; rfl⟩, hrun, fun _ l => laneSetPred_state l _ _⟩

theorem PredOp.issuesAs {s : State} {x : Sel} {i : Instr} {o : LaneOp} (h : PredOp x i o) : IssuesAs s x i o := by
  cases h with
  | plop => exact ⟨⟨_, rfl, rfl⟩, execLanes_run x _, fun _ l => laneSetPred_state l _ _⟩
  | voteAny | voteAll | voteFirst => exact ⟨⟨_, rfl, rfl⟩, fun _ h => h, fun _ l => laneSetPred_state l _ _⟩
  | voteBallot => exact ⟨⟨_, rfl, rfl⟩, fun _ h => h, fun _ _ => rfl⟩
  | p2g | g2p => exact ⟨⟨_, rfl, rfl⟩, execLanes_run x _, fun _ _ => rfl⟩

theorem FloatOp.issuesAs {s : State} {x : Sel} {i : Instr} {o : LaneOp} (h : FloatOp x i o) : IssuesAs s x i o := by
  cases h with
  | fcmp => exact ⟨⟨_, rfl, rfl⟩, execLanes_run x _, fun _ l => laneSetPred_state l _ _⟩
  | _ => exact ⟨⟨_, rfl, rfl⟩, execLanes_run x _, fun _ _ => rfl⟩

/-! ## What an issue leaves unchanged (R38, R107) -/

/-- The lanes of a run are lanes of its beam. -/
theorem run_lt {s : State} {x : Sel} (h : selected s = some x) {j : Nat} (hj : j ∈ x.run) : j < x.beam.lanes.length := by
  rw [(selected_spec h).2.2, runOf] at hj
  exact ((mem_lanesIn _ _ _).1 (List.mem_of_mem_filter hj)).1

theorem laneOf_start {b : Beam} {j : Nat} (h : b.lanes.length ≤ j) : laneOf b j = Lane.start := by
  simp [laneOf, List.getD_eq_getElem?_getD, List.getElem?_eq_none h]

/-- A pass over lanes of the beam changes them and no other. -/
theorem laneOf_beamLanes_of_lt {b : Beam} {on : List Nat} {f : Nat → Lane → Lane} (h : ∀ j ∈ on, j < b.lanes.length) (j : Nat) :
    laneOf (beamLanes b on f) j = if j ∈ on then f j (laneOf b j) else laneOf b j := by
  rw [laneOf_beamLanes]
  by_cases hj : j < b.lanes.length
  · simp [hj]
  · have hon : j ∉ on := fun hm => hj (h j hm)
    simp [hj, hon, laneOf_start (Nat.not_lt.1 hj)]

theorem issuedBy_sameOutside (s : State) (x : Sel) (b : Beam) : SameOutside s (issuedBy s x b) x.key :=
  ⟨fun _ => rfl, rfl, rfl, rfl, rfl, rfl, rfl, rfl, rfl, rfl, rfl, rfl, fun _ hj => look_put_other _ _ _ _ hj⟩

/-- A lane after a lane instruction: where it is in the run, as the row says. -/
theorem laneOf_done {s : State} {x : Sel} (ht : Turn s x) (o : LaneOp) (j : Nat) :
    laneOf (beamLanes x.beam x.run o.lane) j = if j ∈ x.run then o.lane j (laneOf x.beam j) else laneOf x.beam j :=
  laneOf_beamLanes_of_lt (fun _ h => run_lt ht.1 h) j

/-- A lane instruction that completes changes the lanes of its run alone, each as its row says. -/
theorem IssuesAs.frame {s : State} {x : Sel} {i : Instr} {o : LaneOp} (h : IssuesAs s x i o) (ht : Turn s x)
    (hr : o.ready x = true) : ∃ t b, Machine.exec i s = .next t ∧ beamOf t x.key = some b ∧ SameOutside s t x.key ∧
      SameBeam x.beam b ∧ b.pend = x.beam.pend ∧
      ∀ j, laneOf b j = if j ∈ x.run then o.lane j (laneOf x.beam j) else laneOf x.beam j :=
  ⟨_, _, h.exec ht hr, beamOf_issuedBy s x _, issuedBy_sameOutside s x _,
    ⟨rfl, rfl, rfl, rfl, rfl, rfl, rfl, rfl, rfl, rfl, rfl⟩, rfl, laneOf_done ht o⟩

/-! ## Predicates and flags (R29, R54) -/

theorem lanePred_zero (l : Lane) : lanePred l 0 = true := rfl

/-- Writing a predicate leaves the others as they were. -/
theorem lanePred_laneSetPred_other (l : Lane) {p q : Nat} (v : Bool) (hq : q < 32) (h : q ≠ p) :
    lanePred (laneSetPred l p v) q = lanePred l q := by
  have hbit : (BitVec.ofNat 32 (2 ^ p)).getLsbD q = false := by
    rw [BitVec.getLsbD_ofNat, Nat.testBit_two_pow_of_ne (Ne.symm h), Bool.and_false]
  unfold laneSetPred
  split
  · rfl
  · split
    · simp only [lanePred, BitVec.getLsbD_or, hbit, Bool.or_false]
    · simp only [lanePred, BitVec.getLsbD_and, BitVec.getLsbD_not, hbit, hq, decide_true, Bool.not_false, Bool.and_true]

theorem sameButRegs_laneSetPred (l : Lane) (p : Nat) (v : Bool) : SameButRegs l (laneSetPred l p v) [] := by
  unfold laneSetPred
  split
  · exact ⟨fun _ _ => rfl, rfl, rfl, rfl, rfl, rfl, rfl, rfl, rfl⟩
  · split <;> exact ⟨fun _ _ => rfl, rfl, rfl, rfl, rfl, rfl, rfl, rfl, rfl⟩

/-- The row writes one predicate in each executing lane. -/
def WritesPred (o : LaneOp) (pd : Nat) : Prop := ∀ j l, ∃ v, o.act j l = laneSetPred l pd v

/-- The row writes one register with flags in each executing lane. -/
def WritesFloat (o : LaneOp) (d : Nat) : Prop := o.dsts = [regUse d 1] ∧ ∀ j l, ∃ r, o.act j l = laneFloat l d r

/-- ICMP, PLOP and the votes into a predicate write that predicate. -/
theorem writesPred_of_row {x : Sel} {i : Instr} {o : LaneOp} {pd : Nat}
    (hi : (∃ u c b a, i = .icmp32 u c b a pd ∨ i = .icmp64 u c b a pd) ∨ (∃ t bp ap, i = .plop t bp ap pd) ∨
      (∃ ap, i = .voteAny ap pd ∨ i = .voteAll ap pd) ∨ i = .voteFirst pd)
    (ho : CompareOp x i o ∨ PredOp x i o) : WritesPred o pd := by
  obtain ⟨_, _, _, _, rfl | rfl⟩ | ⟨_, _, _, rfl⟩ | ⟨_, rfl | rfl⟩ | rfl := hi
  all_goals
    rcases ho with ho | ho <;> cases ho
    exact fun _ _ => ⟨_, rfl⟩

theorem FloatOp.writesFloat {x : Sel} {i : Instr} {o : LaneOp} (h : FloatOp x i o) (hd : o.dsts ≠ []) : ∃ d, WritesFloat o d := by
  cases h with
  | fcmp => exact absurd rfl hd
  | _ => exact ⟨_, rfl, fun _ _ => ⟨_, rfl⟩⟩

/-- A lane after a row that writes a predicate: as it was, or with the predicate written, and moved on. -/
theorem WritesPred.lane {o : LaneOp} {pd : Nat} (h : WritesPred o pd) (j : Nat) (l : Lane) :
    SameButRegs l (o.lane j l) [] ∧ (∀ p, p < 32 → p ≠ pd → lanePred (o.lane j l) p = lanePred l p) := by
  obtain ⟨v, hv⟩ := h j l
  unfold LaneOp.lane
  rw [hv]
  split
  · exact ⟨sameButRegs_laneSetPred l pd v, fun p h32 hne => lanePred_laneSetPred_other l v h32 hne⟩
  · exact ⟨⟨fun _ _ => rfl, rfl, rfl, rfl, rfl, rfl, rfl, rfl, rfl⟩, fun _ _ _ => rfl⟩

/-- Writing a register leaves the others as they were. -/
theorem laneReg_laneSet_other (l : Lane) {r q : Nat} (v : Word) (h : q ≠ r) : laneReg (laneSet l r v) q = laneReg l q := by
  simp [laneReg, laneSet, lookD, look_put_other _ _ _ _ h]

theorem or_and_self_bv (a f : Word) : (a ||| f) &&& a = a := by
  ext k hk
  simp only [BitVec.getElem_and, BitVec.getElem_or]
  cases a[k] <;> simp

/-- A lane after a row that writes a register with flags: what the row leaves unchanged, and FSTAT has lost no flag. -/
theorem WritesFloat.lane {o : LaneOp} {d : Nat} (h : WritesFloat o d) (j : Nat) (l : Lane) :
    (∀ r, r ≠ d → laneReg (o.lane j l) r = laneReg l r) ∧ (o.lane j l).preds = l.preds ∧ (o.lane j l).srctr = l.srctr ∧
      (o.lane j l).randctr = l.randctr ∧ (o.lane j l).state = l.state ∧ (o.lane j l).fstat &&& l.fstat = l.fstat := by
  obtain ⟨r, hr⟩ := h.2 j l
  unfold LaneOp.lane
  rw [hr]
  split
  · refine ⟨fun q hq => laneReg_laneSet_other l _ hq, rfl, rfl, rfl, rfl, ?_⟩
    exact or_and_self_bv l.fstat r.flags
  · exact ⟨fun _ _ => rfl, rfl, rfl, rfl, rfl, BitVec.and_self⟩

/-! ## Empty sources (R30, R31, R89) -/

theorem lanesEmpty_one (l : Lane) (r : Nat) : lanesEmpty l r 1 = l.empty.contains r := by
  simp only [lanesEmpty, List.contains_eq_any_beq]
  congr 1
  funext y
  rw [Bool.eq_iff_iff]
  simp only [Bool.and_eq_true, decide_eq_true_eq, beq_iff_eq]
  omega

/-- The first empty source under the trap policy traps, where none under the block policy makes the run wait (R89). -/
theorem gate_traps {x : Sel} {ex : List Nat} {srcs dsts : List Use} {u : Use}
    (hb : ∀ v ∈ srcs, v.trap = false → emptyLanes x.beam ex v = [])
    (hu : srcs.find? (fun v => v.trap && !(emptyLanes x.beam ex v).isEmpty) = some u) :
    gate x ex srcs dsts = .trap { trapOf x 0x03 with lanes := maskOf (emptyLanes x.beam ex u), reg := u.r } := by
  have hw : srcs.any (fun v => !v.trap && !(emptyLanes x.beam ex v).isEmpty) = false := by
    rw [List.any_eq_false]
    intro v hv
    cases ht : v.trap <;> simp [hb v hv, ht]
  simp [gate, hw, hu]

/-- With full sources the run waits for an unfinished producer of a destination (R31). -/
theorem gate_awaits {x : Sel} {ex : List Nat} {srcs dsts : List Use} (hs : ∀ v ∈ srcs, emptyLanes x.beam ex v = [])
    (hd : dsts.any (pendingWrite x.beam ex) = true) : gate x ex srcs dsts = .wait := by
  have hw : srcs.any (fun v => !v.trap && !(emptyLanes x.beam ex v).isEmpty) = false := by
    rw [List.any_eq_false]
    intro v hv
    simp [hs v hv]
  have hf : srcs.find? (fun v => v.trap && !(emptyLanes x.beam ex v).isEmpty) = none := by
    rw [List.find?_eq_none]
    intro v hv
    simp [hs v hv]
  simp [gate, hw, hf, hd]

theorem exec_of_gate_wait {s : State} {x : Sel} {i : Instr} {n : Nat} {e : Effect} {ex : List Nat} {srcs dsts : List Use} {r : Res}
    (ht : Turn s x) (hi : exec i s = issue n e s) (he : e x s = gated x s ex srcs dsts r) (hg : gate x ex srcs dsts = .wait) :
    exec i s = .next (waited s x) := by
  rw [hi, issue_selected ht.1, he]
  simp only [gated, hg]
  rfl

theorem exec_of_gate_trap {s : State} {x : Sel} {i : Instr} {n : Nat} {e : Effect} {ex : List Nat} {srcs dsts : List Use} {r : Res}
    {t : Trap} (ht : Turn s x) (hi : exec i s = issue n e s) (he : e x s = gated x s ex srcs dsts r)
    (hg : gate x ex srcs dsts = .trap t) : exec i s = .next (trapped s x t) := by
  rw [hi, issue_selected ht.1, he]
  simp only [gated, hg]
  rfl

/-- The six instructions of two register sources and a register destination that O21 names issue such an effect. -/
theorem exec_binary {g : Guard} {b a : Src} {d : Nat} {i : Instr}
    (hi : i = .iadd g b a d ∨ i = .isub g b a d ∨ i = .imul g b a d ∨ i = .and g b a d ∨ i = .or g b a d ∨ i = .xor g b a d)
    (s : State) : ∃ f, exec i s = issue 4 (binary g b a d f) s := by
  obtain rfl | rfl | rfl | rfl | rfl | rfl := hi <;> exact ⟨_, rfl⟩

end Sys2Proof.Machine

namespace Sys2Proof.Certificates

open Sys2Proof Sys2Proof.Machine

/-- Settles O18: each form issues its T form's effect, two bytes long. -/
theorem shortForms : Obligations.ShortForms := by
  unfold Obligations.ShortForms
  intro s x i o ho ht hr
  exact ho.issuesAs.exec ht hr

/-- Settles O20, by the frame of the lane instructions and what a row that writes a predicate, or a register with flags, does to a
lane. -/
theorem predicateAndFloatFrame : Obligations.PredicateAndFloatFrame := by
  unfold Obligations.PredicateAndFloatFrame
  intro s x i o ht hr
  constructor
  · intro pd hi ho _
    have hw := writesPred_of_row hi ho
    have hrow : IssuesAs s x i o := ho.elim CompareOp.issuesAs PredOp.issuesAs
    obtain ⟨t, b, he, hb, hout, hbeam, hpend, hlane⟩ := hrow.frame ht hr
    refine ⟨t, b, he, hb, hout, hbeam, hpend, fun j => ?_⟩
    rw [hlane j]
    split
    · obtain ⟨hregs, hpred⟩ := hw.lane j (laneOf x.beam j)
      exact ⟨hregs, hpred, lanePred_zero _⟩
    · exact ⟨⟨fun _ _ => rfl, rfl, rfl, rfl, rfl, rfl, rfl, rfl, rfl⟩, fun _ _ _ => rfl, lanePred_zero _⟩
  · intro ho hd
    obtain ⟨d, hw⟩ := ho.writesFloat hd
    obtain ⟨t, b, he, hb, hout, hbeam, hpend, hlane⟩ := (FloatOp.issuesAs ho).frame ht hr
    refine ⟨t, b, he, hb, hout, hbeam, hpend, fun j => ?_⟩
    rw [hlane j]
    split
    · obtain ⟨hregs, hrest⟩ := hw.lane j (laneOf x.beam j)
      refine ⟨fun r hu => hregs r fun h => ?_, hrest⟩
      have := hu (regUse d 1) (by simp [hw.1])
      simp only [regUse] at this
      omega
    · exact ⟨fun _ _ => rfl, rfl, rfl, rfl, rfl, BitVec.and_self⟩

/-- Settles O21, case by case over the full/empty gate. -/
theorem emptySourcesWaitOrTrap : Obligations.EmptySourcesWaitOrTrap := by
  unfold Obligations.EmptySourcesWaitOrTrap
  intro s x g b a d i hi ht ex ea eb
  obtain ⟨f, hexec⟩ := exec_binary hi s
  have hea : emptyLanes x.beam ex (srcUse a 1) = ea := by simp [emptyLanes, srcUse, lanesEmpty_one, ea]
  have heb : emptyLanes x.beam ex (srcUse b 1) = eb := by simp [emptyLanes, srcUse, lanesEmpty_one, eb]
  have hsrcs : ∀ {P : Use → Prop}, P (srcUse a 1) → P (srcUse b 1) → ∀ v ∈ [srcUse a 1, srcUse b 1], P v := fun ha hb =>
    List.forall_mem_cons.2 ⟨ha, List.forall_mem_singleton.2 hb⟩
  refine ⟨fun h => ?_, fun hne hta hb => ?_, fun hnil hne htb => ?_, fun ha hb hp => ?_⟩
  · rw [hexec, issue_selected ht.1]
    simp only [binary, laneEffect]
    obtain ⟨hne, htrap⟩ | ⟨hne, htrap⟩ := h
    · rw [gated_waits (u := srcUse a 1) (by simp) htrap (by rw [hea]; exact hne)]
      rfl
    · rw [gated_waits (u := srcUse b 1) (by simp) htrap (by rw [heb]; exact hne)]
      rfl
  · have hwait : ∀ v ∈ [srcUse a 1, srcUse b 1], v.trap = false → emptyLanes x.beam ex v = [] :=
      hsrcs (fun h => absurd (hta.symm.trans h) (by decide)) fun h => heb.trans (hb.resolve_right fun h' => by
        exact absurd (h'.symm.trans h) (by decide))
    have hfirst : [srcUse a 1, srcUse b 1].find? (fun v => v.trap && !(emptyLanes x.beam ex v).isEmpty) = some (srcUse a 1) :=
      List.find?_cons_of_pos (by rw [hea]; simp [srcUse, hta, hne])
    have hgate := gate_traps (dsts := [regUse d 1]) hwait hfirst
    rw [hea] at hgate
    exact exec_of_gate_trap ht hexec rfl hgate
  · have hwait : ∀ v ∈ [srcUse a 1, srcUse b 1], v.trap = false → emptyLanes x.beam ex v = [] :=
      hsrcs (fun _ => hea.trans hnil) fun h => absurd (htb.symm.trans h) (by decide)
    have hfirst : [srcUse a 1, srcUse b 1].find? (fun v => v.trap && !(emptyLanes x.beam ex v).isEmpty) = some (srcUse b 1) := by
      rw [List.find?_cons_of_neg (by rw [hea, hnil]; simp)]
      exact List.find?_cons_of_pos (by rw [heb]; simp [srcUse, htb, hne])
    have hgate := gate_traps (dsts := [regUse d 1]) hwait hfirst
    rw [heb] at hgate
    exact exec_of_gate_trap ht hexec rfl hgate
  · exact exec_of_gate_wait ht hexec rfl (gate_awaits (hsrcs (hea.trans ha) (heb.trans hb)) (by simpa using hp))

end Sys2Proof.Certificates
end

section
/-!
PROOF of O22, O24 and O26. Producers: what an issue that starts an unfinished instruction leaves, the quotients and remainders that wait
to be written, and what PRODUCER_COMPLETE makes of the beam.
-/
namespace Sys2Proof.Machine

open Sys2Proof

set_option Elab.async false

/-! ## Lanes and frames -/

theorem mem_upTo {n i : Nat} : i ∈ upTo n ↔ i < n := by
  induction n with
  | zero => simp [upTo]
  | succ n ih => simp only [upTo, List.mem_append, ih, List.mem_singleton]; omega

/-- Marking registers empty marks these and leaves the others as they were. -/
theorem mem_laneEmpty {l : Lane} {d n r : Nat} : r ∈ (laneEmpty l d n).empty ↔ r ∈ l.empty ∨ (d ≤ r ∧ r < d + n) := by
  have hfold : ∀ (is : List Nat) (e : List Nat),
      r ∈ is.foldl (fun e i => if e.contains (d + i) then e else (d + i) :: e) e ↔ r ∈ e ∨ ∃ i ∈ is, r = d + i := by
    intro is
    induction is with
    | nil => simp
    | cons i is ih =>
      intro e
      rw [List.foldl_cons, ih]
      by_cases h : d + i ∈ e
      · simp only [List.contains_eq_mem, h, decide_true, if_true, List.mem_cons, exists_eq_or_imp]
        refine ⟨fun hr => hr.imp_right .inr, fun hr => ?_⟩
        obtain hr | rfl | hr := hr
        · exact .inl hr
        · exact .inl h
        · exact .inr hr
      · simp only [List.contains_eq_mem, h, decide_false, if_false, List.mem_cons, exists_eq_or_imp, Bool.false_eq_true, or_assoc,
          or_left_comm]
  simp only [laneEmpty, hfold, mem_upTo]
  refine or_congr_right ⟨?_, fun ⟨h1, h2⟩ => ⟨r - d, by omega, by omega⟩⟩
  rintro ⟨i, hi, rfl⟩
  omega

theorem SameButRegs.refl (l : Lane) : SameButRegs l l [] := ⟨fun _ _ => rfl, rfl, rfl, rfl, rfl, rfl, rfl, rfl, rfl⟩

theorem SameBeam.refl (b : Beam) : SameBeam b b := ⟨rfl, rfl, rfl, rfl, rfl, rfl, rfl, rfl, rfl, rfl, rfl⟩

theorem SameOutside.trans {s t u : State} {k : Nat} (h : SameOutside s t k) (g : SameOutside t u k) : SameOutside s u k := by
  obtain ⟨hmem, hcsr, hl2, hbad, hcores, hgangs, hgrids, hcommits, happlies, hbins, hqueues, hclk, hbeams⟩ := h
  obtain ⟨gmem, gcsr, gl2, gbad, gcores, ggangs, ggrids, gcommits, gapplies, gbins, gqueues, gclk, gbeams⟩ := g
  exact ⟨fun a => (gmem a).trans (hmem a), gcsr.trans hcsr, gl2.trans hl2, gbad.trans hbad, gcores.trans hcores,
    ggangs.trans hgangs, ggrids.trans hgrids, gcommits.trans hcommits, gapplies.trans happlies, gbins.trans hbins,
    gqueues.trans hqueues, gclk.trans hclk, fun j hj => (gbeams j hj).trans (hbeams j hj)⟩

theorem setBeam_sameOutside (s : State) (k : Nat) (b : Beam) : SameOutside s (setBeam s k b) k :=
  ⟨fun _ => rfl, rfl, rfl, rfl, rfl, rfl, rfl, rfl, rfl, rfl, rfl, rfl, fun _ hj => beamOf_setBeam_other _ _ _ _ hj⟩

theorem onBeam_sameOutside (s : State) (k : Nat) (f : Beam → Beam) : SameOutside s (onBeam s k f) k := by
  cases h : beamOf s k with
  | none => rw [onBeam_none h]; exact ⟨fun _ => rfl, rfl, rfl, rfl, rfl, rfl, rfl, rfl, rfl, rfl, rfl, rfl, fun _ _ => rfl⟩
  | some b => rw [onBeam_some h]; exact setBeam_sameOutside s k _

theorem postFree_sameOutside (s : State) (bound : Nat) (i : Instr) (k : Nat) : SameOutside s (postFree s bound i) k :=
  ⟨fun _ => rfl, rfl, rfl, rfl, rfl, rfl, rfl, rfl, rfl, rfl, rfl, rfl, fun _ _ => rfl⟩

theorem retire_sameOutside (s : State) (k : Nat) : SameOutside s (retire s k) k := onBeam_sameOutside s k _

/-- What is posted is due in a later clock. -/
theorem mem_agenda_postFree (s : State) (bound : Nat) (i : Instr) : ∃ c, ⟨c, i⟩ ∈ (postFree s bound i).agenda ∧ s.clk < c :=
  ⟨s.clk + (1 + drawn s bound), List.mem_append_right _ (List.mem_singleton_self _), by omega⟩

/-! ## Finishing an issue of a changed beam (R85, R88) -/

/-- The beam once an issue is finished whose effect left it as c, its run going on. -/
def finished (s : State) (x : Sel) (len : Nat) (c : Beam) : Beam :=
  { beamLanes c x.run (fun _ l => nextPc len l) with lastIssue := s.clk + 1, tried := s.clk + 1, told := [] }

/-- An effect that leaves a runnable lane is followed by the advance of its run, and nothing else. -/
theorem finish_done {s : State} {x : Sel} {c : Beam} (len : Nat) (hc : beamOf s x.key = some c) (hr : lanesIn c .runnable ≠ []) :
    beamOf (finish x (nextPc len) (.done s [])) x.key = some (finished s x len c) ∧
      SameOutside s (finish x (nextPc len) (.done s [])) x.key ∧ (finish x (nextPc len) (.done s [])).agenda = s.agenda := by
  have hall : x.run.filter (fun i => !List.contains [] i) = x.run := by simp
  have hadv : advance s x [] (nextPc len) = setBeam s x.key (beamLanes c x.run fun _ l => nextPc len l) := by
    simp only [advance, hall, onLanes, onBeam_some hc]
  have hb := retire_beams (beamOf_setBeam_same s x.key (beamLanes c x.run fun _ l => nextPc len l))
  have hfin : finish x (nextPc len) (.done s []) = retire (setBeam s x.key (beamLanes c x.run fun _ l => nextPc len l)) x.key := by
    simp only [finish, hadv]
    exact settleRun_runnable hb (runnable_beamLanes (fun _ _ => rfl) hr)
  rw [hfin]
  exact ⟨hb, SameOutside.trans (setBeam_sameOutside s x.key _) (retire_sameOutside _ x.key), rfl⟩

/-! ## Starting an unfinished instruction (R30) -/

/-- The unfinished instruction that an issue of a beam enters. -/
def entered (x : Sel) (id : Nat) (word epc : Word) (d n : Nat) (kind : PendKind) (ls : List PendLane) : Pend :=
  ⟨id, word, epc, macroStepOf x, maskOf x.run, d, n, kind, ls⟩

/-- A beam once an unfinished instruction has been entered and its destinations are empty. -/
def begun (x : Sel) (c : Beam) (word epc : Word) (d n : Nat) (kind : PendKind) (ls : List PendLane) : Beam :=
  { beamLanes c (ls.map fun l => l.lane) (fun _ l => laneEmpty l d n) with
    nextId := c.nextId + 1
    pend := c.pend ++ [entered x c.nextId word epc d n kind ls] }

theorem startProducer_eq {s : State} {x : Sel} (hb : beamOf s x.key = some x.beam) (i : Instr) (d n : Nat) (kind : PendKind)
    (ls : List PendLane) (bound : Nat) : startProducer x s i d n kind ls bound =
      postFree (setBeam s x.key (begun x x.beam (wordOfInstr i) (selPc x) d n kind ls)) bound
        (.producerComplete (x.key / 64) (x.key % 64) x.beam.nextId) := by
  simp only [startProducer, onBeam_some hb]
  rfl

section

variable {s : State} {x : Sel} {c : Beam} {word epc : Word} {d n : Nat} {kind : PendKind} {ls : List PendLane}

theorem begun_runnable (h : lanesIn c .runnable ≠ []) : lanesIn (begun x c word epc d n kind ls) .runnable ≠ [] :=
  runnable_beamLanes (b := c) (fun _ _ => rfl) h

/-- The lanes of a beam whose issue has entered an unfinished instruction: those of the run have moved on, those of the instruction
have empty destinations, and nothing else of a lane differs. -/
theorem laneOf_finished_begun (hrun : ∀ j ∈ x.run, j < c.lanes.length) (hls : ∀ l ∈ ls, l.lane ∈ x.run) (j : Nat) :
    laneOf (finished s x 4 (begun x c word epc d n kind ls)) j =
      if j ∈ x.run then nextPc 4 (if j ∈ ls.map (fun l => l.lane) then laneEmpty (laneOf c j) d n else laneOf c j)
      else laneOf c j := by
  have hon : ∀ i ∈ ls.map (fun l => l.lane), i < c.lanes.length := by
    intro i hi
    obtain ⟨l, hl, rfl⟩ := List.mem_map.1 hi
    exact hrun _ (hls l hl)
  have hbegun : laneOf (begun x c word epc d n kind ls) j =
      if j ∈ ls.map (fun l => l.lane) then laneEmpty (laneOf c j) d n else laneOf c j := laneOf_beamLanes_of_lt hon j
  have hlen : (begun x c word epc d n kind ls).lanes.length = c.lanes.length := mapLanes_length _ _ _ _
  refine (laneOf_beamLanes_of_lt (b := begun x c word epc d n kind ls) (fun i hi => hlen ▸ hrun i hi) j).trans ?_
  rw [hbegun]
  by_cases hj : j ∈ x.run
  · simp only [hj, if_true]
  · have : j ∉ ls.map (fun l => l.lane) := by
      intro hm
      obtain ⟨l, hl, rfl⟩ := List.mem_map.1 hm
      exact hj (hls l hl)
    simp only [hj, this, if_false]

/-- Such an issue changes of a lane the PC and which registers are full. -/
theorem advanced_finished_begun (hrun : ∀ j ∈ x.run, j < c.lanes.length) (hls : ∀ l ∈ ls, l.lane ∈ x.run) (j : Nat) :
    SameButRegs (laneOf c j) (laneOf (finished s x 4 (begun x c word epc d n kind ls)) j) [] ∧
      (laneOf (finished s x 4 (begun x c word epc d n kind ls)) j).preds = (laneOf c j).preds ∧
      (laneOf (finished s x 4 (begun x c word epc d n kind ls)) j).pc = (laneOf c j).pc + (if j ∈ x.run then 4 else 0) := by
  rw [laneOf_finished_begun hrun hls]
  by_cases hj : j ∈ x.run
  · rw [if_pos hj, if_pos hj]
    split
    · exact ⟨⟨fun _ _ => rfl, rfl, rfl, rfl, rfl, rfl, rfl, rfl, rfl⟩, rfl, rfl⟩
    · exact ⟨⟨fun _ _ => rfl, rfl, rfl, rfl, rfl, rfl, rfl, rfl, rfl⟩, rfl, rfl⟩
  · rw [if_neg hj, if_neg hj]
    exact ⟨SameButRegs.refl _, rfl, (BitVec.add_zero _).symm⟩

/-- Its destinations are empty in its lanes. -/
theorem emptied_finished_begun (hrun : ∀ j ∈ x.run, j < c.lanes.length) (hls : ∀ l ∈ ls, l.lane ∈ x.run) {l : PendLane}
    (hl : l ∈ ls) {r : Nat} (h1 : d ≤ r) (h2 : r < d + n) :
    r ∈ (laneOf (finished s x 4 (begun x c word epc d n kind ls)) l.lane).empty := by
  rw [laneOf_finished_begun hrun hls, if_pos (hls l hl), if_pos (List.mem_map.2 ⟨l, hl, rfl⟩)]
  exact mem_laneEmpty.2 (.inr ⟨h1, h2⟩)

end

/-- A producer whose operands are ready issues (R30, R107). -/
theorem producerIssued_of_effect {s : State} {x : Sel} {i : Instr} {e : Effect} {d n bound : Nat} {ls : List PendLane}
    (ht : Turn s x) (hi : exec i s = issue 4 e s) (he : e x s = .done (startProducer x s i d n .result ls bound) [])
    (hls : ∀ l ∈ ls, l.lane ∈ x.run) : ∃ t, exec i s = .next t ∧ ProducerIssued s t x i d n ls := by
  have hrun : ∀ j ∈ x.run, j < x.beam.lanes.length := fun j hj => run_lt ht.1 hj
  refine ⟨_, by rw [hi, issue_selected ht.1, he], ?_⟩
  rw [startProducer_eq ht.2]
  generalize hs2 : postFree (setBeam s x.key (begun x x.beam (wordOfInstr i) (selPc x) d n .result ls)) bound
    (.producerComplete (x.key / 64) (x.key % 64) x.beam.nextId) = s2
  have hb2 : beamOf s2 x.key = some (begun x x.beam (wordOfInstr i) (selPc x) d n .result ls) := by
    rw [← hs2]; exact beamOf_setBeam_same s x.key _
  obtain ⟨hbeam, hout, hag⟩ := finish_done 4 hb2 (begun_runnable (selected_runnable ht.1))
  have hout2 : SameOutside s s2 x.key := by
    rw [← hs2]; exact SameOutside.trans (setBeam_sameOutside s x.key _) (postFree_sameOutside _ _ _ _)
  refine ⟨_, hbeam, SameOutside.trans hout2 hout, ⟨rfl, rfl, rfl, rfl, rfl, rfl, rfl, rfl, rfl, rfl, rfl⟩, rfl,
    advanced_finished_begun hrun hls, fun l hl _ r h1 h2 => emptied_finished_begun hrun hls hl h1 h2, ?_⟩
  rw [hag, ← hs2]
  exact mem_agenda_postFree _ _ _

/-! ## Quotients (R38, R111) -/

theorem quotient_eq {n : Nat} (u : Bool) (a b : BitVec n) : quotient u a b = quot u a b := by
  cases u with
  | true =>
    apply BitVec.eq_of_toNat_eq
    have hlt : a.toNat / b.toNat < 2 ^ n := Nat.lt_of_le_of_lt (Nat.div_le_self _ _) a.isLt
    simp [quotient, quot, Nat.mod_eq_of_lt hlt]
  | false =>
    apply BitVec.eq_of_toInt_eq
    simp [quotient, quot, BitVec.toInt_sdiv]

theorem remainder_eq {n : Nat} (u : Bool) (a b : BitVec n) : remainder u a b = a - quot u a b * b := by
  rw [remainder, quotient_eq]

/-- IDIV and IREM of operands that are ready, no divisor being 0, are producers. -/
theorem producerIssued_divide {s : State} {x : Sel} {i : Instr} {w : Bool} {b a : Src} {d bound : Nat} {f : Lane → QWord}
    (ht : Turn s x) (hi : exec i s = issue 4 (divide i w b a d bound f) s)
    (hr : ready x x.run [srcUse a (if w then 2 else 1), srcUse b (if w then 2 else 1)] [regUse d (if w then 2 else 1)] = true)
    (hz : ∀ j ∈ x.run, (if w then lanePair (laneOf x.beam j) b.r == 0 else laneReg (laneOf x.beam j) b.r == 0) = false) :
    ∃ t, exec i s = .next t ∧ ProducerIssued s t x i d (if w then 2 else 1)
      (x.run.map fun j => resultLane j (f (laneOf x.beam j)) 0) := by
  refine producerIssued_of_effect (bound := bound) ht hi ?_ fun l hl => ?_
  · have hnil : x.run.filter (fun j => if w then lanePair (laneOf x.beam j) b.r == 0 else laneReg (laneOf x.beam j) b.r == 0) = [] := by
      rw [List.filter_eq_nil_iff]
      intro j hj
      rw [hz j hj]
      exact Bool.false_ne_true
    simp only [divide, gated_ready hr, hnil]
    rfl
  · obtain ⟨j, hj, rfl⟩ := List.mem_map.1 hl
    exact hj

/-! ## Completion (R30, R152) -/

/-- What the performing of lanes of an unfinished access leaves of its beam: the lanes that took a value, and those whose block could
not be read. -/
def performedBeam (b : Beam) (clk : Nat) (p : Pend) (good bad : List PendLane) : Beam :=
  { b with
    pend := b.pend.map fun q => if q.id = p.id then { q with kind := .result, lanes := good } else q
    waiting := if bad = [] then b.waiting else
      insertTrap clk (uncorrectable p.run p.epc p.mstep (bad.map fun l => (l.lane, l.target))) b.waiting }

/-- A beam once a performed instruction has written its destinations. -/
def writtenBeam (b : Beam) (p : Pend) : Beam :=
  { beamLanes b (p.lanes.map fun l => l.lane) (fun i x =>
      match p.lanes.find? fun l => l.lane == i with
      | some l => laneFlags (laneSetN x p.dst l.res p.n) l.flags
      | none => x) with
    pend := b.pend.filter fun q => q.id != p.id }

theorem laneOf_writtenBeam {b : Beam} (p : Pend) {j : Nat} (hj : j < b.lanes.length) :
    laneOf (writtenBeam b p) j = match p.lanes.find? fun l => l.lane == j with
      | some l => laneFlags (laneSetN (laneOf b j) p.dst l.res p.n) l.flags
      | none => laneOf b j := by
  refine (laneOf_beamLanes b _ _ j).trans ?_
  by_cases h : j ∈ p.lanes.map fun l => l.lane
  · rw [if_pos hj, if_pos (List.contains_iff_mem.2 h)]
  · rw [if_pos hj, if_neg fun h' => h (List.contains_iff_mem.1 h')]
    have hnone : (p.lanes.find? fun l => l.lane == j) = none := by
      rw [List.find?_eq_none]
      intro l hl he
      exact h (List.mem_map.2 ⟨l, hl, beq_iff_eq.1 he⟩)
    rw [hnone]

theorem pendOf_eq {s : State} {k : Nat} {b : Beam} (hb : beamOf s k = some b) (id : Nat) :
    pendOf s k id = b.pend.find? fun q => q.id == id := by
  simp only [pendOf, hb]

/-- The unfinished instruction of a number, once it has been performed. -/
theorem find_performed {ps : List Pend} {id : Nat} {p : Pend} (h : ps.find? (fun q => q.id == id) = some p) (good : List PendLane) :
    (ps.map fun q => if q.id = p.id then { q with kind := .result, lanes := good } else q).find? (fun q => q.id == id) =
      some { p with kind := .result, lanes := good } := by
  have hid : p.id = id := by simpa using List.find?_some h
  have hfun : (fun q : Pend => (if q.id = p.id then { q with kind := .result, lanes := good } else q).id == id) = fun q => q.id == id := by
    funext q
    split <;> rfl
  rw [List.find?_map]
  simp only [Function.comp_def, hfun, h, Option.map_some, if_true]

theorem filter_performed (ps : List Pend) (p : Pend) (good : List PendLane) :
    (ps.map fun q => if q.id = p.id then { q with kind := .result, lanes := good } else q).filter (fun q => q.id != p.id) =
      ps.filter fun q => q.id != p.id := by
  induction ps with
  | nil => rfl
  | cons q ps ih =>
    by_cases h : q.id = p.id
    · simp [h, ih]
    · simp [h, ih]

theorem performPend_shut {s : State} {k : Nat} {p : Pend}
    (h : isAccess p.kind = false ∨ accessOpen s (k / 64) p.kind (p.lanes.map fun l => l.target) = false) : performPend s k p = s := by
  rw [performPend, if_pos]
  obtain h | h := h <;> simp [h]

theorem onBeam_setBeam (s : State) (k : Nat) (b : Beam) (f : Beam → Beam) : onBeam (setBeam s k b) k f = setBeam s k (f b) := by
  rw [onBeam_some (beamOf_setBeam_same s k b), setBeam_setBeam]

theorem performPend_open {s : State} {k : Nat} {b : Beam} {p : Pend} (hb : beamOf s k = some b) (ha : isAccess p.kind = true)
    (ho : accessOpen s (k / 64) p.kind (p.lanes.map fun l => l.target) = true) : performPend s k p =
      let r := performLanes (k / 64) p.kind s p.lanes
      setBeam r.1 k (performedBeam b s.clk p r.2.1 r.2.2) := by
  have hm := performLanes_only (k / 64) p.kind p.lanes s
  rw [performPend, if_neg (by simp [ha, ho])]
  generalize performLanes (k / 64) p.kind s p.lanes = r at hm ⊢
  have hb1 : beamOf r.1 k = some b := by rw [← hb, beamOf, hm.beams]; rfl
  simp only [onBeam_some hb1, queueTrap, List.isEmpty_iff, onBeam_setBeam, setBeam_clk, hm.clk, performedBeam]
  split <;> rfl

/-- A performed instruction that completes writes its destinations. -/
theorem completePend_of_performed {s t : State} {k id : Nat} {b : Beam} {p q : Pend} (hp : pendOf s k id = some p)
    (ht : performPend s k p = t) (hb : beamOf t k = some b) (hq : pendOf t k id = some q) (hk : q.kind = .result) :
    completePend s k id = setBeam t k (writtenBeam b q) := by
  simp only [completePend, hp, ht, hq, hk, if_true, writePend, onBeam_some hb]
  rfl

/-- One that cannot be performed stays as it is. -/
theorem completePend_of_unperformed {s : State} {k id : Nat} {p : Pend} (hp : pendOf s k id = some p) (ht : performPend s k p = s)
    (hk : p.kind ≠ .result) : completePend s k id = s := by
  simp only [completePend, hp, ht, hk, if_false]

theorem execProducerComplete_of_unperformed {s : State} {core n id : Nat} {p : Pend} (hp : pendOf s (64 * core + n) id = some p)
    (ht : performPend s (64 * core + n) p = s) (hk : p.kind ≠ .result) : exec (.producerComplete core n id) s =
      .next (if isAccess p.kind then post s 40 (.producerComplete core n id) else s) := by
  show execProducerComplete core n id s = _
  simp only [execProducerComplete, completePend_of_unperformed hp ht hk, hp]

/-- The instruction that has written its destinations is no longer unfinished, so the step ends there. -/
theorem execProducerComplete_of_performed {s t : State} {core n id : Nat} {b : Beam} {p q : Pend}
    (hp : pendOf s (64 * core + n) id = some p) (ht : performPend s (64 * core + n) p = t) (hb : beamOf t (64 * core + n) = some b)
    (hq : pendOf t (64 * core + n) id = some q) (hk : q.kind = .result) :
    exec (.producerComplete core n id) s = .next (setBeam t (64 * core + n) (writtenBeam b q)) := by
  have hid : q.id = id := by simpa using List.find?_some ((pendOf_eq hb id).symm.trans hq)
  have hnone : pendOf (setBeam t (64 * core + n) (writtenBeam b q)) (64 * core + n) id = none := by
    rw [pendOf_eq (beamOf_setBeam_same _ _ _), List.find?_eq_none]
    intro r hr he
    have hne : (r.id != q.id) = true := (List.mem_filter.1 hr).2
    rw [hid, bne_iff_ne] at hne
    exact hne (beq_iff_eq.1 he)
  show execProducerComplete core n id s = _
  simp only [execProducerComplete, completePend_of_performed hp ht hb hq hk, hnone]

theorem performLanes_cons (core : Nat) (k : PendKind) (s : State) (l : PendLane) (rest : List PendLane) :
    (performLanes core k s (l :: rest)).1 = (performLanes core k (performLane s core k l).2 rest).1 := by
  rw [performLanes]
  split <;> rename_i h <;> rw [h]

theorem performLanes_result (core : Nat) (s : State) : ∀ ls : List PendLane, performLanes core .result s ls = (s, ls, [])
  | [] => rfl
  | l :: ls => by simp only [performLanes, performLane, performLanes_result core s ls]

theorem performLanes_singleton (core : Nat) (k : PendKind) (s : State) (l : PendLane) : performLanes core k s [l] =
    match performLane s core k l with
    | (some v, u) => (u, [{ l with res := v }], [])
    | (none, u) => (u, [], [l]) := by
  rw [performLanes]
  generalize performLane s core k l = r
  obtain ⟨_ | v, u⟩ := r <;> rfl

end Sys2Proof.Machine

namespace Sys2Proof.Certificates

open Sys2Proof Sys2Proof.Machine

/-- Settles O22: both widths are producers of `divide`, whose values are the quotient toward zero and what it leaves. -/
theorem divisionsIssue : Obligations.DivisionsIssue := by
  unfold Obligations.DivisionsIssue
  intro s x u b a d ht
  refine ⟨fun hr hz => ?_, fun hr hz => ?_⟩
  · have hz' : ∀ j ∈ x.run, (laneReg (laneOf x.beam j) b.r == 0) = false := fun j hj => beq_eq_false_iff_ne.2 (hz j hj)
    have hdiv := producerIssued_divide (i := .idiv false u b a d) (w := false) ht rfl hr hz'
    have hrem := producerIssued_divide (i := .irem false u b a d) (w := false) ht rfl hr hz'
    simp only [divideValue, quotient_eq, remainder_eq] at hdiv hrem
    exact ⟨hdiv, hrem⟩
  · have hz' : ∀ j ∈ x.run, (lanePair (laneOf x.beam j) b.r == 0) = false := fun j hj => beq_eq_false_iff_ne.2 (hz j hj)
    have hdiv := producerIssued_divide (i := .idiv true u b a d) (w := true) ht rfl hr hz'
    have hrem := producerIssued_divide (i := .irem true u b a d) (w := true) ht rfl hr hz'
    simp only [divideValue, quotient_eq, remainder_eq] at hdiv hrem
    exact ⟨hdiv, hrem⟩

/-- Settles O24: both are producers once the gate is passed, GXLD where no index is bad. -/
theorem fdivAndGxldIssue : Obligations.FdivAndGxldIssue := by
  unfold Obligations.FdivAndGxldIssue
  intro s x ht
  refine ⟨fun g b a d hr => ?_, fun a d bl ga gr hh hr hix => ?_⟩
  · refine producerIssued_of_effect (bound := 14) ht (e := effFdiv g b a d) rfl ?_ fun l hl => ?_
    · exact gated_ready hr _
    · obtain ⟨j, hj, rfl⟩ := List.mem_map.1 hl
      exact execLanes_run x g j hj
  · have hbad : badIndex s x a.r = [] := by
      simp only [badIndex, hh, List.filter_eq_nil_iff]
      intro j hj
      have := hix j hj
      simp only [Bool.or_eq_true, decide_eq_true_eq]
      omega
    refine producerIssued_of_effect (bound := 6) ht (e := effGxld a d) rfl ?_ fun l hl => ?_
    · simp only [effGxld, gated_ready hr, hbad]
      rfl
    · obtain ⟨j, hj, rfl⟩ := List.mem_map.1 hl
      exact hj

/-- Settles O26: an access that travels is performed lane by lane and then written; a result is only written; what cannot be performed
yet stays. -/
theorem producersComplete : Obligations.ProducersComplete := by
  unfold Obligations.ProducersComplete
  intro s core n id b hn hb
  have hcore : (64 * core + n) / 64 = core := by omega
  refine ⟨fun hnone => ?_, fun p hp => ?_⟩
  · have hpend : pendOf s (64 * core + n) id = none := (pendOf_eq hb id).trans hnone
    show execProducerComplete core n id s = _
    simp only [execProducerComplete, completePend, hpend]
  have hpend : pendOf s (64 * core + n) id = some p := (pendOf_eq hb id).trans hp
  have hid : p.id = id := by simpa using List.find?_some hp
  refine ⟨fun he => ?_, fun ⟨ha, hshut⟩ => ?_, fun he hshut => ?_, fun hk => ?_, fun l rest hl => ?_, fun l hl => ⟨?_, ?_, ?_⟩⟩
  · have ha : isAccess p.kind = false := by cases h : p.kind <;> simp_all [isEntry, isAccess]
    have hk : p.kind ≠ .result := by rintro h; simp [h, isEntry] at he
    rw [execProducerComplete_of_unperformed hpend (performPend_shut (.inl ha)) hk, ha]
    rfl
  · have hk : p.kind ≠ .result := by rintro h; simp [h, isAccess] at ha
    rw [execProducerComplete_of_unperformed hpend (performPend_shut (.inr (hcore.symm ▸ hshut))) hk, ha]
    rfl
  · by_cases hk : p.kind = .result
    · have hperf : performPend s (64 * core + n) p = s := performPend_shut (.inl (by rw [hk]; rfl))
      refine ⟨writtenBeam b p, ?_, ?_, ?_, mapLanes_length _ _ _ _, fun j hj => ?_⟩
      · rw [execProducerComplete_of_performed hpend hperf hb hpend hk, hk, performLanes_result]
      · rw [← hid]; rfl
      · rw [hk, performLanes_result]; rfl
      · rw [hk, performLanes_result]; exact laneOf_writtenBeam p hj
    · have ha : isAccess p.kind = true := by cases h : p.kind <;> simp_all [isEntry, isAccess]
      have ho : accessOpen s core p.kind (p.lanes.map fun l => l.target) = true := by simpa [ha] using hshut
      have hperf := performPend_open hb ha (hcore.symm ▸ ho)
      rw [hcore] at hperf
      generalize performLanes core p.kind s p.lanes = r at hperf ⊢
      have hq := (pendOf_eq (beamOf_setBeam_same r.1 (64 * core + n) (performedBeam b s.clk p r.2.1 r.2.2)) id).trans
        (find_performed hp r.2.1)
      refine ⟨writtenBeam (performedBeam b s.clk p r.2.1 r.2.2) { p with kind := .result, lanes := r.2.1 }, ?_, ?_, rfl,
        mapLanes_length _ _ _ _, fun j hj => laneOf_writtenBeam (b := performedBeam b s.clk p r.2.1 r.2.2) _ hj⟩
      · rw [execProducerComplete_of_performed hpend hperf (beamOf_setBeam_same _ _ _) hq rfl, setBeam_setBeam]
      · have hpends : (writtenBeam (performedBeam b s.clk p r.2.1 r.2.2) { p with kind := .result, lanes := r.2.1 }).pend =
            b.pend.filter fun q => q.id != id := by rw [← hid]; exact filter_performed b.pend p r.2.1
        rw [← hpends]
        rfl
  · rw [hk, performLanes_result]
  · rw [hl, performLanes_cons]
  · intro m hk
    rw [hl, hk, performLanes_singleton]
    rfl
  · intro m sc const hk
    rw [hl, hk, performLanes_singleton]
    simp only [performLane]
    generalize loadPath s core l.target sc const m = r
    obtain ⟨_ | v, u⟩ := r <;> rfl
  · intro m op q hk
    rw [hl, hk, performLanes_singleton]
    simp only [performLane]
    generalize atomPath s core l.target m q (atomicNew op m l.data) = r
    obtain ⟨_ | v, u⟩ := r <;> rfl

end Sys2Proof.Certificates
end

section
/-!
PROOF of O35 and O36, part 1. What memory's operations read: never the beams. Performing on a state with other beams is performing,
with these beams.
-/
namespace Sys2Proof.Machine

open Sys2Proof

set_option Elab.async false

/-- A state with other beams. -/
def withBeams (s : State) (B : NMap Beam) : State := { s with beams := B }

section Reads

variable (s : State) (B : NMap Beam)

@[simp] theorem withBeams_mem : (withBeams s B).mem = s.mem := rfl
@[simp] theorem withBeams_bad : (withBeams s B).bad = s.bad := rfl
@[simp] theorem withBeams_l2 : (withBeams s B).l2 = s.l2 := rfl
@[simp] theorem withBeams_fresh : (withBeams s B).fresh = s.fresh := rfl
@[simp] theorem withBeams_clk : (withBeams s B).clk = s.clk := rfl
@[simp] theorem withBeams_aliased : (withBeams s B).aliased = s.aliased := rfl
@[simp] theorem withBeams_beams : (withBeams s B).beams = B := rfl
@[simp] theorem coreOf_withBeams (core : Nat) : coreOf (withBeams s B) core = coreOf s core := rfl
@[simp] theorem partOfCore_withBeams (core : Nat) : partOfCore (withBeams s B) core = partOfCore s core := rfl
@[simp] theorem partOfSector_withBeams (sec : Nat) : partOfSector (withBeams s B) sec = partOfSector s sec := rfl
@[simp] theorem sectorsOf_withBeams (part : Nat) : sectorsOf (withBeams s B) part = sectorsOf s part := rfl
@[simp] theorem podPart_withBeams : podPart (withBeams s B) = podPart s := rfl
@[simp] theorem ownPod_withBeams (apc pa : Nat) : ownPod (withBeams s B) apc pa = ownPod s apc pa := rfl
@[simp] theorem homeSector_withBeams (part pa : Nat) : homeSector (withBeams s B) part pa = homeSector s part pa := rfl
@[simp] theorem blockPlace_withBeams (part pa : Nat) : blockPlace (withBeams s B) part pa = blockPlace s part pa := rfl
@[simp] theorem bytePlace_withBeams (part pa : Nat) : bytePlace (withBeams s B) part pa = bytePlace s part pa := rfl
@[simp] theorem isLocalCopy_withBeams (sec apc pa : Nat) : isLocalCopy (withBeams s B) sec apc pa = isLocalCopy s sec apc pa := rfl
@[simp] theorem stuck_withBeams (e) : stuck (withBeams s B) e = stuck s e := rfl
@[simp] theorem blockBad_withBeams (part pa : Nat) : blockBad (withBeams s B) part pa = blockBad s part pa := rfl
@[simp] theorem fillBad_withBeams (part apc pa : Nat) : fillBad (withBeams s B) part apc pa = fillBad s part apc pa := rfl
@[simp] theorem lineHeld_withBeams (core pa : Nat) (sc : Scope) : lineHeld (withBeams s B) core pa sc = lineHeld s core pa sc := rfl
@[simp] theorem nearBlockRead_withBeams (part pa n : Nat) : nearBlockRead (withBeams s B) part pa n = nearBlockRead s part pa n := rfl
@[simp] theorem homeRead_withBeams (part pa n : Nat) : homeRead (withBeams s B) part pa n = homeRead s part pa n := rfl
@[simp] theorem outerRead_withBeams (apc pa n : Nat) : outerRead (withBeams s B) apc pa n = outerRead s apc pa n := rfl
@[simp] theorem csrRead_withBeams (part n : Nat) : csrRead (withBeams s B) part n = csrRead s part n := rfl
@[simp] theorem aliasKey_withBeams (core t : Nat) : aliasKey (withBeams s B) core t = aliasKey s core t := rfl
@[simp] theorem canReach_withBeams (core : Nat) (x : Xl) (sc : Scope) (w a : Bool) :
    canReach (withBeams s B) core x sc w a = canReach s core x sc w a := rfl
@[simp] theorem accessOpen_withBeams (core : Nat) (k : PendKind) (ts : List Nat) :
    accessOpen (withBeams s B) core k ts = accessOpen s core k ts := rfl
@[simp] theorem storeOpen_withBeams (core : Nat) (x : Store) : storeOpen (withBeams s B) core x = storeOpen s core x := rfl
@[simp] theorem syncOpen_withBeams (sec : Nat) (sc : Scope) : syncOpen (withBeams s B) sec sc = syncOpen s sec sc := rfl
@[simp] theorem lockHit_withBeams (core : Nat) (loc : Bool) (a n : Nat) (w : Bool) :
    lockHit (withBeams s B) core loc a n w = lockHit s core loc a n w := rfl
@[simp] theorem outerOk_withBeams (core : Nat) (sup w : Bool) (x : Xl) : outerOk (withBeams s B) core sup w x = outerOk s core sup w x := rfl

theorem withBeams_ite (c : Prop) [Decidable c] (t u : State) :
    withBeams (if c then t else u) B = if c then withBeams t B else withBeams u B := apply_ite (withBeams · B) c t u

theorem withBeams_snd_ite {α : Type} (c : Prop) [Decidable c] (p q : α × State) :
    ((if c then p else q).1, withBeams (if c then p else q).2 B) = if c then (p.1, withBeams p.2 B) else (q.1, withBeams q.2 B) :=
  apply_ite (fun r : α × State => (r.1, withBeams r.2 B)) c p q

theorem withBeams_withBeams (C : NMap Beam) : withBeams (withBeams s B) C = withBeams s C := rfl

end Reads

/-! ## Memory and the slices -/

section Memory

variable (s : State) (B : NMap Beam)

/-- An operation that is folded over a list does not read the beams if it does not. -/
theorem foldl_withBeams {α : Type} (f : State → α → State) (hf : ∀ s a, f (withBeams s B) a = withBeams (f s a) B) :
    ∀ (l : List α) (s : State), l.foldl f (withBeams s B) = withBeams (l.foldl f s) B
  | [], _ => rfl
  | a :: l, s => by rw [List.foldl_cons, hf, foldl_withBeams f hf l (f s a)]; rfl

@[simp] theorem setCore_withBeams (core : Nat) (f : Core → Core) :
    setCore (withBeams s B) core f = withBeams (setCore s core f) B := rfl

@[simp] theorem poison_withBeams (part pa : Nat) : poison (withBeams s B) part pa = withBeams (poison s part pa) B := by
  simp only [poison, blockPlace_withBeams]
  cases blockPlace s part pa <;> rfl

@[simp] theorem nearBlockWrite_withBeams (part pa : Nat) (l : List Byte) :
    nearBlockWrite (withBeams s B) part pa l = withBeams (nearBlockWrite s part pa l) B := by
  simp only [nearBlockWrite, bytePlace_withBeams]
  cases bytePlace s part pa <;> rfl

@[simp] theorem nearWrite_withBeams (part pa : Nat) (l : List Byte) :
    nearWrite (withBeams s B) part pa l = withBeams (nearWrite s part pa l) B := by
  simp only [nearWrite, nearBlockWrite_withBeams, blockPlace_withBeams, withBeams_bad]
  cases blockPlace s part pa with
  | none => rfl
  | some k => simp only [withBeams_ite]; rfl

@[simp] theorem homeWrite_withBeams (part pa : Nat) (l : List Byte) :
    homeWrite (withBeams s B) part pa l = withBeams (homeWrite s part pa l) B := by
  simp only [homeWrite, nearWrite_withBeams, homeSector_withBeams, withBeams_l2]
  obtain _ | ⟨x, d⟩ := look s.l2 (l2Key (homeSector s part pa) 0 pa) <;> rfl

theorem writeRuns_withBeams (w : State → Nat → List Byte → State) (hw : ∀ s a l, w (withBeams s B) a l = withBeams (w s a l) B)
    (base : Nat) (r : List (Nat × List Byte)) : writeRuns w (withBeams s B) base r = withBeams (writeRuns w s base r) B :=
  foldl_withBeams B _ (fun s _ => hw s _ _) r s

@[simp] theorem homeDrop_withBeams (part pa : Nat) : homeDrop (withBeams s B) part pa = withBeams (homeDrop s part pa) B := by
  simp only [homeDrop, homeSector_withBeams, withBeams_l2,
    writeRuns_withBeams s B (fun s a l => nearWrite s part a l) fun s a l => nearWrite_withBeams s B part a l]
  obtain _ | ⟨x, d⟩ := look s.l2 (l2Key (homeSector s part pa) 0 pa) <;> rfl

@[simp] theorem outerWrite_withBeams (apc pa : Nat) (l : List Byte) :
    outerWrite (withBeams s B) apc pa l = withBeams (outerWrite s apc pa l) B := by
  simp only [outerWrite, ownPod_withBeams, podPart_withBeams, homeWrite_withBeams, withBeams_ite]
  rfl

@[simp] theorem copyBack_withBeams (part apc pa : Nat) (x : BitVec 1024) (d : BitVec 128) :
    copyBack (withBeams s B) part apc pa x d = withBeams (copyBack s part apc pa x d) B :=
  writeRuns_withBeams s B _ (fun s a l => by simp only [homeWrite_withBeams, outerWrite_withBeams, withBeams_ite]) _ _

@[simp] theorem evictL2_withBeams (key : Nat) : evictL2 (withBeams s B) key = withBeams (evictL2 s key) B := by
  simp only [evictL2, withBeams_l2, stuck_withBeams, isLocalCopy_withBeams, partOfSector_withBeams, copyBack_withBeams, homeDrop_withBeams]
  obtain _ | ⟨x, d⟩ := look s.l2 key
  · rfl
  · simp only [withBeams_ite]; rfl

@[simp] theorem l2Fill_withBeams (k : Nat) (x : BitVec 1024) : l2Fill (withBeams s B) k x = withBeams (l2Fill s k x) B := by
  simp only [l2Fill, withBeams_l2, withBeams_fresh, stuck_withBeams, evictL2_withBeams, withBeams_ite]
  rfl

@[simp] theorem sliceRead_withBeams (sec apc pa n : Nat) :
    sliceRead (withBeams s B) sec apc pa n = ((sliceRead s sec apc pa n).1, withBeams (sliceRead s sec apc pa n).2 B) := by
  simp only [sliceRead, withBeams_l2, partOfSector_withBeams, homeRead_withBeams, outerRead_withBeams, fillBad_withBeams, l2Fill_withBeams]
  obtain _ | ⟨x, d⟩ := look s.l2 (l2Key sec apc pa)
  · simp only [withBeams_ite]
  · rfl

@[simp] theorem sliceWrite_withBeams (sec apc pa : Nat) (l : List Byte) :
    sliceWrite (withBeams s B) sec apc pa l = withBeams (sliceWrite s sec apc pa l) B := by
  simp only [sliceWrite, sliceRead_withBeams, withBeams_l2, partOfSector_withBeams, homeWrite_withBeams, outerWrite_withBeams]
  obtain _ | ⟨x, d⟩ := look (sliceRead s sec apc pa 1).2.l2 (l2Key sec apc pa)
  · simp only [withBeams_ite]
  · rfl

@[simp] theorem outerThrough_withBeams (sec : Option Nat) (apc pa : Nat) (l : List Byte) :
    outerThrough (withBeams s B) sec apc pa l = withBeams (outerThrough s sec apc pa l) B := by
  simp only [outerThrough, outerWrite_withBeams, withBeams_l2]
  cases sec with
  | none => rfl
  | some sec => dsimp only; obtain _ | ⟨x, d⟩ := look (outerWrite s apc pa l).l2 (l2Key sec apc pa) <;> rfl

@[simp] theorem throughWrite_withBeams (sec pa : Nat) (l : List Byte) :
    throughWrite (withBeams s B) sec pa l = withBeams (throughWrite s sec pa l) B := by
  simp only [throughWrite, partOfSector_withBeams, isLocalCopy_withBeams, homeWrite_withBeams, withBeams_l2, withBeams_ite]
  obtain _ | ⟨x, d⟩ := look (homeWrite s (partOfSector s sec) pa l).l2 (l2Key sec 0 pa) <;> rfl

@[simp] theorem syncSector_withBeams (sec : Nat) (which : Nat → Bool) (dropIt : Bool) :
    syncSector (withBeams s B) sec which dropIt = withBeams (syncSector s sec which dropIt) B := by
  refine foldl_withBeams B _ (fun s e => ?_) s.l2 s
  simp only [isLocalCopy_withBeams, withBeams_l2, stuck_withBeams, partOfSector_withBeams, copyBack_withBeams, withBeams_ite]
  obtain _ | ⟨x, d⟩ := look s.l2 e.1
  · rfl
  · simp only [withBeams_ite]; rfl

@[simp] theorem releaseCaches_withBeams (sec : Nat) (sc : Scope) :
    releaseCaches (withBeams s B) sec sc = withBeams (releaseCaches s sec sc) B := by
  cases sc <;> simp only [releaseCaches, syncSector_withBeams]

@[simp] theorem acquireCaches_withBeams (core : Nat) (sc : Scope) :
    acquireCaches (withBeams s B) core sc = withBeams (acquireCaches s core sc) B := by
  cases sc <;> simp only [acquireCaches, setCore_withBeams, syncSector_withBeams]

@[simp] theorem l1Read_withBeams (core pa n : Nat) (const : Bool) :
    l1Read (withBeams s B) core pa n const = ((l1Read s core pa n const).1, withBeams (l1Read s core pa n const).2 B) := by
  simp only [l1Read, coreOf_withBeams, sliceRead_withBeams, fillBad_withBeams, partOfCore_withBeams, withBeams_l2]
  obtain _ | ⟨x, d⟩ := look (coreOf s core).l1 (pa / 128)
  · simp only [withBeams_ite]; rfl
  · rfl

@[simp] theorem l1Update_withBeams (core pa : Nat) (l : List Byte) :
    l1Update (withBeams s B) core pa l = withBeams (l1Update s core pa l) B := by
  simp only [l1Update, coreOf_withBeams]
  obtain _ | ⟨x, d⟩ := look (coreOf s core).l1 (pa / 128) <;> rfl

@[simp] theorem l1Drop_withBeams (core pa : Nat) : l1Drop (withBeams s B) core pa = withBeams (l1Drop s core pa) B := rfl
@[simp] theorem l1DropConst_withBeams (core pa : Nat) : l1DropConst (withBeams s B) core pa = withBeams (l1DropConst s core pa) B := rfl

@[simp] theorem ownCopyBack_withBeams (sec apc pa : Nat) (dropIt : Bool) :
    ownCopyBack (withBeams s B) sec apc pa dropIt = withBeams (ownCopyBack s sec apc pa dropIt) B := by
  simp only [ownCopyBack, isLocalCopy_withBeams, withBeams_l2, partOfSector_withBeams, copyBack_withBeams, withBeams_ite]
  obtain _ | ⟨x, d⟩ := look s.l2 (l2Key sec apc pa)
  · rfl
  · simp only [withBeams_ite]; rfl

end Memory

/-! ## Loads, stores and atomics -/

section Paths

variable (s : State) (B : NMap Beam)

@[simp] theorem noteAlias_withBeams (core t : Nat) (old new : List Byte) :
    noteAlias (withBeams s B) core t old new = withBeams (noteAlias s core t old new) B := by
  simp only [noteAlias, aliasKey_withBeams]
  cases aliasKey s core t <;> rfl

@[simp] theorem aliasMix_withBeams (core t : Nat) (l : List Byte) :
    aliasMix (withBeams s B) core t l = ((aliasMix s core t l).1, withBeams (aliasMix s core t l).2 B) := by
  simp only [aliasMix, aliasKey_withBeams, withBeams_aliased, withBeams_fresh, withBeams_snd_ite]
  rfl

@[simp] theorem loadBytes_withBeams (core t : Nat) (sc : Scope) (const : Bool) (n : Nat) :
    loadBytes (withBeams s B) core t sc const n = ((loadBytes s core t sc const n).1, withBeams (loadBytes s core t sc const n).2 B) := by
  simp only [loadBytes, partOfCore_withBeams, blockBad_withBeams, nearBlockRead_withBeams, fillBad_withBeams, homeRead_withBeams,
    lineHeld_withBeams, l1Read_withBeams, sliceRead_withBeams, ownCopyBack_withBeams, withBeams_mem, csrRead_withBeams,
    ownPod_withBeams, podPart_withBeams, outerRead_withBeams]
  split
  · cases sc <;> simp only [withBeams_snd_ite] <;> rfl
  · simp only [withBeams_snd_ite]
    rfl
  · cases sc <;> simp only [withBeams_snd_ite]

@[simp] theorem loadPath_withBeams (core t : Nat) (sc : Scope) (const : Bool) (n : Nat) :
    loadPath (withBeams s B) core t sc const n = ((loadPath s core t sc const n).1, withBeams (loadPath s core t sc const n).2 B) := by
  simp only [loadPath, loadBytes_withBeams]
  generalize loadBytes s core t sc const n = r
  obtain ⟨_ | l, u⟩ := r
  · rfl
  · simp only [aliasMix_withBeams]

@[simp] theorem bytesThere_withBeams (core t : Nat) (sc : Scope) (n : Nat) :
    bytesThere (withBeams s B) core t sc n = bytesThere s core t sc n := by
  simp only [bytesThere, partOfCore_withBeams, nearBlockRead_withBeams, sliceRead_withBeams, homeRead_withBeams, outerRead_withBeams]

@[simp] theorem storeBytes_withBeams (core t : Nat) (sc : Scope) (l : List Byte) :
    storeBytes (withBeams s B) core t sc l = withBeams (storeBytes s core t sc l) B := by
  simp only [storeBytes, partOfCore_withBeams, l1DropConst_withBeams, homeWrite_withBeams, l1Update_withBeams, sliceWrite_withBeams,
    throughWrite_withBeams, withBeams_mem, nearWrite_withBeams, outerWrite_withBeams, outerThrough_withBeams]
  split
  · split
    · rfl
    · cases sc <;> rfl
  · split
    · rfl
    · split <;> rfl
  · split
    · rfl
    · cases sc <;> rfl

@[simp] theorem storePath_withBeams (core t : Nat) (sc : Scope) (l : List Byte) :
    storePath (withBeams s B) core t sc l = withBeams (storePath s core t sc l) B := by
  simp only [storePath, bytesThere_withBeams, noteAlias_withBeams, storeBytes_withBeams]

@[simp] theorem promote_withBeams (part apc pa : Nat) : promote (withBeams s B) part apc pa = withBeams (promote s part apc pa) B := by
  rw [promote, sectorsOf_withBeams]
  exact foldl_withBeams B _ (fun s sec => by simp only [syncSector_withBeams, ownCopyBack_withBeams]) _ s

theorem atomWrite_withBeams (core t bytes old : Nat) (v : Option Nat) (w : State → List Byte → State)
    (hw : ∀ s l, w (withBeams s B) l = withBeams (w s l) B) :
    atomWrite (withBeams s B) core t bytes old v w = withBeams (atomWrite s core t bytes old v w) B := by
  cases v with
  | none => rfl
  | some x => simp only [atomWrite, noteAlias_withBeams, hw]

@[simp] theorem nearAtom_withBeams (part pa core t bytes : Nat) (f : Nat → Option Nat) : nearAtom (withBeams s B) part pa core t bytes f =
    ((nearAtom s part pa core t bytes f).1, withBeams (nearAtom s part pa core t bytes f).2 B) := by
  simp only [nearAtom, homeDrop_withBeams, blockBad_withBeams, nearBlockRead_withBeams,
    atomWrite_withBeams _ B core t bytes _ _ (fun s l => nearWrite s part pa l) fun s l => nearWrite_withBeams s B part pa l]
  split <;> rfl

@[simp] theorem atomPath_withBeams (core t bytes : Nat) (q : QF) (f : Nat → Option Nat) : atomPath (withBeams s B) core t bytes q f =
    ((atomPath s core t bytes q f).1, withBeams (atomPath s core t bytes q f).2 B) := by
  simp only [atomPath, partOfCore_withBeams, l1Drop_withBeams, blockBad_withBeams, lineHeld_withBeams, sliceRead_withBeams,
    promote_withBeams, ← withBeams_ite, ownCopyBack_withBeams, nearAtom_withBeams, ownPod_withBeams, podPart_withBeams, withBeams_fresh,
    outerRead_withBeams]
  split
  · simp only [withBeams_snd_ite, atomWrite_withBeams _ B core t bytes _ _ (fun s l => sliceWrite s (core / 4) 0 (tgPa t) l) fun s l =>
      sliceWrite_withBeams s B (core / 4) 0 (tgPa t) l]
  · rfl
  · simp only [withBeams_snd_ite, atomWrite_withBeams _ B core t bytes _ _ (fun s l => outerWrite s (tgApc t) (tgPa t) l) fun s l =>
      outerWrite_withBeams s B (tgApc t) (tgPa t) l]

end Paths

/-! ## Performing -/

section Performing

variable (s : State) (B : NMap Beam)

@[simp] theorem performLane_withBeams (core : Nat) (k : PendKind) (l : PendLane) :
    performLane (withBeams s B) core k l = ((performLane s core k l).1, withBeams (performLane s core k l).2 B) := by
  cases k with
  | result => rfl
  | parked => rfl
  | again => rfl
  | loadLocal n => rfl
  | load n sc const =>
    simp only [performLane, loadPath_withBeams]
    generalize loadPath s core l.target sc const n = r
    obtain ⟨_ | v, u⟩ := r <;> rfl
  | atomic n op q =>
    simp only [performLane, atomPath_withBeams]
    generalize atomPath s core l.target n q (atomicNew op n l.data) = r
    obtain ⟨_ | v, u⟩ := r <;> rfl

theorem performLanes_withBeams (core : Nat) (k : PendKind) : ∀ (ls : List PendLane) (s : State), performLanes core k (withBeams s B) ls =
    (withBeams (performLanes core k s ls).1 B, (performLanes core k s ls).2)
  | [], _ => rfl
  | l :: ls, s => by
    simp only [performLanes, performLane_withBeams]
    generalize performLane s core k l = r
    obtain ⟨_ | v, u⟩ := r <;> simp only [performLanes_withBeams core k ls u]

@[simp] theorem redPiece_withBeams (core : Nat) (op : AtomOp) (q : QF) (p : Piece) :
    redPiece (withBeams s B) core op q p = (withBeams (redPiece s core op q p).1 B, (redPiece s core op q p).2) := by
  simp only [redPiece, atomPath_withBeams]
  generalize atomPath s core p.target p.bytes.length q _ = r
  obtain ⟨_ | v, u⟩ := r
  · simp only [podPart_withBeams, partOfCore_withBeams, poison_withBeams]
    split
    · rfl
    · split <;> rfl
  · rfl

theorem performPiece_withBeams (core : Nat) (x : Store) (r : State × List (Nat × Nat)) (p : Piece) :
    performPiece core x (withBeams r.1 B, r.2) p = (withBeams (performPiece core x r p).1 B, (performPiece core x r p).2) := by
  simp only [performPiece]
  cases x.kind with
  | plain => simp only [storePath_withBeams]
  | loc => rfl
  | red op q => simp only [redPiece_withBeams]

theorem performPieces_withBeams (core : Nat) (x : Store) : ∀ (ps : List Piece) (r : State × List (Nat × Nat)),
    ps.foldl (performPiece core x) (withBeams r.1 B, r.2) =
      (withBeams (ps.foldl (performPiece core x) r).1 B, (ps.foldl (performPiece core x) r).2)
  | [], _ => rfl
  | p :: ps, r => by
    rw [List.foldl_cons, performPiece_withBeams]
    exact performPieces_withBeams core x ps (performPiece core x r p)

end Performing

/-! ## States with the same beams, differently held -/

/-- Two states that differ in nothing but how their maps hold the same beams. -/
structure Alike (s t : State) : Prop where
  rest : t = withBeams s t.beams
  beam : ∀ j, beamOf t j = beamOf s j

theorem Alike.refl (s : State) : Alike s s := ⟨rfl, fun _ => rfl⟩

/-- Storing a beam that stands there already. -/
theorem Alike.setBeam_same {s : State} {k : Nat} {b : Beam} (h : beamOf s k = some b) : Alike s (setBeam s k b) := by
  refine ⟨rfl, fun j => ?_⟩
  by_cases hj : j = k
  · rw [hj, h, beamOf_setBeam_same]
  · exact beamOf_setBeam_other s k j b hj

section Alike

variable {s t : State}

/-- What does not read the beams is the same in both. -/
theorem Alike.read {α : Sort _} (h : Alike s t) (f : State → α) (hf : ∀ s B, f (withBeams s B) = f s) : f t = f s := by
  rw [h.rest, hf]

theorem Alike.withBeams {s' : State} (h : Alike s t) (hb : s'.beams = s.beams) : Alike s' (Machine.withBeams s' t.beams) :=
  ⟨rfl, fun j => (h.beam j).trans (by rw [beamOf, beamOf, hb])⟩

/-- An operation of memory's takes like states to like states. -/
theorem Alike.memory (h : Alike s t) (f : State → State) (hf : ∀ s B, f (Machine.withBeams s B) = Machine.withBeams (f s) B)
    (hm : ∀ s, OnlyMemory s (f s)) : Alike (f s) (f t) := by
  rw [show f t = Machine.withBeams (f s) t.beams by rw [h.rest, hf]; rfl]
  exact h.withBeams (hm s).beams

theorem Alike.onBeam (h : Alike s t) (k : Nat) (f : Beam → Beam) : Alike (Machine.onBeam s k f) (Machine.onBeam t k f) := by
  refine ⟨?_, fun j => ?_⟩
  · conv_lhs => rw [h.rest]
    rw [h.rest]
    rfl
  · have hk : look t.beams k = look s.beams k := h.beam k
    have hj : look t.beams j = look s.beams j := h.beam j
    simp only [beamOf, Machine.onBeam, look_alter, hk, hj]

theorem Alike.queueTrap (h : Alike s t) (k : Nat) (u : Trap) : Alike (Machine.queueTrap s k u) (Machine.queueTrap t k u) := by
  rw [Machine.queueTrap, Machine.queueTrap, h.read (·.clk) fun _ _ => rfl]
  exact h.onBeam k _

theorem Alike.ite (c : Prop) [Decidable c] {s' t' : State} (h : c → Alike s t) (h' : ¬ c → Alike s' t') :
    Alike (if c then s else s') (if c then t else t') := by
  split
  · exact h ‹_›
  · exact h' ‹_›

theorem Alike.foldl {α : Type} (f : State → α → State) (hf : ∀ {s t} (a : α), Alike s t → Alike (f s a) (f t a)) :
    ∀ (l : List α) {s t : State}, Alike s t → Alike (l.foldl f s) (l.foldl f t)
  | [], _, _, h => h
  | a :: l, _, _, h => Alike.foldl f hf l (hf a h)

theorem Alike.performPend (h : Alike s t) (k : Nat) (p : Pend) : Alike (Machine.performPend s k p) (Machine.performPend t k p) := by
  have hopen := h.read (fun s => accessOpen s (k / 64) p.kind (p.lanes.map fun l => l.target)) fun _ _ => rfl
  have hlanes : performLanes (k / 64) p.kind t p.lanes =
      (Machine.withBeams (performLanes (k / 64) p.kind s p.lanes).1 t.beams, (performLanes (k / 64) p.kind s p.lanes).2) := by
    conv_lhs => rw [h.rest]
    exact performLanes_withBeams t.beams (k / 64) p.kind p.lanes s
  have hperf := (h.withBeams (performLanes_only (k / 64) p.kind p.lanes s).beams).onBeam k
  simp only [Machine.performPend, hopen, hlanes]
  exact .ite _ (fun _ => h) fun _ => .ite _ (fun _ => hperf _) fun _ => (hperf _).queueTrap k _

theorem Alike.performStore (h : Alike s t) (k : Nat) (x : Store) : Alike (Machine.performStore s k x) (Machine.performStore t k x) := by
  have hopen := h.read (fun s => storeOpen s (k / 64) x) fun _ _ => rfl
  have hpieces : x.pieces.foldl (performPiece (k / 64) x) (t, []) =
      (Machine.withBeams (x.pieces.foldl (performPiece (k / 64) x) (s, [])).1 t.beams,
        (x.pieces.foldl (performPiece (k / 64) x) (s, [])).2) := by
    conv_lhs => rw [h.rest]
    exact performPieces_withBeams t.beams (k / 64) x x.pieces (s, [])
  have hperf := (h.withBeams (performPieces_only (k / 64) x x.pieces (s, [])).beams).onBeam k
  simp only [Machine.performStore, hopen, hpieces]
  exact .ite _ (fun _ => h) fun _ => .ite _ (fun _ => hperf _) fun _ => (hperf _).queueTrap k _

theorem Alike.performWhere (h : Alike s t) (k : Nat) (f : Pend → Bool) :
    Alike (Machine.performWhere s k f) (Machine.performWhere t k f) := by
  rw [Machine.performWhere, Machine.performWhere, h.beam k]
  cases beamOf s k with
  | none => exact h
  | some b => exact .foldl _ (fun p h => h.performPend k p) _ h

theorem Alike.drainWhere (h : Alike s t) (k : Nat) (f : Store → Bool) :
    Alike (Machine.drainWhere s k f) (Machine.drainWhere t k f) := by
  rw [Machine.drainWhere, Machine.drainWhere, h.beam k]
  cases beamOf s k with
  | none => exact h
  | some b => exact .foldl _ (fun x h => h.performStore k x) _ h

theorem Alike.beforeAccess (h : Alike s t) (k : Nat) (sp : List Span) :
    Alike (Machine.beforeAccess s k sp) (Machine.beforeAccess t k sp) := (h.drainWhere k _).performWhere k _

theorem Alike.performAll (h : Alike s t) (k : Nat) : Alike (Machine.performAll s k) (Machine.performAll t k) :=
  (h.performWhere k _).drainWhere k _

theorem Alike.releaseAt (h : Alike s t) (k : Nat) (sc : Scope) : Alike (Machine.releaseAt s k sc) (Machine.releaseAt t k sc) :=
  (h.performAll k).memory (releaseCaches · (k / 256) sc) (fun s B => releaseCaches_withBeams s B _ sc) fun s => releaseCaches_only s _ sc

theorem Alike.acquireAt (h : Alike s t) (k : Nat) (sc : Scope) : Alike (Machine.acquireAt s k sc) (Machine.acquireAt t k sc) :=
  (h.performWhere k _).memory (acquireCaches · (k / 64) sc) (fun s B => acquireCaches_withBeams s B _ sc) fun s => acquireCaches_only s _ sc

theorem Alike.windowFence (h : Alike s t) (k : Nat) (ls : List GLane) :
    Alike (Machine.windowFence s k ls) (Machine.windowFence t k ls) :=
  .ite _ (fun _ => (h.releaseAt k .dev).acquireAt k .dev) fun _ => h

theorem Alike.syncShut (h : Alike s t) (k : Nat) (sc : Scope) : Machine.syncShut t k sc = Machine.syncShut s k sc := by
  have howes : owes t k = owes s k := by rw [owes, owes, h.beam k]
  rw [Machine.syncShut, Machine.syncShut, howes, h.read (syncOpen · (k / 256) sc) fun _ _ => rfl]

theorem Alike.earlierShut (h : Alike s t) (k : Nat) (sp : List Span) : Machine.earlierShut t k sp = Machine.earlierShut s k sp := by
  rw [Machine.earlierShut, Machine.earlierShut, owesSpans, owesSpans, (h.beforeAccess k sp).beam k]

/-- Whether what an access brings about can travel does not depend on how the beams are held. -/
theorem Alike.syncReady (h : Alike s t) (k : Nat) (op : GOp) (ls : List GLane) :
    Machine.syncReady t k op ls = Machine.syncReady s k op ls := by
  have hpart := h.read (fun s => partOfCore s (k / 64)) fun _ _ => rfl
  have hsectors := fun part => h.read (fun s => sectorsOf s part) fun _ _ => rfl
  have hopen := fun sec => (h.performAll k).read (fun s => syncOpen s sec .dev) fun _ _ => rfl
  simp only [Machine.syncReady, (h.performAll k).syncShut, hpart, hsectors, hopen, h.earlierShut]

end Alike

end Sys2Proof.Machine
end

section
/-!
PROOF of O35, O36 and O41. Memory instructions that issue: what performing leaves of a beam, what the start of an unfinished access
does, and the checks of a global access whose every lane translates.
-/
namespace Sys2Proof.Machine

open Sys2Proof

set_option Elab.async false

/-! ## What performing leaves of a beam (R86, R161) -/

/-- The state t differs from s in what performing accesses of beam k can change: of the beam itself only its unfinished instructions, its
buffered stores, of which none is new, and the traps that wait. -/
structure Performs (k : Nat) (s t : State) : Prop where
  only : OnlyBeam k s t
  beam : ∀ b, beamOf s k = some b → ∃ c, beamOf t k = some c ∧
    c = { b with pend := c.pend, stores := c.stores, waiting := c.waiting } ∧ ∀ y ∈ c.stores, y ∈ b.stores

theorem Performs.refl (k : Nat) (s : State) : Performs k s s := ⟨.refl k s, fun b hb => ⟨b, hb, rfl, fun _ h => h⟩⟩

theorem Performs.trans {k : Nat} {s t u : State} (h : Performs k s t) (g : Performs k t u) : Performs k s u := by
  refine ⟨h.only.trans g.only, fun b hb => ?_⟩
  obtain ⟨c, hc, hcb, hcs⟩ := h.beam b hb
  obtain ⟨d, hd, hdc, hds⟩ := g.beam c hc
  exact ⟨d, hd, by rw [hdc, hcb], fun y hy => hcs y (hds y hy)⟩

theorem Performs.foldl {α : Type} {k : Nat} (f : State → α → State) (hf : ∀ s a, Performs k s (f s a)) :
    ∀ (l : List α) (s : State), Performs k s (l.foldl f s)
  | [], s => .refl k s
  | a :: l, s => (hf s a).trans (Performs.foldl f hf l (f s a))

theorem OnlyMemory.performs {s t : State} (h : OnlyMemory s t) (k : Nat) : Performs k s t :=
  ⟨h.beam k, fun b hb => ⟨b, by rw [beamOf, h.beams]; exact hb, rfl, fun _ h => h⟩⟩

/-- A change of a beam in these parts. -/
theorem onBeam_performs (s : State) (k : Nat) (f : Beam → Beam)
    (hf : ∀ b, f b = { b with pend := (f b).pend, stores := (f b).stores, waiting := (f b).waiting })
    (hs : ∀ b, ∀ y ∈ (f b).stores, y ∈ b.stores) : Performs k s (onBeam s k f) :=
  ⟨onBeam_only s k f, fun b hb => ⟨f b, by rw [onBeam_some hb, beamOf_setBeam_same], hf b, hs b⟩⟩

theorem queueTrap_performs (s : State) (k : Nat) (t : Trap) : Performs k s (queueTrap s k t) :=
  onBeam_performs s k _ (fun _ => rfl) fun _ _ h => h

theorem performPend_performs (s : State) (k : Nat) (p : Pend) : Performs k s (performPend s k p) := by
  have hmem := (performLanes_only (k / 64) p.kind p.lanes s).performs k
  have hbeam := fun good => hmem.trans (onBeam_performs _ k
    (fun b => { b with pend := b.pend.map fun x => if x.id = p.id then { x with kind := .result, lanes := good } else x })
    (fun _ => rfl) fun _ _ h => h)
  unfold performPend
  split
  · exact .refl k s
  · dsimp only
    split
    · exact hbeam _
    · exact (hbeam _).trans (queueTrap_performs _ k _)

theorem performStore_performs (s : State) (k : Nat) (x : Store) : Performs k s (performStore s k x) := by
  have hmem := (performPieces_only (k / 64) x x.pieces (s, [])).performs k
  have hbeam := hmem.trans (onBeam_performs _ k (fun b => { b with stores := b.stores.filter fun y => y.id != x.id }) (fun _ => rfl)
    fun _ _ h => (List.mem_filter.1 h).1)
  unfold performStore
  split
  · exact .refl k s
  · dsimp only
    split
    · exact hbeam
    · exact hbeam.trans (queueTrap_performs _ k _)

theorem performWhere_performs (s : State) (k : Nat) (f : Pend → Bool) : Performs k s (performWhere s k f) := by
  unfold performWhere
  split
  · exact .refl k s
  · exact .foldl _ (fun s p => performPend_performs s k p) _ s

theorem drainWhere_performs (s : State) (k : Nat) (f : Store → Bool) : Performs k s (drainWhere s k f) := by
  unfold drainWhere
  split
  · exact .refl k s
  · exact .foldl _ (fun s x => performStore_performs s k x) _ s

theorem beforeAccess_performs (s : State) (k : Nat) (sp : List Span) : Performs k s (beforeAccess s k sp) :=
  (drainWhere_performs s k _).trans (performWhere_performs _ k _)

theorem performAll_performs (s : State) (k : Nat) : Performs k s (performAll s k) :=
  (performWhere_performs s k _).trans (drainWhere_performs _ k _)

theorem releaseAt_performs (s : State) (k : Nat) (sc : Scope) : Performs k s (releaseAt s k sc) :=
  (performAll_performs s k).trans ((releaseCaches_only _ _ sc).performs k)

theorem acquireAt_performs (s : State) (k : Nat) (sc : Scope) : Performs k s (acquireAt s k sc) :=
  (performWhere_performs s k _).trans ((acquireCaches_only _ _ sc).performs k)

theorem windowFence_performs (s : State) (k : Nat) (ls : List GLane) : Performs k s (windowFence s k ls) := by
  unfold windowFence
  split
  · exact (releaseAt_performs s k _).trans (acquireAt_performs _ k _)
  · exact .refl k s

theorem Performs.clk {k : Nat} {s t : State} (h : Performs k s t) : t.clk = s.clk := h.only.field (·.clk) fun _ _ _ _ _ _ _ _ => rfl
theorem Performs.agenda {k : Nat} {s t : State} (h : Performs k s t) : t.agenda = s.agenda :=
  h.only.field (·.agenda) fun _ _ _ _ _ _ _ _ => rfl

/-- Nothing goes before an access whose bytes none of the beam's accesses touches (R86). -/
theorem beforeAccess_untouched {s : State} {k : Nat} {b : Beam} {sp : List Span} (hb : beamOf s k = some b) (h : Untouched b sp) :
    beforeAccess s k sp = s := by
  have hstores : (b.stores.filter fun y => (storeSpans y).any fun a => sp.any (overlap a)) = [] := by
    rw [List.filter_eq_nil_iff]
    intro y hy
    simp only [List.any_eq_true, not_exists, not_and, Bool.not_eq_true]
    exact fun a ha c hc => (h c hc).2 y hy a ha
  have hpend : (b.pend.filter fun p => (pendSpans p).any fun a => sp.any (overlap a)) = [] := by
    rw [List.filter_eq_nil_iff]
    intro p hp
    simp only [List.any_eq_true, not_exists, not_and, Bool.not_eq_true]
    exact fun a ha c hc => (h c hc).1 p hp a ha
  simp only [beforeAccess, drainWhere, performWhere, hb, hstores, hpend, List.foldl_nil]

theorem mapLanes_nil (f : Nat → Lane → Lane) : ∀ (k : Nat) (l : List Lane), mapLanes [] f k l = l
  | _, [] => rfl
  | k, a :: l => congrArg (a :: ·) (mapLanes_nil f (k + 1) l)

theorem beamLanes_nil (b : Beam) (f : Nat → Lane → Lane) : beamLanes b [] f = b := by
  rw [beamLanes, mapLanes_nil]

theorem begun_nil_lanes (x : Sel) (c : Beam) {word epc : Word} {d n : Nat} {kind : PendKind} :
    (begun x c word epc d n kind []).lanes = c.lanes := mapLanes_nil _ 0 c.lanes

/-! ## The start of an access (R150, R162) -/

section Start

variable {x : Sel} {s : State} {c : Beam} (hc : beamOf s x.key = some c) (word epc : Word) (d n : Nat) (kind : PendKind)
  (ls : List PendLane)
include hc

/-- An access that is not performed as it starts. -/
theorem startAccess_later : startAccess x s word epc d n kind ls false =
    postFree (setBeam s x.key (begun x c word epc d n kind ls)) 0 (.producerComplete (x.key / 64) (x.key % 64) c.nextId) := by
  simp only [startAccess, hc, onBeam_some hc, Option.map_some, Option.getD_some]
  rfl

theorem startAccess_sameOutside : SameOutside s (startAccess x s word epc d n kind ls false) x.key := by
  rw [startAccess_later hc]
  exact SameOutside.trans (setBeam_sameOutside s x.key _) (postFree_sameOutside _ _ _ _)

/-- One that is performed as it starts. -/
theorem startAccess_now : startAccess x s word epc d n kind ls true =
    postFree (performPend (setBeam s x.key (begun x c word epc d n kind ls)) x.key (entered x c.nextId word epc d n kind ls)) 0
      (.producerComplete (x.key / 64) (x.key % 64) c.nextId) := by
  simp only [startAccess, hc, onBeam_some hc, Option.map_some, Option.getD_some]
  rfl

/-- Performed as it starts or not, an access leaves the lanes as one that has begun, no store is new, and PRODUCER_COMPLETE is to come. -/
theorem startAccess_beam (now : Bool) : ∃ e, beamOf (startAccess x s word epc d n kind ls now) x.key = some e ∧
    e.lanes = (begun x c word epc d n kind ls).lanes ∧ (∀ y ∈ e.stores, y ∈ c.stores) ∧
    (now = false → entered x c.nextId word epc d n kind ls ∈ e.pend) ∧
    ∃ t, ⟨t, .producerComplete (x.key / 64) (x.key % 64) c.nextId⟩ ∈ (startAccess x s word epc d n kind ls now).agenda ∧ s.clk < t := by
  cases now with
  | false =>
    rw [startAccess_later hc]
    exact ⟨_, beamOf_setBeam_same s x.key _, rfl, fun _ h => h, fun _ => List.mem_append_right _ (List.mem_singleton_self _),
      mem_agenda_postFree _ _ _⟩
  | true =>
    have hp := performPend_performs (setBeam s x.key (begun x c word epc d n kind ls)) x.key (entered x c.nextId word epc d n kind ls)
    obtain ⟨e, he, heb, hes⟩ := hp.beam _ (beamOf_setBeam_same s x.key _)
    obtain ⟨t, hmem, hlt⟩ := mem_agenda_postFree _ 0 (.producerComplete (x.key / 64) (x.key % 64) c.nextId)
    rw [startAccess_now hc]
    exact ⟨e, he, by rw [heb], hes, fun h => absurd h (by decide), t, hmem, by rw [hp.clk] at hlt; exact hlt⟩

end Start

/-- An access that starts once others have been performed. -/
theorem startAccess_after {s u : State} {x : Sel} {b : Beam} (hp : Performs x.key s u) (hb : beamOf s x.key = some b)
    (word epc : Word) (d n : Nat) (kind : PendKind) (ls : List PendLane) (now : Bool) :
    ∃ e, beamOf (startAccess x u word epc d n kind ls now) x.key = some e ∧ e.lanes = (begun x b word epc d n kind ls).lanes ∧
      (∀ y ∈ e.stores, ∃ c, beamOf u x.key = some c ∧ y ∈ c.stores) ∧
      (now = false → entered x b.nextId word epc d n kind ls ∈ e.pend) ∧
      ∃ t, ⟨t, .producerComplete (x.key / 64) (x.key % 64) b.nextId⟩ ∈ (startAccess x u word epc d n kind ls now).agenda ∧ s.clk < t := by
  obtain ⟨c, hc, hcb, -⟩ := hp.beam b hb
  obtain ⟨e, he, hlanes, hstores, hpend, ht⟩ := startAccess_beam hc word epc d n kind ls now
  have hid : c.nextId = b.nextId := by rw [hcb]
  have hcl : c.lanes = b.lanes := by rw [hcb]
  rw [hid] at hpend ht
  rw [hp.clk] at ht
  exact ⟨e, he, hlanes.trans (congrArg (mapLanes _ _ 0) hcl), fun y hy => ⟨c, hc, hstores y hy⟩, hpend, ht⟩

/-! ## Finishing the issue of an access -/

/-- An effect that leaves the beam's lanes as an access that has begun ends with the run's advance. -/
theorem exec_of_begun {s u : State} {x : Sel} {i : Instr} {e : Effect} {c : Beam} {word epc : Word} {d n : Nat} {kind : PendKind}
    {ls : List PendLane} (ht : Turn s x) (hi : exec i s = issue 4 e s) (he : e x s = .done u []) (hc : beamOf u x.key = some c)
    (hlanes : c.lanes = (begun x x.beam word epc d n kind ls).lanes) (hls : ∀ l ∈ ls, l.lane ∈ x.run) :
    ∃ t b, exec i s = .next t ∧ beamOf t x.key = some b ∧ Advanced x b ∧ Emptied x b (ls.map fun l => l.lane) d n ∧
      b.pend = c.pend ∧ b.stores = c.stores ∧ t.agenda = u.agenda ∧ SameOutside u t x.key := by
  have hrun : ∀ j ∈ x.run, j < x.beam.lanes.length := fun j hj => run_lt ht.1 hj
  have hrunnable : lanesIn c .runnable ≠ [] := by
    rw [lanesIn, hlanes]
    exact begun_runnable (selected_runnable ht.1)
  obtain ⟨hb, hout, hag⟩ := finish_done 4 hc hrunnable
  have hlane : ∀ j, laneOf (finished s x 4 (begun x x.beam word epc d n kind ls)) j = laneOf (finished u x 4 c) j := by
    intro j
    rw [laneOf, laneOf, show (finished u x 4 c).lanes = _ from congrArg (mapLanes x.run (fun _ l => nextPc 4 l) 0) hlanes]
    rfl
  refine ⟨_, _, by rw [hi, issue_selected ht.1, he], hb, fun j => ?_, fun j hj _ r h1 h2 => ?_, rfl, rfl, hag, hout⟩
  · rw [← hlane]
    exact advanced_finished_begun hrun hls j
  · obtain ⟨l, hl, rfl⟩ := List.mem_map.1 hj
    rw [← hlane]
    exact emptied_finished_begun hrun hls hl h1 h2

/-! ## Local loads (R138, R157, R160) -/

theorem LocalLoadForm.exec {x : Sel} {i : Instr} {f : MemForm} (h : LocalLoadForm x i f) :
    ∃ g, f.lanes = execLanes x g ∧ ∀ s, exec i s = issue 4 (effLdl i g f.n f.off f.a f.d) s := by
  cases h with
  | ldl32 g => exact ⟨g, rfl, fun _ => rfl⟩
  | ldlSized => exact ⟨.always, rfl, fun _ => rfl⟩

theorem firstSome_none {α β : Type} {f : α → Option β} : ∀ {l : List α}, (∀ a ∈ l, f a = none) → firstSome f l = none
  | [], _ => rfl
  | a :: l, h => by
    rw [firstSome, h a List.mem_cons_self]
    exact firstSome_none fun b hb => h b (List.mem_cons_of_mem a hb)

/-- A lane of a local load that has resolved to a place. -/
def placedLane (f : MemForm) (x : Sel) (pl : Nat → Nat) (j : Nat) : LLane := ⟨j, f.la x j, pl j, 0⟩

/-- A local load whose every lane is aligned, resolves and meets no lock acts on the places. -/
theorem accessLocal_placed {s : State} {x : Sel} {f : MemForm} {bl : Block} {ga : Gang} {gr : Grid} {pl : Nat → Nat}
    (hh : homeOf s x.beam = some (bl, ga, gr))
    (hl : ∀ j ∈ f.lanes, (f.la x j).toNat % f.n = 0 ∧ localPlace s bl ga gr (f.la x j).toNat f.n = some (pl j) ∧
      lockHit s (pl j / 4194304) true (pl j) f.n false = none) (act : State → List LLane → State) :
    accessLocal x s f.n false (accessLanes x f.lanes (localEa f.a f.off) fun _ => 0) act =
      .done (act s (f.lanes.map (placedLane f x pl))) [] := by
  have hea : ∀ j, (localEa f.a f.off (laneOf x.beam j)).toNat = (f.la x j).toNat := by
    intro j
    rw [localEa, MemForm.la, BitVec.toNat_setWidth_of_le (by decide)]
  have haligned : (accessLanes x f.lanes (localEa f.a f.off) fun _ => 0).find? (fun a => a.ea.toNat % f.n != 0) = none := by
    rw [List.find?_eq_none]
    intro a ha
    obtain ⟨j, hj, rfl⟩ := List.mem_map.1 ha
    simp only [hea, (hl j hj).1, bne_self_eq_false, Bool.false_eq_true, not_false_eq_true]
  have hplaces : ((accessLanes x f.lanes (localEa f.a f.off) fun _ => 0).map fun a => (a, localPlace s bl ga gr a.ea.toNat f.n)) =
      f.lanes.map fun j => (⟨j, localEa f.a f.off (laneOf x.beam j), 0⟩, some (pl j)) := by
    rw [accessLanes, List.map_map]
    exact List.map_congr_left fun j hj => by simp only [Function.comp_apply, hea, (hl j hj).2.1]
  have hresolved : (f.lanes.map fun j => ((⟨j, localEa f.a f.off (laneOf x.beam j), 0⟩ : ALane), some (pl j))).find?
      (fun p => p.2.isNone) = none := by
    rw [List.find?_eq_none]
    intro p hp
    obtain ⟨j, -, rfl⟩ := List.mem_map.1 hp
    exact Bool.false_ne_true
  have hlanes : (f.lanes.map fun j => ((⟨j, localEa f.a f.off (laneOf x.beam j), 0⟩ : ALane), some (pl j))).map
      (fun p => (⟨p.1.lane, p.1.ea.setWidth 32, p.2.getD 0, p.1.data⟩ : LLane)) = f.lanes.map (placedLane f x pl) := by
    rw [List.map_map]
    refine List.map_congr_left fun j _ => ?_
    simp only [Function.comp_apply, placedLane, localEa, MemForm.la, Option.getD_some, BitVec.setWidth_setWidth_of_le _ (show 32 ≤ 64 by decide),
      BitVec.setWidth_eq]
  have hlock : firstSome (fun l : LLane => (lockHit s (l.target / 4194304) true l.target f.n false).map fun k => (l, k))
      (f.lanes.map (placedLane f x pl)) = none := by
    refine firstSome_none fun l hl' => ?_
    obtain ⟨j, hj, rfl⟩ := List.mem_map.1 hl'
    simp only [placedLane, (hl j hj).2.2, Option.map_none]
  simp only [accessLocal, haligned, hh, hplaces, hresolved, hlanes, hlock]

/-- A lane of an unfinished local load. -/
def placedPend (f : MemForm) (x : Sel) (pl : Nat → Nat) (j : Nat) : PendLane := ⟨j, (f.la x j).setWidth 64, pl j, 0, 0, 0⟩

/-- The bytes of the lanes of a local load. -/
def placedSpans (f : MemForm) (pl : Nat → Nat) : List Span := f.lanes.map fun j => ⟨true, pl j, f.n⟩

/-- Such a load first performs what touches its bytes, then enters the beam's list. -/
theorem effLdl_placed {s : State} {x : Sel} {i : Instr} {g : Guard} {f : MemForm} {bl : Block} {ga : Gang} {gr : Grid} {pl : Nat → Nat}
    (hlanes : f.lanes = execLanes x g) (hr : ready x f.lanes [srcUse f.a 1] [regUse f.d (regsOf f.n)] = true)
    (hh : homeOf s x.beam = some (bl, ga, gr))
    (hl : ∀ j ∈ f.lanes, (f.la x j).toNat % f.n = 0 ∧ localPlace s bl ga gr (f.la x j).toNat f.n = some (pl j) ∧
      lockHit s (pl j / 4194304) true (pl j) f.n false = none) :
    effLdl i g f.n f.off f.a f.d x s = .done (if f.lanes = [] then s else startAccess x (beforeAccess s x.key (placedSpans f pl))
      (wordOfInstr i) (selPc x) f.d (regsOf f.n) (.loadLocal f.n) (f.lanes.map (placedPend f x pl)) false) [] := by
  simp only [effLdl, ← hlanes]
  rw [gated_ready hr, ldlLanes, accessLocal_placed hh hl]
  simp only [List.isEmpty_iff, List.map_eq_nil_iff, List.map_map]
  rfl

/-! ## Global accesses whose every lane translates (R143, R157) -/

theorem eq_map_ok_of_length : ∀ {r : List LaneXl}, (okLanes r).length = r.length → r = (okLanes r).map .ok
  | [], _ => rfl
  | a :: r, h => by
    have hle : (okLanes r).length ≤ r.length := List.length_filterMap_le _ r
    cases a with
    | ok g =>
      have hr : (okLanes r).length = r.length := by simpa [okLanes] using h
      show LaneXl.ok g :: r = LaneXl.ok g :: (okLanes r).map .ok
      rw [← eq_map_ok_of_length hr]
    | fault | bad | shut | walk =>
      have : (okLanes r).length = r.length + 1 := h
      omega

/-- What stands behind the translations of `MemForm.hits`: every executing lane is aligned, and none but hits. -/
theorem hits_spec {f : MemForm} {s : State} {x : Sel} {sup write : Bool} {m : Nat} {ls : List GLane}
    (h : f.hits s x sup write m = some ls) : (∀ j ∈ f.lanes, (f.ea x j).toNat % f.n = 0) ∧
      f.lanes.map (fun j => laneXlate s x.key x.beam sup write ⟨j, f.ea x j, f.data m x j⟩) = ls.map .ok := by
  unfold MemForm.hits at h
  dsimp only at h
  split at h
  · rename_i hcond
    obtain ⟨hal, hlen⟩ := Bool.and_eq_true_iff.1 hcond
    cases h
    refine ⟨fun j hj => beq_iff_eq.1 (List.all_eq_true.1 hal j hj), eq_map_ok_of_length ?_⟩
    rw [beq_iff_eq.1 hlen, List.length_map]
  · cases h

/-- A lane's translation keeps its number. -/
theorem lane_of_laneXlate {s : State} {k : Nat} {b : Beam} {sup write : Bool} {a : ALane} {g : GLane}
    (h : laneXlate s k b sup write a = .ok g) : g.lane = a.lane := by
  unfold laneXlate at h
  split at h
  · cases h; rfl
  all_goals cases h

theorem lanes_of_hits {s : State} {k : Nat} {b : Beam} {sup write : Bool} {a : Nat → ALane} (ha : ∀ j, (a j).lane = j) :
    ∀ {js : List Nat} {ls : List GLane}, js.map (fun j => laneXlate s k b sup write (a j)) = ls.map .ok → ls.map (fun g => g.lane) = js
  | [], [], _ => rfl
  | [], _ :: _, h => by cases h
  | _ :: _, [], h => by cases h
  | j :: js, g :: ls, h => by
    obtain ⟨hj, hjs⟩ := List.cons.inj h
    show g.lane :: ls.map (fun g => g.lane) = j :: js
    rw [lane_of_laneXlate hj, ha, lanes_of_hits ha hjs]

theorem walkLanes_map_ok (ls : List GLane) : walkLanes (ls.map .ok) = [] := by induction ls <;> simp_all [walkLanes]
theorem badLanes_map_ok (ls : List GLane) (kind : Nat) : badLanes (ls.map .ok) kind = [] := by induction ls <;> simp_all [badLanes]
theorem poorLanes_map_ok (ls : List GLane) : poorLanes (ls.map .ok) = [] := by induction ls <;> simp_all [poorLanes]
theorem okLanes_map_ok (ls : List GLane) : okLanes (ls.map .ok) = ls := by induction ls <;> simp_all [okLanes]
theorem contains_shut_map_ok (ls : List GLane) : (ls.map LaneXl.ok).contains .shut = false := by induction ls <;> simp_all

/-- Parking no lane stores the beam as it stands. -/
theorem parkLanes_nil {s : State} {k : Nat} {b : Beam} (hb : beamOf s k = some b) : parkLanes s k [] = setBeam s k b := by
  rw [parkLanes, onLanes, onBeam_some hb]
  exact congrArg (setBeam s k) (beamLanes_nil b _)

/-- A global access whose every lane is aligned, translates, passes its checks and can travel comes to its effect. -/
theorem accessGlobal_hits {s u : State} {x : Sel} {op : GOp} {sup : Bool} {lanes : List ALane} {ls : List GLane}
    {act : State → List GLane → Option State} (hb : beamOf s x.key = some x.beam)
    (hal : ∀ a ∈ lanes, a.ea.toNat % op.align = 0) (hok : lanes.map (laneXlate s x.key x.beam sup op.write) = ls.map .ok)
    (hcheck : ∀ g ∈ ls, op.check (setBeam s x.key x.beam) g.x g.ea = none)
    (hlock : ∀ g ∈ ls, lockHit s (selCore x) false (op.span g.ea.toNat).1 (op.span g.ea.toNat).2 op.write = none)
    (hreach : lanesReach s (selCore x) op ls = true) (hsync : syncReady s x.key op ls = true)
    (hact : act (setBeam s x.key x.beam) ls = some u) : accessGlobal x s op sup lanes act = .done u [] := by
  have haligned : lanes.find? (fun a => a.ea.toNat % op.align != 0) = none := by
    rw [List.find?_eq_none]
    intro a ha
    rw [hal a ha, bne_self_eq_false]
    exact Bool.false_ne_true
  have hchecks : firstSome (fun g => (op.check (setBeam s x.key x.beam) g.x g.ea).map fun c => (g.lane, c)) ls = none :=
    firstSome_none fun g hg => by rw [hcheck g hg]; rfl
  have hlocks : firstSome (fun g => if op.locked g.x then (lockHit (setBeam s x.key x.beam) (selCore x) false (op.span g.ea.toNat).1
      (op.span g.ea.toNat).2 op.write).map fun l => (g, l) else none) ls = none :=
    firstSome_none fun g hg => by
      rw [show lockHit (setBeam s x.key x.beam) = lockHit s from rfl, hlock g hg]
      exact ite_self _
  have hreach' : lanesReach (setBeam s x.key x.beam) (selCore x) op ls = true := hreach
  have hsync' : syncReady (setBeam s x.key x.beam) x.key op ls = true := ((Alike.setBeam_same hb).syncReady x.key op ls).trans hsync
  simp only [accessGlobal, haligned, hok, walkLanes_map_ok, contains_shut_map_ok, badLanes_map_ok, okLanes_map_ok, parkLanes_nil hb,
    poorLanes_map_ok, hchecks, hlocks, hreach', hsync', hact, List.isEmpty_nil, List.map_nil, Bool.not_true, Bool.or_self,
    Bool.false_eq_true, if_false]

/-! ## Loads (R157, R160, R162) -/

theorem LoadForm.exec {x : Sel} {i : Instr} {f : MemForm} {const : Bool} (h : LoadForm x i f const) :
    ∃ g, f.lanes = execLanes x g ∧ ∀ s, exec i s = issue 4 (effLoad i g f.n f.off f.q const f.a f.d) s := by
  cases h with
  | ld32 g | ld64 g | ld128 g => exact ⟨g, rfl, fun _ => rfl⟩
  | ld8 | ld16 | ldc32 | ldc64 | ldOrdered => exact ⟨.always, rfl, fun _ => rfl⟩

theorem AtomForm.exec {x : Sel} {i : Instr} {f : MemForm} {op : Option AtomOp} {m : Nat} (h : AtomForm x i f op m) :
    f.lanes = x.run ∧ f.off = 0 ∧ 0 < m ∧ ∃ e : Effect, (∀ s, exec i s = issue 4 e s) ∧ ∀ s, e x s =
      gated x s x.run [srcUse f.a 2, regUse f.d m] [regUse f.d (f.n / 4)]
        (atomLanes x s (selSup x) (wordOfInstr i) (selPc x) f.d (f.n / 4) f.n op f.q (accessLanes x x.run (eaOf f.a 0) (dataOf f.d m))) := by
  cases h <;> exact ⟨rfl, rfl, by decide, _, fun _ => rfl, fun _ => rfl⟩

/-- An order that neither acquires nor is .sc stamps nothing. -/
theorem stampIf_of_not_acquires {q : QF} (h : acquires q.order = false) (s : State) (core : Nat) (atom : Bool) (ts : List Nat) :
    stampIf s core q atom ts = s := by
  cases ho : q.order <;> simp_all [stampIf, acquires]

/-- A stamp changes no beam and posts nothing. -/
theorem stampIf_keeps (s : State) (core : Nat) (q : QF) (atom : Bool) (ts : List Nat) :
    (stampIf s core q atom ts).beams = s.beams ∧ (stampIf s core q atom ts).agenda = s.agenda := by
  cases ho : q.order <;> simp [stampIf, scStamp, ho, setCore]

/-- The stamp of an .sc access, and the invalidation of one that acquires. -/
def stamped (s : State) (core : Nat) (q : QF) (atom : Bool) (ts : List Nat) : State :=
  if acquires q.order then acquireCaches (stampIf s core q atom ts) core q.scope else stampIf s core q atom ts

/-- They change no beam and post nothing. -/
theorem stamped_keeps (s : State) (core : Nat) (q : QF) (atom : Bool) (ts : List Nat) :
    (∀ k, beamOf (stamped s core q atom ts) k = beamOf s k) ∧ (stamped s core q atom ts).agenda = s.agenda := by
  obtain ⟨hb, ha⟩ := stampIf_keeps s core q atom ts
  have hm := acquireCaches_only (stampIf s core q atom ts) core q.scope
  unfold stamped
  split
  · exact ⟨fun k => by rw [beamOf, hm.beams, hb]; rfl, hm.agenda.trans ha⟩
  · exact ⟨fun k => by rw [beamOf, hb]; rfl, ha⟩

theorem stamped_of_not_acquires {q : QF} (h : acquires q.order = false) (s : State) (core : Nat) (atom : Bool) (ts : List Nat) :
    stamped s core q atom ts = s := by
  simp only [stamped, h, Bool.false_eq_true, if_false, stampIf_of_not_acquires h]

/-- The issue of an access that starts in a state where what has to go before it has been performed. -/
theorem exec_of_started {s u : State} {x : Sel} {i : Instr} {e : Effect} {word epc : Word} {d n : Nat} {kind : PendKind}
    {ls : List PendLane} {now : Bool} {core : Nat} {q : QF} {atom : Bool} {ts : List Nat} (ht : Turn s x)
    (hi : exec i s = issue 4 e s) (hp : Performs x.key (setBeam s x.key x.beam) u)
    (he : e x s = .done (stamped (startAccess x u word epc d n kind ls now) core q atom ts) []) (hls : ∀ l ∈ ls, l.lane ∈ x.run) :
    ∃ t b, exec i s = .next t ∧ beamOf t x.key = some b ∧ Advanced x b ∧ Emptied x b (ls.map fun l => l.lane) d n ∧
      (∃ c, ⟨c, .producerComplete (x.key / 64) (x.key % 64) x.beam.nextId⟩ ∈ t.agenda ∧ s.clk < c) ∧
      (now = false → entered x x.beam.nextId word epc d n kind ls ∈ b.pend) ∧
      (∀ y ∈ b.stores, ∃ c, beamOf u x.key = some c ∧ y ∈ c.stores) ∧
      SameOutside (stamped (startAccess x u word epc d n kind ls now) core q atom ts) t x.key := by
  obtain ⟨c, hc, hlanes, hstores, hpend, w, hw, hlt⟩ :=
    startAccess_after hp (beamOf_setBeam_same s x.key x.beam) word epc d n kind ls now
  obtain ⟨hsb, hsa⟩ := stamped_keeps (startAccess x u word epc d n kind ls now) core q atom ts
  obtain ⟨t, b, hexec, hb, hadv, hemp, hbp, hbs, hag, hout⟩ := exec_of_begun ht hi he ((hsb x.key).trans hc) hlanes hls
  exact ⟨t, b, hexec, hb, hadv, hemp, ⟨w, by rw [hag, hsa]; exact hw, hlt⟩, fun h => hbp ▸ hpend h, hbs ▸ hstores, hout⟩

/-- A load that has passed its checks and can be performed where it has to be. -/
theorem loadAct_open {x : Sel} {s : State} {word epc : Word} {d n : Nat} {q : QF} {const : Bool} {ls : List GLane} (hne : ls ≠ [])
    (h : (acquires q.order || anyAperture ls) = true → accessOpen (beforeAccess (windowFence s x.key ls) x.key (spansOf ls n)) (selCore x)
      (.load n q.scope const) (ls.map fun g => targetOf g.x) = true) : loadAct x word epc d n q const s ls =
      some (stamped (startAccess x (beforeAccess (windowFence s x.key ls) x.key (spansOf ls n)) word epc d (regsOf n)
        (.load n q.scope const) (ls.map pendLane) (acquires q.order || anyAperture ls)) (selCore x) q false (ls.map fun g => targetOf g.x)) := by
  have hnot : ((acquires q.order || anyAperture ls) && !accessOpen (beforeAccess (windowFence s x.key ls) x.key (spansOf ls n)) (selCore x)
      (.load n q.scope const) (ls.map fun g => targetOf g.x)) = false := by
    cases hnow : acquires q.order || anyAperture ls
    · rfl
    · rw [h hnow]; rfl
  have hempty : ls.isEmpty = false := List.isEmpty_eq_false_iff.2 hne
  simp only [loadAct, hempty, hnot, Bool.false_eq_true, if_false]
  rfl

/-- A load whose lanes translate, pass their checks and can travel: its effect, in terms of what it acts. -/
theorem effLoad_hits {s u : State} {x : Sel} {i : Instr} {g : Guard} {f : MemForm} {const : Bool} {ls : List GLane}
    (hlanes : f.lanes = execLanes x g) (hr : ready x f.lanes [srcUse f.a 2] [regUse f.d (regsOf f.n)] = true)
    (hb : beamOf s x.key = some x.beam) (hhits : f.hits s x (selSup x) false 0 = some ls)
    (hcheck : ∀ g ∈ ls, loadCheck (selCore x) f.n const (selSup x) s g.x g.ea = none) (hlock : noLock s x f.n false ls = true)
    (hgo : Reaches s x f.q f.n false false ls)
    (hact : loadAct x (wordOfInstr i) (selPc x) f.d f.n f.q const (setBeam s x.key x.beam) ls = some u) :
    effLoad i g f.n f.off f.q const f.a f.d x s = .done u [] := by
  obtain ⟨hal, hok⟩ := hits_spec hhits
  obtain ⟨hreach, hsync⟩ := hgo
  simp only [effLoad, ← hlanes]
  rw [gated_ready hr, loadLanes]
  refine accessGlobal_hits hb ?_ ?_ hcheck ?_ (List.all_eq_true.2 hreach) ?_ hact
  · intro a ha
    obtain ⟨j, hj, rfl⟩ := List.mem_map.1 ha
    exact hal j hj
  · rw [accessLanes, List.map_map]
    exact hok
  · exact fun g hg => Option.isNone_iff_eq_none.1 (List.all_eq_true.1 hlock g hg)
  · simp only [syncReady, Bool.and_eq_true] at hsync ⊢
    exact ⟨⟨hsync.1.1, rfl⟩, hsync.2⟩

/-! ## Atomics (R157, R164, R166) -/

/-- The state in which an ATOM or ACAS starts: its release, then what touches its bytes (R86, R162). -/
def beforeAtom (s : State) (k n : Nat) (q : QF) (ls : List GLane) : State :=
  beforeAccess (if releases q.order then releaseAt s k q.scope else s) k (spansOf ls n)

theorem beforeAtom_performs (s : State) (k n : Nat) (q : QF) (ls : List GLane) : Performs k s (beforeAtom s k n q ls) := by
  unfold beforeAtom
  split
  · exact (releaseAt_performs s k _).trans (beforeAccess_performs _ k _)
  · exact beforeAccess_performs s k _

theorem Alike.beforeAtom {s t : State} (h : Alike s t) (k n : Nat) (q : QF) (ls : List GLane) :
    Alike (Machine.beforeAtom s k n q ls) (Machine.beforeAtom t k n q ls) :=
  (Alike.ite _ (fun _ => h.releaseAt k q.scope) fun _ => h).beforeAccess k _

/-- One that has passed its checks and can be performed where it has to be. -/
theorem atomAct_open {x : Sel} {s : State} {word epc : Word} {d dn n : Nat} {op : Option AtomOp} {q : QF} {ls : List GLane} (hne : ls ≠ [])
    (h : q.order ≠ .relaxed → accessOpen (beforeAtom s x.key n q ls) (selCore x) (.atomic n op q) (ls.map fun g => targetOf g.x) = true) :
    atomAct x word epc d dn n op q s ls = some (stamped (startAccess x (beforeAtom s x.key n q ls) word epc d dn (.atomic n op q)
      (ls.map pendLane) (q.order != .relaxed)) (selCore x) q true (ls.map fun g => targetOf g.x)) := by
  have hnot : (q.order != .relaxed && !accessOpen (beforeAtom s x.key n q ls) (selCore x) (.atomic n op q)
      (ls.map fun g => targetOf g.x)) = false := by
    by_cases ho : q.order = .relaxed
    · rw [ho]; rfl
    · rw [h ho, Bool.not_true, Bool.and_false]
  have hempty : ls.isEmpty = false := List.isEmpty_eq_false_iff.2 hne
  unfold beforeAtom at hnot
  simp only [atomAct, hempty, hnot, Bool.false_eq_true, if_false]
  rfl

/-- ATOM or ACAS whose lanes translate, pass their checks and can travel: its effect, in terms of what it acts. -/
theorem atomLanes_hits {s u : State} {x : Sel} {word epc : Word} {f : MemForm} {op : Option AtomOp} {m dn : Nat} {ls : List GLane}
    (hlanes : f.lanes = x.run) (hoff : f.off = 0) (hm : 0 < m) (hb : beamOf s x.key = some x.beam)
    (hhits : f.hits s x (selSup x) true m = some ls)
    (hcheck : ∀ g ∈ ls, atomCheck (selCore x) (selSup x) op s g.x g.ea = none) (hlock : noLock s x f.n true ls = true)
    (hgo : Reaches s x f.q f.n true true ls)
    (hact : atomAct x word epc f.d dn f.n op f.q (setBeam s x.key x.beam) ls = some u) :
    atomLanes x s (selSup x) word epc f.d dn f.n op f.q (accessLanes x x.run (eaOf f.a 0) (dataOf f.d m)) = .done u [] := by
  obtain ⟨hal, hok⟩ := hits_spec hhits
  obtain ⟨hreach, hsync⟩ := hgo
  have hea : ∀ j, f.ea x j = eaOf f.a 0 (laneOf x.beam j) := fun j => by rw [MemForm.ea, hoff]; rfl
  have hdata : ∀ j, f.data m x j = dataOf f.d m (laneOf x.beam j) := fun j => by
    cases m with
    | zero => exact absurd hm (Nat.lt_irrefl 0)
    | succ m => rfl
  rw [atomLanes]
  refine accessGlobal_hits hb ?_ ?_ hcheck ?_ (List.all_eq_true.2 hreach) hsync hact
  · intro a ha
    obtain ⟨j, hj, rfl⟩ := List.mem_map.1 ha
    rw [← hea]
    exact hal j (hlanes ▸ hj)
  · rw [accessLanes, List.map_map, ← hok, hlanes]
    exact List.map_congr_left fun j _ => by simp only [Function.comp_apply, hea, hdata]
  · exact fun g hg => Option.isNone_iff_eq_none.1 (List.all_eq_true.1 hlock g hg)

/-- Once a release can go, the beam's buffer is empty (R162). -/
theorem releaseAt_stores {s : State} {k : Nat} {sc : Scope} {b : Beam} (h : syncShut (performAll s k) k sc = false)
    (hb : beamOf (releaseAt s k sc) k = some b) : b.stores = [] := by
  have hb' : beamOf (performAll s k) k = some b := by rw [← hb, beamOf, beamOf, releaseAt, (releaseCaches_only _ _ sc).beams]
  rw [syncShut, Bool.or_eq_false_iff, owes, hb'] at h
  simpa using (Bool.or_eq_false_iff.1 h.1).1

end Sys2Proof.Machine

namespace Sys2Proof.Certificates

open Sys2Proof Sys2Proof.Machine

/-- Settles O41: past its checks the load first performs what touches its bytes, then enters the beam's list. -/
theorem localLoadsIssue : Obligations.LocalLoadsIssue := by
  unfold Obligations.LocalLoadsIssue
  intro s x i f bl ga gr pl hf ht hh hr hl
  obtain ⟨g, hlanes, hi⟩ := hf.exec
  have he := effLdl_placed (i := i) hlanes hr hh hl
  have hnames : (f.lanes.map (placedPend f x pl)).map (fun l => l.lane) = f.lanes := by
    rw [List.map_map]; exact List.map_id f.lanes
  have hls : ∀ l ∈ f.lanes.map (placedPend f x pl), l.lane ∈ x.run := by
    intro l hl
    obtain ⟨j, hj, rfl⟩ := List.mem_map.1 hl
    exact execLanes_run x g j (hlanes ▸ hj)
  by_cases hnil : f.lanes = []
  · rw [if_pos hnil] at he
    have hbegun : x.beam.lanes = (begun x x.beam (wordOfInstr i) (selPc x) f.d (regsOf f.n) (.loadLocal f.n)
        (f.lanes.map (placedPend f x pl))).lanes := by rw [hnil]; exact (begun_nil_lanes _ _).symm
    obtain ⟨t, b, hexec, hb, hadv, hemp, -, -, -, hout⟩ := exec_of_begun ht (hi s) he ht.2 hbegun hls
    exact ⟨t, b, hexec, hb, hadv, hnames ▸ hemp, fun _ => hout, fun h => absurd hnil h⟩
  · rw [if_neg hnil] at he
    obtain ⟨e, heb, hlns, -, hpend, -⟩ := startAccess_after (beforeAccess_performs s x.key (placedSpans f pl)) ht.2 (wordOfInstr i)
      (selPc x) f.d (regsOf f.n) (.loadLocal f.n) (f.lanes.map (placedPend f x pl)) false
    obtain ⟨t, b, hexec, hb, hadv, hemp, hbp, -, -, hout⟩ := exec_of_begun ht (hi s) he heb hlns hls
    refine ⟨t, b, hexec, hb, hadv, hnames ▸ hemp, fun hun => ?_, fun _ => hbp ▸ hpend rfl⟩
    rw [show beforeAccess s x.key (placedSpans f pl) = s from beforeAccess_untouched ht.2 hun] at hout
    exact SameOutside.trans (startAccess_sameOutside ht.2 _ _ _ _ _ _) hout

/-- Settles O35: the load comes past its checks as the beams stand, and starts once what has to go before it has been performed. -/
theorem loadsIssue : Obligations.LoadsIssue := by
  unfold Obligations.LoadsIssue
  intro s x i f const ls hf ht hr hhits hcheck hlock hgo
  obtain ⟨hreach, hopen⟩ := hgo
  obtain ⟨g, hlanes, hi⟩ := hf.exec
  have halike := Alike.setBeam_same ht.2
  have hnames : (ls.map pendLane).map (fun l => l.lane) = f.lanes := by
    rw [List.map_map]
    exact lanes_of_hits (fun _ => rfl) (hits_spec hhits).2
  have hls : ∀ l ∈ ls.map pendLane, l.lane ∈ x.run := fun l hl =>
    execLanes_run x g _ (hlanes ▸ hnames ▸ List.mem_map.2 ⟨l, hl, rfl⟩)
  by_cases hne : ls = []
  · have he := effLoad_hits (i := i) (u := setBeam s x.key x.beam) hlanes hr ht.2 hhits hcheck hlock hreach (by rw [hne]; rfl)
    have hbegun : x.beam.lanes = (begun x x.beam (wordOfInstr i) (selPc x) f.d (regsOf f.n) (.load f.n f.q.scope const)
        (ls.map pendLane)).lanes := by rw [hne]; exact (begun_nil_lanes x _).symm
    obtain ⟨t, b, hexec, hb, hadv, hemp, -, -, -, hout⟩ := exec_of_begun ht (hi s) he (beamOf_setBeam_same _ _ _) hbegun hls
    exact ⟨t, b, hexec, hb, hadv, hnames ▸ hemp, fun h => absurd hne h, fun _ _ _ =>
      SameOutside.trans (setBeam_sameOutside s x.key x.beam) hout⟩
  have hact := loadAct_open (x := x) (s := setBeam s x.key x.beam) (word := wordOfInstr i) (epc := selPc x) (d := f.d) (n := f.n) (q := f.q)
    (const := const) hne fun hnow => by
      rw [((halike.windowFence x.key ls).beforeAccess x.key _).read (fun s => accessOpen s _ _ _) fun _ _ => rfl]
      refine hopen ?_
      simpa [anyAperture] using hnow
  have he := effLoad_hits (i := i) hlanes hr ht.2 hhits hcheck hlock hreach hact
  obtain ⟨t, b, hexec, hb, hadv, hemp, hc, hpend, -, hout⟩ := exec_of_started ht (hi s)
    ((windowFence_performs _ x.key ls).trans (beforeAccess_performs _ x.key (spansOf ls f.n))) he hls
  have hlater : acquires f.q.order = false → (∀ g ∈ ls, g.x.apc ≠ 3) → (acquires f.q.order || anyAperture ls) = false := by
    intro hacq hapc
    rw [hacq, Bool.false_or, anyAperture, List.any_eq_false]
    exact fun g hg h => hapc g hg (beq_iff_eq.1 h)
  refine ⟨t, b, hexec, hb, hadv, hnames ▸ hemp, fun _ => ⟨hc, fun hacq hapc => hpend (hlater hacq hapc)⟩, fun hacq hun hapc => ?_⟩
  have hwin : windowFence (setBeam s x.key x.beam) x.key ls = setBeam s x.key x.beam := by
    refine if_neg ?_
    rw [Bool.not_eq_true, List.any_eq_false]
    exact fun g hg h => hapc g hg (beq_iff_eq.1 (Bool.and_eq_true_iff.1 h).1)
  rw [hlater hacq hapc, stamped_of_not_acquires hacq, hwin, beforeAccess_untouched (beamOf_setBeam_same _ _ _) hun] at hout
  exact SameOutside.trans (setBeam_sameOutside s x.key x.beam)
    (SameOutside.trans (startAccess_sameOutside (beamOf_setBeam_same _ _ _) _ _ _ _ _ _) hout)

/-- Settles O36: a release first leaves the buffer empty, and no later step of the issue fills it. -/
theorem atomicsIssue : Obligations.AtomicsIssue := by
  unfold Obligations.AtomicsIssue
  intro s x i f op m ls hf ht hr hhits hne hcheck hlock hgo hopen
  obtain ⟨hlanes, hoff, hm, e, hi, he⟩ := hf.exec
  have halike := Alike.setBeam_same ht.2
  have hnames : (ls.map pendLane).map (fun l => l.lane) = x.run := by
    rw [List.map_map, ← hlanes]
    exact lanes_of_hits (fun _ => rfl) (hits_spec hhits).2
  have hls : ∀ l ∈ ls.map pendLane, l.lane ∈ x.run := fun l hl => hnames ▸ List.mem_map.2 ⟨l, hl, rfl⟩
  have hact := atomAct_open (x := x) (s := setBeam s x.key x.beam) (word := wordOfInstr i) (epc := selPc x) (d := f.d) (dn := f.n / 4)
    (n := f.n) (op := op) (q := f.q) hne fun ho => by
      rw [(halike.beforeAtom x.key f.n f.q ls).read (fun s => accessOpen s _ _ _) fun _ _ => rfl]
      exact hopen ho
  have heff := ((he s).trans (gated_ready hr _)).trans (atomLanes_hits hlanes hoff hm ht.2 hhits hcheck hlock hgo hact)
  obtain ⟨t, b, hexec, hb, hadv, hemp, hc, hpend, hstores, -⟩ := exec_of_started ht (hi s) (beforeAtom_performs _ x.key f.n f.q ls) heff hls
  refine ⟨t, b, hexec, hb, hadv, hnames ▸ hemp, hc, fun ho => hpend (by rw [ho]; rfl), fun hrel => ?_⟩
  have hshut : syncShut (performAll (setBeam s x.key x.beam) x.key) x.key f.q.scope = false := by
    have hsync := hgo.2
    rw [← halike.syncReady, syncReady, Bool.and_eq_true, Bool.and_eq_true, Bool.and_eq_true] at hsync
    have hrelaxed : (f.q.order == .relaxed) = false := by cases ho : f.q.order <;> simp_all [releases]
    simpa [loadOp, hrelaxed] using hsync.1.1.1
  refine List.eq_nil_iff_forall_not_mem.2 fun y hy => ?_
  obtain ⟨c, hcb, hyc⟩ := hstores y hy
  rw [beforeAtom, if_pos hrel] at hcb
  obtain ⟨c', hc', -, -⟩ := (releaseAt_performs _ x.key f.q.scope).beam _ (beamOf_setBeam_same s x.key x.beam)
  obtain ⟨c'', hc'', -, hsub⟩ := (beforeAccess_performs _ x.key (spansOf ls f.n)).beam c' hc'
  rw [hcb] at hc''
  cases hc''
  rw [releaseAt_stores hshut hc'] at hsub
  exact List.not_mem_nil (hsub y hyc)

end Sys2Proof.Certificates
end

section
/-!
PROOF of O55. Taking a trap: the entry of a beam with nothing unfinished, traps that are precise and traps behind an instruction, and the
double trap.
-/
namespace Sys2Proof.Machine

open Sys2Proof

set_option Elab.async false

/-! ## Maps whose keys rise -/

theorem lt_of_risingFrom {α : Type} {k : Nat} {v : α} : ∀ {m : NMap α} {lo : Nat}, risingFrom (some lo) m = true →
    look m k = some v → lo < k
  | [], _, _, h => by cases h
  | (a, x) :: m, lo, hr, h => by
    obtain ⟨hlo, hm⟩ := Bool.and_eq_true_iff.1 hr
    have hlo : lo < a := of_decide_eq_true hlo
    rw [look_cons] at h
    split at h
    · omega
    · exact lt_trans hlo (lt_of_risingFrom hm h)

/-- Writing what stands there changes nothing. -/
theorem put_of_look {α : Type} {k : Nat} {v : α} : ∀ {m : NMap α} {lo : Option Nat}, risingFrom lo m = true → look m k = some v →
    put m k v = m
  | [], _, _, h => by cases h
  | (a, x) :: m, lo, hr, h => by
    have hm : risingFrom (some a) m = true := by
      cases lo with
      | none => exact hr
      | some lo => exact (Bool.and_eq_true_iff.1 hr).2
    rw [look_cons] at h
    by_cases hk : a = k
    · rw [if_pos hk] at h
      cases h
      rw [put, if_neg (by omega), if_pos hk.symm, hk]
    · rw [if_neg hk] at h
      have hlt : a < k := lt_of_risingFrom hm h
      rw [put, if_neg (by omega), if_neg (by omega), put_of_look hm h]

theorem setBeam_of_beamOf {s : State} {k : Nat} {b : Beam} (hs : rising s.beams = true) (hb : beamOf s k = some b) :
    setBeam s k b = s := by
  rw [setBeam, put_of_look (lo := none) hs hb]

theorem look_map_of_mem {α : Type} (f : Nat → α) {j : Nat} : ∀ {l : List Nat}, j ∈ l → look (l.map fun i => (i, f i)) j = some (f j)
  | i :: l, h => by
    rw [List.map_cons, look_cons]
    by_cases hi : i = j
    · rw [if_pos hi, hi]
    · rw [if_neg hi]
      exact look_map_of_mem f ((List.mem_cons.1 h).resolve_left fun h => hi h.symm)

/-! ## Entering a handler (R287) -/

/-- A beam with nothing unfinished is settled as it stands (R292). -/
theorem settle_done {s : State} {k : Nat} {b : Beam} (hs : rising s.beams = true) (hb : beamOf s k = some b)
    (hd : b.pend = [] ∧ b.stores = []) : settle s k = (s, []) := by
  obtain ⟨hp, hst⟩ := hd
  have hsame : onBeam s k (fun b => { b with pend := [] }) = s := by
    rw [onBeam_some hb, show ({ b with pend := [] } : Beam) = b by rw [← hp]]
    exact setBeam_of_beamOf hs hb
  simp only [settle, settling, hb, withdrawn, hp, hst, drainWhere, List.filter_nil, List.foldl_nil, hsame]

theorem doubles_eq_false {b : Beam} (h : b.psw.getLsbD 1 = false) (t : Trap) : doubles b t = false := by
  rw [doubles, h, Bool.false_and, Bool.false_and, Bool.or_false]

/-- Where a trap can be taken, the beam runs its handler and the frame is written back. -/
theorem takeTrap_of_ready {s u : State} {k : Nat} {tr : Trap} {b : Beam} {v : List Byte} (h : TrapReady s k tr b v u) :
    takeTrap s k tr = setBeam (releaseCaches u (k / 256) .dev) k
      (enterHandler b u.clk (frameBase k b v) b.flvl (BitVec.ofNat 32 (leAt v (64 + 4 * tr.code) 4))) := by
  obtain ⟨bl, g, gr, hhome, hframe⟩ := h.frame
  obtain ⟨hodd, hsize⟩ := h.handler
  have hlegal : (vecBad v || leAt v (64 + 4 * tr.code) 4 % 2 == 1 || decide (vecSvSize v < leAt v (64 + 4 * tr.code) 4 + 4)) = false := by
    rw [h.table.2, hodd, decide_eq_false (by omega)]
    rfl
  have hwrite : supWrite (k / 64) b.told 128 s (frameBase k b v + 16384 * b.flvl) (frameBytes s k b bl gr tr []) = some u := hframe
  simp only [takeTrap, h.beam, doubles_eq_false h.open_, settle_done h.inv.2 h.beam h.done, hhome, h.table.1, hlegal, hwrite,
    Bool.false_eq_true, if_false]

theorem laneOf_enterHandler (b : Beam) (clk fa lvl : Nat) (h : Word) {j : Nat} (hj : j < b.lanes.length) :
    laneOf (enterHandler b clk fa lvl h) j =
      { laneOf b j with state := .runnable, min := false, mstep := 0, pc := h, jidx := 0 } := by
  simp only [laneOf, enterHandler, List.getD_eq_getElem?_getD, List.getElem?_map, List.getElem?_eq_getElem hj, Option.map_some,
    Option.getD_some]

theorem entered_of_ready {s u : State} {k : Nat} {tr : Trap} {b : Beam} {v : List Byte} (h : TrapReady s k tr b v u) :
    Entered s (takeTrap s k tr) k tr b v u := by
  obtain ⟨bl, g, gr, -, hframe⟩ := h.frame
  rw [takeTrap_of_ready h]
  refine ⟨⟨_, beamOf_setBeam_same _ _ _, rfl, rfl, rfl, rfl, fun h0 => ?_, List.length_map _, fun j hj => ?_⟩, rfl, fun j hj => ?_⟩
  · show BitVec.ofNat 64 (frameBase k b v) = _
    rw [frameBase, if_pos h0]
  · rw [laneOf_enterHandler b _ _ _ _ hj]
    exact ⟨rfl, rfl, rfl, rfl, rfl, rfl⟩
  · rw [beamOf_setBeam_other _ _ _ _ hj, beamOf, (releaseCaches_only u _ _).beams, (supWrite_only _ _ _ _ _ _ _ hframe).beams]
    rfl

/-- That the beam is tried again later is not seen in what the entry leaves. -/
theorem Entered.tried {s t u : State} {k : Nat} {tr : Trap} {b : Beam} {v : List Byte} (h : Entered s t k tr b v u) :
    Entered s (Machine.tried t k) k tr b v u := by
  obtain ⟨⟨c, hc, hrest⟩, hmem, hother⟩ := h
  have ht : Machine.tried t k = setBeam t k { c with tried := t.clk + 1 } := by rw [Machine.tried, onBeam_some hc]
  rw [ht]
  exact ⟨⟨_, beamOf_setBeam_same _ _ _, hrest⟩, hmem, fun j hj => (beamOf_setBeam_other _ _ _ _ hj).trans (hother j hj)⟩

/-! ## Which trap goes first (R294) -/

/-- With no trap waiting, the one that is raised is dealt with now. -/
theorem firstTrap_alone {s : State} {k : Nat} {b : Beam} (hb : beamOf (completeDue s k) k = some b) (hw : b.waiting = []) (t : Trap)
    (now later : State → State) : firstTrap s k t now later = now (completeDue s k) := by
  simp only [firstTrap, hb, hw, List.head?_nil, ite_self, Option.bind_some]

/-- One that waits and goes before it is raised instead. -/
theorem firstTrap_other {s : State} {k : Nat} {b : Beam} {c : Nat} {y : Trap} {rest : List (Nat × Trap)}
    (hb : beamOf (completeDue s k) k = some b) (hm : takesTraps (completeDue s k) b = true) (hw : b.waiting = (c, y) :: rest) {t : Trap}
    (hf : trapFirst c y (completeDue s k).clk t = true) (now later : State → State) : firstTrap s k t now later =
      raiseTrap (later (onBeam (completeDue s k) k fun b => { b with waiting := b.waiting.drop 1 })) k y := by
  simp only [firstTrap, hb, hw, hm, hf, List.head?_cons, if_true, Option.bind_some]

/-- A trap behind its instruction that can be entered, none waiting, is entered. -/
theorem afterTrap_entered {s u : State} {k : Nat} {tr : Trap} {b : Beam} {v : List Byte} (hr : TrapReady (completeDue s k) k tr b v u)
    (hw : b.waiting = []) (ho : trapOpen (completeDue s k) k tr = true) (hc : tr.code ≠ 0x0D) :
    Entered (completeDue s k) (afterTrap s k tr) k tr b v u := by
  have hstand : standing (completeDue s k) k tr = tr := by simp only [standing, hr.beam, hc, if_false]
  rw [afterTrap, firstTrap_alone hr.beam hw, raiseTrap, if_pos ho, hstand]
  exact entered_of_ready hr

/-! ## Issues that end with a trap, or with the advance alone -/

theorem exec_after {s : State} {x : Sel} {i : Instr} {e : Effect} {tr : Trap} (ht : Turn s x) (hi : exec i s = issue 4 e s)
    (he : e x s = .after s tr) : exec i s = .next (afterTrap (retire (advance s x [] (nextPc 4)) x.key) x.key tr) := by
  rw [hi, issue_selected ht.1, he]
  rfl

theorem exec_trap {s : State} {x : Sel} {i : Instr} {e : Effect} {tr : Trap} (ht : Turn s x) (hi : exec i s = issue 4 e s)
    (he : e x s = .trap s tr) : exec i s = .next (trapped s x tr) := by
  rw [hi, issue_selected ht.1, he]
  rfl

theorem exec_done {s : State} {x : Sel} {i : Instr} {e : Effect} (ht : Turn s x) (hi : exec i s = issue 4 e s)
    (he : e x s = .done s []) : ∃ t b, exec i s = .next t ∧ beamOf t x.key = some b ∧ Advanced x b ∧ SameOutside s t x.key := by
  obtain ⟨t, b, hexec, hb, hadv, -, -, -, -, hout⟩ := exec_of_begun (word := 0) (epc := 0) (d := 0) (n := 0) (kind := .result) (ls := []) ht
    hi he ht.2 (begun_nil_lanes x x.beam).symm (fun _ h => absurd h List.not_mem_nil)
  exact ⟨t, b, hexec, hb, hadv, hout⟩

/-- A privileged instruction in user state traps (R36). -/
theorem exec_user {s : State} {x : Sel} {i : Instr} {e : Effect} (ht : Turn s x) (hi : exec i s = issuePriv e s) (hu : selSup x = false) :
    exec i s = .next (trapped s x (trapOf x 0x02)) :=
  exec_trap ht (e := fun x s => if selSup x then e x s else .trap s (trapOf x 0x02)) hi (by simp only [hu, Bool.false_eq_true, if_false])

/-- The trap of an encoding that cannot issue (R36, R144). -/
def fetchTrap (x : Sel) : FetchError → Trap
  | .outside | .reservedOpcode | .reservedSubOp | .badField => trapOf x 0x01
  | .translation cause level va => { trapOf x (causeCode cause) with
      frec := some (BitVec.ofNat 128 (2 ^ 64 * va.toNat + 2 ^ 12 * cause + 2 ^ 10 * level + 4)) }
  | .uncorrectable pa => { trapOf x 0x0C with lanes := maskOf x.run, addr := BitVec.ofNat 64 pa }
  | .refused va => { trapOf x 0x08 with lane := leastD 0 x.run, addr := va }

theorem exec_illegalInstruction {s : State} {x : Sel} (ht : Turn s x) (e : FetchError) :
    exec (.illegalInstruction e) s = .next (trapped s x (fetchTrap x e)) := by
  show execIllegalInstruction e s = _
  rw [execIllegalInstruction, issue_selected ht.1]
  cases e <;> rfl

theorem fetchTrap_place (x : Sel) (e : FetchError) : (fetchTrap x e).run = maskOf x.run ∧ (fetchTrap x e).pc = selPc x := by
  cases e <;> exact ⟨rfl, rfl⟩

/-! ## Double traps (R288) -/

theorem csrKey_dtrap (part : Nat) {n : Nat} (h : 0x310 ≤ n ∧ n ≤ 0x313) : csrKey part n = part * 262144 + n := by
  have howner : csrOwner n = some .partition := if_pos (by omega)
  rw [csrKey, howner]

/-- DTRAP keeps its record while V stands. -/
theorem doubleRecord_of_valid {s : State} {k : Nat} (h : bit (csrN s (partOfCore s (k / 64)) 0x310) 31 = true) (code addr pc lvl : Nat) :
    doubleRecord s k code addr pc lvl = s := by
  rw [doubleRecord, if_pos h]

/-- The registers of DTRAP take the record of a double trap while V does not stand, and the partition's vector is signalled. -/
theorem doubleRecord_fields {s : State} {k : Nat} (h : bit (csrN s (partOfCore s (k / 64)) 0x310) 31 = false) (code addr pc lvl : Nat) :
    csrGet (doubleRecord s k code addr pc lvl) (partOfCore s (k / 64)) 0x311 = BitVec.ofNat 32 pc ∧
      csrGet (doubleRecord s k code addr pc lvl) (partOfCore s (k / 64)) 0x312 = BitVec.ofNat 32 addr ∧
      Sent.msix (partOfCore s (k / 64)) ∈ (doubleRecord s k code addr pc lvl).sent ∧
      csrGet (doubleRecord s k code addr pc lvl) (partOfCore s (k / 64)) 0x310 =
        BitVec.ofNat 32 (2 ^ 31 + k % 64 * 2 ^ 16 + k / 64 * 2 ^ 10 + lvl * 2 ^ 8 + code) := by
  have hkey := fun {n m : Nat} (hn : 0x310 ≤ n ∧ n ≤ 0x313) (hm : 0x310 ≤ m ∧ m ≤ 0x313) (hne : n ≠ m) =>
    show csrKey (partOfCore s (k / 64)) n ≠ csrKey (partOfCore s (k / 64)) m by rw [csrKey_dtrap _ hn, csrKey_dtrap _ hm]; omega
  have hgot : ∀ (t : State) (l : List Sent) (p n : Nat), csrGet { t with sent := l } p n = csrGet t p n := fun _ _ _ _ => rfl
  rw [doubleRecord, if_neg (by rw [h]; decide)]
  refine ⟨?_, ?_, List.mem_append_right _ (List.mem_singleton_self _), ?_⟩
  · rw [hgot, csrGet_csrPut, if_neg (hkey (by omega) (by omega) (by omega)), csrGet_csrPut, if_neg (hkey (by omega) (by omega) (by omega)),
      csrGet_csrPut_same]
  · rw [hgot, csrGet_csrPut, if_neg (hkey (by omega) (by omega) (by omega)), csrGet_csrPut_same]
  · rw [hgot, csrGet_csrPut, if_neg (hkey (by omega) (by omega) (by omega)), csrGet_csrPut, if_neg (hkey (by omega) (by omega) (by omega)),
      csrGet_csrPut, if_neg (hkey (by omega) (by omega) (by omega)), csrGet_csrPut_same]

/-- A record changes control registers and what is sent alone. -/
theorem doubleRecord_only (s : State) (k code addr pc lvl : Nat) : doubleRecord s k code addr pc lvl =
    { s with csr := (doubleRecord s k code addr pc lvl).csr, sent := (doubleRecord s k code addr pc lvl).sent } := by
  by_cases h : bit (csrN s (partOfCore s (k / 64)) 0x310) 31 = true
  · rw [doubleRecord_of_valid h]
  · simp only [doubleRecord, h, Bool.false_eq_true, if_false, csrPut]

theorem mem_agenda_post (s : State) (i : Instr) : ⟨s.clk, i⟩ ∈ (post s 0 i).agenda :=
  List.mem_append_right _ (List.mem_singleton_self _)

/-- A double trap records what it can, stops the beam and ends its grid. -/
theorem doubleTrap_of_home {s : State} {k : Nat} {b : Beam} {g : Block × Gang × Grid} (hb : beamOf s k = some b) (hh : homeOf s b = some g)
    (code addr pc lvl : Nat) : doubleTrap s k code addr pc lvl =
      post (setBeam (doubleRecord s k code addr pc lvl) k { b with stopped := true }) 0 (.abort g.2.1.grid) := by
  have hhome : homeOf (doubleRecord s k code addr pc lvl) b = some g := by rw [doubleRecord_only]; exact hh
  have hbeam : beamOf (doubleRecord s k code addr pc lvl) k = some b := by rw [doubleRecord_only]; exact hb
  simp only [doubleTrap, hb, Option.bind_some, hhome, onBeam_some hbeam]

theorem takeTrap_doubles {s : State} {k : Nat} {tr : Trap} {b : Beam} (hb : beamOf s k = some b) (hm : b.psw.getLsbD 1 = true)
    (hc : tr.code ≠ 0x18) : takeTrap s k tr = doubleTrap s k tr.code (failingAddr b tr) (beamPc b tr) b.flvl := by
  have hd : doubles b tr = true := by rw [doubles, hm, Bool.true_and, bne_iff_ne.2 hc, Bool.true_or]
  simp only [takeTrap, hb, hd, if_true]

end Sys2Proof.Machine

namespace Sys2Proof.Certificates

open Sys2Proof Sys2Proof.Machine

/-- Settles O55: each clause by the lemma on what is raised, which trap goes first, and what taking it does. -/
theorem trapEntry : Obligations.TrapEntry := by
  unfold Obligations.TrapEntry
  refine ⟨fun s k tr b v u h => entered_of_ready h, fun s x ht => ?_, fun s k tr b g hb hm hc hh => ?_⟩
  · refine ⟨fun tr b hb => ⟨fun v u hr hw ho => ?_, fun hw ho => ?_, fun c y rest hm hw hf => ?_⟩, fun g i7 a d hr => ⟨fun hex => ?_,
      fun hex => ?_⟩, fun g i7 => ⟨fun hex => ?_, fun hex => ?_⟩, fun e => ?_, fun hu i hi => ?_⟩
    · rw [trapped, preciseTrap, firstTrap_alone hb hw, if_pos ho]
      exact (entered_of_ready hr).tried
    · rw [trapped, preciseTrap, firstTrap_alone hb hw, ho, if_neg Bool.false_ne_true]
      rfl
    · rw [trapped, preciseTrap, firstTrap_other hb hm hw hf, onBeam_some hb, onBeam_some hb, hw]
      rfl
    · refine exec_done ht (e := effSysc g i7 a d) rfl ?_
      rw [hex] at hr
      simp only [effSysc, hex, gated_ready hr, List.isEmpty_nil, if_true]
    · have he : effSysc g i7 a d x s = .after s { trapOf x 0x0F with
          lanes := maskOf (execLanes x g), callm := maskOf (execLanes x g), imm := i7, reg := d
          args := (execLanes x g).map fun i => (i, lanePair (laneOf x.beam i) a.r) } := by
        simp only [effSysc, gated_ready hr, List.isEmpty_eq_false_iff.2 hex, Bool.false_eq_true, if_false]
      exact ⟨_, _, exec_after ht rfl he, rfl, rfl, rfl, rfl, fun j hj => look_map_of_mem _ hj,
        fun b v u hready hw ho => afterTrap_entered hready hw ho (show (0x0F : Nat) ≠ 0x0D by decide)⟩
    · refine exec_done ht (e := effBkpt g i7) rfl ?_
      simp only [effBkpt, hex, List.isEmpty_nil, if_true]
    · have he : effBkpt g i7 x s = .after s { trapOf x 0x0E with lanes := maskOf (execLanes x g), imm := i7 } := by
        simp only [effBkpt, List.isEmpty_eq_false_iff.2 hex, Bool.false_eq_true, if_false]
      exact ⟨_, _, exec_after ht rfl he, rfl, rfl, rfl,
        fun b v u hready hw ho => afterTrap_entered hready hw ho (show (0x0E : Nat) ≠ 0x0D by decide)⟩
    · obtain ⟨hrun, hpc⟩ := fetchTrap_place x e
      refine ⟨_, _, exec_illegalInstruction ht e, rfl, hrun, hpc, fun h => ?_, fun c l va h => ?_, fun pa h => ?_, fun va h => ?_⟩
      · obtain rfl | rfl | rfl | rfl := h <;> rfl
      · subst h; rfl
      · subst h; exact ⟨rfl, rfl, rfl⟩
      · subst h; exact ⟨rfl, rfl⟩
    · obtain rfl | rfl | ⟨d, n, rfl | rfl⟩ | ⟨a, rfl⟩ | ⟨a, m, rfl⟩ := hi <;> exact exec_user ht rfl hu
  · rw [takeTrap_doubles hb hm hc, doubleTrap_of_home hb hh]
    have hclk : (setBeam (doubleRecord s k tr.code (failingAddr b tr) (beamPc b tr) b.flvl) k { b with stopped := true }).clk = s.clk := by
      rw [setBeam_clk, doubleRecord_only]
    refine ⟨hclk ▸ mem_agenda_post _ _, ?_, ⟨_, beamOf_setBeam_same _ _ _, rfl, rfl⟩, fun hv => ?_, fun hv => ?_⟩
    · show (doubleRecord s k tr.code _ _ _).mem = s.mem
      rw [doubleRecord_only]
    · show (doubleRecord s k tr.code _ _ _).csr = s.csr
      rw [doubleRecord_of_valid hv]
    · exact doubleRecord_fields hv _ _ _ _

end Sys2Proof.Certificates
end

section
/-!
PROOF of O10, O13, O14, O17 and O19. The numeric lane instructions: each row of the tables of moves, integers, logic, floats, directed
modes and identities issues its effect, and an integer row writes its destination registers alone.
-/
namespace Sys2Proof.Machine

open Sys2Proof

set_option Elab.async false

/-! ## Integer rows as effects (R109, R110, R112-R115, R117-R119) -/

/-- An integer instruction of the stream issues the effect that a body gives it. -/
theorem ArithOp.exec_bodyEffect {x : Sel} {i : Instr} {o : LaneOp} {e : Effect} (h : ArithOp x i o)
    (he : Machine.bodyEffect i = some e) (s : State) : exec i s = issue o.len e s := by
  cases h <;> (cases he; rfl)

theorem ArithOp.issuesAs {s : State} {x : Sel} {i : Instr} {o : LaneOp} (h : ArithOp x i o) : IssuesAs s x i o := by
  obtain ⟨e, he, hact⟩ := h.bodyEffect
  exact ⟨⟨e, h.exec_bodyEffect he s, hact s⟩, h.lanes_run, h.act_state⟩

theorem MoveOp.issuesAs {s : State} {x : Sel} {i : Instr} {o : LaneOp} (h : MoveOp x i o) : IssuesAs s x i o := by
  cases h <;> exact ⟨⟨_, rfl, rfl⟩, execLanes_run x _, fun _ _ => rfl⟩

/-- ROTL's count, b[7:0] modulo 32, is b modulo 32 (R113). -/
theorem rotlWord_eq (a b : Word) : rotlWord a b = a.rotateLeft (b.toNat % 32) := by
  rw [rotlWord, shiftCount, Nat.mod_mod_of_dvd _ (by decide)]

/-- A value is negated by IABS where it is negative (R114). -/
theorem absWord_eq (a : Word) : absWord a = if a.slt 0 then -a else a := by
  rw [absWord, ← BitVec.slt_zero_eq_msb]; rfl

theorem absPair_eq (a : DWord) : absPair a = if a.slt 0 then -a else a := by
  rw [absPair, ← BitVec.slt_zero_eq_msb]; rfl

theorem LogicOp.issuesAs {s : State} {x : Sel} {i : Instr} {o : LaneOp} (h : LogicOp x i o) : IssuesAs s x i o := by
  cases h with
  | rotl => exact ⟨⟨_, rfl, by simp only [effRotl, rotlWord_eq]; rfl⟩, execLanes_run x _, fun _ _ => rfl⟩
  | iabsI32 => exact ⟨⟨_, rfl, by simp only [effIabsI32, absWord_eq]; rfl⟩, execLanes_run x _, fun _ _ => rfl⟩
  | iabsI64 => exact ⟨⟨_, rfl, by simp only [effIabsI64, absPair_eq]; rfl⟩, execLanes_run x _, fun _ _ => rfl⟩
  | _ => exact ⟨⟨_, rfl, rfl⟩, execLanes_run x _, fun _ _ => rfl⟩

/-! ## Directed modes and conversions (R50, R120, R126) -/

/-- A lane keeps its state whether or not its SRCTR advances. -/
theorem ite_srNext_state (p : Prop) [Decidable p] (l : Lane) : (if p then srNext l else l).state = l.state := by
  split <;> rfl

/-- Under every mode a directed form writes its result; under SR it draws its word from SRCTR as it stands and advances it. -/
theorem floatDirected_eq (rm : RMode) (srcs : List Use) (d : Nat) (f : Nat → Lane → FRes) (x : Sel) (s : State) :
    floatDirected rm srcs d f x s = laneEffect .always srcs [regUse d 1] (fun i l =>
      let r := laneFloat l d (f (if rm = .sr then srWord s x.beam i l else 0) l)
      if rm = .sr then srNext r else r) x s := by
  cases rm <;> simp only [floatDirected, reduceCtorEq, if_false, if_true]

theorem DirectedOp.issuesAs {s : State} {x : Sel} {i : Instr} {o : LaneOp} (h : DirectedOp s x i o) : IssuesAs s x i o := by
  cases h with
  | cvt => exact ⟨⟨_, rfl, rfl⟩, execLanes_run x _, fun _ _ => ite_srNext_state _ _⟩
  | faddDirected | fsubDirected | fmulDirected | ffmaDirected =>
    exact ⟨⟨_, rfl, floatDirected_eq ..⟩, execLanes_run x _, fun _ _ => ite_srNext_state _ _⟩

/-! ## Random words and identity (R105, R106, R136) -/

theorem laneSetN_one (l : Lane) (r : Nat) (v : DWord) : laneSetN l r (v.setWidth 128) 1 = laneSet l r (v.setWidth 32) := by
  have hv : ((v.setWidth 128 >>> (32 * 0)).setWidth 32 : Word) = v.setWidth 32 := by
    rw [Nat.mul_zero, BitVec.ushiftRight_zero, BitVec.setWidth_setWidth_of_le v (by decide)]
  simp only [laneSetN, hv, Nat.add_zero]

theorem laneSetN_two (l : Lane) (r : Nat) (v : DWord) : laneSetN l r (v.setWidth 128) 2 = laneSetPair l r v := by
  have hhigh : ((v.setWidth 128 >>> (32 * 1)).setWidth 32 : Word) = (v >>> 32).setWidth 32 := by
    apply BitVec.eq_of_toNat_eq
    simp only [BitVec.toNat_setWidth, BitVec.toNat_ushiftRight, Nat.mod_eq_of_lt (Nat.lt_trans v.isLt (by decide : 2 ^ 64 < 2 ^ 128))]
  rw [show laneSetN l r (v.setWidth 128) 2 = laneSet (laneSetN l r (v.setWidth 128) 1) (r + 1) _ from rfl, laneSetN_one, hhigh]
  rfl

/-- A special register goes into a pair or into one register (R105). -/
theorem laneSetN_special (w : Bool) (l : Lane) (r : Nat) (v : DWord) :
    laneSetN l r (v.setWidth 128) (if w then 2 else 1) = if w then laneSetPair l r v else laneSet l r (v.setWidth 32) := by
  cases w
  · exact laneSetN_one l r v
  · exact laneSetN_two l r v

/-- RDSP acts at once, but on FSTAT while flags are to come (R54). -/
theorem effRdsp_acts {g : Guard} {sp : SpReg} {d : Nat} {x : Sel} (h : sp ≠ .fstat ∨ flagsPending x (execLanes x g) = false)
    (s : State) : effRdsp g sp d x s = laneEffect g [] [regUse d (if sp.isPair then 2 else 1)] (fun i l =>
      if sp.isPair then laneSetPair l d (specialReg x s sp i l) else laneSet l d ((specialReg x s sp i l).setWidth 32)) x s := by
  have hgo : ¬ (sp = .fstat ∧ flagsPending x (execLanes x g) = true) := fun ⟨hsp, hf⟩ =>
    h.elim (fun hne => hne hsp) fun hnf => Bool.false_ne_true (hnf.symm.trans hf)
  simp only [effRdsp, if_neg hgo, laneSetN_special]

theorem NamedOp.issuesAs {s : State} {x : Sel} {i : Instr} {o : LaneOp} (h : NamedOp s x i o) : IssuesAs s x i o := by
  cases h with
  | rand | widf => exact ⟨⟨_, rfl, rfl⟩, execLanes_run x _, fun _ _ => rfl⟩
  | rdsp g sp d h =>
    exact ⟨⟨_, rfl, effRdsp_acts h s⟩, execLanes_run x _, fun _ _ => by dsimp only; split <;> rfl⟩

/-! ## What an integer row leaves unchanged in a lane (R38, R107) -/

theorem SameButRegs.of_nil {a b : Lane} (h : SameButRegs a b []) (ds : List Use) : SameButRegs a b ds :=
  ⟨fun r _ => h.1 r fun _ hu => absurd hu List.not_mem_nil, h.2⟩

theorem sameButRegs_laneSet (l : Lane) (d : Nat) (v : Word) : SameButRegs l (laneSet l d v) [regUse d 1] := by
  refine ⟨fun r hr => laneReg_laneSet_other l v ?_, rfl, rfl, rfl, rfl, rfl, rfl, rfl, rfl⟩
  have hout : r < d ∨ d + 1 ≤ r := hr _ (List.mem_singleton_self _)
  omega

theorem sameButRegs_laneSetPair (l : Lane) (d : Nat) (v : DWord) : SameButRegs l (laneSetPair l d v) [regUse d 2] := by
  refine ⟨fun r hr => ?_, rfl, rfl, rfl, rfl, rfl, rfl, rfl, rfl⟩
  have hout : r < d ∨ d + 2 ≤ r := hr _ (List.mem_singleton_self _)
  rw [laneSetPair, laneReg_laneSet_other _ _ (by omega), laneReg_laneSet_other _ _ (by omega)]

/-- The row writes its destination registers in each executing lane and nothing else. -/
def WritesRegs (o : LaneOp) : Prop := ∀ j l, SameButRegs l (o.act j l) o.dsts ∧ (o.act j l).preds = l.preds

theorem writesRegs_of_laneSet {o : LaneOp} {d : Nat} {f : Nat → Lane → Word} (hd : o.dsts = [regUse d 1])
    (ha : ∀ j l, o.act j l = laneSet l d (f j l)) : WritesRegs o := fun j l => by
  rw [ha, hd]; exact ⟨sameButRegs_laneSet l d _, rfl⟩

theorem writesRegs_of_laneSetPair {o : LaneOp} {d : Nat} {f : Nat → Lane → DWord} (hd : o.dsts = [regUse d 2])
    (ha : ∀ j l, o.act j l = laneSetPair l d (f j l)) : WritesRegs o := fun j l => by
  rw [ha, hd]; exact ⟨sameButRegs_laneSetPair l d _, rfl⟩

theorem MoveOp.writesRegs {x : Sel} {i : Instr} {o : LaneOp} (h : MoveOp x i o) : WritesRegs o := by
  cases h with
  | movB64 => exact writesRegs_of_laneSetPair rfl fun _ _ => rfl
  | movB32 | movi | movhi | sel => exact writesRegs_of_laneSet rfl fun _ _ => rfl

theorem ArithOp.writesRegs {x : Sel} {i : Instr} {o : LaneOp} (h : ArithOp x i o) : WritesRegs o := by
  cases h with
  | iaddI64 | isubI64 | imulI64 | lea | iminI64 | imaxI64 | iminZ64 | imaxZ64 => exact writesRegs_of_laneSetPair rfl fun _ _ => rfl
  | iadd | isub | imul | iaddi | imad | imulh | iminI32 | imaxI32 | iminZ32 | imaxZ32 => exact writesRegs_of_laneSet rfl fun _ _ => rfl

theorem LogicOp.writesRegs {x : Sel} {i : Instr} {o : LaneOp} (h : LogicOp x i o) : WritesRegs o := by
  cases h with
  | inegI64 | iabsI64 | andB64 | orB64 | xorB64 | shlB64 | shrB64 | sraB64 => exact writesRegs_of_laneSetPair rfl fun _ _ => rfl
  | _ => exact writesRegs_of_laneSet rfl fun _ _ => rfl

/-- A lane after a row that writes registers: as it was but for them, and moved on. -/
theorem WritesRegs.lane {o : LaneOp} (h : WritesRegs o) (j : Nat) (l : Lane) :
    SameButRegs l (o.lane j l) o.dsts ∧ (o.lane j l).preds = l.preds := by
  unfold LaneOp.lane
  split
  · exact h j l
  · exact ⟨SameButRegs.of_nil (SameButRegs.refl l) o.dsts, rfl⟩

end Sys2Proof.Machine

namespace Sys2Proof.Certificates

open Sys2Proof Sys2Proof.Machine

/-- Settles O10: each row issues the effect of its table, the high products and the orders as their equations give them. -/
theorem integerArithmetic : Obligations.IntegerArithmetic := by
  unfold Obligations.IntegerArithmetic
  intro s x i o ho ht hr
  exact ho.issuesAs.exec ht hr

/-- Settles O13: each row issues its effect, whose lanes take the rounded result with its flags. -/
theorem floatOperations : Obligations.FloatOperations := by
  unfold Obligations.FloatOperations
  intro s x i o ho ht hr
  exact ho.issuesAs.exec ht hr

/-- Settles O14: each row issues its effect, under every mode as `floatDirected_eq` gives it. -/
theorem directedAndConversions : Obligations.DirectedAndConversions := by
  unfold Obligations.DirectedAndConversions
  intro s x i o ho ht hr
  exact ho.issuesAs.exec ht hr

/-- Settles O17: each row issues its effect; RDSP does not hold, and writes a pair or one register by the width of its source. -/
theorem randomAndIdentity : Obligations.RandomAndIdentity := by
  unfold Obligations.RandomAndIdentity
  intro s x i o ho ht hr
  exact ho.issuesAs.exec ht hr

/-- Settles O19, by the frame of the lane instructions and what an integer row writes in a lane. -/
theorem integerFrame : Obligations.IntegerFrame := by
  unfold Obligations.IntegerFrame
  intro s x i o ho ht hr
  have hrow : IssuesAs s x i o := ho.elim MoveOp.issuesAs fun h => h.elim ArithOp.issuesAs LogicOp.issuesAs
  have hw : WritesRegs o := ho.elim MoveOp.writesRegs fun h => h.elim ArithOp.writesRegs LogicOp.writesRegs
  obtain ⟨t, b, he, hb, hout, hbeam, hpend, hlane⟩ := hrow.frame ht hr
  refine ⟨t, b, he, hb, hout, hbeam, hpend, fun j => ?_⟩
  rw [hlane j]
  split
  case isTrue hj =>
    obtain ⟨hregs, hpreds⟩ := hw.lane j (laneOf x.beam j)
    exact ⟨hregs, hpreds, fun hn => absurd hj hn⟩
  case isFalse => exact ⟨SameButRegs.of_nil (SameButRegs.refl _) _, rfl, fun _ => rfl⟩

end Sys2Proof.Certificates
end

section
/-!
SUPPORT. EXIT (R90, R93, R94, R103): what opening the joins leaves of each lane, what the last exit of a beam posts, and the four ways in
which the issue ends.
-/
namespace Sys2Proof.Machine

open Sys2Proof

set_option Elab.async false

/-! ## Joins that open (R93) -/

/-- The mask of lane i, which waits at the JOIN of lane j, is satisfied: each of its lanes has exited or waits there. -/
def OpensBy (b : Beam) (gr : Grid) (j i : Nat) : Prop :=
  AtSameJoin b j i ∧ ∀ k < 32, bit (laneReg (laneOf b i) (maskReg gr (laneOf b i).jidx)).toNat k = true →
    (laneOf b k).state = .exited ∨ AtSameJoin b j k

/-- A lane behind the JOIN at which it has waited. -/
def joinedLane (l : Lane) : Lane := { l with state := .runnable, jidx := 0, pc := l.pc + 4 }

/-- A beam once the JOINs that the masks of the lanes below n satisfy have opened. -/
structure ReleasedBelow (b c : Beam) (gr : Grid) (n : Nat) : Prop where
  length : c.lanes.length = b.lanes.length
  joined : ∀ j, j < b.lanes.length → (laneOf b j).state = .waiting → (∃ i < n, OpensBy b gr j i) → laneOf c j = joinedLane (laneOf b j)
  stays : ∀ j, j < b.lanes.length → (laneOf b j).state ≠ .waiting ∨ ¬ (∃ i < n, OpensBy b gr j i) → laneOf c j = laneOf b j

theorem released_of_below {b c : Beam} {gr : Grid} (h : ReleasedBelow b c gr 32) : Released b c gr :=
  ⟨h.length, fun j hj => ⟨h.joined j hj, h.stays j hj⟩⟩

theorem lt_of_waiting {b : Beam} {j : Nat} (h : (laneOf b j).state = .waiting) : j < b.lanes.length := by
  by_contra hn
  rw [laneOf_start (Nat.not_lt.1 hn)] at h
  cases h

/-- What opens a JOIN for a lane opens it for every lane that waits there. -/
theorem OpensBy.of_sameJoin {b : Beam} {gr : Grid} {i j k : Nat} (h : OpensBy b gr k i) (hs : AtSameJoin b j k) : OpensBy b gr j i := by
  obtain ⟨hi, hall⟩ := h
  obtain ⟨-, hpc, hidx⟩ := hs
  have hmove : ∀ m, AtSameJoin b k m → AtSameJoin b j m := fun m ⟨hw, hp, hx⟩ => ⟨hw, hp.trans hpc, hx.trans hidx⟩
  exact ⟨hmove i hi, fun m hm hb => (hall m hm hb).imp id (hmove m)⟩

/-- Where a mask opens a JOIN, it opens that of its own lane. -/
theorem OpensBy.self {b : Beam} {gr : Grid} {i j : Nat} (h : OpensBy b gr j i) : OpensBy b gr i i := by
  obtain ⟨⟨hw, hpc, hidx⟩, hall⟩ := h
  exact ⟨⟨hw, rfl, rfl⟩, fun k hk hb => (hall k hk hb).imp id fun ⟨hs, hp, hx⟩ => ⟨hs, hp.trans hpc.symm, hx.trans hidx.symm⟩⟩

theorem sameJoin_symm {b : Beam} {j k : Nat} (h : AtSameJoin b j k) (hj : (laneOf b j).state = .waiting) : AtSameJoin b k j :=
  ⟨hj, h.2.1.symm, h.2.2.symm⟩

/-- release_check: the lanes that wait at the JOIN go on where the mask is satisfied, and nothing else of the beam differs. -/
theorem releaseCheck_of_met {b : Beam} {pc : Word} {n m : Nat}
    (h : ∀ k < 32, bit m k = true → (laneOf b k).state = .exited ∨
      ((laneOf b k).state = .waiting ∧ (laneOf b k).pc = pc ∧ (laneOf b k).jidx = n)) (j : Nat) (hj : j < b.lanes.length) :
    laneOf (releaseCheck b pc n m) j = if (laneOf b j).state = .waiting ∧ (laneOf b j).pc = pc ∧ (laneOf b j).jidx = n
      then joinedLane (laneOf b j) else laneOf b j := by
  have hmet : ((bitsOf 32 m).all fun i => (laneOf b i).state == .exited ||
      ((laneOf b i).state == .waiting && (laneOf b i).pc == pc && (laneOf b i).jidx == n)) = true := by
    rw [List.all_eq_true]
    intro k hk
    obtain ⟨hk32, hbit⟩ := List.mem_filter.1 hk
    simpa [and_assoc] using h k (mem_upTo.1 hk32) hbit
  unfold releaseCheck
  simp only [hmet, if_true]
  simp only [laneOf, List.getD_eq_getElem?_getD, List.getElem?_map, List.getElem?_eq_getElem hj, Option.map_some,
    Option.getD_some, Bool.and_eq_true, beq_iff_eq, and_assoc]
  rfl

theorem releaseCheck_of_unmet {b : Beam} {pc : Word} {n m : Nat}
    (h : ¬ ∀ k < 32, bit m k = true → (laneOf b k).state = .exited ∨
      ((laneOf b k).state = .waiting ∧ (laneOf b k).pc = pc ∧ (laneOf b k).jidx = n)) : releaseCheck b pc n m = b := by
  refine if_neg fun hall => h fun k hk hbit => ?_
  simpa [and_assoc] using List.all_eq_true.1 hall k (List.mem_filter.2 ⟨mem_upTo.2 hk, hbit⟩)

theorem releaseCheck_length (b : Beam) (pc : Word) (n m : Nat) : (releaseCheck b pc n m).lanes.length = b.lanes.length := by
  unfold releaseCheck
  dsimp only
  split
  · exact List.length_map ..
  · rfl

/-- One turn of the scan of R93: the lane i is asked whether its JOIN opens. -/
def releaseTurn (gr : Grid) (b : Beam) (i : Nat) : Beam :=
  let l := laneOf b i
  if l.state = .waiting then releaseCheck b l.pc l.jidx (laneReg l (maskReg gr l.jidx)).toNat else b

theorem releaseAll_eq (b : Beam) (gr : Grid) : releaseAll b gr = (upTo 32).foldl (releaseTurn gr) b := rfl

/-- A lane that has gone on waits at no JOIN, and one that has not stands as it stood. -/
theorem ReleasedBelow.lane {b c : Beam} {gr : Grid} {n : Nat} (h : ReleasedBelow b c gr n) (k : Nat) :
    laneOf c k = laneOf b k ∨
      ((laneOf b k).state = .waiting ∧ (∃ i < n, OpensBy b gr k i) ∧ laneOf c k = joinedLane (laneOf b k)) := by
  by_cases hw : (laneOf b k).state = .waiting
  · by_cases ho : ∃ i < n, OpensBy b gr k i
    · exact .inr ⟨hw, ho, h.joined k (lt_of_waiting hw) hw ho⟩
    · exact .inl (h.stays k (lt_of_waiting hw) (.inr ho))
  · by_cases hk : k < b.lanes.length
    · exact .inl (h.stays k hk (.inl hw))
    · left
      rw [laneOf_start (Nat.not_lt.1 hk), laneOf_start (by rw [h.length]; exact Nat.not_lt.1 hk)]

theorem ReleasedBelow.exited_iff {b c : Beam} {gr : Grid} {n : Nat} (h : ReleasedBelow b c gr n) (k : Nat) :
    (laneOf c k).state = .exited ↔ (laneOf b k).state = .exited := by
  obtain he | ⟨hw, -, he⟩ := h.lane k
  · rw [he]
  · rw [he, hw]
    exact ⟨nofun, nofun⟩

/-- At a JOIN that has not opened the same lanes wait as before. -/
theorem ReleasedBelow.waits_iff {b c : Beam} {gr : Grid} {n j : Nat} (h : ReleasedBelow b c gr n)
    (hj : ¬ ∃ i < n, OpensBy b gr j i) (k : Nat) : ((laneOf c k).state = .waiting ∧
      (laneOf c k).pc = (laneOf b j).pc ∧ (laneOf c k).jidx = (laneOf b j).jidx) ↔ AtSameJoin b j k := by
  obtain he | ⟨-, ⟨i, hi, ho⟩, he⟩ := h.lane k
  · rw [he]
    exact Iff.rfl
  · rw [he]
    exact ⟨fun hs => absurd hs.1 nofun, fun hs => absurd ⟨i, hi, ho.of_sameJoin hs⟩ hj⟩

/-- The scan's turn for lane n opens the JOIN that its mask satisfies, if it has not opened yet. -/
theorem ReleasedBelow.turn {b c : Beam} {gr : Grid} {n : Nat} (h : ReleasedBelow b c gr n) :
    ReleasedBelow b (releaseTurn gr c n) gr (n + 1) := by
  -- what the masks below n + 1 open is what those below n do, unless lane n opens its JOIN now
  have same : (∀ j, OpensBy b gr j n → ∃ i < n, OpensBy b gr j i) → ReleasedBelow b c gr (n + 1) := fun hn => by
    have hiff : ∀ j, (∃ i < n + 1, OpensBy b gr j i) ↔ ∃ i < n, OpensBy b gr j i := fun j =>
      ⟨fun ⟨i, hi, ho⟩ => (Nat.lt_succ_iff_lt_or_eq.1 hi).elim (fun hi => ⟨i, hi, ho⟩) (fun e => hn j (e ▸ ho)),
        fun ⟨i, hi, ho⟩ => ⟨i, Nat.lt_succ_of_lt hi, ho⟩⟩
    exact ⟨h.length, fun j hj hw ho => h.joined j hj hw ((hiff j).1 ho), fun j hj hs => h.stays j hj (by rwa [hiff j] at hs)⟩
  by_cases hw : (laneOf b n).state = .waiting
  · by_cases hopen : ∃ i < n, OpensBy b gr n i
    · -- lane n has gone on already
      have hlane := h.joined n (lt_of_waiting hw) hw hopen
      have hturn : releaseTurn gr c n = c := if_neg (by rw [hlane]; exact nofun)
      rw [hturn]
      obtain ⟨i, hi, ho⟩ := hopen
      exact same fun j hj => ⟨i, hi, ho.of_sameJoin hj.1⟩
    · have hlane := h.stays n (lt_of_waiting hw) (.inr hopen)
      have hturn : releaseTurn gr c n = releaseCheck c (laneOf b n).pc (laneOf b n).jidx
          (laneReg (laneOf b n) (maskReg gr (laneOf b n).jidx)).toNat := by
        unfold releaseTurn
        dsimp only
        rw [hlane, if_pos hw]
      have hself : AtSameJoin b n n := ⟨hw, rfl, rfl⟩
      rw [hturn]
      by_cases hmet : OpensBy b gr n n
      · have hcheck := releaseCheck_of_met (b := c) (pc := (laneOf b n).pc) (n := (laneOf b n).jidx)
          (m := (laneReg (laneOf b n) (maskReg gr (laneOf b n).jidx)).toNat) fun k hk hb => by
            rw [h.exited_iff, h.waits_iff hopen]
            exact hmet.2 k hk hb
        refine ⟨(releaseCheck_length ..).trans h.length, fun j hj hjw ho => ?_, fun j hj hs => ?_⟩
        · rw [hcheck j (by rw [h.length]; exact hj)]
          by_cases hjn : AtSameJoin b n j
          · rw [if_pos ((h.waits_iff hopen j).2 hjn)]
            have hstay : laneOf c j = laneOf b j := h.stays j hj (.inr fun ⟨i, hi, ho⟩ => hopen ⟨i, hi, ho.of_sameJoin hjn⟩)
            rw [hstay]
          · rw [if_neg fun hs => hjn ((h.waits_iff hopen j).1 hs)]
            obtain ⟨i, hi, ho⟩ := ho
            have hin : i < n := (Nat.lt_succ_iff_lt_or_eq.1 hi).resolve_right fun e => hjn (sameJoin_symm (e ▸ ho.1 : AtSameJoin b j n) hjw)
            exact h.joined j hj hjw ⟨i, hin, ho⟩
        · have hjn : ¬ AtSameJoin b n j := fun hjn => hs.elim (fun hs => hs hjn.1)
            fun hs => hs ⟨n, Nat.lt_succ_self n, hmet.of_sameJoin (sameJoin_symm hjn hw)⟩
          rw [hcheck j (by rw [h.length]; exact hj), if_neg fun hs => hjn ((h.waits_iff hopen j).1 hs)]
          exact h.stays j hj (hs.imp id fun hs ⟨i, hi, ho⟩ => hs ⟨i, Nat.lt_succ_of_lt hi, ho⟩)
      · rw [releaseCheck_of_unmet fun hall => hmet ⟨hself, fun k hk hb => by
          have hk := hall k hk hb
          rwa [h.exited_iff, h.waits_iff hopen] at hk⟩]
        exact same fun j hj => absurd hj.self hmet
  · -- no lane waits where lane n stands
    have hlane : laneOf c n = laneOf b n := (h.lane n).resolve_right fun hs => hw hs.1
    have hturn : releaseTurn gr c n = c := if_neg (by rw [hlane]; exact hw)
    rw [hturn]
    exact same fun j hj => absurd hj.1.1 hw

/-- release_check for every lane that waits opens the JOINs whose mask is satisfied, and changes no other lane (R93). -/
theorem releaseAll_released (b : Beam) (gr : Grid) : Released b (releaseAll b gr) gr := by
  have hall : ∀ n, ReleasedBelow b ((upTo n).foldl (releaseTurn gr) b) gr n := fun n => by
    induction n with
    | zero => exact ⟨rfl, fun _ _ _ ⟨_, h, _⟩ => absurd h (Nat.not_lt_zero _), fun _ _ _ => rfl⟩
    | succ n ih =>
      rw [upTo, List.foldl_append]
      exact ih.turn
  rw [releaseAll_eq]
  exact released_of_below (hall 32)

/-- release_check changes lanes alone. -/
theorem releaseAll_only_lanes (b : Beam) (gr : Grid) : releaseAll b gr = { b with lanes := (releaseAll b gr).lanes } := by
  have hturn : ∀ (c : Beam) (i : Nat), releaseTurn gr c i = { c with lanes := (releaseTurn gr c i).lanes } := fun c i => by
    unfold releaseTurn releaseCheck
    dsimp only
    split
    · split <;> rfl
    · rfl
  have hscan : ∀ (l : List Nat) (c : Beam), l.foldl (releaseTurn gr) c = { c with lanes := (l.foldl (releaseTurn gr) c).lanes } :=
    fun l => by
      induction l with
      | nil => exact fun _ => rfl
      | cons i l ih =>
        intro c
        rw [List.foldl_cons, ih, hturn c i]
  rw [releaseAll_eq]
  exact hscan (upTo 32) b

/-- Where no JOIN opens, release_check leaves the beam as it was. -/
theorem releaseAll_of_shut {b : Beam} {gr : Grid} (h : ∀ j ∈ lanesIn b .waiting, ¬ Opens b gr j) : releaseAll b gr = b := by
  obtain ⟨hlen, hlanes⟩ := releaseAll_released b gr
  have hall : (releaseAll b gr).lanes = b.lanes := List.ext_getElem hlen fun j hj hj' => by
    have hstay := (hlanes j hj').2 ((em ((laneOf b j).state = .waiting)).symm.imp id fun hw => h j ((mem_lanesIn b .waiting j).2 ⟨hj', hw⟩))
    simpa [laneOf, hj, hj'] using hstay
  rw [releaseAll_only_lanes, hall]

/-- A beam in which a JOIN opens, or a lane goes on running, has a runnable lane behind release_check. -/
theorem releaseAll_runnable {b : Beam} {gr : Grid} (h : lanesIn b .runnable ≠ [] ∨ ∃ j ∈ lanesIn b .waiting, Opens b gr j) :
    lanesIn (releaseAll b gr) .runnable ≠ [] := by
  obtain ⟨hlen, hlanes⟩ := releaseAll_released b gr
  obtain hrun | ⟨j, hj, hopen⟩ := h
  · obtain ⟨j, hj⟩ := List.exists_mem_of_ne_nil _ hrun
    obtain ⟨hlt, hstate⟩ := (mem_lanesIn b .runnable j).1 hj
    refine lanesIn_ne_nil (i := j) (by rw [hlen]; exact hlt) ?_
    rw [(hlanes j hlt).2 (.inl (by rw [hstate]; exact nofun)), hstate]
  · obtain ⟨hlt, hstate⟩ := (mem_lanesIn b .waiting j).1 hj
    refine lanesIn_ne_nil (i := j) (by rw [hlen]; exact hlt) ?_
    rw [(hlanes j hlt).1 hstate hopen]

/-- The turn that the beam has had is none of its lanes' affair. -/
theorem Released.of_turn {b c : Beam} {gr : Grid} (h : Released b c gr) (m n : Nat) (l : List Told) :
    Released b { c with lastIssue := m, tried := n, told := l } gr := h

/-! ## The last exit of a beam (R79, R103, R258) -/

theorem lanesWith_length (p : Lane → Bool) : ∀ (l : List Lane) (k : Nat), (lanesWith p k l).length = l.countP p
  | [], _ => rfl
  | x :: t, k => by
    unfold lanesWith
    split
    · rw [List.length_cons, lanesWith_length p t, List.countP_cons_of_pos ‹_›]
    · rw [lanesWith_length p t, List.countP_cons_of_neg ‹_›]

/-- Every lane of a beam has exited where as many have as it has. -/
theorem exited_all_iff (b : Beam) : (lanesIn b .exited).length = b.lanes.length ↔ ∀ i < b.lanes.length, (laneOf b i).state = .exited := by
  rw [lanesIn, lanesWith_length, List.countP_eq_length, List.forall_mem_iff_getElem]
  refine forall_congr' fun i => forall_congr' fun hi => ?_
  simp [laneOf, hi]

theorem exitedAll_of_runnable {s : State} {k : Nat} {b : Beam} (hb : beamOf s k = some b) {i : Nat} (hi : i < b.lanes.length)
    (hs : (laneOf b i).state ≠ .exited) : exitedAll s k = s := by
  unfold exitedAll
  rw [hb]
  exact if_neg fun hall => hs ((exited_all_iff b).1 hall i hi)

/-- The state t differs from s in channels, the agenda and the ARRIVED bits of beams alone. -/
structure OnlyChannels (s t : State) : Prop where
  same : t = { s with gangs := t.gangs, agenda := t.agenda, beams := t.beams }
  beam : ∀ k b, beamOf s k = some b → ∃ c, beamOf t k = some c ∧ c = { b with arr := c.arr }

theorem OnlyChannels.refl (s : State) : OnlyChannels s s := ⟨rfl, fun _ b hb => ⟨b, hb, rfl⟩⟩

theorem OnlyChannels.trans {s t u : State} (h : OnlyChannels s t) (g : OnlyChannels t u) : OnlyChannels s u := by
  refine ⟨by rw [g.same, h.same], fun k b hb => ?_⟩
  obtain ⟨c, hc, ec⟩ := h.beam k b hb
  obtain ⟨d, hd, ed⟩ := g.beam k c hc
  exact ⟨d, hd, by rw [ed, ec]⟩

theorem OnlyChannels.foldl {α : Type} {f : State → α → State} (hf : ∀ s a, OnlyChannels s (f s a)) :
    ∀ (l : List α) (s : State), OnlyChannels s (l.foldl f s)
  | [], s => .refl s
  | a :: t, s => (hf s a).trans (OnlyChannels.foldl hf t (f s a))

theorem setChan_onlyChannels (s : State) (gk c : Nat) (f : Chan → Chan) : OnlyChannels s (setChan s gk c f) :=
  ⟨rfl, fun _ b hb => ⟨b, hb, rfl⟩⟩

theorem post_onlyChannels (s : State) (d : Nat) (i : Instr) : OnlyChannels s (post s d i) := ⟨rfl, fun _ b hb => ⟨b, hb, rfl⟩⟩

theorem onBeam_arr_onlyChannels (s : State) (k : Nat) (f : Nat → Nat) : OnlyChannels s (onBeam s k fun b => { b with arr := f b.arr }) := by
  refine ⟨rfl, fun j b hb => ?_⟩
  have hlook : look (alter s.beams k fun b => { b with arr := f b.arr }) j = _ := look_alter _ _ _ _
  simp only [beamOf] at hb
  split at hlook
  · rename_i e
    subst e
    rw [hb] at hlook
    exact ⟨_, hlook, rfl⟩
  · exact ⟨b, hlook.trans hb, rfl⟩

theorem completePhase_onlyChannels (s : State) (gk c : Nat) : OnlyChannels s (completePhase s gk c) := by
  unfold completePhase
  split
  · exact .refl s
  · exact (setChan_onlyChannels _ _ _ _).trans ((OnlyChannels.foldl (fun s k =>
      onBeam_arr_onlyChannels s k fun a => a &&& (2 ^ 64 - 1 - 2 ^ c)) _ _).trans (post_onlyChannels _ _ _))

theorem exitChannel_onlyChannels (s : State) (gk c k : Nat) : OnlyChannels s (exitChannel s gk c k) := by
  unfold exitChannel
  split
  · split
    · exact setChan_onlyChannels _ _ _ _
    · dsimp only
      split
      · exact (setChan_onlyChannels _ _ _ _).trans (completePhase_onlyChannels _ _ _)
      · exact setChan_onlyChannels _ _ _ _
  · exact .refl s

/-- The last exit of a beam changes channels, and the gang is to be looked at one clock on. -/
theorem beamExited_spec {s : State} {k : Nat} {b : Beam} {bl : Block} {ga : Gang} {gr : Grid} (hb : beamOf s k = some b)
    (hh : homeOf s b = some (bl, ga, gr)) :
    OnlyChannels s (beamExited s k) ∧ ⟨s.clk + 1, .gangRetire bl.gang⟩ ∈ (beamExited s k).agenda := by
  have hchan : OnlyChannels s (if gr.hgbeams = 0 then (upTo ga.chans.length).foldl (fun s c => exitChannel s bl.gang c k) s else s) := by
    split
    · exact OnlyChannels.foldl (fun s c => exitChannel_onlyChannels s bl.gang c k) _ _
    · exact .refl s
  have hclk := congrArg State.clk hchan.same
  unfold beamExited
  rw [hb, Option.bind_some, hh]
  refine ⟨hchan.trans (post_onlyChannels _ _ _), ?_⟩
  rw [post_agenda, hclk]
  exact List.mem_append_right _ (List.mem_singleton_self _)

/-! ## Settling a run (R90, R94) -/

theorem settleRun_of_exited {s : State} {k : Nat} {b : Beam} (hb : beamOf s k = some b) (hr : lanesIn b .runnable = [])
    (hp : lanesIn b .parked = []) (hw : lanesIn b .waiting = []) : settleRun s k = s := by
  simp [settleRun, hb, hr, hp, hw]

/-- Lanes that wait alone trap at the one of least key (R94). -/
theorem settleRun_of_waiting {s : State} {k : Nat} {b : Beam} (hb : beamOf s k = some b) (hr : lanesIn b .runnable = [])
    (hq : replaying b = false) (hp : lanesIn b .parked = []) (hw : lanesIn b .waiting ≠ []) : settleRun s k =
      idleTrap s k { trapAt b (leastLane b (lanesIn b .waiting)) 0x05 with reg := (laneOf b (leastLane b (lanesIn b .waiting))).jidx } := by
  simp [settleRun, hb, hr, hq, hp, hw]

/-! ## EXIT (R103) -/

/-- The lanes of a run at its EXIT: those that execute it have exited, the others stand behind it. -/
def exitBeam (x : Sel) (g : Guard) : Beam :=
  beamLanes x.beam x.run fun i l => if i ∈ execLanes x g then { l with state := .exited } else { l with pc := l.pc + 4 }

/-- A selected beam has no replay entry to issue first (R293). -/
theorem selected_not_replaying {s : State} {x : Sel} (h : selected s = some x) : replaying x.beam = false := by
  have hc := (selected_spec h).2.1
  simp only [candidate, eligible, Bool.and_eq_true, Bool.not_eq_true'] at hc
  exact hc.2.1.2

section Exit

variable {s : State} {x : Sel} {g : Guard} {bl : Block} {ga : Gang} {gr : Grid}

theorem exec_hold {i : Instr} {e : Effect} {u : State} (ht : Turn s x) (hi : exec i s = issue 4 e s) (he : e x s = .hold u) :
    exec i s = .next (tried u x.key) := by
  rw [hi, issue_selected ht.1, he]
  rfl

theorem exec_moved {i : Instr} {e : Effect} {u : State} (ht : Turn s x) (hi : exec i s = issue 4 e s) (he : e x s = .moved u) :
    exec i s = .next (settleRun (retire u x.key) x.key) := by
  rw [hi, issue_selected ht.1, he]
  rfl

/-- An effect that stores a beam with a runnable lane issues, and does nothing else. -/
theorem exec_moved_runnable {i : Instr} {e : Effect} {c : Beam} (ht : Turn s x) (hi : exec i s = issue 4 e s)
    (he : e x s = .moved (setBeam s x.key c)) (hc : c.block = x.beam.block) (hr : lanesIn c .runnable ≠ []) :
    exec i s = .next (issuedBy s x c) := by
  rw [exec_moved ht hi he, retire_setBeam s x c hc, settleRun_runnable (beamOf_issuedBy s x c) hr]

/-- An effect that stores a beam of which lanes are left that only wait issues, and the beam traps at the lowest-keyed of them (R94). -/
theorem exec_moved_waiting {i : Instr} {e : Effect} {c : Beam} (ht : Turn s x) (hi : exec i s = issue 4 e s)
    (he : e x s = .moved (setBeam s x.key c)) (hc : c.block = x.beam.block) (hpend : c.pend = x.beam.pend)
    (hr : lanesIn c .runnable = []) (hp : lanesIn c .parked = []) (hw : lanesIn c .waiting ≠ []) :
    let i' := leastLane c (lanesIn c .waiting)
    exec i s = .next (idleTrap (issuedBy s x c) x.key { trapAt c i' 0x05 with reg := (laneOf c i').jidx }) := by
  have hq : replaying c = false := by
    rw [replaying, hpend]
    exact selected_not_replaying ht.1
  rw [exec_moved ht hi he, retire_setBeam s x c hc, settleRun_of_waiting (beamOf_issuedBy s x c) hr hq hp hw]
  rfl

theorem effExit_of_parked (h : lanesIn x.beam .parked ≠ []) : effExit g x s = .trap s (trapOf x (parkedCode x.beam)) :=
  if_pos (by simpa using h)

theorem effExit_of_empty (hp : lanesIn x.beam .parked = []) (h : ∃ i ∈ execLanes x g, (laneOf x.beam i).empty ≠ []) :
    effExit g x s = .hold s := by
  obtain ⟨i, hi, he⟩ := h
  have hany : ((execLanes x g).any fun i => !(laneOf x.beam i).empty.isEmpty) = true := List.any_eq_true.2 ⟨i, hi, by simpa using he⟩
  unfold effExit
  simp only [hp, hany, List.isEmpty_nil, Bool.not_true, Bool.false_eq_true, if_false, if_true]

/-- EXIT with its registers full and no lane parked: its lanes end, and the joins that this satisfies open. -/
theorem effExit_of_ready (hp : lanesIn x.beam .parked = []) (hf : ∀ i ∈ execLanes x g, (laneOf x.beam i).empty = [])
    (hh : homeOf s x.beam = some (bl, ga, gr)) : effExit g x s = .moved (if execLanes x g = [] then setBeam s x.key (exitBeam x g)
      else exitedAll (setBeam s x.key (releaseAll (exitBeam x g) gr)) x.key) := by
  have hany : ((execLanes x g).any fun i => !(laneOf x.beam i).empty.isEmpty) = false := List.any_eq_false.2 fun i hi => by
    simp [hf i hi]
  have hbeam : (beamLanes x.beam x.run fun i l =>
      if (execLanes x g).contains i then { l with state := .exited } else { l with pc := l.pc + 4 }) = exitBeam x g := by
    simp only [List.contains_eq_mem, decide_eq_true_eq]
    rfl
  unfold effExit
  simp only [hp, hany, hh, hbeam, List.isEmpty_nil, Bool.not_true, Bool.false_eq_true, if_false, List.isEmpty_iff]
  split <;> rfl

theorem exitBeam_no_parked (hp : lanesIn x.beam .parked = []) : lanesIn (exitBeam x g) .parked = [] := by
  rw [List.eq_nil_iff_forall_not_mem] at hp ⊢
  intro i hi
  obtain ⟨hlt, hstate⟩ := (mem_lanesIn _ _ _).1 hi
  have hlt : i < x.beam.lanes.length := by simpa [exitBeam, beamLanes, mapLanes_length] using hlt
  rw [exitBeam, laneOf_beamLanes, if_pos hlt] at hstate
  refine hp i ((mem_lanesIn _ _ _).2 ⟨hlt, ?_⟩)
  split at hstate
  · split at hstate
    · cases hstate
    · exact hstate
  · exact hstate

theorem releaseAll_block : (releaseAll (exitBeam x g) gr).block = x.beam.block := by
  rw [releaseAll_only_lanes]
  rfl

/-- An EXIT that no lane executes only goes on. -/
theorem exec_exit_of_none (ht : Turn s x) (he : effExit g x s = .moved (setBeam s x.key (exitBeam x g))) (hex : execLanes x g = []) :
    exec (.exit g) s = .next (jumped s x fun l => l.pc + 4) := by
  have hbeam : exitBeam x g = beamLanes x.beam x.run fun _ l => { l with pc := l.pc + 4 } := by
    simp only [exitBeam, hex, List.not_mem_nil, if_false]
  rw [exec_moved_runnable ht rfl he rfl, hbeam]
  · rfl
  · rw [hbeam]
    exact runnable_beamLanes (b := x.beam) (on := x.run) (fun _ _ => rfl) (selected_runnable ht.1)

/-- Where a lane can run on behind an EXIT, the joins have opened and nothing outside the beam differs. -/
theorem exec_exit_of_runnable (ht : Turn s x) (he : effExit g x s = .moved (exitedAll (setBeam s x.key (releaseAll (exitBeam x g) gr)) x.key))
    (hrun : lanesIn (releaseAll (exitBeam x g) gr) .runnable ≠ []) :
    exec (.exit g) s = .next (issuedBy s x (releaseAll (exitBeam x g) gr)) := by
  obtain ⟨i, hi⟩ := List.exists_mem_of_ne_nil _ hrun
  obtain ⟨hlt, hstate⟩ := (mem_lanesIn _ _ _).1 hi
  have hne : (laneOf (releaseAll (exitBeam x g) gr) i).state ≠ .exited := fun h => nomatch h.symm.trans hstate
  rw [exitedAll_of_runnable (beamOf_setBeam_same _ _ _) hlt hne] at he
  exact exec_moved_runnable ht rfl he releaseAll_block hrun

/-- Where every lane has exited, they stay so and the gang is to be looked at. -/
theorem exec_exit_of_all (ht : Turn s x) (hh : homeOf s x.beam = some (bl, ga, gr)) (hp : lanesIn x.beam .parked = [])
    (he : effExit g x s = .moved (exitedAll (setBeam s x.key (releaseAll (exitBeam x g) gr)) x.key))
    (hrun : lanesIn (exitBeam x g) .runnable = []) (hwait : lanesIn (exitBeam x g) .waiting = []) :
    ∃ t b, exec (.exit g) s = .next t ∧ beamOf t x.key = some b ∧ b.lanes = (exitBeam x g).lanes ∧
      (∀ i, i < b.lanes.length → (laneOf b i).state = .exited) ∧ (∀ a, memGet t.mem a = memGet s.mem a) ∧
      ⟨s.clk + 1, .gangRetire bl.gang⟩ ∈ t.agenda := by
  have hall : ∀ i < (exitBeam x g).lanes.length, (laneOf (exitBeam x g) i).state = .exited := fun i hi => by
    have hnot : ∀ st, lanesIn (exitBeam x g) st = [] → (laneOf (exitBeam x g) i).state ≠ st := fun st hst hs =>
      List.not_mem_nil (hst ▸ (mem_lanesIn _ st i).2 ⟨hi, hs⟩)
    have h1 := hnot _ hrun
    have h2 := hnot _ hwait
    have h3 := hnot _ (exitBeam_no_parked hp)
    cases hs : (laneOf (exitBeam x g) i).state <;> simp_all
  rw [releaseAll_of_shut (by simp [hwait])] at he
  have hset : beamOf (setBeam s x.key (exitBeam x g)) x.key = some (exitBeam x g) := beamOf_setBeam_same _ _ _
  have hexited : exitedAll (setBeam s x.key (exitBeam x g)) x.key = beamExited (setBeam s x.key (exitBeam x g)) x.key := by
    unfold exitedAll
    rw [hset]
    exact if_pos ((exited_all_iff _).2 hall)
  obtain ⟨hchan, hagenda⟩ := beamExited_spec (s := setBeam s x.key (exitBeam x g)) hset (show homeOf _ (exitBeam x g) = _ from hh)
  obtain ⟨c, hc, ec⟩ := hchan.beam _ _ hset
  have hmem := congrArg State.mem hchan.same
  have hb := retire_beams hc
  have hlanes : c.lanes = (exitBeam x g).lanes := by rw [ec]
  have hnone : ∀ st, st ≠ .exited → lanesIn c st = [] := fun st hst => List.eq_nil_iff_forall_not_mem.2 fun i hi => by
    obtain ⟨hlt, hs⟩ := (mem_lanesIn _ _ _).1 hi
    rw [laneOf, hlanes] at hs
    exact hst ((hall i (hlanes ▸ hlt)).symm.trans hs).symm
  rw [exec_moved ht rfl he, hexited, settleRun_of_exited hb (hnone _ nofun) (hnone _ nofun) (hnone _ nofun)]
  refine ⟨_, _, rfl, hb, hlanes, fun i hi => ?_, fun a => ?_, hagenda⟩
  · rw [laneOf, hlanes]
    exact hall i (hlanes ▸ hi)
  · exact congrArg (memGet · a) hmem

/-- Where lanes are left that only wait, and none of their joins opens, the beam traps at the lowest-keyed of them. -/
theorem exec_exit_of_waiting (ht : Turn s x) (hp : lanesIn x.beam .parked = [])
    (he : effExit g x s = .moved (exitedAll (setBeam s x.key (releaseAll (exitBeam x g) gr)) x.key))
    (hrun : lanesIn (exitBeam x g) .runnable = []) (hwait : lanesIn (exitBeam x g) .waiting ≠ [])
    (hshut : ∀ j ∈ lanesIn (exitBeam x g) .waiting, ¬ Opens (exitBeam x g) gr j) :
    let i := leastLane (exitBeam x g) (lanesIn (exitBeam x g) .waiting)
    exec (.exit g) s = .next (idleTrap (issuedBy s x (exitBeam x g)) x.key
      { trapAt (exitBeam x g) i 0x05 with reg := (laneOf (exitBeam x g) i).jidx }) := by
  obtain ⟨j, hj⟩ := List.exists_mem_of_ne_nil _ hwait
  obtain ⟨hlt, hstate⟩ := (mem_lanesIn _ _ _).1 hj
  have hne : (laneOf (exitBeam x g) j).state ≠ .exited := fun h => nomatch h.symm.trans hstate
  rw [releaseAll_of_shut hshut, exitedAll_of_runnable (beamOf_setBeam_same _ _ _) hlt hne] at he
  exact exec_moved_waiting ht rfl he rfl rfl hrun (exitBeam_no_parked hp) hwait

end Exit

end Sys2Proof.Machine

namespace Sys2Proof.Certificates

open Sys2Proof Sys2Proof.Machine

/-- Settles O32, by what opening the joins leaves of each lane and the four ways in which the issue ends. -/
theorem exitEndsLanes : Obligations.ExitEndsLanes := by
  unfold Obligations.ExitEndsLanes
  intro s x g bl ga gr ht hh ex mid
  refine ⟨fun hp => exec_trap ht rfl (effExit_of_parked hp), fun hp => ⟨fun he => exec_hold ht rfl (effExit_of_empty hp he), fun hf => ?_⟩⟩
  have heff := effExit_of_ready (s := s) hp hf hh
  have hsome : ex ≠ [] → effExit g x s = .moved (exitedAll (setBeam s x.key (releaseAll mid gr)) x.key) := fun hex =>
    heff.trans (congrArg Res.moved (if_neg hex))
  refine ⟨fun hex => exec_exit_of_none ht (heff.trans (congrArg Res.moved (if_pos hex))) hex, fun hex hgo => ?_, fun hex => ?_, fun hex => ?_⟩
  · exact ⟨_, _, exec_exit_of_runnable ht (hsome hex) (releaseAll_runnable hgo), beamOf_issuedBy s x _, issuedBy_sameOutside s x _,
      (releaseAll_released mid gr).of_turn _ _ _⟩
  · exact exec_exit_of_all ht hh hp (hsome hex)
  · exact exec_exit_of_waiting ht hp (hsome hex)

end Sys2Proof.Certificates
end

section
/-!
SUPPORT. What the operations of a launch queue can do, said once (R63-R69, R73): which registers of the queue they change, and that
beyond memory, the queues and the agenda they change nothing.
-/
namespace Sys2Proof.Machine

open Sys2Proof

set_option Elab.async false

/-! ## Registers of a queue (R64) -/

/-- A queue's register is stored once for the device. -/
theorem csrKey_lq (part q k : Nat) : csrKey part (lq q k) = lq q k := by
  have howner : csrOwner (lq q k) ≠ some .partition := by
    have hlow : lq q k ≥ 0x10000 := by unfold lq; omega
    generalize lq q k = n at hlow
    unfold csrOwner
    rw [if_neg (by omega), if_neg (by omega), if_neg (by omega), if_neg (by omega), if_neg (by omega), if_neg (by omega)]
    split <;> nofun
  unfold csrKey
  split
  · contradiction
  · rfl

theorem csrGet_lq (s : State) (part q k : Nat) : csrGet s part (lq q k) = lookD s.csr (lq q k) (csrReset (lq q k)) := by
  rw [csrGet, csrKey_lq]

theorem lq_inj {q j k : Nat} (h : lq q j = lq q k) : j = k := by
  unfold lq at h
  omega

theorem look_csrPut (s : State) (part n m : Nat) (v : Word) :
    look (csrPut s part n v).csr m = if m = csrKey part n then some v else look s.csr m := look_put _ _ _ _

theorem csrGet_csrPut_lq (s : State) (part q j k : Nat) (v : Word) :
    csrGet (csrPut s part (lq q j) v) part (lq q k) = if k = j then v else csrGet s part (lq q k) := by
  rw [csrGet_csrPut, csrKey_lq, csrKey_lq]
  by_cases h : k = j
  · rw [h, if_pos rfl, if_pos rfl]
  · rw [if_neg h, if_neg fun e => h (lq_inj e)]

theorem csrN_csrPut_lq (s : State) (part q j k : Nat) (v : Word) :
    csrN (csrPut s part (lq q j) v) part (lq q k) = if k = j then v.toNat else csrN s part (lq q k) := by
  rw [csrN, csrGet_csrPut_lq]
  split <;> rfl

/-- Two halves of a 64-bit value are the value (R64). -/
theorem lqTape_lqPut64 (s : State) (q k : Nat) {v : Nat} (h : v < 2 ^ 64) : lqTape (lqPut64 s q k v) q k = v := by
  simp only [lqTape, lqPut64, csrN_csrPut_lq, BitVec.toNat_ofNat, if_true, show k ≠ k + 1 by omega, if_false]
  omega

theorem lqTape_lt (s : State) (q k : Nat) : lqTape s q k < 2 ^ 64 := by
  have h1 := (csrGet s 0 (lq q k)).isLt
  have h2 := (csrGet s 0 (lq q (k + 1))).isLt
  unfold lqTape csrN
  omega

theorem lqN_le (s : State) (q : Nat) : lqN s q ≤ 2 ^ 15 := by
  refine Nat.pow_le_pow_right (by decide) (Nat.le_of_lt_succ ?_)
  unfold fld
  omega

theorem lqN_pos (s : State) (q : Nat) : 0 < lqN s q := Nat.two_pow_pos _

/-- An index of a ring is a register's value. -/
theorem ringIndex_toNat (s : State) (q n : Nat) : (BitVec.ofNat 32 (n % lqN s q)).toNat = n % lqN s q := by
  have hle := lqN_le s q
  have hlt := Nat.mod_lt n (lqN_pos s q)
  rw [BitVec.toNat_ofNat]
  exact Nat.mod_eq_of_lt (by omega)

/-! ## What a queue's operation can do -/

/-- The state t differs from s in what memory's operations change, in the registers ks of the queue, in what no register holds of it but
its rewind, and in steps added to the agenda. -/
structure QueueStep (q : Nat) (ks : List Nat) (s t : State) : Prop where
  same : t = { s with mem := t.mem, bad := t.bad, l2 := t.l2, cores := t.cores, aliased := t.aliased, fresh := t.fresh, csr := t.csr,
                      queues := t.queues, agenda := t.agenda }
  csr : ∀ m, (∀ k ∈ ks, m ≠ lq q k) → look t.csr m = look s.csr m
  rewind : (queueOf t q).rewind = (queueOf s q).rewind
  agenda : ∀ d ∈ s.agenda, d ∈ t.agenda

namespace QueueStep

variable {q : Nat} {ks js : List Nat} {s t u : State}

theorem refl (q : Nat) (ks : List Nat) (s : State) : QueueStep q ks s s := ⟨rfl, fun _ _ => rfl, rfl, fun _ h => h⟩

theorem trans (h : QueueStep q ks s t) (g : QueueStep q ks t u) : QueueStep q ks s u :=
  ⟨by rw [g.same, h.same], fun m hm => (g.csr m hm).trans (h.csr m hm), g.rewind.trans h.rewind, fun d hd => g.agenda d (h.agenda d hd)⟩

/-- Any field that a queue's operation leaves alone. -/
theorem field {α : Type} (h : QueueStep q ks s t) (f : State → α)
    (hf : ∀ (s : State) m b l c a n r x d, f { s with mem := m, bad := b, l2 := l, cores := c, aliased := a, fresh := n, csr := r, queues := x, agenda := d } = f s) :
    f t = f s := by
  rw [h.same, hf]

theorem grids (h : QueueStep q ks s t) : t.grids = s.grids := h.field (·.grids) fun _ _ _ _ _ _ _ _ _ _ => rfl
theorem beams (h : QueueStep q ks s t) : t.beams = s.beams := h.field (·.beams) fun _ _ _ _ _ _ _ _ _ _ => rfl
theorem clk (h : QueueStep q ks s t) : t.clk = s.clk := h.field (·.clk) fun _ _ _ _ _ _ _ _ _ _ => rfl
theorem accepting (h : QueueStep q ks s t) : t.accepting = s.accepting := h.field (·.accepting) fun _ _ _ _ _ _ _ _ _ _ => rfl

/-- A register of the queue that the operation leaves alone. -/
theorem csrN (h : QueueStep q ks s t) {k : Nat} (hk : k ∉ ks) : csrN t 0 (lq q k) = csrN s 0 (lq q k) := by
  have hlook := h.csr (lq q k) fun j hj e => hk (lq_inj e ▸ hj)
  rw [Machine.csrN, Machine.csrN, csrGet_lq, csrGet_lq, lookD, lookD, hlook]

theorem lqTape (h : QueueStep q ks s t) {k : Nat} (hk : k ∉ ks) (hk' : k + 1 ∉ ks) : lqTape t q k = lqTape s q k := by
  rw [Machine.lqTape, Machine.lqTape, h.csrN hk, h.csrN hk']

theorem ite {c : Bool} (h : QueueStep q ks s t) (g : QueueStep q ks s u) : QueueStep q ks s (if c then t else u) := by
  cases c
  · exact g
  · exact h

end QueueStep

variable {q : Nat} {ks : List Nat} {s : State}

theorem OnlyMemory.queueStep {t : State} (h : OnlyMemory s t) (q : Nat) (ks : List Nat) : QueueStep q ks s t :=
  ⟨h.same.trans (by rw [← h.csr, ← h.queues, ← h.agenda]), fun _ _ => by rw [h.csr], by rw [queueOf, queueOf, h.queues], fun d hd => by rwa [h.agenda]⟩

theorem csrPut_queueStep (s : State) (q k : Nat) (v : Word) (ks : List Nat) (hk : k ∈ ks) : QueueStep q ks s (csrPut s 0 (lq q k) v) :=
  ⟨rfl, fun m hm => (look_csrPut s 0 _ m v).trans (if_neg fun e => hm k hk (e.trans (csrKey_lq 0 q k))), rfl, fun _ h => h⟩

theorem setQueue_queueStep (s : State) (q : Nat) (ks : List Nat) (f : QueueRun → QueueRun) (hf : (f (queueOf s q)).rewind = (queueOf s q).rewind) :
    QueueStep q ks s (setQueue s q f) :=
  ⟨rfl, fun _ _ => rfl, (congrArg QueueRun.rewind (queueOf_setQueue_same s q f)).trans hf, fun _ h => h⟩

theorem post_queueStep (s : State) (q : Nat) (ks : List Nat) (d : Nat) (i : Instr) : QueueStep q ks s (post s d i) :=
  ⟨rfl, fun _ _ => rfl, rfl, fun _ h => List.mem_append_left _ h⟩

theorem postFree_queueStep (s : State) (q : Nat) (ks : List Nat) (bound : Nat) (i : Instr) : QueueStep q ks s (postFree s bound i) :=
  ⟨rfl, fun _ _ => rfl, rfl, fun _ h => List.mem_append_left _ h⟩

theorem lqFault_queueStep (s : State) (hk : 5 ∈ ks) : QueueStep q ks s (lqFault s q) := csrPut_queueStep s q 5 _ ks hk

theorem lqReadFault_queueStep (s : State) (hk : 5 ∈ ks) : QueueStep q ks s (lqReadFault s q) := csrPut_queueStep s q 5 _ ks hk

theorem lqAdvance_queueStep (s : State) (hk : 3 ∈ ks) : QueueStep q ks s (lqAdvance s q) := csrPut_queueStep s q 3 _ ks hk

theorem lqPut64_queueStep (s : State) {k : Nat} (v : Nat) (hk : k ∈ ks) (hk' : k + 1 ∈ ks) : QueueStep q ks s (lqPut64 s q k v) :=
  (csrPut_queueStep s q k _ ks hk).trans (csrPut_queueStep _ q (k + 1) _ ks hk')

/-- The completion word goes to memory, or FAULT of the queue is set (R63). -/
theorem writeSignal_queueStep (s : State) (part tag signal deadline status : Nat) (hk : 5 ∈ ks) :
    QueueStep q ks s (writeSignal s part q tag signal deadline status) := by
  unfold writeSignal
  dsimp only
  refine QueueStep.trans ?_ (post_queueStep ..)
  split
  · exact .refl q ks s
  · split
    next t ht => exact (schedWrite_only _ _ _ _ _ _ _ ht).queueStep q ks
    next => exact lqFault_queueStep s hk

/-- A packet that retires writes its word and moves the ring's head, unless it came from the tape (R66, R73). -/
theorem retirePacket_queueStep (s : State) (p : Packet) (status : Nat) (h5 : 5 ∈ ks) (h3 : p.popped = false → 3 ∈ ks) :
    QueueStep q ks s (retirePacket s q p status) := by
  unfold retirePacket
  dsimp only
  have hw : QueueStep q ks s _ :=
    writeSignal_queueStep s (partOfQueue s q) (pkTag p.bytes) (pkSignal p.bytes) (pkDeadline p.bytes) status h5
  refine (hw.trans (setQueue_queueStep _ q ks (fun r => { r with head := none }) rfl)).trans ?_
  split
  · exact post_queueStep ..
  next hp => exact lqAdvance_queueStep _ (h3 (Bool.not_eq_true _ ▸ hp))

/-- Judging a packet retires it, makes it Ready or leaves it (R66). -/
theorem judge_queueStep (s : State) (h5 : 5 ∈ ks) (h3 : (∀ p, (queueOf s q).head = some p → p.popped = true) ∨ 3 ∈ ks) :
    QueueStep q ks s (judge s q) := by
  unfold judge
  split
  · exact .refl q ks s
  next p hp =>
    have hpop : p.popped = false → 3 ∈ ks := fun hn => h3.elim (fun h => nomatch (h p hp).symm.trans hn) id
    split
    · exact .refl q ks s
    · refine QueueStep.ite (retirePacket_queueStep s p _ h5 hpop) (.ite (retirePacket_queueStep s p _ h5 hpop) (.ite ?_ (.refl q ks s)))
      exact ((setQueue_queueStep s q ks _ rfl).trans (post_queueStep ..)).trans (post_queueStep ..)

/-- The tape's registers alone take a packet's region (R73). -/
theorem takeTape_queueStep (s : State) (l : List Byte) (hk : ∀ k, 6 ≤ k → k ≤ 11 → k ∈ ks) : QueueStep q ks s (takeTape s q l) := by
  unfold takeTape
  split
  · exact ((lqPut64_queueStep s _ (hk 6 (by omega) (by omega)) (hk 7 (by omega) (by omega))).trans
      (lqPut64_queueStep _ _ (hk 8 (by omega) (by omega)) (hk 9 (by omega) (by omega)))).trans
      (lqPut64_queueStep _ _ (hk 10 (by omega) (by omega)) (hk 11 (by omega) (by omega)))
  · exact .refl q ks s

/-- A packet that becomes the head retires or waits; one from the tape leaves the ring and the tape's region alone (R66, R73). -/
theorem present_queueStep (s : State) (l : List Byte) (popped launched : Bool) (h5 : 5 ∈ ks)
    (hk : popped = false → 3 ∈ ks ∧ ∀ k, 6 ≤ k → k ≤ 11 → k ∈ ks) : QueueStep q ks s (present s q l popped launched) := by
  unfold present
  dsimp only
  refine QueueStep.ite (retirePacket_queueStep s _ _ h5 fun hp => (hk hp).1) ?_
  generalize hs1 : (if (!popped && pkType l == 0 && pkTapeon l) = true then takeTape s q l else s) = s1
  have h1 : QueueStep q ks s s1 := by
    rw [← hs1]
    split
    next ht =>
      simp only [Bool.and_eq_true, Bool.not_eq_true'] at ht
      exact takeTape_queueStep s l (hk ht.1.1).2
    next => exact .refl q ks s
  refine h1.trans ((setQueue_queueStep s1 q ks (fun r => { r with head := some ⟨l, .waiting, popped, launched, 0, 0⟩ }) rfl).trans ?_)
  generalize hs2 : setQueue s1 q (fun r => { r with head := some ⟨l, .waiting, popped, launched, 0, 0⟩ }) = s2
  have hhead : (queueOf s2 q).head = some ⟨l, .waiting, popped, launched, 0, 0⟩ := by rw [← hs2, queueOf_setQueue_same]
  generalize hs3 : (if ((upTo 4).any fun k => pkKind l k == 1) = true then postFree s2 4096 .dependencePoll else s2) = s3
  have h3 : QueueStep q ks s2 s3 ∧ queueOf s3 q = queueOf s2 q := by
    rw [← hs3]
    split
    · exact ⟨postFree_queueStep .., rfl⟩
    · exact ⟨.refl q ks s2, rfl⟩
  generalize hs4 : (if (pkMissdrop l && pkDeadline l != 0) = true then
    post s3 ((13 * (pkDeadline l + 1) + 9) / 10 - s3.clk) (.deadlineMiss q) else s3) = s4
  have h4 : QueueStep q ks s3 s4 ∧ queueOf s4 q = queueOf s3 q := by
    rw [← hs4]
    split
    · exact ⟨post_queueStep .., rfl⟩
    · exact ⟨.refl q ks s3, rfl⟩
  refine (h3.1.trans h4.1).trans (judge_queueStep s4 h5 ?_)
  rw [h4.2, h3.2, hhead]
  cases popped with
  | true => exact .inl fun p hp => by rw [← Option.some.inj hp]
  | false => exact .inr (hk rfl).1

/-- The registers of a queue that its head's examination can change: LQHD, LQCTL and the tape's (R64). -/
def pumped : List Nat := [3, 5, 6, 7, 8, 9, 10, 11]

theorem examine_queueStep (q : Nat) : ∀ (fuel : Nat) (s : State), QueueStep q pumped s (examine s q fuel)
  | 0, s => .refl q pumped s
  | fuel + 1, s => by
    unfold examine
    dsimp only
    refine QueueStep.ite (.refl q pumped s) (.ite (.refl q pumped s) ?_)
    split
    · exact lqReadFault_queueStep s (by decide)
    · refine ((setQueue_queueStep s q pumped (fun r => { r with launched := r.launched.filter fun i => i != lqHd s q }) rfl).trans
        (present_queueStep _ _ false _ (by decide) fun _ => ⟨by decide, fun k h6 h11 => ?_⟩)).trans (examine_queueStep q fuel _)
      simp only [pumped, List.mem_cons]
      omega

/-- A queue that goes on changes its own registers alone (R65, R66). -/
theorem pump_queueStep (s : State) (q : Nat) : QueueStep q pumped s (pump s q) :=
  (judge_queueStep s (by decide) (.inr (by decide))).trans (examine_queueStep q _ _)

/-- An examination with a packet at the head changes nothing. -/
theorem examine_of_head {s : State} {q : Nat} (h : (queueOf s q).head.isSome = true) (fuel : Nat) : examine s q fuel = s := by
  cases fuel with
  | zero => rfl
  | succ => exact if_pos h

/-- One that has nothing to present changes nothing. -/
theorem examine_of_idle {s : State} {q : Nat} (h : (queueOf s q).rewind.isSome = true ∨ lqEn s q = false ∨ lqHd s q = lqTl s q) (fuel : Nat) :
    examine s q fuel = s := by
  cases fuel with
  | zero => rfl
  | succ =>
    have hidle : ((queueOf s q).rewind.isSome || !lqEn s q || lqHd s q == lqTl s q) = true := by
      simpa [or_assoc] using h
    unfold examine
    simp only [hidle, if_true, ite_self]

theorem judge_of_none {s : State} {q : Nat} (h : (queueOf s q).head = none) : judge s q = s := by
  simp only [judge, h]

theorem pump_of_idle {s : State} {q : Nat} (hn : (queueOf s q).head = none)
    (h : (queueOf s q).rewind.isSome = true ∨ lqEn s q = false ∨ lqHd s q = lqTl s q) : pump s q = s := by
  rw [pump, judge_of_none hn, examine_of_idle h]

end Sys2Proof.Machine
end

section
/-!
SUPPORT. TAPE and LAUNCH (R74, R75): what each does once the beam's earlier accesses have been performed, and what its issue leaves.
-/
namespace Sys2Proof.Machine

open Sys2Proof

set_option Elab.async false

/-! ## Instructions that release first (R147, R152) -/

section Released

variable {s u : State} {x : Sel} {sc : Scope} {f : State → Res} {i : Instr} {e : Effect}

theorem released_of_held (h : heldBack s x sc = true) : released s x.key sc f = .hold (performAll s x.key) := if_pos h

theorem released_of_calm (h : heldBack s x sc = false) : released s x.key sc f = f (releaseAt s x.key sc) :=
  if_neg (Bool.eq_false_iff.1 h)

/-- What a release changes is no part of a beam's block, gang and grid. -/
theorem homeOf_releaseAt (s : State) (k : Nat) (sc : Scope) (b : Beam) : homeOf (releaseAt s k sc) b = homeOf s b :=
  (releaseAt_only s k sc).field (homeOf · b) fun _ _ _ _ _ _ _ _ => rfl

theorem exec_trapped {tr : Trap} (ht : Turn s x) (hi : exec i s = issue 4 e s) (he : e x s = .trap u tr) :
    exec i s = .next (trapped u x tr) := by
  rw [hi, issue_selected ht.1, he]
  rfl

/-- An effect that leaves the beam as c, with a runnable lane, ends with the run's advance and what counts the issue. -/
theorem exec_done_eq {c : Beam} (ht : Turn s x) (hi : exec i s = issue 4 e s) (he : e x s = .done u []) (hc : beamOf u x.key = some c)
    (hr : lanesIn c .runnable ≠ []) :
    exec i s = .next (retire (setBeam u x.key (beamLanes c x.run fun _ l => nextPc 4 l)) x.key) := by
  have hall : x.run.filter (fun i => !List.contains [] i) = x.run := by simp
  have hadv : advance u x [] (nextPc 4) = setBeam u x.key (beamLanes c x.run fun _ l => nextPc 4 l) := by
    simp only [advance, hall, onLanes, onBeam_some hc]
  have hb := retire_beams (beamOf_setBeam_same u x.key (beamLanes c x.run fun _ l => nextPc 4 l))
  rw [hi, issue_selected ht.1, he, finish, hadv, settleRun_runnable hb (runnable_beamLanes (fun _ _ => rfl) hr)]

theorem beamOf_advanced (u : State) (x : Sel) (c : Beam) :
    beamOf (retire (setBeam u x.key (beamLanes c x.run fun _ l => nextPc 4 l)) x.key) x.key = some (finished u x 4 c) :=
  retire_beams (beamOf_setBeam_same u x.key _)

/-- A lane of a beam whose run has moved on. -/
theorem laneOf_finished {c : Beam} (hrun : ∀ j ∈ x.run, j < c.lanes.length) (j : Nat) :
    laneOf (finished u x 4 c) j = if j ∈ x.run then nextPc 4 (laneOf c j) else laneOf c j :=
  laneOf_beamLanes_of_lt (f := fun _ l => nextPc 4 l) hrun j

/-- A run that goes on and does nothing else to its lanes. -/
theorem advanced_finished {c : Beam} (ht : Turn s x) (hl : c.lanes = x.beam.lanes) : Advanced x (finished u x 4 c) := by
  have hlane : ∀ j, laneOf x.beam j = laneOf c j := fun j => by rw [laneOf, laneOf, hl]
  intro j
  rw [laneOf_finished (fun j hj => hl ▸ run_lt ht.1 hj), hlane]
  split
  · exact ⟨⟨fun _ _ => rfl, rfl, rfl, rfl, rfl, rfl, rfl, rfl, rfl⟩, rfl, rfl⟩
  · exact ⟨SameButRegs.refl _, rfl, (BitVec.add_zero _).symm⟩

end Released

/-! ## TAPE (R74) -/

theorem tapeWrite_only (part : Nat) : ∀ (l : List (List Byte)) (s : State) (t : Nat), OnlyMemory s (tapeWrite part s t l)
  | [], s, _ => .refl s
  | r :: rest, s, t => by
    refine OnlyMemory.trans ?_ (tapeWrite_only part rest _ _)
    cases h : schedWrite part false 3 s t r with
    | none => exact .refl s
    | some w => exact schedWrite_only _ _ _ _ _ _ _ h

theorem lqTape_of_csr {s t : State} (h : t.csr = s.csr) (q k : Nat) : lqTape t q k = lqTape s q k := by
  simp only [lqTape, csrN, csrGet, h]

section Tape

variable {s u : State} {x : Sel} {a : Src} {bl : Block} {g : Gang} {gr : Grid} {ls : List (List Byte)}

/-- TAPE once its operands are full and the beam's earlier accesses are performed. -/
def tapeEffect (a : Src) (x : Sel) (bl : Block) (g : Gang) (gr : Grid) (u : State) : Res :=
  let full : Trap := { trapOf x 0x10 with lanes := maskOf x.run }
  if gr.tapeon = false then .trap u full
  else
    match eachLane (tapeLane x u bl g gr a) x.run with
    | .error t => .trap u t
    | .ok ls =>
      let top := lqTape u gr.queue 10
      let end_ := top + 256 * x.run.length
      if lqTape u gr.queue 8 < end_ then .trap u full
      else if !(upTo ls.length).all fun i => slotOpen u (selCore x) (selPart u x) (top + 256 * i) then .hold u
      else .done (tapeWrite (selPart u x) (lqPut64 u gr.queue 10 end_) top (ls.map (tapeRecord u bl))) []

theorem effTape_of_calm (hh : homeOf s x.beam = some (bl, g, gr)) (hr : ready x x.run [srcUse a 1] [] = true)
    (hc : heldBack s x .dev = false) : effTape a x s = tapeEffect a x bl g gr (releaseAt s x.key .dev) := by
  have hhome := homeOf_releaseAt s x.key .dev x.beam
  unfold effTape
  rw [gated_ready hr, released_of_calm hc]
  generalize releaseAt s x.key .dev = u at hhome
  simp only [hhome, hh]
  rfl

theorem effTape_of_held (hr : ready x x.run [srcUse a 1] [] = true) (hc : heldBack s x .dev = true) :
    effTape a x s = .hold (performAll s x.key) := by
  unfold effTape
  rw [gated_ready hr, released_of_held hc]

theorem tapeEffect_off (h : gr.tapeon = false) :
    tapeEffect a x bl g gr u = .trap u { trapOf x 0x10 with lanes := maskOf x.run } := if_pos h

theorem tapeEffect_error {tr : Trap} (hon : gr.tapeon = true) (hl : eachLane (tapeLane x u bl g gr a) x.run = .error tr) :
    tapeEffect a x bl g gr u = .trap u tr := by
  simp only [tapeEffect, hon, hl, Bool.true_eq_false, if_false]

/-- With its records in hand TAPE traps for want of room, waits for a link, or writes. -/
theorem tapeEffect_ok (hon : gr.tapeon = true) (hl : eachLane (tapeLane x u bl g gr a) x.run = .ok ls) :
    tapeEffect a x bl g gr u =
      let top := lqTape u gr.queue 10
      let end_ := top + 256 * x.run.length
      if lqTape u gr.queue 8 < end_ then .trap u { trapOf x 0x10 with lanes := maskOf x.run }
      else if !(upTo ls.length).all fun i => slotOpen u (selCore x) (selPart u x) (top + 256 * i) then .hold u
      else .done (tapeWrite (selPart u x) (lqPut64 u gr.queue 10 end_) top (ls.map (tapeRecord u bl))) [] := by
  simp only [tapeEffect, hon, hl, Bool.true_eq_false, if_false]

/-- TAPE that writes: the records stand at the tape's top, which has moved. -/
theorem exec_tape_writes {part end_ top : Nat} {rs : List (List Byte)} (ht : Turn s x) (hu : Performs x.key s u)
    (heff : effTape a x s = .done (tapeWrite part (lqPut64 u gr.queue 10 end_) top rs) []) (hle : end_ < 2 ^ 64) :
    ∃ t b, exec (.tape a) s = .next t ∧ beamOf t x.key = some b ∧ Advanced x b ∧ lqTape t gr.queue 10 = end_ ∧
      t.mem = (tapeWrite part (lqPut64 u gr.queue 10 end_) top rs).mem := by
  have hw := tapeWrite_only part rs (lqPut64 u gr.queue 10 end_) top
  obtain ⟨c, hcu, hcb, -⟩ := hu.beam x.beam ht.2
  have hlanes : c.lanes = x.beam.lanes := by rw [hcb]
  generalize tapeWrite part (lqPut64 u gr.queue 10 end_) top rs = w at heff hw
  have hcw : beamOf w x.key = some c := by rw [beamOf, hw.beams]; exact hcu
  have hrun : lanesIn c .runnable ≠ [] := by rw [lanesIn, hlanes]; exact selected_runnable ht.1
  refine ⟨_, _, exec_done_eq ht rfl heff hcw hrun, beamOf_advanced w x c, advanced_finished ht hlanes, ?_, rfl⟩
  exact (lqTape_of_csr (s := lqPut64 u gr.queue 10 end_) hw.csr gr.queue 10).trans (lqTape_lqPut64 u gr.queue 10 hle)

end Tape

/-! ## LAUNCH (R75) -/

section Launch

variable {s u : State} {x : Sel} {a : Src} {d i p : Nat} {bl : Block} {g : Gang} {gr : Grid}

theorem launchPacket_of_shut {part : Nat} {l : List Byte}
    (h : partOfQueue u (pkQsel l) ≠ part ∨ lqEn u (pkQsel l) = false ∨ lqDev u (pkQsel l) = false ∨ tailHeld u (pkQsel l) = true) :
    launchPacket u part l = (2, u) ∧ launchSlot u part l = none := by
  refine ⟨if_pos h, if_pos ?_⟩
  simp only [← or_assoc] at h ⊢
  exact .inl h

theorem launchPacket_of_full {part : Nat} {l : List Byte}
    (h : ¬ (partOfQueue u (pkQsel l) ≠ part ∨ lqEn u (pkQsel l) = false ∨ lqDev u (pkQsel l) = false ∨ tailHeld u (pkQsel l) = true))
    (hf : (lqTl u (pkQsel l) + 1) % lqN u (pkQsel l) = lqHd u (pkQsel l)) :
    launchPacket u part l = (1, u) ∧ launchSlot u part l = none :=
  ⟨(if_neg h).trans (if_pos hf), if_pos (.inr (.inr (.inr (.inr hf))))⟩

theorem launchSlot_of_room {part : Nat} {l : List Byte}
    (h : ¬ (partOfQueue u (pkQsel l) ≠ part ∨ lqEn u (pkQsel l) = false ∨ lqDev u (pkQsel l) = false ∨ tailHeld u (pkQsel l) = true))
    (hf : (lqTl u (pkQsel l) + 1) % lqN u (pkQsel l) ≠ lqHd u (pkQsel l)) :
    launchSlot u part l = some (lqBase u (pkQsel l) + 256 * lqTl u (pkQsel l)) := by
  refine if_neg fun hn => ?_
  simp only [← or_assoc] at h hn
  exact hn.elim h hf

/-- A packet that is written moves the tail, which what the queue then presents leaves alone. -/
theorem launchPacket_of_written {w : State} {part : Nat} {l : List Byte}
    (h : ¬ (partOfQueue u (pkQsel l) ≠ part ∨ lqEn u (pkQsel l) = false ∨ lqDev u (pkQsel l) = false ∨ tailHeld u (pkQsel l) = true))
    (hf : (lqTl u (pkQsel l) + 1) % lqN u (pkQsel l) ≠ lqHd u (pkQsel l))
    (hw : schedWrite part false 3 u (lqBase u (pkQsel l) + 256 * lqTl u (pkQsel l)) l = some w) :
    ∃ t, launchPacket u part l = (0, t) ∧ t.beams = u.beams ∧ lqTl t (pkQsel l) = (lqTl u (pkQsel l) + 1) % lqN u (pkQsel l) := by
  have hval : launchPacket u part l = (0, pump (csrPut (setQueue w (pkQsel l) fun r => { r with launched := lqTl u (pkQsel l) :: r.launched })
      0 (lq (pkQsel l) 4) (BitVec.ofNat 32 ((lqTl u (pkQsel l) + 1) % lqN u (pkQsel l)))) (pkQsel l)) := by
    unfold launchPacket
    rw [if_neg h]
    dsimp only
    rw [if_neg hf, hw]
  have hpump := pump_queueStep (csrPut (setQueue w (pkQsel l) fun r => { r with launched := lqTl u (pkQsel l) :: r.launched })
      0 (lq (pkQsel l) 4) (BitVec.ofNat 32 ((lqTl u (pkQsel l) + 1) % lqN u (pkQsel l)))) (pkQsel l)
  refine ⟨_, hval, hpump.beams.trans (schedWrite_only _ _ _ _ _ _ _ hw).beams, (hpump.csrN (by decide)).trans ?_⟩
  rw [csrN_csrPut_lq, if_pos rfl]
  exact ringIndex_toNat u _ _

/-- LAUNCH of one lane once its operands are full and the beam's earlier accesses are performed. -/
def launchEffect (a : Src) (d : Nat) (x : Sel) (bl : Block) (g : Gang) (gr : Grid) (i : Nat) (u : State) : Res :=
  match recordPlace x u bl g gr a i with
  | .error t => .trap u t
  | .ok p =>
    let l := localBytes u p 256
    let r := launchPacket u (selPart u x) l
    if ((launchSlot u (selPart u x) l).map (slotOpen u (selCore x) (selPart u x))).getD true = true then
      .done (onLanes r.2 x.key [i] fun _ l => laneSet l d (BitVec.ofNat 32 r.1)) []
    else .hold u

theorem effLaunch_of_held (hr : ready x x.run [srcUse a 1] [regUse d 1] = true) (hc : heldBack s x .dev = true) :
    effLaunch a d x s = .hold (performAll s x.key) := by
  unfold effLaunch
  rw [gated_ready hr, released_of_held hc]

theorem effLaunch_of_calm (hh : homeOf s x.beam = some (bl, g, gr)) (hr : ready x x.run [srcUse a 1] [regUse d 1] = true)
    (hc : heldBack s x .dev = false) (hi : x.run = [i]) :
    effLaunch a d x s = launchEffect a d x bl g gr i (releaseAt s x.key .dev) := by
  have hhome := homeOf_releaseAt s x.key .dev x.beam
  unfold effLaunch
  rw [gated_ready hr, released_of_calm hc]
  generalize releaseAt s x.key .dev = u at hhome
  simp only [hhome, hh, hi, eachLane, launchEffect]
  cases recordPlace x u bl g gr a i with
  | error t => rfl
  | ok p =>
    simp only [launchOpen, Bool.and_true]
    rfl

theorem laneReg_laneSet_same (l : Lane) (d : Nat) (v : Word) : laneReg (laneSet l d v) d = v := by
  simp only [laneReg, laneSet, lookD, look_put_same]

theorem not_mem_laneSet_empty (l : Lane) (d : Nat) (v : Word) : d ∉ (laneSet l d v).empty := fun hm => by
  have hne := (List.mem_filter.1 hm).2
  simp at hne

/-- An effect that gives the run's lanes a value, the beam otherwise as a release left it. -/
theorem exec_delivers {j : Instr} {e : Effect} {w : State} {v : Word} (ht : Turn s x) (hj : exec j s = issue 4 e s) (hu : Performs x.key s u)
    (hw : w.beams = u.beams) (heff : e x s = .done (onLanes w x.key x.run fun _ l => laneSet l d v) []) :
    ∃ t b, exec j s = .next t ∧ beamOf t x.key = some b ∧ (Delivered x b d fun _ => v) ∧ t.csr = w.csr := by
  obtain ⟨c, hcu, hcb, -⟩ := hu.beam x.beam ht.2
  have hlanes : c.lanes = x.beam.lanes := by rw [hcb]
  have hcw : beamOf w x.key = some c := by rw [beamOf, hw]; exact hcu
  have hlt : ∀ j ∈ x.run, j < c.lanes.length := fun j hj => hlanes ▸ run_lt ht.1 hj
  have hrun : lanesIn (beamLanes c x.run fun _ l => laneSet l d v) .runnable ≠ [] :=
    runnable_beamLanes (fun _ _ => rfl) (by rw [lanesIn, hlanes]; exact selected_runnable ht.1)
  rw [onLanes, onBeam_some hcw] at heff
  refine ⟨_, _, exec_done_eq ht hj heff (beamOf_setBeam_same _ _ _) hrun, beamOf_advanced _ x _, fun j => ?_, rfl⟩
  have hlane : laneOf x.beam j = laneOf c j := by rw [laneOf, laneOf, hlanes]
  rw [laneOf_finished (by simpa [beamLanes, mapLanes_length] using hlt), laneOf_beamLanes_of_lt hlt, hlane]
  by_cases hj : j ∈ x.run
  · rw [if_pos hj, if_pos hj, if_pos hj]
    exact ⟨sameButRegs_laneSet (laneOf c j) d v, rfl, rfl, fun _ => ⟨laneReg_laneSet_same _ _ _, not_mem_laneSet_empty _ _ v⟩⟩
  · rw [if_neg hj, if_neg hj, if_neg hj]
    exact ⟨SameButRegs.of_nil (SameButRegs.refl _) _, rfl, (BitVec.add_zero _).symm, fun h => absurd h hj⟩

/-- LAUNCH of one lane whose slot, if it writes one, can be reached: the lane takes the status. -/
theorem exec_launch_answers {n : Nat} {w : State} (ht : Turn s x) (hu : Performs x.key s u)
    (heff : effLaunch a d x s = launchEffect a d x bl g gr i u) (hi : x.run = [i]) (hp : recordPlace x u bl g gr a i = .ok p)
    (hpk : launchPacket u (selPart u x) (localBytes u p 256) = (n, w)) (hw : w.beams = u.beams)
    (hopen : ((launchSlot u (selPart u x) (localBytes u p 256)).map (slotOpen u (selCore x) (selPart u x))).getD true = true) :
    ∃ t b, exec (.launch a d) s = .next t ∧ beamOf t x.key = some b ∧ (Delivered x b d fun _ => BitVec.ofNat 32 n) ∧ t.csr = w.csr := by
  refine exec_delivers ht rfl hu hw (heff.trans ?_)
  simp only [launchEffect, hp, hopen, if_true, hpk, hi]

end Launch

end Sys2Proof.Machine

namespace Sys2Proof.Certificates

open Sys2Proof Sys2Proof.Machine

/-- Settles O46, by the effect of each instruction behind its release, and what a queue that goes on leaves alone. -/
theorem tapeAndLaunch : Obligations.TapeAndLaunch := by
  unfold Obligations.TapeAndLaunch
  intro s x a bl g gr ht hh hr
  dsimp only
  have hu := releaseAt_performs s x.key .dev
  have htape := fun hcalm => effTape_of_calm (bl := bl) (g := g) (gr := gr) hh hr hcalm
  have hlaunch := fun d i hcalm hrd hi => effLaunch_of_calm (d := d) (i := i) hh (a := a) hrd hcalm hi
  generalize releaseAt s x.key .dev = u at hu htape hlaunch
  refine ⟨fun hheld => ⟨exec_hold ht rfl (effTape_of_held hr hheld), fun d hrd => exec_hold ht rfl (effLaunch_of_held hrd hheld)⟩,
    fun hcalm hoff => exec_trapped ht rfl ((htape hcalm).trans (tapeEffect_off hoff)),
    fun tr hcalm hon hl => exec_trapped ht rfl ((htape hcalm).trans (tapeEffect_error hon hl)),
    fun ls hcalm hon hl => ?_, fun d i tr hcalm hi hrd hp => ?_, fun d i p hcalm hi hrd hp => ?_⟩
  · have heff := (htape hcalm).trans (tapeEffect_ok hon hl)
    refine ⟨fun hle hshut => ?_, fun hle hopen => ?_, fun hlt => exec_trapped ht rfl (heff.trans (if_pos hlt))⟩
    · exact exec_hold ht rfl (heff.trans ((if_neg (Nat.not_lt.2 hle)).trans (if_pos (Bool.not_eq_true' _ ▸ hshut))))
    · refine exec_tape_writes ht hu (heff.trans ((if_neg (Nat.not_lt.2 hle)).trans (if_neg ?_))) (Nat.lt_of_le_of_lt hle (lqTape_lt u _ _))
      rw [hopen]
      exact nofun
  · refine exec_trapped ht rfl ((hlaunch d i hcalm hrd hi).trans ?_)
    simp only [launchEffect, hp]
  · have heff := hlaunch d i hcalm hrd hi
    refine ⟨fun hshut => ?_, fun ⟨hpart, hen, hdev, hheld⟩ => ?_⟩
    · obtain ⟨hpk, hslot⟩ := launchPacket_of_shut hshut
      obtain ⟨t, b, he, hb, hd, -⟩ := exec_launch_answers ht hu heff hi hp hpk rfl (by rw [hslot]; rfl)
      exact ⟨t, b, he, hb, hd⟩
    · have hgo : ¬ (partOfQueue u (pkQsel (localBytes u p 256)) ≠ selPart u x ∨ lqEn u (pkQsel (localBytes u p 256)) = false ∨
          lqDev u (pkQsel (localBytes u p 256)) = false ∨ tailHeld u (pkQsel (localBytes u p 256)) = true) := by
        simp only [hpart, hen, hdev, hheld, ne_eq, not_true_eq_false, Bool.true_eq_false, Bool.false_eq_true, or_self, not_false_eq_true]
      refine ⟨fun hfull => ?_, fun hroom hshut => ?_, fun hroom hopen w hw => ?_⟩
      · obtain ⟨hpk, hslot⟩ := launchPacket_of_full hgo hfull
        obtain ⟨t, b, he, hb, hd, -⟩ := exec_launch_answers ht hu heff hi hp hpk rfl (by rw [hslot]; rfl)
        exact ⟨t, b, he, hb, hd⟩
      · refine exec_hold ht rfl (heff.trans ?_)
        simp only [launchEffect, hp, launchSlot_of_room hgo hroom, Option.map_some, Option.getD_some, hshut, Bool.false_eq_true, if_false]
      · obtain ⟨w', hpk, hbeams, htl⟩ := launchPacket_of_written hgo hroom hw
        obtain ⟨t, b, he, hb, hd, hcsr⟩ := exec_launch_answers ht hu heff hi hp hpk hbeams (by
          rw [launchSlot_of_room hgo hroom, Option.map_some, Option.getD_some, hopen])
        exact ⟨t, b, he, hb, hd, by rw [← htl, lqTl, lqTl, csrN, csrN, csrGet, csrGet, hcsr]⟩

end Sys2Proof.Certificates
end

section
/-!
SUPPORT. What a gang that leaves its cores takes with it, and what it leaves as it was (R79, R311).
-/
namespace Sys2Proof.Machine

open Sys2Proof

set_option Elab.async false

/-! ## Gangs that leave (R79, R311) -/

theorem look_filter_key {α : Type} (p : Nat → Bool) : ∀ (m : NMap α) (k : Nat),
    look (m.filter fun x => p x.1) k = if p k = true then look m k else none
  | [], k => (ite_self _).symm
  | (a, v) :: t, k => by
    have ih := look_filter_key p t k
    by_cases ha : p a = true
    · rw [List.filter_cons_of_pos (p := fun x : Nat × α => p x.1) ha, look_cons, look_cons, ih]
      by_cases hk : a = k
      · rw [if_pos hk, if_pos hk, if_pos (hk ▸ ha)]
      · rw [if_neg hk, if_neg hk]
    · rw [List.filter_cons_of_neg (p := fun x : Nat × α => p x.1) ha, ih]
      by_cases hk : p k = true
      · rw [if_pos hk, if_pos hk, look_cons, if_neg fun (e : a = k) => ha (e ▸ hk)]
      · rw [if_neg hk, if_neg hk]

/-- The state t differs from s in what gangs that leave take with them or leave behind: a block stands as it stood or is gone with its beams,
no beam has appeared, and gangs, grids, queues, registers and the clock are as they were. -/
structure GangsLeave (s t : State) : Prop where
  same : t = { s with mem := t.mem, bad := t.bad, l2 := t.l2, cores := t.cores, aliased := t.aliased, fresh := t.fresh, beams := t.beams,
                      blocks := t.blocks, agenda := t.agenda, bins := t.bins, clusters := t.clusters, commits := t.commits, pool := t.pool }
  block : ∀ key, look t.blocks key = look s.blocks key ∨
    (look t.blocks key = none ∧ ∀ b, look s.blocks key = some b → ∀ k ∈ blockBeams b, beamOf t k = none)
  gone : ∀ k, beamOf s k = none → beamOf t k = none

namespace GangsLeave

variable {s t u : State}

theorem refl (s : State) : GangsLeave s s := ⟨rfl, fun _ => .inl rfl, fun _ h => h⟩

theorem trans (h : GangsLeave s t) (g : GangsLeave t u) : GangsLeave s u := by
  refine ⟨by rw [g.same, h.same], fun key => ?_, fun k hk => g.gone k (h.gone k hk)⟩
  obtain hs | ⟨hn, hbeams⟩ := h.block key
  · rw [← hs]
    exact g.block key
  · refine .inr ⟨?_, fun b hb k hk => g.gone k (hbeams b hb k hk)⟩
    obtain hs | ⟨hn', -⟩ := g.block key
    · rw [hs, hn]
    · exact hn'

theorem foldl {α : Type} {f : State → α → State} (hf : ∀ s a, GangsLeave s (f s a)) : ∀ (l : List α) (s : State), GangsLeave s (l.foldl f s)
  | [], s => .refl s
  | a :: l, s => (hf s a).trans (foldl hf l (f s a))

/-- An operation that changes neither blocks nor beams. -/
theorem of_same (h : t = { s with mem := t.mem, bad := t.bad, l2 := t.l2, cores := t.cores, aliased := t.aliased, fresh := t.fresh,
                                  agenda := t.agenda, bins := t.bins, clusters := t.clusters, commits := t.commits, pool := t.pool }) :
    GangsLeave s t :=
  ⟨by rw [h], fun _ => .inl (by rw [h]), fun _ hk => by rw [h]; exact hk⟩

theorem of_only (h : OnlyMemory s t) : GangsLeave s t := of_same (by rw [h.same])

theorem field {α : Type} (h : GangsLeave s t) (f : State → α)
    (hf : ∀ (s : State) m b l c a n x k d i o e p, f { s with mem := m, bad := b, l2 := l, cores := c, aliased := a, fresh := n, beams := x, blocks := k, agenda := d, bins := i, clusters := o, commits := e, pool := p } = f s) :
    f t = f s := by
  rw [h.same, hf]

theorem gangs (h : GangsLeave s t) : t.gangs = s.gangs := h.field (·.gangs) fun _ _ _ _ _ _ _ _ _ _ _ _ _ _ => rfl
theorem grids (h : GangsLeave s t) : t.grids = s.grids := h.field (·.grids) fun _ _ _ _ _ _ _ _ _ _ _ _ _ _ => rfl
theorem clk (h : GangsLeave s t) : t.clk = s.clk := h.field (·.clk) fun _ _ _ _ _ _ _ _ _ _ _ _ _ _ => rfl
theorem queues (h : GangsLeave s t) : t.queues = s.queues := h.field (·.queues) fun _ _ _ _ _ _ _ _ _ _ _ _ _ _ => rfl

/-- A block that is gone stays so. -/
theorem stays (h : GangsLeave s t) {key : Nat} (hn : look s.blocks key = none) : look t.blocks key = none :=
  (h.block key).elim (fun hs => hs.trans hn) And.left

end GangsLeave

variable {s t : State}

theorem OnlyBeam.gangsLeave {k : Nat} (h : OnlyBeam k s t) (hn : beamOf s k = none → beamOf t k = none) : GangsLeave s t := by
  refine ⟨by rw [h.same], fun _ => .inl (by rw [h.same]), fun j hj => ?_⟩
  by_cases e : j = k
  · exact e ▸ hn (e ▸ hj)
  · rw [h.others j e, hj]

theorem performAll_of_none {k : Nat} (h : beamOf s k = none) : performAll s k = s := by
  have hperf : performWhere s k (fun _ => true) = s := by simp only [performWhere, h]
  simp only [performAll, hperf, drainWhere, h]

theorem performAll_gangsLeave (s : State) (k : Nat) : GangsLeave s (performAll s k) :=
  (performAll_only s k).gangsLeave fun hn => by rw [performAll_of_none hn, hn]

theorem releaseAt_gangsLeave (s : State) (k : Nat) (sc : Scope) : GangsLeave s (releaseAt s k sc) :=
  (performAll_gangsLeave s k).trans (.of_only (releaseCaches_only _ _ sc))

theorem leaveBeam_gangsLeave (s : State) (b : Block) (k : Nat) : GangsLeave s (leaveBeam s b k) := by
  unfold leaveBeam
  split
  · exact releaseAt_gangsLeave s k .dev
  all_goals exact performAll_gangsLeave s k

theorem setHandle_gangsLeave (s : State) (core e : Nat) (f : Handle → Handle) : GangsLeave s (setHandle s core e f) := .of_same rfl

theorem post_gangsLeave (s : State) (d : Nat) (i : Instr) : GangsLeave s (post s d i) := .of_same rfl

/-- A block that leaves its core is gone, and its beams with it (R79). -/
theorem clearBlock_gangsLeave (grid : Nat) (s : State) (key : Nat) :
    GangsLeave s (clearBlock grid s key) ∧ look (clearBlock grid s key).blocks key = none := by
  unfold clearBlock
  split
  next hn => exact ⟨.refl s, hn⟩
  next b hb =>
    dsimp only
    have h1 : GangsLeave s _ := GangsLeave.foldl (fun s k => leaveBeam_gangsLeave s b k) (blockBeams b) s
    have h2 := h1.trans (GangsLeave.foldl (fun s e => setHandle_gangsLeave s b.core e fun h => { h with state := .free, drn := 0, pf := false }) b.handles _)
    generalize List.foldl _ _ b.handles = s2 at h2
    refine ⟨h2.trans ⟨rfl, fun j => ?_, fun k hk => ?_⟩, look_del_same _ _⟩
    · by_cases e : j = key
      · refine .inr ⟨e ▸ look_del_same _ _, fun c hc k hk => ?_⟩
        have hbc : c = b := by
          obtain hs | ⟨hn, -⟩ := h2.block key
          · exact Option.some.inj ((e ▸ hc : look s2.blocks key = some c).symm.trans (hs.trans hb))
          · exact nomatch (e ▸ hc : look s2.blocks key = some c).symm.trans hn
        refine (look_filter_key (fun k => !(blockBeams b).contains k) s2.beams k).trans (if_neg ?_)
        simpa using hbc ▸ hk
      · exact .inl (look_del_other _ _ _ e)
    · refine (look_filter_key (fun k => !(blockBeams b).contains k) s2.beams k).trans ?_
      split
      · exact hk
      · rfl

theorem clearBlocks_gangsLeave (grid : Nat) : ∀ (l : List Nat) (s : State), GangsLeave s (l.foldl (clearBlock grid) s) ∧
    ∀ key ∈ l, look (l.foldl (clearBlock grid) s).blocks key = none
  | [], s => ⟨.refl s, fun _ h => absurd h List.not_mem_nil⟩
  | a :: l, s => by
    obtain ⟨ha, hgone⟩ := clearBlock_gangsLeave grid s a
    obtain ⟨hl, hnone⟩ := clearBlocks_gangsLeave grid l (clearBlock grid s a)
    refine ⟨ha.trans hl, fun key hkey => ?_⟩
    obtain rfl | hkey := List.mem_cons.1 hkey
    · exact hl.stays hgone
    · exact hnone key hkey

theorem nudge_gangsLeave (s : State) : GangsLeave s (nudge s) := by
  refine .foldl (fun s g => ?_) _ s
  split
  · exact post_gangsLeave ..
  · exact .refl s

/-- A bin that ships changes bins, the agenda and the counter of free values. -/
theorem shipBin_gangsLeave (s : State) (k : Nat) : GangsLeave s (shipBin s k) := by
  unfold shipBin
  dsimp only
  split
  · exact .refl s
  · split
    · exact .of_same rfl
    · exact GangsLeave.trans (.of_same rfl) (.foldl (fun s l => .of_same rfl) _ _)

theorem shipBlock_gangsLeave (s : State) (b : Block) : GangsLeave s (shipBlock s b) := by
  refine .foldl (fun s x => ?_) _ s
  split
  · exact shipBin_gangsLeave ..
  · exact .refl s

theorem freeArea_gangsLeave (s : State) (part : Nat) (a : Option (Nat × Nat)) : GangsLeave s (freeArea s part a) := by
  unfold freeArea
  split
  · exact .refl s
  · dsimp only
    refine GangsLeave.trans (.of_same rfl) (.foldl (fun s g => ?_) _ _)
    split
    · exact post_gangsLeave ..
    · exact .refl s

theorem leaveCluster_gangsLeave (s : State) (gk : Nat) (g : Gang) (gr : Grid) : GangsLeave s (leaveCluster s gk g gr) ∧
    ∀ key ∈ g.blocks, look (leaveCluster s gk g gr).blocks key = none := by
  obtain ⟨hclear, hnone⟩ := clearBlocks_gangsLeave g.grid g.blocks s
  have hrest : GangsLeave (g.blocks.foldl (clearBlock g.grid) s) (leaveCluster s gk g gr) := by
    generalize hu : g.blocks.foldl (clearBlock g.grid) s = u
    have hdef : leaveCluster s gk g gr = handleMoved (post (postFirst (victimGone u g.cluster gk (gangBlocks s g) gr.hgch)
        (.gangStart g.cluster)) 0 (.gangDeal gr.part)) := by rw [← hu]; rfl
    rw [hdef]
    exact GangsLeave.trans (.of_same rfl) (nudge_gangsLeave _)
  exact ⟨hclear.trans hrest, fun key hkey => hrest.stays (hnone key hkey)⟩

end Sys2Proof.Machine
end

section
/-!
SUPPORT. The scheduler's queue (R63-R73): what a packet's retirement, choice and acceptance leave of it, and what a tape's pop does.
-/
namespace Sys2Proof.Machine

open Sys2Proof

set_option Elab.async false

variable {s t : State} {q : Nat} {p : Packet}

/-! ## The packet at a queue's head (R63, R66, R67) -/

theorem head_setQueue (s : State) (q : Nat) (f : QueueRun → QueueRun) : (queueOf (setQueue s q f) q).head = (f (queueOf s q)).head := by
  rw [queueOf_setQueue_same]

/-- A packet whose waits hold becomes Ready, and both slots are asked to choose (R66, R68). -/
theorem judge_of_ready (hh : (queueOf s q).head = some p) (hst : p.state = .waiting)
    (hw : ∀ k ∈ upTo 4, waitNow s (partOfQueue s q) p.bytes k = .yes) (hm : missed s p.bytes = false)
    (hr : rewindBlocked s q p.bytes = false) :
    judge s q = post (post (setQueue s q fun r => { r with head := some { p with state := .ready, since := s.clk, ahead := 0 } }) 0
      (.packetSelect (partOfQueue s q) 0)) 0 (.packetSelect (partOfQueue s q) 1) := by
  have hno : ∀ v : WaitState, v ≠ .yes → ((upTo 4).map (waitNow s (partOfQueue s q) p.bytes)).contains v = false := fun v hv => by
    rw [List.contains_eq_mem, decide_eq_false_iff_not, List.mem_map]
    rintro ⟨k, hk, rfl⟩
    exact hv (hw k hk)
  simp only [judge, hh, hst, hno .failed nofun, hno .pending nofun, hm, hr, reduceCtorEq, Bool.false_eq_true, if_false, Bool.not_false,
    Bool.and_self, if_true]

/-- An overdue packet that no failed wait goes before retires Missed (R69). -/
theorem judge_of_missed (hh : (queueOf s q).head = some p) (hst : p.state ≠ .accepting)
    (hw : ∀ k ∈ upTo 4, waitNow s (partOfQueue s q) p.bytes k ≠ .failed) (hm : missed s p.bytes = true) :
    judge s q = retirePacket s q p stMissed := by
  have hno : ((upTo 4).map (waitNow s (partOfQueue s q) p.bytes)).contains .failed = false := by
    rw [List.contains_eq_mem, decide_eq_false_iff_not, List.mem_map]
    rintro ⟨k, hk, hv⟩
    exact hw k hk hv
  simp only [judge, hh, hst, hno, hm, Bool.false_eq_true, if_false, if_true]

/-- The only packet of a queue retires: its word stands, and the queue has nothing to present. -/
theorem retirePacket_last (h : LastPacket s q p) (status : Nat) :
    Retired s (retirePacket s q p status) q p status ∧ ∀ fuel, examine (retirePacket s q p status) q fuel = retirePacket s q p status := by
  obtain ⟨-, hpop, hrew, hlast⟩ := h
  have hdef : retirePacket s q p status = lqAdvance (setQueue (writeSignal s (partOfQueue s q) q (pkTag p.bytes) (pkSignal p.bytes)
      (pkDeadline p.bytes) status) q fun r => { r with head := none }) q := by
    simp only [retirePacket, hpop, Bool.false_eq_true, if_false]
  have hw : QueueStep q [5] s (writeSignal s (partOfQueue s q) q (pkTag p.bytes) (pkSignal p.bytes) (pkDeadline p.bytes) status) :=
    writeSignal_queueStep s _ _ _ _ _ (List.mem_singleton_self 5)
  have hhd : lqHd (retirePacket s q p status) q = lqTl s q := by
    rw [hdef]
    refine (csrN_csrPut_lq _ 0 q 3 3 _).trans ((if_pos rfl).trans ((ringIndex_toNat _ q _).trans ?_))
    refine Eq.trans ?_ hlast
    exact congrArg₂ (fun a b => (a + 1) % b) (hw.csrN (k := 3) (by decide)) (congrArg (fun n => 2 ^ fld n 3 0) (hw.csrN (k := 2) (by decide)))
  have htl : lqTl (retirePacket s q p status) q = lqTl s q := by
    rw [hdef]
    exact (csrN_csrPut_lq _ 0 q 3 4 _).trans ((if_neg (by decide)).trans (hw.csrN (k := 4) (by decide)))
  have hqueue : (queueOf (retirePacket s q p status) q).head = none := by
    rw [hdef]
    exact head_setQueue _ q fun r => { r with head := none }
  refine ⟨⟨hqueue, hhd, by rw [hdef]; rfl⟩, examine_of_idle (.inr (.inr (hhd.trans htl.symm)))⟩

/-- A pump after the only packet has retired changes nothing. -/
theorem pump_retirePacket_last (h : LastPacket s q p) (status : Nat) : pump (retirePacket s q p status) q = retirePacket s q p status := by
  obtain ⟨⟨hn, -, -⟩, hex⟩ := retirePacket_last h status
  rw [pump, judge_of_none hn, hex]

/-! ## The events of the queue (R66-R73) -/

theorem exec_dependencePoll_ready {rw_ : Option (List Byte)} {l : List Nat} (hq : s.queues = [(q, ⟨some p, rw_, l⟩)]) (hst : p.state = .waiting)
    (hw : ∀ k ∈ upTo 4, waitNow s (partOfQueue s q) p.bytes k = .yes) (hm : missed s p.bytes = false)
    (hr : rewindBlocked s q p.bytes = false) :
    ∃ t, exec .dependencePoll s = .next t ∧ (queueOf t q).head = some { p with state := .ready, since := s.clk, ahead := 0 } ∧
      t.mem = s.mem := by
  have hh : (queueOf s q).head = some p := by
    simp only [queueOf, hq, lookD, look_cons, if_true]
  have hjudge := judge_of_ready hh hst hw hm hr
  have hhead : (queueOf (judge s q) q).head = some { p with state := .ready, since := s.clk, ahead := 0 } := by
    rw [hjudge]
    exact head_setQueue s q fun r => { r with head := some { p with state := .ready, since := s.clk, ahead := 0 } }
  have hpump : s.queues.foldl (fun s r => pump s r.1) s = judge s q := by
    rw [hq]
    exact examine_of_head (by rw [hhead]; rfl) _
  have hmem : (judge s q).mem = s.mem := by rw [hjudge]; rfl
  show ∃ t, execDependencePoll s = .next t ∧ _
  unfold execDependencePoll
  dsimp only
  rw [hpump]
  refine ⟨_, rfl, ?_, ?_⟩
  · split
    · exact hhead
    · exact hhead
  · split
    · exact hmem
    · exact hmem

theorem exec_deadlineMiss_retires (h : LastPacket s q p) (hst : p.state ≠ .accepting)
    (hw : ∀ k ∈ upTo 4, waitNow s (partOfQueue s q) p.bytes k ≠ .failed) (hm : missed s p.bytes = true) :
    ∃ t, exec (.deadlineMiss q) s = .next t ∧ Retired s t q p stMissed := by
  obtain ⟨hret, hex⟩ := retirePacket_last h stMissed
  refine ⟨pump s q, rfl, ?_⟩
  rw [pump, judge_of_missed h.1 hst hw hm, hex]
  exact hret

/-- A step that is due within a bound (R68). -/
theorem postWithin_agenda (s : State) (bound : Nat) (i : Instr) :
    ∃ c, ⟨c, i⟩ ∈ (postWithin s bound i).agenda ∧ s.clk ≤ c ∧ c ≤ s.clk + bound ∧ (bound ≠ 0 → s.clk < c) := by
  unfold postWithin
  split
  next h => exact ⟨s.clk + 0, List.mem_append_right _ (List.mem_singleton_self _), by omega, by omega, fun hn => absurd h hn⟩
  next h =>
    have hdrawn : drawn s bound < bound := by
      rw [drawn, if_neg h]
      exact Nat.mod_lt _ (Nat.pos_of_ne_zero h)
    exact ⟨s.clk + (1 + drawn s bound), List.mem_append_right _ (List.mem_singleton_self _), by omega, by omega, fun _ => by omega⟩

theorem postWithin_fields (s : State) (bound : Nat) (i : Instr) :
    (postWithin s bound i).accepting = s.accepting ∧ (postWithin s bound i).queues = s.queues := by
  unfold postWithin
  split
  · exact ⟨rfl, rfl⟩
  · exact ⟨rfl, rfl⟩

theorem look_map_snd {α : Type} (f : Nat × α → α) : ∀ (m : NMap α) (k : Nat),
    look (m.map fun r => (r.1, f r)) k = (look m k).map fun v => f (k, v)
  | [], _ => rfl
  | (a, v) :: t, k => by
    rw [List.map_cons, look_cons, look_cons, look_map_snd f t k]
    split
    next h => rw [← h]; rfl
    next => rfl

/-- What a choice leaves of a queue: its Ready packet of class 0 has seen one more chosen before it (R71). -/
def countedRun (s : State) (part : Nat) (r : Nat × QueueRun) : QueueRun :=
  let counts (y : Packet) : Bool := y.state == .ready && pkClass y.bytes == 0 && partOfQueue s r.1 == part
  { r.2 with head := r.2.head.map fun y => if counts y then { y with ahead := y.ahead + 1 } else y }

theorem countChosen_queues (part : Nat) (h : pkClass p.bytes = 0) :
    (countChosen s part p).queues = s.queues.map fun r => (r.1, countedRun s part r) := by
  unfold countChosen countedRun
  rw [if_pos h]
  simp only [Bool.and_eq_true, beq_iff_eq, and_assoc]

/-- A choice counts for the Ready packets alone (R71). -/
theorem countChosen_head {y : Packet} (part : Nat) (hh : (queueOf s q).head = some y) (hst : y.state ≠ .ready) :
    (queueOf (countChosen s part p) q).head = some y := by
  by_cases hc : pkClass p.bytes = 0
  · rw [queueOf, countChosen_queues part hc, lookD, look_map_snd]
    simp only [queueOf, lookD] at hh
    cases hr : look s.queues q with
    | none => simp only [hr, reduceCtorEq] at hh
    | some r =>
      simp only [hr] at hh
      simp only [Option.map_some, countedRun, hh, beq_eq_false_iff_ne.2 hst, Bool.false_and, Bool.false_eq_true, if_false]
  · rw [countChosen, if_neg hc, hh]

/-- A free slot chooses the Ready packet of least rank, and its acceptance is due within its bound (R68, R71). -/
theorem exec_packetSelect_chooses {part slot r : Nat} (ha : look s.accepting (2 * part + slot) = none)
    (hb : bestOf (readyFor s part slot) = some (r, q)) (hh : (queueOf s q).head = some p) :
    ∃ t, exec (.packetSelect part slot) s = .next t ∧ look t.accepting (2 * part + slot) = some q ∧
      (queueOf t q).head = some { p with state := .accepting } ∧
      ∃ c, ⟨c, .packetAccept part slot⟩ ∈ t.agenda ∧ s.clk ≤ c ∧ c ≤ s.clk + acceptBound s p ∧ (acceptBound s p ≠ 0 → s.clk < c) := by
  have hset : (queueOf (setQueue s q fun r => { r with head := some { p with state := .accepting } }) q).head = some { p with state := .accepting } :=
    head_setQueue s q _
  have hchosen := countChosen_head (p := p) part hset nofun
  have hclk : (countChosen (setQueue s q fun r => { r with head := some { p with state := .accepting } }) part p).clk = s.clk := by
    unfold countChosen
    split
    · rfl
    · rfl
  generalize hs1 : countChosen (setQueue s q fun r => { r with head := some { p with state := .accepting } }) part p = s1 at hchosen hclk
  obtain ⟨c, hc, hle, hbound, hlt⟩ := postWithin_agenda { s1 with accepting := put s1.accepting (2 * part + slot) q } (acceptBound s p)
    (.packetAccept part slot)
  obtain ⟨hacc, hqueues⟩ := postWithin_fields { s1 with accepting := put s1.accepting (2 * part + slot) q } (acceptBound s p)
    (.packetAccept part slot)
  have hexec : exec (.packetSelect part slot) s =
      .next (postWithin { s1 with accepting := put s1.accepting (2 * part + slot) q } (acceptBound s p) (.packetAccept part slot)) := by
    show execPacketSelect part slot s = _
    simp only [execPacketSelect, ha, hb, hh, hs1, Option.isSome_none, Bool.false_eq_true, if_false]
  refine ⟨_, hexec, by rw [hacc, look_put_same], ?_, c, hc, hclk ▸ hle, hclk ▸ hbound, fun h => hclk ▸ hlt h⟩
  rw [queueOf, hqueues]
  exact hchosen

theorem acceptBound_le (s : State) (p : Packet) : acceptBound s p ≤ 600 ∧ (pkClass p.bytes ≠ 0 → acceptBound s p ≠ 0) ∧
    (pkClass p.bytes = 0 → acceptBound s p ≤ p.since + 600 * (p.ahead + 1) - s.clk) := by
  unfold acceptBound
  split
  next h => exact ⟨Nat.min_le_left _ _, fun hn => absurd h hn, fun _ => Nat.min_le_right _ _⟩
  next h => exact ⟨Nat.le_refl _, fun _ => by decide, fun h0 => absurd h0 h⟩

/-! ## Acceptance (R66, R68, R78) -/

section Accept

variable {part slot : Nat}

/-- What PACKET_ACCEPT does with the packet at the head of the slot's queue. -/
def accepted (s1 : State) (part q : Nat) (p : Packet) : State :=
  match pkType p.bytes with
  | 0 => acceptKernel s1 part q p
  | 1 => post (setQueue s1 q fun r => { r with head := none, rewind := some p.bytes }) 1 (.rewindPop q)
  | _ => retirePacket s1 q p stDone

theorem exec_packetAccept (ha : look s.accepting (2 * part + slot) = some q) (hh : (queueOf s q).head = some p) :
    exec (.packetAccept part slot) s =
      .next (post (pump (accepted { s with accepting := del s.accepting (2 * part + slot) } part q p) q) 0 (.packetSelect part slot)) := by
  show execPacketAccept part slot s = _
  simp only [execPacketAccept, ha]
  have hh1 : (queueOf { s with accepting := del s.accepting (2 * part + slot) } q).head = some p := hh
  simp only [hh1]
  rfl

/-- An acceptance that retires the only packet of its queue. -/
theorem exec_packetAccept_retires {status : Nat} (ha : look s.accepting (2 * part + slot) = some q) (h : LastPacket s q p)
    (hacc : accepted { s with accepting := del s.accepting (2 * part + slot) } part q p =
      retirePacket { s with accepting := del s.accepting (2 * part + slot) } q p status) :
    ∃ t, exec (.packetAccept part slot) s = .next t ∧ Retired { s with accepting := del s.accepting (2 * part + slot) } t q p status ∧
      t.grids = s.grids := by
  have hlast : LastPacket { s with accepting := del s.accepting (2 * part + slot) } q p := h
  rw [exec_packetAccept ha h.1, hacc, pump_retirePacket_last hlast]
  have hstep := retirePacket_queueStep (q := q) (ks := [3, 5]) { s with accepting := del s.accepting (2 * part + slot) } p status (by decide)
    fun _ => by decide
  exact ⟨_, rfl, (retirePacket_last hlast status).1, hstep.grids⟩

/-- A kernel packet whose image passes becomes its grid, whose first gang is to be dealt, or whose end is to be looked at (R66, R78). -/
theorem acceptKernel_grid {l : List Byte} {macros : List (Nat × Nat × Nat)} (hi : readImage s part p.bytes = some (l, macros)) :
    let g := gridOf part q s.nextKey p.launched p.popped p.bytes l macros
    let t := acceptKernel s part q p
    unplaceable g = false → t.accepting = s.accepting ∧ t.grids = put s.grids s.nextKey g ∧
      (g.next < g.lim → ⟨s.clk, .gangDeal part⟩ ∈ t.agenda) ∧ (g.lim ≤ g.next → ⟨s.clk, .gridEnd s.nextKey⟩ ∈ t.agenda) := by
  intro g t hp
  let s2 := setQueue { s with nextKey := s.nextKey + 1, grids := put s.grids s.nextKey g } q fun r => { r with head := none }
  let s3 := if p.popped then s2 else lqAdvance s2 q
  have hdef : t = if g.next < g.lim then post s3 0 (.gangDeal part) else post s3 0 (.gridEnd s.nextKey) := by
    show acceptKernel s part q p = _
    unfold acceptKernel
    rw [hi]
    exact if_neg (Bool.eq_false_iff.1 hp)
  have h3 : s3.accepting = s.accepting ∧ s3.grids = put s.grids s.nextKey g ∧ s3.clk = s.clk := by
    simp only [s3]
    split
    · exact ⟨rfl, rfl, rfl⟩
    · exact ⟨rfl, rfl, rfl⟩
  obtain ⟨hacc, hgrids, hclk⟩ := h3
  rw [hdef, ← hclk]
  split
  next hlt => exact ⟨hacc, hgrids, fun _ => mem_agenda_post .., fun hge => absurd hlt (Nat.not_lt.2 hge)⟩
  next hge => exact ⟨hacc, hgrids, fun hlt => absurd hlt hge, fun _ => mem_agenda_post ..⟩

theorem exec_packetAccept_grid {l : List Byte} {macros : List (Nat × Nat × Nat)} (ha : look s.accepting (2 * part + slot) = some q)
    (hh : (queueOf s q).head = some p) (ht : pkType p.bytes = 0)
    (hi : readImage { s with accepting := del s.accepting (2 * part + slot) } part p.bytes = some (l, macros)) :
    let g := gridOf part q s.nextKey p.launched p.popped p.bytes l macros
    unplaceable g = false → ∃ t, exec (.packetAccept part slot) s = .next t ∧ look t.accepting (2 * part + slot) = none ∧
      look t.grids s.nextKey = some g ∧ (g.next < g.lim → ⟨s.clk, .gangDeal part⟩ ∈ t.agenda) ∧
      (g.lim ≤ g.next → ⟨s.clk, .gridEnd s.nextKey⟩ ∈ t.agenda) := by
  intro g hp
  obtain ⟨hacc, hgrids, hdeal, hend⟩ := acceptKernel_grid (q := q) hi hp
  have haccepted : accepted { s with accepting := del s.accepting (2 * part + slot) } part q p =
      acceptKernel { s with accepting := del s.accepting (2 * part + slot) } part q p := by
    simp only [accepted, ht]
  rw [exec_packetAccept ha hh, haccepted]
  generalize acceptKernel { s with accepting := del s.accepting (2 * part + slot) } part q p = u at hacc hgrids hdeal hend
  have hpump := pump_queueStep u q
  refine ⟨_, rfl, ?_, ?_, fun hlt => ?_, fun hge => ?_⟩
  · exact (congrArg (look · _) (hpump.accepting.trans hacc)).trans (look_del_same _ _)
  · exact (congrArg (look · _) (hpump.grids.trans hgrids)).trans (look_put_same _ _ _)
  · exact List.mem_append_left _ (hpump.agenda _ (hdeal hlt))
  · exact List.mem_append_left _ (hpump.agenda _ (hend hge))

/-- A rewind packet leaves the head, and its tape is popped from (R73). -/
theorem exec_packetAccept_rewind (ha : look s.accepting (2 * part + slot) = some q) (hh : (queueOf s q).head = some p)
    (ht : pkType p.bytes = 1) : ∃ t, exec (.packetAccept part slot) s = .next t ∧ (queueOf t q).rewind = some p.bytes ∧
      (queueOf t q).head = none ∧ ⟨s.clk + 1, .rewindPop q⟩ ∈ t.agenda := by
  have hacc : accepted { s with accepting := del s.accepting (2 * part + slot) } part q p =
      post (setQueue { s with accepting := del s.accepting (2 * part + slot) } q fun r => { r with head := none, rewind := some p.bytes }) 1
        (.rewindPop q) := by
    simp only [accepted, ht]
  generalize hs1 : { s with accepting := del s.accepting (2 * part + slot) } = s1 at hacc
  have hqueue : queueOf (post (setQueue s1 q fun r => { r with head := none, rewind := some p.bytes }) 1 (.rewindPop q)) q =
      { queueOf s1 q with head := none, rewind := some p.bytes } :=
    queueOf_setQueue_same s1 q fun r => { r with head := none, rewind := some p.bytes }
  have hclk : s1.clk = s.clk := by rw [← hs1]
  rw [exec_packetAccept ha hh, hs1, hacc, pump_of_idle (by rw [hqueue]) (.inl (by rw [hqueue]; rfl))]
  refine ⟨_, rfl, congrArg QueueRun.rewind hqueue, congrArg QueueRun.head hqueue, List.mem_append_left _ ?_⟩
  rw [← hclk]
  exact List.mem_append_right _ (List.mem_singleton_self _)

end Accept

/-! ## The tape (R73, R311) -/

/-- Steps posted for the entries of a list that meet a property. -/
theorem foldl_post_if {α : Type} (c : α → Prop) [DecidablePred c] (d : Nat) (f : α → Instr) : ∀ (l : List α) (s : State),
    l.foldl (fun s a => if c a then post s d (f a) else s) s =
      { s with agenda := s.agenda ++ (l.filter fun a => decide (c a)).map fun a => ⟨s.clk + d, f a⟩ }
  | [], s => by simp
  | a :: l, s => by
    rw [List.foldl_cons, foldl_post_if c d f l]
    by_cases h : c a
    · simp [h, post]
    · simp [h]

theorem exec_rewindPop_empty {l : List Byte} (hr : (queueOf s q).rewind = some l) (hh : (queueOf s q).head = none)
    (he : lqTape s q 10 ≤ lqTape s q 6) : ∃ t, exec (.rewindPop q) s = .next t ∧ (queueOf t q).rewind = none ∧
      ∀ g ∈ s.grids, g.2.queue = q → g.2.tapeon = true → ⟨s.clk, .gridEnd g.1⟩ ∈ t.agenda := by
  have hw : QueueStep q [5] s (writeSignal s (partOfQueue s q) q (pkTag l) (pkSignal l) (pkDeadline l) stDone) :=
    writeSignal_queueStep s _ _ _ _ _ (List.mem_singleton_self 5)
  generalize hs1 : writeSignal s (partOfQueue s q) q (pkTag l) (pkSignal l) (pkDeadline l) stDone = s1 at hw
  have hp := pump_queueStep (lqAdvance (setQueue s1 q fun r => { r with rewind := none }) q) q
  have hrew : (queueOf (lqAdvance (setQueue s1 q fun r => { r with rewind := none }) q) q).rewind = none :=
    congrArg QueueRun.rewind (queueOf_setQueue_same s1 q fun r => { r with rewind := none })
  have hgrids : (lqAdvance (setQueue s1 q fun r => { r with rewind := none }) q).grids = s.grids := hw.grids
  have hclk : (lqAdvance (setQueue s1 q fun r => { r with rewind := none }) q).clk = s.clk := hw.clk
  generalize hs2 : lqAdvance (setQueue s1 q fun r => { r with rewind := none }) q = s2 at hp hrew hgrids hclk
  have hexec : exec (.rewindPop q) s = .next ((pump s2 q).grids.foldl (fun s g =>
      if g.2.queue = q ∧ g.2.tapeon = true then post s 0 (.gridEnd g.1) else s) (pump s2 q)) := by
    show execRewindPop q s = _
    simp only [execRewindPop, hr, hh, he, hs1, hs2, Option.isSome_none, Bool.false_eq_true, if_false, if_true]
  rw [foldl_post_if (fun g : Nat × Grid => g.2.queue = q ∧ g.2.tapeon = true) 0 fun g => .gridEnd g.1] at hexec
  refine ⟨_, hexec, hp.rewind.trans hrew, fun g hg hgq hgt => List.mem_append_right _ (List.mem_map.2 ⟨g, ?_, ?_⟩)⟩
  · exact List.mem_filter.2 ⟨by rw [hp.grids, hgrids]; exact hg, decide_eq_true ⟨hgq, hgt⟩⟩
  · rw [hp.clk, hclk, Nat.add_zero]

/-- A pop moves the tape's top by one record, whatever the record is, and the rewind goes on. -/
theorem exec_rewindPop_pops {l : List Byte} (hr : (queueOf s q).rewind = some l) (hh : (queueOf s q).head = none)
    (hlt : lqTape s q 6 < lqTape s q 10) : ∃ t, exec (.rewindPop q) s = .next t ∧ lqTape t q 10 = lqTape s q 10 - 256 ∧
      (queueOf t q).rewind = some l := by
  have htop : lqTape (lqPut64 s q 10 (lqTape s q 10 - 256)) q 10 = lqTape s q 10 - 256 :=
    lqTape_lqPut64 s q 10 (Nat.lt_of_le_of_lt (Nat.sub_le _ _) (lqTape_lt s q 10))
  have hrew : (queueOf (lqPut64 s q 10 (lqTape s q 10 - 256)) q).rewind = some l := hr
  have hdone : ∀ t, QueueStep q [5] (lqPut64 s q 10 (lqTape s q 10 - 256)) t → lqTape t q 10 = lqTape s q 10 - 256 ∧
      (queueOf t q).rewind = some l := fun t h => ⟨(h.lqTape (by decide) (by decide)).trans htop, h.rewind.trans hrew⟩
  have h5 : 5 ∈ [5] := List.mem_singleton_self 5
  show ∃ t, execRewindPop q s = .next t ∧ _
  simp only [execRewindPop, hr, hh, Nat.not_le.2 hlt, Option.isSome_none, Bool.false_eq_true, if_false]
  refine ⟨_, rfl, hdone _ ?_⟩
  generalize lqPut64 s q 10 (lqTape s q 10 - 256) = s1
  split
  · exact (lqFault_queueStep s1 h5).trans (post_queueStep ..)
  · split
    · exact present_queueStep s1 _ true false h5 nofun
    · exact retirePacket_queueStep s1 _ _ h5 nofun

end Sys2Proof.Machine
end

section
/-!
SUPPORT. The end of gangs and of grids (R311, R312), and with it the events of the scheduler.
-/
namespace Sys2Proof.Machine

open Sys2Proof

set_option Elab.async false

variable {s t : State}

/-! ## A gang that retires (R311) -/

theorem mem_gangBeams {g : Gang} {k : Nat} : k ∈ gangBeams s g ↔ ∃ key ∈ g.blocks, ∃ b, look s.blocks key = some b ∧ k ∈ blockBeams b := by
  rw [gangBeams, List.mem_flatMap]
  refine exists_congr fun key => and_congr_right fun _ => ?_
  cases look s.blocks key with
  | none => simp
  | some b => simp

/-- Blocks that are all gone have taken their gang's beams with them. -/
theorem GangsLeave.beams_gone (h : GangsLeave s t) {g : Gang} (hn : ∀ key ∈ g.blocks, look t.blocks key = none) {k : Nat}
    (hk : k ∈ gangBeams s g) : beamOf t k = none := by
  obtain ⟨key, hkey, b, hb, hkb⟩ := mem_gangBeams.1 hk
  obtain hs | ⟨-, hgone⟩ := h.block key
  · exact nomatch (hs.symm.trans (hn key hkey)).symm.trans hb
  · exact hgone b hb k hkb

/-- A gang that is dropped leaves its grid, which ends if this was its last. -/
theorem dropGang_spec {gk : Nat} {g : Gang} {gr : Grid} (hg : look s.grids g.grid = some gr) :
    let t := dropGang s gk g
    t.gangs = del s.gangs gk ∧ look t.grids g.grid = some { gr with live := gr.live - 1 } ∧ t.blocks = s.blocks ∧ t.beams = s.beams ∧
      (gridOver s { gr with live := gr.live - 1 } = true → ⟨s.clk, .gridEnd g.grid⟩ ∈ t.agenda) := by
  intro t
  let s1 := { s with gangs := del s.gangs gk, grids := alter s.grids g.grid fun x => { x with live := x.live - 1 } }
  have hlook : look s1.grids g.grid = some { gr with live := gr.live - 1 } := by
    rw [look_alter, if_pos rfl, hg]
    rfl
  have hdef : t = if gridOver s { gr with live := gr.live - 1 } then post s1 0 (.gridEnd g.grid) else s1 := by
    show dropGang s gk g = _
    unfold dropGang
    dsimp only
    rw [hlook]
    rfl
  rw [hdef]
  split
  · exact ⟨rfl, hlook, rfl, rfl, fun _ => mem_agenda_post ..⟩
  next hno => exact ⟨rfl, hlook, rfl, rfl, fun h => absurd h hno⟩

/-- A gang of which everything has ended leaves, and its grid loses a gang (R79, R311). -/
theorem exec_gangRetire_leaves {gk : Nat} {g : Gang} {gr : Grid} (hg : look s.gangs gk = some g) (hgr : look s.grids g.grid = some gr)
    (hst : g.state = .resident) (hab : gr.aborted = false) (hex : gangExited s g = true) :
    let s0 := (gangBeams s g).foldl performAll s
    ((gangBeams s0 g).any fun k => syncShut s0 k .dev) = false →
    let s1 := (gangBlocks s0 g).foldl shipBlock s0
    (∀ key ∈ g.blocks, ((look s1.blocks key).map (blockQuiet s1 key)).getD true = true) →
    ∃ t, exec (.gangRetire gk) s = .next t ∧ look t.gangs gk = none ∧ look t.grids g.grid = some { gr with live := gr.live - 1 } ∧
      (∀ key ∈ g.blocks, look t.blocks key = none) ∧ (∀ k ∈ gangBeams s g, beamOf t k = none) ∧
      (gridOver s { gr with live := gr.live - 1 } = true → ⟨s.clk, .gridEnd g.grid⟩ ∈ t.agenda) := by
  intro s0 hopen s1 hquiet
  have hexec : exec (.gangRetire gk) s = .next (retireGang s1 gk g gr) := by
    show execGangRetire gk s = _
    have hgrid : gangGrid s gk = some gr := by rw [gangGrid, hg]; exact hgr
    have hall : (g.blocks.all fun key => ((look s1.blocks key).map (blockQuiet s1 key)).getD true) = true := List.all_eq_true.2 hquiet
    simp only [execGangRetire, hg, hgrid, hst, hab, hex, bne_self_eq_false, Bool.false_eq_true, if_false, if_true]
    rw [if_neg (Bool.eq_false_iff.1 hopen), if_pos hall]
  have h1 : GangsLeave s s1 := (GangsLeave.foldl performAll_gangsLeave _ s).trans (GangsLeave.foldl shipBlock_gangsLeave _ _)
  generalize s1 = s1 at hexec h1
  obtain ⟨hleave, hgone⟩ := leaveCluster_gangsLeave s1 gk g gr
  have hfree := freeArea_gangsLeave (leaveCluster s1 gk g gr) gr.part g.area
  have h2 : GangsLeave s (freeArea (leaveCluster s1 gk g gr) gr.part g.area) := h1.trans (hleave.trans hfree)
  have hnone : ∀ key ∈ g.blocks, look (freeArea (leaveCluster s1 gk g gr) gr.part g.area).blocks key = none :=
    fun key hkey => hfree.stays (hgone key hkey)
  unfold retireGang at hexec
  generalize freeArea (leaveCluster s1 gk g gr) gr.part g.area = u at hexec h2 hnone
  obtain ⟨hgangs, hgrid, hblocks, hbeams, hover⟩ := dropGang_spec (s := u) (gk := gk) (g := g) (gr := gr) (by rw [h2.grids]; exact hgr)
  refine ⟨_, hexec, by rw [hgangs, look_del_same], hgrid, fun key hkey => by rw [hblocks]; exact hnone key hkey, fun k hk => ?_, fun h => ?_⟩
  · rw [beamOf, hbeams]
    exact h2.beams_gone hnone hk
  · rw [← h2.clk]
    refine hover ?_
    rw [← h]
    simp only [gridOver, tapeWanted, queueOf, h2.queues]

/-! ## The end of a grid (R312) -/

section GridEnd

variable {k : Nat} {g : Grid}

theorem exec_gridEnd_waits (hg : look s.grids k = some g) (h : gridOver s g = false) : exec (.gridEnd k) s = .next s := by
  show execGridEnd k s = _
  simp only [execGridEnd, hg, h, Bool.not_false, if_true]

/-- A grid that is over issues its commit: the marker enters the logs 40 clocks on (R264, R312). -/
theorem exec_gridEnd_commits (hg : look s.grids k = some g) (h : gridOver s g = true) :
    ∃ t, exec (.gridEnd k) s = .next t ∧ look t.grids k = some { g with ending := some s.nextKey } ∧
      (∃ m, look t.commits s.nextKey = some m ∧ m.grid = some k ∧ m.logs = hgCores s (leastD 0 (coresOf s g.part))) ∧
      ⟨s.clk + 41, .hgCommitMarkerDelivery s.nextKey⟩ ∈ t.agenda := by
  let r := newCommit s g.part 40 (hgCores s (leastD 0 (coresOf s g.part))) fun m => { m with grid := some k }
  have hexec : exec (.gridEnd k) s = .next { r.2 with grids := alter r.2.grids k fun x => { x with ending := some r.1 } } := by
    show execGridEnd k s = _
    simp only [execGridEnd, hg, h, Bool.not_true, Bool.false_eq_true, if_false]
    rfl
  have hgrids : look r.2.grids k = some g := hg
  refine ⟨_, hexec, ?_, ⟨_, look_put_same _ _ _, rfl, rfl⟩, List.mem_append_right _ (List.mem_singleton_self _)⟩
  rw [look_alter, if_pos rfl, hgrids]
  rfl

theorem exec_completionWordWrite_waits (hg : look s.grids k = some g) (he : g.ending ≠ none)
    (h : ((sectorsOf s g.part).all fun sec => syncOpen s sec .sys) = false) :
    exec (.completionWordWrite k) s = .next (post s 40 (.completionWordWrite k)) := by
  have hending : g.ending.isNone = false := by simpa [Option.isSome_iff_ne_none] using he
  show execCompletionWordWrite k s = _
  simp only [execCompletionWordWrite, hg, hending, h, Bool.not_false, Bool.false_eq_true, if_false, if_true]

/-- Cores whose last grid this was lose their constant lines, which is no part of memory or of the grids. -/
theorem lastGrid_cores (grid : Nat) : ∀ (l : List Nat) (s : State), ∃ c, (l.foldl (fun s c =>
    if (coreOf s c).lastGrid = some grid ∧ (blocksOn s c).isEmpty = true then
      setCore s c fun x => { x with l1 := x.l1.filter fun e => !e.2.2, lastGrid := none }
    else s) s) = { s with cores := c }
  | [], s => ⟨s.cores, rfl⟩
  | a :: l, s => by
    rw [List.foldl_cons]
    obtain ⟨c, hc⟩ := lastGrid_cores grid l (if (coreOf s a).lastGrid = some grid ∧ (blocksOn s a).isEmpty = true then
      setCore s a fun x => { x with l1 := x.l1.filter fun e => !e.2.2, lastGrid := none } else s)
    refine ⟨c, hc.trans ?_⟩
    split
    · rfl
    · rfl

/-- The completion word is written and the grid removed, once every sector can write back (R312). -/
theorem exec_completionWordWrite_writes (hg : look s.grids k = some g) (he : g.ending ≠ none)
    (h : ((sectorsOf s g.part).all fun sec => syncOpen s sec .sys) = true) :
    let s1 := (sectorsOf s g.part).foldl (fun s sec => releaseCaches s sec .sys) s
    ∃ t, exec (.completionWordWrite k) s = .next t ∧ look t.grids k = none ∧
      t.mem = (writeSignal { s1 with grids := del s1.grids k } g.part g.queue g.tag.toNat g.signal.toNat g.deadline
        (if g.aborted then 7 else 1)).mem := by
  intro s1
  have hending : g.ending.isNone = false := by simpa [Option.isSome_iff_ne_none] using he
  let s3 := writeSignal { s1 with grids := del s1.grids k } g.part g.queue g.tag.toNat g.signal.toNat g.deadline (if g.aborted then 7 else 1)
  obtain ⟨c, hc⟩ := lastGrid_cores k (upTo 48) s3
  have hgrids : s3.grids = del s1.grids k := (writeSignal_queueStep (ks := [5]) _ _ _ _ _ _ (List.mem_singleton_self 5)).grids
  have hexec : exec (.completionWordWrite k) s = .next (if g.popped then post { s3 with cores := c } 0 (.rewindPop g.queue)
      else { s3 with cores := c }) := by
    show execCompletionWordWrite k s = _
    simp only [execCompletionWordWrite, hg, hending, h, Bool.not_true, Bool.false_eq_true, if_false]
    rw [← hc]
    rfl
  refine ⟨_, hexec, ?_, ?_⟩
  · split
    · exact (congrArg (look · k) hgrids).trans (look_del_same _ _)
    · exact (congrArg (look · k) hgrids).trans (look_del_same _ _)
  · split
    · rfl
    · rfl

end GridEnd

end Sys2Proof.Machine

namespace Sys2Proof.Certificates

open Sys2Proof Sys2Proof.Machine

/-- Settles O57, by what each event of the scheduler leaves of the queue, the grid and the gang that it is for. -/
theorem schedulerAcceptsAndRetires : Obligations.SchedulerAcceptsAndRetires := by
  unfold Obligations.SchedulerAcceptsAndRetires
  intro s
  refine ⟨fun q p rw_ l hq hst hw hm hr => exec_dependencePoll_ready hq hst hw hm hr,
    fun q p h hst hw hm => exec_deadlineMiss_retires h hst hw hm,
    fun part slot => ⟨fun ha => ?_, fun r q p ha hb hh => ?_⟩, fun part slot q p ha hh => ?_,
    fun q l hr hh => ⟨exec_rewindPop_empty hr hh, exec_rewindPop_pops hr hh⟩,
    fun gk g gr hg hgr hst hab hex => exec_gangRetire_leaves hg hgr hst hab hex,
    fun k g hg => ⟨exec_gridEnd_waits hg, exec_gridEnd_commits hg, exec_completionWordWrite_waits hg, exec_completionWordWrite_writes hg⟩⟩
  · show execPacketSelect part slot s = _
    rw [execPacketSelect, if_pos (Option.isSome_iff_ne_none.2 ha)]
  · obtain ⟨t, he, hacc, hhead, c, hc, hle, hbound, hlt⟩ := exec_packetSelect_chooses ha hb hh
    obtain ⟨h600, hne, h0⟩ := acceptBound_le s p
    refine ⟨t, he, hacc, hhead, c, hc, hle, by omega, fun hn => hlt (hne hn), fun hz => ?_⟩
    have hclass := h0 hz
    show c ≤ max s.clk (p.since + 600 * (p.ahead + 1))
    omega
  · refine ⟨fun l macros ht hi => ⟨fun hun hlast => ?_, exec_packetAccept_grid ha hh ht hi⟩, fun ht hi hlast => ?_,
      exec_packetAccept_rewind ha hh, fun ht hlast => ?_⟩
    · refine exec_packetAccept_retires ha hlast ?_
      simp only [accepted, ht, acceptKernel, hi]
      exact if_pos hun
    · refine exec_packetAccept_retires ha hlast ?_
      simp only [accepted, ht, acceptKernel, hi]
    · refine exec_packetAccept_retires ha hlast ?_
      simp only [accepted, ht]

end Sys2Proof.Certificates
end

section
/-!
SUPPORT. Gangs and their places (R70, R72, R76-R83): what dealing, asking for room and waking thieves leave of the clusters and of the gangs,
what a placement takes, and what a beam is at its start.
-/
namespace Sys2Proof.Machine

open Sys2Proof

set_option Elab.async false

variable {s t u : State}

/-! ## Clusters -/

theorem clusterOf_setCluster_other (s : State) {c d : Nat} (f : Cluster → Cluster) (h : d ≠ c) :
    clusterOf (setCluster s c f) d = clusterOf s d := by
  simp only [clusterOf, setCluster, lookD, look_put_other _ _ _ _ h]

/-- A property of every cluster's own part that a change of one keeps. -/
theorem clusterOf_setCluster_eq {α : Type} (s : State) (c d : Nat) (f : Cluster → Cluster) (p : Cluster → α)
    (hf : p (f (clusterOf s c)) = p (clusterOf s c)) : p (clusterOf (setCluster s c f) d) = p (clusterOf s d) := by
  by_cases h : d = c
  · rw [h, clusterOf_setCluster_same, hf]
  · rw [clusterOf_setCluster_other s f h]

theorem mem_insertHeld (s : State) (k : Nat) : ∀ l : List Nat, k ∈ insertHeld s k l
  | [] => List.mem_singleton_self k
  | x :: l => by
    unfold insertHeld
    split
    · exact List.mem_cons_self
    · exact List.mem_cons_of_mem _ (mem_insertHeld s k l)

/-- The state t differs from s in the agenda, the counter of free values, what clusters have reserved and ask, and which gangs are requested:
no held list has changed. -/
structure HeldStay (s t : State) : Prop where
  same : t = { s with agenda := t.agenda, fresh := t.fresh, clusters := t.clusters, gangs := t.gangs }
  held : ∀ c, (clusterOf t c).held = (clusterOf s c).held
  gang : ∀ k y, look s.gangs k = some y → ∃ z, look t.gangs k = some z ∧ z = { y with requested := z.requested, request := z.request }

namespace HeldStay

theorem refl (s : State) : HeldStay s s := ⟨rfl, fun _ => rfl, fun _ y h => ⟨y, h, rfl⟩⟩

theorem trans (h : HeldStay s t) (g : HeldStay t u) : HeldStay s u := by
  refine ⟨by rw [g.same, h.same], fun c => (g.held c).trans (h.held c), fun k y hy => ?_⟩
  obtain ⟨z, hz, ez⟩ := h.gang k y hy
  obtain ⟨w, hw, ew⟩ := g.gang k z hz
  exact ⟨w, hw, by rw [ew, ez]⟩

theorem foldl {α : Type} {f : State → α → State} (hf : ∀ s a, HeldStay s (f s a)) : ∀ (l : List α) (s : State), HeldStay s (l.foldl f s)
  | [], s => .refl s
  | a :: l, s => (hf s a).trans (foldl hf l (f s a))

theorem clk (h : HeldStay s t) : t.clk = s.clk := by rw [h.same]
theorem grids (h : HeldStay s t) : t.grids = s.grids := by rw [h.same]

end HeldStay

theorem post_heldStay (s : State) (d : Nat) (i : Instr) : HeldStay s (post s d i) := ⟨rfl, fun _ => rfl, fun _ y h => ⟨y, h, rfl⟩⟩
theorem postFirst_heldStay (s : State) (i : Instr) : HeldStay s (postFirst s i) := ⟨rfl, fun _ => rfl, fun _ y h => ⟨y, h, rfl⟩⟩
theorem postFree_heldStay (s : State) (bound : Nat) (i : Instr) : HeldStay s (postFree s bound i) :=
  ⟨rfl, fun _ => rfl, fun _ y h => ⟨y, h, rfl⟩⟩

theorem setCluster_heldStay (s : State) (c : Nat) (f : Cluster → Cluster) (hf : (f (clusterOf s c)).held = (clusterOf s c).held) :
    HeldStay s (setCluster s c f) :=
  ⟨rfl, fun d => clusterOf_setCluster_eq s c d f Cluster.held hf, fun _ y h => ⟨y, h, rfl⟩⟩

/-- A request names a gang. -/
theorem request_heldStay (s : State) (k : Nat) (r : Preempt) :
    HeldStay s { s with gangs := alter s.gangs k fun x => { x with requested := true, request := some r } } := by
  refine ⟨rfl, fun _ => rfl, fun j y hy => ?_⟩
  by_cases h : j = k
  · exact ⟨_, by rw [look_alter, if_pos h, ← h, hy]; rfl, rfl⟩
  · exact ⟨y, by rw [look_alter, if_neg h, hy], rfl⟩

/-! ## Asking for room (R70) -/

/-- The gangs of a list are requested for a class-0 gang. -/
def askVictims (s : State) (gk : Nat) (v : List Nat) : State :=
  v.foldl (fun s k => { s with gangs := alter s.gangs k fun x => { x with requested := true, request := some ⟨s.clk + 40, some gk, 0⟩ } }) s

theorem askVictims_heldStay (gk : Nat) (v : List Nat) (s : State) : HeldStay s (askVictims s gk v) :=
  .foldl (fun s k => request_heldStay s k ⟨s.clk + 40, some gk, 0⟩) v s

theorem askVictims_clusters (gk : Nat) : ∀ (v : List Nat) (s : State), (askVictims s gk v).clusters = s.clusters
  | [], _ => rfl
  | _ :: v, _ => (askVictims_clusters gk v _).trans rfl

/-- A cluster that asks for room names victims, changes what it has reserved, and sends the request. -/
theorem requestRoom_cases (s : State) (cl gk : Nat) : requestRoom s cl gk = s ∨ ∃ v f, (∀ c, ∃ r, f c = { c with reserved := r }) ∧
    requestRoom s cl gk = post (setCluster (askVictims s gk v) cl f) 40 (.hgPreemptRequestDelivery v) := by
  unfold requestRoom
  split
  · exact .inl rfl
  · dsimp only
    split
    · exact .inl rfl
    · split
      · exact .inl rfl
      next v _ =>
        refine .inr ⟨v, _, fun c => ?_, rfl⟩
        split
        · exact ⟨_, rfl⟩
        · exact ⟨_, rfl⟩

theorem requestRoom_heldStay (s : State) (cl gk : Nat) : HeldStay s (requestRoom s cl gk) := by
  obtain h | ⟨v, f, hf, h⟩ := requestRoom_cases s cl gk
  · rw [h]
    exact .refl s
  · rw [h]
    obtain ⟨r, hr⟩ := hf (clusterOf (askVictims s gk v) cl)
    exact ((askVictims_heldStay gk v s).trans (setCluster_heldStay _ cl f (by rw [hr]))).trans (post_heldStay ..)

/-- Neither the steal round nor the wait of any cluster has changed (R82). -/
def RoundsStay (s t : State) : Prop := ∀ c, (clusterOf t c).stealing = (clusterOf s c).stealing ∧ (clusterOf t c).asked = (clusterOf s c).asked ∧
  (clusterOf t c).backoff = (clusterOf s c).backoff

theorem requestRoom_rounds (s : State) (cl gk : Nat) : RoundsStay s (requestRoom s cl gk) := by
  obtain h | ⟨v, f, hf, h⟩ := requestRoom_cases s cl gk
  · rw [h]
    exact fun _ => ⟨rfl, rfl, rfl⟩
  · rw [h]
    intro c
    have hask : ∀ d, clusterOf (askVictims s gk v) d = clusterOf s d := fun d => by rw [clusterOf, clusterOf, askVictims_clusters]
    obtain ⟨r, hr⟩ := hf (clusterOf (askVictims s gk v) cl)
    refine ⟨?_, ?_, ?_⟩
    · exact (clusterOf_setCluster_eq _ cl c f Cluster.stealing (by rw [hr])).trans (by rw [hask])
    · exact (clusterOf_setCluster_eq _ cl c f Cluster.asked (by rw [hr])).trans (by rw [hask])
    · exact (clusterOf_setCluster_eq _ cl c f Cluster.backoff (by rw [hr])).trans (by rw [hask])

/-! ## Steal rounds (R82) -/

theorem endBackoff_heldStay (s : State) (cl : Nat) : HeldStay s (endBackoff s cl) := by
  unfold endBackoff
  dsimp only
  split
  · exact HeldStay.trans (t := { s with agenda := s.agenda.filter fun d => d.step != .stealBackoffExpiry cl })
      ⟨rfl, fun _ => rfl, fun _ y h => ⟨y, h, rfl⟩⟩ (setCluster_heldStay _ cl (fun c => { c with stealing := false, backoff := 0 }) rfl)
  · exact .refl s

/-- A deal ends a cluster's wait. -/
theorem endBackoff_ends {cl : Nat} (hs : (clusterOf s cl).stealing = true) (ha : (clusterOf s cl).asked = none)
    (hb : s.clk < (clusterOf s cl).backoff) : (clusterOf (endBackoff s cl) cl).stealing = false := by
  unfold endBackoff
  simp only [hs, ha, Option.isNone_none, Bool.and_self, hb, decide_true, if_true, clusterOf_setCluster_same]

/-- One cluster of those that are asked whether they begin a round. -/
def wakeOne (s : State) (c : Nat) : State :=
  if (clusterOf s c).held.isEmpty && !(clusterOf s c).stealing then
    postFree (setCluster s c fun x => { x with stealing := true }) 4096 (.stealRequest c)
  else s

theorem wakeThieves_eq (s : State) (part : Nat) : wakeThieves s part = (sectorsOf s part).foldl wakeOne s := rfl

theorem wakeOne_heldStay (s : State) (c : Nat) : HeldStay s (wakeOne s c) := by
  unfold wakeOne
  split
  · exact (setCluster_heldStay s c (fun x => { x with stealing := true }) rfl).trans (postFree_heldStay ..)
  · exact .refl s

theorem wakeThieves_heldStay (s : State) (part : Nat) : HeldStay s (wakeThieves s part) := by
  rw [wakeThieves_eq]
  exact .foldl wakeOne_heldStay _ s

/-- A cluster that holds a gang begins no round, and no step leaves the agenda. -/
theorem wakeOne_spec (s : State) (c : Nat) : (∀ d, (clusterOf s d).held ≠ [] → (clusterOf (wakeOne s c) d).stealing = (clusterOf s d).stealing) ∧
    ∀ e ∈ s.agenda, e ∈ (wakeOne s c).agenda := by
  unfold wakeOne
  split
  next h =>
    simp only [Bool.and_eq_true, List.isEmpty_iff] at h
    exact ⟨fun d hd => congrArg Cluster.stealing
      (clusterOf_setCluster_other s (fun x => { x with stealing := true }) fun (e : d = c) => hd (e ▸ h.1)), fun e he => List.mem_append_left _ he⟩
  · exact ⟨fun _ _ => rfl, fun _ h => h⟩

theorem wakeAll_spec : ∀ (l : List Nat) (s : State),
    (∀ d, (clusterOf s d).held ≠ [] → (clusterOf (l.foldl wakeOne s) d).stealing = (clusterOf s d).stealing) ∧
      ∀ e ∈ s.agenda, e ∈ (l.foldl wakeOne s).agenda
  | [], _ => ⟨fun _ _ => rfl, fun _ h => h⟩
  | c :: l, s => by
    obtain ⟨h1, h2⟩ := wakeOne_spec s c
    obtain ⟨h3, h4⟩ := wakeAll_spec l (wakeOne s c)
    refine ⟨fun d hd => (h3 d ?_).trans (h1 d hd), fun e he => h4 e (h2 e he)⟩
    rwa [(wakeOne_heldStay s c).held d]

theorem wakeThieves_stealing (s : State) (part d : Nat) (h : (clusterOf s d).held ≠ []) :
    (clusterOf (wakeThieves s part) d).stealing = (clusterOf s d).stealing := (wakeAll_spec _ s).1 d h

theorem wakeThieves_agenda (s : State) (part : Nat) {e : Due} (h : e ∈ s.agenda) : e ∈ (wakeThieves s part).agenda := (wakeAll_spec _ s).2 e h

/-! ## Held lists (R81) -/

/-- A gang as a cluster's held list has it. -/
def heldGang (cl n : Nat) (g : Gang) : Gang := { g with state := .held cl, cluster := cl, entered := n }

/-- A gang that enters a held list is in it, and nothing else of the clusters has changed. -/
theorem enterHeld_spec (s : State) (cl k : Nat) :
    let t := enterHeld s cl k
    k ∈ (clusterOf t cl).held ∧ RoundsStay s t ∧ t.clk = s.clk ∧ t.grids = s.grids ∧
      look t.gangs k = (look s.gangs k).map (heldGang cl s.nextKey) := by
  intro t
  let s2 := { s with nextKey := s.nextKey + 1, gangs := alter s.gangs k (heldGang cl s.nextKey) }
  have hdef : t = setCluster s2 cl fun c => { c with held := insertHeld s2 k c.held } := rfl
  rw [hdef]
  refine ⟨?_, fun c => ⟨?_, ?_, ?_⟩, rfl, rfl, (look_alter _ _ _ _).trans (if_pos rfl)⟩
  · rw [clusterOf_setCluster_same]
    exact mem_insertHeld ..
  · exact clusterOf_setCluster_eq s2 cl c _ Cluster.stealing rfl
  · exact clusterOf_setCluster_eq s2 cl c _ Cluster.asked rfl
  · exact clusterOf_setCluster_eq s2 cl c _ Cluster.backoff rfl

/-! ## Dealing (R70, R80) -/

/-- A gang of a grid before it has ever been dealt. -/
def newGang (gk coord key : Nat) : Gang :=
  { grid := gk, coord := coord, state := .listed, cluster := 0, c0 := 0, blocks := [], chans := [], started := 0, order := key, entered := key,
    request := none, requested := false, area := none, saved := false, again := false, kept := [], left := [] }

/-- A grid with no gang returned gives up the next of its extent. -/
theorem takeGang_next {gk : Nat} {g : Grid} (hr : g.returned = []) (hlt : g.next < g.lim) :
    ∃ s1, takeGang s gk g = some (s.nextKey, s1) ∧ s1.clk = s.clk ∧ s1.clusters = s.clusters ∧
      s1.grids = put s.grids gk { g with next := g.next + 1, live := g.live + 1 } ∧
      look s1.gangs s.nextKey = some (newGang gk g.next s.nextKey) := by
  refine ⟨{ s with nextKey := s.nextKey + 1, grids := put s.grids gk { g with next := g.next + 1, live := g.live + 1 },
                   gangs := put s.gangs s.nextKey (newGang gk g.next s.nextKey) }, ?_, rfl, rfl, rfl, look_put_same _ _ _⟩
  rw [takeGang, hr]
  exact if_pos hlt

/-- A gang that was returned goes first. -/
theorem takeGang_returned {gk k : Nat} {g : Grid} {rest : List Nat} {y : Gang} (hr : g.returned = k :: rest) (hy : look s.gangs k = some y) :
    ∃ s1, takeGang s gk g = some (k, s1) ∧ s1.clk = s.clk ∧ s1.clusters = s.clusters ∧
      s1.grids = put s.grids gk { g with returned := rest, live := g.live + 1 } ∧
      ∃ z, look s1.gangs k = some z ∧ z.coord = y.coord ∧ z.saved = y.saved := by
  refine ⟨{ s with nextKey := s.nextKey + 1, grids := put s.grids gk { g with returned := rest, live := g.live + 1 },
                   gangs := alter s.gangs k fun x => { x with order := s.nextKey } }, ?_, rfl, rfl, rfl,
    { y with order := s.nextKey }, ?_, rfl, rfl⟩
  · rw [takeGang, hr]
    rfl
  · rw [look_alter, if_pos rfl, hy]
    rfl

/-- A gang that a grid gives up is dealt: it enters the cluster's held list, which is looked at first, and ends the cluster's wait. -/
theorem dealTo_spec {part gk cl k : Nat} {g : Grid} {s1 : State} {y : Gang} (ht : takeGang s gk g = some (k, s1)) (hclk : s1.clk = s.clk)
    (hcl : s1.clusters = s.clusters) (hy : look s1.gangs k = some y) :
    let t := dealTo s part gk cl g
    t.grids = s1.grids ∧ k ∈ (clusterOf t cl).held ∧ ⟨s.clk, .gangStart cl⟩ ∈ t.agenda ∧
      (∃ z, look t.gangs k = some z ∧ z.state = .held cl ∧ z.grid = y.grid ∧ z.coord = y.coord ∧ z.saved = y.saved) ∧
      ((clusterOf s cl).stealing = true → (clusterOf s cl).asked = none → s.clk < (clusterOf s cl).backoff →
        (clusterOf t cl).stealing = false) := by
  intro t
  obtain ⟨hheld, hrounds, hclk2, hgrids, hgang⟩ := enterHeld_spec s1 cl k
  let s3 := if g.cls = 0 then requestRoom (enterHeld s1 cl k) cl k else enterHeld s1 cl k
  have h3 : HeldStay (enterHeld s1 cl k) s3 ∧ RoundsStay (enterHeld s1 cl k) s3 := by
    simp only [s3]
    split
    · exact ⟨requestRoom_heldStay .., requestRoom_rounds _ _ _⟩
    · exact ⟨.refl _, fun _ => ⟨rfl, rfl, rfl⟩⟩
  let s4 := post (postFirst (endBackoff s3 cl) (.gangStart cl)) 0 (.gangDeal part)
  have hdef : t = wakeThieves s4 part := by
    show dealTo s part gk cl g = _
    simp only [dealTo, ht]
    rfl
  have hend : HeldStay s3 (endBackoff s3 cl) := endBackoff_heldStay s3 cl
  have h4 : HeldStay s3 s4 := (hend.trans (postFirst_heldStay ..)).trans (post_heldStay ..)
  have hall : HeldStay (enterHeld s1 cl k) t := hdef ▸ (h3.1.trans h4).trans (wakeThieves_heldStay s4 part)
  have hmem : k ∈ (clusterOf t cl).held := by rw [hall.held]; exact hheld
  rw [hy] at hgang
  obtain ⟨z, hz, ez⟩ := hall.gang k _ hgang
  have hclk3 : s3.clk = s.clk := h3.1.clk.trans (hclk2.trans hclk)
  refine ⟨hall.grids.trans hgrids, hmem, ?_, ⟨z, hz, by rw [ez]; rfl, by rw [ez]; rfl, by rw [ez]; rfl, by rw [ez]; rfl⟩, fun hs ha hb => ?_⟩
  · rw [hdef]
    refine wakeThieves_agenda s4 part (List.mem_append_left _ ?_)
    rw [postFirst, hend.clk, hclk3]
    exact List.mem_cons_self
  · have hsame : ∀ c, clusterOf s1 c = clusterOf s c := fun c => by rw [clusterOf, clusterOf, hcl]
    obtain ⟨hs3, ha3, hb3⟩ := h3.2 cl
    obtain ⟨hs2, ha2, hb2⟩ := hrounds cl
    rw [hdef, wakeThieves_stealing]
    · refine endBackoff_ends (hs3.trans (hs2.trans (by rw [hsame, hs]))) (ha3.trans (ha2.trans (by rw [hsame, ha]))) ?_
      rw [hclk3, hb3, hb2, hsame]
      exact hb
    · rw [(h3.1.trans h4).held]
      exact List.ne_nil_of_mem hheld

/-- A deal goes to the cluster that R70 and R80 name. -/
theorem exec_gangDeal_eq {part gk cl : Nat} {g : Grid} (hn : nextGrids s part (fun _ => true) = some gk) (hg : look s.grids gk = some g)
    (hc : (if g.cls = 0 then urgentTarget s part 0 g else fewest s part true) = some cl) :
    exec (.gangDeal part) s = .next (dealTo s part gk cl g) := by
  show execGangDeal part s = _
  simp only [execGangDeal, hn, hg]
  split at hc
  next h0 => simp only [h0, if_true, hc]
  next h0 => simp only [h0, if_false, hc]

/-! ## Placement (R76, R77) -/

/-- A block takes its place: it is the gang's next block, and clusters, the agenda and the clock are as they were. -/
theorem takeBlock_spec (s : State) (gk k core : Nat) (g : Grid) :
    let t := takeBlock s gk k core g
    t.clusters = s.clusters ∧ t.agenda = s.agenda ∧ t.clk = s.clk ∧
      look t.gangs gk = (look s.gangs gk).map fun x => { x with blocks := x.blocks ++ [s.nextKey] } :=
  ⟨rfl, rfl, rfl, (look_alter _ _ _ _).trans (if_pos rfl)⟩

theorem takeBlocks_spec (gk base : Nat) (g : Grid) : ∀ (l : List Nat) (s : State) (y : Gang), look s.gangs gk = some y →
    let t := l.foldl (fun s k => takeBlock s gk k (base + k) g) s
    t.clusters = s.clusters ∧ t.agenda = s.agenda ∧ t.clk = s.clk ∧
      ∃ ks, ks.length = l.length ∧ look t.gangs gk = some { y with blocks := y.blocks ++ ks }
  | [], s, y, hy => ⟨rfl, rfl, rfl, [], rfl, by rw [List.append_nil]; exact hy⟩
  | k :: l, s, y, hy => by
    obtain ⟨hcl, hag, hclk, hgang⟩ := takeBlock_spec s gk k (base + k) g
    rw [hy, Option.map_some] at hgang
    obtain ⟨hcl', hag', hclk', ks, hlen, hks⟩ := takeBlocks_spec gk base g l (takeBlock s gk k (base + k) g) _ hgang
    refine ⟨hcl'.trans hcl, hag'.trans hag, hclk'.trans hclk, s.nextKey :: ks, by rw [List.length_cons, List.length_cons, hlen], hks.trans ?_⟩
    simp only [List.append_assoc, List.singleton_append]

theorem upTo_length : ∀ n : Nat, (upTo n).length = n
  | 0 => rfl
  | n + 1 => by rw [upTo, List.length_append, upTo_length n, List.length_singleton]

/-- A gang that is placed leaves the head of its held list, has a place for each of its blocks, and starts T_place on. -/
theorem placeGang_spec {cl gk c0 : Nat} {g : Grid} {rest : List Nat} {x : Gang} (hh : (clusterOf s cl).held = gk :: rest)
    (hx : look s.gangs gk = some x) :
    let t := placeGang s cl gk c0 g
    (clusterOf t cl).held = rest ∧ ⟨s.clk + placeTime g, .blockThreadStart gk⟩ ∈ t.agenda ∧
      ∃ y, look t.gangs gk = some y ∧ y.state = .starting ∧ y.cluster = cl ∧ y.c0 = c0 ∧ y.blocks.length = g.nblk := by
  intro t
  let y : Gang := { x with state := .starting, cluster := cl, c0 := c0, blocks := [], started := s.clk + placeTime g }
  let s1 := { s with gangs := alter s.gangs gk fun x =>
    { x with state := .starting, cluster := cl, c0 := c0, blocks := [], started := s.clk + placeTime g } }
  have hy : look s1.gangs gk = some y := by
    rw [look_alter, if_pos rfl, hx]
    rfl
  obtain ⟨hcl, hag, hclk, ks, hlen, hks⟩ := takeBlocks_spec gk (4 * cl + c0) g (upTo g.nblk) s1 y hy
  have hdef : t = post (setCluster ((upTo g.nblk).foldl (fun s k => takeBlock s gk k (4 * cl + c0 + k) g) s1) cl fun c =>
      { c with held := dropOne gk c.held, reserved := c.reserved.filter fun r => r.gang != gk }) (placeTime g) (.blockThreadStart gk) := rfl
  rw [hdef]
  generalize (upTo g.nblk).foldl (fun s k => takeBlock s gk k (4 * cl + c0 + k) g) s1 = s2 at hcl hag hclk hks
  have hcluster : clusterOf s2 cl = clusterOf s cl := by rw [clusterOf, hcl, clusterOf]
  refine ⟨?_, List.mem_append_right _ ?_, _, hks, rfl, rfl, rfl, ?_⟩
  · refine (congrArg Cluster.held (clusterOf_setCluster_same s2 cl fun c =>
      { c with held := dropOne gk c.held, reserved := c.reserved.filter fun r => r.gang != gk })).trans ?_
    rw [hcluster, hh]
    exact if_pos rfl
  · rw [List.mem_singleton]
    exact congrArg (fun n => (⟨n + placeTime g, .blockThreadStart gk⟩ : Due)) hclk.symm
  · rw [List.length_append, hlen, upTo_length]
    exact Nat.zero_add _

theorem gang_of_gangGrid {gk : Nat} {g : Grid} (h : gangGrid s gk = some g) : ∃ x, look s.gangs gk = some x ∧ look s.grids x.grid = some g :=
  Option.bind_eq_some_iff.1 h

theorem exec_gangStart_places {cl gk c0 : Nat} {rest : List Nat} {g : Grid} (hh : (clusterOf s cl).held = gk :: rest)
    (hg : gangGrid s gk = some g) (hf : roomFits g (roomOf s cl [] (some gk)) = some c0) :
    ∃ t, exec (.gangStart cl) s = .next t ∧ (clusterOf t cl).held = rest ∧ ⟨s.clk + placeTime g, .blockThreadStart gk⟩ ∈ t.agenda ∧
      ∃ y, look t.gangs gk = some y ∧ y.state = .starting ∧ y.cluster = cl ∧ y.c0 = c0 ∧ y.blocks.length = g.nblk := by
  obtain ⟨x, hx, -⟩ := gang_of_gangGrid hg
  obtain ⟨hheld, hstart, hgang⟩ := placeGang_spec (c0 := c0) (g := g) hh hx
  have hexec : exec (.gangStart cl) s =
      .next (post (postFirst (placeGang s cl gk c0 g) (.gangStart cl)) 0 (.gangDeal (partOfSector s cl))) := by
    show execGangStart cl s = _
    simp only [execGangStart, hh, hg, hf]
  exact ⟨_, hexec, hheld, List.mem_append_left _ (List.mem_cons_of_mem _ hstart), hgang⟩

/-! ## Start (R72) -/

/-- Beams that are not among those that start are as they were. -/
theorem look_startBeams_other (core key : Nat) (args : DWord) {k : Nat} : ∀ (l : List Nat) (m : NMap Beam) (j : Nat), (∀ n ∈ l, k ≠ 64 * core + n) →
    look (l.foldl (fun (x : NMap Beam × Nat) n => (put x.1 (64 * core + n) (beamStart key x.2 args), x.2 + 1)) (m, j)).1 k = look m k
  | [], _, _, _ => rfl
  | n :: l, _, _, h => (look_startBeams_other core key args l _ _ fun i hi => h i (List.mem_cons_of_mem n hi)).trans
      (look_put_other _ _ _ _ (h n List.mem_cons_self))

/-- Each of the beams that start is at its start, numbered in order. -/
theorem look_startBeams (core key : Nat) (args : DWord) : ∀ (l : List Nat) (m : NMap Beam) (j : Nat), l.Nodup → ∀ i, ∀ h : i < l.length,
    look (l.foldl (fun (x : NMap Beam × Nat) n => (put x.1 (64 * core + n) (beamStart key x.2 args), x.2 + 1)) (m, j)).1 (64 * core + l[i]) =
      some (beamStart key (j + i) args)
  | n :: l, _, _, hn, 0, _ => by
    obtain ⟨hnot, -⟩ := List.nodup_cons.1 hn
    refine (look_startBeams_other core key args l _ _ fun i hi e => hnot ?_).trans (look_put_same _ _ _)
    have hin : n = i := Nat.add_left_cancel e
    exact hin ▸ hi
  | n :: l, m, j, hn, i + 1, h => by
    obtain ⟨-, hl⟩ := List.nodup_cons.1 hn
    have ih := look_startBeams core key args l (put m (64 * core + n) (beamStart key j args)) (j + 1) hl i (Nat.lt_of_succ_lt_succ h)
    rw [Nat.add_right_comm j 1 i] at ih
    exact ih

theorem loadMacros_only (s : State) (core : Nat) (g : Grid) : OnlyMemory s (loadMacros s core g) :=
  .foldl _ (fun s _ => .of_setCore s core _) _ s

theorem zeroLocal_only (s : State) (core base n : Nat) : OnlyMemory s (zeroLocal s core base n) :=
  .of_mem _ (memWf_filter _)

/-- What a block finds on its core changes no gang. -/
theorem readyCore_gangs (s : State) (key : Nat) (b : Block) (g : Grid) : (readyCore s key b g).gangs = s.gangs := by
  have h1 := (loadMacros_only s b.core g).trans (zeroLocal_only _ b.core b.lmbase b.lmb)
  have h2 := h1.trans (.of_setCore _ b.core fun c => { c with slots := b.slots.foldl (fun t i => del t i) c.slots })
  have h3 := h2.trans (.foldl (fun s e => setHandle s b.core e freshHandle) (fun s e => .of_setCore s b.core _) b.handles _)
  exact h3.gangs

/-- A block that starts: its beams hold their threads at their first instruction, and the gangs are as they were. -/
theorem startBlock_spec {key : Nat} {b : Block} (g : Grid) (again : Bool) (hb : look s.blocks key = some b) (hn : b.beams.Nodup) :
    let t := startBlock s key g again
    t.gangs = s.gangs ∧ ∀ i, ∀ h : i < b.beams.length, beamOf t (64 * b.core + b.beams[i]) = some (beamStart key i g.args) := by
  intro t
  let s0 := readyCore s key b g
  let s1 := if g.edge then acquireCaches s0 b.core .sys else if again then acquireCaches s0 b.core .dev else s0
  have hdef : t = { s1 with beams := (b.beams.foldl (fun (x : NMap Beam × Nat) n =>
      (put x.1 (64 * b.core + n) (beamStart key x.2 g.args), x.2 + 1)) (s1.beams, 0)).1 } := by
    show startBlock s key g again = _
    unfold startBlock
    rw [hb]
  have h1 : s1.gangs = s0.gangs := by
    simp only [s1]
    split
    · exact (acquireCaches_only s0 b.core .sys).gangs
    · split
      · exact (acquireCaches_only s0 b.core .dev).gangs
      · rfl
  have h2 := h1.trans (readyCore_gangs s key b g)
  rw [hdef]
  generalize s1 = s1 at h2
  refine ⟨h2, fun i h => (look_startBeams b.core key g.args b.beams s1.beams 0 hn i h).trans ?_⟩
  rw [Nat.zero_add]

/-- The one block of a gang starts in the clock that is due (R72, R81, R256). -/
theorem exec_blockThreadStart_starts {gk key : Nat} {y : Gang} {gr : Grid} {b : Block} (hy : look s.gangs gk = some y)
    (hgr : look s.grids y.grid = some gr) (hst : y.state = .starting) (hsv : y.saved = false) (hbl : y.blocks = [key])
    (hb : look s.blocks key = some b) (hn : b.beams.Nodup) :
    ∃ t, exec (.blockThreadStart gk) s = .next t ∧ (∃ z, look t.gangs gk = some z ∧ z.state = .resident ∧ z.started = s.clk ∧
      z.chans = startChans gr) ∧ ∀ i, ∀ h : i < b.beams.length, beamOf t (64 * b.core + b.beams[i]) = some (beamStart key i gr.args) := by
  have hgrid : gangGrid s gk = some gr := by rw [gangGrid, hy]; exact hgr
  have hexec : exec (.blockThreadStart gk) s = .next (startBlocks s gk y gr) := by
    show execBlockThreadStart gk s = _
    simp only [execBlockThreadStart, hy, hgrid, hst, hsv, Bool.false_eq_true, if_false]
  obtain ⟨hgangs, hbeams⟩ := startBlock_spec gr y.again hb hn
  have hstarts : startBlocks s gk y gr = { startBlock s key gr y.again with
      gangs := alter (startBlock s key gr y.again).gangs gk fun x =>
        { x with state := .resident, started := s.clk, chans := startChans gr, again := false } } := by
    unfold startBlocks
    rw [hbl]
    rfl
  rw [hstarts] at hexec
  generalize startBlock s key gr y.again = u at hexec hgangs hbeams
  refine ⟨_, hexec, ⟨{ y with state := .resident, started := s.clk, chans := startChans gr, again := false }, ?_, rfl, rfl, rfl⟩, hbeams⟩
  show look (alter u.gangs gk _) gk = _
  rw [look_alter, if_pos rfl, hgangs, hy]
  rfl

/-! ## Work donation (R82, R83) -/

section Steal

variable {cl thief v : Nat}

theorem exec_stealRequest_held (h : (clusterOf s cl).held ≠ []) :
    ∃ t, exec (.stealRequest cl) s = .next t ∧ (clusterOf t cl).stealing = false ∧ t.gangs = s.gangs := by
  have hexec : exec (.stealRequest cl) s = .next (setCluster s cl fun c => { c with stealing := false, asked := none }) := by
    show execStealRequest cl s = _
    simp only [execStealRequest, List.isEmpty_eq_false_iff.2 h, Bool.not_false, if_true]
  exact ⟨_, hexec, by rw [clusterOf_setCluster_same], rfl⟩

theorem exec_stealRequest_asks (h : (clusterOf s cl).held = []) (ho : stealOrder s cl ≠ []) :
    ∃ t, exec (.stealRequest cl) s = .next t ∧ (clusterOf t cl).stealing = true ∧ (clusterOf t cl).asked = some (roomOf s cl [] none) ∧
      ∃ c, ⟨c, .stealReply cl (stealOrder s cl)⟩ ∈ t.agenda ∧ s.clk < c := by
  let s1 := setCluster s cl fun c => { c with stealing := true, asked := some (roomOf s cl [] none) }
  have hcl : clusterOf s1 cl = { clusterOf s cl with stealing := true, asked := some (roomOf s cl [] none) } := clusterOf_setCluster_same ..
  have hexec : exec (.stealRequest cl) s = .next (postFree s1 320 (.stealReply cl (stealOrder s cl))) := by
    show execStealRequest cl s = _
    simp only [execStealRequest, h, List.isEmpty_nil, Bool.not_true, Bool.false_eq_true, if_false]
    rfl
  exact ⟨_, hexec, congrArg Cluster.stealing hcl, congrArg Cluster.asked hcl, mem_agenda_postFree s1 320 _⟩

/-- A round without a gang is followed by the wait. -/
theorem stealNothing_spec (s : State) (cl : Nat) : (clusterOf (stealNothing s cl) cl).backoff = s.clk + 4096 ∧
    ⟨s.clk + 4096, .stealBackoffExpiry cl⟩ ∈ (stealNothing s cl).agenda :=
  ⟨congrArg Cluster.backoff (clusterOf_setCluster_same s cl fun c => { c with asked := none, backoff := s.clk + 4096 }),
    List.mem_append_right _ (List.mem_singleton_self _)⟩

theorem exec_stealRequest_alone (h : (clusterOf s cl).held = []) (ho : stealOrder s cl = []) :
    ∃ t, exec (.stealRequest cl) s = .next t ∧ (clusterOf t cl).backoff = s.clk + 4096 ∧ ⟨s.clk + 4096, .stealBackoffExpiry cl⟩ ∈ t.agenda := by
  let s1 := setCluster s cl fun c => { c with stealing := true, asked := some (roomOf s cl [] none) }
  have hexec : exec (.stealRequest cl) s = .next (stealNothing s1 cl) := by
    show execStealRequest cl s = _
    simp only [execStealRequest, h, ho, List.isEmpty_nil, Bool.not_true, Bool.false_eq_true, if_false]
    rfl
  exact ⟨_, hexec, stealNothing_spec s1 cl⟩

/-- A victim with nothing that fits, the last of the round. -/
theorem exec_stealReply_nothing {r : Room} (ha : (clusterOf s thief).asked = some r)
    (hm : Nat.min 8 (((shippable s v r).length + 1) / 2) = 0) :
    ∃ t, exec (.stealReply thief [v]) s = .next t ∧ (clusterOf t thief).backoff = s.clk + 4096 ∧
      ⟨s.clk + 4096, .stealBackoffExpiry thief⟩ ∈ t.agenda ∧ t.gangs = s.gangs := by
  have hexec : exec (.stealReply thief [v]) s = .next (stealNothing s thief) := by
    show execStealReply thief [v] s = _
    simp only [execStealReply, ha, hm, List.isEmpty_nil, if_true]
  obtain ⟨hb, hag⟩ := stealNothing_spec s thief
  exact ⟨_, hexec, hb, hag, rfl⟩

/-- The gangs of a shipment are listed again. -/
theorem listed_fields : ∀ (l : List Nat) (s : State),
    (l.foldl (fun s k => { s with gangs := alter s.gangs k fun g => { g with state := .listed } }) s).clusters = s.clusters ∧
      (l.foldl (fun s k => { s with gangs := alter s.gangs k fun g => { g with state := .listed } }) s).clk = s.clk
  | [], _ => ⟨rfl, rfl⟩
  | _ :: l, _ => listed_fields l _

/-- A victim ships the later half of what fits the thief, and its list is looked at again. -/
theorem exec_stealReply_ships {r : Room} (hne : thief ≠ v) (ha : (clusterOf s thief).asked = some r) :
    let l := shippable s v r
    let m := Nat.min 8 ((l.length + 1) / 2)
    m ≠ 0 → let ship := l.drop (l.length - m)
      ∃ t, exec (.stealReply thief [v]) s = .next t ∧ (clusterOf t v).held = (clusterOf s v).held.filter (fun k => !ship.contains k) ∧
        ⟨s.clk, .gangStart v⟩ ∈ t.agenda ∧ ∃ c, ⟨c, .stealShipmentArrival thief ship⟩ ∈ t.agenda ∧ s.clk < c ∧ c ≤ s.clk + 512 := by
  intro l m hm ship
  let s1 := setCluster s v fun c => { c with held := c.held.filter fun k => !ship.contains k }
  have hexec : ∃ s2, s2.clusters = s1.clusters ∧ s2.clk = s.clk ∧ exec (.stealReply thief [v]) s = .next (postFree (post (postFirst
      (setCluster s2 thief fun c => { c with asked := none }) (.gangStart v)) 0 (.gangDeal (partOfSector s v))) 512
        (.stealShipmentArrival thief ship)) := by
    obtain ⟨hcl, hclk⟩ := listed_fields ship s1
    refine ⟨_, hcl, hclk, ?_⟩
    show execStealReply thief [v] s = _
    simp only [execStealReply, ha]
    exact congrArg Host.Outcome.next (if_neg hm)
  obtain ⟨s2, hcl, hclk, hexec⟩ := hexec
  let s3 := post (postFirst (setCluster s2 thief fun c => { c with asked := none }) (.gangStart v)) 0 (.gangDeal (partOfSector s v))
  have hv : clusterOf s3 v = clusterOf s1 v :=
    (clusterOf_setCluster_other s2 (fun c => { c with asked := none }) (Ne.symm hne)).trans (by rw [clusterOf, hcl, clusterOf])
  have hdrawn : drawn s3 512 < 512 := Nat.mod_lt _ (by decide)
  have hclk3 : s3.clk = s.clk := hclk
  refine ⟨_, hexec, ?_, ?_, s3.clk + (1 + drawn s3 512), List.mem_append_right _ (List.mem_singleton_self _), by omega, by omega⟩
  · refine (congrArg Cluster.held hv).trans ?_
    rw [clusterOf_setCluster_same]
  · refine List.mem_append_left _ (List.mem_append_left _ ?_)
    rw [← hclk3]
    exact List.mem_cons_self

/-- Where a step of this clock is due, the one that is taken is none that waits for the clock's end. -/
theorem takeDue_of_mem {f : Instr → Bool} {clk : Nat} {d : Due} (hclk : d.clk ≤ clk) (hf : f d.step = true) {l : List Due} (hd : d ∈ l) :
    ∃ i rest, takeDue f clk l = some (i, rest) ∧ f i = true := by
  induction l with
  | nil => exact absurd hd List.not_mem_nil
  | cons e l ih =>
    by_cases he : e.clk ≤ clk ∧ f e.step = true
    · exact ⟨e.step, l, if_pos he, he.2⟩
    · obtain rfl | hd := List.mem_cons.1 hd
      · exact absurd ⟨hclk, hf⟩ he
      · obtain ⟨i, rest, hi, hfi⟩ := ih hd
        refine ⟨i, e :: rest, ?_, hfi⟩
        rw [takeDue, if_neg he, hi]

/-- While a deal is due, the step is no arrival of a shipment (R83). -/
theorem step_deal_before_shipment (thief : Nat) (l : List Nat) (part : Nat) (d : Due) (hd : d ∈ s.agenda) (hclk : d.clk ≤ s.clk)
    (hstep : d.step = .gangDeal part) : ∃ i rest, takeDue (fun i => !late i) s.clk s.agenda = some (i, rest) ∧
      step s = exec i { s with agenda := rest } ∧ i ≠ .stealShipmentArrival thief l := by
  obtain ⟨i, rest, hi, hf⟩ := takeDue_of_mem (f := fun i => !late i) hclk (by rw [hstep]; rfl) hd
  refine ⟨i, rest, hi, step_due hi, fun e => ?_⟩
  rw [e] at hf
  exact Bool.false_ne_true hf

/-- A shipped gang enters the thief's held list, which is looked at. -/
theorem exec_stealShipmentArrival_enters {k : Nat} {g : Grid} (hg : gangGrid s k = some g) :
    ∃ t, exec (.stealShipmentArrival thief [k]) s = .next t ∧ k ∈ (clusterOf t thief).held ∧ (clusterOf t thief).stealing = false ∧
      ⟨s.clk, .gangStart thief⟩ ∈ t.agenda ∧ ∃ y, look t.gangs k = some y ∧ y.state = .held thief := by
  obtain ⟨x, hx, -⟩ := gang_of_gangGrid hg
  obtain ⟨hheld, -, hclk, -, hgang⟩ := enterHeld_spec s thief k
  rw [hx, Option.map_some] at hgang
  let s2 := postFirst (setCluster (enterHeld s thief k) thief fun c => { c with stealing := false }) (.gangStart thief)
  have hexec : exec (.stealShipmentArrival thief [k]) s = .next (wakeThieves s2 (partOfSector s thief)) := by
    show execStealShipmentArrival thief [k] s = _
    simp only [execStealShipmentArrival, List.filter_cons, hg, Option.isSome_some, if_true, List.filter_nil, List.foldl_cons, List.foldl_nil]
    rfl
  have hcl : clusterOf s2 thief = { clusterOf (enterHeld s thief k) thief with stealing := false } :=
    clusterOf_setCluster_same (enterHeld s thief k) thief fun c => { c with stealing := false }
  have hwake := wakeThieves_heldStay s2 (partOfSector s thief)
  have hmem : k ∈ (clusterOf s2 thief).held := by rw [hcl]; exact hheld
  obtain ⟨z, hz, ez⟩ := hwake.gang k _ (show look s2.gangs k = _ from hgang)
  refine ⟨_, hexec, by rw [hwake.held]; exact hmem, ?_, wakeThieves_agenda s2 _ ?_, z, hz, by rw [ez]; rfl⟩
  · rw [wakeThieves_stealing s2 _ thief (List.ne_nil_of_mem hmem), hcl]
  · rw [← hclk]
    exact List.mem_cons_self

theorem exec_stealBackoffExpiry_eq (s : State) (cl : Nat) :
    exec (.stealBackoffExpiry cl) s = .next (wakeThief (setCluster s cl fun x => { x with stealing := false, backoff := 0 }) cl) := rfl

theorem exec_stealBackoffExpiry_held (h : (clusterOf s cl).held ≠ []) :
    ∃ t, exec (.stealBackoffExpiry cl) s = .next t ∧ (clusterOf t cl).stealing = false := by
  let s1 := setCluster s cl fun x => { x with stealing := false, backoff := 0 }
  have hcl : clusterOf s1 cl = { clusterOf s cl with stealing := false, backoff := 0 } := clusterOf_setCluster_same ..
  have hstay : wakeThief s1 cl = s1 := by
    simp only [wakeThief, hcl, List.isEmpty_eq_false_iff.2 h, Bool.false_and, Bool.false_eq_true, if_false]
  refine ⟨_, exec_stealBackoffExpiry_eq s cl, ?_⟩
  rw [hstay, hcl]

/-- The wait over, a cluster with nothing held begins a round where another of its partition holds a gang. -/
theorem exec_stealBackoffExpiry_asks {c : Nat} (h : (clusterOf s cl).held = []) (hc : c ∈ sectorsOf s (partOfSector s cl))
    (hh : (clusterOf s c).held ≠ []) :
    ∃ t, exec (.stealBackoffExpiry cl) s = .next t ∧ (clusterOf t cl).stealing = true ∧ ⟨s.clk + 1, .stealRequest cl⟩ ∈ t.agenda := by
  let s1 := setCluster s cl fun x => { x with stealing := false, backoff := 0 }
  have hcl : clusterOf s1 cl = { clusterOf s cl with stealing := false, backoff := 0 } := clusterOf_setCluster_same ..
  have hany : ((sectorsOf s1 (partOfSector s1 cl)).any fun x => !(clusterOf s1 x).held.isEmpty) = true := by
    refine List.any_eq_true.2 ⟨c, hc, ?_⟩
    rw [clusterOf_setCluster_eq s cl c _ Cluster.held rfl, List.isEmpty_eq_false_iff.2 hh]
    rfl
  have hwake : wakeThief s1 cl = post (setCluster s1 cl fun x => { x with stealing := true }) 1 (.stealRequest cl) := by
    simp only [wakeThief, hcl, h, hany, List.isEmpty_nil, Bool.not_false, Bool.and_self, Bool.true_or, if_true]
  refine ⟨_, exec_stealBackoffExpiry_eq s cl, ?_, ?_⟩
  · rw [hwake]
    exact congrArg Cluster.stealing (clusterOf_setCluster_same s1 cl fun x => { x with stealing := true })
  · rw [hwake]
    exact List.mem_append_right _ (List.mem_singleton_self _)

end Steal

end Sys2Proof.Machine

namespace Sys2Proof.Certificates

open Sys2Proof Sys2Proof.Machine

/-- Settles O58, by what each step of the scheduler leaves of the cluster, the gang and the agenda. -/
theorem gangsDealtPlacedAndStolen : Obligations.GangsDealtPlacedAndStolen := by
  unfold Obligations.GangsDealtPlacedAndStolen
  intro s
  refine ⟨fun part gk g cl hn hg hr hlt hc => ?_, fun part gk g cl k rest y hn hg hr hy hc => ?_,
    fun cl gk rest g c0 hh hg hf => exec_gangStart_places hh hg hf,
    fun gk y gr key b hy hgr hst hsv hbl hb hnd => exec_blockThreadStart_starts hy hgr hst hsv hbl hb hnd,
    fun cl => ⟨exec_stealRequest_held, exec_stealRequest_asks, exec_stealRequest_alone⟩,
    fun thief v r hne ha => ⟨exec_stealReply_nothing ha, exec_stealReply_ships hne ha⟩,
    fun thief l part d hd hclk hstep => step_deal_before_shipment thief l part d hd hclk hstep,
    fun thief k g hg => exec_stealShipmentArrival_enters hg,
    fun cl => ⟨exec_stealBackoffExpiry_held, fun c h hc hh => exec_stealBackoffExpiry_asks h hc hh⟩⟩
  · obtain ⟨s1, ht, hclk, hcl, hgrids, hgang⟩ := takeGang_next hr hlt
    obtain ⟨hgrid, hheld, hstart, ⟨z, hz, hzs, hzg, hzc, -⟩, hend⟩ := dealTo_spec (part := part) (cl := cl) ht hclk hcl hgang
    exact ⟨_, exec_gangDeal_eq hn hg hc, by rw [hgrid, hgrids, look_put_same], hheld, hstart, ⟨z, hz, hzg, hzc, hzs⟩, hend⟩
  · obtain ⟨s1, ht, hclk, hcl, hgrids, z, hgang, hcoord, hsaved⟩ := takeGang_returned (gk := gk) hr hy
    obtain ⟨hgrid, hheld, hstart, ⟨w, hw, hws, -, hwc, hwv⟩, -⟩ := dealTo_spec (part := part) (cl := cl) ht hclk hcl hgang
    exact ⟨_, exec_gangDeal_eq hn hg hc, by rw [hgrid, hgrids, look_put_same], hheld, hstart, w, hw, hws, hwc.trans hcoord, hwv.trans hsaved⟩

end Sys2Proof.Certificates
end

section
/-!
SUPPORT. Writes of control registers (R64, R65, R154, R181, R191, R203, R288, R295, R313, R318-R323): which writer a register has, and what
each leaves in the registers.
-/
namespace Sys2Proof.Machine

open Sys2Proof

set_option Elab.async false

variable {s : State} {part n q k : Nat} {v : Word} {g : Option Nat}

/-! ## Bits and fields -/

theorem bit_toNat {w : Nat} (v : BitVec w) (i : Nat) : bit v.toNat i = v.getLsbD i := by
  simp [bit, BitVec.getLsbD, Nat.testBit_eq_decide_div_mod_eq, beq_eq_decide]

theorem fld_toNat (v : Word) (hi lo : Nat) : fld v.toNat hi lo = (v.extractLsb' lo (hi + 1 - lo)).toNat := by
  simp [fld, Nat.shiftRight_eq_div_pow]

/-- EN, FAULT and DEVEN of a queue, or EN, ERR and the owner of a flash pair, as their writer composes them. -/
theorem flags_bits (a b : Bool) (x : Nat) : (BitVec.ofNat 32 (a.toNat + 4 * b.toNat + 8 * x)).getLsbD 0 = a ∧
    (BitVec.ofNat 32 (a.toNat + 4 * b.toNat + 8 * x)).getLsbD 2 = b := by
  simp only [BitVec.getLsbD_ofNat, Nat.testBit_eq_decide_div_mod_eq]
  cases a <;> cases b <;> simp <;> omega

theorem rwMerge_all (a v : Word) : rwMerge a 0xFFFFFFFF v = v := by
  show (a &&& ~~~ BitVec.allOnes 32) ||| (v &&& BitVec.allOnes 32) = v
  rw [BitVec.not_allOnes, BitVec.and_zero, BitVec.zero_or, BitVec.and_allOnes]

/-! ## Which writer a register has (R298) -/

theorem csrWrite_queue (h : 0x10000 ≤ n ∧ n < 0x11000) : csrWrite s part n v g = writeLq s ((n - 0x10000) / 16) (n % 16) v := by
  unfold csrWrite
  iterate 14 rw [if_neg (by omega)]
  exact if_pos h

theorem csrWrite_lq (hq : q < 256) (hk : k < 16) : csrWrite s part (lq q k) v g = writeLq s q k v := by
  rw [csrWrite_queue (by unfold lq; omega)]
  congr 1 <;> (unfold lq; omega)

theorem csrWrite_fq (hq : q < 64) (hk : k < 16) : csrWrite s part (fq q k) v g = writeFq s q k v := by
  unfold csrWrite
  have hn : 0x3000 ≤ fq q k ∧ fq q k < 0x3400 := by unfold fq; omega
  iterate 13 rw [if_neg (by omega)]
  rw [if_pos hn]
  congr 1 <;> (unfold fq; omega)

theorem csrWrite_hmask (h : 0x800 ≤ n ∧ n < 0x880) : csrWrite s part n v g = writeHmask s n v := by
  unfold csrWrite
  iterate 12 rw [if_neg (by omega)]
  exact if_pos h

theorem csrWrite_milv (h : 0x510 ≤ n ∧ n < 0x514) : csrWrite s part n v g = writeMilv s part n v := by
  unfold csrWrite
  iterate 8 rw [if_neg (by omega)]
  exact if_pos h

theorem csrWrite_halt (h : 0x400 ≤ n ∧ n < 0x460) : csrWrite s part n v g = csrPlain s part n v := by
  unfold csrWrite
  iterate 15 rw [if_neg (by omega)]

theorem csrWrite_plain (h : PlainReg n) : csrWrite s part n v g = csrPlain s part n v := by
  obtain rfl | rfl | rfl | rfl | rfl | rfl | rfl | rfl := h
  all_goals rfl

theorem csrOwner_plain (h : PlainReg n) : csrOwner n = some .partition ∧ isHalt n = false := by
  obtain rfl | rfl | rfl | rfl | rfl | rfl | rfl | rfl := h
  all_goals exact ⟨rfl, rfl⟩

theorem csrOwner_halt (h : 0x400 ≤ n ∧ n < 0x460) : csrOwner n = some (.core ((n - 0x400) / 2)) := by
  unfold csrOwner
  rw [if_neg (by omega)]
  exact if_pos h

theorem csrMask_halt (h : 0x400 ≤ n ∧ n < 0x460) : csrMask n = 0xFFFFFFFF := by
  unfold csrMask
  iterate 12 rw [if_neg (by omega)]
  exact if_pos h

theorem csrGet_csrPlain (s : State) (part n : Nat) (v : Word) : csrGet (csrPlain s part n v) part n = rwMerge (csrGet s part n) (csrMask n) v :=
  csrGet_csrPut_same _ _ _ _

/-! ## Host writes that act at once (R313) -/

/-- A write that the function does not reach is dropped. -/
theorem hostWrite_unreached (h : hostReaches s false part n = false) : hostWrite part n v s = .next s := by
  rw [hostWrite, h]
  rfl

theorem hostWrite_reached (h : hostReaches s false part n = true) : hostWrite part n v s = .next (csrWrite s part n v none) := by
  rw [hostWrite, if_pos h]

section Queue

variable (hq : q < 256)
include hq

theorem exec_lqtlWrite_eq (h : hostReaches s false part (lq q 4) = true) : exec (.lqtlWrite part q v) s = .next (writeTail s q v) :=
  (hostWrite_reached h).trans (congrArg Host.Outcome.next (csrWrite_lq hq (by decide)))

theorem exec_lqtlWrite_dropped (h : hostReaches s false part (lq q 4) = false ∨ lqDev s q = true ∨ tailHeld s q = true) :
    exec (.lqtlWrite part q v) s = .next s := by
  by_cases hr : hostReaches s false part (lq q 4) = true
  · rw [exec_lqtlWrite_eq hq hr, writeTail, if_pos]
    simpa [hr] using h
  · exact hostWrite_unreached (Bool.eq_false_iff.2 hr)

/-- A tail that lies in the ring is taken; another sets FAULT (R65). -/
theorem exec_lqtlWrite_takes (h : hostReaches s false part (lq q 4) = true) (hd : lqDev s q = false) (ht : tailHeld s q = false) :
    (v.toNat < lqN s q → ∃ t, exec (.lqtlWrite part q v) s = .next t ∧ lqTl t q = v.toNat) ∧
      (lqN s q ≤ v.toNat → ∃ t, exec (.lqtlWrite part q v) s = .next t ∧ lqTl t q = lqTl s q ∧ bit (csrN t 0 (lq q 5)) 2 = true) := by
  have hgo : ¬ (lqDev s q || tailHeld s q) = true := by rw [hd, ht]; exact Bool.false_ne_true
  refine ⟨fun hlt => ⟨_, exec_lqtlWrite_eq hq h, ?_⟩, fun hge => ⟨_, exec_lqtlWrite_eq hq h, ?_⟩⟩
  · rw [writeTail, if_neg hgo, if_neg (Nat.not_le.2 hlt)]
    refine ((pump_queueStep _ q).csrN (k := 4) (by decide)).trans ?_
    rw [csrN_csrPut_lq, if_pos rfl]
  · rw [writeTail, if_neg hgo, if_pos hge]
    refine ⟨(lqFault_queueStep (q := q) (ks := [5]) s (List.mem_singleton_self 5)).csrN (k := 4) (by decide), ?_⟩
    rw [lqFault, csrN, csrGet_csrPut_same, bit_toNat, BitVec.getLsbD_or]
    exact Bool.or_true _

end Queue

/-- A write of LQCTL would enable the queue over a base that is not aligned (R65). -/
def enableRefused (s : State) (q : Nat) (v : Word) : Bool := v.getLsbD 0 && !lqEn s q && decide (csrN s 0 (lq q 0) % 256 ≠ 0)

/-- What a write of LQCTL leaves in EN and FAULT, before the queue goes on. -/
theorem writeLqctl_eq (s : State) (q : Nat) (v : Word) : ∃ (fault : Bool) (x : Nat), (enableRefused s q v = true → fault = true) ∧
    let on := v.getLsbD 0 && !enableRefused s q v
    let s1 := csrPut s 0 (lq q 5) (BitVec.ofNat 32 (on.toNat + 4 * fault.toNat + 8 * x))
    writeLqctl s q v = if on then pump s1 q else s1 := by
  let old := csrGet s 0 (lq q 5)
  let dev := if old.getLsbD 0 then old.getLsbD 3 else v.getLsbD 3
  refine ⟨(old.getLsbD 2 && !v.getLsbD 2) || enableRefused s q v, dev.toNat, fun h => by rw [h, Bool.or_true], ?_⟩
  have hen : lqEn s q = old.getLsbD 0 := bit_toNat _ _
  simp only [writeLqctl, enableRefused, hen]
  rfl

theorem lqEn_csrPut (s : State) (q : Nat) (a b : Bool) (x : Nat) :
    lqEn (csrPut s 0 (lq q 5) (BitVec.ofNat 32 (a.toNat + 4 * b.toNat + 8 * x))) q = a ∧
      bit (csrN (csrPut s 0 (lq q 5) (BitVec.ofNat 32 (a.toNat + 4 * b.toNat + 8 * x))) 0 (lq q 5)) 2 = b := by
  rw [lqEn, csrN, csrGet_csrPut_same, bit_toNat, bit_toNat]
  exact flags_bits a b x

/-- EN is set over an aligned base, refused with FAULT over another, and cleared (R64, R65). -/
theorem exec_lqEnable_spec (hq : q < 256) (h : hostReaches s false part (lq q 5) = true) :
    (csrN s 0 (lq q 0) % 256 = 0 → (queueOf s q).head = none → lqHd s q = lqTl s q →
      ∃ t, exec (.lqEnable part q) s = .next t ∧ lqEn t q = true) ∧
    (csrN s 0 (lq q 0) % 256 ≠ 0 → lqEn s q = false →
      ∃ t, exec (.lqEnable part q) s = .next t ∧ lqEn t q = false ∧ bit (csrN t 0 (lq q 5)) 2 = true) ∧
    ∃ t, exec (.lqDisable part q) s = .next t ∧ lqEn t q = false ∧ t.grids = s.grids := by
  have hexec : ∀ v, hostWrite part (lq q 5) v s = .next (writeLqctl s q v) := fun v =>
    (hostWrite_reached h).trans (congrArg Host.Outcome.next (csrWrite_lq hq (by decide)))
  have hon : ((csrGet s 0 (lq q 5) &&& 8) ||| 1).getLsbD 0 = true := by simp
  have hoff : (csrGet s 0 (lq q 5) &&& 8).getLsbD 0 = false := by simp
  refine ⟨fun hb hh hl => ⟨_, hexec _, ?_⟩, fun hb hen => ⟨_, hexec _, ?_⟩, ⟨_, hexec _, ?_⟩⟩
  · obtain ⟨fault, x, -, heq⟩ := writeLqctl_eq s q ((csrGet s 0 (lq q 5) &&& 8) ||| 1)
    have hno : enableRefused s q ((csrGet s 0 (lq q 5) &&& 8) ||| 1) = false := by
      simp only [enableRefused, hb, ne_eq, not_true_eq_false, decide_false, Bool.and_false]
    simp only [hno, hon, Bool.not_false, Bool.and_self, if_true] at heq
    have hidle : lqHd (csrPut s 0 (lq q 5) (BitVec.ofNat 32 (true.toNat + 4 * fault.toNat + 8 * x))) q =
        lqTl (csrPut s 0 (lq q 5) (BitVec.ofNat 32 (true.toNat + 4 * fault.toNat + 8 * x))) q := by
      rw [lqHd, lqTl, csrN_csrPut_lq, csrN_csrPut_lq]
      exact hl
    have hpump := pump_of_idle (show (queueOf (csrPut s 0 (lq q 5) _) q).head = none from hh) (.inr (.inr hidle))
    rw [heq, hpump]
    exact (lqEn_csrPut s q true fault x).1
  · obtain ⟨fault, x, hf, heq⟩ := writeLqctl_eq s q ((csrGet s 0 (lq q 5) &&& 8) ||| 1)
    have hyes : enableRefused s q ((csrGet s 0 (lq q 5) &&& 8) ||| 1) = true := by
      simp only [enableRefused, hb, hen, hon, ne_eq, not_false_eq_true, decide_true, Bool.not_false, Bool.and_self]
    simp only [hyes, hf hyes, Bool.not_true, Bool.and_false, Bool.false_eq_true, if_false] at heq
    rw [heq]
    exact lqEn_csrPut s q false true x
  · obtain ⟨fault, x, -, heq⟩ := writeLqctl_eq s q (csrGet s 0 (lq q 5) &&& 8)
    simp only [hoff, Bool.false_and, Bool.false_eq_true, if_false] at heq
    rw [heq]
    exact ⟨(lqEn_csrPut s q false fault x).1, rfl⟩

/-! ## Registers of a partition (R181, R191, R288, R295, R320) -/

theorem exec_defspillWrite_spec (h : hostReaches s false part 0x201 = true) :
    (fld v.toNat 7 4 = 0 ∨ 8 < fld v.toNat 3 0 → exec (.defspillWrite part v) s = .next s) ∧
      (fld v.toNat 7 4 ≠ 0 → fld v.toNat 3 0 ≤ 8 → ∃ t, exec (.defspillWrite part v) s = .next t ∧
        csrGet t part 0x201 = rwMerge (csrGet s part 0x201) 0xFF v) := by
  have hexec : exec (.defspillWrite part v) s = .next (if fld v.toNat 7 4 = 0 ∨ 8 < fld v.toNat 3 0 then s else csrPlain s part 0x201 v) :=
    hostWrite_reached h
  refine ⟨fun hbad => by rw [hexec, if_pos hbad], fun h7 h3 => ⟨_, hexec, ?_⟩⟩
  rw [if_neg (by omega)]
  exact csrGet_csrPlain s part 0x201 v

/-- Cores whose caches are emptied. -/
def emptyCaches (s : State) (l : List Nat) : State := l.foldl (fun s c => setCore s c fun x => { x with l1 := [], scaleCache := [] }) s

theorem emptyCaches_csr : ∀ (l : List Nat) (s : State), (emptyCaches s l).csr = s.csr
  | [], _ => rfl
  | _ :: l, _ => emptyCaches_csr l _

theorem emptyCaches_empty {c : Nat} : ∀ (l : List Nat) (s : State), c ∈ l ∨ ((coreOf s c).l1 = [] ∧ (coreOf s c).scaleCache = []) →
    (coreOf (emptyCaches s l) c).l1 = [] ∧ (coreOf (emptyCaches s l) c).scaleCache = []
  | [], _, h => h.elim (fun h => absurd h List.not_mem_nil) id
  | a :: l, s, h => by
    refine emptyCaches_empty l _ ?_
    by_cases hc : c = a
    · right
      rw [hc, coreOf_setCore_same]
      exact ⟨rfl, rfl⟩
    · rw [coreOf_setCore_other _ _ _ _ hc]
      exact h.imp (fun h => (List.mem_cons.1 h).resolve_left hc) id

theorem writeMilv_eq (s : State) (part q : Nat) (v : Word) (h : fld v.toNat 29 28 ≠ 3) : writeMilv s part (0x510 + q) v =
    let s1 := csrPlain s part (0x510 + q) v
    if csrGet s1 part (0x510 + q) = csrGet s part (0x510 + q) then s
    else
      let s2 := emptyCaches s1 (coresOf s1 q)
      { s2 with l2 := s2.l2.filter fun e => !((l2Of e.1).2.1 == 0 && partOfSector s (l2Of e.1).1 == q) } := by
  unfold writeMilv
  rw [if_neg h, Nat.add_sub_cancel_left]
  rfl

/-- A write of MILVq that changes it empties the caches of its partition (R320). -/
theorem exec_milvWrite_spec (hq : q < 4) (h : hostReaches s false part (0x510 + q) = true) :
    (fld v.toNat 29 28 = 3 → exec (.milvWrite part q v) s = .next s) ∧
    (fld v.toNat 29 28 ≠ 3 → ∃ t, exec (.milvWrite part q v) s = .next t ∧
      csrGet t part (0x510 + q) = rwMerge (csrGet s part (0x510 + q)) 0xF7FF07FF v ∧
      (csrGet t part (0x510 + q) ≠ csrGet s part (0x510 + q) → (∀ c ∈ coresOf s q, (coreOf t c).l1 = [] ∧ (coreOf t c).scaleCache = []) ∧
        ∀ e ∈ t.l2, (l2Of e.1).2.1 = 0 → partOfSector s (l2Of e.1).1 ≠ q)) := by
  have hexec : exec (.milvWrite part q v) s = .next (writeMilv s part (0x510 + q) v) := by
    show execMilvWrite part q v s = _
    rw [execMilvWrite, if_pos ⟨hq, h⟩, csrWrite_milv (by omega)]
  refine ⟨fun h3 => by rw [hexec, writeMilv, if_pos h3], fun h3 => ⟨_, hexec, ?_⟩⟩
  have hmask : csrMask (0x510 + q) = 0xF7FF07FF := by interval_cases q <;> rfl
  have hkey : csrKey part (0x510 + q) ≠ csrKey 0 0x500 := by interval_cases q <;> exact nofun
  have hval := csrGet_csrPlain s part (0x510 + q) v
  rw [hmask] at hval
  have hcores : coresOf (csrPlain s part (0x510 + q) v) q = coresOf s q := by
    have hcfg : csrGet (csrPlain s part (0x510 + q) v) 0 0x500 = csrGet s 0 0x500 :=
      (csrGet_csrPut ..).trans (if_neg fun e => hkey e.symm)
    simp only [coresOf, partOfCore, partOfQuarter, csrN, hcfg]
  rw [writeMilv_eq s part q v h3]
  dsimp only
  split
  next heq => exact ⟨heq.symm.trans hval, fun hne => absurd rfl hne⟩
  next =>
    refine ⟨?_, fun _ => ⟨fun c hc => ?_, fun e he h0 hp => ?_⟩⟩
    · rw [← hval]
      exact congrArg (lookD · _ _) (emptyCaches_csr _ _)
    · exact emptyCaches_empty _ _ (.inl (hcores.symm ▸ hc))
    · have hkeep := (List.mem_filter.1 he).2
      rw [h0, hp] at hkeep
      simp at hkeep

theorem exec_dbghaltWrite_spec (h1 : 0x400 ≤ n) (h2 : n < 0x460) (h : hostReaches s false part n = true) :
    ∃ t, exec (.dbghaltWrite part n v) s = .next t ∧ csrGet t part n = v := by
  have hhalt : isHalt n = true := by simp [isHalt, h1, h2]
  have hexec : exec (.dbghaltWrite part n v) s = .next (csrPlain s part n v) := by
    show execDbghaltWrite part n v s = _
    rw [execDbghaltWrite, hhalt, h, Bool.and_self, if_pos rfl, csrWrite_halt ⟨h1, h2⟩]
  refine ⟨_, hexec, ?_⟩
  rw [csrGet_csrPlain, csrMask_halt ⟨h1, h2⟩, rwMerge_all]

/-- Every register of a record that is cleared reads 0. -/
theorem csrGet_csrClear (s : State) (part n : Nat) : ∀ k, ∀ i < k, csrGet (csrClear s part n k) part (n + i) = 0
  | k + 1, i, hi => by
    have hdef : csrClear s part n (k + 1) = csrPut (csrClear s part n k) part (n + k) 0 := by
      rw [csrClear, upTo, List.foldl_append]
      rfl
    rw [hdef, csrGet_csrPut]
    split
    · rfl
    next hne =>
      refine csrGet_csrClear s part n k i (Nat.lt_of_le_of_ne (Nat.le_of_lt_succ hi) fun e => hne ?_)
      rw [e]

theorem exec_dtrapClear_spec (h : hostReaches s false part 0x310 = true) :
    ∃ t, exec (.dtrapClear part) s = .next t ∧ ∀ i, i < 4 → csrGet t part (0x310 + i) = 0 :=
  ⟨csrClear s part 0x310 4, hostWrite_reached h, fun i hi => csrGet_csrClear s part 0x310 4 i hi⟩

theorem exec_dfltClear_spec (h : hostReaches s false part 0x205 = true) :
    ∃ t, exec (.dfltClear part) s = .next t ∧ ∀ i, i < 4 → csrGet t part (0x204 + i) = 0 :=
  ⟨csrClear s part 0x204 4, hostWrite_reached h, fun i hi => csrGet_csrClear s part 0x204 4 i hi⟩

/-! ## BAR0 (R313) -/

section Bar0

variable {vf : Option Nat} {off len p : Nat}

theorem exec_controlRegister_unnamed (h : hostNames s vf off len = none) :
    (∀ v, exec (.controlRegisterWrite vf (off, len) (some v)) s = .next s) ∧
      exec (.controlRegisterWrite vf (off, len) none) s = .next { s with sent := s.sent ++ [.reply none] } := by
  refine ⟨fun v => ?_, ?_⟩
  · show execControlRegisterWrite vf (off, len) (some v) s = _
    simp only [execControlRegisterWrite, h]
  · show execControlRegisterWrite vf (off, len) none s = _
    simp only [execControlRegisterWrite, h]
    rfl

theorem exec_controlRegister_write (h : hostNames s vf off len = some (p, n)) (v : Word) :
    exec (.controlRegisterWrite vf (off, len) (some v)) s = .next (if csrOwner n = some .device then pfWrite s n 0 v
      else if isHalt n then post s 0 (.dbghaltWrite p n v) else csrWrite s p n v none) := by
  show execControlRegisterWrite vf (off, len) (some v) s = _
  simp only [execControlRegisterWrite, h]

theorem exec_controlRegister_named (h : hostNames s vf off len = some (p, n)) :
    exec (.controlRegisterWrite vf (off, len) none) s = .next { s with sent := s.sent ++ [.reply (some (bytesLE 4 (csrRead s p n).toNat))] } ∧
    ∀ v, (csrOwner n = some .device → exec (.controlRegisterWrite vf (off, len) (some v)) s =
        .next { s with pfWrites := s.pfWrites ++ [⟨n, 0, v⟩] }) ∧
      (PlainReg n → ∃ t, exec (.controlRegisterWrite vf (off, len) (some v)) s = .next t ∧
        csrGet t p n = rwMerge (csrGet s p n) (csrMask n) v ∧ t.mem = s.mem ∧ t.beams = s.beams) ∧
      (isHalt n = true → exec (.controlRegisterWrite vf (off, len) (some v)) s = .next (post s 0 (.dbghaltWrite p n v))) := by
  refine ⟨?_, fun v => ⟨fun hd => ?_, fun hp => ⟨csrPlain s p n v, ?_, csrGet_csrPlain s p n v, rfl, rfl⟩, fun hh => ?_⟩⟩
  · show execControlRegisterWrite vf (off, len) none s = _
    simp only [execControlRegisterWrite, h]
    rfl
  · rw [exec_controlRegister_write h, if_pos hd]
    rfl
  · obtain ⟨howner, hhalt⟩ := csrOwner_plain hp
    rw [exec_controlRegister_write h, howner, if_neg nofun, hhalt, if_neg Bool.false_ne_true, csrWrite_plain hp]
  · have hrange : 0x400 ≤ n ∧ n < 0x460 := by simpa [isHalt] using hh
    rw [exec_controlRegister_write h, csrOwner_halt hrange, if_neg nofun, if_pos hh]

end Bar0

/-! ## Writes of device registers wait (R318) -/

theorem device_writes_wait (s : State) :
    (∀ n v, 0x800 ≤ n → n < 0x880 → n % 8 < 6 → WaitsForClock s (.hmaskWrite n v) n 0 v) ∧
    (∀ v, WaitsForClock s (.partcfgWrite v) 0x500 0 v ∧ WaitsForClock s (.qreqWrite v) 0x501 0 (v &&& 0xF) ∧
      WaitsForClock s (.nbndWrite v) 0x520 0 v ∧ WaitsForClock s (.qctlWrite v) 0x530 0 v) ∧
    WaitsForClock s .hgrbWrite 0x501 0xF 0x100 ∧
    ∀ qp, qp < 64 → WaitsForClock s (.fqEnable qp) (fq qp 11) 0xC0 1 ∧ WaitsForClock s (.fqDisable qp) (fq qp 11) 0xC0 0 := by
  refine ⟨fun n v h1 h2 h3 => ?_, fun v => ⟨rfl, rfl, rfl, rfl⟩, rfl, fun qp hqp => ⟨?_, ?_⟩⟩
  · exact congrArg Host.Outcome.next (if_pos ⟨h1, h2, h3⟩)
  · exact congrArg Host.Outcome.next (if_pos hqp)
  · exact congrArg Host.Outcome.next (if_pos hqp)

end Sys2Proof.Machine
end

section
/-!
SUPPORT. The end of a clock, and the writes of device registers behind it (R154, R203, R204, R318-R323).
-/
namespace Sys2Proof.Machine

open Sys2Proof

set_option Elab.async false

variable {s t u : State} {n q : Nat} {v : Word} {g : Option Nat}

/-! ## What engines and caches may do at a clock's end (R148, R152, R278) -/

/-- The state t differs from s in memory, caches, the cores' own parts, the counter of free values, what decodes and flash commands have
written, and what has been sent. -/
def EngineStep (s t : State) : Prop :=
  t = { s with mem := t.mem, bad := t.bad, l2 := t.l2, cores := t.cores, aliased := t.aliased, fresh := t.fresh, decodeQ := t.decodeQ,
               flash := t.flash, sent := t.sent }

namespace EngineStep

theorem refl (s : State) : EngineStep s s := rfl

theorem trans (h : EngineStep s t) (g : EngineStep t u) : EngineStep s u := by
  unfold EngineStep at h g ⊢
  rw [g, h]

theorem of_only (h : OnlyMemory s t) : EngineStep s t := by
  unfold EngineStep
  rw [h.same]

theorem foldl {α : Type} {f : State → α → State} (hf : ∀ s a, EngineStep s (f s a)) : ∀ (l : List α) (s : State), EngineStep s (l.foldl f s)
  | [], s => .refl s
  | a :: l, s => (hf s a).trans (foldl hf l (f s a))

theorem fields (h : EngineStep s t) : t.csr = s.csr ∧ t.clk = s.clk ∧ t.pfWrites = s.pfWrites ∧ t.cfgNext = s.cfgNext := by
  rw [h]
  exact ⟨rfl, rfl, rfl, rfl⟩

end EngineStep

theorem engineDrop_only (s : State) (core pa : Nat) : OnlyMemory s (engineDrop s core pa) :=
  (ownCopyBack_only s (core / 4) 0 pa true).trans (l1Drop_only _ core pa)

theorem engineWrite_only (core : Nat) (pages : NMap Nat) : ∀ (fuel : Nat) (s : State) (va : Nat) (l : List Byte),
    OnlyMemory s (engineWrite core pages fuel s va l)
  | 0, s, _, _ => .refl s
  | fuel + 1, s, va, l => by
    unfold engineWrite
    dsimp only
    split
    · exact .refl s
    · split
      · refine OnlyMemory.trans ?_ (engineWrite_only core pages fuel _ _ _)
        exact (OnlyMemory.foldl _ (fun s i => engineDrop_only s core _) _ s).trans (blockWrite_only _ _ _ _)
      · refine OnlyMemory.trans ?_ (engineWrite_only core pages fuel _ _ _)
        exact (engineDrop_only s core _).trans (homeWrite_only _ _ _ _)

theorem rangePut_only (s : State) (core : Nat) (pages : NMap Nat) (r : Range) (off : Nat) (l : List Byte) :
    OnlyMemory s (rangePut s core pages r off l) := by
  unfold rangePut
  split
  · exact .of_put s _ l
  · exact engineWrite_only core pages _ s _ l

theorem writeEarly_only (s : State) (core e : Nat) (pages : NMap Nat) (r : Range) (off : Nat) (written : List Nat) (l : List Byte) :
    OnlyMemory s (writeEarly s core e pages r off written l).1 := by
  unfold writeEarly
  suffices hfold : ∀ (bs : List (Byte × Nat)) (x : State × List Nat), OnlyMemory x.1 (bs.foldl (fun (x : State × List Nat) b =>
      if !x.2.contains b.2 && Config.writesEarly s.fresh ((b.2 * 64 + core) * 256 + e) && earlyOk x.1 core pages r b.2 then
        (rangePut x.1 core pages r b.2 [b.1], b.2 :: x.2)
      else x) x).1 from hfold (l.zipIdx off) (s, written)
  intro bs
  induction bs with
  | nil => exact fun x => .refl x.1
  | cons b bs ih =>
    intro x
    refine OnlyMemory.trans ?_ (ih _)
    dsimp only
    split
    · exact rangePut_only x.1 core pages r b.2 [b.1]
    · exact .refl x.1

theorem of_setOp (s : State) (core e inst : Nat) (f : EngineOp → EngineOp) : OnlyMemory s (setOp s core e inst f) := .of_setCore s core _

theorem earlyCopies_only (s : State) (core : Nat) : OnlyMemory s (earlyCopies s core) :=
  OnlyMemory.foldl _ (fun s o => by
    dsimp only
    generalize (handleAt s core (o.handle.getD 0)).range.getD ⟨true, 0, 0⟩ = r
    exact (writeEarly_only s core (o.handle.getD 0) o.pages r 0 o.written o.data).trans (of_setOp ..)) _ s

theorem earlyDecode_step (s : State) (quarter : Nat) : EngineStep s (earlyDecode s quarter) := by
  unfold earlyDecode
  split
  · exact (EngineStep.of_only (writeEarly_only s _ _ _ _ _ _ _)).trans rfl
  · exact .refl s

theorem earlyRead_step (k : Nat) (s : State) (c : FlashCmd) : EngineStep s (earlyRead k s c) := by
  unfold earlyRead
  split
  · exact .refl s
  · exact (EngineStep.of_only (writeEarly_only s _ _ _ _ _ _ _)).trans rfl

theorem submit_step (s : State) (k : Nat) (c : FlashCmd) : EngineStep s (submit s k c) := by
  unfold submit
  dsimp only
  refine EngineStep.trans (EngineStep.of_only (OnlyMemory.trans ?_ (homePut_only _ _ _ _ _))) rfl
  split
  · exact homePut_only _ _ _ _ _
  · exact .refl s

theorem pumpFlash_step (k : Nat) : ∀ (fuel : Nat) (s : State), EngineStep s (pumpFlash k fuel s)
  | 0, s => .refl s
  | fuel + 1, s => by
    unfold pumpFlash
    dsimp only
    split
    · exact .refl s
    · split
      · exact (submit_step s k _).trans (pumpFlash_step k fuel _)
      · exact .refl s

theorem engineWrites_step (s : State) : EngineStep s (engineWrites s) := by
  have h1 : EngineStep s _ := EngineStep.foldl (fun s (c : Nat × Core) => EngineStep.of_only (earlyCopies_only s c.1)) s.cores s
  have h2 := h1.trans (EngineStep.foldl earlyDecode_step (upTo 4) _)
  refine (h2.trans (EngineStep.foldl (fun s (f : Nat × FlashRun) => EngineStep.foldl (earlyRead_step f.1) f.2.out s) _ _)).trans
    (EngineStep.foldl (fun s f => ?_) _ _)
  split
  · exact .refl s
  · exact pumpFlash_step ..

theorem evictSome_step (s : State) : EngineStep s (evictSome s) := by
  let s1 := { s with cores := s.cores.map fun (c : Nat × Core) => (c.1, evictCore s.fresh c.1 c.2) }
  have h1 : EngineStep s s1 := rfl
  refine (h1.trans (EngineStep.foldl (fun t (e : Nat × (BitVec 1024 × BitVec 128)) => ?_) s1.l2 s1)).trans (.of_only (.of_draw _))
  split
  · exact .of_only (evictL2_only t e.1)
  · exact .refl t

theorem blockErrors_step (s : State) : EngineStep s (blockErrors s) := by
  unfold blockErrors
  split
  · split
    · exact .refl s
    · exact rfl
  · exact .refl s

/-- A beam with no replay entry and no trap whose entry it awaits does nothing between its issues. -/
theorem betweenIssues_idle {k : Nat} {b : Beam} (h1 : replaying b = false) (h2 : awaitsEntry s k = false) : betweenIssues s k b = s := by
  simp only [betweenIssues, h1, h2, Bool.false_and, Bool.false_eq_true, if_false]

theorem betweenIssues_all (l : List (Nat × Beam)) (h : (l.all fun b => !replaying b.2 && !awaitsEntry s b.1) = true) :
    l.foldl (fun s b => betweenIssues s b.1 b.2) s = s := by
  induction l with
  | nil => rfl
  | cons b l ih =>
    simp only [List.all_cons, Bool.and_eq_true, Bool.not_eq_true'] at h
    obtain ⟨⟨h1, h2⟩, hl⟩ := h
    rw [List.foldl_cons, betweenIssues_idle h1 h2]
    exact ih (by simpa using hl)

/-- The one write that waits acts behind the beams', in the clock that then begins (R318, R323). -/
theorem tick_applies {w : PfWrite} (hw : s.pfWrites = [w]) (hc : s.cfgNext = none)
    (hb : (s.beams.all fun b => !replaying b.2 && !awaitsEntry s b.1) = true) :
    ∃ u, u.csr = s.csr ∧ u.clk = s.clk + 1 ∧ u.pfWrites = [] ∧ u.cfgNext = none ∧
      tick s = applyPartcfg (csrWrite u 0 w.n ((csrGet u 0 w.n &&& w.keep) ||| w.set) none) := by
  have hstep : EngineStep s (evictSome (engineWrites (blockErrors s))) :=
    ((blockErrors_step s).trans (engineWrites_step _)).trans (evictSome_step _)
  have htick : tick s = applyPfWrites (applyPartcfg (nextClock (evictSome (engineWrites (blockErrors s))))) := by
    rw [tick, betweenIssues_all s.beams hb]
  generalize evictSome (engineWrites (blockErrors s)) = x at hstep htick
  obtain ⟨hcsr, hclk, hpf, hcfg⟩ := hstep.fields
  have hnone : applyPartcfg (nextClock x) = nextClock x := by
    have hn : (nextClock x).cfgNext = none := hcfg.trans hc
    simp only [applyPartcfg, hn]
  have hone : (nextClock x).pfWrites = [w] := hpf.trans hw
  rw [hnone, applyPfWrites, hone] at htick
  exact ⟨{ nextClock x with pfWrites := [] }, hcsr, congrArg (· + 1) hclk, rfl, hcfg.trans hc, htick⟩

/-! ## HMASK (R154) -/

theorem csrWrite_hmask_spec (s : State) (n : Nat) (v : Word) (g : Option Nat) (h1 : 0x800 ≤ n) (h2 : n < 0x880) :
    let m := v.toNat % 1048576
    let clash := ∃ k, k < 6 ∧ (n - 0x800) / 8 * 8 + 0x800 + k ≠ n ∧ pivot (csrN s 0 ((n - 0x800) / 8 * 8 + 0x800 + k)) = pivot m
    (m = 0 ∨ clash → csrWrite s 0 n v g = s) ∧ (m ≠ 0 ∧ ¬ clash → csrGet (csrWrite s 0 n v g) 0 n = BitVec.ofNat 32 m) := by
  intro m clash
  have hclash : ((upTo 6).any fun k => (n - 0x800) / 8 * 8 + 0x800 + k != n &&
      pivot (csrN s 0 ((n - 0x800) / 8 * 8 + 0x800 + k)) == pivot m) = true ↔ clash := by
    simp only [List.any_eq_true, mem_upTo, Bool.and_eq_true, bne_iff_ne, beq_iff_eq]
    exact Iff.rfl
  rw [csrWrite_hmask ⟨h1, h2⟩]
  refine ⟨fun h => if_pos (h.imp id hclash.2), fun ⟨hm, hc⟩ => ?_⟩
  have hput : writeHmask s n v = csrPut s 0 n (BitVec.ofNat 32 m) := if_neg (not_or.2 ⟨hm, fun e => hc (hclash.1 e)⟩)
  rw [hput, csrGet_csrPut_same]

/-! ## STAT (R323) -/

theorem stat_merge (a : Word) {k : Nat} (hk : k < 8) : fld ((a &&& ~~~ (0xE00 : Word)) ||| BitVec.ofNat 32 (512 * k)).toNat 11 9 = k := by
  have hlow : (((a &&& ~~~ (0xE00 : Word)) ||| BitVec.ofNat 32 (512 * k)).extractLsb' 9 3) = BitVec.ofNat 3 k := by
    refine BitVec.eq_of_getLsbD_eq fun i hi => ?_
    interval_cases i <;> interval_cases k <;> simp
  rw [fld_toNat, hlow]
  simpa using hk

theorem stat_setStat (s : State) {k : Nat} (hk : k < 8) : fld (csrN (setStat s k) 0 0x501) 11 9 = k := by
  rw [setStat, csrN, csrGet_csrPut_same]
  exact stat_merge _ hk

theorem csrGet_setStat (s : State) (k : Nat) (h : csrKey 0 n ≠ csrKey 0 0x501) : csrGet (setStat s k) 0 n = csrGet s 0 n :=
  (csrGet_csrPut ..).trans (if_neg h)

theorem idleFor_none (s : State) (q : Nat) : idleFor s q none = queueIdle s q := Bool.or_false _

/-- The quarters whose group a value of PARTCFG would change. -/
def partcfgTouched (s : State) (v : Word) : List Nat :=
  (upTo 4).filter fun q => groupOf (csrN s 0 0x500) q != groupOf (v.toNat % 1024) q

theorem writePartcfg_of_illegal (h : legalShape (v.toNat % 1024) = false) : writePartcfg s v g = setStat s 2 :=
  if_pos (by rw [h]; rfl)

/-- A legal shape is refused while a quarter that it changes has not acknowledged. -/
theorem writePartcfg_of_unacknowledged (h : legalShape (v.toNat % 1024) = true) (hq : q ∈ partcfgTouched s v)
    (hack : bit (csrN s 0 0x501) (4 + q) = false) : writePartcfg s v g = setStat s 1 := by
  have hany : ((partcfgTouched s v).any fun q => !bit (csrN s 0 0x501) (4 + q)) = true := List.any_eq_true.2 ⟨q, hq, by rw [hack]; rfl⟩
  exact (if_neg (by rw [h]; decide)).trans (if_pos (Bool.or_eq_true_iff.2 (.inr hany)))

/-- A legal shape waits for the next clock where every queue is idle and every quarter that it changes has acknowledged. -/
theorem writePartcfg_of_still (h : legalShape (v.toNat % 1024) = true) (hidle : ∀ q, q < 256 → queueIdle s q = true)
    (hack : ∀ q ∈ partcfgTouched s v, bit (csrN s 0 0x501) (4 + q) = true) :
    writePartcfg s v none = { setStat s 0 with cfgNext := some (BitVec.ofNat 32 (v.toNat % 1024)) } := by
  have h1 : ((upTo 256).any fun q => ((partcfgTouched s v).map (pidOf (csrN s 0 0x500))).contains (partOfQueue s q) && !idleFor s q none) = false :=
    List.any_eq_false.2 fun q hq => by simp [idleFor_none, hidle q (mem_upTo.1 hq)]
  have h2 : ((partcfgTouched s v).any fun q => !bit (csrN s 0 0x501) (4 + q)) = false := List.any_eq_false.2 fun q hq => by simp [hack q hq]
  exact (if_neg (by rw [h]; decide)).trans (if_neg (by rw [Bool.or_eq_true_iff, not_or, Bool.not_eq_true, Bool.not_eq_true]; exact ⟨h1, h2⟩))

/-- A write of PARTCFG leaves the register for the next clock. -/
theorem csrGet_writePartcfg (s : State) (v : Word) (g : Option Nat) : csrGet (writePartcfg s v g) 0 0x500 = csrGet s 0 0x500 := by
  have hkey : csrKey 0 0x500 ≠ csrKey 0 0x501 := by decide
  unfold writePartcfg
  dsimp only
  split
  · exact csrGet_setStat s 2 hkey
  · split
    · exact csrGet_setStat s 1 hkey
    · exact csrGet_setStat s 0 hkey

/-- A write of PARTCFG tells in STAT whether its shape is legal and what it changes is still (R318, R323). -/
theorem csrWrite_partcfg_spec (s : State) (v : Word) : let t := csrWrite s 0 0x500 v none
    let stat := fld (csrN t 0 0x501) 11 9
    let touched := (upTo 4).filter fun q => groupOf (csrN s 0 0x500) q != groupOf (v.toNat % 1024) q
    csrGet t 0 0x500 = csrGet s 0 0x500 ∧
    (legalShape (v.toNat % 1024) = false → t.cfgNext = s.cfgNext ∧ stat = 2) ∧
    (legalShape (v.toNat % 1024) = true → (∃ q ∈ touched, bit (csrN s 0 0x501) (4 + q) = false) → t.cfgNext = s.cfgNext ∧ stat = 1) ∧
    (legalShape (v.toNat % 1024) = true → (∀ q, q < 256 → queueIdle s q = true) → (∀ q ∈ touched, bit (csrN s 0 0x501) (4 + q) = true) →
      t.cfgNext = some (BitVec.ofNat 32 (v.toNat % 1024)) ∧ stat = 0) := by
  have hwrite : csrWrite s 0 0x500 v none = writePartcfg s v none := rfl
  dsimp only
  rw [hwrite]
  refine ⟨csrGet_writePartcfg s v none, fun hl => ?_, fun hl ⟨q, hqt, hq⟩ => ?_, fun hl hidle hack => ?_⟩
  · rw [writePartcfg_of_illegal hl]
    exact ⟨rfl, stat_setStat s (k := 2) (by decide)⟩
  · rw [writePartcfg_of_unacknowledged hl hqt hq]
    exact ⟨rfl, stat_setStat s (k := 1) (by decide)⟩
  · rw [writePartcfg_of_still hl hidle hack]
    exact ⟨rfl, stat_setStat s (k := 0) (by decide)⟩

/-- The partitions change with the clock that begins (R323). -/
theorem applyPartcfg_spec (h : s.cfgNext = some v) : csrGet (applyPartcfg s) 0 0x500 = v ∧ (applyPartcfg s).cfgNext = none := by
  unfold applyPartcfg
  simp only [h]
  exact ⟨csrGet_csrPut_same s 0 0x500 v, trivial⟩

/-! ## NBND and QCTL (R321, R322) -/

theorem csrWrite_nbnd_spec (s : State) (v : Word) (g : Option Nat) : let t := csrWrite s 0 0x520 v g
    let opens := ∃ i, i < 8 ∧ bit v.toNat i = true ∧ bit (csrN s 0 0x520) i = false ∧ partOfQuarter s (i % 4) ≠ partOfQuarter s ((i + 1) % 4)
    (opens → csrGet t 0 0x520 = csrGet s 0 0x520 ∧ fld (csrN t 0 0x501) 11 9 = 2) ∧
    (¬ opens → csrGet t 0 0x520 = rwMerge (csrGet s 0 0x520) 0xFF v ∧ fld (csrN t 0 0x501) 11 9 = 0) := by
  intro t opens
  have hopens : nbndOpens s v = true ↔ opens := by
    simp only [nbndOpens, List.any_eq_true, mem_upTo, Bool.and_eq_true, bne_iff_ne, Bool.not_eq_true', and_assoc]
    exact Iff.rfl
  have hkey : csrKey 0 0x520 ≠ csrKey 0 0x501 := by decide
  refine ⟨fun h => ?_, fun h => ?_⟩
  · have ht : t = setStat s 2 := if_pos (hopens.2 h)
    exact ht ▸ ⟨csrGet_setStat s 2 hkey, stat_setStat s (by decide)⟩
  · let s1 := setStat (csrPlain s 0 0x520 v) 0
    have ht : t = s1.bins.foldl (fun s x => if x.2.due && !isChannelBin x.1 then shipBin s x.1 else s) s1 := if_neg fun e => h (hopens.1 e)
    have hleave : GangsLeave s1 t := by
      rw [ht]
      refine .foldl (fun s x => ?_) _ s1
      split
      · exact shipBin_gangsLeave s x.1
      · exact .refl s
    have hcsr : ∀ n, csrGet t 0 n = csrGet s1 0 n := fun n => hleave.field (csrGet · 0 n) fun _ _ _ _ _ _ _ _ _ _ _ _ _ _ => rfl
    rw [csrN, hcsr, hcsr]
    exact ⟨(csrGet_setStat _ 0 hkey).trans (csrGet_csrPlain s 0 0x520 v), stat_setStat _ (by decide)⟩

theorem csrWrite_qctl_spec (s : State) (v : Word) (gr : Option Nat) : let t := csrWrite s 0 0x530 v gr
    let busy := ∃ g, g < 4 ∧ partOfQuarter s (pidOf (csrN s 0 0x530) g) ≠ partOfQuarter s (pidOf v.toNat g) ∧
      ∃ i, i < 64 ∧ queueIdle s (64 * g + i) = false
    (busy → csrGet t 0 0x530 = csrGet s 0 0x530 ∧ fld (csrN t 0 0x501) 11 9 = 1) ∧
    (¬ busy → csrGet t 0 0x530 = rwMerge (csrGet s 0 0x530) 0xFF v ∧ fld (csrN t 0 0x501) 11 9 = 0) := by
  intro t busy
  have hkey : csrKey 0 0x530 ≠ csrKey 0 0x501 := by decide
  have hbusy : ((upTo 4).any fun g => partOfQuarter s (pidOf (csrN s 0 0x530) g) != partOfQuarter s (pidOf v.toNat g) &&
      (upTo 64).any fun i => !queueIdle s (64 * g + i)) = true ↔ busy := by
    simp only [List.any_eq_true, mem_upTo, Bool.and_eq_true, bne_iff_ne, Bool.not_eq_true']
    exact Iff.rfl
  refine ⟨fun h => ?_, fun h => ?_⟩
  · have ht : t = setStat s 1 := if_pos (hbusy.2 h)
    exact ht ▸ ⟨csrGet_setStat s 1 hkey, stat_setStat s (by decide)⟩
  · have ht : t = setStat (csrPlain s 0 0x530 v) 0 := if_neg fun e => h (hbusy.1 e)
    exact ht ▸ ⟨(csrGet_setStat _ 0 hkey).trans (csrGet_csrPlain s 0 0x530 v), stat_setStat _ (by decide)⟩

/-! ## Flash queue pairs (R203, R204) -/

theorem csrWrite_fqctl_spec (s : State) {qp : Nat} (v : Word) (g : Option Nat) (hqp : qp < 64) : let t := csrWrite s 0 (fq qp 11) v g
    (v.getLsbD 0 = false → bit (csrN t 0 (fq qp 11)) 0 = false) ∧
    (v.getLsbD 0 = true → fqRefuses s qp = false ∨ bit (csrN s 0 (fq qp 11)) 0 = true → bit (csrN t 0 (fq qp 11)) 0 = true) ∧
    (v.getLsbD 0 = true → fqRefuses s qp = true → bit (csrN s 0 (fq qp 11)) 0 = false → bit (csrN t 0 (fq qp 11)) 0 = false ∧
      bit (csrN t 0 (fq qp 11)) 2 = true) := by
  intro t
  let old := csrGet s 0 (fq qp 11)
  let refused := v.getLsbD 0 && !old.getLsbD 0 && fqRefuses s qp
  have hval : csrGet t 0 (fq qp 11) = BitVec.ofNat 32 ((v.getLsbD 0 && !refused).toNat +
      4 * ((old.getLsbD 2 && !v.getLsbD 2) || refused).toNat + 8 * (8 * fld v.toNat 7 6)) := by
    have ht : t = writeFqctl s qp v := (csrWrite_fq hqp (by decide)).trans (if_pos rfl)
    have hassoc : 8 * (8 * fld v.toNat 7 6) = 64 * fld v.toNat 7 6 := (Nat.mul_assoc 8 8 _).symm
    rw [ht, hassoc]
    unfold writeFqctl
    dsimp only
    split
    · exact csrGet_csrPut_same ..
    · exact csrGet_csrPut_same ..
  obtain ⟨h0, h2⟩ := flags_bits (v.getLsbD 0 && !refused) ((old.getLsbD 2 && !v.getLsbD 2) || refused) (8 * fld v.toNat 7 6)
  rw [csrN, hval, bit_toNat, bit_toNat, h0, h2, csrN, bit_toNat]
  refine ⟨fun hv => by rw [hv]; rfl, fun hv hok => ?_, fun hv hr hen => ?_⟩
  · have hno : refused = false := by
      simp only [refused]
      obtain hf | hen := hok
      · rw [hf, Bool.and_false]
      · rw [show old.getLsbD 0 = true from hen, Bool.not_true, Bool.and_false, Bool.false_and]
    rw [hv, hno]
    rfl
  · have hyes : refused = true := by
      simp only [refused]
      rw [hv, hr, show old.getLsbD 0 = false from hen]
      rfl
    rw [hyes, Bool.or_true]
    exact ⟨Bool.and_false _, rfl⟩

end Sys2Proof.Machine
end

section
/-!
SUPPORT. PARTCTL, the accesses of the host and of pod peers, and the resets (R148, R313-R317, R319, R323, R324).
-/
namespace Sys2Proof.Machine

open Sys2Proof

set_option Elab.async false

variable {s u : State} {part pa n q a : Nat} {v : Word}

/-! ## PARTCTL (R319, R323) -/

/-- QREQ and HGRB as the writer of PARTCTL composes them. -/
theorem partctl_fields (old : Nat) (start : Bool) {ack req : Nat} (hack : ack < 16) (hreq : req < 16) :
    let N := (BitVec.ofNat 32 (old / 512 * 512 + (if start = true then 256 else 0) + 16 * ack + req)).toNat
    fld N 3 0 = req ∧ bit N 8 = start := by
  intro N
  have hN : N = (old / 512 * 512 + (if start = true then 256 else 0) + 16 * ack + req) % 4294967296 := BitVec.toNat_ofNat ..
  cases start
  all_goals
    simp only [Bool.false_eq_true, if_false, if_true] at hN
    simp only [fld, bit, beq_iff_eq, beq_eq_false_iff_ne, ne_eq]
    omega

theorem bit_mod_sixteen (x : Nat) (hq : q < 4) : bit (x % 16) q = bit x q := by
  have h : x % 16 / 2 ^ q % 2 = x / 2 ^ q % 2 := by
    interval_cases q
    all_goals omega
  rw [bit, h, bit]

/-- Steps that are put on the agenda, each within a bound, for those of a list that ask for one. -/
theorem foldl_postFree_if {α : Type} (p : α → Bool) {d : Nat} (hd : 0 < d) (f : α → Instr) : ∀ (l : List α) (s : State),
    let t := l.foldl (fun s a => if p a then postFree s d (f a) else s) s
    t.clk = s.clk ∧ t.csr = s.csr ∧ (∀ e ∈ s.agenda, e ∈ t.agenda) ∧ ∀ a ∈ l, p a = true → ∃ c, ⟨c, f a⟩ ∈ t.agenda ∧ c ≤ s.clk + d
  | [], s => ⟨rfl, rfl, fun _ h => h, fun _ h => absurd h (List.not_mem_nil)⟩
  | b :: l, s => by
    obtain ⟨hclk, hcsr, hmem, hin⟩ := foldl_postFree_if p hd f l (if p b then postFree s d (f b) else s)
    rw [List.foldl_cons]
    by_cases hb : p b = true
    · rw [if_pos hb] at hclk hcsr hmem hin ⊢
      refine ⟨hclk, hcsr, fun e he => hmem e (List.mem_append_left _ he), fun a ha hpa => ?_⟩
      obtain rfl | ha := List.mem_cons.1 ha
      · have hdrawn : drawn s d < d := by
          rw [drawn, if_neg hd.ne']
          exact Nat.mod_lt _ hd
        exact ⟨_, hmem _ (List.mem_append_right _ (List.mem_singleton_self _)), by omega⟩
      · exact hin a ha hpa
    · rw [if_neg hb] at hclk hcsr hmem hin ⊢
      refine ⟨hclk, hcsr, hmem, fun a ha hpa => ?_⟩
      obtain rfl | ha := List.mem_cons.1 ha
      · exact absurd hpa hb
      · exact hin a ha hpa

/-- PARTCTL while no rebinding is under way: QREQ and HGRB stand as written, each quarter newly asked acknowledges within 200 clocks, and a
rebinding that starts ends after 80. -/
theorem csrWrite_partctl_spec (s : State) (v : Word) (g : Option Nat) (hidle : bit (csrN s 0 0x501) 8 = false) :
    let t := csrWrite s 0 0x501 v g
    fld (csrN t 0 0x501) 3 0 = v.toNat % 16 ∧ bit (csrN t 0 0x501) 8 = bit v.toNat 8 ∧
    (∀ q, q < 4 → bit v.toNat q = true → bit (csrN s 0 0x501) q = false → ∃ c, ⟨c, .quiesceAck q⟩ ∈ t.agenda ∧ c ≤ s.clk + 200) ∧
    (bit v.toNat 8 = true → ⟨s.clk + 80, .hgRebindComplete⟩ ∈ t.agenda ∧
      t.rebind = (upTo 4).map fun q => if s.unbound.contains q then some (coreOf s (12 * partOfQuarter s q)).hw else none) := by
  have hwrite : csrWrite s 0 0x501 v g = writePartctl s v := rfl
  dsimp only
  rw [hwrite]
  unfold writePartctl
  simp only [hidle, Bool.false_eq_true, if_false, Bool.not_false, Bool.and_true, Bool.false_or]
  have hreq : v.toNat % 16 < 16 := Nat.mod_lt _ (by decide)
  have hack : fld (csrN s 0 0x501) 7 4 &&& v.toNat % 16 < 16 := Nat.lt_of_le_of_lt Nat.and_le_right hreq
  obtain ⟨hlow, hgrb⟩ := partctl_fields (csrN s 0 0x501) (bit v.toNat 8) hack hreq
  generalize hs1 : csrPut s 0 0x501 (BitVec.ofNat 32 (csrN s 0 0x501 / 512 * 512 + (if bit v.toNat 8 = true then 256 else 0) +
    16 * (fld (csrN s 0 0x501) 7 4 &&& v.toNat % 16) + v.toNat % 16)) = s1
  have hval : csrN s1 0 0x501 = (BitVec.ofNat 32 (csrN s 0 0x501 / 512 * 512 + (if bit v.toNat 8 = true then 256 else 0) +
      16 * (fld (csrN s 0 0x501) 7 4 &&& v.toNat % 16) + v.toNat % 16)).toNat := by
    rw [← hs1, csrN, csrGet_csrPut_same]
  have hs1clk : s1.clk = s.clk := hs1 ▸ rfl
  rw [← hval] at hlow hgrb
  obtain ⟨hclk, hcsr, hmem, hin⟩ := foldl_postFree_if (fun q => bit (v.toNat % 16) q && !bit (csrN s 0 0x501) q) (d := 200) (by decide)
    (fun q => Instr.quiesceAck q) (upTo 4) s1
  generalize (upTo 4).foldl (fun s' q => if (bit (v.toNat % 16) q && !bit (csrN s 0 0x501) q) = true then postFree s' 200 (.quiesceAck q) else s') s1 = s2
    at hclk hcsr hmem hin ⊢
  have hcsrN : csrN s2 0 0x501 = csrN s1 0 0x501 := by rw [csrN, csrGet, hcsr]; rfl
  have hacks : ∀ q, q < 4 → bit v.toNat q = true → bit (csrN s 0 0x501) q = false → ∃ c, ⟨c, .quiesceAck q⟩ ∈ s2.agenda ∧ c ≤ s.clk + 200 := by
    intro q hq hv hold
    rw [← hs1clk]
    exact hin q (mem_upTo.2 hq) (by rw [bit_mod_sixteen _ hq, hv, hold]; rfl)
  by_cases hstart : bit v.toNat 8 = true
  · rw [if_pos hstart]
    refine ⟨(congrArg (fld · 3 0) hcsrN).trans hlow, (congrArg (bit · 8) hcsrN).trans hgrb, fun q hq hv hold => ?_, fun _ => ⟨?_, rfl⟩⟩
    · obtain ⟨c, hc, hle⟩ := hacks q hq hv hold
      exact ⟨c, List.mem_append_left _ hc, hle⟩
    · rw [← hs1clk, ← hclk]
      exact List.mem_append_right _ (List.mem_singleton_self _)
  · rw [if_neg hstart]
    exact ⟨(congrArg (fld · 3 0) hcsrN).trans hlow, (congrArg (bit · 8) hcsrN).trans hgrb, hacks, fun h => absurd h hstart⟩

/-! ## Accesses through BAR2 and BAR4 (R313-R315) -/

theorem outsideWrite_only (s : State) (part pa : Nat) (l : List Byte) : OnlyMemory s (outsideWrite s part pa l) := homePut_only part _ s pa l

theorem answer_sent (s : State) (d : Option (List Byte)) : (answer s d).sent = s.sent ++ [.reply d] := rfl

theorem exec_hostMemory_spec (s : State) (part pa : Nat) {data : List Byte} (hd : data ≠ []) :
    let ok := functionOf s part = true ∧ rangeMapped s part pa data.length = true
    (ok → ∃ t, exec (.hostMemoryWrite part pa data) s = .next t ∧ t.mem = (outsideWrite s part pa data).mem ∧ t.beams = s.beams) ∧
    (¬ ok → exec (.hostMemoryWrite part pa data) s = .next s) ∧
    ∃ t, exec (.hostMemoryRead part pa data.length) s = .next t ∧ t.mem = s.mem ∧
      (ok → t.sent = s.sent ++ [.reply (outsideRead s part pa data.length)]) ∧ (¬ ok → t.sent = s.sent ++ [.reply none]) := by
  intro ok
  have hwrite : (functionOf s part && !data.isEmpty && rangeMapped s part pa data.length) = true ↔ ok := by simp [ok, hd]
  have hread : (functionOf s part && data.length != 0 && rangeMapped s part pa data.length) = true ↔ ok := by simp [ok, hd]
  refine ⟨fun h => ⟨outsideWrite s part pa data, congrArg Host.Outcome.next (if_pos (hwrite.2 h)), rfl, (outsideWrite_only s part pa data).beams⟩,
    fun h => congrArg Host.Outcome.next (if_neg fun e => h (hwrite.1 e)), _, rfl, rfl, fun h => ?_, fun h => ?_⟩
  · exact (answer_sent s _).trans (by rw [if_pos (hread.2 h)])
  · exact (answer_sent s _).trans (by rw [if_neg fun e => h (hread.1 e)])

/-- A PCIe AtomicOp acts at the near tier; a misaligned one is answered with nothing (R314). -/
theorem exec_hostAtomic_spec (s : State) (part : Nat) (op : PcieAtomic) (wide : Bool) (pa : Nat) (v cmp : DWord) :
    let n := if wide then 8 else 4
    (functionOf s part = true → pa % n = 0 → rangeMapped s part pa n = true → blockBad (homeDrop s part pa) part pa = false →
      let old := nearBlockRead (homeDrop s part pa) part pa n
      ∃ t, exec (.hostAtomic part op wide pa v cmp) s = .next t ∧ t.sent = s.sent ++ [.reply (some old)] ∧ t.mem = (nearWrite (homeDrop s part pa)
        part pa (bytesLE n (pcieNew op (8 * n) (leNat old) v.toNat cmp.toNat))).mem) ∧
    (pa % n ≠ 0 → ∃ t, exec (.hostAtomic part op wide pa v cmp) s = .next t ∧ t.sent = s.sent ++ [.reply none] ∧ t.mem = s.mem) := by
  intro n
  refine ⟨fun hf ha hm hb => ?_, fun ha => ?_⟩
  · have hgo : (functionOf s part && pa % n == 0 && rangeMapped s part pa n) = true := by rw [hf, ha, hm]; rfl
    have hgood : ¬ blockBad (homeDrop s part pa) part pa = true := Bool.eq_false_iff.1 hb
    refine ⟨_, congrArg Host.Outcome.next ((if_pos hgo).trans (if_neg hgood)), ?_, rfl⟩
    rw [answer_sent, (nearWrite_only _ _ _ _).sent, (homeDrop_only _ _ _).sent]
  · have hno : ¬ (functionOf s part && pa % n == 0 && rangeMapped s part pa n) = true := by simp [ha]
    exact ⟨_, congrArg Host.Outcome.next (if_neg hno), rfl, rfl⟩

theorem exec_bootMemoryAccess_spec (s : State) {off : Nat} {data : List Byte} (h : off + data.length ≤ 4194304) :
    ∃ t, exec (.bootMemoryAccess true off data) s = .next t ∧ memBytes t.mem (bootBase + off) data.length = data ∧ t.sent = s.sent ∧
      ∃ t, exec (.bootMemoryAccess false off data) s = .next t ∧ t.sent = s.sent ++ [.reply (some (memBytes s.mem (bootBase + off) data.length))] ∧
        t.mem = s.mem :=
  ⟨_, congrArg Host.Outcome.next (if_neg (Nat.not_lt.2 h)), memBytes_memPut data s.mem (bootBase + off), rfl,
    _, congrArg Host.Outcome.next (if_neg (Nat.not_lt.2 h)), rfl, rfl⟩

/-! ## Pod peers' accesses (R148, R165, R316, R317) -/

section Pod

variable {dev off : Nat} {access : PodAccess}

theorem exec_pod_here (h : dev % 64 = podSelf s) :
    exec (.podAccessArrival dev off access) s = .next (podHere s (podPart s) (off % 2 ^ 40) access) :=
  congrArg Host.Outcome.next (if_pos h)

theorem exec_pod_onward (h : dev % 64 ≠ podSelf s) (hr : podReach s (dev % 64) = true) :
    exec (.podAccessArrival dev off access) s = .next (podOnward s (podPlace dev off) access) :=
  congrArg Host.Outcome.next ((if_neg h).trans (if_pos hr))

theorem podRefused_iff : PodRefused s dev off access ↔ exec (.podAccessArrival dev off access) s = .next (podRefuse s access) := by
  match access with
  | .read _ => exact Iff.rfl
  | .write _ => exact Iff.rfl
  | .atomic _ _ _ _ true => exact Iff.rfl
  | .atomic _ _ _ _ false => exact Iff.rfl

/-- An access for another device that no link carries is not made. -/
theorem podRefused_of_unreached (h : dev % 64 ≠ podSelf s) (hr : podReach s (dev % 64) = false) : PodRefused s dev off access :=
  podRefused_iff.2 (congrArg Host.Outcome.next ((if_neg h).trans (if_neg (Bool.eq_false_iff.1 hr))))

/-- An access to this device that names no mapped bytes of the partition served is not made. -/
theorem podRefused_of_unmapped (h : dev % 64 = podSelf s) (hno : ¬ (functionOf s (podPart s) = true ∧ podBytes access ≠ 0 ∧
    rangeMapped s (podPart s) (off % 2 ^ 40) (podBytes access) = true)) : PodRefused s dev off access := by
  refine podRefused_iff.2 ((exec_pod_here h).trans (congrArg Host.Outcome.next (if_neg fun e => hno ?_)))
  simpa [and_assoc] using e

/-- The condition under which an access to this device is made. -/
theorem podHere_condition (hf : functionOf s part = true) (hn : n ≠ 0) (hm : rangeMapped s part a n = true) :
    (functionOf s part && n != 0 && rangeMapped s part a n) = true := by
  rw [hf, hm, bne_iff_ne.2 hn]
  rfl

end Pod

/-- Reads and writes of a pod peer (R317). -/
theorem exec_podAccess_spec (s : State) (dev off : Nat) (data : List Byte) : let part := podPart s
    let a := off % 2 ^ 40
    let ok := functionOf s part = true ∧ data ≠ [] ∧ rangeMapped s part a data.length = true
    (dev % 64 = podSelf s → ok →
      ∃ t, exec (.podAccessArrival dev off (.write data)) s = .next t ∧ t.mem = (outsideWrite s part a data).mem ∧
        ∃ t, exec (.podAccessArrival dev off (.read data.length)) s = .next t ∧ t.sent = s.sent ++ [.reply (outsideRead s part a data.length)] ∧ t.mem = s.mem) ∧
    ((dev % 64 = podSelf s ∧ ¬ ok) ∨ (dev % 64 ≠ podSelf s ∧ podReach s (dev % 64) = false) →
      PodRefused s dev off (.write data) ∧ PodRefused s dev off (.read data.length)) ∧
    (dev % 64 ≠ podSelf s → podReach s (dev % 64) = true →
      exec (.podAccessArrival dev off (.write data)) s = .next (outerWrite s 2 (podPlace dev off) data) ∧
        exec (.podAccessArrival dev off (.read data.length)) s =
          .next { s with sent := s.sent ++ [.reply (some (outerRead s 2 (podPlace dev off) data.length))] }) := by
  intro part a ok
  have hlen : data.length ≠ 0 ↔ data ≠ [] := not_congr List.length_eq_zero_iff
  refine ⟨fun h ⟨hf, hd, hm⟩ => ?_, fun h => ?_, fun h hr => ⟨exec_pod_onward h hr, exec_pod_onward h hr⟩⟩
  · have hgo := podHere_condition hf (hlen.2 hd) hm
    exact ⟨_, (exec_pod_here h).trans (congrArg Host.Outcome.next (if_pos hgo)), rfl,
      _, (exec_pod_here h).trans (congrArg Host.Outcome.next (if_pos hgo)), rfl, rfl⟩
  · obtain ⟨h, hno⟩ | ⟨h, hr⟩ := h
    · have hunmapped : ¬ (functionOf s part = true ∧ data.length ≠ 0 ∧ rangeMapped s part a data.length = true) := by rwa [hlen]
      exact ⟨podRefused_of_unmapped h hunmapped, podRefused_of_unmapped h hunmapped⟩
    · exact ⟨podRefused_of_unreached h hr, podRefused_of_unreached h hr⟩

/-- An answer is sent where one is awaited. -/
theorem answerIf_sent (reply : Bool) (u : State) (d : Option (List Byte)) :
    (if reply then answer u d else u).sent = u.sent ++ (if reply then [Sent.reply d] else []) := by
  cases reply
  · exact (List.append_nil _).symm
  · rfl

theorem answerIf_mem (reply : Bool) (u : State) (d : Option (List Byte)) : (if reply then answer u d else u).mem = u.mem := by
  cases reply
  · rfl
  · rfl

/-- A peer's atomic whose block cannot be read: a RED poisons it (log 48). -/
theorem podAtom_bad (f : Nat → Option Nat) (reply : Bool) (hb : blockBad (homeDrop s part a) part a = true) :
    podAtom s part a n f reply = (none, if reply then homeDrop s part a else poison (homeDrop s part a) part a) := if_pos hb

theorem podAtom_good (f : Nat → Option Nat) (reply : Bool) (hb : blockBad (homeDrop s part a) part a = false) :
    podAtom s part a n f reply = (some (leNat (nearBlockRead (homeDrop s part a) part a n)),
      ((f (leNat (nearBlockRead (homeDrop s part a) part a n))).map fun v => nearWrite (homeDrop s part a) part a (bytesLE n v)).getD (homeDrop s part a)) :=
  if_neg (Bool.eq_false_iff.1 hb)

theorem podAtom_only (s : State) (part a n : Nat) (f : Nat → Option Nat) (reply : Bool) : OnlyMemory s (podAtom s part a n f reply).2 := by
  refine (homeDrop_only s part a).trans ?_
  cases hb : blockBad (homeDrop s part a) part a
  · rw [podAtom_good f reply hb]
    cases f (leNat (nearBlockRead (homeDrop s part a) part a n)) with
    | none => exact .refl _
    | some v => exact nearWrite_only ..
  · rw [podAtom_bad f reply hb]
    cases reply
    · exact poison_only ..
    · exact .refl _

section PodAtomic

variable (s : State) (part a : Nat) (op : Option AtomOp) (wide : Bool) (v cmp : DWord) (reply : Bool)

/-- An atomic on this device's memory: the old value where one is awaited, and the new one at the near tier. -/
theorem podHere_atomic_spec : let n := if wide then 8 else 4
    let h := homeDrop s part a
    let old := leNat (nearBlockRead h part a n)
    let t := podHere s part a (.atomic op wide v cmp reply)
    functionOf s part = true → rangeMapped s part a n = true → a % n = 0 →
    (blockBad h part a = false → t.sent = s.sent ++ (if reply then [Sent.reply (some (bytesLE n old))] else []) ∧
      t.mem = (match podNew op n v cmp old with
        | some w => (nearWrite h part a (bytesLE n w)).mem
        | none => h.mem)) ∧
    (blockBad h part a = true → t.sent = s.sent ++ (if reply then [Sent.reply none] else []) ∧
      t.mem = (if reply then h else poison h part a).mem) := by
  intro n h old t hf hm ha
  have hn : n ≠ 0 := by cases wide <;> exact Nat.succ_ne_zero _
  have ht : t = if reply then answer (podAtom s part a n (podNew op n v cmp) reply).2
      ((podAtom s part a n (podNew op n v cmp) reply).1.map (bytesLE n)) else (podAtom s part a n (podNew op n v cmp) reply).2 :=
    (if_pos (podHere_condition hf hn hm)).trans (if_pos ha)
  rw [ht, answerIf_sent, answerIf_mem, (podAtom_only s part a n _ reply).sent]
  refine ⟨fun hb => ?_, fun hb => ?_⟩
  · rw [podAtom_good _ reply hb]
    refine ⟨rfl, ?_⟩
    show (((podNew op n v cmp old).map fun v => nearWrite h part a (bytesLE n v)).getD h).mem = _
    cases podNew op n v cmp old with
    | none => rfl
    | some w => rfl
  · rw [podAtom_bad _ reply hb]
    exact ⟨rfl, rfl⟩

/-- A misaligned atomic is not made. -/
theorem podHere_atomic_misaligned (h : a % (if wide then 8 else 4) ≠ 0) :
    podHere s part a (.atomic op wide v cmp reply) = podRefuse s (.atomic op wide v cmp reply) := by
  unfold podHere
  dsimp only
  split
  · exact if_neg h
  · rfl

/-- An atomic that goes on to another device. -/
theorem podOnward_atomic_spec : let n := if wide then 8 else 4
    let was := outerRead s 2 a n
    let t := podOnward s a (.atomic op wide v cmp reply)
    t.sent = s.sent ++ (if reply then [Sent.reply (some was)] else []) ∧
    t.mem = (match podNew op n v cmp (leNat was) with
      | some w => (outerWrite s 2 a (bytesLE n w)).mem
      | none => s.mem) := by
  intro n was t
  let s1 := ((podNew op n v cmp (leNat was)).map fun x => outerWrite s 2 a (bytesLE n x)).getD s
  have ht : t = if reply then answer s1 (some was) else s1 := rfl
  rw [ht, answerIf_sent, answerIf_mem]
  simp only [s1]
  cases podNew op n v cmp (leNat was) with
  | none => exact ⟨rfl, rfl⟩
  | some w => exact ⟨congrArg (· ++ _) (outerWrite_only ..).sent, rfl⟩

end PodAtomic

/-- Atomics of a pod peer (R165, R317). -/
theorem exec_podAtomic_spec (s : State) (dev off : Nat) (op : Option AtomOp) (wide : Bool) (v cmp : DWord) (reply : Bool) : let part := podPart s
    let a := off % 2 ^ 40
    let n := if wide then 8 else 4
    let ok := functionOf s part = true ∧ rangeMapped s part a n = true ∧ a % n = 0
    let act := PodAccess.atomic op wide v cmp reply
    let h := homeDrop s part a
    let old := leNat (nearBlockRead h part a n)
    (dev % 64 = podSelf s → ok → ∃ t, exec (.podAccessArrival dev off act) s = .next t ∧
      (blockBad h part a = false → t.sent = s.sent ++ (if reply then [Sent.reply (some (bytesLE n old))] else []) ∧
        t.mem = (match podNew op n v cmp old with
          | some w => (nearWrite h part a (bytesLE n w)).mem
          | none => h.mem)) ∧
      (blockBad h part a = true → t.sent = s.sent ++ (if reply then [Sent.reply none] else []) ∧
        t.mem = (if reply then h else poison h part a).mem)) ∧
    ((dev % 64 = podSelf s ∧ ¬ ok) ∨ (dev % 64 ≠ podSelf s ∧ podReach s (dev % 64) = false) → PodRefused s dev off act) ∧
    (dev % 64 ≠ podSelf s → podReach s (dev % 64) = true →
      let was := outerRead s 2 (podPlace dev off) n
      ∃ t, exec (.podAccessArrival dev off act) s = .next t ∧ t.sent = s.sent ++ (if reply then [Sent.reply (some was)] else []) ∧
        t.mem = (match podNew op n v cmp (leNat was) with
          | some w => (outerWrite s 2 (podPlace dev off) (bytesLE n w)).mem
          | none => s.mem)) := by
  intro part a n ok act h old
  refine ⟨fun hself ⟨hf, hm, ha⟩ => ⟨podHere s part a act, exec_pod_here hself, podHere_atomic_spec s part a op wide v cmp reply hf hm ha⟩, fun hcase => ?_,
    fun hother hr => ⟨podOnward s (podPlace dev off) act, exec_pod_onward hother hr, podOnward_atomic_spec s (podPlace dev off) op wide v cmp reply⟩⟩
  obtain ⟨hself, hno⟩ | ⟨hother, hr⟩ := hcase
  · by_cases ha : a % n = 0
    · exact podRefused_of_unmapped hself fun ⟨hf, _, hm⟩ => hno ⟨hf, hm, ha⟩
    · exact podRefused_iff.2 ((exec_pod_here hself).trans (congrArg Host.Outcome.next (podHere_atomic_misaligned s part a op wide v cmp reply ha)))
  · exact podRefused_of_unreached hother hr

/-! ## Resets (R314, R324) -/

theorem exec_reset_spec (s : State) {i : Instr} (h : i = .pcieReset ∨ i = .pfFunctionLevelReset) : ∃ t, exec i s = .next t ∧
    (∀ part n, csrGet t part n = csrReset n) ∧ t.beams = [] ∧ t.blocks = [] ∧ t.gangs = [] ∧ t.grids = [] ∧ t.cores = [] ∧ t.commits = [] ∧
    t.queues = [] ∧ t.agenda = [] ∧ t.clk = 0 ∧ t.l2 = [] ∧ t.pfWrites = [] ∧ t.cfgNext = none ∧ (∀ c ∈ t.mem, hostBase ≤ c.1) := by
  have hexec : exec i s = .next (resetDevice s) := by
    obtain rfl | rfl := h
    · rfl
    · rfl
  exact ⟨_, hexec, fun _ _ => rfl, rfl, rfl, rfl, rfl, rfl, rfl, rfl, rfl, rfl, rfl, rfl, rfl,
    fun c hc => of_decide_eq_true (List.mem_filter.1 hc).2⟩

/-- Every register of a queue is 0 at reset (R64). -/
theorem csrReset_lq (q k : Nat) : csrReset (lq q k) = 0 := by
  have hlow : 0x10000 ≤ lq q k := by unfold lq; omega
  generalize lq q k = n at hlow
  unfold csrReset
  iterate 13 rw [if_neg (by omega)]

/-- What a queue's reset leaves of it. -/
def QueueReset (s : State) (q : Nat) : Prop := look s.queues q = none ∧ ∀ k, k < 16 → look s.csr (lq q k) = none

theorem look_foldl_del_none {α : Type} (f : Nat → Nat) {j : Nat} : ∀ (l : List Nat) (m : NMap α), look m j = none ∨ (∃ k ∈ l, f k = j) →
    look (l.foldl (fun m k => del m (f k)) m) j = none
  | [], m, h => h.resolve_right fun ⟨_, hk, _⟩ => List.not_mem_nil hk
  | b :: l, m, h => by
    refine look_foldl_del_none f l _ ?_
    rw [look_del]
    by_cases hb : j = f b
    · exact .inl (if_pos hb)
    · rw [if_neg hb]
      refine h.imp_right fun ⟨k, hk, hkj⟩ => ⟨k, (List.mem_cons.1 hk).resolve_left ?_, hkj⟩
      rintro rfl
      exact hb hkj.symm

theorem resetQueue_queues (s : State) (q : Nat) : (resetQueue s q).queues = del s.queues q := rfl

theorem resetQueue_csr (s : State) (q : Nat) : (resetQueue s q).csr = (upTo 16).foldl (fun m k => del m (lq q k)) s.csr := by
  rw [resetQueue]

theorem resetQueue_agenda (s : State) (q : Nat) : (resetQueue s q).agenda = s.agenda := by
  rw [resetQueue]

theorem resetQueue_resets (s : State) (q : Nat) : QueueReset (resetQueue s q) q := by
  refine ⟨?_, fun k hk => ?_⟩
  · rw [resetQueue_queues, look_del_same]
  · have hdeleted : ∃ i ∈ upTo 16, lq q i = lq q k := ⟨k, mem_upTo.2 hk, Eq.refl (lq q k)⟩
    rw [resetQueue_csr, look_foldl_del_none (lq q) (upTo 16) s.csr (.inr hdeleted)]

theorem QueueReset.resetQueue (h : QueueReset s q) (r : Nat) : QueueReset (resetQueue s r) q := by
  obtain ⟨hqueue, hcsr⟩ := h
  refine ⟨?_, fun k hk => ?_⟩
  · rw [resetQueue_queues, look_del, hqueue, ite_self]
  · rw [resetQueue_csr, look_foldl_del_none (lq r) (upTo 16) s.csr (.inl (hcsr k hk))]

theorem foldl_resetQueue : ∀ (l : List Nat) (s : State), (l.foldl resetQueue s).agenda = s.agenda ∧
    ∀ q, q ∈ l ∨ QueueReset s q → QueueReset (l.foldl resetQueue s) q
  | [], s => ⟨rfl, fun _ h => h.resolve_left List.not_mem_nil⟩
  | r :: l, s => by
    obtain ⟨hagenda, hreset⟩ := foldl_resetQueue l (resetQueue s r)
    rw [List.foldl_cons]
    refine ⟨hagenda.trans (resetQueue_agenda s r), fun q h => hreset q ?_⟩
    obtain h | h := h
    · obtain rfl | h := List.mem_cons.1 h
      · exact .inr (resetQueue_resets s q)
      · exact .inl h
    · exact .inr (h.resetQueue r)

theorem QueueReset.csrGet (h : QueueReset s q) {k : Nat} (hk : k < 16) : csrGet s 0 (lq q k) = 0 := by
  rw [csrGet_lq, lookD, h.2 k hk]
  exact csrReset_lq q k

/-- A function's reset ends its grids and resets its queues (R314). -/
theorem exec_vfFunctionLevelReset_spec (s : State) (hf : functionOf s part = true) : ∃ t, exec (.vfFunctionLevelReset part) s = .next t ∧
    (∀ g ∈ s.grids, g.2.part = part → ⟨s.clk, .abort g.1⟩ ∈ t.agenda) ∧
    ∀ q, q < 256 → partOfQueue s q = part → look t.queues q = none ∧ ∀ k, k < 16 → csrGet t 0 (lq q k) = 0 := by
  have hexec : exec (.vfFunctionLevelReset part) s = .next (((upTo 256).filter fun q => partOfQueue s q == part).foldl resetQueue
      (s.grids.foldl (fun s g => if g.2.part = part then post s 0 (.abort g.1) else s) s)) := congrArg Host.Outcome.next (if_pos hf)
  rw [foldl_post_if (fun g : Nat × Grid => g.2.part = part) 0 fun g => .abort g.1] at hexec
  obtain ⟨hagenda, hreset⟩ := foldl_resetQueue ((upTo 256).filter fun q => partOfQueue s q == part)
    { s with agenda := s.agenda ++ (s.grids.filter fun g => decide (g.2.part = part)).map fun g => ⟨s.clk + 0, .abort g.1⟩ }
  refine ⟨_, hexec, fun g hg hgp => ?_, fun q hq hqp => ?_⟩
  · rw [hagenda]
    exact List.mem_append_right _ (List.mem_map.2 ⟨g, List.mem_filter.2 ⟨hg, decide_eq_true hgp⟩, rfl⟩)
  · have h := hreset q (.inl (List.mem_filter.2 ⟨mem_upTo.2 hq, beq_iff_eq.2 hqp⟩))
    exact ⟨h.1, fun k hk => h.csrGet hk⟩

end Sys2Proof.Machine

namespace Sys2Proof.Certificates

open Sys2Proof Sys2Proof.Machine

/-- Settles O60, by a lemma for each register and each access. -/
theorem hostAndResets : Obligations.HostAndResets := by
  unfold Obligations.HostAndResets
  intro s
  exact ⟨fun _ _ _ h hq => exec_lqtlWrite_dropped hq h,
    fun _ _ _ hq h hd ht => exec_lqtlWrite_takes hq h hd ht,
    fun _ _ hq h => exec_lqEnable_spec hq h,
    fun _ _ h => exec_defspillWrite_spec h,
    fun _ _ _ hq h => exec_milvWrite_spec hq h,
    fun _ _ _ h1 h2 h => exec_dbghaltWrite_spec h1 h2 h,
    fun _ h => exec_dtrapClear_spec h,
    fun _ h => exec_dfltClear_spec h,
    fun _ _ _ => ⟨fun h => exec_controlRegister_unnamed h, fun _ _ h => exec_controlRegister_named h⟩,
    device_writes_wait s,
    fun _ hw hc hb => tick_applies hw hc hb,
    fun n v g h1 h2 _ => csrWrite_hmask_spec s n v g h1 h2,
    csrWrite_partcfg_spec s,
    fun _ h => applyPartcfg_spec h,
    csrWrite_partctl_spec s,
    csrWrite_nbnd_spec s,
    csrWrite_qctl_spec s,
    fun _ v g hqp => csrWrite_fqctl_spec s v g hqp,
    fun part pa _ hd => exec_hostMemory_spec s part pa hd,
    exec_hostAtomic_spec s,
    fun _ _ h => exec_bootMemoryAccess_spec s h,
    exec_podAccess_spec s,
    exec_podAtomic_spec s,
    fun _ h => exec_reset_spec s h,
    fun _ h => exec_vfFunctionLevelReset_spec s h⟩

end Sys2Proof.Certificates
end

section
/-!
PROOF of O7 and O8. The choice of the run that issues (R84, R85, R88): what is known of a beam that may issue, and that the one chosen is
the first of the order in which the beams of a clock issue.
-/
namespace Sys2Proof.Machine

open Sys2Proof

set_option Elab.async false

/-! ## Beams that may issue (R84, R85) -/

theorem lt_of_mem_risingFrom {α : Type} {p : Nat × α} : ∀ {m : NMap α} {lo : Nat}, risingFrom (some lo) m = true → p ∈ m → lo < p.1
  | (a, x) :: m, lo, hr, hp => by
    obtain ⟨hlo, hm⟩ := Bool.and_eq_true_iff.1 hr
    have hlo : lo < a := of_decide_eq_true hlo
    obtain rfl | hp := List.mem_cons.1 hp
    · exact hlo
    · exact hlo.trans (lt_of_mem_risingFrom hm hp)

/-- In a map without repetitions, what is listed under a key is what a look finds. -/
theorem look_of_mem_rising {α : Type} {k : Nat} {v : α} : ∀ {m : NMap α} {lo : Option Nat}, risingFrom lo m = true → (k, v) ∈ m →
    look m k = some v
  | (a, x) :: m, lo, hr, hp => by
    have hm : risingFrom (some a) m = true := by
      cases lo with
      | none => exact hr
      | some lo => exact (Bool.and_eq_true_iff.1 hr).2
    rw [look_cons]
    obtain h | hp := List.mem_cons.1 hp
    · obtain ⟨rfl, rfl⟩ := Prod.mk.inj h
      exact if_pos rfl
    · rw [if_neg (lt_of_mem_risingFrom hm hp).ne]
      exact look_of_mem_rising hm hp

theorem holdOver_iff (s : State) (h : Hold) : holdOver s h = true ↔ h = .none ∨ ∃ t, h = .yield t ∧ t ≤ s.clk := by
  cases h <;> simp [holdOver]

theorem selected_open {s : State} {x : Sel} (h : selected s = some x) : s.closed = false := by
  by_contra hc
  rw [selected, if_pos (Bool.eq_true_of_not_eq_false hc)] at h
  cases h

/-! ## The order of a clock's issues (R85) -/

/-- Beams go by their pool, then by when they issued last, then by their number. -/
theorem before_iff (k : Nat) (b : Beam) (j : Nat) (c : Beam) : before k b j c = true ↔ poolOf k < poolOf j ∨
    (poolOf k = poolOf j ∧ (b.lastIssue < c.lastIssue ∨ (b.lastIssue = c.lastIssue ∧ k < j))) := by
  unfold before
  split
  · split <;> simp only [decide_eq_true_eq] <;> omega
  · simp only [decide_eq_true_eq]
    unfold poolOf at *
    omega

theorem before_irrefl (k : Nat) (b : Beam) : before k b k b = false := by
  rw [Bool.eq_false_iff, Ne, before_iff]
  omega

theorem before_trans {i j k : Nat} {a b c : Beam} (h : before i a j b = true) (g : before j b k c = true) : before i a k c = true := by
  rw [before_iff] at *
  omega

theorem pickFrom_none {s : State} : ∀ {m : NMap Beam}, pickFrom s m = none → ∀ p ∈ m, candidate s p.1 p.2 = false
  | (j, c) :: m, h, p, hp => by
    rw [pickFrom] at h
    cases ht : pickFrom s m with
    | some q => rw [ht] at h; dsimp only at h; split at h <;> cases h
    | none =>
      rw [ht] at h
      dsimp only at h
      split at h
      · cases h
      · next hc =>
        obtain rfl | hp := List.mem_cons.1 hp
        · exact Bool.eq_false_iff.2 hc
        · exact pickFrom_none ht p hp

/-- No beam that may issue goes before the one chosen. -/
theorem pickFrom_least {s : State} : ∀ {m : NMap Beam} {k : Nat} {b : Beam}, pickFrom s m = some (k, b) →
    ∀ p ∈ m, candidate s p.1 p.2 = true → before p.1 p.2 k b = false
  | (j, c) :: m, k, b, h, p, hp, hcand => by
    rw [pickFrom] at h
    cases ht : pickFrom s m with
    | none =>
      rw [ht] at h
      dsimp only at h
      split at h
      · cases h
        obtain rfl | hp := List.mem_cons.1 hp
        · exact before_irrefl _ _
        · exact absurd (hcand.symm.trans (pickFrom_none ht p hp)) (by decide)
      · cases h
    | some q =>
      obtain ⟨i, a⟩ := q
      rw [ht] at h
      dsimp only at h
      split at h
      · next hhead =>
        cases h
        obtain rfl | hp := List.mem_cons.1 hp
        · exact before_irrefl _ _
        · exact Bool.eq_false_iff.2 fun hb => Bool.eq_false_iff.1 (pickFrom_least ht p hp hcand)
            (before_trans hb (Bool.and_eq_true_iff.1 hhead).2)
      · next hhead =>
        cases h
        obtain rfl | hp := List.mem_cons.1 hp
        · exact Bool.eq_false_iff.2 fun hb => hhead (Bool.and_eq_true_iff.2 ⟨hcand, hb⟩)
        · exact pickFrom_least ht p hp hcand

theorem selected_least {s : State} {x : Sel} (h : selected s = some x) {k : Nat} {b : Beam} (hb : (k, b) ∈ s.beams)
    (hc : candidate s k b = true) : before k b x.key x.beam = false := by
  rw [selected, if_neg (Bool.eq_false_iff.1 (selected_open h))] at h
  cases hp : pickFrom s s.beams with
  | none => rw [hp] at h; cases h
  | some p =>
    rw [hp] at h
    cases h
    exact pickFrom_least hp (k, b) hb hc

end Sys2Proof.Machine

namespace Sys2Proof.Certificates

open Sys2Proof Sys2Proof.Machine

/-- Settles O7: a selected beam may issue, and what the list of beams shows of it is the beam that stands under its key. -/
theorem selectedBeamStands : Obligations.SelectedBeamStands := by
  unfold Obligations.SelectedBeamStands
  intro s x hinv h
  obtain ⟨hmem, hcand, hrun⟩ := selected_spec h
  obtain ⟨htried, helig⟩ := Bool.and_eq_true_iff.1 hcand
  obtain ⟨htried, hissued⟩ := Bool.and_eq_true_iff.1 htried
  simp only [eligible, Bool.and_eq_true, Bool.not_eq_true', Option.isNone_iff_eq_none] at helig
  obtain ⟨⟨⟨⟨⟨⟨hstopped, hticket⟩, _⟩, _⟩, _⟩, _⟩, hhold⟩ := helig
  exact ⟨⟨h, look_of_mem_rising hinv.2 hmem⟩, hrun, selected_runnable h, by simpa using htried, by simpa using hissued,
    selected_open h, hstopped, hticket, (holdOver_iff s _).1 hhold⟩

/-- Settles O8: no beam that may issue goes before the selected one in the order of the clock's issues. -/
theorem leastRecentlyIssuedFirst : Obligations.LeastRecentlyIssuedFirst := by
  unfold Obligations.LeastRecentlyIssuedFirst
  intro s x h k b hb hc hpool
  have hleast := Bool.eq_false_iff.1 (selected_least h hb hc)
  rw [Ne, before_iff] at hleast
  omega

end Sys2Proof.Certificates
end

section
/-!
PROOF of O27, O28, O29, O30, O31 and O33. Control instructions (R91-R100, R104): an effect that changes lanes and stops none ends with
the count of the issue; what the uniform check asks; and what JOIN makes of the lanes that wait at it.
-/
namespace Sys2Proof.Machine

open Sys2Proof

set_option Elab.async false

section Control

variable {s : State} {x : Sel} {i : Instr} {e : Effect}

/-! ## Issues of branches and of SPLIT (R88, R92) -/

/-- An effect that changes lanes of the run, none of which it stops, issues and does nothing else. -/
theorem exec_moved_lanes {f : Nat → Lane → Lane} (ht : Turn s x) (hi : exec i s = issue 4 e s)
    (he : e x s = .moved (onLanes s x.key x.run f)) (hf : ∀ j l, (f j l).state = l.state) :
    exec i s = .next (issuedBy s x (beamLanes x.beam x.run f)) := by
  refine exec_moved_runnable ht hi ?_ rfl (runnable_beamLanes hf (selected_runnable ht.1))
  rw [he, onLanes, onBeam_some ht.2]

/-- An effect that changes lanes of the beam, none of which it stops, issues, and the run goes on. -/
theorem exec_done_lanes {on : List Nat} {f : Nat → Lane → Lane} (ht : Turn s x) (hi : exec i s = issue 4 e s)
    (he : e x s = .done (onLanes s x.key on f) []) (hf : ∀ j l, (f j l).state = l.state) :
    exec i s = .next (issuedBy s x (beamLanes (beamLanes x.beam on f) x.run fun _ l => { l with pc := l.pc + 4 })) := by
  rw [onLanes, onBeam_some ht.2] at he
  rw [exec_done_eq ht hi he (beamOf_setBeam_same _ _ _) (runnable_beamLanes hf (selected_runnable ht.1)), setBeam_setBeam]
  exact congrArg _ (retire_setBeam s x _ rfl)

/-! ## The uniform check (R95) -/

theorem foldl_min_mem : ∀ (l : List Nat) (n : Nat), l.foldl Nat.min n ∈ n :: l
  | [], n => List.mem_singleton_self n
  | m :: l, n => by
    obtain h | h := List.mem_cons.1 (foldl_min_mem l (Nat.min n m))
    · rw [List.foldl_cons, h]
      obtain hm | hm := Nat.le_total n m
      · exact List.mem_cons.2 (.inl (Nat.min_eq_left hm))
      · exact List.mem_cons_of_mem n (List.mem_cons.2 (.inl (Nat.min_eq_right hm)))
    · exact List.mem_cons_of_mem n (List.mem_cons_of_mem m h)

theorem leastD_mem (d : Nat) {l : List Nat} (h : l ≠ []) : leastD d l ∈ l := by
  cases l with
  | nil => exact absurd rfl h
  | cons n l => exact foldl_min_mem l n

/-- A property has one value over the run where no two of its lanes differ in it. -/
theorem uniform_iff {α : Type} [DecidableEq α] (f : Lane → α) :
    uniform x f = true ↔ ∀ i ∈ x.run, ∀ j ∈ x.run, f (laneOf x.beam i) = f (laneOf x.beam j) := by
  rw [uniform, List.all_eq_true]
  refine ⟨fun h i hi j hj => (beq_iff_eq.1 (h i hi)).trans (beq_iff_eq.1 (h j hj)).symm, fun h i hi => beq_iff_eq.2 ?_⟩
  exact h i hi _ (leastD_mem 0 (List.ne_nil_of_mem hi))

/-- What BRX asks of its condition and its target (R98). -/
def SameWay (x : Sel) (g : Guard) (a : Src) : Prop :=
  (∀ i ∈ x.run, ∀ j ∈ x.run, guardOf g (laneOf x.beam i) = guardOf g (laneOf x.beam j)) ∧
    ((∃ i ∈ x.run, guardOf g (laneOf x.beam i) = true) →
      ∀ i ∈ x.run, ∀ j ∈ x.run, laneReg (laneOf x.beam i) a.r = laneReg (laneOf x.beam j) a.r)

theorem sameWay_iff (g : Guard) (a : Src) : (uniform x (guardOf g) && (!guardOf g (laneOf x.beam (leastD 0 x.run)) ||
    uniform x fun l => laneReg l a.r)) = true ↔ SameWay x g a := by
  rw [Bool.and_eq_true_iff, Bool.or_eq_true_iff, uniform_iff, uniform_iff, Bool.not_eq_true', SameWay]
  refine and_congr_right fun hsame => ⟨fun h ⟨i, hi, hg⟩ => ?_, fun h => ?_⟩
  · have hlow := hsame i hi _ (leastD_mem 0 (List.ne_nil_of_mem hi))
    exact h.resolve_left fun hn => Bool.false_ne_true (hn.symm.trans (hlow.symm.trans hg))
  · by_cases hrun : x.run = []
    · exact .inr fun i hi => absurd (hrun ▸ hi) List.not_mem_nil
    · cases hg : guardOf g (laneOf x.beam (leastD 0 x.run)) with
      | false => exact .inl rfl
      | true => exact .inr (h ⟨_, leastD_mem 0 hrun, hg⟩)

theorem effBrx_of_same {g : Guard} {a : Src} (hr : ready x x.run [srcUse a 1] [] = true) (h : SameWay x g a) : effBrx g a x s =
    .moved (onLanes s x.key x.run fun _ l => { l with pc := if guardOf g l then laneReg l a.r else l.pc + 4 }) := by
  rw [effBrx, gated_ready hr, if_pos ((sameWay_iff g a).2 h)]

theorem effBrx_of_differ {g : Guard} {a : Src} (hr : ready x x.run [srcUse a 1] [] = true) (h : ¬ SameWay x g a) :
    effBrx g a x s = .trap s (uniformTrap x) := by
  rw [effBrx, gated_ready hr, if_neg (mt (sameWay_iff g a).1 h)]

/-! ## SPLIT and JOIN (R91-R93) -/

theorem effSplit_of_deep {n : Nat} {bl : Block} {ga : Gang} {gr : Grid} (hh : homeOf s x.beam = some (bl, ga, gr)) (h : gr.depth ≤ n) :
    effSplit n x s = .trap s (depthTrap x n) := by
  rw [effSplit, hh]
  exact if_pos h

theorem effSplit_of_lt {n : Nat} {bl : Block} {ga : Gang} {gr : Grid} (hh : homeOf s x.beam = some (bl, ga, gr)) (h : n < gr.depth) :
    effSplit n x s = .done (onLanes s x.key (upTo 32) fun _ l => laneSet l (maskReg gr n) (BitVec.ofNat 32 (maskOf x.run))) [] := by
  rw [effSplit, hh]
  exact if_neg (Nat.not_le.2 h)

theorem effJoin_of_deep {n : Nat} {bl : Block} {ga : Gang} {gr : Grid} (hh : homeOf s x.beam = some (bl, ga, gr)) (h : gr.depth ≤ n) :
    effJoin n x s = .trap s (depthTrap x n) := by
  rw [effJoin, hh]
  exact if_pos h

/-- The mask at which a run joins: that of its lowest lane (log 27). -/
def joinMask (x : Sel) (gr : Grid) (n : Nat) : Nat := (laneReg (laneOf x.beam (leastD 0 x.run)) (maskReg gr n)).toNat

/-- The run waits at its JOIN. -/
def joining (x : Sel) (n : Nat) : Beam := beamLanes x.beam x.run fun _ l => { l with state := .waiting, jidx := n }

theorem effJoin_of_lt {n : Nat} {bl : Block} {ga : Gang} {gr : Grid} (hh : homeOf s x.beam = some (bl, ga, gr)) (h : n < gr.depth) :
    effJoin n x s = if (lanesIn x.beam .parked).any (bit (joinMask x gr n)) then .trap s (trapOf x (parkedCode x.beam))
      else .moved (setBeam s x.key (releaseCheck (joining x n) (selPc x) n (joinMask x gr n))) := by
  rw [effJoin, hh]
  exact if_neg (Nat.not_le.2 h)

/-- A lane stands at the JOIN of the run: it is in the run, or waits there. -/
def AtJoin (x : Sel) (n i : Nat) : Prop :=
  i ∈ x.run ∨ ((laneOf x.beam i).state = .waiting ∧ (laneOf x.beam i).pc = selPc x ∧ (laneOf x.beam i).jidx = n)

/-- Once the run waits, the lanes that wait at its JOIN are those that stand there. -/
theorem joining_waits_iff {n : Nat} (ht : Turn s x) (hpc : ∀ i ∈ x.run, (laneOf x.beam i).pc = selPc x) (i : Nat) :
    ((laneOf (joining x n) i).state = .waiting ∧ (laneOf (joining x n) i).pc = selPc x ∧ (laneOf (joining x n) i).jidx = n) ↔
      AtJoin x n i := by
  rw [joining, laneOf_beamLanes_of_lt fun _ h => run_lt ht.1 h]
  by_cases hi : i ∈ x.run
  · rw [if_pos hi]
    exact ⟨fun _ => .inl hi, fun _ => ⟨rfl, hpc i hi, rfl⟩⟩
  · rw [if_neg hi]
    exact ⟨.inr, fun h => h.resolve_left hi⟩

theorem run_runnable (h : selected s = some x) {i : Nat} (hi : i ∈ x.run) : (laneOf x.beam i).state = .runnable := by
  rw [(selected_spec h).2.2, runOf] at hi
  exact ((mem_lanesIn _ _ _).1 (List.mem_of_mem_filter hi)).2

theorem joining_exited_iff {n : Nat} (ht : Turn s x) (i : Nat) :
    (laneOf (joining x n) i).state = .exited ↔ (laneOf x.beam i).state = .exited := by
  rw [joining, laneOf_beamLanes_of_lt fun _ h => run_lt ht.1 h]
  by_cases hi : i ∈ x.run
  · rw [if_pos hi, run_runnable ht.1 hi]
    exact ⟨nofun, nofun⟩
  · rw [if_neg hi]

/-- The JOIN of a run is open where every lane of its mask has exited or stands there. -/
theorem joining_met_iff {n m : Nat} (ht : Turn s x) (hpc : ∀ i ∈ x.run, (laneOf x.beam i).pc = selPc x) :
    (∀ k < 32, bit m k = true → (laneOf (joining x n) k).state = .exited ∨ ((laneOf (joining x n) k).state = .waiting ∧
      (laneOf (joining x n) k).pc = selPc x ∧ (laneOf (joining x n) k).jidx = n)) ↔
    ∀ k < 32, bit m k = true → (laneOf x.beam k).state = .exited ∨ AtJoin x n k := by
  simp only [joining_exited_iff ht, joining_waits_iff ht hpc]

theorem joining_length (x : Sel) (n : Nat) : (joining x n).lanes.length = x.beam.lanes.length := mapLanes_length _ _ _ _

/-- Lanes that stand at an open JOIN run on behind it, and no other lane differs. -/
theorem laneOf_joined {n m : Nat} (ht : Turn s x) (hpc : ∀ i ∈ x.run, (laneOf x.beam i).pc = selPc x)
    (hmet : ∀ k < 32, bit m k = true → (laneOf x.beam k).state = .exited ∨ AtJoin x n k) (i : Nat) (hi : i < x.beam.lanes.length) :
    (AtJoin x n i → (laneOf (releaseCheck (joining x n) (selPc x) n m) i).state = .runnable ∧
      (laneOf (releaseCheck (joining x n) (selPc x) n m) i).pc = selPc x + 4) ∧
    (¬ AtJoin x n i → laneOf (releaseCheck (joining x n) (selPc x) n m) i = laneOf x.beam i) := by
  rw [releaseCheck_of_met ((joining_met_iff ht hpc).2 hmet) i (by rw [joining_length]; exact hi)]
  refine ⟨fun hat => ?_, fun hat => ?_⟩
  · have hwait := (joining_waits_iff (n := n) ht hpc i).2 hat
    rw [if_pos hwait]
    exact ⟨rfl, congrArg (· + 4) hwait.2.1⟩
  · rw [if_neg (mt (joining_waits_iff ht hpc i).1 hat), joining, laneOf_beamLanes_of_lt fun _ h => run_lt ht.1 h,
      if_neg fun h => hat (.inl h)]

/-- A JOIN that opens leaves a lane that runs. -/
theorem joined_runnable {n m : Nat} (ht : Turn s x) (hpc : ∀ i ∈ x.run, (laneOf x.beam i).pc = selPc x)
    (hmet : ∀ k < 32, bit m k = true → (laneOf x.beam k).state = .exited ∨ AtJoin x n k) :
    lanesIn (releaseCheck (joining x n) (selPc x) n m) .runnable ≠ [] := by
  obtain ⟨i, hi⟩ := List.exists_mem_of_ne_nil _ (selected_runnable ht.1)
  obtain ⟨hlt, hrun⟩ := (mem_lanesIn _ _ _).1 hi
  obtain ⟨hat, hnot⟩ := laneOf_joined ht hpc hmet i hlt
  refine lanesIn_ne_nil (i := i) (by rw [releaseCheck_length, joining_length]; exact hlt) ?_
  by_cases h : AtJoin x n i
  · exact (hat h).1
  · rw [hnot h, hrun]

/-- A run that waits leaves the other lanes that run. -/
theorem joining_runnable {n : Nat} (ht : Turn s x) (h : ∃ i ∈ lanesIn x.beam .runnable, i ∉ x.run) :
    lanesIn (joining x n) .runnable ≠ [] := by
  obtain ⟨i, hi, hout⟩ := h
  obtain ⟨hlt, hrun⟩ := (mem_lanesIn _ _ _).1 hi
  refine lanesIn_ne_nil (i := i) (by rw [joining_length]; exact hlt) ?_
  rw [joining, laneOf_beamLanes_of_lt fun _ h => run_lt ht.1 h, if_neg hout, hrun]

theorem releaseCheck_block (b : Beam) (pc : Word) (n m : Nat) : (releaseCheck b pc n m).block = b.block := by
  unfold releaseCheck
  dsimp only
  split <;> rfl

/-! ## YIELD (R104) -/

/-- A beam that gives up its turns. -/
def yielding (s : State) (b : Beam) : Beam := { b with hold := .yield (s.clk + 33) }

theorem effYield_eq (ht : Turn s x) (g : Guard) : effYield g x s =
    .done (post (setBeam s x.key (yielding s x.beam)) 33 (.yieldExpiry (x.key / 64) (x.key % 64))) [] := by
  rw [effYield, onBeam_some ht.2]
  rfl

theorem eligible_of_yield {u : State} {k t : Nat} {b : Beam} (hb : b.hold = .yield t) (h : u.clk < t) : eligible u k b = false := by
  have hover : holdOver u b.hold = false := by
    rw [hb]
    exact decide_eq_false (Nat.not_le.2 h)
  rw [eligible, hover, Bool.and_false]

theorem exec_yieldExpiry_due {u : State} {k t : Nat} {b : Beam} (hb : beamOf u k = some b) (hh : b.hold = .yield t) (h : t ≤ u.clk) :
    exec (.yieldExpiry (k / 64) (k % 64)) u = .next (setBeam u k { b with hold := .none }) := by
  show execYieldExpiry (k / 64) (k % 64) u = _
  rw [execYieldExpiry, Nat.div_add_mod, onBeam_some hb, hh]
  dsimp only
  rw [if_pos h]

end Control

end Sys2Proof.Machine

namespace Sys2Proof.Certificates

open Sys2Proof Sys2Proof.Machine

/-- Settles O27: the uniform check is what the two cases ask. -/
theorem branchUniform : Obligations.BranchUniform := by
  unfold Obligations.BranchUniform
  intro s x sense p disp ht c
  refine ⟨fun hsame => ?_, fun ⟨i, hi, j, hj, hne⟩ => ?_⟩
  · exact exec_moved_lanes ht rfl (if_pos ((uniform_iff c).2 hsame)) fun _ _ => rfl
  · exact exec_trap ht rfl (if_neg fun h => hne ((uniform_iff c).1 h i hi j hj))

/-- Settles O28: each lane of the run is changed alone, and none stops. -/
theorem branchPerLane : Obligations.BranchPerLane := by
  unfold Obligations.BranchPerLane
  intro s x sense p disp ht
  exact exec_moved_lanes ht rfl rfl fun _ _ => rfl

/-- Settles O29: behind their operands BRX makes its check, and CALL and RET change each lane alone. -/
theorem indirectBranchCallReturn : Obligations.IndirectBranchCallReturn := by
  unfold Obligations.IndirectBranchCallReturn
  intro s x ht
  refine ⟨fun g a hr => ⟨fun hsame => ?_, fun hdiffer => ?_⟩, fun lk disp hr => ?_, fun g a hr => ?_⟩
  · exact exec_moved_lanes ht rfl (effBrx_of_same hr hsame) fun _ _ => rfl
  · exact exec_trap ht rfl (effBrx_of_differ hr hdiffer)
  · exact exec_moved_lanes ht rfl (gated_ready hr _) fun _ _ => rfl
  · exact exec_moved_lanes ht rfl (gated_ready hr _) fun _ _ => rfl

/-- Settles O30: below DEPTH the mask is written in every lane, and beyond it both instructions trap. -/
theorem splitSavesTheRun : Obligations.SplitSavesTheRun := by
  unfold Obligations.SplitSavesTheRun
  intro s x n bl ga gr ht hh
  exact ⟨fun h => exec_done_lanes ht rfl (effSplit_of_lt hh h) fun _ _ => rfl,
    fun h => ⟨exec_trap ht rfl (effSplit_of_deep hh h), exec_trap ht rfl (effJoin_of_deep hh h)⟩⟩

/-- Settles O31: a parked lane of the mask traps, a mask that is met opens the JOIN, and else the run waits. -/
theorem joinHoldsUntilArrived : Obligations.JoinHoldsUntilArrived := by
  unfold Obligations.JoinHoldsUntilArrived
  intro s x n bl ga gr ht hh hn hrun m here
  have hpc : ∀ i ∈ x.run, (laneOf x.beam i).pc = selPc x := fun i hi => (hrun i hi).1
  have heff := effJoin_of_lt (s := s) hh hn
  refine ⟨fun hparked => exec_trap ht rfl (heff.trans (if_pos (List.any_eq_true.2 hparked))), fun hparked => ?_⟩
  have hnone : (lanesIn x.beam .parked).any (bit m) ≠ true := fun h => by
    obtain ⟨i, hi, hbit⟩ := List.any_eq_true.1 h
    exact Bool.false_ne_true ((hparked i hi).symm.trans hbit)
  replace heff := heff.trans (if_neg hnone)
  refine ⟨fun hmet => ?_, fun ⟨k, hk, hbit, hlive, haway⟩ hother => ?_⟩
  · exact ⟨_, _, exec_moved_runnable ht rfl heff (releaseCheck_block _ _ _ _) (joined_runnable ht hpc hmet), beamOf_issuedBy s x _,
      issuedBy_sameOutside s x _, laneOf_joined ht hpc hmet⟩
  · have hshut := releaseCheck_of_unmet (b := joining x n) (pc := selPc x) (n := n) (m := joinMask x gr n) fun hmet =>
      ((joining_met_iff ht hpc).1 hmet k hk hbit).elim hlive haway
    rw [hshut] at heff
    exact exec_moved_runnable ht rfl heff rfl (joining_runnable ht hother)

/-- Settles O33: the beam that has issued is held until 33 clocks on, when YIELD_EXPIRY is due. -/
theorem yieldGivesUpTurns : Obligations.YieldGivesUpTurns := by
  unfold Obligations.YieldGivesUpTurns
  intro s x g ht
  have hb : beamOf (post (setBeam s x.key (yielding s x.beam)) 33 (.yieldExpiry (x.key / 64) (x.key % 64))) x.key =
      some (yielding s x.beam) := beamOf_setBeam_same s x.key _
  obtain ⟨hbeam, hout, hagenda⟩ := finish_done 4 hb (selected_runnable ht.1)
  refine ⟨_, _, by rw [show exec (.yield g) s = issue 4 (effYield g) s from rfl, issue_selected ht.1, effYield_eq ht], hbeam,
    SameOutside.trans (setBeam_sameOutside s x.key _) hout, fun i => ?_, rfl, fun u hu => eligible_of_yield rfl (by omega), ?_,
    fun u hu hclk => exec_yieldExpiry_due hu rfl hclk⟩
  · rw [laneOf_finished (c := yielding s x.beam) fun j hj => run_lt ht.1 hj]
    split
    · rfl
    · exact congrArg (fun p : Word => { laneOf x.beam i with pc := p }) (BitVec.add_zero _).symm
  · rw [hagenda]
    exact List.mem_append_right _ (List.mem_singleton_self _)

end Sys2Proof.Certificates
end

section
/-!
PROOF of O44 and O45. The checks of a global access in the order of R157, with lanes that are parked; the walks that a run asks for; and
what the end of a walk tells (R90, R143-R145).
-/
namespace Sys2Proof.Machine

open Sys2Proof

set_option Elab.async false

/-! ## The lanes of an access after translation (R143, R145) -/

/-- What is known of a list of translations, one for each lane: its lane, and its address where it faults. -/
structure ByLane (xl : Nat → LaneXl) (ea : Nat → DWord) : Prop where
  ok : ∀ j g, xl j = .ok g → g.lane = j
  fault : ∀ j i va c, xl j = .fault i va c → i = j ∧ va = ea j

theorem laneXlate_byLane (s : State) (k : Nat) (b : Beam) (sup write : Bool) (a : Nat → ALane) (ha : ∀ j, (a j).lane = j) :
    ByLane (fun j => laneXlate s k b sup write (a j)) fun j => (a j).ea := by
  refine ⟨fun j g h => (lane_of_laneXlate h).trans (ha j), fun j i va c h => ?_⟩
  unfold laneXlate at h
  split at h
  all_goals cases h
  exact ⟨ha j, rfl⟩

section ByLane

variable {xl : Nat → LaneXl} {ea : Nat → DWord} (h : ByLane xl ea) {js : List Nat}
include h

theorem ByLane.mem_okLanes {g : GLane} (hg : g ∈ okLanes (js.map xl)) : g.lane ∈ js ∧ xl g.lane = .ok g := by
  obtain ⟨a, ha, hag⟩ := List.mem_filterMap.1 hg
  obtain ⟨j, hj, rfl⟩ := List.mem_map.1 ha
  split at hag
  · next g' hxl =>
    cases hag
    rw [h.ok j g hxl]
    exact ⟨hj, hxl⟩
  all_goals cases hag

theorem ByLane.mem_badLanes {kind i : Nat} {v : QWord} (hi : (i, v) ∈ badLanes (js.map xl) kind) :
    i ∈ js ∧ ∃ c, xl i = .fault i (ea i) c ∧ v = faultRec (ea i) c kind := by
  obtain ⟨a, ha, hai⟩ := List.mem_filterMap.1 hi
  obtain ⟨j, hj, rfl⟩ := List.mem_map.1 ha
  split at hai
  · next i' va c hxl =>
    cases hai
    obtain ⟨rfl, rfl⟩ := h.fault j i va c hxl
    exact ⟨hj, c, hxl, rfl⟩
  all_goals cases hai

theorem ByLane.not_ok_of_bad {kind i : Nat} (hi : i ∈ (badLanes (js.map xl) kind).map fun p => p.1) :
    i ∉ (okLanes (js.map xl)).map fun g => g.lane := by
  obtain ⟨⟨_, v⟩, hp, rfl⟩ := List.mem_map.1 hi
  obtain ⟨-, c, hfault, -⟩ := h.mem_badLanes hp
  rintro hok
  obtain ⟨g, hg, hgi⟩ := List.mem_map.1 hok
  have hxl := (h.mem_okLanes hg).2
  rw [hgi, hfault] at hxl
  cases hxl

/-- The fault record of a lane that could not be translated. -/
theorem ByLane.find_badLanes {kind j : Nat} {c : XFault} (hj : j ∈ js) (hxl : xl j = .fault j (ea j) c) :
    j ∈ (badLanes (js.map xl) kind).map (fun p => p.1) ∧
      (((badLanes (js.map xl) kind).find? fun p => p.1 == j).map fun p => p.2) = some (faultRec (ea j) c kind) := by
  have hmem : (j, faultRec (ea j) c kind) ∈ badLanes (js.map xl) kind :=
    List.mem_filterMap.2 ⟨xl j, List.mem_map_of_mem hj, by rw [hxl]⟩
  refine ⟨List.mem_map_of_mem hmem, ?_⟩
  cases hfind : (badLanes (js.map xl) kind).find? fun p => p.1 == j with
  | none => exact absurd (List.find?_eq_none.1 hfind _ hmem) (by simp)
  | some p =>
    obtain ⟨i, v⟩ := p
    have hij : i = j := by simpa using List.find?_some hfind
    obtain ⟨-, c', hxl', rfl⟩ := h.mem_badLanes (List.mem_of_find?_eq_some hfind)
    rw [hij, hxl] at hxl'
    cases hxl'
    rw [hij]
    rfl

end ByLane

/-! ## Lanes that are parked (R90) -/

/-- A beam with lanes parked at their records. -/
def parkedBeam (b : Beam) (l : List (Nat × QWord)) : Beam :=
  beamLanes b (l.map fun p => p.1) fun i y =>
    { y with state := .parked, frec := ((l.find? fun p => p.1 == i).map fun p => p.2).getD 0 }

theorem parkLanes_eq {s : State} {k : Nat} {b : Beam} (hb : beamOf s k = some b) (l : List (Nat × QWord)) :
    parkLanes s k l = setBeam s k (parkedBeam b l) := onBeam_some hb _

/-- An effect that keeps some lanes of the run where they stand: the others go on, if a lane is left that runs. -/
theorem exec_done_stay {s u : State} {x : Sel} {i : Instr} {e : Effect} {stay : List Nat} {c : Beam} (ht : Turn s x)
    (hi : exec i s = issue 4 e s) (he : e x s = .done u stay) (hc : beamOf u x.key = some c) (hr : lanesIn c .runnable ≠ []) :
    exec i s = .next (retire (setBeam u x.key (beamLanes c (x.run.filter fun i => !stay.contains i) fun _ l => nextPc 4 l)) x.key) := by
  have hadv : advance u x stay (nextPc 4) =
      setBeam u x.key (beamLanes c (x.run.filter fun i => !stay.contains i) fun _ l => nextPc 4 l) := by
    simp only [advance, onLanes, onBeam_some hc]
  have hb := retire_beams (beamOf_setBeam_same u x.key (beamLanes c (x.run.filter fun i => !stay.contains i) fun _ l => nextPc 4 l))
  rw [hi, issue_selected ht.1, he, finish, hadv, settleRun_runnable hb (runnable_beamLanes (fun _ _ => rfl) hr)]

/-! ## The checks of a global access, one after another (R157) -/

section Access

variable {s : State} {x : Sel} {op : GOp} {sup : Bool} {lanes : List ALane} {act : State → List GLane → Option State}

/-- The lowest misaligned lane traps, before any translation. -/
theorem accessGlobal_misaligned {a : ALane} (h : lanes.find? (fun a => a.ea.toNat % op.align != 0) = some a) :
    accessGlobal x s op sup lanes act = .trap s (laneTrap x 0x06 a.lane a.ea []) := by
  simp only [accessGlobal, h]

theorem find_aligned (h : ∀ a ∈ lanes, a.ea.toNat % op.align = 0) : lanes.find? (fun a => a.ea.toNat % op.align != 0) = none :=
  List.find?_eq_none.2 fun a ha => by simp [h a ha]

/-- A lane that neither the TLB nor a finished walk translates makes the run wait. -/
theorem accessGlobal_walks {r : List LaneXl} (hal : ∀ a ∈ lanes, a.ea.toNat % op.align = 0)
    (hr : lanes.map (laneXlate s x.key x.beam sup op.write) = r) (hw : walkLanes r ≠ []) :
    accessGlobal x s op sup lanes act = .hold (startWalks s x.key sup op.write (walkLanes r)) := by
  have hne : (walkLanes r).isEmpty = false := List.isEmpty_eq_false_iff.2 hw
  simp only [accessGlobal, find_aligned hal, hr, hne, Bool.not_false, if_true]

/-- An access whose lanes have all been looked up, where those that translate pass the checks and can travel, comes to its effect; the
others are parked. -/
theorem accessGlobal_passes {u : State} {r : List LaneXl} (hal : ∀ a ∈ lanes, a.ea.toNat % op.align = 0)
    (hr : lanes.map (laneXlate s x.key x.beam sup op.write) = r) (hw : walkLanes r = []) (hshut : LaneXl.shut ∉ r)
    (hpoor : poorLanes r = [])
    (hcheck : ∀ g ∈ okLanes r, op.check (parkLanes s x.key (badLanes r op.kind)) g.x g.ea = none)
    (hlock : ∀ g ∈ okLanes r, lockHit (parkLanes s x.key (badLanes r op.kind)) (selCore x) false (op.span g.ea.toNat).1
      (op.span g.ea.toNat).2 op.write = none)
    (hreach : lanesReach (parkLanes s x.key (badLanes r op.kind)) (selCore x) op (okLanes r) = true)
    (hsync : syncReady (parkLanes s x.key (badLanes r op.kind)) x.key op (okLanes r) = true)
    (hact : act (parkLanes s x.key (badLanes r op.kind)) (okLanes r) = some u) :
    accessGlobal x s op sup lanes act = .done u ((badLanes r op.kind).map fun p => p.1) := by
  have hcontains : r.contains .shut = false := by rw [List.contains_eq_mem]; exact decide_eq_false hshut
  generalize hs : parkLanes s x.key (badLanes r op.kind) = s1 at hcheck hlock hreach hsync hact
  have hchecks : firstSome (fun g => (op.check s1 g.x g.ea).map fun c => (g.lane, c)) (okLanes r) = none :=
    firstSome_none fun g hg => by rw [hcheck g hg]; rfl
  have hlocks : firstSome (fun g => if op.locked g.x then (lockHit s1 (selCore x) false (op.span g.ea.toNat).1
      (op.span g.ea.toNat).2 op.write).map fun l => (g, l) else none) (okLanes r) = none :=
    firstSome_none fun g hg => by
      rw [hlock g hg]
      exact ite_self _
  simp only [accessGlobal, find_aligned hal, hr, hw, hcontains, hpoor, hs, hchecks, hlocks, hreach, hsync, hact, List.isEmpty_nil,
    Bool.not_true, Bool.or_self, Bool.false_eq_true, if_false]

end Access

/-! ## Loads (R160, R162) -/

/-- The lanes of a load before translation. -/
def loadLane (f : MemForm) (x : Sel) (j : Nat) : ALane := ⟨j, f.ea x j, 0⟩

/-- Where the translation of each lane of a load stands. -/
def loadXl (s : State) (x : Sel) (f : MemForm) (j : Nat) : LaneXl := laneXlate s x.key x.beam (selSup x) false (loadLane f x j)

theorem loadXl_byLane (s : State) (x : Sel) (f : MemForm) : ByLane (loadXl s x f) (f.ea x) :=
  laneXlate_byLane s x.key x.beam (selSup x) false (loadLane f x) fun _ => rfl

section Load

variable {s : State} {x : Sel} {i : Instr} {f : MemForm} {const : Bool} {g : Guard}

/-- A load whose operands are ready is a global access of its executing lanes. -/
theorem effLoad_ready (hlanes : f.lanes = execLanes x g) (hr : ready x f.lanes [srcUse f.a 2] [regUse f.d (regsOf f.n)] = true) :
    effLoad i g f.n f.off f.q const f.a f.d x s = accessGlobal x s { loadOp f.n f.q with check := loadCheck (selCore x) f.n const (selSup x) }
      (selSup x) (f.lanes.map (loadLane f x)) (loadAct x (wordOfInstr i) (selPc x) f.d f.n f.q const) := by
  simp only [effLoad, ← hlanes]
  rw [gated_ready hr]
  rfl

theorem loadLanes_aligned (hal : ∀ j ∈ f.lanes, (f.ea x j).toNat % f.n = 0) :
    ∀ a ∈ f.lanes.map (loadLane f x), a.ea.toNat % f.n = 0 := fun a ha => by
  obtain ⟨j, hj, rfl⟩ := List.mem_map.1 ha
  exact hal j hj

theorem loadLanes_xl : (f.lanes.map (loadLane f x)).map (laneXlate s x.key x.beam (selSup x) false) = f.lanes.map (loadXl s x f) :=
  List.map_map

/-- What a load makes of the beam whose lanes have been parked: those that translate have begun. -/
theorem loadAct_begun {word epc : Word} {d n : Nat} {q : QF} {ls : List GLane} {b : Beam} (hb : beamOf s x.key = some b)
    (hopen : acquires q.order = true ∨ (∃ g ∈ ls, g.x.apc = 3) → accessOpen (beforeAccess (windowFence s x.key ls) x.key (spansOf ls n))
      (selCore x) (.load n q.scope const) (ls.map fun g => targetOf g.x) = true) :
    ∃ u c, loadAct x word epc d n q const s ls = some u ∧ beamOf u x.key = some c ∧
      c.lanes = (begun x b word epc d (regsOf n) (.load n q.scope const) (ls.map pendLane)).lanes ∧
      (ls ≠ [] → acquires q.order = false → (∀ g ∈ ls, g.x.apc ≠ 3) →
        entered x b.nextId word epc d (regsOf n) (.load n q.scope const) (ls.map pendLane) ∈ c.pend) := by
  by_cases hne : ls = []
  · subst hne
    exact ⟨s, b, rfl, hb, (begun_nil_lanes x b).symm, fun h => absurd rfl h⟩
  have hact := loadAct_open (x := x) (s := s) (word := word) (epc := epc) (d := d) (const := const) hne fun hnow =>
    hopen (by simpa [anyAperture] using hnow)
  obtain ⟨c, hc, hclanes, -, hpend, -⟩ := startAccess_after ((windowFence_performs s x.key ls).trans
    (beforeAccess_performs _ x.key (spansOf ls n))) hb word epc d (regsOf n) (.load n q.scope const) (ls.map pendLane)
    (acquires q.order || anyAperture ls)
  refine ⟨_, c, hact, ((stamped_keeps _ _ _ _ _).1 x.key).trans hc, hclanes, fun _ hacq hapc => hpend ?_⟩
  rw [hacq, Bool.false_or, anyAperture, List.any_eq_false]
  exact fun g hg h => hapc g hg (beq_iff_eq.1 h)

end Load

/-! ## Walks that a run asks for (R143) -/

/-- Any field that is none of those that the start of a walk changes. -/
theorem OnlyWalks.field {s t : State} {α : Type} (h : OnlyWalks s t) (f : State → α)
    (hf : ∀ (s : State) c a n k, f { s with cores := c, agenda := a, fresh := n, nextKey := k } = f s) : f t = f s := by
  rw [h, hf]

theorem OnlyWalks.walkFrom {s t : State} (h : OnlyWalks s t) (q : Option Nat) (part va : Nat) : ∀ (n table : Nat) (u w : Bool),
    Machine.walkFrom t q part va n table u w = Machine.walkFrom s q part va n table u w
  | 0, _, _, _ => rfl
  | n + 1, table, u, w => by
    have hpath := fun q pa => h.field (fun s => pathOpen s q part 0 pa) fun _ _ _ _ _ => rfl
    have hbad := fun pa => h.field (fun s => fillBad s part 0 pa) fun _ _ _ _ _ => rfl
    have hread := fun pa => h.field (fun s => homeRead s part pa 8) fun _ _ _ _ _ => rfl
    have hpte := fun e level pa => h.field (fun s => pteBad s part e level pa) fun _ _ _ _ _ => rfl
    simp only [Machine.walkFrom, hpath, hbad, hread, hpte, h.walkFrom q part va n]

/-- What a walk finds does not depend on what the start of a walk changes. -/
theorem OnlyWalks.walkTables {s t : State} (h : OnlyWalks s t) (q : Option Nat) (part va : Nat) :
    Machine.walkTables t q part va = Machine.walkTables s q part va := by
  have hroot := h.field (fun s => rootOf s part) fun _ _ _ _ _ => rfl
  have hmap := fun pa => h.field (fun s => mapped s part pa) fun _ _ _ _ _ => rfl
  simp only [Machine.walkTables, hroot, hmap, h.walkFrom]

theorem OnlyWalks.walkServes {s t : State} (h : OnlyWalks s t) (core va : Nat) (w : Walk) :
    Machine.walkServes t core va w = Machine.walkServes s core va w := by
  have hpart := h.field (fun s => partOfCore s core) fun _ _ _ _ _ => rfl
  simp only [Machine.walkServes, hpart, h.walkTables]

/-- A walk of the core is under way for an address, and tells the asker. -/
def Asked (s t : State) (core : Nat) (want : Want) (va : Nat) : Prop :=
  ∃ w ∈ (coreOf t core).walks, walkServes s core va w = true ∧ want ∈ w.wants

/-- A walk that is under way for an address stays so, with whom it tells, when others are asked for or joined. -/
structure WalksGrow (core : Nat) (s t : State) : Prop where
  only : OnlyWalks s t
  keeps : ∀ w ∈ (coreOf s core).walks, ∃ y ∈ (coreOf t core).walks, y.va = w.va ∧ ∀ z ∈ w.wants, z ∈ y.wants

theorem walkServes_congr {s : State} {core va : Nat} {w y : Walk} (h : y.va = w.va) : walkServes s core va y = walkServes s core va w := by
  simp only [walkServes, h]

theorem Asked.grow {s t u : State} {core va : Nat} {want : Want} (h : Asked s t core want va) (g : WalksGrow core t u) :
    Asked s u core want va := by
  obtain ⟨w, hw, hserves, hwant⟩ := h
  obtain ⟨y, hy, hva, hmore⟩ := g.keeps w hw
  exact ⟨y, hy, (walkServes_congr hva).trans hserves, hmore _ hwant⟩

/-- One address is asked for: a walk in flight takes it, or a new one, of which 32 can be in flight. -/
theorem startWalk_asked (s : State) (core va : Nat) (want : Want) (hroom : (coreOf s core).walks.length < 32) :
    WalksGrow core s (startWalksFor s core want [va]) ∧ Asked s (startWalksFor s core want [va]) core want va ∧
      (coreOf (startWalksFor s core want [va]) core).walks.length ≤ (coreOf s core).walks.length + 1 := by
  unfold startWalksFor
  rw [List.foldl_cons, List.foldl_nil]
  dsimp only
  split
  · next w hfind =>
    have hmem := List.mem_of_find?_eq_some hfind
    have hserves := List.find?_some hfind
    split
    · next hwant =>
      exact ⟨⟨.refl s, fun w hw => ⟨w, hw, rfl, fun _ h => h⟩⟩, ⟨w, hmem, hserves, List.contains_iff_mem.1 hwant⟩, Nat.le_succ _⟩
    · have hjoin : ∀ y : Walk, (if y.id = w.id then { y with wants := y.wants ++ [want] } else y).va = y.va ∧
          ∀ z ∈ y.wants, z ∈ (if y.id = w.id then { y with wants := y.wants ++ [want] } else y).wants := fun y => by
        split
        · exact ⟨rfl, fun _ h => List.mem_append_left _ h⟩
        · exact ⟨rfl, fun _ h => h⟩
      rw [Asked, coreOf_setCore_same]
      refine ⟨⟨rfl, fun y hy => ?_⟩, ⟨_, List.mem_map_of_mem hmem, ?_, ?_⟩, (List.length_map _).trans_le (Nat.le_succ _)⟩
      · rw [coreOf_setCore_same]
        exact ⟨_, List.mem_map_of_mem hy, (hjoin y).1, (hjoin y).2⟩
      · exact (walkServes_congr (hjoin w).1).trans hserves
      · rw [if_pos rfl]
        exact List.mem_append_right _ (List.mem_singleton_self _)
  · rw [if_pos hroom]
    have hcore : (coreOf (postFree (setCore (newKey s).2 core fun c => { c with walks := c.walks ++ [⟨(newKey s).1, va, [want]⟩] }) 0
        (.pageWalkComplete core (newKey s).1)) core).walks = (coreOf s core).walks ++ [⟨(newKey s).1, va, [want]⟩] :=
      congrArg Core.walks (coreOf_setCore_same (newKey s).2 core fun c => { c with walks := c.walks ++ [⟨(newKey s).1, va, [want]⟩] })
    rw [Asked, hcore]
    refine ⟨⟨rfl, fun w hw => ⟨w, ?_, rfl, fun _ h => h⟩⟩, ⟨_, List.mem_append_right _ (List.mem_singleton_self _), ?_,
      List.mem_singleton_self _⟩, List.length_append.le⟩
    · rw [hcore]
      exact List.mem_append_left _ hw
    · rw [walkServes, beq_self_eq_true, Bool.true_or]

/-- Addresses for which the core has walks to spare are all asked for. -/
theorem startWalksFor_asked (core : Nat) (want : Want) : ∀ (vas : List Nat) (s : State),
    (coreOf s core).walks.length + vas.length ≤ 32 → WalksGrow core s (startWalksFor s core want vas) ∧
      ∀ va ∈ vas, Asked s (startWalksFor s core want vas) core want va
  | [], s, _ => ⟨⟨.refl s, fun w hw => ⟨w, hw, rfl, fun _ h => h⟩⟩, nofun⟩
  | va :: vas, s, hroom => by
    rw [List.length_cons] at hroom
    obtain ⟨hgrow, hasked, hlen⟩ := startWalk_asked s core va want (by omega)
    obtain ⟨hgrow', hasked'⟩ := startWalksFor_asked core want vas (startWalksFor s core want [va]) (by omega)
    have hfold : startWalksFor s core want (va :: vas) = startWalksFor (startWalksFor s core want [va]) core want vas := rfl
    rw [hfold]
    refine ⟨⟨hgrow.only.trans hgrow'.only, fun w hw => ?_⟩, fun v hv => ?_⟩
    · obtain ⟨y, hy, hva, hmore⟩ := hgrow.keeps w hw
      obtain ⟨z, hz, hva', hmore'⟩ := hgrow'.keeps y hy
      exact ⟨z, hz, hva'.trans hva, fun m hm => hmore' m (hmore m hm)⟩
    · obtain rfl | hv := List.mem_cons.1 hv
      · exact hasked.grow hgrow'
      · obtain ⟨w, hw, hserves, hwant⟩ := hasked' v hv
        exact ⟨w, hw, by rw [← hgrow.only.walkServes]; exact hserves, hwant⟩

/-! ## A load some of whose lanes are parked (R90, R145) -/

/-- A beam whose run has issued a load: the lanes `bad` are parked, those of `ls` have empty destinations, and what is left of the run has
gone on. -/
def loadedLane (x : Sel) (bad : List (Nat × QWord)) (ls : List GLane) (d n j : Nat) : Lane :=
  let p := if j ∈ bad.map (fun p => p.1) then
      { laneOf x.beam j with state := .parked, frec := ((bad.find? fun p => p.1 == j).map fun p => p.2).getD 0 }
    else laneOf x.beam j
  let q := if j ∈ ls.map (fun g => g.lane) then laneEmpty p d n else p
  if j ∈ x.run ∧ j ∉ bad.map (fun p => p.1) then nextPc 4 q else q

section Loaded

variable {s u : State} {x : Sel} {bad : List (Nat × QWord)} {ls : List GLane} {d n : Nat} {word epc : Word} {kind : PendKind} {c : Beam}
  (ht : Turn s x) (hbad : ∀ j ∈ bad.map (fun p => p.1), j ∈ x.run) (hls : ∀ j ∈ ls.map (fun g => g.lane), j ∈ x.run)
  (hc : c.lanes = (begun x (parkedBeam x.beam bad) word epc d n kind (ls.map pendLane)).lanes)
include ht hbad hls hc

theorem laneOf_begun_parked (j : Nat) : laneOf c j =
    let p := if j ∈ bad.map (fun p => p.1) then
        { laneOf x.beam j with state := .parked, frec := ((bad.find? fun p => p.1 == j).map fun p => p.2).getD 0 }
      else laneOf x.beam j
    if j ∈ ls.map (fun g => g.lane) then laneEmpty p d n else p := by
  have hlen : (parkedBeam x.beam bad).lanes.length = x.beam.lanes.length := mapLanes_length _ _ _ _
  have hnames : (ls.map pendLane).map (fun l => l.lane) = ls.map fun g => g.lane := List.map_map
  have hlane : laneOf c j = laneOf (beamLanes (parkedBeam x.beam bad) ((ls.map pendLane).map fun l => l.lane) fun _ l => laneEmpty l d n) j := by
    rw [laneOf, hc]
    rfl
  rw [hlane, hnames, laneOf_beamLanes_of_lt fun i hi => hlen ▸ run_lt ht.1 (hls i hi), parkedBeam,
    laneOf_beamLanes_of_lt fun i hi => run_lt ht.1 (hbad i hi)]

theorem laneOf_loaded (j : Nat) : laneOf (beamLanes c (x.run.filter fun i => !(bad.map fun p => p.1).contains i) fun _ l => nextPc 4 l) j =
    loadedLane x bad ls d n j := by
  have hlen : c.lanes.length = x.beam.lanes.length := by
    rw [hc]
    exact (mapLanes_length _ _ _ _).trans (mapLanes_length _ _ _ _)
  rw [laneOf_beamLanes_of_lt fun i hi => hlen ▸ run_lt ht.1 (List.mem_of_mem_filter hi), laneOf_begun_parked ht hbad hls hc]
  simp only [List.mem_filter, Bool.not_eq_true', List.contains_eq_mem, decide_eq_false_iff_not]
  rfl

/-- Where a lane is left that runs, it runs on. -/
theorem begun_parked_runnable (hleft : ∃ j ∈ lanesIn x.beam .runnable, j ∉ bad.map fun p => p.1) : lanesIn c .runnable ≠ [] := by
  obtain ⟨j, hj, hout⟩ := hleft
  obtain ⟨hlt, hrun⟩ := (mem_lanesIn _ _ _).1 hj
  refine lanesIn_ne_nil (i := j) ?_ ?_
  · rw [hc]
    exact ((mapLanes_length _ _ _ _).trans (mapLanes_length _ _ _ _)).symm ▸ hlt
  · rw [laneOf_begun_parked ht hbad hls hc]
    dsimp only
    rw [if_neg hout]
    split <;> exact hrun

end Loaded

theorem loadedLane_of_bad {x : Sel} {bad : List (Nat × QWord)} {ls : List GLane} {d n j : Nat} (hj : j ∈ bad.map fun p => p.1)
    (hls : j ∉ ls.map fun g => g.lane) : loadedLane x bad ls d n j =
      { laneOf x.beam j with state := .parked, frec := ((bad.find? fun p => p.1 == j).map fun p => p.2).getD 0 } := by
  rw [loadedLane, if_pos hj]
  dsimp only
  rw [if_neg hls, if_neg fun h => h.2 hj]

theorem loadedLane_of_run {x : Sel} {bad : List (Nat × QWord)} {ls : List GLane} {d n j : Nat} (hrun : j ∈ x.run)
    (hj : j ∉ bad.map fun p => p.1) : loadedLane x bad ls d n j =
      nextPc 4 (if j ∈ ls.map (fun g => g.lane) then laneEmpty (laneOf x.beam j) d n else laneOf x.beam j) := by
  rw [loadedLane, if_neg hj]
  exact if_pos ⟨hrun, hj⟩

/-- A lane of the run that is not parked goes on; of its registers none takes a value yet. -/
theorem loadedLane_goes_on {x : Sel} {bad : List (Nat × QWord)} {ls : List GLane} {d n j : Nat} (hrun : j ∈ x.run)
    (hj : j ∉ bad.map fun p => p.1) : (loadedLane x bad ls d n j).state = (laneOf x.beam j).state ∧
      (loadedLane x bad ls d n j).pc = (laneOf x.beam j).pc + 4 ∧ (loadedLane x bad ls d n j).regs = (laneOf x.beam j).regs := by
  rw [loadedLane_of_run hrun hj]
  split <;> exact ⟨rfl, rfl, rfl⟩

/-! ## The checks of a load, one after another (R157) -/

section Checks

variable {s : State} {x : Sel} {i : Instr} {f : MemForm} {const : Bool} {g : Guard} (hlanes : f.lanes = execLanes x g)
  (hr : ready x f.lanes [srcUse f.a 2] [regUse f.d (regsOf f.n)] = true)
include hlanes hr

theorem effLoad_misaligned {j : Nat} (h : f.lanes.find? (fun j => (f.ea x j).toNat % f.n != 0) = some j) :
    effLoad i g f.n f.off f.q const f.a f.d x s = .trap s { trapOf x 0x06 with lane := j, addr := f.ea x j } := by
  have hfind : (f.lanes.map (loadLane f x)).find? (fun a => a.ea.toNat % f.n != 0) = some (loadLane f x j) := by
    rw [List.find?_map]
    exact congrArg (Option.map (loadLane f x)) h
  have htrap : laneTrap x 0x06 j (f.ea x j) [] = { trapOf x 0x06 with lane := j, addr := f.ea x j } := by
    simp [laneTrap, trapOf]
  rw [effLoad_ready hlanes hr, accessGlobal_misaligned hfind]
  exact congrArg (Res.trap s) htrap

theorem effLoad_walks (hal : ∀ j ∈ f.lanes, (f.ea x j).toNat % f.n = 0) (hw : walkLanes (f.lanes.map (loadXl s x f)) ≠ []) :
    effLoad i g f.n f.off f.q const f.a f.d x s =
      .hold (startWalks s x.key (selSup x) false (walkLanes (f.lanes.map (loadXl s x f)))) := by
  rw [effLoad_ready hlanes hr]
  exact accessGlobal_walks (loadLanes_aligned hal) loadLanes_xl hw

theorem effLoad_passes {u : State} (hb : beamOf s x.key = some x.beam) (hal : ∀ j ∈ f.lanes, (f.ea x j).toNat % f.n = 0)
    (hw : walkLanes (f.lanes.map (loadXl s x f)) = []) (hshut : LaneXl.shut ∉ f.lanes.map (loadXl s x f))
    (hpoor : poorLanes (f.lanes.map (loadXl s x f)) = [])
    (hcheck : ∀ g ∈ okLanes (f.lanes.map (loadXl s x f)), loadCheck (selCore x) f.n const (selSup x) s g.x g.ea = none)
    (hlock : noLock s x f.n false (okLanes (f.lanes.map (loadXl s x f))) = true)
    (hgo : Reaches (parkLanes s x.key (badLanes (f.lanes.map (loadXl s x f)) 0)) x f.q f.n false false (okLanes (f.lanes.map (loadXl s x f))))
    (hact : loadAct x (wordOfInstr i) (selPc x) f.d f.n f.q const (parkLanes s x.key (badLanes (f.lanes.map (loadXl s x f)) 0))
      (okLanes (f.lanes.map (loadXl s x f))) = some u) :
    effLoad i g f.n f.off f.q const f.a f.d x s = .done u ((badLanes (f.lanes.map (loadXl s x f)) 0).map fun p => p.1) := by
  obtain ⟨hreach, hsync⟩ := hgo
  have hpark := parkLanes_eq hb (badLanes (f.lanes.map (loadXl s x f)) 0)
  rw [effLoad_ready hlanes hr]
  refine accessGlobal_passes (loadLanes_aligned hal) loadLanes_xl hw hshut hpoor (fun g hg => ?_) (fun g hg => ?_)
    (List.all_eq_true.2 hreach) ?_ hact
  · show loadCheck (selCore x) f.n const (selSup x) (parkLanes s x.key (badLanes (f.lanes.map (loadXl s x f)) 0)) g.x g.ea = none
    rw [hpark]
    exact hcheck g hg
  · show lockHit (parkLanes s x.key (badLanes (f.lanes.map (loadXl s x f)) 0)) (selCore x) false g.ea.toNat f.n false = none
    rw [hpark]
    exact Option.isNone_iff_eq_none.1 (List.all_eq_true.1 hlock g hg)
  · simp only [syncReady, Bool.and_eq_true] at hsync ⊢
    exact ⟨⟨hsync.1.1, rfl⟩, hsync.2⟩

end Checks

/-! ## The end of a walk (R143, R144) -/

/-- Nothing of the machine differs but what walks have told: of what was told before, nothing is lost. -/
structure Informs (core : Nat) (s t : State) : Prop where
  mem : t.mem = s.mem
  own : coreOf t core = { coreOf s core with told := (coreOf t core).told }
  engines : ∀ m ∈ (coreOf s core).told, m ∈ (coreOf t core).told
  beam : ∀ k b, beamOf s k = some b → ∃ c, beamOf t k = some c ∧ c.lanes = b.lanes ∧ ∀ m ∈ b.told, m ∈ c.told

theorem Informs.refl (core : Nat) (s : State) : Informs core s s := ⟨rfl, rfl, fun _ h => h, fun _ b hb => ⟨b, hb, rfl, fun _ h => h⟩⟩

theorem Informs.trans {core : Nat} {s t u : State} (h : Informs core s t) (g : Informs core t u) : Informs core s u := by
  refine ⟨g.mem.trans h.mem, by rw [g.own, h.own], fun m hm => g.engines m (h.engines m hm), fun k b hb => ?_⟩
  obtain ⟨c, hc, hlanes, htold⟩ := h.beam k b hb
  obtain ⟨e, he, hlanes', htold'⟩ := g.beam k c hc
  exact ⟨e, he, hlanes'.trans hlanes, fun m hm => htold' m (htold m hm)⟩

/-- One that waits is told, be it a beam or the core's engines. -/
theorem tellWalk_informs (s : State) (core key va : Nat) (r : Walked) : Informs core s (tellWalk s core key va r) ∧
    (key < 4096 → ∀ b, beamOf s key = some b → ∃ c, beamOf (tellWalk s core key va r) key = some c ∧ ⟨va, r⟩ ∈ c.told ∧ c.lanes = b.lanes) ∧
    (4096 ≤ key → ⟨va, r⟩ ∈ (coreOf (tellWalk s core key va r) core).told) := by
  unfold tellWalk
  split
  · next hlt =>
    refine ⟨⟨rfl, rfl, fun _ h => h, fun k b hb => ?_⟩, fun _ b hb => ?_, fun hge => absurd hlt (Nat.not_lt.2 hge)⟩
    · by_cases hk : k = key
      · subst hk
        rw [onBeam_some hb]
        exact ⟨_, beamOf_setBeam_same _ _ _, rfl, fun _ h => List.mem_cons_of_mem _ h⟩
      · exact ⟨b, ((onBeam_only s key _).others k hk).trans hb, rfl, fun _ h => h⟩
    · rw [onBeam_some hb]
      exact ⟨_, beamOf_setBeam_same _ _ _, List.mem_cons_self, rfl⟩
  · next hge =>
    have hcore := coreOf_setCore_same s core fun c => { c with told := ⟨va, r⟩ :: c.told }
    refine ⟨⟨rfl, by rw [hcore], fun m hm => ?_, fun k b hb => ⟨b, hb, rfl, fun _ h => h⟩⟩, fun hlt => absurd hlt hge, fun _ => ?_⟩
    · rw [hcore]
      exact List.mem_cons_of_mem _ hm
    · rw [hcore]
      exact List.mem_cons_self

/-- All that wait are told. -/
theorem foldl_tellWalk_informs (core va : Nat) (r : Walked) : ∀ (ws : List Want) (s : State),
    let t := ws.foldl (fun s y => tellWalk s core y.key va r) s
    Informs core s t ∧ ∀ y ∈ ws,
      (y.key < 4096 → ∀ b, beamOf s y.key = some b → ∃ c, beamOf t y.key = some c ∧ ⟨va, r⟩ ∈ c.told ∧ c.lanes = b.lanes) ∧
      (4096 ≤ y.key → ⟨va, r⟩ ∈ (coreOf t core).told)
  | [], s => ⟨.refl core s, nofun⟩
  | w :: ws, s => by
    obtain ⟨hone, hbeam, hcore⟩ := tellWalk_informs s core w.key va r
    obtain ⟨hrest, hall⟩ := foldl_tellWalk_informs core va r ws (tellWalk s core w.key va r)
    refine ⟨hone.trans hrest, fun y hy => ?_⟩
    obtain rfl | hy := List.mem_cons.1 hy
    · refine ⟨fun hlt b hb => ?_, fun hge => hrest.engines _ (hcore hge)⟩
      obtain ⟨c, hc, htold, hlanes⟩ := hbeam hlt b hb
      obtain ⟨e, he, hlanes', htold'⟩ := hrest.beam _ c hc
      exact ⟨e, he, htold' _ htold, hlanes'.trans hlanes⟩
    · refine ⟨fun hlt b hb => ?_, (hall y hy).2⟩
      obtain ⟨c, hc, hlanes, -⟩ := hone.beam _ b hb
      obtain ⟨e, he, htold, hlanes'⟩ := (hall y hy).1 hlt c hc
      exact ⟨e, he, htold, hlanes'.trans hlanes⟩

/-- A leaf serves an access where the checks on it pass. -/
theorem walkServesWant_leaf (s : State) (part : Nat) (e : TlbEntry) (va : Nat) (y : Want) :
    walkServesWant s part (.leaf e) va y = true ↔ ∃ z, applyLeaf s part e va y.sup y.write = .ok z := by
  simp only [walkServesWant, walkedLook, leafLook]
  cases applyLeaf s part e va y.sup y.write <;> simp

/-- The state in which a walk that has ended has told what it found. -/
def walkTold (s : State) (core id : Nat) (w : Walk) (r : Walked) : State :=
  w.wants.foldl (fun s y => tellWalk s core y.key w.va r) (setCore s core fun c => { c with walks := c.walks.filter fun y => y.id != id })

/-- The state after a walk has come to its end, with what it found. -/
def walkEnd (s : State) (core id : Nat) (w : Walk) (r : Walked) : State :=
  match r with
  | .shut => postFree s 0 (.pageWalkComplete core id)
  | .leaf e =>
    if w.wants.any (walkServesWant s (partOfCore s core) (.leaf e) w.va) then
      setCore (walkTold s core id w (.leaf e)) core fun c => { c with tlb := tlbAdd s.fresh c.tlb e }
    else walkTold s core id w (.leaf e)
  | .fault f => walkTold s core id w (.fault f)
  | .bad pa => walkTold s core id w (.bad pa)

theorem exec_pageWalkComplete_eq {s : State} {core id : Nat} {w : Walk} (hw : (coreOf s core).walks.find? (fun w => w.id == id) = some w) :
    exec (.pageWalkComplete core id) s =
      .next (walkEnd s core id w (walkTables s (some (quarterOf core)) (partOfCore s core) w.va)) := by
  show execPageWalkComplete core id s = _
  -- What the walk finds is a variable here: the kernel would otherwise compute the walk.
  obtain ⟨walked, hwalked⟩ : ∃ f, f = walkTables s (some (quarterOf core)) := ⟨_, rfl⟩
  unfold execPageWalkComplete
  rw [← hwalked, hw]
  dsimp only
  cases walked (partOfCore s core) w.va <;> rfl

/-- Once a walk has told what it found it is off the core's list, and nothing else of the core differs but what was told and the TLB. -/
theorem coreOf_walkTold (s : State) (core id : Nat) (w : Walk) (r : Walked) : coreOf (walkTold s core id w r) core =
    { coreOf s core with
      walks := (coreOf s core).walks.filter fun y => y.id != id
      told := (coreOf (walkTold s core id w r) core).told } := by
  have h := (foldl_tellWalk_informs core w.va r w.wants
    (setCore s core fun c => { c with walks := c.walks.filter fun y => y.id != id })).1.own
  rw [coreOf_setCore_same] at h
  exact h

theorem walkEnd_informs {s : State} {core id : Nat} {w : Walk} {r : Walked} (hr : r ≠ .shut) :
    (walkEnd s core id w r).mem = s.mem ∧ (∀ k, beamOf (walkEnd s core id w r) k = beamOf (walkTold s core id w r) k) ∧
      (coreOf (walkEnd s core id w r) core).told = (coreOf (walkTold s core id w r) core).told ∧
      (coreOf (walkEnd s core id w r) core).walks = (coreOf s core).walks.filter fun y => y.id != id := by
  have hmem : (walkTold s core id w r).mem = s.mem := (foldl_tellWalk_informs core w.va r w.wants _).1.mem
  have hwalks := congrArg Core.walks (coreOf_walkTold s core id w r)
  cases r with
  | shut => exact absurd rfl hr
  | fault | bad => exact ⟨hmem, fun _ => rfl, rfl, hwalks⟩
  | leaf e =>
    unfold walkEnd
    dsimp only
    split
    · rw [coreOf_setCore_same]
      exact ⟨hmem, fun _ => rfl, rfl, hwalks⟩
    · exact ⟨hmem, fun _ => rfl, rfl, hwalks⟩

/-- A leaf that serves an access enters the TLB. -/
theorem walkEnd_tlb_of_served {s : State} {core id : Nat} {w : Walk} {e : TlbEntry}
    (h : ∃ y ∈ w.wants, ∃ z, applyLeaf s (partOfCore s core) e w.va y.sup y.write = .ok z) :
    (coreOf (walkEnd s core id w (.leaf e)) core).tlb = tlbAdd s.fresh (coreOf s core).tlb e := by
  obtain ⟨y, hy, hz⟩ := h
  have hany : w.wants.any (walkServesWant s (partOfCore s core) (.leaf e) w.va) = true :=
    List.any_eq_true.2 ⟨y, hy, (walkServesWant_leaf ..).2 hz⟩
  have htlb := congrArg Core.tlb (coreOf_walkTold s core id w (.leaf e))
  unfold walkEnd
  dsimp only
  rw [if_pos hany, coreOf_setCore_same]
  exact congrArg (tlbAdd s.fresh · e) htlb

/-- A walk that finds nothing that serves an access leaves the TLB as it was. -/
theorem walkEnd_tlb_of_unserved {s : State} {core id : Nat} {w : Walk} {r : Walked} (hr : r ≠ .shut)
    (h : ∀ e, r = .leaf e → ∀ y ∈ w.wants, ∀ z, applyLeaf s (partOfCore s core) e w.va y.sup y.write ≠ .ok z) :
    (coreOf (walkEnd s core id w r) core).tlb = (coreOf s core).tlb := by
  have htlb := congrArg Core.tlb (coreOf_walkTold s core id w r)
  cases r with
  | shut => exact absurd rfl hr
  | fault | bad => exact htlb
  | leaf e =>
    have hany : ¬ w.wants.any (walkServesWant s (partOfCore s core) (.leaf e) w.va) = true := fun ha => by
      obtain ⟨y, hy, hs⟩ := List.any_eq_true.1 ha
      obtain ⟨z, hz⟩ := (walkServesWant_leaf ..).1 hs
      exact h e rfl y hy z hz
    unfold walkEnd
    dsimp only
    rw [if_neg hany]
    exact htlb

end Sys2Proof.Machine

namespace Sys2Proof.Certificates

open Sys2Proof Sys2Proof.Machine

/-- Settles O44: the checks of R157 one after another, and what the load then makes of each lane. -/
theorem accessChecksInOrder : Obligations.AccessChecksInOrder := by
  unfold Obligations.AccessChecksInOrder
  intro s x i f const hf ht hr xl r
  obtain ⟨g, hlanes, hi⟩ := hf.exec
  have hxl : ByLane xl (f.ea x) := loadXl_byLane s x f
  have hrun : ∀ j ∈ f.lanes, j ∈ x.run := fun j hj => execLanes_run x g j (hlanes ▸ hj)
  refine ⟨fun j hj => exec_trap ht (hi s) (effLoad_misaligned hlanes hr hj),
    fun hal => ⟨fun va hva hroom => ?_, fun hw hshut hpoor hcheck hlock hgo hleft => ?_⟩⟩
  · have hexec := exec_hold ht (hi s) (effLoad_walks hlanes hr hal (List.ne_nil_of_mem hva))
    obtain ⟨hgrow, hasked⟩ := startWalksFor_asked (selCore x) ⟨x.key, selSup x, false⟩ (walkLanes r) s hroom
    have hbeam : beamOf (startWalks s x.key (selSup x) false (walkLanes r)) x.key = some x.beam :=
      (congrArg (look · x.key) hgrow.only.beams).trans ht.2
    exact ⟨_, _, hexec, (congrArg (beamOf · x.key) (onBeam_some hbeam _)).trans (beamOf_setBeam_same _ _ _), rfl, hasked va hva⟩
  · have hbeam : beamOf (parkLanes s x.key (badLanes r 0)) x.key = some (parkedBeam x.beam (badLanes r 0)) := by
      rw [parkLanes_eq ht.2, beamOf_setBeam_same]
    obtain ⟨u, c, hact, hc, hclanes, hpend⟩ := loadAct_begun (word := wordOfInstr i) (epc := selPc x) (d := f.d) hbeam hgo.2
    have hdone := effLoad_passes hlanes hr ht.2 hal hw hshut hpoor hcheck hlock hgo.1 hact
    have hbad : ∀ j ∈ (badLanes r 0).map (fun p => p.1), j ∈ x.run := fun j hj => by
      obtain ⟨p, hp, rfl⟩ := List.mem_map.1 hj
      exact hrun _ (hxl.mem_badLanes hp).1
    have hok : ∀ j ∈ (okLanes r).map (fun g => g.lane), j ∈ x.run := fun j hj => by
      obtain ⟨g, hg, rfl⟩ := List.mem_map.1 hj
      exact hrun _ (hxl.mem_okLanes hg).1
    have hexec := exec_done_stay ht (hi s) hdone hc (begun_parked_runnable ht hbad hok hclanes hleft)
    have hlane := laneOf_loaded ht hbad hok hclanes
    refine ⟨_, _, hexec, retire_beams (beamOf_setBeam_same _ _ _), fun j hj e hfault => ?_, fun j hj hout => ?_, fun g hg n h1 h2 => ?_,
      hpend⟩
    · obtain ⟨hmem, hrec⟩ := hxl.find_badLanes (kind := 0) hj hfault
      have hl := (hlane j).trans (loadedLane_of_bad hmem (hxl.not_ok_of_bad hmem))
      refine ⟨(congrArg Lane.state hl).trans rfl, (congrArg Lane.pc hl).trans rfl, (congrArg Lane.regs hl).trans rfl,
        (congrArg Lane.empty hl).trans rfl, (congrArg Lane.frec hl).trans ?_⟩
      dsimp only
      rw [hrec]
      rfl
    · obtain ⟨hstate, hpc, hregs⟩ := loadedLane_goes_on (ls := okLanes r) (d := f.d) (n := regsOf f.n) hj hout
      exact ⟨(congrArg Lane.state (hlane j)).trans (hstate.trans (run_runnable ht.1 hj)), (congrArg Lane.pc (hlane j)).trans hpc,
        (congrArg Lane.regs (hlane j)).trans hregs⟩
    · have hg' := List.mem_map_of_mem (f := fun g : GLane => g.lane) hg
      have hl := (hlane g.lane).trans (loadedLane_of_run (hok _ hg') fun hb => hxl.not_ok_of_bad hb hg')
      rw [if_pos hg'] at hl
      exact (congrArg Lane.empty hl) ▸ mem_laneEmpty.2 (.inr ⟨h1, h2⟩)

/-- Settles O45: all that wait are told, and the TLB takes the leaf where the checks on it pass for one of them. -/
theorem walksComplete : Obligations.WalksComplete := by
  unfold Obligations.WalksComplete
  intro s core id w hw part r
  have hexec := exec_pageWalkComplete_eq hw
  change exec _ s = .next (walkEnd s core id w r) at hexec
  refine ⟨fun hr => by rw [hexec, hr]; rfl, fun hr => ?_⟩
  obtain ⟨hmem, hbeam, htold, hwalks⟩ := walkEnd_informs (s := s) (core := core) (id := id) (w := w) hr
  have hall := (foldl_tellWalk_informs core w.va r w.wants
    (setCore s core fun c => { c with walks := c.walks.filter fun y => y.id != id })).2
  refine ⟨_, hexec, fun a => by rw [hmem], hwalks, fun y hy hlt b hb => ?_, fun y hy hge => ?_, fun e he hs => ?_,
    walkEnd_tlb_of_unserved hr⟩
  · rw [hbeam]
    exact (hall y hy).1 hlt b hb
  · rw [htold]
    exact (hall y hy).2 hge
  · rw [he]
    exact walkEnd_tlb_of_served hs

end Sys2Proof.Certificates
end

section
/-!
PROOF of O56, by refutation. The step that a lane has reached in a body of the control store is a number without a bound in the model's state, and the least key of R88 is sought below
2^40: past it a beam with a runnable lane has an empty run. No value is then the value of the run's lanes, and CSRW writes the one that
lane 0 holds.
-/
namespace Sys2Proof.Machine

open Sys2Proof

set_option Elab.async false

/-- A supervisor's beam whose one lane stands at a step of a body beyond every key that the choice of a run reaches (R88). -/
def farBeam : Beam := { beamStart 0 0 0 with psw := 1, lanes := [{ Lane.start with min := true, mstep := 2 ^ 40 }] }

/-- The machine after reset, with that beam. -/
def farState : State := { State.reset with beams := [(0, farBeam)] }

/-- It is that beam's turn, with an empty run. -/
def farSel : Sel := ⟨0, farBeam, []⟩

theorem farState_turn : Turn farState farSel := ⟨by decide, rfl⟩

theorem farState_calm : heldBack farState farSel .dev = false := by decide

/-- CSRW takes the value of a register that every lane of the run holds; of an empty run that is every value. -/
theorem csrw_of_empty_run_takes_no_value {s : State} {x : Sel} (hrun : x.run = []) :
    ¬ ∀ v : Word, (∀ i ∈ x.run, laneReg (laneOf x.beam i) 0 = v) → ∃ t, exec (.csrw 0 0x309) s = .next t ∧
      csrGet t (selPart s x) 0x309 = rwMerge (csrGet s (selPart s x) 0x309) (csrMask 0x309) v := by
  intro h
  obtain ⟨t, ht, h0⟩ := h 0 (by simp [hrun])
  obtain ⟨u, hu, h1⟩ := h 1 (by simp [hrun])
  have htu : t = u := by
    rw [ht] at hu
    exact Host.Outcome.next.inj hu
  rw [show csrMask 0x309 = 0xFFFFFFFF by decide, rwMerge_all] at h0 h1
  rw [htu, h1] at h0
  exact absurd h0 (by decide)

end Sys2Proof.Machine

namespace Sys2Proof.Certificates

open Sys2Proof Sys2Proof.Machine

/-- Refutes O56: in `farState` the run is empty, so every value is what all its lanes hold, and CSRW of PODUE cannot write them all. -/
theorem not_systemInstructions : ¬ Obligations.SystemInstructions := by
  unfold Obligations.SystemInstructions
  intro h
  obtain ⟨-, -, -, hcsrw, -⟩ := h farState farSel farState_turn (by decide)
  refine csrw_of_empty_run_takes_no_value (s := farState) (x := farSel) rfl fun v hv => ?_
  obtain ⟨t, b, hexec, -, -, hplain, -⟩ := (hcsrw 0 0x309 v farState_calm rfl hv).1 rfl
  exact ⟨t, hexec, (hplain (by simp [PlainReg])).1⟩

end Sys2Proof.Certificates
end

section
/-!
PROOF of O9, O11, O12, O15, O16, O23 and O25. The lane operations: the instructions whose lanes read each other as effects, the zero
divisors that trap, and the indices of GXST and GXLD.
-/
namespace Sys2Proof.Machine

open Sys2Proof

set_option Elab.async false

/-! ## Cross-lane rows as effects (R130-R133) -/

/-- SHFL, REDUX and SCAN act in every lane of the run, PERM in those of its guard. -/
theorem CrossOp.issuesAs {s : State} {x : Sel} {i : Instr} {o : LaneOp} (h : CrossOp x i o) : IssuesAs s x i o := by
  cases h with
  | shfl | redux | scan => exact ⟨⟨_, rfl, rfl⟩, fun _ hj => hj, fun _ _ => rfl⟩
  | perm => exact ⟨⟨_, rfl, rfl⟩, execLanes_run x _, fun _ _ => rfl⟩

/-! ## Zero divisors (R111, R284) -/

/-- The lanes of the run whose divisor is 0: a pair or a register from r on. -/
def zeroDivisors (x : Sel) (w : Bool) (r : Nat) : List Nat :=
  x.run.filter fun j => if w then lanePair (laneOf x.beam j) r == 0 else laneReg (laneOf x.beam j) r == 0

/-- A division that has passed the full/empty checks traps where a divisor is 0. -/
theorem divide_of_zero {s : State} {x : Sel} {w : Bool} {b a : Src} {d : Nat}
    (hr : ready x x.run [srcUse a (if w then 2 else 1), srcUse b (if w then 2 else 1)] [regUse d (if w then 2 else 1)] = true)
    (hz : zeroDivisors x w b.r ≠ []) (i : Instr) (bound : Nat) (f : Lane → QWord) :
    divide i w b a d bound f x s = .trap s { trapOf x 0x14 with lanes := maskOf (zeroDivisors x w b.r) } := by
  rw [divide, gated_ready hr]
  exact if_neg (mt List.isEmpty_iff.1 hz)

/-! ## Indexed registers (R135, R291) -/

theorem badIndex_of_home {s : State} {x : Sel} {bl : Block} {ga : Gang} {gr : Grid} (hh : homeOf s x.beam = some (bl, ga, gr))
    (r : Nat) : badIndex s x r = x.run.filter fun j =>
      decide ((laneReg (laneOf x.beam j) r).toNat < 64 ∨ allot gr - gr.depth ≤ (laneReg (laneOf x.beam j) r).toNat) := by
  simp only [badIndex, hh, Bool.decide_or]

/-- GXST as a row: each lane of the run writes b to the register that a names. -/
def gxstRow (x : Sel) (b a : Src) : LaneOp :=
  ⟨4, x.run, [srcUse a 1, srcUse b 1], [], fun _ l => laneSet l (laneReg l a.r).toNat (laneReg l b.r)⟩

/-- With every index in range GXST issues its row. -/
theorem gxst_issuesAs {s : State} {x : Sel} {a : Src} (h : badIndex s x a.r = []) (b : Src) :
    IssuesAs s x (.gxst b a) (gxstRow x b a) := by
  refine ⟨⟨effGxst b a, rfl, ?_⟩, fun _ hj => hj, fun _ _ => rfl⟩
  rw [effGxst, h]
  rfl

theorem effGxst_of_bad {s : State} {x : Sel} {b a : Src} (hr : ready x x.run [srcUse a 1, srcUse b 1] [] = true)
    (h : badIndex s x a.r ≠ []) : effGxst b a x s = .trap s (indexTrap x a.r (badIndex s x a.r)) := by
  rw [effGxst, gated_ready hr]
  exact if_neg (mt List.isEmpty_iff.1 h)

theorem effGxld_of_bad {s : State} {x : Sel} {a : Src} {d : Nat} (hr : ready x x.run [srcUse a 1] [regUse d 1] = true)
    (h : badIndex s x a.r ≠ []) : effGxld a d x s = .trap s (indexTrap x a.r (badIndex s x a.r)) := by
  rw [effGxld, gated_ready hr]
  exact if_neg (mt List.isEmpty_iff.1 h)

end Sys2Proof.Machine

namespace Sys2Proof.Certificates

open Sys2Proof Sys2Proof.Machine

/-- Settles O9: each row issues its effect. -/
theorem movesAndSelect : Obligations.MovesAndSelect := by
  unfold Obligations.MovesAndSelect
  intro s x i o ho ht hr
  exact ho.issuesAs.exec ht hr

/-- Settles O11: each row issues its effect, the rotation and the absolute values as their equations give them. -/
theorem logicShiftsAndBits : Obligations.LogicShiftsAndBits := by
  unfold Obligations.LogicShiftsAndBits
  intro s x i o ho ht hr
  exact ho.issuesAs.exec ht hr

/-- Settles O12: each row issues its effect, whose condition compares as `intCond_asInt` gives it. -/
theorem integerCompares : Obligations.IntegerCompares := by
  unfold Obligations.IntegerCompares
  intro s x i o ho ht hr
  exact ho.issuesAs.exec ht hr

/-- Settles O15: each row issues its effect, the votes in every lane of the run. -/
theorem predicatesAndVotes : Obligations.PredicatesAndVotes := by
  unfold Obligations.PredicatesAndVotes
  intro s x i o ho ht hr
  exact ho.issuesAs.exec ht hr

/-- Settles O16: each row issues its effect, whose lanes read the beam as it was selected. -/
theorem crossLane : Obligations.CrossLane := by
  unfold Obligations.CrossLane
  intro s x i o ho ht hr
  exact ho.issuesAs.exec ht hr

/-- Settles O23: IDIV and IREM are both `divide`, which traps before it starts a producer. -/
theorem divisionByZeroTraps : Obligations.DivisionByZeroTraps := by
  unfold Obligations.DivisionByZeroTraps
  rintro s x w u b a d i (rfl | rfl) ht n zero hr hz
  · exact exec_trap ht (e := effIdiv w u b a d) rfl (divide_of_zero hr hz _ _ _)
  · exact exec_trap ht (e := effIrem w u b a d) rfl (divide_of_zero hr hz _ _ _)

/-- Settles O25: behind the full/empty checks GXST issues its row, or GXST and GXLD trap where an index is bad. -/
theorem indexedStores : Obligations.IndexedStores := by
  unfold Obligations.IndexedStores
  intro s x bl ga gr ht hh b a d bad t
  have hbad : badIndex s x a.r = bad := badIndex_of_home hh a.r
  have htrap : indexTrap x a.r (badIndex s x a.r) = t := by rw [hbad]; rfl
  refine ⟨fun hr => ⟨fun hnil => ?_, fun hne => ?_⟩, fun hr hne => ?_⟩
  · exact (gxst_issuesAs (hbad.trans hnil) b).exec ht hr
  · exact exec_trap ht rfl (htrap ▸ effGxst_of_bad hr (hbad ▸ hne))
  · exact exec_trap ht rfl (htrap ▸ effGxld_of_bad hr (hbad ▸ hne))

end Sys2Proof.Certificates
end

section
/-!
PROOF of O40 and O42. Buffered writes: what WRITE_PERFORMED makes of the one it names, how an STL enters the beam's buffer, and which
bytes its lanes write.
-/
namespace Sys2Proof.Machine

open Sys2Proof

set_option Elab.async false

/-! ## Performing a buffered write (R152, R159, R161, R165) -/

/-- A write that cannot travel stays in the buffer (R321). -/
theorem performStore_shut {s : State} {k : Nat} {y : Store} (h : storeOpen s (k / 64) y = false) : performStore s k y = s := by
  rw [performStore, h]
  rfl

/-- A beam once a buffered write has been performed, some of whose lanes may have been answered with an error. -/
def storedBeam (b : Beam) (clk : Nat) (y : Store) (bad : List (Nat × Nat)) : Beam :=
  let c := { b with stores := b.stores.filter fun z => z.id != y.id }
  if bad = [] then c else { c with waiting := insertTrap clk (uncorrectable y.run y.epc y.mstep bad) b.waiting }

theorem storedBeam_stores (b : Beam) (clk : Nat) (y : Store) (bad : List (Nat × Nat)) :
    (storedBeam b clk y bad).stores = b.stores.filter fun z => z.id != y.id := by
  unfold storedBeam
  dsimp only
  split <;> rfl

theorem performStore_open {s : State} {k : Nat} {b : Beam} {y : Store} (hb : beamOf s k = some b) (ho : storeOpen s (k / 64) y = true) :
    performStore s k y =
      let r := y.pieces.foldl (performPiece (k / 64) y) (s, [])
      setBeam r.1 k (storedBeam b s.clk y r.2) := by
  have hm := performPieces_only (k / 64) y y.pieces (s, [])
  rw [performStore, ho]
  generalize y.pieces.foldl (performPiece (k / 64) y) (s, []) = r at hm ⊢
  have hb1 : beamOf r.1 k = some b := by rw [← hb, beamOf, hm.beams]; rfl
  simp only [Bool.not_true, Bool.false_eq_true, if_false, onBeam_some hb1, queueTrap, List.isEmpty_iff, onBeam_setBeam, setBeam_clk,
    hm.clk, storedBeam]
  split <;> rfl

/-! ## WRITE_PERFORMED -/

/-- A beam's buffer holds no write of a number, once those of that number have been taken out. -/
theorem any_filter_bne (l : List Store) (id : Nat) : ((l.filter fun z => z.id != id).any fun z => z.id == id) = false := by
  rw [List.any_eq_false]
  intro z hz
  simpa using (List.mem_filter.1 hz).2

section WritePerformed

variable {s : State} {core n id : Nat} {b : Beam} {y : Store}

/-- The one buffered write of a number. -/
theorem mem_of_filter_id (h : (b.stores.filter fun z => z.id == id) = [y]) : y ∈ b.stores ∧ y.id = id := by
  obtain ⟨hmem, hid⟩ := List.mem_filter.1 (h ▸ List.mem_singleton_self y)
  exact ⟨hmem, beq_iff_eq.1 hid⟩

/-- The event comes to the buffered writes of its number, and comes again while one of them is there. -/
theorem exec_writePerformed (hb : beamOf s (64 * core + n) = some b) : exec (.writePerformed core n id) s =
    let u := (b.stores.filter fun z => z.id == id).foldl (fun s y => performStore s (64 * core + n) y) s
    .next (if ((beamOf u (64 * core + n)).map fun b => b.stores.any fun z => z.id == id).getD false
      then post u 40 (.writePerformed core n id) else u) := by
  show execWritePerformed core n id s = _
  simp only [execWritePerformed, drainWhere, hb]

theorem exec_writePerformed_gone (hb : beamOf s (64 * core + n) = some b) (h : (b.stores.filter fun z => z.id == id) = []) :
    exec (.writePerformed core n id) s = .next s := by
  have hany : (b.stores.any fun z => z.id == id) = false := by
    rw [List.any_eq_false]
    exact List.filter_eq_nil_iff.1 h
  simp only [exec_writePerformed hb, h, List.foldl_nil, hb, Option.map_some, Option.getD_some, hany, Bool.false_eq_true, if_false]

theorem exec_writePerformed_shut (hn : n < 64) (hb : beamOf s (64 * core + n) = some b)
    (h : (b.stores.filter fun z => z.id == id) = [y]) (ho : storeOpen s core y = false) :
    exec (.writePerformed core n id) s = .next (post s 40 (.writePerformed core n id)) := by
  have hcore : (64 * core + n) / 64 = core := by omega
  obtain ⟨hmem, hid⟩ := mem_of_filter_id h
  have hany : (b.stores.any fun z => z.id == id) = true := List.any_eq_true.2 ⟨y, hmem, beq_iff_eq.2 hid⟩
  have hshut : performStore s (64 * core + n) y = s := performStore_shut (hcore.symm ▸ ho)
  simp only [exec_writePerformed hb, h, List.foldl_cons, List.foldl_nil, hshut, hb, Option.map_some, Option.getD_some, hany, if_true]

theorem exec_writePerformed_open (hn : n < 64) (hb : beamOf s (64 * core + n) = some b)
    (h : (b.stores.filter fun z => z.id == id) = [y]) (ho : storeOpen s core y = true) :
    exec (.writePerformed core n id) s =
      let r := y.pieces.foldl (performPiece core y) (s, [])
      .next (setBeam r.1 (64 * core + n) (storedBeam b s.clk y r.2)) := by
  have hcore : (64 * core + n) / 64 = core := by omega
  obtain ⟨-, hid⟩ := mem_of_filter_id h
  have hopen := performStore_open hb (hcore.symm ▸ ho)
  rw [hcore] at hopen
  simp only [exec_writePerformed hb, h, List.foldl_cons, List.foldl_nil, hopen, beamOf_setBeam_same, Option.map_some, Option.getD_some,
    storedBeam_stores, hid, any_filter_bne, Bool.false_eq_true, if_false]

end WritePerformed

/-! ## The lanes of a write, by its kind (R159) -/

section Pieces

variable {core : Nat} {y : Store}

/-- The lanes of a ST, each by the path of its page and scope. -/
theorem performPieces_plain (hk : y.kind = .plain) (bad : List (Nat × Nat)) : ∀ (ps : List Piece) (s : State),
    ps.foldl (performPiece core y) (s, bad) = (ps.foldl (fun s p => storePath s core p.target y.scope p.bytes) s, bad)
  | [], _ => rfl
  | p :: ps, s => by
    rw [List.foldl_cons, List.foldl_cons, ← performPieces_plain hk bad ps, performPiece, hk]

/-- The lanes of an STL, each into local memory. -/
theorem performPieces_local (hk : y.kind = .loc) (bad : List (Nat × Nat)) : ∀ (ps : List Piece) (s : State),
    ps.foldl (performPiece core y) (s, bad) =
      ({ s with mem := ps.foldl (fun m p => memPut m (localBase 0 + p.target) p.bytes) s.mem }, bad)
  | [], _ => rfl
  | p :: ps, s => by
    have hp : performPiece core y (s, bad) p = ({ s with mem := memPut s.mem (localBase 0 + p.target) p.bytes }, bad) := by
      rw [performPiece, hk]
      rfl
    rw [List.foldl_cons, List.foldl_cons, hp, performPieces_local hk bad ps]

/-- The one lane of a RED. -/
theorem performPieces_red {s : State} {o : AtomOp} {q : QF} {p : Piece} (hk : y.kind = .red o q) :
    [p].foldl (performPiece core y) (s, []) = ((redPiece s core o q p).1, (redPiece s core o q p).2.toList) := by
  rw [List.foldl_cons, List.foldl_nil, performPiece, hk]
  rfl

end Pieces

/-! ## Local memory (R138) -/

/-- Writes to ranges that a place lies outside of leave it as it was. -/
theorem memGet_foldl_memPut {α : Type} (at_ : α → Nat) (l : α → List Byte) {k : Nat} : ∀ (js : List α) (m : List Host.Cell),
    (∀ j ∈ js, k < at_ j ∨ at_ j + (l j).length ≤ k) → memGet (js.foldl (fun m j => memPut m (at_ j) (l j)) m) k = memGet m k
  | [], _, _ => rfl
  | j :: js, m, h => by
    have hj := h j List.mem_cons_self
    rw [List.foldl_cons, memGet_foldl_memPut at_ l js _ fun i hi => h i (List.mem_cons_of_mem j hi), memGet_memPut, if_neg (by omega)]

/-- A local access whose every lane is aligned, resolves and meets no lock acts on the places. -/
theorem accessLocal_resolved {s : State} {x : Sel} {n : Nat} {write : Bool} {lanes : List ALane} {pl : Nat → Nat} {bl : Block}
    {ga : Gang} {gr : Grid} (hh : homeOf s x.beam = some (bl, ga, gr))
    (hl : ∀ a ∈ lanes, a.ea.toNat % n = 0 ∧ localPlace s bl ga gr a.ea.toNat n = some (pl a.lane) ∧
      lockHit s (pl a.lane / 4194304) true (pl a.lane) n write = none) (act : State → List LLane → State) :
    accessLocal x s n write lanes act = .done (act s (lanes.map fun a => ⟨a.lane, a.ea.setWidth 32, pl a.lane, a.data⟩)) [] := by
  have haligned : lanes.find? (fun a => a.ea.toNat % n != 0) = none :=
    List.find?_eq_none.2 fun a ha => by simp [(hl a ha).1]
  have hplaces : (lanes.map fun a => (a, localPlace s bl ga gr a.ea.toNat n)) = lanes.map fun a => (a, some (pl a.lane)) :=
    List.map_congr_left fun a ha => by rw [(hl a ha).2.1]
  have hresolved : (lanes.map fun a => (a, some (pl a.lane))).find? (fun p => p.2.isNone) = none :=
    List.find?_eq_none.2 fun p hp => by obtain ⟨a, -, rfl⟩ := List.mem_map.1 hp; exact Bool.false_ne_true
  have hlock : firstSome (fun l : LLane => (lockHit s (l.target / 4194304) true l.target n write).map fun k => (l, k))
      (lanes.map fun a => ⟨a.lane, a.ea.setWidth 32, pl a.lane, a.data⟩) = none :=
    firstSome_none fun l hl' => by obtain ⟨a, ha, rfl⟩ := List.mem_map.1 hl'; simp only [(hl a ha).2.2, Option.map_none]
  simp only [accessLocal, haligned, hh, hplaces, hresolved, List.map_map, Function.comp_def, Option.getD_some, hlock]

/-! ## STL (R156, R157, R160) -/

/-- The write that an issue of a beam buffers. -/
def bufferedStore (x : Sel) (id : Nat) (kind : StoreKind) (sc : Scope) (pieces : List Piece) : Store :=
  ⟨id, kind, sc, selPc x, macroStepOf x, maskOf x.run, pieces⟩

/-- A beam once a write has entered its buffer. -/
def bufferedBeam (x : Sel) (c : Beam) (kind : StoreKind) (sc : Scope) (pieces : List Piece) : Beam :=
  { c with nextId := c.nextId + 1, stores := c.stores ++ [bufferedStore x c.nextId kind sc pieces] }

/-- A write that is not performed as it is buffered. -/
theorem bufferStore_later {s : State} {x : Sel} {c : Beam} (hc : beamOf s x.key = some c) (kind : StoreKind) (sc : Scope)
    (pieces : List Piece) : bufferStore x s kind sc false pieces =
      postFree (setBeam s x.key (bufferedBeam x c kind sc pieces)) 0 (.writePerformed (x.key / 64) (x.key % 64) c.nextId) := by
  simp only [bufferStore, hc, onBeam_some hc, Option.map_some, Option.getD_some]
  rfl

/-- An effect that leaves the lanes of the beam alone ends with the run's advance. -/
theorem exec_of_kept_lanes {s u : State} {x : Sel} {i : Instr} {e : Effect} {c : Beam} (ht : Turn s x) (hi : exec i s = issue 4 e s)
    (he : e x s = .done u []) (hc : beamOf u x.key = some c) (hl : c.lanes = x.beam.lanes) :
    ∃ t b, exec i s = .next t ∧ beamOf t x.key = some b ∧ Advanced x b ∧ b.stores = c.stores ∧ t.agenda = u.agenda ∧
      SameOutside u t x.key := by
  have hrunnable : lanesIn c .runnable ≠ [] := by
    rw [lanesIn, hl]
    exact selected_runnable ht.1
  obtain ⟨hb, hout, hag⟩ := finish_done 4 hc hrunnable
  exact ⟨_, _, by rw [hi, issue_selected ht.1, he], hb, advanced_finished ht hl, rfl, hag, hout⟩

theorem LocalStoreForm.exec {x : Sel} {i : Instr} {f : MemForm} (h : LocalStoreForm x i f) :
    ∃ g, f.lanes = execLanes x g ∧ ∀ s, exec i s = issue 4 (effStl g f.n f.off f.a f.d) s := by
  cases h with
  | stl32 g => exact ⟨g, rfl, fun _ => rfl⟩
  | stlSized => exact ⟨.always, rfl, fun _ => rfl⟩

/-- The bytes that the lanes of an STL write, and where. -/
def placedPieces (f : MemForm) (x : Sel) (pl : Nat → Nat) : List Piece :=
  f.lanes.map fun j => ⟨j, pl j, bytesLE f.n (f.data (regsOf f.n) x j).toNat⟩

/-- An access of n bytes captures at least one register (R28). -/
theorem data_regsOf (f : MemForm) (n : Nat) (x : Sel) (j : Nat) : f.data (regsOf n) x j = dataOf f.d (regsOf n) (laneOf x.beam j) := by
  obtain ⟨m, hm⟩ : ∃ m, regsOf n = m + 1 := ⟨regsOf n - 1, by have : 1 ≤ regsOf n := Nat.le_max_left 1 (n / 4); omega⟩
  rw [hm]
  rfl

/-- An STL whose every lane is aligned, resolves and meets no lock first performs what touches its bytes, then enters the buffer. -/
theorem effStl_placed {s : State} {x : Sel} {g : Guard} {f : MemForm} {bl : Block} {ga : Gang} {gr : Grid} {pl : Nat → Nat}
    (hlanes : f.lanes = execLanes x g) (hr : ready x f.lanes [srcUse f.a 1, regUse f.d (regsOf f.n)] [] = true)
    (hh : homeOf s x.beam = some (bl, ga, gr))
    (hl : ∀ j ∈ f.lanes, (f.la x j).toNat % f.n = 0 ∧ localPlace s bl ga gr (f.la x j).toNat f.n = some (pl j) ∧
      lockHit s (pl j / 4194304) true (pl j) f.n true = none) :
    effStl g f.n f.off f.a f.d x s = .done (if f.lanes = [] then s else
      bufferStore x (beforeAccess s x.key (placedSpans f pl)) .loc .bm false (placedPieces f x pl)) [] := by
  have hea : ∀ j, (localEa f.a f.off (laneOf x.beam j)).toNat = (f.la x j).toNat := fun j => by
    rw [localEa, MemForm.la, BitVec.toNat_setWidth_of_le (by decide)]
  simp only [effStl, ← hlanes]
  rw [gated_ready hr, accessLocal_resolved (pl := pl) hh fun a ha => by
    obtain ⟨j, hj, rfl⟩ := List.mem_map.1 ha
    simpa only [hea] using hl j hj]
  simp only [accessLanes, placedPieces, data_regsOf, List.isEmpty_iff, List.map_eq_nil_iff, List.map_map]
  rfl

end Sys2Proof.Machine

namespace Sys2Proof.Certificates

open Sys2Proof Sys2Proof.Machine

/-- Settles O40: the one write of that number is performed where it can travel and leaves the buffer, its lanes folded in order. -/
theorem storesPerform : Obligations.StoresPerform := by
  unfold Obligations.StoresPerform
  intro s core n id b hn hb
  refine ⟨exec_writePerformed_gone hb, fun y hy => ?_⟩
  obtain ⟨-, hid⟩ := mem_of_filter_id hy
  refine ⟨exec_writePerformed_shut hn hb hy, fun ho => ?_, fun hk => performPieces_plain hk [] _ s,
    fun hk => performPieces_local hk [] _ s, fun o q hk => ⟨fun p rest hp => ?_, fun p hp => ?_⟩⟩
  · rw [exec_writePerformed_open hn hb hy ho, ← hid]
    rfl
  · rw [hp]
    rfl
  · rw [hp, performPieces_red hk, redPiece]
    generalize atomPath s core p.target p.bytes.length q _ = r
    obtain ⟨_ | v, u⟩ := r
    · refine ⟨fun h1 => ?_, fun h1 h2 => ?_⟩
      · simp only [h1, if_true, Option.toList_some]
      · simp only [h1, h2, if_false, Option.toList_none]
    · rfl

/-- Settles O42: past its checks the store performs what touches its bytes and enters the buffer; performed, each lane writes its own
range. -/
theorem localStoresWrite : Obligations.LocalStoresWrite := by
  unfold Obligations.LocalStoresWrite
  intro s x i f bl ga gr pl hf ht hh hr hl
  obtain ⟨g, hlanes, hi⟩ := hf.exec
  have he := effStl_placed hlanes hr hh hl
  have hperformed : ∀ u c, beamOf u x.key = some c → c.stores = [bufferedStore x x.beam.nextId .loc .bm (placedPieces f x pl)] →
      ∃ v, exec (.writePerformed (x.key / 64) (x.key % 64) x.beam.nextId) u = .next v ∧
        v.mem = f.lanes.foldl (fun m j => memPut m (localBase 0 + pl j) (bytesLE f.n (f.data (regsOf f.n) x j).toNat)) u.mem ∧
        (∀ a, (∀ j ∈ f.lanes, a < localBase 0 + pl j ∨ localBase 0 + pl j + f.n ≤ a) → memGet v.mem a = memGet u.mem a) ∧
        SameOutside u { v with mem := u.mem } x.key := by
    intro u c hc hstores
    have hkey : 64 * (x.key / 64) + x.key % 64 = x.key := Nat.div_add_mod x.key 64
    have hexec := exec_writePerformed_open (id := x.beam.nextId) (Nat.mod_lt x.key (by decide)) (hkey.symm ▸ hc)
      (by rw [hstores]; exact List.filter_cons_of_pos (beq_self_eq_true _)) rfl
    rw [hkey, performPieces_local rfl] at hexec
    have hmem := List.foldl_map (f := fun j => (⟨j, pl j, bytesLE f.n (f.data (regsOf f.n) x j).toNat⟩ : Piece))
      (g := fun m p => memPut m (localBase 0 + p.target) p.bytes) (l := f.lanes) (init := u.mem)
    refine ⟨_, hexec, hmem, fun a ha => ?_, setBeam_sameOutside u x.key _⟩
    refine (congrArg (memGet · a) hmem).trans (memGet_foldl_memPut _ _ f.lanes u.mem fun j hj => ?_)
    rw [Laws.Encode.bytesLE_length]
    exact ha j hj
  by_cases hnil : f.lanes = []
  · rw [if_pos hnil] at he
    obtain ⟨t, b, hexec, hb, hadv, -, -, hout⟩ := exec_of_kept_lanes ht (hi s) he ht.2 rfl
    exact ⟨t, b, hexec, hb, hadv, fun h => absurd hnil h, fun _ => hout, hperformed⟩
  rw [if_neg hnil] at he
  obtain ⟨c, hc, hcb, -⟩ := (beforeAccess_performs s x.key (placedSpans f pl)).beam _ ht.2
  have hclk := (beforeAccess_performs s x.key (placedSpans f pl)).clk
  have hid : c.nextId = x.beam.nextId := by rw [hcb]
  have hcl : c.lanes = x.beam.lanes := by rw [hcb]
  rw [bufferStore_later hc] at he
  obtain ⟨t, b, hexec, hb, hadv, hstores, hag, hout⟩ := exec_of_kept_lanes ht (hi s) he (beamOf_setBeam_same _ _ _) hcl
  refine ⟨t, b, hexec, hb, hadv, fun _ => ⟨?_, ?_⟩, fun hun => ?_, hperformed⟩
  · rw [hstores, ← hid]
    exact List.mem_append_right _ (List.mem_singleton_self _)
  · rw [hag, ← hid, ← hclk]
    exact mem_agenda_postFree (setBeam (beforeAccess s x.key (placedSpans f pl)) x.key _) 0 _
  · rw [show beforeAccess s x.key (placedSpans f pl) = s from beforeAccess_untouched ht.2 hun] at hout
    exact SameOutside.trans (setBeam_sameOutside s x.key _) (SameOutside.trans (postFree_sameOutside _ _ _ _) hout)

end Sys2Proof.Certificates
end

section
/-!
PROOF of O54, by refutation. Nothing in the model's state bounds the step that a lane has reached in a body of the control store, nor the
lanes of a beam to the 32 that R260's check looks at. A runnable lane behind them, past every key that the choice of a run reaches (R88),
leaves its beam with an empty run that the check passes. No word is then the one that the run's lanes hold, and SYNPUT sends that of
lane 0.
-/
namespace Sys2Proof.Machine

open Sys2Proof

set_option Elab.async false

/-- SYNPUT that has passed its checks, its release done, sends the word of the run's least lane and posts nothing else (R262). -/
theorem exec_synput_sends {s : State} {x : Sel} {a : Src} (hw : Nat) (ht : Turn s x) (hc : helioCheck x s none = none)
    (hr : ready x x.run [srcUse a 1] [] = true)
    (hall : ∀ i ∈ x.run, laneReg (laneOf x.beam i) a.r = laneReg (laneOf x.beam (leastD 0 x.run)) a.r)
    (hcalm : heldBack s x .dev = false) : ∃ t, exec (.synput a hw) s = .next t ∧ t.agenda =
      s.agenda ++ [⟨s.clk + 40, .hgBroadcastDelivery (selCore x) hw (laneReg (laneOf x.beam (leastD 0 x.run)) a.r)⟩] := by
  have hp := releaseAt_performs s x.key .dev
  obtain ⟨c, hbeam, hcb, -⟩ := hp.beam _ ht.2
  have hsame : (x.run.all fun i => laneReg (laneOf x.beam i) a.r == laneReg (laneOf x.beam (leastD 0 x.run)) a.r) = true :=
    List.all_eq_true.2 fun i hi => beq_iff_eq.2 (hall i hi)
  have he : effSynput a hw x s = .done (post (releaseAt s x.key .dev) 40
      (.hgBroadcastDelivery (selCore x) hw (laneReg (laneOf x.beam (leastD 0 x.run)) a.r))) [] := by
    simp only [effSynput, hc, gated_ready hr, hsame, if_true, released_of_calm hcalm]
    rfl
  obtain ⟨t, -, hexec, -, -, -, hag, -⟩ := exec_of_kept_lanes ht (i := .synput a hw) rfl he hbeam (by rw [hcb])
  exact ⟨t, hexec, by rw [hag, post_agenda, hp.agenda, hp.clk]⟩

/-- A beam whose first 32 lanes have exited, with the lane of `farBeam` behind them. -/
def strayBeam : Beam := { farBeam with lanes := List.replicate 32 { Lane.start with state := .exited } ++ farBeam.lanes }

/-- The machine after reset, with that beam. -/
def strayState : State := { State.reset with beams := [(0, strayBeam)] }

/-- It is that beam's turn, with an empty run. -/
def straySel : Sel := ⟨0, strayBeam, []⟩

theorem strayState_turn : Turn strayState straySel := ⟨by decide, rfl⟩

theorem strayState_passes : helioCheck straySel strayState none = none := by decide

theorem strayState_calm : heldBack strayState straySel .dev = false := by decide

end Sys2Proof.Machine

namespace Sys2Proof.Certificates

open Sys2Proof Sys2Proof.Machine

/-- Refutes O54: in `strayState` the run is empty, so 1 too is what all its lanes hold in register 0, and SYNPUT sends lane 0's 0. -/
theorem not_heliographArrivals : ¬ Obligations.HeliographArrivals := by
  unfold Obligations.HeliographArrivals
  intro h
  obtain ⟨-, -, -, hclear⟩ := (h strayState).1 straySel strayState_turn
  obtain ⟨hput, -⟩ := hclear strayState_passes
  obtain ⟨t, -, hexec, -, -, hmem⟩ := (hput ⟨0, false⟩ 0 1 rfl fun _ hi => absurd hi List.not_mem_nil).2 strayState_calm
  obtain ⟨u, hexec', hag⟩ := exec_synput_sends (a := ⟨0, false⟩) 0 strayState_turn strayState_passes rfl
    (fun _ hi => absurd hi List.not_mem_nil) strayState_calm
  rw [hexec] at hexec'
  cases hexec'
  rw [hag] at hmem
  exact absurd hmem (by decide)

end Sys2Proof.Certificates
end

section
/-!
PROOF of O37, O38, O39 and O43. Stores, reductions, fences, prefetches and flushes that issue: the checks of a global write, what becomes
of its lanes, and what a release, a prefetch and a flush leave of the beam and of the caches.
-/
namespace Sys2Proof.Machine

open Sys2Proof

set_option Elab.async false

/-! ## Writes of control registers leave the beams alone (R298, R316-R323) -/

/-- The state t has the beams of s. -/
structure KeepsBeams (s t : State) : Prop where
  beams : t.beams = s.beams

namespace KeepsBeams

variable {s t u : State}

theorem refl (s : State) : KeepsBeams s s := ⟨rfl⟩

/-- What starts in a state with the same beams. -/
theorem after (h : KeepsBeams t u) (g : t.beams = s.beams) : KeepsBeams s u := ⟨h.beams.trans g⟩

theorem ite {c : Prop} [Decidable c] (ht : KeepsBeams s t) (hu : KeepsBeams s u) : KeepsBeams s (if c then t else u) := by
  split
  · exact ht
  · exact hu

theorem fold {α : Type} {f : State → α → State} {l : List α} (ht : KeepsBeams s t) (hf : ∀ s a, KeepsBeams s (f s a)) :
    KeepsBeams s (l.foldl f t) := by
  induction l generalizing t with
  | nil => exact ht
  | cons a l ih => exact ih ((hf t a).after ht.beams)

end KeepsBeams

section Registers

variable (s : State)

theorem shipBin_beams (k : Nat) : KeepsBeams s (shipBin s k) := .ite ⟨rfl⟩ (.ite ⟨rfl⟩ (.fold ⟨rfl⟩ fun _ _ => ⟨rfl⟩))

theorem writeBinage_beams (part : Nat) (v : Word) : KeepsBeams s (writeBinage s part v) :=
  .ite ⟨rfl⟩ (.fold ⟨rfl⟩ fun _ _ => .ite ⟨rfl⟩ ⟨rfl⟩)

theorem csrClear_beams (part n k : Nat) : KeepsBeams s (csrClear s part n k) := .fold ⟨rfl⟩ fun _ _ => ⟨rfl⟩

theorem nudge_beams : KeepsBeams s (nudge s) := .fold ⟨rfl⟩ fun _ _ => .ite ⟨rfl⟩ ⟨rfl⟩

theorem writePartcfg_beams (v : Word) (grid : Option Nat) : KeepsBeams s (writePartcfg s v grid) := .ite ⟨rfl⟩ (.ite ⟨rfl⟩ ⟨rfl⟩)

theorem writePartctl_beams (v : Word) : KeepsBeams s (writePartctl s v) := by
  unfold writePartctl
  extract_lets old busy req ack start s1 s2
  have h2 : KeepsBeams s s2 := .fold ⟨rfl⟩ fun _ _ => .ite ⟨rfl⟩ ⟨rfl⟩
  exact .ite ⟨h2.beams⟩ h2

theorem writeMilv_beams (part n : Nat) (v : Word) : KeepsBeams s (writeMilv s part n v) := by
  unfold writeMilv
  refine .ite ⟨rfl⟩ ?_
  extract_lets +onlyGivenNames s1
  refine .ite ⟨rfl⟩ ?_
  extract_lets s2
  have h2 : KeepsBeams s s2 := .fold ⟨rfl⟩ fun _ _ => ⟨rfl⟩
  exact ⟨h2.beams⟩

theorem writeNbnd_beams (v : Word) : KeepsBeams s (writeNbnd s v) :=
  .ite ⟨rfl⟩ (.fold ⟨rfl⟩ fun s _ => .ite (shipBin_beams s _) ⟨rfl⟩)

theorem writeQctl_beams (v : Word) : KeepsBeams s (writeQctl s v) := .ite ⟨rfl⟩ ⟨rfl⟩

theorem writeHmask_beams (n : Nat) (v : Word) : KeepsBeams s (writeHmask s n v) := .ite ⟨rfl⟩ ⟨rfl⟩

theorem writeFq_beams (k j : Nat) (v : Word) : KeepsBeams s (writeFq s k j v) := .ite (.ite ⟨rfl⟩ ⟨rfl⟩) (.ite ⟨rfl⟩ ⟨rfl⟩)

theorem pump_beams (q : Nat) : KeepsBeams s (pump s q) := ⟨(pump_queueStep s q).beams⟩

theorem writeLq_beams (q k : Nat) (v : Word) : KeepsBeams s (writeLq s q k v) := by
  unfold writeLq
  split
  · exact .ite ⟨rfl⟩ ⟨rfl⟩
  · exact .ite ⟨rfl⟩ ⟨rfl⟩
  · exact .ite ⟨rfl⟩ ⟨rfl⟩
  · exact .ite ⟨rfl⟩ (.ite ⟨rfl⟩ ((pump_beams _ q).after rfl))
  · exact .ite ((pump_beams _ q).after rfl) ⟨rfl⟩
  · exact .refl s

theorem csrWrite_beams (part n : Nat) (v : Word) (grid : Option Nat) : KeepsBeams s (csrWrite s part n v grid) :=
  .ite (writeBinage_beams s part v) <|
  .ite (.ite ⟨rfl⟩ ⟨rfl⟩) <|
  .ite (.ite (csrClear_beams s part _ _) ⟨rfl⟩) <|
  .ite (.ite ⟨rfl⟩ ⟨rfl⟩) <|
  .ite ((nudge_beams (csrPlain s part n v)).after rfl) <|
  .ite (.ite (csrClear_beams s part _ _) ⟨rfl⟩) <|
  .ite (writePartcfg_beams s v grid) <|
  .ite (writePartctl_beams s v) <|
  .ite (writeMilv_beams s part n v) <|
  .ite (writeNbnd_beams s v) <|
  .ite (writeQctl_beams s v) <|
  .ite (.fold ⟨rfl⟩ fun _ _ => ⟨rfl⟩) <|
  .ite (writeHmask_beams s n v) <|
  .ite (writeFq_beams s _ _ v) <|
  .ite (writeLq_beams s _ _ v) ⟨rfl⟩

theorem beamWritesCsr_beams (k n : Nat) (v : Word) : KeepsBeams s (beamWritesCsr s k n v) := by
  unfold beamWritesCsr
  refine .ite ?_ (.ite ⟨rfl⟩ (csrWrite_beams s _ n v _))
  split
  · exact .ite ⟨rfl⟩ ⟨rfl⟩
  · exact .refl s

/-- A store that takes effect at once, on a register or on memory, changes no beam (R162, R315). -/
theorem storeNow_beams (k : Nat) (sc : Scope) (n : Nat) (g : GLane) : KeepsBeams s (storeNow s k sc n g) :=
  .ite (beamWritesCsr_beams s k _ _) ⟨(storePath_only s _ _ sc _).beams⟩

/-- Nor do the lanes of such a store together, and its stamp. -/
theorem storesNow_beams (k n core : Nat) (q : QF) (ls : List GLane) (ts : List Nat) :
    KeepsBeams s (stampIf (ls.foldl (fun s g => storeNow s k q.scope n g) s) core q false ts) := by
  have hstored : KeepsBeams s (ls.foldl (fun s g => storeNow s k q.scope n g) s) := .fold (.refl s) fun s g => storeNow_beams s k _ n g
  exact KeepsBeams.after ⟨(stampIf_keeps _ core q false ts).1⟩ hstored.beams

end Registers

/-! ## What a release leaves of the beam (R162, R169) -/

theorem releases_ne_relaxed {o : Order} (h : releases o = true) : (o == .relaxed) = false := by
  cases o with
  | relaxed => cases h
  | acq | rel | acqrel | sc => rfl

/-- An order that does not release is not .sc, and stamps nothing (R279). -/
theorem stampIf_of_not_releases {q : QF} (h : releases q.order = false) (s : State) (core : Nat) (atom : Bool) (ts : List Nat) :
    stampIf s core q atom ts = s := by
  unfold stampIf
  cases ho : q.order with
  | sc => rw [ho] at h; cases h
  | relaxed | acq | rel | acqrel => rfl

/-- An access that releases and can travel has nothing to wait for once the beam's earlier accesses have been performed. -/
theorem syncShut_of_syncReady {s : State} {k : Nat} {op : GOp} {ls : List GLane} (h : syncReady s k op ls = true)
    (hrel : releases op.order = true) : syncShut (performAll s k) k op.scope = false := by
  simp only [syncReady, releases_ne_relaxed hrel, Bool.false_or, Bool.and_eq_true, Bool.not_eq_true'] at h
  exact h.1.1.1

/-- Once a release can go, none of the beam's accesses is still to be performed. -/
theorem releaseAt_pend {s : State} {k : Nat} {sc : Scope} {b : Beam} (h : syncShut (performAll s k) k sc = false)
    (hb : beamOf (releaseAt s k sc) k = some b) : ∀ p ∈ b.pend, isAccess p.kind = false := by
  have hb' : beamOf (performAll s k) k = some b := by rw [← hb, beamOf, beamOf, releaseAt, (releaseCaches_only _ _ sc).beams]
  rw [syncShut, Bool.or_eq_false_iff, owes, hb'] at h
  simpa using (Bool.or_eq_false_iff.1 h.1).2

/-- What is performed behind a release that can go finds the beam's buffer empty. -/
theorem stores_nil_of_release {s u : State} {k : Nat} {sc : Scope} {b c : Beam} (hb : beamOf s k = some b)
    (hshut : syncShut (performAll s k) k sc = false) (hp : Performs k (releaseAt s k sc) u) (hc : beamOf u k = some c) :
    c.stores = [] := by
  obtain ⟨d, hd, -, -⟩ := (releaseAt_performs s k sc).beam b hb
  obtain ⟨e, he, -, hsub⟩ := hp.beam d hd
  rw [hc] at he
  cases he
  rw [releaseAt_stores hshut hd] at hsub
  exact List.eq_nil_iff_forall_not_mem.2 fun y hy => List.not_mem_nil (hsub y hy)

/-- Where no access of the beam is unfinished there is nothing to perform. -/
theorem performWhere_of_finished {s : State} {k : Nat} {b : Beam} (hb : beamOf s k = some b)
    (h : ∀ p ∈ b.pend, isAccess p.kind = false) (f : Pend → Bool) : performWhere s k f = s := by
  have hfold : ∀ l : List Pend, (∀ p ∈ l, isAccess p.kind = false) → l.foldl (fun s p => performPend s k p) s = s := by
    intro l
    induction l with
    | nil => exact fun _ => rfl
    | cons p l ih =>
      intro hl
      have hp : performPend s k p = s := by
        rw [performPend, hl p List.mem_cons_self]
        rfl
      rw [List.foldl_cons, hp]
      exact ih fun q hq => hl q (List.mem_cons_of_mem p hq)
  rw [performWhere, hb]
  exact hfold _ fun p hp => h p (List.mem_of_mem_filter hp)

/-! ## The checks of a global write (R143, R157) -/

/-- A global access whose every lane is aligned, translates, passes its checks and can travel comes to its effect; locks are compared
with the lanes for which the access looks at them (R158). -/
theorem accessGlobal_goes {s u : State} {x : Sel} {op : GOp} {sup : Bool} {lanes : List ALane} {ls : List GLane}
    {act : State → List GLane → Option State} (hb : beamOf s x.key = some x.beam)
    (hal : ∀ a ∈ lanes, a.ea.toNat % op.align = 0) (hok : lanes.map (laneXlate s x.key x.beam sup op.write) = ls.map .ok)
    (hcheck : ∀ g ∈ ls, op.check (setBeam s x.key x.beam) g.x g.ea = none)
    (hlock : ∀ g ∈ ls, op.locked g.x = true →
      lockHit s (selCore x) false (op.span g.ea.toNat).1 (op.span g.ea.toNat).2 op.write = none)
    (hreach : lanesReach s (selCore x) op ls = true) (hsync : syncReady s x.key op ls = true)
    (hact : act (setBeam s x.key x.beam) ls = some u) : accessGlobal x s op sup lanes act = .done u [] := by
  have hchecks : firstSome (fun g => (op.check (setBeam s x.key x.beam) g.x g.ea).map fun c => (g.lane, c)) ls = none :=
    firstSome_none fun g hg => by rw [hcheck g hg]; rfl
  have hlocks : firstSome (fun g => if op.locked g.x then (lockHit (setBeam s x.key x.beam) (selCore x) false (op.span g.ea.toNat).1
      (op.span g.ea.toNat).2 op.write).map fun l => (g, l) else none) ls = none := by
    refine firstSome_none fun g hg => ?_
    split
    · rw [show lockHit (setBeam s x.key x.beam) = lockHit s from rfl, hlock g hg ‹_›]
      rfl
    · rfl
  have hreach' : lanesReach (setBeam s x.key x.beam) (selCore x) op ls = true := hreach
  have hsync' : syncReady (setBeam s x.key x.beam) x.key op ls = true := ((Alike.setBeam_same hb).syncReady x.key op ls).trans hsync
  simp only [accessGlobal, find_aligned hal, hok, walkLanes_map_ok, contains_shut_map_ok, badLanes_map_ok, okLanes_map_ok,
    parkLanes_nil hb, poorLanes_map_ok, hchecks, hlocks, hreach', hsync', hact, List.isEmpty_nil, List.map_nil, Bool.not_true,
    Bool.or_self, Bool.false_eq_true, if_false]

/-- What ST and RED ask of a global access of n bytes. -/
def writeOp (n : Nat) (q : QF) (atom prm : Bool) (kind : Nat) (check : State → Xl → DWord → Option (Nat × DWord)) : GOp :=
  { loadOp n q with write := true, atom := atom, prm := prm, kind := kind, locked := fun y => !y.d, check := check }

/-- The effect that ST and RED have in common. -/
def globalWrite (x : Sel) (f : MemForm) (op : GOp) (act : State → List GLane → Option State) (s : State) : Res :=
  gated x s f.lanes [srcUse f.a 2, regUse f.d (regsOf f.n)] []
    (accessGlobal x s op (selSup x) (accessLanes x f.lanes (eaOf f.a f.off) (dataOf f.d (regsOf f.n))) act)

theorem StoreForm.exec {x : Sel} {i : Instr} {f : MemForm} (h : StoreForm x i f) :
    ∃ e : Effect, (∀ s, exec i s = issue 4 e s) ∧ ∀ s, e x s =
      globalWrite x f (writeOp f.n f.q false false 1 (storeCheck (selCore x) f.n (selSup x))) (storeAct x f.n f.q) s := by
  cases h <;> exact ⟨_, fun _ => rfl, fun _ => rfl⟩

/-- RED executes in every lane of the run, on as many registers as its bytes fill (R164). -/
theorem RedForm.operands {x : Sel} {i : Instr} {f : MemForm} {o : AtomOp} (h : RedForm x i f o) :
    f.lanes = x.run ∧ f.n / 4 = regsOf f.n := by
  cases h with
  | red32 => exact ⟨rfl, show 4 / 4 = regsOf 4 by decide⟩
  | red64 => exact ⟨rfl, show 8 / 4 = regsOf 8 by decide⟩

theorem RedForm.exec {x : Sel} {i : Instr} {f : MemForm} {o : AtomOp} (h : RedForm x i f o) :
    ∃ e : Effect, (∀ s, exec i s = issue 4 e s) ∧ ∀ s, e x s =
      globalWrite x f (writeOp f.n f.q true f.q.prm 3 (redCheck (selCore x) (selSup x) o)) (redAct x f.n o f.q) s := by
  have hregs := h.operands.2
  cases h <;> exact ⟨_, fun _ => rfl, fun _ => by rw [globalWrite, ← hregs]; rfl⟩

section GlobalWrite

variable {s u : State} {x : Sel} {f : MemForm} {ls : List GLane} {atom prm : Bool} {kind : Nat}
  {check : State → Xl → DWord → Option (Nat × DWord)} {act : State → List GLane → Option State}

/-- A write that promotes no more than its Q says can travel where an access with its Q can. -/
theorem syncReady_writeOp {n : Nat} {q : QF} {k : Nat} (hprm : prm = true → q.prm = true)
    (h : syncReady s k { loadOp n q with prm := q.prm } ls = true) : syncReady s k (writeOp n q atom prm kind check) ls = true := by
  cases prm with
  | true => rw [hprm rfl] at h; exact h
  | false =>
    simp only [syncReady, Bool.and_eq_true] at h ⊢
    exact ⟨⟨h.1.1, rfl⟩, h.2⟩

/-- A global write whose lanes translate, pass their checks and can travel: its effect, in terms of what it acts. -/
theorem globalWrite_goes (hr : ready x f.lanes [srcUse f.a 2, regUse f.d (regsOf f.n)] [] = true)
    (hb : beamOf s x.key = some x.beam) (hhits : f.hits s x (selSup x) true (regsOf f.n) = some ls)
    (hcheck : ∀ g ∈ ls, check (setBeam s x.key x.beam) g.x g.ea = none)
    (hlock : ∀ g ∈ ls, g.x.d = false → lockHit s (selCore x) false g.ea.toNat f.n true = none)
    (hreach : ∀ g ∈ ls, canReach s (selCore x) g.x f.q.scope true atom = true) (hprm : prm = true → f.q.prm = true)
    (hsync : syncReady s x.key { loadOp f.n f.q with prm := f.q.prm } ls = true) (hact : act (setBeam s x.key x.beam) ls = some u) :
    globalWrite x f (writeOp f.n f.q atom prm kind check) act s = .done u [] := by
  obtain ⟨hal, hok⟩ := hits_spec hhits
  rw [globalWrite, gated_ready hr]
  refine accessGlobal_goes hb ?_ ?_ hcheck (fun g hg hd => hlock g hg (Bool.not_eq_true' _ ▸ hd)) (List.all_eq_true.2 hreach)
    (syncReady_writeOp hprm hsync) hact
  · intro a ha
    obtain ⟨j, hj, rfl⟩ := List.mem_map.1 ha
    exact hal j hj
  · simp only [data_regsOf] at hok
    rw [accessLanes, List.map_map]
    exact hok

end GlobalWrite

theorem lockHit_of_noLock {s : State} {x : Sel} {n : Nat} {write : Bool} {ls : List GLane} (h : noLock s x n write ls = true) :
    ∀ g ∈ ls, lockHit s (selCore x) false g.ea.toNat n write = none :=
  fun g hg => Option.isNone_iff_eq_none.1 (List.all_eq_true.1 h g hg)

/-! ## The lanes of a write, by their pages (R168) -/

section Pages

variable {ls : List GLane}

theorem filter_deferred (h : ∀ g ∈ ls, g.x.d = true) :
    (ls.filter fun g => g.x.d) = ls ∧ (ls.filter fun g => !g.x.d) = [] :=
  ⟨List.filter_eq_self.2 h, List.filter_eq_nil_iff.2 fun g hg => by simp [h g hg]⟩

theorem filter_plain (h : ∀ g ∈ ls, g.x.d = false) :
    (ls.filter fun g => g.x.d) = [] ∧ (ls.filter fun g => !g.x.d) = ls :=
  ⟨List.filter_eq_nil_iff.2 fun g hg => by simp [h g hg], List.filter_eq_self.2 fun g hg => by simp [h g hg]⟩

/-- No lane needs APC 3 where none has it. -/
theorem anyAperture_eq_false (h : ∀ g ∈ ls, g.x.apc ≠ 3) : anyAperture ls = false :=
  List.any_eq_false.2 fun g hg he => h g hg (beq_iff_eq.1 he)

theorem windowFence_of_no_aperture (h : ∀ g ∈ ls, g.x.apc ≠ 3) (s : State) (k : Nat) : windowFence s k ls = s :=
  if_neg fun hany => by
    obtain ⟨g, hg, hw⟩ := List.any_eq_true.1 hany
    exact h g hg (beq_iff_eq.1 (Bool.and_eq_true_iff.1 hw).1)

end Pages

theorem logRoom_zero (s : State) (core : Nat) : logRoom s core 0 = true := rfl

/-! ## The buffer (R161) -/

section Buffer

variable {x : Sel} {s : State} {c : Beam} {kind : StoreKind} {sc : Scope} {pieces : List Piece}

/-- A write that enters the buffer leaves the beam's lanes alone; performed as it enters, it leaves the buffer as it was. -/
theorem bufferStore_beam (hc : beamOf s x.key = some c) (now : Bool) :
    ∃ e, beamOf (bufferStore x s kind sc now pieces) x.key = some e ∧ e.lanes = c.lanes ∧
      (now = true → storeOpen s (selCore x) (bufferedStore x c.nextId kind sc pieces) = true → ∀ y ∈ e.stores, y ∈ c.stores) := by
  cases hnow : now && storeOpen s (selCore x) (bufferedStore x c.nextId kind sc pieces)
  · refine ⟨bufferedBeam x c kind sc pieces, ?_, rfl, fun h1 h2 => ?_⟩
    · have hlater : bufferStore x s kind sc now pieces = bufferStore x s kind sc false pieces := by
        simp only [bufferStore, hc, Option.map_some, Option.getD_some, Bool.false_and, Bool.false_eq_true, if_false]
        exact if_neg (Bool.eq_false_iff.1 hnow)
      rw [hlater, bufferStore_later hc]
      exact beamOf_setBeam_same s x.key _
    · rw [h1, h2] at hnow
      cases hnow
  · have hperf : bufferStore x s kind sc now pieces =
        performStore (setBeam s x.key (bufferedBeam x c kind sc pieces)) x.key (bufferedStore x c.nextId kind sc pieces) := by
      simp only [bufferStore, hc, onBeam_some hc, Option.map_some, Option.getD_some]
      exact if_pos hnow
    have hopen : storeOpen (setBeam s x.key (bufferedBeam x c kind sc pieces)) (x.key / 64)
        (bufferedStore x c.nextId kind sc pieces) = true := (Bool.and_eq_true_iff.1 hnow).2
    rw [hperf, performStore_open (beamOf_setBeam_same s x.key _) hopen]
    refine ⟨_, beamOf_setBeam_same _ _ _, ?_, fun _ _ y hy => ?_⟩
    · unfold storedBeam
      dsimp only
      split <;> rfl
    · rw [storedBeam_stores] at hy
      obtain ⟨hmem, hid⟩ := List.mem_filter.1 hy
      obtain hmem | hmem := List.mem_append.1 hmem
      · exact hmem
      · rw [List.mem_singleton.1 hmem] at hid
        exact absurd hid (by simp)

/-- The issue of a write that waits in the buffer, behind what has to be performed before it. -/
theorem exec_of_buffered {u : State} {i : Instr} {e : Effect} (ht : Turn s x) (hi : exec i s = issue 4 e s)
    (hp : Performs x.key (setBeam s x.key x.beam) u) (he : e x s = .done (bufferStore x u kind sc false pieces) []) :
    ∃ t b, exec i s = .next t ∧ beamOf t x.key = some b ∧ Advanced x b ∧ Buffered s t x b kind sc pieces ∧
      (u = setBeam s x.key x.beam → SameOutside s t x.key) := by
  obtain ⟨c, hc, hcb, -⟩ := hp.beam _ (beamOf_setBeam_same s x.key x.beam)
  have hid : c.nextId = x.beam.nextId := by rw [hcb]
  have hcl : c.lanes = x.beam.lanes := by rw [hcb]
  have hclk : u.clk = s.clk := hp.clk
  rw [bufferStore_later hc] at he
  obtain ⟨t, b, hexec, hb, hadv, hstores, hag, hout⟩ := exec_of_kept_lanes ht hi he (beamOf_setBeam_same _ _ _) hcl
  refine ⟨t, b, hexec, hb, hadv, ⟨?_, ?_⟩, fun hu => ?_⟩
  · rw [hstores, ← hid]
    exact List.mem_append_right _ (List.mem_singleton_self _)
  · rw [hag, ← hid, ← hclk]
    exact mem_agenda_postFree (setBeam u x.key _) 0 _
  · rw [hu] at hout
    exact SameOutside.trans (setBeam_sameOutside s x.key _) (SameOutside.trans (setBeam_sameOutside _ x.key _)
      (SameOutside.trans (postFree_sameOutside _ _ _ _) hout))

end Buffer

/-! ## Stores (R160-R162) -/

/-- The state in which a ST is stored or buffered: its release and the fence of the register window, then what touches its bytes (R86,
R162, R315). -/
def beforeStore (s : State) (k n : Nat) (q : QF) (ls : List GLane) : State :=
  beforeAccess (windowFence (if releases q.order then releaseAt s k q.scope else s) k ls) k (spansOf ls n)

theorem beforeStore_of_releases {q : QF} (h : releases q.order = true) (s : State) (k n : Nat) (ls : List GLane) :
    Performs k (releaseAt s k q.scope) (beforeStore s k n q ls) := by
  rw [beforeStore, if_pos h]
  exact (windowFence_performs _ k ls).trans (beforeAccess_performs _ k _)

theorem beforeStore_performs (s : State) (k n : Nat) (q : QF) (ls : List GLane) : Performs k s (beforeStore s k n q ls) := by
  cases h : releases q.order
  · rw [beforeStore, h]
    exact (windowFence_performs s k ls).trans (beforeAccess_performs _ k _)
  · exact (releaseAt_performs s k _).trans (beforeStore_of_releases h s k n ls)

theorem Alike.beforeStore {s t : State} (h : Alike s t) (k n : Nat) (q : QF) (ls : List GLane) :
    Alike (Machine.beforeStore s k n q ls) (Machine.beforeStore t k n q ls) :=
  ((Alike.ite _ (fun _ => h.releaseAt k q.scope) fun _ => h).windowFence k ls).beforeAccess k _

section StoreAct

variable {s : State} {x : Sel} {n : Nat} {q : QF} {ls : List GLane} {bl : Block} {ga : Gang} {gr : Grid}
  (hh : homeOf s x.beam = some (bl, ga, gr)) (hne : ls ≠ []) (hd : ∀ g ∈ ls, g.x.d = false)
include hh hne hd

/-- A store that is performed as it issues, its lanes in order. -/
theorem storeAct_now (hnow : (releases q.order || anyAperture ls) = true)
    (hopen : ∀ g ∈ ls, canReach (beforeStore s x.key n q ls) (selCore x) g.x q.scope true false = true) :
    storeAct x n q s ls = some (stampIf (ls.foldl (fun s g => storeNow s x.key q.scope n g) (beforeStore s x.key n q ls)) (selCore x) q
      false (ls.map fun g => targetOf g.x)) := by
  obtain ⟨hdef, hplain⟩ := filter_plain hd
  have hempty : ls.isEmpty = false := List.isEmpty_eq_false_iff.2 hne
  have hall : (ls.all fun g => canReach (beforeStore s x.key n q ls) (selCore x) g.x q.scope true false) = true :=
    List.all_eq_true.2 hopen
  unfold beforeStore at hall ⊢
  simp only [storeAct, hh, hdef, hplain, hempty, hnow, List.flatMap_nil, List.length_nil, logRoom_zero, appendAll, List.foldl_nil,
    hall, Bool.not_true, Bool.and_false, Bool.false_eq_true, if_false, if_true]

/-- A store that enters the buffer. -/
theorem storeAct_later (hrel : releases q.order = false) (hap : anyAperture ls = false) : storeAct x n q s ls =
    some (bufferStore x (beforeStore s x.key n q ls) .plain q.scope false (ls.map (pieceOf n))) := by
  obtain ⟨hdef, hplain⟩ := filter_plain hd
  have hempty : ls.isEmpty = false := List.isEmpty_eq_false_iff.2 hne
  simp only [storeAct, beforeStore, hh, hdef, hplain, hempty, hrel, hap, List.flatMap_nil, List.length_nil, logRoom_zero, appendAll,
    List.foldl_nil, stampIf_of_not_releases hrel, Bool.not_true, Bool.or_self, Bool.false_and, Bool.false_eq_true, if_false]

/-- A RED enters the buffer; one that releases is performed as it does where it can travel. -/
theorem redAct_plain (o : AtomOp) : redAct x n o q s ls =
    some (stampIf (bufferStore x (beforeAtom s x.key n q ls) (.red o q) q.scope (releases q.order) (ls.map (pieceOf n))) (selCore x) q
      true (ls.map fun g => targetOf g.x)) := by
  obtain ⟨hdef, hplain⟩ := filter_plain hd
  have hempty : ls.isEmpty = false := List.isEmpty_eq_false_iff.2 hne
  simp only [redAct, beforeAtom, hh, hdef, hplain, hempty, List.map_nil, List.length_nil, logRoom_zero, appendAll, List.foldl_nil,
    Bool.not_true, Bool.false_eq_true, if_false]

end StoreAct

theorem beforeAtom_of_releases {q : QF} (h : releases q.order = true) (s : State) (k n : Nat) (ls : List GLane) :
    Performs k (releaseAt s k q.scope) (beforeAtom s k n q ls) := by
  rw [beforeAtom, if_pos h]
  exact beforeAccess_performs _ k _

/-! ## Appends (R168, R173-R175) -/

/-- A core once a record has entered its log. -/
def loggedCore (core : Nat) (r : Rec) (c : Core) : Core :=
  { c with log := c.log ++ [(.record [core] r, c.nextSeq.toNat)], nextSeq := c.nextSeq + 1 }

theorem appendRecord_eq (s : State) (core : Nat) (r : Rec) :
    appendRecord s core r = postFree (setCore s core (loggedCore core r)) 0 (.logDrain core) := rfl

theorem coreOf_appendRecord (s : State) (core : Nat) (r : Rec) :
    coreOf (appendRecord s core r) core = loggedCore core r (coreOf s core) := coreOf_setCore_same s core (loggedCore core r)

theorem appendAll_only (s : State) (core : Nat) (l : List Rec) : OnlyWalks s (appendAll s core l) :=
  OnlyWalks.foldl (fun s r => appendRecord s core r) (fun _ _ => rfl) l s

/-- Records stand behind those of the log, with the next sequence numbers (R175). -/
theorem appendAll_log (core : Nat) : ∀ (l : List Rec) (s : State),
    (coreOf (appendAll s core l) core).log.map (fun e => e.1) = (coreOf s core).log.map (fun e => e.1) ++ l.map (BinItem.record [core]) ∧
      (coreOf (appendAll s core l) core).nextSeq = (coreOf s core).nextSeq + BitVec.ofNat 32 l.length
  | [], s => ⟨(List.append_nil _).symm, (BitVec.add_zero _).symm⟩
  | r :: l, s => by
    obtain ⟨hlog, hseq⟩ := appendAll_log core l (appendRecord s core r)
    rw [coreOf_appendRecord] at hlog hseq
    refine ⟨hlog.trans ?_, hseq.trans ?_⟩
    · rw [loggedCore, List.map_append, List.append_assoc]
      rfl
    · rw [loggedCore, List.length_cons, BitVec.add_assoc, Nat.add_comm, BitVec.ofNat_add]
      rfl

/-- A LOG_DRAIN is to come for what has been appended. -/
theorem appendAll_drain {l : List Rec} (hne : l ≠ []) (s : State) (core : Nat) :
    ∃ c, ⟨c, .logDrain core⟩ ∈ (appendAll s core l).agenda := by
  obtain ⟨init, r, rfl⟩ := (List.eq_nil_or_concat' l).resolve_left hne
  obtain ⟨c, hc, -⟩ := mem_agenda_postFree (setCore (appendAll s core init) core (loggedCore core r)) 0 (.logDrain core)
  refine ⟨c, ?_⟩
  rw [appendAll, List.foldl_concat, appendRecord_eq]
  exact hc

theorem storeRecords_ne_nil (bl : Block) (n : Nat) (g : GLane) : storeRecords bl n g ≠ [] := by
  unfold storeRecords
  split <;> exact List.cons_ne_nil _ _

section Deferred

variable {s : State} {x : Sel} {n : Nat} {q : QF} {ls : List GLane} {bl : Block} {ga : Gang} {gr : Grid}
  (hh : homeOf s x.beam = some (bl, ga, gr)) (hne : ls ≠ []) (hd : ∀ g ∈ ls, g.x.d = true) (hrel : releases q.order = false)
include hh hne hd hrel

theorem storeAct_deferred (hroom : logRoom s (selCore x) (ls.flatMap (storeRecords bl n)).length = true) :
    storeAct x n q s ls = some (appendAll s (selCore x) (ls.flatMap (storeRecords bl n))) := by
  obtain ⟨hdef, hplain⟩ := filter_deferred hd
  have hempty : ls.isEmpty = false := List.isEmpty_eq_false_iff.2 hne
  simp only [storeAct, hh, hdef, hplain, hempty, hroom, hrel, List.isEmpty_nil, Bool.not_true, Bool.false_eq_true, if_false, if_true]

theorem redAct_deferred (o : AtomOp) (hroom : logRoom s (selCore x) ls.length = true) : redAct x n o q s ls =
    some (appendAll s (selCore x) (ls.map fun g => recordFor bl (redOp o) (n == 8) g.x.pa (g.data.setWidth 64))) := by
  obtain ⟨hdef, hplain⟩ := filter_deferred hd
  have hempty : ls.isEmpty = false := List.isEmpty_eq_false_iff.2 hne
  simp only [redAct, hh, hdef, hplain, hempty, hroom, hrel, List.isEmpty_nil, Bool.not_true, Bool.false_eq_true, if_false, if_true]

end Deferred

/-- A deferred write goes no farther than the core's log (R175). -/
theorem canReach_deferred {y : Xl} (h : y.d = true) (s : State) (core : Nat) (sc : Scope) (atom : Bool) :
    canReach s core y sc true atom = true := by
  simp only [canReach, h, Bool.and_self, Bool.true_or]

theorem storeCheck_deferred {core n : Nat} {sup : Bool} {s : State} {y : Xl} {ea : DWord} (hn : 4 ≤ n) (hd : y.d = true)
    (hfull : channelFull s core y = false) : storeCheck core n sup s y ea = none := by
  simp only [storeCheck, hd, hfull, Nat.not_lt.2 hn, if_true, if_false, Bool.false_eq_true]

theorem redCheck_deferred {core : Nat} {sup : Bool} {o : AtomOp} {s : State} {y : Xl} {ea : DWord} (hd : y.d = true)
    (hfull : channelFull s core y = false) : redCheck core sup o s y ea = none := by
  simp only [redCheck, hd, hfull, if_true, if_false, Bool.false_eq_true]

/-- The issue of a write that appends its records. -/
theorem exec_of_appended {s : State} {x : Sel} {i : Instr} {e : Effect} {recs : List Rec} (ht : Turn s x)
    (hi : exec i s = issue 4 e s) (he : e x s = .done (appendAll (setBeam s x.key x.beam) (selCore x) recs) []) (hne : recs ≠ []) :
    ∃ t b, exec i s = .next t ∧ beamOf t x.key = some b ∧ Advanced x b ∧ b.stores = x.beam.stores ∧
      (∀ a, memGet t.mem a = memGet s.mem a) ∧ t.l2 = s.l2 ∧
      (coreOf t (selCore x)).log.map (fun e => e.1) =
        (coreOf s (selCore x)).log.map (fun e => e.1) ++ recs.map (BinItem.record [selCore x]) ∧
      (coreOf t (selCore x)).nextSeq = (coreOf s (selCore x)).nextSeq + BitVec.ofNat 32 recs.length ∧
      ∃ c, ⟨c, .logDrain (selCore x)⟩ ∈ t.agenda := by
  have honly := appendAll_only (setBeam s x.key x.beam) (selCore x) recs
  have hbeam : beamOf (appendAll (setBeam s x.key x.beam) (selCore x) recs) x.key = some x.beam := by
    rw [beamOf, honly.beams]
    exact beamOf_setBeam_same s x.key x.beam
  obtain ⟨hlog, hseq⟩ := appendAll_log (selCore x) recs (setBeam s x.key x.beam)
  have hdrain := appendAll_drain hne (setBeam s x.key x.beam) (selCore x)
  obtain ⟨t, b, hexec, hb, hadv, hstores, hag, hout⟩ := exec_of_kept_lanes ht hi he hbeam rfl
  obtain ⟨hmem, -, hl2, -, hcores, -⟩ := hout
  have hcore : coreOf t (selCore x) = coreOf (appendAll (setBeam s x.key x.beam) (selCore x) recs) (selCore x) := by
    rw [coreOf, hcores]
    rfl
  refine ⟨t, b, hexec, hb, hadv, hstores, fun a => (hmem a).trans ?_, hl2.trans ?_, hcore ▸ hlog, hcore ▸ hseq, hag ▸ hdrain⟩
  · exact congrArg (memGet · a) (honly.field (·.mem) fun _ _ _ _ _ => rfl)
  · exact honly.field (·.l2) fun _ _ _ _ _ => rfl

/-! ## Fences, prefetches and flushes (R169-R171) -/

/-- An effect that leaves the lanes of the beam alone, and the beam that its issue leaves. -/
theorem exec_of_kept_beam {s u : State} {x : Sel} {i : Instr} {e : Effect} {c : Beam} (ht : Turn s x) (hi : exec i s = issue 4 e s)
    (he : e x s = .done u []) (hc : beamOf u x.key = some c) (hl : c.lanes = x.beam.lanes) :
    ∃ t, exec i s = .next t ∧ beamOf t x.key = some (finished u x 4 c) ∧ SameOutside u t x.key := by
  have hrunnable : lanesIn c .runnable ≠ [] := by
    rw [lanesIn, hl]
    exact selected_runnable ht.1
  obtain ⟨hb, hout, -⟩ := finish_done 4 hc hrunnable
  exact ⟨_, by rw [hi, issue_selected ht.1, he], hb, hout⟩

/-- What a fence does that goes on: its release, its acquire and its stamp (R169, R279). -/
def fenced (s : State) (k core : Nat) (q : QF) : State :=
  let s1 := if releases q.order then releaseAt s k q.scope else s
  stampIf (if acquires q.order then acquireAt s1 k q.scope else s1) core q false []

theorem effFence_waits {s : State} {x : Sel} {q : QF} (ho : q.order ≠ .relaxed)
    (h : syncShut (performAll s x.key) x.key q.scope = true) : effFence q x s = .hold (performAll s x.key) := by
  simp only [effFence, h, bne_iff_ne.2 ho, Bool.and_self, if_true]

theorem effFence_goes {s : State} {x : Sel} {q : QF}
    (h : q.order = .relaxed ∨ syncShut (performAll s x.key) x.key q.scope = false) :
    effFence q x s = .done (fenced s x.key (selCore x) q) [] := by
  have hgo : (q.order != .relaxed && syncShut (performAll s x.key) x.key q.scope) = false := by
    obtain h | h := h
    · rw [h]; rfl
    · rw [h, Bool.and_false]
  simp only [effFence, hgo, Bool.false_eq_true, if_false]
  rfl

/-- A fence leaves the beam's lanes alone; one that releases, and can go, leaves no buffered write and no access to perform. -/
theorem fenced_beam {s : State} {k : Nat} {b : Beam} (core : Nat) (q : QF) (hb : beamOf s k = some b) :
    ∃ c, beamOf (fenced s k core q) k = some c ∧ c.lanes = b.lanes ∧
      (releases q.order = true → syncShut (performAll s k) k q.scope = false →
        c.stores = [] ∧ ∀ p ∈ c.pend, isAccess p.kind = false) := by
  have hrelease : ∃ c, beamOf (if releases q.order then releaseAt s k q.scope else s) k = some c ∧ c.lanes = b.lanes ∧
      (releases q.order = true → syncShut (performAll s k) k q.scope = false →
        c.stores = [] ∧ ∀ p ∈ c.pend, isAccess p.kind = false) := by
    split
    · obtain ⟨c, hc, hcb, -⟩ := (releaseAt_performs s k q.scope).beam b hb
      exact ⟨c, hc, by rw [hcb], fun _ hshut => ⟨releaseAt_stores hshut hc, releaseAt_pend hshut hc⟩⟩
    next hrel => exact ⟨b, hb, rfl, fun h => absurd h hrel⟩
  obtain ⟨c, hc, hcl, hcd⟩ := hrelease
  unfold fenced
  generalize (if releases q.order then releaseAt s k q.scope else s) = s1 at hc ⊢
  have hstamp : ∀ t : State, beamOf (stampIf t core q false []) k = beamOf t k := fun t => by
    rw [beamOf, (stampIf_keeps t core q false []).1]
    rfl
  rw [hstamp]
  split
  · obtain ⟨d, hd, hdc, -⟩ := (acquireAt_performs s1 k q.scope).beam c hc
    refine ⟨d, hd, (by rw [hdc]; exact hcl), fun hrel hshut => ?_⟩
    obtain ⟨hstores, hpend⟩ := hcd hrel hshut
    have hsame : beamOf (acquireAt s1 k q.scope) k = some c := by
      rw [acquireAt, performWhere_of_finished hc hpend, beamOf, (acquireCaches_only s1 _ q.scope).beams]
      exact hc
    rw [hsame] at hd
    cases hd
    exact ⟨hstores, hpend⟩
  · exact ⟨c, hc, hcl, hcd⟩

theorem prefetch_only (s : State) (core : Nat) (g : GLane) : OnlyMemory s (prefetch s core g) :=
  (sliceRead_only s _ 0 _ 1).trans (l1Read_only _ core _ 1 false)

/-- Where each lane of a PREF stands after translation. -/
def prefXl (s : State) (x : Sel) (a : Src) : List LaneXl :=
  x.run.map fun j => laneXlate s x.key x.beam (selSup x) false ⟨j, lanePair (laneOf x.beam j) a.r, 0⟩

/-- The lanes of a PREF that bring a line in: those on cached pages of device memory. -/
def prefLanes (r : List LaneXl) : List GLane := (okLanes r).filter fun g => g.x.apc == 0 && !g.x.d && g.x.c

section Pref

variable {s : State} {x : Sel} {a : Src} (hr : ready x x.run [srcUse a 2] [] = true)
include hr

theorem effPref_walks (hw : walkLanes (prefXl s x a) ≠ []) :
    effPref a x s = .hold (startWalks s x.key (selSup x) false (walkLanes (prefXl s x a))) := by
  have hne : (walkLanes (prefXl s x a)).isEmpty = false := List.isEmpty_eq_false_iff.2 hw
  rw [effPref, gated_ready hr]
  unfold prefXl at hne ⊢
  simp only [hne, Bool.not_false, if_true]

theorem effPref_goes (hw : walkLanes (prefXl s x a) = []) (hshut : LaneXl.shut ∉ prefXl s x a)
    (hreach : ∀ g ∈ okLanes (prefXl s x a), g.x.apc = 0 → canReach s (selCore x) g.x .gang false false = true) :
    effPref a x s = .done ((prefLanes (prefXl s x a)).foldl (fun s g => prefetch s (selCore x) g) s) [] := by
  have hcontains : (prefXl s x a).contains .shut = false := by
    rw [List.contains_eq_mem]
    exact decide_eq_false hshut
  have hany : ((prefLanes (prefXl s x a)).any fun g => !canReach s (selCore x) g.x .gang false false) = false := by
    rw [List.any_eq_false]
    intro g hg
    obtain ⟨hmem, hpage⟩ := List.mem_filter.1 hg
    simp only [Bool.and_eq_true, beq_iff_eq] at hpage
    rw [hreach g hmem hpage.1.1]
    exact Bool.false_ne_true
  rw [effPref, gated_ready hr]
  unfold prefLanes prefXl at *
  simp only [hw, hcontains, hany, List.isEmpty_nil, Bool.not_true, Bool.or_self, Bool.false_eq_true, if_false]

end Pref

/-- What CFLUSH asks of a global access. -/
def flushOp (x : Sel) : GOp :=
  { n := 1, align := 1, write := true, atom := false, scope := .dev, order := .relaxed, prm := false, kind := 5,
    span := fun a => (a / 128 * 128, 128), near := lineSpan, locked := fun _ => true, check := flushCheck (selCore x) (selSup x) }

/-- What CFLUSH does once checked. -/
def flushLines (x : Sel) (s : State) (ls : List GLane) : State :=
  ls.foldl (fun s l => flushLine (beforeAccess s x.key [lineSpan l]) (selCore x) l.x) s

theorem effCflush_ready {s : State} {x : Sel} {a : Src} (hr : ready x x.run [srcUse a 2] [] = true) : effCflush a x s =
    accessGlobal x s (flushOp x) (selSup x) (accessLanes x x.run (eaOf a 0) fun _ => 0) fun s ls => some (flushLines x s ls) := by
  rw [effCflush, gated_ready hr]
  rfl

/-- The lane of a CFLUSH that has translated (R171). -/
def flushLane (x : Sel) (a : Src) (j : Nat) (y : Xl) : GLane := ⟨j, lanePair (laneOf x.beam j) a.r + dwordOf 0, 0, y⟩

/-- CFLUSH of one lane on a page of device memory that passes its checks and can travel flushes its line, behind what touches it. -/
theorem effCflush_goes {s : State} {x : Sel} {a : Src} {j : Nat} {y : Xl} (hb : beamOf s x.key = some x.beam) (hrun : x.run = [j])
    (hr : ready x x.run [srcUse a 2] [] = true)
    (hxl : laneXlate s x.key x.beam (selSup x) true ⟨j, (flushLane x a j y).ea, 0⟩ = .ok (flushLane x a j y)) (hapc : y.apc = 0)
    (hd : y.d = false) (hlock : lockHit s (selCore x) false ((flushLane x a j y).ea.toNat / 128 * 128) 128 true = none)
    (hreach : canReach s (selCore x) y .dev true false = true) (hearlier : earlierShut s x.key [lineSpan (flushLane x a j y)] = false) :
    effCflush a x s = .done (flushLine (beforeAccess (setBeam s x.key x.beam) x.key [lineSpan (flushLane x a j y)]) (selCore x) y) [] := by
  have hwin : isWindow (flushLane x a j y).x = false := by rw [isWindow, flushLane, hapc]; rfl
  have hplain : (flushLane x a j y).x.d = false := hd
  rw [effCflush_ready hr, hrun]
  refine accessGlobal_goes (ls := [flushLane x a j y]) hb (fun a _ => Nat.mod_one _) (congrArg (fun z => [z]) hxl) ?_ ?_ ?_ ?_ rfl
  · intro g hg
    rw [List.mem_singleton.1 hg]
    simp only [flushOp, flushCheck, outerOk, flushLane, hapc, hd, Bool.false_eq_true, if_false, Bool.not_true]
  · intro g hg _
    rw [List.mem_singleton.1 hg]
    exact hlock
  · rw [lanesReach, List.all_cons, List.all_nil, Bool.and_true]
    exact hreach
  · simpa [syncReady, flushOp, hwin, hplain] using hearlier

/-- A sector's own copy of a line that is flushed is gone, where it is a local copy and not the home copy (R147, R171). -/
theorem look_ownCopyBack_drop {s : State} {sector apc pa : Nat} (h : isLocalCopy s sector apc pa = true) :
    look (ownCopyBack s sector apc pa true).l2 (l2Key sector apc pa) = none := by
  cases hl : look s.l2 (l2Key sector apc pa) with
  | none => simp only [ownCopyBack, h, hl, if_true]
  | some e =>
    obtain ⟨x, d⟩ := e
    simp only [ownCopyBack, h, hl, if_true, look_del_same]

theorem nearWrite_l2 (s : State) (part pa : Nat) (l : List Byte) : (nearWrite s part pa l).l2 = s.l2 := by
  have hblock : (nearBlockWrite s part pa l).l2 = s.l2 := by
    unfold nearBlockWrite
    split <;> rfl
  unfold nearWrite
  dsimp only
  split
  · exact hblock
  · split
    · exact hblock
    · split <;> exact hblock

/-- The home slice gives up its copy of one line, and no other copy comes or goes (R148). -/
theorem homeDrop_l2 (s : State) (part pa k : Nat) : look (homeDrop s part pa).l2 k =
    if k = l2Key (homeSector s part pa) 0 pa then none else look s.l2 k := by
  have hruns : ∀ (r : List (Nat × List Byte)) (t : State) (base : Nat),
      (writeRuns (fun s a l => nearWrite s part a l) t base r).l2 = t.l2 := by
    intro r
    induction r with
    | nil => exact fun _ _ => rfl
    | cons p r ih => exact fun t base => (ih _ base).trans (nearWrite_l2 t part _ _)
  cases hl : look s.l2 (l2Key (homeSector s part pa) 0 pa) with
  | none =>
    simp only [homeDrop, hl]
    split
    next hk => rw [hk, hl]
    next => rfl
  | some e =>
    obtain ⟨x, d⟩ := e
    simp only [homeDrop, hl, look_del, hruns]

/-- A core's sector and the core itself lie in one quarter, and so in one partition (R2). -/
theorem partOfSector_core (s : State) (core : Nat) : partOfSector s (core / 4) = partOfCore s core := by
  rw [partOfSector, partOfCore, Nat.div_div_eq_div_mul]

theorem homeSector_of_only {s t : State} (h : OnlyMemory s t) (part pa : Nat) : homeSector t part pa = homeSector s part pa :=
  h.field (homeSector · part pa) fun _ _ _ _ _ _ _ => rfl

theorem partOfCore_of_only {s t : State} (h : OnlyMemory s t) (core : Nat) : partOfCore t core = partOfCore s core :=
  h.field (partOfCore · core) fun _ _ _ _ _ _ _ => rfl

/-- A flush of a line of device memory: the copies made by way of the pod, the sector's own copy, the home copy and the line of L1. -/
theorem flushLine_device {s : State} {core : Nat} {y : Xl} (hapc : y.apc = 0) (hd : y.d = false) : flushLine s core y =
    let s1 := ownCopyBack (noteFlush s core y) (core / 4) 2 (podSelf (noteFlush s core y) * 2 ^ 40 + y.pa) true
    l1Drop (homeDrop (ownCopyBack s1 (core / 4) 0 y.pa true) (partOfCore (noteFlush s core y) core) y.pa) core y.pa := by
  have hown : ownAddr (noteFlush s core y) core y = some y.pa := by
    simp only [ownAddr, hapc, hd, Bool.false_eq_true, if_false]
  have hway : (y.apc == 1 || y.apc == 2) = false := by rw [hapc]; rfl
  simp only [flushLine, hown, hway, Bool.false_eq_true, if_false]

theorem noteFlush_only (s : State) (core : Nat) (y : Xl) : OnlyMemory s (noteFlush s core y) := by
  unfold noteFlush
  split
  · exact .refl s
  · exact .of_aliased s _

/-- What a flush of a line of device memory changes, and the copies that are gone (R171). -/
theorem flushLine_spec {s : State} {core : Nat} {y : Xl} (hapc : y.apc = 0) (hd : y.d = false) : let t := flushLine s core y
    OnlyMemory s t ∧ look (coreOf t core).l1 (y.pa / 128) = none ∧
      look t.l2 (l2Key (homeSector s (partOfCore s core) y.pa) 0 y.pa) = none ∧ look t.l2 (l2Key (core / 4) 0 y.pa) = none := by
  rw [flushLine_device hapc hd]
  dsimp only
  rw [partOfCore_of_only (noteFlush_only s core y)]
  have h1 : OnlyMemory s (ownCopyBack (noteFlush s core y) (core / 4) 2 (podSelf (noteFlush s core y) * 2 ^ 40 + y.pa) true) :=
    (noteFlush_only s core y).trans (ownCopyBack_only _ _ _ _ _)
  generalize ownCopyBack (noteFlush s core y) (core / 4) 2 (podSelf (noteFlush s core y) * 2 ^ 40 + y.pa) true = s1 at h1 ⊢
  have h2 := h1.trans (ownCopyBack_only s1 (core / 4) 0 y.pa true)
  have hown : isLocalCopy s1 (core / 4) 0 y.pa = true → look (ownCopyBack s1 (core / 4) 0 y.pa true).l2 (l2Key (core / 4) 0 y.pa) = none :=
    look_ownCopyBack_drop
  have hlocal : isLocalCopy s1 (core / 4) 0 y.pa = (homeSector s (partOfCore s core) y.pa != core / 4) := by
    rw [isLocalCopy, partOfSector_core, partOfCore_of_only h1, homeSector_of_only h1]
    rfl
  generalize ownCopyBack s1 (core / 4) 0 y.pa true = s2 at h2 hown ⊢
  have hl2 := homeDrop_l2 s2 (partOfCore s core) y.pa
  rw [homeSector_of_only h2] at hl2
  refine ⟨h2.trans ((homeDrop_only s2 _ y.pa).trans (l1Drop_only _ core y.pa)), ?_, (hl2 _).trans (if_pos rfl), (hl2 _).trans ?_⟩
  · rw [l1Drop, coreOf_setCore_same]
    exact look_del_same _ _
  · split
    · rfl
    next hkey =>
      refine hown (hlocal.trans (bne_iff_ne.2 fun he => hkey ?_))
      rw [he]

end Sys2Proof.Machine

namespace Sys2Proof.Certificates

open Sys2Proof Sys2Proof.Machine

/-- Settles O37: past its checks the store is performed behind its release, or waits in the buffer behind what touches its bytes. -/
theorem storesIssue : Obligations.StoresIssue := by
  unfold Obligations.StoresIssue
  intro s x i f bl ga gr ls hf ht hh hr hhits hne hd hcheck hlock hgo hopen
  obtain ⟨e, hi, he⟩ := hf.exec
  obtain ⟨hreach, hsync⟩ := hgo
  have halike := Alike.setBeam_same ht.2
  have heff : ∀ u, storeAct x f.n f.q (setBeam s x.key x.beam) ls = some u → e x s = .done u [] := fun u hact =>
    (he s).trans (globalWrite_goes hr ht.2 hhits hcheck (fun g hg _ => lockHit_of_noLock hlock g hg) hreach (fun h => by cases h) hsync hact)
  cases hnow : releases f.q.order || anyAperture ls
  · obtain ⟨hrel, hap⟩ := Bool.or_eq_false_iff.1 hnow
    have hact := storeAct_later (s := setBeam s x.key x.beam) (n := f.n) hh hne hd hrel hap
    obtain ⟨t, b, hexec, hb, hadv, hbuf, hout⟩ := exec_of_buffered ht (hi s) (beforeStore_performs _ x.key f.n f.q ls) (heff _ hact)
    refine ⟨t, b, hexec, hb, hadv, fun h => absurd (hrel.symm.trans h) Bool.false_ne_true, fun _ hapc => ⟨hbuf, fun hun => hout ?_⟩⟩
    rw [beforeStore, hrel, windowFence_of_no_aperture hapc]
    exact beforeAccess_untouched (beamOf_setBeam_same _ _ _) hun
  · have hcross : releases f.q.order = true ∨ ∃ g ∈ ls, g.x.apc = 3 := by simpa [anyAperture] using hnow
    have hact := storeAct_now (s := setBeam s x.key x.beam) (n := f.n) hh hne hd hnow fun g hg => by
      rw [(halike.beforeStore x.key f.n f.q ls).read (fun s => canReach s _ _ _ _ _) fun _ _ => rfl]
      exact hopen hcross g hg
    obtain ⟨c, hc, hcb, -⟩ := (beforeStore_performs (setBeam s x.key x.beam) x.key f.n f.q ls).beam _ (beamOf_setBeam_same _ _ _)
    obtain ⟨t, b, hexec, hb, hadv, hstores, -, -⟩ := exec_of_kept_lanes ht (hi s) (heff _ hact) (c := c)
      (by rw [beamOf, (storesNow_beams _ x.key f.n (selCore x) f.q ls _).beams]; exact hc) (by rw [hcb])
    refine ⟨t, b, hexec, hb, hadv, fun hrel => hstores.trans ?_, fun hrel hapc => ?_⟩
    · have hshut := syncShut_of_syncReady (halike.syncReady x.key _ ls |>.trans hsync) hrel
      exact stores_nil_of_release (beamOf_setBeam_same _ _ _) hshut (beforeStore_of_releases hrel _ x.key f.n ls) hc
    · rw [hrel, anyAperture_eq_false hapc] at hnow
      cases hnow

/-- Settles O38: on a deferred page all that the lanes do is to append their records. -/
theorem deferredStoresAppend : Obligations.DeferredStoresAppend := by
  unfold Obligations.DeferredStoresAppend
  intro s x i f bl ga gr ls recs hform ht hh hr hhits hne hpage hroom hrel hgo
  have hd : ∀ g ∈ ls, g.x.d = true := fun g hg => (hpage g hg).1
  have hlock : ∀ g ∈ ls, g.x.d = false → lockHit s (selCore x) false g.ea.toNat f.n true = none :=
    fun g hg h => absurd (h.symm.trans (hd g hg)) Bool.false_ne_true
  obtain ⟨hf, hn, rfl⟩ | ⟨o, hf, rfl⟩ := hform
  · obtain ⟨e, hi, he⟩ := hf.exec
    have hact := storeAct_deferred (s := setBeam s x.key x.beam) hh hne hd hrel hroom
    refine exec_of_appended ht (hi s) ((he s).trans (globalWrite_goes hr ht.2 hhits
      (fun g hg => storeCheck_deferred hn (hd g hg) (hpage g hg).2) hlock (fun g hg => canReach_deferred (hd g hg) _ _ _ _)
      (fun h => by cases h) hgo.2 hact)) fun hnil => ?_
    obtain ⟨g, hg⟩ := List.exists_mem_of_ne_nil ls hne
    exact storeRecords_ne_nil bl f.n g (List.flatMap_eq_nil_iff.1 hnil g hg)
  · obtain ⟨e, hi, he⟩ := hf.exec
    rw [List.length_map] at hroom
    have hact := redAct_deferred (s := setBeam s x.key x.beam) (n := f.n) hh hne hd hrel o hroom
    exact exec_of_appended ht (hi s) ((he s).trans (globalWrite_goes hr ht.2 hhits
      (fun g hg => redCheck_deferred (hd g hg) (hpage g hg).2) hlock (fun g hg => canReach_deferred (hd g hg) _ _ _ _)
      id hgo.2 hact)) fun hnil => hne (List.map_eq_nil_iff.1 hnil)

/-- Settles O39: the reduction enters the buffer behind what has to be performed before it, and a release finds the buffer empty. -/
theorem reductionsPerform : Obligations.ReductionsPerform := by
  unfold Obligations.ReductionsPerform
  intro s x i f o bl ga gr ls hf ht hh hr hhits hd hcheck hlock hgo
  obtain ⟨hlanes, hregs⟩ := hf.operands
  obtain ⟨e, hi, he⟩ := hf.exec
  obtain ⟨hreach, hsync⟩ := hgo
  rw [← hlanes, hregs] at hr
  rw [hregs] at hhits
  have halike := Alike.setBeam_same ht.2
  have heff : ∀ u, redAct x f.n o f.q (setBeam s x.key x.beam) ls = some u → e x s = .done u [] := fun u hact =>
    (he s).trans (globalWrite_goes hr ht.2 hhits hcheck (fun g hg _ => lockHit_of_noLock hlock g hg) hreach id hsync hact)
  have hh' : homeOf (setBeam s x.key x.beam) x.beam = some (bl, ga, gr) := hh
  by_cases hne : ls = []
  · have hact : redAct x f.n o f.q (setBeam s x.key x.beam) ls = some (setBeam s x.key x.beam) := by
      simp only [redAct, hh', hne, List.isEmpty_nil, if_true]
    obtain ⟨t, b, hexec, hb, hadv, -, -, -⟩ := exec_of_kept_lanes ht (hi s) (heff _ hact) (beamOf_setBeam_same _ _ _) rfl
    exact ⟨t, b, hexec, hb, hadv, fun _ h => absurd hne h, fun _ h => absurd hne h⟩
  have hact := redAct_plain (n := f.n) (q := f.q) hh' hne hd o
  cases hrel : releases f.q.order
  · rw [hrel, stampIf_of_not_releases hrel] at hact
    obtain ⟨t, b, hexec, hb, hadv, hbuf, hout⟩ := exec_of_buffered ht (hi s) (beforeAtom_performs _ x.key f.n f.q ls) (heff _ hact)
    refine ⟨t, b, hexec, hb, hadv, fun h => absurd h Bool.false_ne_true, fun _ _ => ⟨hbuf, fun hun => hout ?_⟩⟩
    rw [beforeAtom, hrel]
    exact beforeAccess_untouched (beamOf_setBeam_same _ _ _) hun
  · rw [hrel] at hact
    have hp := beforeAtom_of_releases hrel (setBeam s x.key x.beam) x.key f.n ls
    obtain ⟨c, hc, hcb, -⟩ := (beforeAtom_performs (setBeam s x.key x.beam) x.key f.n f.q ls).beam _ (beamOf_setBeam_same _ _ _)
    obtain ⟨c', hc', hlns, hsub⟩ := bufferStore_beam (kind := .red o f.q) (sc := f.q.scope) (pieces := ls.map (pieceOf f.n)) hc true
    obtain ⟨t, b, hexec, hb, hadv, hstores, -, -⟩ := exec_of_kept_lanes ht (hi s) (heff _ hact) (c := c')
      (by rw [beamOf, (stampIf_keeps _ _ _ _ _).1]; exact hc') (by rw [hlns, hcb])
    refine ⟨t, b, hexec, hb, hadv, fun _ _ hopen => hstores.trans ?_, fun h => absurd h.symm Bool.false_ne_true⟩
    have hshut := syncShut_of_syncReady (halike.syncReady x.key _ ls |>.trans hsync) hrel
    have hnil : c.stores = [] := stores_nil_of_release (beamOf_setBeam_same _ _ _) hshut hp hc
    have hid : c.nextId = x.beam.nextId := by rw [hcb]
    rw [hnil, hid] at hsub
    refine List.eq_nil_iff_forall_not_mem.2 fun y hy => List.not_mem_nil (hsub rfl ?_ y hy)
    rw [(halike.beforeAtom x.key f.n f.q ls).read (fun s => storeOpen s _ _) fun _ _ => rfl, beforeAtom, if_pos hrel]
    exact hopen

/-- Settles O43: each comes past its checks to an effect that leaves the lanes alone; a release leaves nothing to perform, and the flushed
line has no copy left. -/
theorem fencesPrefetchesAndFlushes : Obligations.FencesPrefetchesAndFlushes := by
  unfold Obligations.FencesPrefetchesAndFlushes
  intro s x ht
  refine ⟨fun q ho hshut => ?_, fun q hgo => ?_, fun a hr => ⟨fun hw => ?_, fun hw hshut hreach => ?_⟩,
    fun a j y hrun hr hxl hapc hd hlock hreach hearlier => ?_⟩
  · rw [show exec (.fence q) s = issue 4 (effFence q) s from rfl, issue_selected ht.1, effFence_waits ho hshut]
    rfl
  · obtain ⟨c, hc, hcl, hdone⟩ := fenced_beam (selCore x) q ht.2
    obtain ⟨t, hexec, hb, -⟩ := exec_of_kept_beam ht (i := .fence q) rfl (effFence_goes hgo) hc hcl
    refine ⟨t, _, hexec, hb, fun j => ?_, fun hrel => hdone hrel (hgo.resolve_left fun ho => ?_)⟩
    · have hlane : laneOf c j = laneOf x.beam j := by rw [laneOf, laneOf, hcl]
      rw [laneOf_finished (fun j hj => hcl ▸ run_lt ht.1 hj), hlane]
      split
      · exact ⟨rfl, rfl⟩
      · exact ⟨rfl, (BitVec.add_zero _).symm⟩
    · rw [ho] at hrel
      cases hrel
  · rw [show exec (.pref a) s = issue 4 (effPref a) s from rfl, issue_selected ht.1, effPref_walks hr hw]
    rfl
  · have honly := OnlyMemory.foldl _ (fun s g => prefetch_only s (selCore x) g) (prefLanes (prefXl s x a)) s
    obtain ⟨t, hexec, hb, -⟩ := exec_of_kept_beam ht (i := .pref a) rfl (effPref_goes hr hw hshut hreach) (c := x.beam)
      (by rw [beamOf, honly.beams]; exact ht.2) rfl
    exact ⟨t, _, hexec, hb, advanced_finished ht rfl, rfl, rfl⟩
  · have hp := beforeAccess_performs (setBeam s x.key x.beam) x.key [lineSpan (flushLane x a j y)]
    obtain ⟨honly, hl1, hhome, hown⟩ :=
      flushLine_spec (s := beforeAccess (setBeam s x.key x.beam) x.key [lineSpan (flushLane x a j y)]) (core := selCore x) hapc hd
    have he := effCflush_goes ht.2 hrun hr hxl hapc hd hlock hreach hearlier
    obtain ⟨c, hc, hcb, -⟩ := (hp.trans (honly.performs x.key)).beam _ (beamOf_setBeam_same s x.key x.beam)
    obtain ⟨t, b, hexec, hb, hadv, -, -, hout⟩ := exec_of_kept_lanes ht (i := .cflush a) rfl he hc (by rw [hcb])
    obtain ⟨-, -, hl2, -, hcores, -⟩ := hout
    have hpart := hp.only.field (fun s => homeSector s (partOfCore s (selCore x)) y.pa) fun _ _ _ _ _ _ _ _ => rfl
    refine ⟨t, b, hexec, hb, hadv, ?_, ?_, ?_⟩
    · rw [coreOf, hcores]
      exact hl1
    · rw [hl2, ← hhome, hpart]
      rfl
    · rw [hl2]
      exact hown

end Sys2Proof.Certificates
end

section
/-!
PROOF of O48. Deferred memory: what the operations of logs, bins, apply engines and folds leave of the state, said once for each, and from
that what each of their steps does.
-/
namespace Sys2Proof.Machine

open Sys2Proof

set_option Elab.async false

variable {s t u : State} {ch k : Nat}

/-! ## Steps put on the agenda (R176, R189, log 3) -/

/-- The state t differs from s in the agenda and the counter of free values alone. -/
def OnlyAgenda (s t : State) : Prop := t = { s with agenda := t.agenda, fresh := t.fresh }

namespace OnlyAgenda

theorem refl (s : State) : OnlyAgenda s s := rfl

theorem trans (h : OnlyAgenda s t) (g : OnlyAgenda t u) : OnlyAgenda s u := by
  unfold OnlyAgenda at *
  rw [g, h]

theorem applies (h : OnlyAgenda s t) : t.applies = s.applies := by rw [h]
theorem mem (h : OnlyAgenda s t) : t.mem = s.mem := by rw [h]
theorem commits (h : OnlyAgenda s t) : t.commits = s.commits := by rw [h]

theorem applyOf (h : OnlyAgenda s t) (ch : Nat) : applyOf t ch = applyOf s ch := congrArg (lookD · ch _) h.applies

end OnlyAgenda

theorem nudge_onlyAgenda (s : State) : OnlyAgenda s (nudge s) :=
  List.foldlRecOn (motive := OnlyAgenda s) _ _ (.refl s) fun t ht g _ => by
    split
    · exact ht.trans rfl
    · exact ht

theorem mem_nudge {d : Due} (h : d ∈ s.agenda) : d ∈ (nudge s).agenda :=
  List.foldlRecOn (motive := fun t : State => d ∈ t.agenda) _ _ h fun t ht g _ => by
    split
    · exact List.mem_append_left _ ht
    · exact ht

theorem noticeFull_onlyAgenda (s : State) (ch : Nat) (full : Bool) : OnlyAgenda s (noticeFull s ch full) :=
  List.foldlRecOn (motive := OnlyAgenda s) _ _ (.refl s) fun _ ht _ _ => ht.trans rfl

/-- A notice overtakes those of its channel that have not arrived, and no marker (R176). -/
theorem marker_mem_noticeFull {n e : Nat} {q : Nat × Option Nat} (h : ⟨n, .applyMarkerArrival e q⟩ ∈ s.agenda) (ch : Nat) (full : Bool) :
    ⟨n, .applyMarkerArrival e q⟩ ∈ (noticeFull s ch full).agenda :=
  List.foldlRecOn (motive := fun t : State => ⟨n, .applyMarkerArrival e q⟩ ∈ t.agenda) _ _ h fun _ ht _ _ =>
    List.mem_append_left _ (List.mem_filter.2 ⟨ht, rfl⟩)

/-! ## Bins (R177-R179) -/

/-- The state t differs from s in the bins, the agenda and the counter of free values alone. -/
def OnlyBins (s t : State) : Prop := t = { s with bins := t.bins, agenda := t.agenda, fresh := t.fresh }

namespace OnlyBins

theorem refl (s : State) : OnlyBins s s := rfl

theorem trans (h : OnlyBins s t) (g : OnlyBins t u) : OnlyBins s u := by
  unfold OnlyBins at *
  rw [g, h]

theorem cores (h : OnlyBins s t) : t.cores = s.cores := by rw [h]
theorem mem (h : OnlyBins s t) : t.mem = s.mem := by rw [h]
theorem commits (h : OnlyBins s t) : t.commits = s.commits := by rw [h]

theorem coreOf (h : OnlyBins s t) (core : Nat) : coreOf t core = coreOf s core := congrArg (lookD · core _) h.cores

end OnlyBins

theorem binOf_of_put {b : Bin} (h : t.bins = put s.bins k b) : binOf t k = b := by
  rw [binOf, h, lookD, look_put_same]

theorem shipBin_onlyBins (s : State) (k : Nat) : OnlyBins s (shipBin s k) := by
  unfold shipBin
  extract_lets +onlyGivenNames b
  split
  · exact .refl s
  · split
    · rfl
    · exact List.foldlRecOn (motive := OnlyBins s) _ _ rfl fun _ ht _ _ => ht.trans rfl

theorem binEnter_onlyBins (s : State) (k : Nat) (i : BinItem) : OnlyBins s (binEnter s k i) := by
  unfold binEnter
  extract_lets +onlyGivenNames b age
  split
  · extract_lets s1 s2
    have h2 : OnlyBins s s2 := by
      unfold s2
      split <;> rfl
    exact h2.trans (shipBin_onlyBins s2 k)
  · extract_lets items s1 s2
    have h2 : OnlyBins s s2 := by
      unfold s2
      split <;> rfl
    split
    · exact h2.trans (shipBin_onlyBins s2 k)
    · exact h2

/-- The step by which a packet of a bin arrives: at its channel's engine, or over the ring (R177). -/
def packetStep (k : Nat) (l : List BinItem) : Instr :=
  if isChannelBin k then .binPacketArrival (channelOfBin k) l else .binRingArrival (ringTarget (k / 256) (k % 256 - 128)) l

theorem sendPacket_due (s : State) (i : Instr) : ∃ c, s.clk < c ∧ ⟨c, i⟩ ∈ (sendPacket s i).agenda := by
  refine ⟨_, ?_, List.mem_append_right _ (List.mem_singleton_self _)⟩
  refine List.foldlRecOn (motive := (s.clk < ·)) _ _ (by omega) fun m hm d _ => ?_
  split
  · exact Nat.lt_of_lt_of_le hm (Nat.le_max_left _ _)
  · exact hm

theorem packets_of_short {n : Nat} {l : List BinItem} (h : l.length ≤ 128) : packets (n + 1) l = [l] := if_pos h

/-- A bin that waits for nothing and holds one packet's items ships them together. -/
theorem shipBin_of_open (hne : (binOf s k).items ≠ []) (hlen : (binOf s k).items.length ≤ 128) (hopen : binBlocked s k = false) :
    shipBin s k = sendPacket { s with bins := put s.bins k { binOf s k with items := [], due := false } } (packetStep k (binOf s k).items) := by
  unfold shipBin
  extract_lets +onlyGivenNames b
  rw [if_neg (mt List.isEmpty_iff.1 hne), if_neg (by rw [hopen]; exact Bool.false_ne_true)]
  extract_lets s1
  rw [packets_of_short hlen]
  rfl

/-- A record that finds its bin empty, and is not of a block that leaves, waits there alone. -/
theorem binEnter_of_empty {ks : List Nat} {r : Rec} (hnil : (binOf s k).items = []) (hstays : leavingRecord s ks r = false) :
    (binOf (binEnter s k (.record ks r)) k).items = [.record ks r] := by
  unfold binEnter
  extract_lets +onlyGivenNames b age
  dsimp -zeta only
  extract_lets items s1 s2
  have hitems : items = [.record ks r] := by
    unfold items b
    rw [hnil]
    rfl
  have hbins : s2.bins = put s.bins k { b with items := items, last := s.clk } := by
    unfold s2
    split <;> rfl
  rw [if_neg (by simp [hitems, hstays]), binOf_of_put hbins]
  exact hitems

/-! ## The drain of a log (R175, R187) -/

/-- A commit once its marker has left a core's log for some channels. -/
def drainedCommit (core : Nat) (chans : List Nat) (m : Commit) : Commit := { m with acks := m.acks ++ chans, logs := dropOne core m.logs }

/-- A marker that leaves its log goes to the bins, and changes the core and the commit that it is of. -/
theorem markerOut_spec (s : State) (core c : Nat) :
    (markerOut s core c).cores = (setCore s core fun x => { x with touched := [] }).cores ∧
      (markerOut s core c).commits = alter s.commits c (drainedCommit core (withAll (markChannels s core c) (extraChannels s core c))) := by
  unfold markerOut
  extract_lets chans sec s1 s2 own s3 s4
  have h3 : OnlyBins s2 s3 := List.foldlRecOn (motive := OnlyBins s2) _ _ (.refl s2) fun _ ht _ _ => ht.trans (binEnter_onlyBins _ _ _)
  have h4 : OnlyBins s2 s4 := List.foldlRecOn (motive := OnlyBins s2) _ _ h3 fun _ ht _ _ => by
    dsimp only
    split
    · exact ht
    · exact ht.trans (binEnter_onlyBins _ _ _)
  exact ⟨h4.cores, h4.commits⟩

/-- The core without the oldest entry of its log. -/
def popped (s : State) (core : Nat) (rest : List (BinItem × Nat)) : State := setCore s core fun c => { c with log := rest }

/-- A core that has sent a record to a channel since the last marker of its log. -/
def touching (ch : Nat) (c : Core) : Core := { c with touched := if c.touched.contains ch then c.touched else c.touched ++ [ch] }

theorem coreOf_popped (s : State) (core : Nat) (rest : List (BinItem × Nat)) :
    coreOf (popped s core rest) core = { coreOf s core with log := rest } := coreOf_setCore_same s core _

theorem markChannels_popped (s : State) (core c : Nat) (rest : List (BinItem × Nat)) :
    markChannels (popped s core rest) core c = markChannels s core c := by
  rw [markChannels, coreOf_popped]
  rfl

theorem mem_touching (ch : Nat) (c : Core) : ch ∈ (touching ch c).touched := by
  unfold touching
  dsimp only
  split
  next h => exact List.contains_iff_mem.1 h
  next => exact List.mem_append_right _ (List.mem_singleton_self _)

section Drain

variable {core n : Nat} {rest : List (BinItem × Nat)}

theorem exec_logDrain_nil (h : (coreOf s core).log = []) : exec (.logDrain core) s = .next s := by
  show execLogDrain core s = _
  rw [execLogDrain, h]

theorem exec_logDrain_mark {c o : Nat} {l : List Nat} (h : (coreOf s core).log = (.mark c o l, n) :: rest) :
    exec (.logDrain core) s = .next (markerOut (popped s core rest) core c) := by
  show execLogDrain core s = _
  rw [execLogDrain, h]
  rfl

theorem exec_logDrain_waits {ks : List Nat} {r : Rec} (h : (coreOf s core).log = (.record ks r, n) :: rest)
    (hb : binBlocked s (binKey (core / 4) (channelOfRecord s core r)) = true)
    (hfull : 128 ≤ (binOf s (binKey (core / 4) (channelOfRecord s core r))).items.length) :
    exec (.logDrain core) s = .next (postFree s 0 (.logDrain core)) := by
  show execLogDrain core s = _
  rw [execLogDrain, h]
  dsimp only
  rw [if_pos (by rw [hb, decide_eq_true hfull]; rfl)]

/-- What LOG_DRAIN makes of a record: it leaves the log for its bin. -/
theorem exec_logDrain_record {ks : List Nat} {r : Rec} (h : (coreOf s core).log = (.record ks r, n) :: rest)
    (hroom : binBlocked s (binKey (core / 4) (channelOfRecord s core r)) = false ∨
      (binOf s (binKey (core / 4) (channelOfRecord s core r))).items.length < 128) :
    exec (.logDrain core) s = .next (binEnter (setCore (popped s core rest) core (touching (channelOfRecord s core r)))
      (binKey (core / 4) (channelOfRecord s core r)) (.record ks r)) := by
  show execLogDrain core s = _
  rw [execLogDrain, h]
  dsimp only
  rw [if_neg (by simpa [or_iff_not_imp_left] using hroom)]
  rfl

/-- The core and the commit of a marker that has left its log. -/
theorem logDrain_mark_spec {c o : Nat} {l : List Nat} (h : (coreOf s core).log = (.mark c o l, n) :: rest) :
    ∃ t, exec (.logDrain core) s = .next t ∧ coreOf t core = { coreOf s core with log := rest, touched := [] } ∧
      ∀ m, look s.commits c = some m →
        look t.commits c = some (drainedCommit core (withAll (markChannels s core c) (extraChannels s core c)) m) := by
  obtain ⟨hcores, hcommits⟩ := markerOut_spec (popped s core rest) core c
  refine ⟨_, exec_logDrain_mark h, ?_, fun m hm => ?_⟩
  · rw [coreOf, hcores, ← coreOf, coreOf_setCore_same, coreOf_popped]
  · rw [hcommits, markChannels_popped, look_alter, if_pos rfl]
    exact congrArg (Option.map _) hm

/-- The core of a record that has left its log. -/
theorem coreOf_recorded (k : Nat) (i : BinItem) :
    coreOf (binEnter (setCore (popped s core rest) core (touching ch)) k i) core = touching ch { coreOf s core with log := rest } := by
  rw [(binEnter_onlyBins _ k i).coreOf, coreOf_setCore_same, coreOf_popped]

end Drain

/-! ## Bins that have aged, and notices (R176, R179) -/

/-- A core whose copy of a channel's full bit is as a notice says. -/
def noticed (ch : Nat) (full : Bool) (c : Core) : Core :=
  { c with fullBits := if full then ch :: c.fullBits.filter (fun x => x != ch) else c.fullBits.filter fun x => x != ch }

/-- A notice changes the core's copy of the bit, and may let a bin ship. -/
theorem exec_fullStateNotice (s : State) (core ch : Nat) (full : Bool) :
    ∃ t, exec (.fullStateNotice core ch full) s = .next t ∧ coreOf t core = noticed ch full (coreOf s core) := by
  have hexec : exec (.fullStateNotice core ch full) s = execFullStateNotice core ch full s := rfl
  unfold execFullStateNotice at hexec
  extract_lets s1 k at hexec
  have hs1 : coreOf s1 core = noticed ch full (coreOf s core) := coreOf_setCore_same s core _
  refine ⟨_, hexec, ?_⟩
  split
  · exact ((shipBin_onlyBins _ _).coreOf core).trans hs1
  · exact hs1

theorem exec_binAgeExpiry_aged {sector bin : Nat} (hage : csrN s (partOfSector s (sector % 12)) 0x200 ≠ 0)
    (hold : (binOf s (256 * sector + bin)).last + csrN s (partOfSector s (sector % 12)) 0x200 ≤ s.clk) :
    exec (.binAgeExpiry sector bin) s = .next (shipBin s (256 * sector + bin)) := congrArg Host.Outcome.next (if_pos ⟨hage, hold⟩)

/-! ## Apply engines (R176, R179, R180) -/

/-- The state t differs from s in the apply engines, the agenda and the counter of free values alone; the engine of a channel still has its
fold, what that has to write and has met, and what waits for it. -/
structure FoldStands (ch : Nat) (s t : State) : Prop where
  same : t = { s with applies := t.applies, agenda := t.agenda, fresh := t.fresh }
  engine : applyOf t ch = { applyOf s ch with deltas := (applyOf t ch).deltas, full := (applyOf t ch).full, held := (applyOf t ch).held,
                                              freed := (applyOf t ch).freed }

namespace FoldStands

theorem refl (s : State) : FoldStands ch s s := ⟨rfl, rfl⟩

theorem trans (h : FoldStands ch s t) (g : FoldStands ch t u) : FoldStands ch s u :=
  ⟨by rw [g.same, h.same], by rw [g.engine, h.engine]⟩

theorem of_agenda (h : OnlyAgenda s t) : FoldStands ch s t := by
  refine ⟨?_, by rw [h.applyOf]⟩
  rw [h]

theorem of_setApply {f : Apply → Apply}
    (hf : ∀ a, f a = { a with deltas := (f a).deltas, full := (f a).full, held := (f a).held, freed := (f a).freed }) :
    FoldStands ch s (setApply s ch f) := by
  refine ⟨rfl, ?_⟩
  rw [applyOf_setApply_same]
  exact hf _

theorem mem (h : FoldStands ch s t) : t.mem = s.mem := by rw [h.same]
theorem commits (h : FoldStands ch s t) : t.commits = s.commits := by rw [h.same]
theorem fold (h : FoldStands ch s t) : (applyOf t ch).fold = (applyOf s ch).fold := by rw [h.engine]
theorem todo (h : FoldStands ch s t) : (applyOf t ch).todo = (applyOf s ch).todo := by rw [h.engine]
theorem queued (h : FoldStands ch s t) : (applyOf t ch).queued = (applyOf s ch).queued := by rw [h.engine]

end FoldStands

/-- The engine enters the full state, and its cores have notice to come. -/
def fills (s : State) (ch : Nat) : State := noticeFull (setApply s ch fun a => { a with full := true, freed := 0 }) ch true

theorem fills_onlyAgenda (s : State) (ch : Nat) :
    OnlyAgenda (setApply s ch fun a => { a with full := true, freed := 0 }) (fills s ch) := noticeFull_onlyAgenda _ ch true

theorem fills_stands (s : State) (ch : Nat) : FoldStands ch s (fills s ch) :=
  .trans (.of_setApply fun _ => rfl) (.of_agenda (fills_onlyAgenda s ch))

theorem applyOf_fills (s : State) (ch : Nat) : applyOf (fills s ch) ch = { applyOf s ch with full := true, freed := 0 } := by
  rw [(fills_onlyAgenda s ch).applyOf, applyOf_setApply_same]

theorem marker_mem_fills {n e : Nat} {q : Nat × Option Nat} (h : ⟨n, .applyMarkerArrival e q⟩ ∈ s.agenda) (ch : Nat) :
    ⟨n, .applyMarkerArrival e q⟩ ∈ (fills s ch).agenda :=
  marker_mem_noticeFull (s := setApply s ch fun a => { a with full := true, freed := 0 }) h ch true

theorem takePacket_stands (s : State) (ch : Nat) (items : List BinItem) : FoldStands ch s (takePacket s ch items) := by
  unfold takePacket
  extract_lets s1 l full
  have h1 : FoldStands ch s s1 := List.foldlRecOn (motive := FoldStands ch s) _ _ (.refl s) fun _ ht i _ => by
    split
    · exact ht.trans (.of_setApply fun _ => rfl)
    · exact ht.trans (.of_agenda rfl)
  split
  · exact h1.trans (fills_stands s1 ch)
  · exact h1

/-- What an engine has when it has taken a packet of one record: the record's delta, and it may be full. -/
theorem takePacket_record (s : State) (ch : Nat) (ks : List Nat) (r : Rec) :
    let u := setApply s ch fun a => { a with deltas := takeDelta (deltaSpace s ch) a.deltas r }
    takePacket s ch [.record ks r] = u ∨ takePacket s ch [.record ks r] = fills u ch := by
  unfold takePacket
  extract_lets u s1 l full
  split
  · exact .inr rfl
  · exact .inl rfl

/-- What it has when it has taken a packet of one marker: a fold to begin. -/
theorem takePacket_mark (s : State) (ch c o : Nat) (l : List Nat) :
    let u := post s 0 (.applyMarkerArrival ch (c, none))
    takePacket s ch [.mark c o l] = u ∨ takePacket s ch [.mark c o l] = fills u ch := by
  unfold takePacket
  extract_lets u s1 l full
  split
  · exact .inr rfl
  · exact .inl rfl

theorem holdPacket_record (s : State) (ch : Nat) (ks : List Nat) (r : Rec) :
    holdPacket s ch [.record ks r] = setApply s ch fun a => { a with held := a.held ++ [[.record ks r]] } := rfl

theorem exec_binPacketArrival_taken {items : List BinItem} (h : accepts (applyOf s ch) ch items = true) :
    exec (.binPacketArrival ch items) s = .next (nudge (takePacket s ch items)) := by
  show execBinPacketArrival ch items s = _
  rw [execBinPacketArrival, if_pos h]

theorem exec_binPacketArrival_held {items : List BinItem} (h : accepts (applyOf s ch) ch items = false) :
    exec (.binPacketArrival ch items) s = .next (nudge (holdPacket s ch items)) := by
  show execBinPacketArrival ch items s = _
  rw [execBinPacketArrival, if_neg (Bool.eq_false_iff.1 h)]

theorem accepts_of_not_full {a : Apply} (h : a.full = false) (items : List BinItem) : accepts a ch items = true := by
  rw [accepts, h]
  rfl

theorem not_accepts_record {a : Apply} (h : a.full = true) (ks : List Nat) (r : Rec) : accepts a ch [.record ks r] = false := by
  rw [accepts, h]
  rfl

theorem accepts_mark (a : Apply) (c o : Nat) (l : List Nat) :
    accepts a ch [.mark c o l] = (!a.full || !a.held.any (oneBin ch [.mark c o l])) := rfl

section Arrival

variable (s ch) (ks : List Nat) (r : Rec) (c o : Nat) (l : List Nat)

/-- A record that arrives at an engine that is not full becomes a delta, and no byte of memory changes. -/
theorem record_taken (h : (applyOf s ch).full = false) : ∃ t, exec (.binPacketArrival ch [.record ks r]) s = .next t ∧
    (applyOf t ch).deltas = takeDelta (deltaSpace s ch) (applyOf s ch).deltas r ∧ t.mem = s.mem := by
  have honly := nudge_onlyAgenda (takePacket s ch [.record ks r])
  refine ⟨_, exec_binPacketArrival_taken (accepts_of_not_full h _), ?_, honly.mem.trans (takePacket_stands s ch _).mem⟩
  rw [honly.applyOf]
  obtain hu | hu := takePacket_record s ch ks r
  · rw [hu, applyOf_setApply_same]
  · rw [hu, applyOf_fills, applyOf_setApply_same]

/-- One that arrives at a full engine waits. -/
theorem record_held (h : (applyOf s ch).full = true) : ∃ t, exec (.binPacketArrival ch [.record ks r]) s = .next t ∧
    (applyOf t ch).deltas = (applyOf s ch).deltas ∧ (applyOf t ch).held = (applyOf s ch).held ++ [[.record ks r]] := by
  refine ⟨_, exec_binPacketArrival_held (not_accepts_record h ks r), ?_, ?_⟩
  all_goals rw [(nudge_onlyAgenda _).applyOf, holdPacket_record, applyOf_setApply_same]

/-- A marker that an engine takes asks for a fold. -/
theorem mark_taken (h : (applyOf s ch).full = false ∨ (applyOf s ch).held.any (oneBin ch [.mark c o l]) = false) :
    ∃ t, exec (.binPacketArrival ch [.mark c o l]) s = .next t ∧ ⟨s.clk, .applyMarkerArrival ch (c, none)⟩ ∈ t.agenda ∧
      (applyOf t ch).held = (applyOf s ch).held ∧ (applyOf t ch).deltas = (applyOf s ch).deltas := by
  have haccepts : accepts (applyOf s ch) ch [.mark c o l] = true := by
    rw [accepts_mark]
    obtain h | h := h
    all_goals simp [h]
  have hdue : ⟨s.clk, .applyMarkerArrival ch (c, none)⟩ ∈ (post s 0 (.applyMarkerArrival ch (c, none))).agenda :=
    List.mem_append_right _ (List.mem_singleton_self _)
  refine ⟨_, exec_binPacketArrival_taken haccepts, mem_nudge ?_, ?_⟩
  · obtain hu | hu := takePacket_mark s ch c o l
    · rw [hu]
      exact hdue
    · rw [hu]
      exact marker_mem_fills hdue ch
  · rw [(nudge_onlyAgenda _).applyOf]
    obtain hu | hu := takePacket_mark s ch c o l
    · rw [hu]
      exact ⟨rfl, rfl⟩
    · rw [hu, applyOf_fills]
      exact ⟨rfl, rfl⟩

/-- One that waits behind a packet of its bin asks for one all the same (R179). -/
theorem mark_held (h : (applyOf s ch).full = true) (hbehind : (applyOf s ch).held.any (oneBin ch [.mark c o l]) = true) :
    ∃ t, exec (.binPacketArrival ch [.mark c o l]) s = .next t ∧
      ⟨s.clk, .applyMarkerArrival ch (c, some (senderOf ch (.mark c o l)))⟩ ∈ t.agenda ∧
      (applyOf t ch).held = (applyOf s ch).held ++ [[.mark c o l]] ∧ (applyOf t ch).deltas = (applyOf s ch).deltas := by
  have haccepts : accepts (applyOf s ch) ch [.mark c o l] = false := by
    rw [accepts_mark, h, hbehind]
    rfl
  have hengine := applyOf_setApply_same s ch fun a => { a with held := a.held ++ [[.mark c o l]] }
  refine ⟨_, exec_binPacketArrival_held haccepts, mem_nudge (List.mem_append_right _ (List.mem_singleton_self _)), ?_⟩
  rw [(nudge_onlyAgenda _).applyOf]
  exact ⟨congrArg Apply.held hengine, (congrArg Apply.deltas hengine).trans rfl⟩

end Arrival

theorem clearFull_stands (s : State) (ch : Nat) : FoldStands ch s (clearFull s ch) := by
  unfold clearFull
  extract_lets held
  have h0 : FoldStands ch s (noticeFull (setApply s ch fun x => { x with full := false, held := [], freed := 0 }) ch false) :=
    .trans (.of_setApply fun _ => rfl) (.of_agenda (noticeFull_onlyAgenda _ ch false))
  refine List.foldlRecOn (motive := FoldStands ch s) _ _ h0 fun _ ht l _ => ?_
  split
  · exact ht.trans (takePacket_stands _ ch l)
  · exact ht.trans (.of_setApply fun _ => rfl)

theorem leaveFull_stands (s : State) (ch : Nat) : FoldStands ch s (leaveFull s ch) := by
  unfold leaveFull
  extract_lets a
  split
  · exact clearFull_stands s ch
  · exact .refl s

theorem leaveFull_of_not_full (h : (applyOf s ch).full = false) : leaveFull s ch = s := by
  rw [leaveFull, h]
  rfl

/-! ## Folds (R183, R184, R190) -/

/-- The state t is s once a fold has written its next n blocks: memory and the marks of bad blocks may differ, and of the channel's engine
its deltas, what it has met and freed, and the blocks that are left. -/
structure Wrote (ch n : Nat) (s t : State) : Prop where
  same : t = { s with mem := t.mem, bad := t.bad, l2 := t.l2, cores := t.cores, aliased := t.aliased, fresh := t.fresh, applies := t.applies }
  engine : applyOf t ch = { applyOf s ch with deltas := (applyOf t ch).deltas, todo := (applyOf s ch).todo.drop n,
                                              met := (applyOf t ch).met, freed := (applyOf t ch).freed }

namespace Wrote

variable {n : Nat}

theorem commits (h : Wrote ch n s t) : t.commits = s.commits := by rw [h.same]
theorem fold (h : Wrote ch n s t) : (applyOf t ch).fold = (applyOf s ch).fold := by rw [h.engine]
theorem todo (h : Wrote ch n s t) : (applyOf t ch).todo = (applyOf s ch).todo.drop n := by rw [h.engine]
theorem full (h : Wrote ch n s t) : (applyOf t ch).full = (applyOf s ch).full := by rw [h.engine]
theorem queued (h : Wrote ch n s t) : (applyOf t ch).queued = (applyOf s ch).queued := by rw [h.engine]

end Wrote

theorem foldBlock_only (s : State) (part k : Nat) (l : List Delta) : OnlyMemory s (foldBlock s part k l).1 := by
  unfold foldBlock
  extract_lets pa
  split
  · exact poison_only s part _
  · split
    · exact poison_only s part _
    · exact OnlyMemory.foldl _ (fun s d => nearBlockWrite_only s part _ _) _ s

/-- The engine once the fold in progress has written its next block, of which r says whether that failed. -/
def wroteNext (k : Nat) (rest : List Nat) (r : Option (Nat × Nat)) (a : Apply) : Apply :=
  { a with
    deltas := a.deltas.filter fun d => d.pa / 512 != k
    todo := rest
    met := match a.met with
      | some f => some f
      | none => r
    freed := a.freed + cdiv ((nearDeltas a.deltas).filter fun d => d.pa / 512 == k).length 3 }

theorem foldNext_nil (h : (applyOf s ch).todo = []) : foldNext s ch = s := by
  rw [foldNext, h]

theorem foldNext_cons {rest : List Nat} (h : (applyOf s ch).todo = k :: rest) :
    let r := foldBlock s (partOfQuarter s (quarterOfChannel ch)) k (applyOf s ch).deltas
    foldNext s ch = setApply r.1 ch fun _ => wroteNext k rest r.2 (applyOf s ch) := by
  intro r
  have happ : r.1.applies = s.applies := (foldBlock_only s _ k _).field (·.applies) fun _ _ _ _ _ _ _ => rfl
  have happ : applyOf r.1 ch = applyOf s ch := congrArg (lookD · ch _) happ
  simp only [foldNext, h, setApply]
  rw [happ]
  rfl

theorem foldNext_wrote (s : State) (ch : Nat) : Wrote ch 1 s (foldNext s ch) := by
  cases h : (applyOf s ch).todo with
  | nil =>
    rw [foldNext_nil h]
    exact ⟨rfl, by rw [h, List.drop_nil, ← h]⟩
  | cons k rest =>
    rw [foldNext_cons h]
    refine ⟨?_, ?_⟩
    · have hr := foldBlock_only s (partOfQuarter s (quarterOfChannel ch)) k (applyOf s ch).deltas
      rw [setApply, hr.same]
    · rw [applyOf_setApply_same, h]
      rfl

theorem foldSome_wrote (ch : Nat) : ∀ (n : Nat) (s : State), Wrote ch n s (foldSome ch n s)
  | 0, _ => ⟨rfl, rfl⟩
  | n + 1, s => by
    have h := foldNext_wrote s ch
    have g := foldSome_wrote ch n (foldNext s ch)
    refine ⟨by rw [foldSome, g.same, h.same], ?_⟩
    rw [foldSome, g.engine, h.engine, List.drop_drop, Nat.add_comm 1 n]

/-! ## The steps of a fold -/

theorem foldOn_onlyAgenda (s : State) (ch : Nat) : OnlyAgenda s (foldOn s ch) := rfl

theorem foldOn_agenda (s : State) (ch : Nat) : ∃ d i, (foldOn s ch).agenda = s.agenda ++ [⟨d, i⟩] ∧ s.clk < d ∧
    (i = .foldRefreshYield ch ∨ i = .foldReadYield ch ∨ i = .foldComplete ch) := by
  refine ⟨_, _, rfl, show s.clk < s.clk + (1 + _) by omega, ?_⟩
  split
  · exact .inl rfl
  · split
    · exact .inr (.inl rfl)
    · exact .inr (.inr rfl)

/-- The engine as a fold of all its deltas begins. -/
def foldBegun (s : State) (ch : Nat) (c : Nat × Option Nat) (a : Apply) : Apply :=
  { a with fold := some c, todo := foldOrder s (partOfQuarter s (quarterOfChannel ch)) a.deltas, met := none, freed := 0 }

theorem exec_fold_idle (h : (applyOf s ch).fold = none) {i : Instr}
    (hi : i = .foldRefreshYield ch ∨ i = .foldReadYield ch ∨ i = .foldComplete ch) : exec i s = .next s := by
  obtain rfl | rfl | rfl := hi
  · show execFoldRefreshYield ch s = _
    rw [execFoldRefreshYield, h]
  · show execFoldReadYield ch s = _
    rw [execFoldReadYield, h]
  · show execFoldComplete ch s = _
    rw [execFoldComplete, h]

theorem exec_applyMarkerArrival_begins (c : Nat × Option Nat) (h : (applyOf s ch).fold = none) :
    exec (.applyMarkerArrival ch c) s = .next (beginFold s ch c) := by
  show execApplyMarkerArrival ch c s = _
  rw [execApplyMarkerArrival, h]

/-- What a fold has as it begins, and the step by which it goes on. -/
theorem foldBegun_spec (c : Nat × Option Nat) (h : (applyOf s ch).fold = none) : ∃ t, exec (.applyMarkerArrival ch c) s = .next t ∧
    applyOf t ch = foldBegun s ch c (applyOf s ch) ∧ ∃ d i, t.agenda = s.agenda ++ [⟨d, i⟩] ∧ s.clk < d ∧
      (i = .foldRefreshYield ch ∨ i = .foldReadYield ch ∨ i = .foldComplete ch) :=
  ⟨_, exec_applyMarkerArrival_begins c h, applyOf_setApply_same s ch (foldBegun s ch c), foldOn_agenda _ ch⟩

theorem exec_applyMarkerArrival_queues (c : Nat × Option Nat) (h : (applyOf s ch).fold ≠ none) :
    exec (.applyMarkerArrival ch c) s = .next (setApply s ch fun a => { a with queued := a.queued ++ [c] }) := by
  obtain ⟨f, hf⟩ := Option.ne_none_iff_exists'.1 h
  show execApplyMarkerArrival ch c s = _
  rw [execApplyMarkerArrival, hf]

theorem exec_foldReadYield (h : (applyOf s ch).fold ≠ none) :
    exec (.foldReadYield ch) s =
      .next (foldOn (leaveFull (foldSome ch (1 + drawn s (applyOf s ch).todo.length) s) ch) ch) := by
  obtain ⟨f, hf⟩ := Option.ne_none_iff_exists'.1 h
  show execFoldReadYield ch s = _
  rw [execFoldReadYield, hf]

/-- Where a fold stands when a read meets it: at least one block has been written. -/
theorem foldReadYield_spec (h : (applyOf s ch).fold ≠ none) : ∃ t, exec (.foldReadYield ch) s = .next t ∧
    (applyOf t ch).fold = (applyOf s ch).fold ∧ ∃ n, 1 ≤ n ∧ t.mem = (foldSome ch n s).mem ∧
      (applyOf t ch).todo = (applyOf s ch).todo.drop n ∧
      ((applyOf s ch).full = false → (applyOf t ch).deltas = (applyOf (foldSome ch n s) ch).deltas) := by
  have hexec := exec_foldReadYield h
  generalize hn : 1 + drawn s (applyOf s ch).todo.length = n at hexec
  have hwrote := foldSome_wrote ch n s
  have hstands := leaveFull_stands (foldSome ch n s) ch
  have honly := foldOn_onlyAgenda (leaveFull (foldSome ch n s) ch) ch
  refine ⟨_, hexec, ?_, n, hn ▸ Nat.le_add_right 1 _, honly.mem.trans hstands.mem, ?_, fun hfull => ?_⟩
  · rw [honly.applyOf, hstands.fold, hwrote.fold]
  · rw [honly.applyOf, hstands.todo, hwrote.todo]
  · rw [honly.applyOf, leaveFull_of_not_full (hwrote.full.trans hfull)]

/-- A delta but for the mark that a fold has applied it in its buffer. -/
def unmarked (d : Delta) : Delta := { d with buffered := false }

/-- What a fold over a list gathers, where each step adds what its element maps to. -/
theorem map_foldl_fst {α β σ : Type} {g : α → β} {f : List α × σ → α → List α × σ} (h : ∀ x a, (f x a).1.map g = x.1.map g ++ [g a]) :
    ∀ (l : List α) (x : List α × σ), (l.foldl f x).1.map g = x.1.map g ++ l.map g
  | [], x => (List.append_nil _).symm
  | a :: l, x => by
    rw [List.foldl_cons, map_foldl_fst h l, h, List.append_assoc]
    rfl

theorem exec_foldRefreshYield (h : (applyOf s ch).fold ≠ none) :
    ∃ (n : Nat) (mark : List Delta → List Delta), (∀ l, (mark l).map unmarked = l.map unmarked) ∧
      exec (.foldRefreshYield ch) s = .next (foldOn (draw (draw (setApply (leaveFull (foldSome ch n s) ch) ch fun a =>
        { a with deltas := mark a.deltas }))) ch) := by
  obtain ⟨f, hf⟩ := Option.ne_none_iff_exists'.1 h
  have hexec : exec (.foldRefreshYield ch) s = execFoldRefreshYield ch s := rfl
  rw [execFoldRefreshYield, hf] at hexec
  dsimp -zeta only at hexec
  extract_lets s1 n k mark at hexec
  refine ⟨_, fun l => (l.foldl mark ([], 0)).1, fun l => map_foldl_fst (fun x d => ?_) l _, hexec⟩
  unfold mark
  split
  all_goals
    rw [List.map_append]
    rfl

/-- Where a fold stands when it gives way to refresh: of its deltas only the marks may differ from those of the blocks left. -/
theorem foldRefreshYield_spec (h : (applyOf s ch).fold ≠ none) : ∃ t, exec (.foldRefreshYield ch) s = .next t ∧
    (applyOf t ch).fold = (applyOf s ch).fold ∧ ∃ n, t.mem = (foldSome ch n s).mem ∧
      (applyOf t ch).todo = (applyOf s ch).todo.drop n ∧
      ((applyOf s ch).full = false → (applyOf t ch).deltas.map unmarked = (applyOf (foldSome ch n s) ch).deltas.map unmarked) := by
  obtain ⟨n, mark, hmark, hexec⟩ := exec_foldRefreshYield h
  have hwrote := foldSome_wrote ch n s
  have hstands := leaveFull_stands (foldSome ch n s) ch
  have hengine := applyOf_setApply_same (leaveFull (foldSome ch n s) ch) ch fun a => { a with deltas := mark a.deltas }
  refine ⟨_, hexec, (congrArg Apply.fold hengine).trans (hstands.fold.trans hwrote.fold), n, hstands.mem,
    (congrArg Apply.todo hengine).trans (hstands.todo.trans hwrote.todo), fun hfull => ?_⟩
  refine (congrArg (·.deltas.map unmarked) hengine).trans ((hmark _).trans ?_)
  rw [leaveFull_of_not_full (hwrote.full.trans hfull)]

/-- The engine's fold has ended and is acknowledged (R183, R187). -/
def foldEnded (s : State) (ch : Nat) (c : Nat × Option Nat) : State :=
  nudge (acknowledge (leaveFull (setApply (foldAll s ch) ch fun a => { a with fold := none }) ch) c ch (applyOf (foldAll s ch) ch).met)

theorem exec_foldComplete_last {c : Nat × Option Nat} (h : (applyOf s ch).fold = some c) (hq : (applyOf (foldEnded s ch c) ch).queued = []) :
    exec (.foldComplete ch) s = .next (foldEnded s ch c) := by
  show execFoldComplete ch s = _
  rw [execFoldComplete, h]
  dsimp -zeta only
  extract_lets s1 a s3 s4
  rw [show s4 = foldEnded s ch c from rfl, hq]

theorem exec_foldComplete_next {c d : Nat × Option Nat} {rest : List (Nat × Option Nat)} (h : (applyOf s ch).fold = some c)
    (hq : (applyOf (foldEnded s ch c) ch).queued = d :: rest) :
    exec (.foldComplete ch) s = .next (beginFold (setApply (foldEnded s ch c) ch fun a => { a with queued := rest }) ch d) := by
  show execFoldComplete ch s = _
  rw [execFoldComplete, h]
  dsimp -zeta only
  extract_lets s1 a s3 s4
  rw [show s4 = foldEnded s ch c from rfl, hq]

/-- A commit once the fold of a channel for a marker or a request is acknowledged (R187, R190). -/
def acknowledged (c : Nat × Option Nat) (ch : Nat) (met : Option (Nat × Nat)) (m : Commit) : Commit :=
  { m with
    acks := if c.2.isSome then m.acks else dropOne ch m.acks
    fault := match m.fault with
      | some f => some f
      | none => met }

theorem acknowledge_fields (s : State) (c : Nat × Option Nat) (ch : Nat) (met : Option (Nat × Nat)) :
    (acknowledge s c ch met).mem = s.mem ∧ (acknowledge s c ch met).applies = s.applies ∧
      (acknowledge s c ch met).commits = alter s.commits c.1 (acknowledged c ch met) := by
  unfold acknowledge
  extract_lets s1
  split
  all_goals exact ⟨rfl, rfl, rfl⟩

/-- A fold that has ended leaves memory, and the deltas of an engine that was not full, as its last block did; its commit has the
acknowledgement. -/
theorem foldEnded_spec (s : State) (ch : Nat) (c : Nat × Option Nat) :
    (foldEnded s ch c).mem = (foldAll s ch).mem ∧ (applyOf (foldEnded s ch c) ch).fold = none ∧
      (applyOf (foldEnded s ch c) ch).queued = (applyOf s ch).queued ∧
      ((applyOf s ch).full = false → (applyOf (foldEnded s ch c) ch).deltas = (applyOf (foldAll s ch) ch).deltas) ∧
      (foldEnded s ch c).commits = alter s.commits c.1 (acknowledged c ch (applyOf (foldAll s ch) ch).met) := by
  have hwrote : Wrote ch _ s (foldAll s ch) := foldSome_wrote ch _ s
  have hstands := leaveFull_stands (setApply (foldAll s ch) ch fun a => { a with fold := none }) ch
  obtain ⟨hmem, happ, hcommits⟩ := acknowledge_fields (leaveFull (setApply (foldAll s ch) ch fun a => { a with fold := none }) ch) c ch
    (applyOf (foldAll s ch) ch).met
  have hnudge : OnlyAgenda _ (foldEnded s ch c) := nudge_onlyAgenda _
  have hengine : applyOf (foldEnded s ch c) ch = applyOf (leaveFull (setApply (foldAll s ch) ch fun a => { a with fold := none }) ch) ch :=
    (hnudge.applyOf ch).trans (congrArg (lookD · ch _) happ)
  refine ⟨hnudge.mem.trans (hmem.trans hstands.mem), ?_, ?_, fun hfull => ?_, hnudge.commits.trans (hcommits.trans ?_)⟩
  · rw [hengine, hstands.fold, applyOf_setApply_same]
  · rw [hengine, hstands.queued, applyOf_setApply_same, ← hwrote.queued]
  · rw [hengine, leaveFull_of_not_full, applyOf_setApply_same]
    rw [applyOf_setApply_same, ← hfull, ← hwrote.full]
  · rw [hstands.commits, setApply_commits, hwrote.commits]

/-- FOLD_COMPLETE ends the fold, and begins the next one that waits, which leaves memory, the deltas and the commits alone. -/
theorem foldComplete_spec {c : Nat × Option Nat} (h : (applyOf s ch).fold = some c) :
    ∃ t, exec (.foldComplete ch) s = .next t ∧ t.mem = (foldAll s ch).mem ∧
      ((applyOf s ch).full = false → (applyOf t ch).deltas = (applyOf (foldAll s ch) ch).deltas) ∧
      ((applyOf s ch).queued = [] → (applyOf t ch).fold = none) ∧
      t.commits = alter s.commits c.1 (acknowledged c ch (applyOf (foldAll s ch) ch).met) := by
  obtain ⟨hmem, hfold, hqueued, hdeltas, hcommits⟩ := foldEnded_spec s ch c
  cases hq : (applyOf s ch).queued with
  | nil => exact ⟨_, exec_foldComplete_last h (hqueued.trans hq), hmem, hdeltas, fun _ => hfold, hcommits⟩
  | cons d rest =>
    refine ⟨_, exec_foldComplete_next h (hqueued.trans hq), hmem, fun hfull => ?_, fun hnil => absurd hnil (List.cons_ne_nil d rest), hcommits⟩
    rw [beginFold, (foldOn_onlyAgenda _ ch).applyOf, applyOf_setApply_same, applyOf_setApply_same]
    exact hdeltas hfull

/-! ## The fold of one delta (R174, R190) -/

theorem foldBlock_bad {part : Nat} (h : blockBad s part (512 * k) = true) (l : List Delta) :
    foldBlock s part k l = (poison s part (512 * k), some (k, if blockPoisoned s part (512 * k) then 1 else 0)) := by
  rw [foldBlock, if_pos h]

theorem foldBlock_single {part : Nat} {d : Delta} (h : blockBad s part (512 * (d.pa / 512)) = false) (hnear : d.spill = false) :
    foldBlock s part (d.pa / 512) [d] = (applyDelta s part d, none) := by
  have hspilled : spilled (d.pa / 512) [d] = false := by
    rw [spilled, spillDeltas, List.filter_cons_of_neg (by rw [hnear]; exact Bool.false_ne_true)]
    rfl
  rw [foldBlock, if_neg (Bool.eq_false_iff.1 h), hspilled, Bool.false_and, if_neg Bool.false_ne_true,
    List.filter_cons_of_pos (p := fun e : Delta => e.pa / 512 == d.pa / 512) (beq_self_eq_true _)]
  rfl

theorem foldAll_single (h : (applyOf s ch).todo = [k]) : foldAll s ch = foldNext s ch := by
  rw [foldAll, h]
  rfl

/-- A fold of one delta acts on its word, or poisons its block and says so. -/
theorem foldAll_delta {d : Delta} (hone : (applyOf s ch).deltas = [d]) (htodo : (applyOf s ch).todo = [d.pa / 512]) :
    let part := partOfQuarter s (quarterOfChannel ch)
    (blockBad s part (512 * (d.pa / 512)) = false → d.spill = false → (foldAll s ch).mem = (applyDelta s part d).mem) ∧
      (blockBad s part (512 * (d.pa / 512)) = true → (foldAll s ch).mem = (poison s part (512 * (d.pa / 512))).mem ∧
        ((applyOf s ch).met = none → (applyOf (foldAll s ch) ch).met =
          some (d.pa / 512, if blockPoisoned s part (512 * (d.pa / 512)) then 1 else 0))) := by
  intro part
  rw [foldAll_single htodo, foldNext_cons htodo, hone]
  refine ⟨fun hgood hnear => ?_, fun hbad => ?_⟩
  · rw [foldBlock_single hgood hnear]
    rfl
  · rw [foldBlock_bad hbad, applyOf_setApply_same]
    refine ⟨rfl, fun hmet => ?_⟩
    rw [wroteNext, hmet]

end Sys2Proof.Machine

namespace Sys2Proof.Certificates

open Sys2Proof Sys2Proof.Machine

/-- Settles O48: each clause is what the law of its step says; those of the steps of a fold rest on `Wrote` and `FoldStands`, those of
logs and bins on `OnlyBins`. -/
theorem deferredEvents : Obligations.DeferredEvents := by
  unfold Obligations.DeferredEvents
  intro s
  refine ⟨fun core => ⟨exec_logDrain_nil, fun c k l n rest hlog => ?_, fun ks r n rest hlog => ⟨fun hwait => ?_, fun hroom => ?_⟩⟩,
    fun sector bin hage hold hne hlen hopen => ?_, fun sector ks r hnil hstays => ⟨_, rfl, binEnter_of_empty hnil hstays⟩,
    fun ch ks r => ⟨fun hfull => ?_, record_held s ch ks r⟩, fun ch c k l => ⟨mark_taken s ch c k l, mark_held s ch c k l⟩,
    fun ch c q => ⟨fun hidle => ?_, fun hbusy => ?_⟩, fun ch hidle i hi => exec_fold_idle hidle hi,
    fun ch hbusy => ⟨foldReadYield_spec hbusy, foldRefreshYield_spec hbusy⟩, fun ch c q hfold => ?_, fun core ch full => ?_⟩
  · obtain ⟨t, hexec, hcore, hcommit⟩ := logDrain_mark_spec hlog
    exact ⟨t, hexec, by rw [hcore], by rw [hcore], fun m hm => ⟨_, hcommit m hm, rfl, rfl⟩⟩
  · exact ⟨_, exec_logDrain_waits hlog hwait.1 hwait.2, rfl, rfl, mem_agenda_postFree s 0 _⟩
  · refine ⟨_, exec_logDrain_record hlog hroom, by rw [coreOf_recorded]; rfl, by rw [coreOf_recorded]; exact mem_touching _ _,
      fun a => congrArg (memGet · a) (binEnter_onlyBins _ _ _).mem, fun hnil hstays => binEnter_of_empty hnil hstays⟩
  · refine ⟨_, exec_binAgeExpiry_aged hage hold, ?_⟩
    rw [shipBin_of_open hne hlen hopen]
    exact ⟨congrArg Bin.items (binOf_of_put (s := s) (b := { binOf s (256 * sector + bin) with items := [], due := false }) rfl), sendPacket_due _ _⟩
  · obtain ⟨t, hexec, hdeltas, hmem⟩ := record_taken s ch ks r hfull
    exact ⟨t, hexec, hdeltas, fun a => congrArg (memGet · a) hmem⟩
  · obtain ⟨t, hexec, hengine, hgoes⟩ := foldBegun_spec (c, q) hidle
    exact ⟨t, hexec, by rw [hengine]; rfl, by rw [hengine]; rfl, by rw [hengine]; rfl, hgoes⟩
  · refine ⟨_, exec_applyMarkerArrival_queues (c, q) hbusy, ?_, ?_⟩
    all_goals rw [applyOf_setApply_same]
  · obtain ⟨t, hexec, hmem, hdeltas, hlast, hcommits⟩ := foldComplete_spec hfold
    refine ⟨t, hexec, hmem, hdeltas, hlast, fun d hone htodo => ?_, fun m hm => ⟨acknowledged (c, q) ch (applyOf (foldAll s ch) ch).met m, ?_, rfl, rfl⟩⟩
    · rw [hmem]
      exact foldAll_delta hone htodo
    · rw [hcommits, look_alter, if_pos rfl]
      exact congrArg (Option.map _) hm
  · obtain ⟨t, hexec, hcore⟩ := exec_fullStateNotice s core ch full
    refine ⟨t, hexec, fun hf => ?_, fun hf => ?_, by rw [hcore]; rfl⟩
    · rw [hcore, noticed, hf]
      exact List.mem_cons_self
    · rw [hcore, noticed, hf]
      exact fun h => absurd (List.mem_filter.1 h).2 (by simp)

end Sys2Proof.Certificates
end

section
/-!
PROOF of O47, by refutation. A commit that answers a pod peer's marker and has met a fault is asked for its link after the fault is recorded
(R188, R191). The model's state holds device numbers of any size, and past those that a PODRT register names (R316) the number of such a
register is that under which another partition's fold-fault record is stored.
-/
namespace Sys2Proof.Machine

open Sys2Proof

set_option Elab.async false

/-- The number of a pod device whose PODRT register, as the model stores it, is DFLT0 of partition 1. -/
def strayDevice : Nat := csrKey 1 0x204 - 0x580

/-- A commit of partition 1 that is both the end of a grid and the answer to a marker of that device, has met a fault of a fold, and waits for
nothing. -/
def strayCommit : Commit :=
  { part := 1, beams := [], grid := some 1, origin := some (strayDevice, 5), logs := [], acks := [], pod := false, pods := [],
    started := true, fault := some (0, 0), seqHi := [], tickets := 0, extra := (0, []), moved := false, done := false }

/-- The machine after reset with that commit, link 0 of the pod enabled, and bit 7 set in DFLT0 of partition 1. -/
def strayPodState : State :=
  { csrPut (csrPut State.reset 0 0x540 0x100) 1 0x204 0x80 with commits := [(7, strayCommit)] }

/-- The device's link is asked for once the fault is recorded: the record has cleared the bit, and nothing is sent but the interrupt. -/
theorem strayCommit_sends {t : State} (h : exec (.commitComplete 7) strayPodState = .next t) : t.sent = [.msix 1] := by
  have hsent : (match exec (.commitComplete 7) strayPodState with
      | .next t => t.sent
      | .fault _ | .refused _ => []) = [.msix 1] := by decide
  rw [h] at hsent
  exact hsent

end Sys2Proof.Machine

namespace Sys2Proof.Certificates

open Sys2Proof Sys2Proof.Machine

/-- Refutes O47: the clause that a commit's acknowledgement goes to the device of its origin by the link that stood before. Device numbers have
no bound in the model's state, and the PODRT register of `strayDevice` is kept where DFLT0 of partition 1 is, which the fault of
`strayCommit` overwrites first (R191). -/
theorem not_commitsWait : ¬ Obligations.CommitsWait := by
  unfold Obligations.CommitsWait
  intro h
  obtain ⟨-, hcommits, -⟩ := h strayPodState
  obtain ⟨-, hends, -⟩ := hcommits 7 strayCommit rfl
  obtain ⟨t, hexec, -, -, hsent, -⟩ := hends rfl (by decide) List.nodup_nil
  have hmem := hsent strayDevice 5 0 rfl (by decide)
  rw [strayCommit_sends hexec] at hmem
  exact absurd hmem (by decide)

end Sys2Proof.Certificates
end

section
/-!
SUPPORT. What memory's operations leave of the cores' own parts: they fill, change and drop lines of the L1, and nothing else of a core.
-/
namespace Sys2Proof.Machine

open Sys2Proof

set_option Elab.async false

/-- A core's own part without its L1. -/
def besidesL1 (c : Core) : Core := { c with l1 := [] }

/-- The cores of t differ from those of s in the L1 alone. -/
def OnlyL1 (s t : State) : Prop := ∀ core, besidesL1 (coreOf t core) = besidesL1 (coreOf s core)

namespace OnlyL1

variable {s₀ s t u : State}

theorem refl (s : State) : OnlyL1 s s := fun _ => rfl

theorem trans (h : OnlyL1 s t) (g : OnlyL1 t u) : OnlyL1 s u := fun core => (g core).trans (h core)

theorem of_cores (h : t.cores = s.cores) : OnlyL1 s t := fun core => by rw [coreOf, h]; rfl

theorem ite {c : Prop} [Decidable c] (h : OnlyL1 s₀ s) (g : OnlyL1 s₀ t) : OnlyL1 s₀ (if c then s else t) := by
  split
  · exact h
  · exact g

theorem fold {α : Type} {f : State → α → State} {l : List α} (h : OnlyL1 s₀ s) (hf : ∀ {u a}, OnlyL1 s₀ u → OnlyL1 s₀ (f u a)) :
    OnlyL1 s₀ (l.foldl f s) := by
  induction l generalizing s with
  | nil => exact h
  | cons a l ih => exact ih (hf h)

/-- A change of the L1 of one core. -/
theorem setCore (h : OnlyL1 s₀ s) {core : Nat} {f : Core → Core} (hf : ∀ c, besidesL1 (f c) = besidesL1 c) :
    OnlyL1 s₀ (Machine.setCore s core f) := fun d => by
  by_cases hd : d = core
  · rw [hd, coreOf_setCore_same, hf, h core]
  · rw [coreOf_setCore_other _ _ _ _ hd, h d]

/-! ## Memory, the slices and L1 (R147, R148, R152) -/

theorem nearBlockWrite (h : OnlyL1 s₀ s) {part pa l} : OnlyL1 s₀ (Machine.nearBlockWrite s part pa l) := by
  unfold Machine.nearBlockWrite
  split <;> exact h

theorem poison (h : OnlyL1 s₀ s) {part pa} : OnlyL1 s₀ (Machine.poison s part pa) := by
  unfold Machine.poison
  split <;> exact h

theorem nearWrite (h : OnlyL1 s₀ s) {part pa l} : OnlyL1 s₀ (Machine.nearWrite s part pa l) := by
  unfold Machine.nearWrite
  split
  · exact h.nearBlockWrite
  · exact ite h.nearBlockWrite (ite h.nearBlockWrite h.nearBlockWrite)

theorem homeWrite (h : OnlyL1 s₀ s) {part pa l} : OnlyL1 s₀ (Machine.homeWrite s part pa l) := by
  unfold Machine.homeWrite
  dsimp only
  split
  · exact h
  · exact h.nearWrite

theorem writeRuns (h : OnlyL1 s₀ s) {w : State → Nat → List Byte → State} (hw : ∀ {s a l}, OnlyL1 s₀ s → OnlyL1 s₀ (w s a l)) {base r} :
    OnlyL1 s₀ (Machine.writeRuns w s base r) := h.fold hw

theorem homeDrop (h : OnlyL1 s₀ s) {part pa} : OnlyL1 s₀ (Machine.homeDrop s part pa) := by
  unfold Machine.homeDrop
  dsimp only
  split
  · exact h.writeRuns (fun h => h.nearWrite)
  · exact h

theorem blockWrite (h : OnlyL1 s₀ s) {part pa l} : OnlyL1 s₀ (Machine.blockWrite s part pa l) := by
  refine nearWrite ?_
  exact h

theorem outerWrite (h : OnlyL1 s₀ s) {apc pa l} : OnlyL1 s₀ (Machine.outerWrite s apc pa l) := ite h.homeWrite h

theorem copyBack (h : OnlyL1 s₀ s) {part apc pa x d} : OnlyL1 s₀ (Machine.copyBack s part apc pa x d) :=
  h.writeRuns (fun h => ite h.homeWrite h.outerWrite)

theorem evictL2 (h : OnlyL1 s₀ s) {key} : OnlyL1 s₀ (Machine.evictL2 s key) := by
  unfold Machine.evictL2
  dsimp only
  split
  · exact h
  · exact ite h (ite h.copyBack h.homeDrop)

theorem l2Fill (h : OnlyL1 s₀ s) {k x} : OnlyL1 s₀ (Machine.l2Fill s k x) := ite h (ite h h.evictL2)

theorem sliceRead (h : OnlyL1 s₀ s) {sector apc pa n} : OnlyL1 s₀ (Machine.sliceRead s sector apc pa n).2 := by
  unfold Machine.sliceRead
  dsimp only
  split
  · exact h
  · exact ite h h.l2Fill

theorem sliceWrite (h : OnlyL1 s₀ s) {sector apc pa l} : OnlyL1 s₀ (Machine.sliceWrite s sector apc pa l) := by
  unfold Machine.sliceWrite
  dsimp only
  split
  · exact h.sliceRead
  · exact ite h.sliceRead.homeWrite h.sliceRead.outerWrite

theorem outerThrough (h : OnlyL1 s₀ s) {sector apc pa l} : OnlyL1 s₀ (Machine.outerThrough s sector apc pa l) := by
  unfold Machine.outerThrough
  dsimp only
  split
  · exact h.outerWrite
  · split <;> exact h.outerWrite

theorem throughWrite (h : OnlyL1 s₀ s) {sector pa l} : OnlyL1 s₀ (Machine.throughWrite s sector pa l) := by
  unfold Machine.throughWrite
  refine ite ?_ h.homeWrite
  dsimp only
  split <;> exact h.homeWrite

theorem syncSector (h : OnlyL1 s₀ s) {sector which dropIt} : OnlyL1 s₀ (Machine.syncSector s sector which dropIt) := by
  refine h.fold fun h => ?_
  dsimp only
  refine ite ?_ h
  split
  · exact ite h (ite h.copyBack h.copyBack)
  · exact h

theorem releaseCaches (h : OnlyL1 s₀ s) {sector sc} : OnlyL1 s₀ (Machine.releaseCaches s sector sc) := by
  cases sc with
  | bm | blk | gang => exact h
  | dev | pod | sys => exact h.syncSector

theorem l1Read (h : OnlyL1 s₀ s) {core pa n const} : OnlyL1 s₀ (Machine.l1Read s core pa n const).2 := by
  unfold Machine.l1Read
  split
  · exact h
  · exact ite h.sliceRead (h.sliceRead.setCore fun _ => rfl)

theorem l1Update (h : OnlyL1 s₀ s) {core pa l} : OnlyL1 s₀ (Machine.l1Update s core pa l) := by
  unfold Machine.l1Update
  split
  · exact h.setCore fun _ => rfl
  · exact h

theorem l1Drop (h : OnlyL1 s₀ s) {core pa} : OnlyL1 s₀ (Machine.l1Drop s core pa) := h.setCore fun _ => rfl

theorem l1DropConst (h : OnlyL1 s₀ s) {core pa} : OnlyL1 s₀ (Machine.l1DropConst s core pa) := h.setCore fun _ => rfl

theorem ownCopyBack (h : OnlyL1 s₀ s) {sector apc pa dropIt} : OnlyL1 s₀ (Machine.ownCopyBack s sector apc pa dropIt) := by
  unfold Machine.ownCopyBack
  refine ite ?_ h
  dsimp only
  split
  · exact ite h.copyBack h.copyBack
  · exact h

theorem homePut {part} : ∀ {fuel s pa l}, OnlyL1 s₀ s → OnlyL1 s₀ (Machine.homePut s part fuel pa l)
  | 0, _, _, _, h => h
  | _ + 1, _, _, _, h => ite h (ite (homePut h.blockWrite) (homePut h.homeWrite))

/-! ## Accesses (R150, R161-R167) -/

theorem noteAlias (h : OnlyL1 s₀ s) {core t old new} : OnlyL1 s₀ (Machine.noteAlias s core t old new) := by
  unfold Machine.noteAlias
  split <;> exact h

theorem aliasMix (h : OnlyL1 s₀ s) {core t l} : OnlyL1 s₀ (Machine.aliasMix s core t l).2 := by
  unfold Machine.aliasMix
  dsimp only
  split <;> exact h

theorem iteSnd {α : Type} {c : Prop} [Decidable c] {r q : α × State} (h : OnlyL1 s₀ r.2) (g : OnlyL1 s₀ q.2) :
    OnlyL1 s₀ (if c then r else q).2 := by
  split
  · exact h
  · exact g

theorem loadBytes (h : OnlyL1 s₀ s) {core t sc const n} : OnlyL1 s₀ (Machine.loadBytes s core t sc const n).2 := by
  unfold Machine.loadBytes
  dsimp only
  split
  · refine iteSnd (iteSnd h h) (iteSnd (iteSnd h h) (iteSnd h ?_))
    cases sc with
    | bm | blk => exact h.l1Read
    | gang => exact h.sliceRead
    | dev | pod | sys => exact h.ownCopyBack
  · exact iteSnd h (iteSnd h (iteSnd h h))
  · refine iteSnd h (iteSnd h ?_)
    cases sc with
    | bm | blk | gang => exact h.sliceRead
    | dev | pod | sys => exact h.ownCopyBack

theorem loadPath (h : OnlyL1 s₀ s) {core t sc const n} : OnlyL1 s₀ (Machine.loadPath s core t sc const n).2 := by
  have hbytes := h.loadBytes (core := core) (t := t) (sc := sc) (const := const) (n := n)
  unfold Machine.loadPath
  split
  next heq => rw [heq] at hbytes; exact hbytes
  next heq => rw [heq] at hbytes; exact aliasMix hbytes

theorem storeBytes (h : OnlyL1 s₀ s) {core t sc l} : OnlyL1 s₀ (Machine.storeBytes s core t sc l) := by
  unfold Machine.storeBytes
  dsimp only
  split
  · refine ite h.l1DropConst.homeWrite ?_
    cases sc with
    | bm | blk | gang => exact h.l1Update.sliceWrite
    | dev | pod | sys => exact h.l1Update.throughWrite
  · exact ite h (ite h.nearWrite h)
  · refine ite h.outerWrite ?_
    cases sc with
    | bm | blk | gang => exact h.sliceWrite
    | dev | pod | sys => exact h.outerThrough

theorem storePath (h : OnlyL1 s₀ s) {core t sc l} : OnlyL1 s₀ (Machine.storePath s core t sc l) := h.noteAlias.storeBytes

theorem promote (h : OnlyL1 s₀ s) {part apc pa} : OnlyL1 s₀ (Machine.promote s part apc pa) := h.fold fun h => h.syncSector.ownCopyBack

theorem atomWrite (h : OnlyL1 s₀ s) {core t bytes old v w} (hw : ∀ {s l}, OnlyL1 s₀ s → OnlyL1 s₀ (w s l)) :
    OnlyL1 s₀ (Machine.atomWrite s core t bytes old v w) := by
  cases v with
  | none => exact h
  | some _ => exact hw h.noteAlias

theorem nearAtom (h : OnlyL1 s₀ s) {part pa core t bytes f} : OnlyL1 s₀ (Machine.nearAtom s part pa core t bytes f).2 :=
  iteSnd h.homeDrop (h.homeDrop.atomWrite fun h => h.nearWrite)

theorem atomPath (h : OnlyL1 s₀ s) {core t bytes q f} : OnlyL1 s₀ (Machine.atomPath s core t bytes q f).2 := by
  have hpromote : ∀ {u : State} {part apc pa : Nat}, OnlyL1 s₀ u →
      OnlyL1 s₀ (if q.prm && wideScope q.scope then Machine.promote u part apc pa else u) := fun hu => ite hu.promote hu
  unfold Machine.atomPath
  dsimp only
  split
  · exact iteSnd (iteSnd h.l1Drop (h.l1Drop.sliceRead.atomWrite fun h => h.sliceWrite)) (hpromote h.l1Drop).ownCopyBack.nearAtom
  · exact h
  · have hback := (hpromote h (part := partOfCore s core) (apc := tgApc t) (pa := tgPa t)).ownCopyBack (sector := core / 4)
      (apc := tgApc t) (pa := tgPa t) (dropIt := true)
    exact iteSnd hback.nearAtom (iteSnd hback (hback.atomWrite fun h => h.outerWrite))

/-! ## Performing (R86, R159, R161) -/

theorem performLane (h : OnlyL1 s₀ s) {core k l} : OnlyL1 s₀ (Machine.performLane s core k l).2 := by
  cases k with
  | result | parked | again | loadLocal => exact h
  | load n sc const =>
    have hpath := h.loadPath (core := core) (t := l.target) (sc := sc) (const := const) (n := n)
    unfold Machine.performLane
    dsimp only
    split
    all_goals (next heq => rw [heq] at hpath; exact hpath)
  | atomic n op q =>
    have hpath := h.atomPath (core := core) (t := l.target) (bytes := n) (q := q) (f := atomicNew op n l.data)
    unfold Machine.performLane
    dsimp only
    split
    all_goals (next heq => rw [heq] at hpath; exact hpath)

theorem performLanes {core k} : ∀ {ls s}, OnlyL1 s₀ s → OnlyL1 s₀ (Machine.performLanes core k s ls).1
  | [], _, h => h
  | l :: ls, s, h => by
    have hlane := h.performLane (core := core) (k := k) (l := l)
    unfold Machine.performLanes
    split
    all_goals (next heq => rw [heq] at hlane; exact performLanes hlane)

theorem onBeam (h : OnlyL1 s₀ s) {k f} : OnlyL1 s₀ (Machine.onBeam s k f) := h

theorem performPend (h : OnlyL1 s₀ s) {k p} : OnlyL1 s₀ (Machine.performPend s k p) := ite h (ite h.performLanes h.performLanes)

theorem redPiece (h : OnlyL1 s₀ s) {core op q p} : OnlyL1 s₀ (Machine.redPiece s core op q p).1 := by
  have hpath := h.atomPath (core := core) (t := p.target) (bytes := p.bytes.length) (q := q)
    (f := fun old => some (atomNew op (8 * p.bytes.length) old (leNat p.bytes)))
  unfold Machine.redPiece
  dsimp only
  split
  next heq => rw [heq] at hpath; exact hpath
  next heq =>
    rw [heq] at hpath
    split
    · exact hpath
    · split <;> exact hpath.poison

theorem performPieces {core x} : ∀ {ps : List Piece} {r : State × List (Nat × Nat)}, OnlyL1 s₀ r.1 →
    OnlyL1 s₀ (ps.foldl (performPiece core x) r).1
  | [], _, h => h
  | p :: ps, r, h => by
    refine performPieces (ps := ps) ?_
    unfold performPiece
    split
    · exact h.storePath
    · exact h
    · exact h.redPiece

theorem performStore (h : OnlyL1 s₀ s) {k x} : OnlyL1 s₀ (Machine.performStore s k x) := by
  have hpieces := performPieces (core := k / 64) (x := x) (ps := x.pieces) (r := (s, [])) h
  exact ite h (ite hpieces hpieces)

theorem performWhere (h : OnlyL1 s₀ s) {k f} : OnlyL1 s₀ (Machine.performWhere s k f) := by
  unfold Machine.performWhere
  split
  · exact h
  · exact h.fold fun h => h.performPend

theorem drainWhere (h : OnlyL1 s₀ s) {k f} : OnlyL1 s₀ (Machine.drainWhere s k f) := by
  unfold Machine.drainWhere
  split
  · exact h
  · exact h.fold fun h => h.performStore

theorem performAll (h : OnlyL1 s₀ s) {k} : OnlyL1 s₀ (Machine.performAll s k) := h.performWhere.drainWhere

theorem settleCluster (h : OnlyL1 s₀ s) {core} : OnlyL1 s₀ (Machine.settleCluster s core) := h.fold fun h => ite h.performAll h

/-! ## Engines (R148, R201, R278) -/

theorem engineDrop (h : OnlyL1 s₀ s) {core pa} : OnlyL1 s₀ (Machine.engineDrop s core pa) := h.ownCopyBack.l1Drop

theorem engineWrite {core pages} : ∀ {fuel s va l}, OnlyL1 s₀ s → OnlyL1 s₀ (Machine.engineWrite core pages fuel s va l)
  | 0, _, _, _, h => h
  | _ + 1, _, _, _, h => ite h (ite (engineWrite (h.fold fun h => h.engineDrop).blockWrite) (engineWrite h.engineDrop.homeWrite))

theorem rangePut (h : OnlyL1 s₀ s) {core pages r off l} : OnlyL1 s₀ (Machine.rangePut s core pages r off l) := ite h h.engineWrite

theorem putRest {core pages r written} : ∀ {fuel s off l}, OnlyL1 s₀ s → OnlyL1 s₀ (Machine.putRest core pages r written fuel s off l)
  | 0, _, _, _, h => h
  | _ + 1, _, _, _, h => ite h (putRest (ite (h.fold fun h => ite h h.rangePut) h.rangePut))

theorem rangeFinish (h : OnlyL1 s₀ s) {core pages r off written l} : OnlyL1 s₀ (Machine.rangeFinish s core pages r off written l) :=
  ite h.rangePut h.putRest

end OnlyL1

end Sys2Proof.Machine
end

section
/-!
SUPPORT. Buffer handles, range locks and the operations of a core's engines (R193-R197): what each operation on them leaves of the others.
-/
namespace Sys2Proof.Machine

open Sys2Proof

set_option Elab.async false

variable {s t u : State} {core e inst d j : Nat}

/-! ## What a core's own part tells of its engines (R194-R197) -/

@[simp] theorem lookD_put_same {α : Type} (m : NMap α) (k : Nat) (v d : α) : lookD (put m k v) k d = v := by
  rw [lookD, look_put_same]

theorem coreOf_setCore (s : State) (core d : Nat) (f : Core → Core) :
    coreOf (setCore s core f) d = if d = core then f (coreOf s core) else coreOf s d := by
  split
  next h => rw [h, coreOf_setCore_same]
  next h => exact coreOf_setCore_other s core d f h

/-- A part of the cores that a change of one core leaves alone. -/
theorem part_setCore {α : Type} (g : Core → α) {f : Core → Core} (hf : g (f (coreOf s core)) = g (coreOf s core)) (d : Nat) :
    g (coreOf (setCore s core f) d) = g (coreOf s d) := by
  rw [coreOf_setCore]
  split
  next h => rw [hf, h]
  next => rfl

/-- The cores of t hold the handles, the operations and the locks of those of s. -/
structure SameEngines (s t : State) : Prop where
  handles : ∀ core, (coreOf t core).handles = (coreOf s core).handles
  copies : ∀ core, (coreOf t core).copies = (coreOf s core).copies
  locks : ∀ core, (coreOf t core).locks = (coreOf s core).locks

namespace SameEngines

theorem refl (s : State) : SameEngines s s := ⟨fun _ => rfl, fun _ => rfl, fun _ => rfl⟩

theorem trans (h : SameEngines s t) (g : SameEngines t u) : SameEngines s u :=
  ⟨fun c => (g.handles c).trans (h.handles c), fun c => (g.copies c).trans (h.copies c), fun c => (g.locks c).trans (h.locks c)⟩

theorem of_cores (h : t.cores = s.cores) : SameEngines s t := by
  have hcore : ∀ c, coreOf t c = coreOf s c := fun c => congrArg (lookD · c _) h
  exact ⟨fun c => by rw [hcore], fun c => by rw [hcore], fun c => by rw [hcore]⟩

theorem handleAt (h : SameEngines s t) (core e : Nat) : handleAt t core e = handleAt s core e := by
  rw [Machine.handleAt, Machine.handleAt, h.handles]

theorem opOf (h : SameEngines s t) (core e inst : Nat) : opOf t core e inst = opOf s core e inst := by
  rw [Machine.opOf, Machine.opOf, h.copies]

theorem offlActive (h : SameEngines s t) (core e : Nat) : offlActive t core e = offlActive s core e := by
  rw [Machine.offlActive, Machine.offlActive, h.copies]

end SameEngines

/-- A part of the cores that does not read the L1. -/
theorem OnlyL1.part {α : Type} (h : OnlyL1 s t) (g : Core → α) (hg : ∀ c, g (besidesL1 c) = g c) (core : Nat) :
    g (coreOf t core) = g (coreOf s core) := by
  rw [← hg, h core, hg]

theorem OnlyL1.sameEngines (h : OnlyL1 s t) : SameEngines s t :=
  ⟨h.part Core.handles fun _ => rfl, h.part Core.copies fun _ => rfl, h.part Core.locks fun _ => rfl⟩

/-- A change of what a core has beside them. -/
theorem setCore_sameEngines (s : State) (core : Nat) {f : Core → Core}
    (hf : ∀ c, (f c).handles = c.handles ∧ (f c).copies = c.copies ∧ (f c).locks = c.locks) : SameEngines s (setCore s core f) :=
  ⟨part_setCore Core.handles (hf _).1, part_setCore Core.copies (hf _).2.1, part_setCore Core.locks (hf _).2.2⟩

/-! ## Handles (R194-R196) -/

theorem handleAt_setHandle (s : State) (core e d j : Nat) (f : Handle → Handle) :
    handleAt (setHandle s core e f) d j = if d = core ∧ j = e then f (handleAt s core e) else handleAt s d j := by
  by_cases hd : d = core
  · subst hd
    rw [handleAt, setHandle, coreOf_setCore_same, lookD, look_put]
    by_cases hj : j = e
    · subst hj
      rw [if_pos rfl, if_pos ⟨rfl, rfl⟩]
      rfl
    · rw [if_neg hj, if_neg fun h => hj h.2]
      rfl
  · rw [if_neg fun h => hd h.1, handleAt, setHandle, coreOf_setCore_other _ _ _ _ hd]
    rfl

theorem handleAt_setHandle_other (h : ¬ (d = core ∧ j = e)) (s : State) (f : Handle → Handle) :
    handleAt (setHandle s core e f) d j = handleAt s d j := by
  rw [handleAt_setHandle, if_neg h]

@[simp] theorem copies_setHandle (s : State) (core e : Nat) (f : Handle → Handle) (d : Nat) :
    (coreOf (setHandle s core e f) d).copies = (coreOf s d).copies := part_setCore Core.copies rfl d

@[simp] theorem locks_setHandle (s : State) (core e : Nat) (f : Handle → Handle) (d : Nat) :
    (coreOf (setHandle s core e f) d).locks = (coreOf s d).locks := part_setCore Core.locks rfl d

theorem setHandle_onlyWalks (s : State) (core e : Nat) (f : Handle → Handle) : OnlyWalks s (setHandle s core e f) := rfl

/-- Packets that wait on a handle are judged again, and gangs that wait are looked at: steps are posted, and nothing else changes. -/
theorem handleMoved_onlyAgenda (s : State) : OnlyAgenda s (handleMoved s) :=
  OnlyAgenda.trans (t := post s 0 .dependencePoll) rfl (nudge_onlyAgenda _)

theorem handleMoved_onlyWalks (s : State) : OnlyWalks s (handleMoved s) := by
  unfold OnlyWalks
  rw [handleMoved_onlyAgenda s]

@[simp] theorem coreOf_handleMoved (s : State) (core : Nat) : coreOf (handleMoved s) core = coreOf s core := by
  rw [handleMoved_onlyAgenda s]
  rfl

@[simp] theorem handleAt_handleMoved (s : State) (core e : Nat) : handleAt (handleMoved s) core e = handleAt s core e := by
  rw [handleAt, coreOf_handleMoved]
  rfl

/-! ## Locks and operations (R195, R197) -/

/-- No lock of the operation that owns a table entry is left (R195). -/
def Unlocked (s : State) (core e : Nat) : Prop := ∀ k, ∀ l ∈ (coreOf s k).locks, ¬ (l.core = core ∧ l.entry = e)

theorem Unlocked.of_locks (h : Unlocked s core e) (hl : ∀ k, (coreOf t k).locks = (coreOf s k).locks) : Unlocked t core e :=
  fun k l hmem => h k l (hl k ▸ hmem)

theorem coreOf_dropLocks (s : State) (core e d : Nat) :
    coreOf (dropLocks s core e) d = { coreOf s d with locks := (coreOf s d).locks.filter fun l => !(l.core == core && l.entry == e) } := by
  rw [coreOf, coreOf, dropLocks, lookD, lookD, look_map_snd]
  cases look s.cores d <;> rfl

theorem unlocked_dropLocks (s : State) (core e : Nat) : Unlocked (dropLocks s core e) core e := by
  intro k l hl
  rw [coreOf_dropLocks] at hl
  have hne := (List.mem_filter.1 hl).2
  simpa [imp_iff_not_or] using hne

@[simp] theorem handleAt_dropLocks (s : State) (core e d j : Nat) : handleAt (dropLocks s core e) d j = handleAt s d j := by
  rw [handleAt, coreOf_dropLocks]
  rfl

@[simp] theorem copies_dropLocks (s : State) (core e d : Nat) : (coreOf (dropLocks s core e) d).copies = (coreOf s d).copies := by
  rw [coreOf_dropLocks]

@[simp] theorem handleAt_dropOp (s : State) (core e inst d j : Nat) : handleAt (dropOp s core e inst) d j = handleAt s d j := by
  rw [handleAt, dropOp, part_setCore Core.handles rfl]
  rfl

@[simp] theorem locks_dropOp (s : State) (core e inst d : Nat) : (coreOf (dropOp s core e inst) d).locks = (coreOf s d).locks :=
  part_setCore Core.locks rfl d

theorem copies_dropOp (s : State) (core e inst : Nat) : (coreOf (dropOp s core e inst) core).copies =
    (coreOf s core).copies.filter fun o => !(o.handle == some e && o.inst == inst) := by
  rw [dropOp, coreOf_setCore_same]

/-- An operation that has ended is the core's no more. -/
theorem opOf_dropOp (s : State) (core e inst : Nat) : opOf (dropOp s core e inst) core e inst = none := by
  rw [opOf, copies_dropOp, List.find?_eq_none]
  intro o ho
  have hne := (List.mem_filter.1 ho).2
  simpa [imp_iff_not_or] using hne

theorem offlActive_congr (h : (coreOf t core).copies = (coreOf s core).copies) (e : Nat) : offlActive t core e = offlActive s core e := by
  rw [offlActive, offlActive, h]

/-! ## Readers, and handles that are filled (R195) -/

/-- What a handle becomes that leaves Draining. -/
def settled (h : Handle) : Handle :=
  if h.pf then { h with state := .free, pf := false } else { h with state := .full, wasFull := h.wasFull || h.err == 0 }

theorem settleDrain_of_idle (hd : (handleAt s core e).state = .draining) (hn : (handleAt s core e).drn = 0)
    (ho : offlActive s core e = false) : settleDrain s core e = handleMoved (setHandle s core e settled) :=
  if_pos ⟨hd, hn, ho⟩

/-- A handle that may leave Draining: another part of the cores stays as it is. -/
theorem part_settleDrain {α : Type} (g : Core → α) (hg : ∀ (c : Core) (h w : NMap Handle), g { c with handles := h, were := w } = g c)
    (s : State) (core e d : Nat) : g (coreOf (settleDrain s core e) d) = g (coreOf s d) := by
  unfold settleDrain
  dsimp only
  split
  · rw [coreOf_handleMoved]
    exact part_setCore g (hg _ _ _) d
  · rfl

theorem settleDrain_onlyWalks (s : State) (core e : Nat) : OnlyWalks s (settleDrain s core e) := by
  unfold settleDrain
  dsimp only
  split
  · exact (setHandle_onlyWalks s core e _).trans (handleMoved_onlyWalks _)
  · exact .refl s

theorem part_readerDone {α : Type} (g : Core → α) (hg : ∀ (c : Core) (h w : NMap Handle), g { c with handles := h, were := w } = g c)
    (s : State) (core : Nat) (src : Option Nat) (inst d : Nat) : g (coreOf (readerDone s core src inst) d) = g (coreOf s d) := by
  unfold readerDone
  split
  · rfl
  · split
    · rw [part_settleDrain g hg]
      exact part_setCore g (hg _ _ _) d
    · rfl

theorem readerDone_onlyWalks (s : State) (core : Nat) (src : Option Nat) (inst : Nat) : OnlyWalks s (readerDone s core src inst) := by
  unfold readerDone
  split
  · exact .refl s
  · split
    · exact (setHandle_onlyWalks s core _ _).trans (settleDrain_onlyWalks _ core _)
    · exact .refl s

/-- The handle that an operation has filled, or failed to. -/
def filled (err nvs : Nat) (eva : DWord) (h : Handle) : Handle :=
  { h with state := .full, err := err, nvs := nvs, eva := if err = 0 then 0 else eva, remain := 0, wasFull := err == 0 }

section Filled

variable (s : State) (core e err nvs : Nat) (eva : DWord)

theorem fillDone_onlyWalks : OnlyWalks s (fillDone s core e err nvs eva) :=
  OnlyWalks.trans (t := dropLocks (setHandle s core e (filled err nvs eva)) core e) rfl (handleMoved_onlyWalks _)

theorem handleAt_fillDone : handleAt (fillDone s core e err nvs eva) core e = filled err nvs eva (handleAt s core e) := by
  rw [fillDone, handleAt_handleMoved, handleAt_dropLocks, handleAt_setHandle_same]
  rfl

theorem unlocked_fillDone : Unlocked (fillDone s core e err nvs eva) core e := by
  intro k l hl
  rw [fillDone, coreOf_handleMoved] at hl
  exact unlocked_dropLocks _ core e k l hl

theorem copies_fillDone (d : Nat) : (coreOf (fillDone s core e err nvs eva) d).copies = (coreOf s d).copies := by
  rw [fillDone, coreOf_handleMoved, copies_dropLocks, copies_setHandle]

end Filled

end Sys2Proof.Machine
end

section
/-!
PROOF of O49. BFREE, BTEST and BWAIT (R195, R196): what the effect of each is for a handle of the block, and for one the block does not
have.
-/
namespace Sys2Proof.Machine

open Sys2Proof

set_option Elab.async false

/-- An effect that leaves the beam's lanes alone ends with the run's advance, and beside the beam and the counts of the issue the
machine is as the effect left it. -/
theorem exec_of_effect {s u : State} {x : Sel} {i : Instr} {e : Effect} {c : Beam} (ht : Turn s x) (hi : exec i s = issue 4 e s)
    (he : e x s = .done u []) (hc : beamOf u x.key = some c) (hl : c.lanes = x.beam.lanes) :
    ∃ t b, exec i s = .next t ∧ beamOf t x.key = some b ∧ Advanced x b ∧ t.cores = u.cores ∧ t.mem = u.mem ∧ t.agenda = u.agenda ∧
      t.decodeQ = u.decodeQ :=
  ⟨_, _, exec_done_eq ht hi he hc (by rw [lanesIn, hl]; exact selected_runnable ht.1), beamOf_advanced u x c, advanced_finished ht hl,
    rfl, rfl, rfl, rfl⟩

theorem exec_held {s u : State} {x : Sel} {i : Instr} {e : Effect} (ht : Turn s x) (hi : exec i s = issue 4 e s)
    (he : e x s = .hold u) : exec i s = .next (waited u x) := by
  rw [hi, issue_selected ht.1, he]
  rfl

/-! ## BFREE (R195) -/

theorem freeHandle_onlyWalks (s : State) (core e : Nat) : OnlyWalks s (freeHandle s core e) := by
  unfold freeHandle
  split
  · exact .refl s
  · exact .refl s
  · exact (setHandle_onlyWalks s core e _).trans (handleMoved_onlyWalks _)
  · exact setHandle_onlyWalks s core e _

/-- What BFREE makes of a handle. -/
def freed (h : Handle) : Handle :=
  match h.state with
  | .free | .filling => h
  | .full => { h with state := .free }
  | .draining => { h with pf := true }

theorem freed_of_full {h : Handle} (hs : h.state = .full) : freed h = { h with state := .free } := by
  rw [freed, hs]

theorem freed_of_draining {h : Handle} (hs : h.state = .draining) : freed h = { h with pf := true } := by
  rw [freed, hs]

theorem freed_of_other {h : Handle} (hs : h.state = .free ∨ h.state = .filling) : freed h = h := by
  obtain hs | hs := hs <;> rw [freed, hs]

theorem handleAt_freeHandle (s : State) (core e : Nat) : handleAt (freeHandle s core e) core e = freed (handleAt s core e) := by
  unfold freeHandle freed
  cases hst : (handleAt s core e).state with
  | free | filling => rfl
  | full => exact (handleAt_handleMoved _ core e).trans (handleAt_setHandle_same s core e _)
  | draining =>
    dsimp only
    rw [handleAt_setHandle_same, hst]

theorem exec_bfree_frees {s : State} {x : Sel} {h e : Nat} (ht : Turn s x) (he : effBfree h x s = .done (freeHandle s (selCore x) e) []) :
    ∃ t b, exec (.bfree h) s = .next t ∧ beamOf t x.key = some b ∧ Advanced x b ∧ t.mem = s.mem ∧
      handleAt t (selCore x) e = freed (handleAt s (selCore x) e) := by
  have hw := freeHandle_onlyWalks s (selCore x) e
  have hb : beamOf (freeHandle s (selCore x) e) x.key = some x.beam := by rw [beamOf, hw.beams]; exact ht.2
  obtain ⟨t, b, hexec, hbeam, hadv, hcores, hmem, -⟩ := exec_of_effect (i := .bfree h) ht rfl he hb rfl
  refine ⟨t, b, hexec, hbeam, hadv, hmem.trans (by rw [hw]), ?_⟩
  rw [(SameEngines.of_cores hcores).handleAt, handleAt_freeHandle]

/-! ## BTEST (R196) -/

/-- The lanes of the run take a predicate and go on. -/
theorem exec_sets_pred {s : State} {x : Sel} {i : Instr} {e : Effect} {pd : Nat} {v : Bool} (ht : Turn s x) (hi : exec i s = issue 4 e s)
    (he : e x s = .done (onLanes s x.key x.run fun _ l => laneSetPred l pd v) []) :
    ∃ t b, exec i s = .next t ∧ beamOf t x.key = some b ∧ SameOutside s t x.key ∧
      ∀ j, SameButRegs (laneOf x.beam j) (laneOf b j) [] ∧ (j ∈ x.run →
        (laneOf b j).pc = (laneOf x.beam j).pc + 4 ∧ (laneOf b j).preds = (laneSetPred (laneOf x.beam j) pd v).preds) := by
  have hrun : ∀ j ∈ x.run, j < x.beam.lanes.length := fun j hj => run_lt ht.1 hj
  have hlanes := runnable_beamLanes (b := x.beam) (on := x.run) (f := fun _ l => laneSetPred l pd v) (fun _ _ => laneSetPred_state ..)
    (selected_runnable ht.1)
  rw [onLanes, onBeam_some ht.2] at he
  obtain ⟨hb, hout, -⟩ := finish_done 4 (beamOf_setBeam_same s x.key (beamLanes x.beam x.run fun _ l => laneSetPred l pd v)) hlanes
  refine ⟨_, _, by rw [hi, issue_selected ht.1, he], hb, SameOutside.trans (setBeam_sameOutside s x.key _) hout, fun j => ?_⟩
  rw [laneOf_finished (by simpa [beamLanes, mapLanes_length] using hrun), laneOf_beamLanes_of_lt hrun]
  by_cases hj : j ∈ x.run
  · rw [if_pos hj, if_pos hj]
    refine ⟨sameButRegs_laneSetPred _ pd v, fun _ => ⟨?_, rfl⟩⟩
    show (laneSetPred (laneOf x.beam j) pd v).pc + 4 = _
    unfold laneSetPred
    split
    · rfl
    · split <;> rfl
  · rw [if_neg hj, if_neg hj]
    exact ⟨Machine.SameButRegs.refl _, fun h => absurd h hj⟩

end Sys2Proof.Machine

namespace Sys2Proof.Certificates

open Sys2Proof Sys2Proof.Machine

/-- Settles O49, by the effect of each instruction in each state of the handle. -/
theorem bufferStates : Obligations.BufferStates := by
  unfold Obligations.BufferStates
  intro s x bl g gr h ht hh
  dsimp only
  refine ⟨fun e he => ?_, fun he i hi => ?_⟩
  · refine ⟨fun hy => ?_, fun hy => ?_, fun hy => ?_, fun st pd => ?_, fun hy => ⟨?_, ?_⟩, fun hy => ⟨?_, ?_⟩,
      fun hy => ⟨?_, fun hpf => ?_, fun hpf => ?_⟩, fun hy herr => ⟨?_, ?_⟩, fun hy herr i hi => ?_⟩
    · exact exec_done ht rfl (e := effBfree h) (by simp only [effBfree, hh, he, hy])
    · have hdone : effBfree h x s = .done (freeHandle s (selCore x) e) [] := by
        obtain hy | hy := hy <;> simp only [effBfree, hh, he, hy]
      obtain ⟨t, b, hexec, hb, hadv, hmem, hat⟩ := exec_bfree_frees ht hdone
      refine ⟨t, b, hexec, hb, hadv, hmem, fun hw => ?_, fun hw => ?_, fun hw => ?_⟩
      · rw [hat, freed_of_full hw]
      · rw [hat, freed_of_draining hw]
      · rw [hat, freed_of_other hw]
    · exact exec_trap ht rfl (e := effBfree h) (by simp only [effBfree, hh, he, hy])
    · exact exec_sets_pred ht rfl (e := effBtest st h pd) (by simp only [effBtest, hh, he])
    · exact exec_done ht rfl (e := effBwaitFree h) (by simp only [effBwaitFree, hh, he, hy])
    · exact exec_trap ht rfl (e := effBwaitFull h) (by simp only [effBwaitFull, hh, he, hy])
    · exact exec_trap ht rfl (e := effBwaitFree h) (by simp only [effBwaitFree, hh, he, hy])
    · exact exec_held ht rfl (e := effBwaitFull h) (by simp only [effBwaitFull, hh, he, hy])
    · exact exec_done ht rfl (e := effBwaitFull h) (by simp only [effBwaitFull, hh, he, hy])
    · exact exec_held ht rfl (e := effBwaitFree h) (by simp only [effBwaitFree, hh, he, hy, hpf, if_true])
    · exact exec_trap ht rfl (e := effBwaitFree h) (by simp only [effBwaitFree, hh, he, hy, hpf, Bool.false_eq_true, if_false])
    · exact exec_done ht rfl (e := effBwaitFull h) (by simp only [effBwaitFull, hh, he, hy, herr, if_true])
    · exact exec_trap ht rfl (e := effBwaitFree h) (by simp only [effBwaitFree, hh, he, hy, herr, if_true])
    · obtain rfl | rfl := hi
      · exact exec_trap ht rfl (e := effBwaitFree h) (by simp only [effBwaitFree, hh, he, hy, herr, if_false, errorTrap])
      · exact exec_trap ht rfl (e := effBwaitFull h) (by simp only [effBwaitFull, hh, he, hy, herr, if_false, errorTrap])
  · obtain rfl | rfl | rfl | ⟨st, pd, rfl⟩ := hi
    · exact exec_trap ht rfl (e := effBfree h) (by simp only [effBfree, hh, he])
    · exact exec_trap ht rfl (e := effBwaitFree h) (by simp only [effBwaitFree, hh, he])
    · exact exec_trap ht rfl (e := effBwaitFull h) (by simp only [effBwaitFull, hh, he])
    · exact exec_trap ht rfl (e := effBtest st h pd) (by simp only [effBtest, hh, he])

end Sys2Proof.Certificates
end

section
/-!
SUPPORT. How a request starts (R193, R197, R278): what precedes it in its cluster, how its handle starts anew, and what its engine or its
flash queue pair takes up.
-/
namespace Sys2Proof.Machine

open Sys2Proof

set_option Elab.async false

variable {s t u : State} {core e d j : Nat}

/-! ## The accesses of the cluster, and the locks (R197, R278) -/

/-- The state t differs from s in what performing accesses and taking locks can change: of the handles none, and of a beam no lane. -/
structure Settles (s t : State) : Prop where
  handles : ∀ core e, handleAt t core e = handleAt s core e
  clk : t.clk = s.clk
  decodeQ : t.decodeQ = s.decodeQ
  lanes : ∀ k b, beamOf s k = some b → ∃ c, beamOf t k = some c ∧ c.lanes = b.lanes

namespace Settles

theorem refl (s : State) : Settles s s := ⟨fun _ _ => rfl, rfl, rfl, fun _ b hb => ⟨b, hb, rfl⟩⟩

theorem trans (h : Settles s t) (g : Settles t u) : Settles s u := by
  refine ⟨fun c e => (g.handles c e).trans (h.handles c e), g.clk.trans h.clk, g.decodeQ.trans h.decodeQ, fun k b hb => ?_⟩
  obtain ⟨c, hc, hcl⟩ := h.lanes k b hb
  obtain ⟨d, hd, hdl⟩ := g.lanes k c hc
  exact ⟨d, hd, hdl.trans hcl⟩

theorem foldl {α : Type} {f : State → α → State} (hf : ∀ s a, Settles s (f s a)) : ∀ (l : List α) (s : State), Settles s (l.foldl f s)
  | [], s => .refl s
  | a :: l, s => (hf s a).trans (foldl hf l (f s a))

end Settles

theorem performAll_settles (s : State) (k : Nat) : Settles s (performAll s k) := by
  have hp := performAll_performs s k
  refine ⟨(OnlyL1.refl s).performAll.sameEngines.handleAt, hp.clk, hp.only.field (·.decodeQ) fun _ _ _ _ _ _ _ _ => rfl, fun j b hb => ?_⟩
  by_cases hj : j = k
  · subst hj
    obtain ⟨c, hc, hcb, -⟩ := hp.beam b hb
    exact ⟨c, hc, by rw [hcb]⟩
  · exact ⟨b, by rw [hp.only.others j hj, hb], rfl⟩

theorem settleCluster_settles (s : State) (core : Nat) : Settles s (settleCluster s core) :=
  .foldl (fun s b => by
    split
    · exact performAll_settles s _
    · exact .refl s) _ s

theorem takeLocks_settles (s : State) (core e h : Nat) (rs : List (Range × Bool)) : Settles s (takeLocks s core e h rs) :=
  (settleCluster_settles s core).trans (.foldl (fun s r => by
    split
    · exact .refl s
    · exact ⟨fun d j => by rw [handleAt, part_setCore Core.handles rfl]; rfl, rfl, rfl, fun _ b hb => ⟨b, hb, rfl⟩⟩) rs _)

/-! ## Instances and readers (R193, R195) -/

/-- A handle as it starts anew. -/
def renewed (h : Handle) : Handle :=
  { h with past := put h.past h.inst h.wasFull, inst := (h.inst + 1) % 65536, wasFull := false, err := 0, nvs := 0, eva := 0, drn := 0,
           pf := false, remain := 0, range := none }

theorem handleAt_newInstance (s : State) (core e : Nat) (f : Handle → Handle) :
    handleAt (newInstance s core e f) core e = f (renewed (handleAt s core e)) := handleAt_setHandle_same s core e _

theorem handleAt_newInstance_other (h : ¬ (d = core ∧ j = e)) (s : State) (f : Handle → Handle) :
    handleAt (newInstance s core e f) d j = handleAt s d j := handleAt_setHandle_other h s _

theorem handleAt_readerBegin_other {src : Option Nat} (h : ∀ z, src = some z → j ≠ z) (s : State) (core : Nat) :
    handleAt (readerBegin s core src) core j = handleAt s core j := by
  unfold readerBegin
  split
  · rfl
  · exact handleAt_setHandle_other (fun hz => h _ rfl hz.2) s _

theorem readerBegin_onlyWalks (s : State) (core : Nat) (src : Option Nat) : OnlyWalks s (readerBegin s core src) := by
  unfold readerBegin
  split
  · exact .refl s
  · exact setHandle_onlyWalks s core _ _

theorem OnlyWalks.clk (h : OnlyWalks s t) : t.clk = s.clk := by rw [h]
theorem OnlyWalks.mem (h : OnlyWalks s t) : t.mem = s.mem := by rw [h]

/-! ## The engine of a core (R143, R200, R278) -/

theorem startWalksFor_keeps (core : Nat) (want : Want) (vas : List Nat) (s : State) :
    OnlyWalks s (startWalksFor s core want vas) ∧ SameEngines s (startWalksFor s core want vas) :=
  List.foldlRecOn (motive := fun t => OnlyWalks s t ∧ SameEngines s t) _ _ ⟨.refl s, .refl s⟩ fun t ⟨hw, he⟩ va _ => by
    dsimp only
    split
    · split
      · exact ⟨hw, he⟩
      · exact ⟨hw.trans rfl, he.trans (setCore_sameEngines t core fun _ => ⟨rfl, rfl, rfl⟩)⟩
    · split
      · exact ⟨hw.trans rfl, he.trans ((setCore_sameEngines t core
          (f := fun c => { c with walks := c.walks ++ [⟨(newKey t).1, va, [want]⟩] }) fun _ => ⟨rfl, rfl, rfl⟩).trans (.of_cores rfl))⟩
      · exact ⟨hw, he⟩

theorem engineAsk_keeps (s : State) (core : Nat) (sup : Bool) (r : Option EngineStop) :
    OnlyWalks s (engineAsk s core sup r) ∧ SameEngines s (engineAsk s core sup r) := by
  unfold engineAsk
  split
  · exact startWalksFor_keeps core _ _ s
  · exact ⟨.refl s, .refl s⟩
  all_goals exact ⟨rfl, setCore_sameEngines s core fun _ => ⟨rfl, rfl, rfl⟩⟩

/-- What a read gives an operation is none of what was captured at its issue. -/
theorem opRead_captured (o : EngineOp) (l : List Byte) (r : Option EngineStop) :
    opRead o l r = { o with ready := (opRead o l r).ready, data := (opRead o l r).data, err := (opRead o l r).err } := by
  obtain _ | _ | _ | _ := r <;> rfl

theorem hasRead_opRead {o : EngineOp} (hr : o.ready = false) (he : o.err = none) (r : List Byte × Option EngineStop) :
    HasRead (opRead o r.1 r.2) r := by
  obtain ⟨l, _ | _ | _ | _⟩ := r
  · exact ⟨fun _ => ⟨rfl, rfl, he⟩, nofun, nofun⟩
  · refine ⟨nofun, fun c va h => ?_, nofun⟩
    cases h
    exact ⟨rfl, rfl, rfl⟩
  · exact ⟨nofun, nofun, fun _ => hr⟩
  · exact ⟨nofun, nofun, fun _ => hr⟩

/-- What a COPY reads depends on what was captured at its issue alone. -/
theorem copyAll_captured (s : State) (o : EngineOp) (core : Nat) (ready : Bool) (data : List Byte) (err : Option (Nat × Nat)) :
    copyAll s { o with ready := ready, data := data, err := err } core = copyAll s o core := by
  have hgather : ∀ fuel n, copyGather s { o with ready := ready, data := data, err := err } core fuel n = copyGather s o core fuel n := by
    intro fuel
    induction fuel with
    | zero => exact fun _ => rfl
    | succ fuel ih =>
      intro n
      have hpoint : copyPoint s { o with ready := ready, data := data, err := err } core n = copyPoint s o core n := rfl
      simp only [copyGather, hpoint, ih]
  exact hgather _ 0

theorem copyAll_opRead (s : State) (o : EngineOp) (l : List Byte) (r : Option EngineStop) (core : Nat) :
    copyAll s (opRead o l r) core = copyAll s o core := by
  rw [opRead_captured, copyAll_captured]

theorem coreOf_postFree (s : State) (bound : Nat) (i : Instr) (core : Nat) : coreOf (postFree s bound i) core = coreOf s core := rfl

/-- An operation of the copy engine is the core's, with what it has read, and its end is to come; no handle has changed. -/
theorem startEngine_spec (s : State) (core : Nat) (o : EngineOp) (r : List Byte × Option EngineStop) :
    OnlyWalks s (startEngine s core o r) ∧ (∀ d e, handleAt (startEngine s core o r) d e = handleAt s d e) ∧
      opRead o r.1 r.2 ∈ (coreOf (startEngine s core o r) core).copies ∧
      ∃ c, ⟨c, .copyComplete core (o.handle.getD 0) o.inst⟩ ∈ (startEngine s core o r).agenda ∧ s.clk < c := by
  obtain ⟨hw, he⟩ := engineAsk_keeps s core (o.args.headD 0 == 1) r.2
  unfold startEngine
  generalize engineAsk s core (o.args.headD 0 == 1) r.2 = w at hw he
  refine ⟨hw.trans rfl, fun d e => ?_, ?_, ?_⟩
  · rw [← he.handleAt d e, handleAt, coreOf_postFree, part_setCore Core.handles rfl]
    rfl
  · rw [coreOf_postFree, coreOf_setCore_same]
    exact List.mem_append_right _ (List.mem_singleton_self _)
  · rw [← hw.clk]
    exact mem_agenda_postFree (setCore w core _) 0 _

/-! ## Flash queue pairs (R204) -/

theorem OnlyL1.submit (h : OnlyL1 t s) {k c} : OnlyL1 t (Machine.submit s k c) := by
  unfold Machine.submit
  dsimp only
  have hlist : OnlyL1 t (if 8192 < c.len then fqPut s k (fq64 s k 9 + 4096 * (flashOf s k).tail)
      (prpList s k { c with cid := (flashOf s k).tail }) else s) := .ite h.homePut h
  exact (OnlyL1.homePut hlist :)

theorem OnlyL1.pumpFlash {k} : ∀ {fuel s}, OnlyL1 t s → OnlyL1 t (Machine.pumpFlash k fuel s)
  | 0, _, h => h
  | fuel + 1, s, h => by
    unfold Machine.pumpFlash
    dsimp only
    split
    · exact h
    · exact .ite (pumpFlash h.submit) h

theorem addFlash_keeps (s : State) (k : Nat) (l : List FlashCmd) :
    SameEngines s (addFlash s k l) ∧ (addFlash s k l).beams = s.beams := by
  unfold addFlash
  refine ⟨OnlyL1.sameEngines (OnlyL1.pumpFlash (fun _ => rfl)), ?_⟩
  rw [pumpFlash_step k (l.length + 1) _]

/-- The operation of an OFFL or of a RECALL is the core's, and no handle has changed. -/
theorem startFlash_spec (s : State) (core e k : Nat) (write : Bool) (q : List Byte) (r : Range) (o : EngineOp) :
    (startFlash s core e k write q r o).beams = s.beams ∧
      (∀ d j, handleAt (startFlash s core e k write q r o) d j = handleAt s d j) ∧
      o ∈ (coreOf (startFlash s core e k write q r o) core).copies := by
  unfold startFlash
  dsimp only
  generalize flashCmds _ _ _ _ _ _ _ _ _ _ _ _ _ = l
  obtain ⟨he, hb⟩ := addFlash_keeps (setCore s core fun c => { c with copies := c.copies ++ [o] }) k l
  refine ⟨hb, fun d j => ?_, ?_⟩
  · rw [he.handleAt, handleAt, part_setCore Core.handles rfl]
    rfl
  · rw [he.copies, coreOf_setCore_same]
    exact List.mem_append_right _ (List.mem_singleton_self _)

end Sys2Proof.Machine
end

section
/-!
PROOF of O50. Requests (R193, R197): what becomes of one that passes every check, and what the plan of each kind starts.
-/
namespace Sys2Proof.Machine

open Sys2Proof

set_option Elab.async false

variable {s u : State} {x : Sel} {a : Src} {h size e : Nat} {bl : Block} {g : Gang} {gr : Grid} {q : List Byte}
  {p : Except Trap Plan} {y : Plan} {pages : NMap Nat} {i : Instr}

/-! ## A request that passes every check (R193, R197) -/

section Request

variable {plan : State → Block → Gang → Grid → Nat → List Byte → Except Trap Plan}

theorem request_of_held (hr : ready x x.run [srcUse a 1] [] = true) (hc : heldBack s x .dev = true) :
    request a h size plan x s = .hold (performAll s x.key) := by
  unfold request
  rw [gated_ready hr, released_of_held hc]

/-- A request whose handle is not Free traps (R195). -/
theorem request_of_busyHandle (hr : ready x x.run [srcUse a 1] [] = true) (hc : heldBack s x .dev = false)
    (hh : homeOf s x.beam = some (bl, g, gr)) (hu : u = releaseAt s x.key .dev) (he : entryOf bl h = some e)
    (hs : (handleAt u (selCore x) e).state ≠ .free) : request a h size plan x s = .trap u (handleTrap x h noField) := by
  have hhome := homeOf_releaseAt s x.key .dev x.beam
  rw [← hu, hh] at hhome
  unfold request
  rw [gated_ready hr, released_of_calm hc, ← hu]
  simp only [hhome, he, hs, ne_eq, not_false_eq_true, or_true, if_true]

theorem request_of_asks (A : Asks s u x a h size e bl g gr q p y pages) (hp : plan u bl g gr e q = p) :
    request a h size plan x s =
      if blocked u x y pages then .hold u
      else if (sourceWait u x y).isSome then .hold (engineAsk u (selCore x) (selSup x) (y.reads (settleCluster u (selCore x))))
      else .done (y.act (takeLocks u (selCore x) e h y.ranges) pages) [] := by
  have hhome := homeOf_releaseAt s x.key .dev x.beam
  rw [← A.acts, A.home] at hhome
  have hfree : ¬ (x.run.length ≠ 1 ∨ (handleAt u (selCore x) e).state ≠ .free) := by
    rw [A.one, A.free]
    exact fun h => h.elim (absurd rfl) (absurd rfl)
  obtain ⟨t, hplace, rfl⟩ := A.place
  unfold request
  rw [gated_ready A.full, released_of_calm A.calm, ← show u = _ from A.acts]
  simp only [hhome, A.entry, hfree, A.aligned, hplace, hp, A.plan, A.found, ne_eq, not_true_eq_false, if_false]
  rfl

end Request

/-- What a start of a request leaves, whatever it starts: the beam has gone on, and the cores, the agenda and the queues of the decoders are
as the start left them. -/
theorem exec_starts {plan : Sel → State → Block → Gang → Grid → Nat → List Byte → Except Trap Plan}
    (A : Asks s u x a h size e bl g gr q p y pages) (hf : fits u x y pages = true)
    (hi : exec i s = issue 4 (fun x s => request a h size (plan x) x s) s) (hp : plan x u bl g gr e q = p)
    (hb : (y.act (takeLocks u (selCore x) e h y.ranges) pages).beams = (takeLocks u (selCore x) e h y.ranges).beams) :
    ∃ t b, exec i s = .next t ∧ beamOf t x.key = some b ∧ Advanced x b ∧
      t.cores = (y.act (takeLocks u (selCore x) e h y.ranges) pages).cores ∧
      t.agenda = (y.act (takeLocks u (selCore x) e h y.ranges) pages).agenda ∧
      t.decodeQ = (y.act (takeLocks u (selCore x) e h y.ranges) pages).decodeQ := by
  obtain ⟨hblocked, hwait⟩ : blocked u x y pages = false ∧ (sourceWait u x y).isNone = true := by
    simpa only [fits, Bool.and_eq_true, Bool.not_eq_true'] using hf
  have hsource : (sourceWait u x y).isSome = false := by rw [← Option.not_isNone, hwait]; rfl
  have hstart : request a h size (plan x) x s = .done (y.act (takeLocks u (selCore x) e h y.ranges) pages) [] := by
    rw [request_of_asks A hp, hblocked, hsource, if_neg Bool.false_ne_true, if_neg Bool.false_ne_true]
  obtain ⟨c, hc, hcl⟩ : ∃ c, beamOf u x.key = some c ∧ c.lanes = x.beam.lanes := by
    obtain ⟨c, hc, hcb, -⟩ := (releaseAt_performs s x.key .dev).beam x.beam A.turn.2
    exact ⟨c, by rw [A.acts]; exact hc, by rw [hcb]⟩
  obtain ⟨d, hd, hdl⟩ := (takeLocks_settles u (selCore x) e h y.ranges).lanes x.key c hc
  obtain ⟨t, b, hexec, hbeam, hadv, hcores, -, hagenda, hq⟩ := exec_of_effect A.turn hi hstart
    (show beamOf _ x.key = some d by rw [beamOf, hb]; exact hd) (hdl.trans hcl)
  exact ⟨t, b, hexec, hbeam, hadv, hcores, hagenda, hq⟩

/-- Where the clock and the decoders' queues stand in the state in which a request starts. -/
theorem asks_settled (A : Asks s u x a h size e bl g gr q p y pages) (rs : List (Range × Bool)) :
    (takeLocks u (selCore x) e h rs).clk = s.clk ∧ (takeLocks u (selCore x) e h rs).decodeQ = s.decodeQ ∧
      ∀ core j, handleAt (takeLocks u (selCore x) e h rs) core j = handleAt u core j := by
  have ht := takeLocks_settles u (selCore x) e h rs
  have hr := releaseAt_performs s x.key .dev
  rw [← A.acts] at hr
  exact ⟨ht.clk.trans hr.clk, ht.decodeQ.trans (hr.only.field (·.decodeQ) fun _ _ _ _ _ _ _ _ => rfl), ht.handles⟩

/-- A handle that has started anew in a state whose handles are those of u. -/
theorem started_of_newInstance {w t : State} {core : Nat} {f : Handle → Handle} {st : HState}
    (hw : handleAt w core e = handleAt u core e) (ht : handleAt t core e = f (renewed (handleAt w core e)))
    (hf : ∀ z, (f z).state = st ∧ (f z).inst = z.inst) : Started u t core e st := by
  rw [Started, ht, (hf _).1, (hf _).2, hw]
  exact ⟨rfl, rfl⟩

/-! ## COPY (R198-R200) -/

/-- The operation of a COPY before it has read. -/
def copyOp (x : Sel) (i : Instr) (e inst n : Nat) (q : List Byte) (pages : NMap Nat) (src : Option Nat) : EngineOp :=
  { instr := i, beam := x.key, block := x.beam.block, handle := some e, inst := inst, params := q, args := [(selSup x).toNat, n],
    pages := pages, source := src, ready := false, data := [], err := none, written := [] }

/-- The handle that a COPY fills, as it starts. -/
def copyFill (q : List Byte) (d : Option Range) (z : Handle) : Handle := { z with state := .filling, remain := cpTotal q, range := d }

theorem copyReads_eq {core : Nat} : copyReads u core e h y bl q =
    readerBegin (newInstance (takeLocks u core e h y.ranges) core e (copyFill q (y.ranges.head?.map fun r => r.1))) core
      (copySource bl q) := rfl

theorem ok_of_ite_error {α β : Type} {P : Prop} [Decidable P] {z : α} {r : Except α β} {y : β}
    (h : (if P then .error z else r) = .ok y) : ¬ P ∧ r = .ok y := by
  by_cases hP : P
  · rw [if_pos hP] at h
    cases h
  · rw [if_neg hP] at h
    exact ⟨hP, h⟩

/-- The start of a COPY: its handle starts anew, its source gains a reader, and its operation reads. -/
theorem copyPlan_ok
    (hp : copyPlan x i h u bl g gr e q = .ok y) :
    (∀ z, copySource bl q = some z → (handleAt u (selCore x) z).state ≠ .free) ∧
      ∃ n, ∀ s pages, y.act s pages =
        let s1 := readerBegin (newInstance s (selCore x) e (copyFill q (y.ranges.head?.map fun r => r.1))) (selCore x) (copySource bl q)
        let o := copyOp x i e (handleAt s1 (selCore x) e).inst n q pages (copySource bl q)
        startEngine s1 (selCore x) o (copyAll s1 o (selCore x)) := by
  unfold copyPlan at hp
  split at hp
  · cases hp
  · obtain ⟨hsrc, hp⟩ := ok_of_ite_error hp
    split at hp
    · cases hp
    · cases hp
    · cases hp
      refine ⟨fun z hz hfree => hsrc ?_, _, fun s pages => rfl⟩
      have hz' : (if cpSsp q = 2 then entryOf bl (cpHsrc q) else none) = some z := hz
      refine ⟨?_, .inl ?_⟩
      · by_contra hne
        rw [if_neg hne] at hz'
        cases hz'
      · rw [hz', Option.map_some, Option.getD_some, hfree]
        exact ⟨nofun, nofun⟩

/-! ## OFFL and RECALL (R205-R207) -/

/-- The operation of an OFFL or of a RECALL. -/
def flashOp (x : Sel) (i : Instr) (e inst : Nat) (q : List Byte) (pages : NMap Nat) : EngineOp :=
  { instr := i, beam := x.key, block := x.beam.block, handle := some e, inst := inst, params := q, args := [(selSup x).toNat],
    pages := pages, source := none, ready := true, data := [], err := none, written := [] }

/-- The handle that an OFFL empties, as it starts. -/
def offlDrain (q : List Byte) (r : Range) (z : Handle) : Handle := { z with state := .draining, pf := true, remain := flLen q, range := some r }

theorem offlPlan_ok
    (hp : offlPlan x i h u bl g gr e q = .ok y) : ∃ r, ∀ s pages, y.act s pages =
      let s1 := newInstance s (selCore x) e (offlDrain q r)
      startFlash s1 (selCore x) e (flQp q) true q r (flashOp x i e (handleAt s1 (selCore x) e).inst q pages) := by
  unfold offlPlan at hp
  dsimp only at hp
  split at hp
  · cases hp
  · split at hp
    · cases hp
    · cases hp
      exact ⟨_, fun _ _ => rfl⟩

/-- The handle that a RECALL fills, as it starts. -/
def recallFill (q : List Byte) (d : Range) (z : Handle) : Handle := { z with state := .filling, remain := flLen q, range := some d }

/-- The handle of a RECALL that takes a range back before its OFFL has ended. -/
def recallBack (d : Range) (z : Handle) : Handle := { z with state := .full, range := some d, wasFull := true }

/-- The OFFL whose range a RECALL may bring, and the range. -/
def recallFrom (u : State) (q : List Byte) : Option Range := (offlNamed u (flOffh q)).bind fun p => (handleAt u p.1 p.2).range

section Recall

/-- A RECALL that finds no OFFL under way reads from flash. -/
theorem recallPlan_flash (hp : recallPlan x i h u bl g gr e q = .ok y) (hn : recallFrom u q = none) : ∃ d, ∀ s pages, y.act s pages =
    let s1 := newInstance s (selCore x) e (recallFill q d)
    startFlash s1 (selCore x) e (flQp q) false q d (flashOp x i e (handleAt s1 (selCore x) e).inst q pages) := by
  unfold recallFrom at hn
  unfold recallPlan at hp
  dsimp only at hp
  split at hp
  · cases hp
  · split at hp
    · cases hp
    · split at hp
      · cases hp
      · next d _ =>
        rw [hn] at hp
        split at hp
        · next hnone => cases hnone
        · cases hp
          exact ⟨d, fun _ _ => rfl⟩

variable {oc oe : Nat} {r d : Range}

/-- That of an OFFL's own range takes the range back: its handle is Full at once, and the OFFL's free is no longer pending. -/
theorem recallPlan_own (hp : recallPlan x i h u bl g gr e q = .ok y) (ho : offlNamed u (flOffh q) = some (oc, oe))
    (hr : (handleAt u oc oe).range = some d) (hd : requestRange u bl g gr (flLoc q) (flAddr q) (flLen q) = .ok d) : ∀ s pages, y.act s pages =
    handleMoved (newInstance (setHandle s oc oe fun z => { z with pf := false }) (selCore x) e (recallBack d)) := by
  unfold recallPlan at hp
  dsimp only at hp
  split at hp
  · cases hp
  · split at hp
    · cases hp
    · simp only [hd, ho, hr, Option.bind_some, if_true] at hp
      cases hp
      exact fun _ _ => rfl

/-- That of another range reads the OFFL's. -/
theorem recallPlan_copy (hp : recallPlan x i h u bl g gr e q = .ok y) (ho : offlNamed u (flOffh q) = some (oc, oe))
    (hr : (handleAt u oc oe).range = some r) (hd : requestRange u bl g gr (flLoc q) (flAddr q) (flLen q) = .ok d) (hne : r ≠ d) :
    ∃ f : State → List Byte × Option EngineStop, ∀ s pages, y.act s pages =
      let s1 := newInstance s (selCore x) e (recallFill q d)
      startEngine s1 (selCore x) (flashOp x i e (handleAt s1 (selCore x) e).inst q pages) (f s1) := by
  unfold recallPlan at hp
  dsimp only at hp
  split at hp
  · cases hp
  · split at hp
    · cases hp
    · simp only [hd, ho, hr, Option.bind_some, hne, if_false] at hp
      cases hp
      refine ⟨fun s => recallBytes s (selCore x) (((opOf s oc oe (handleAt s oc oe).inst).map fun y => y.pages).getD []) r d.len,
        fun s pages => ?_⟩
      unfold recallFill flashOp
      rfl

theorem offlNamed_draining {n : Nat} (ho : offlNamed u n = some (oc, oe)) : (handleAt u oc oe).state = .draining := by
  unfold offlNamed at ho
  dsimp only at ho
  split at ho
  · next h =>
    cases ho
    exact h.2.2.2.1
  · cases ho

end Recall

/-! ## DECODE (R209) -/

/-- The handle that a DECODE fills, as it starts. -/
def decodeFill (d : Range) (z : Handle) : Handle := { z with state := .filling, remain := 1, range := some d }

/-- The operation of a DECODE. -/
def decodeOp (x : Sel) (i : Instr) (e inst : Nat) (q : List Byte) (pages : NMap Nat) : EngineOp :=
  { instr := i, beam := x.key, block := x.beam.block, handle := some e, inst := inst, params := q, args := [(selSup x).toNat, selCore x],
    pages := pages, source := none, ready := false, data := [], err := none, written := [] }

theorem decodePlan_ok
    (hp : decodePlan x i h u bl g gr e q = .ok y) : ∃ d, ∀ s pages, y.act s pages =
      let s1 := newInstance s (selCore x) e (decodeFill d)
      post { s1 with decodeQ := put s1.decodeQ (selCore x / 12) (lookD s1.decodeQ (selCore x / 12) [] ++
        [decodeOp x i e (handleAt s1 (selCore x) e).inst q pages]) } 1 (.decodeStart (selCore x / 12)) := by
  unfold decodePlan at hp
  dsimp only at hp
  split at hp
  · cases hp
  · split at hp
    · cases hp
    · cases hp
      exact ⟨_, fun _ _ => rfl⟩

end Sys2Proof.Machine
end

section
/-!
PROOF of O50, continued: each kind of request from its checks to the operation it starts, and the waits and traps they share (R193-R209).
-/
namespace Sys2Proof.Machine

open Sys2Proof

set_option Elab.async false

section Starts

variable {s u : State} {x : Sel} {a : Src} {h e : Nat} {bl : Block} {g : Gang} {gr : Grid} {q : List Byte} {y : Plan} {pages : NMap Nat}

/-- COPY (R198-R200). -/
theorem copy_starts (A : Asks s u x a h 128 e bl g gr q (copyPlan x (.copy a h) h u bl g gr e q) y pages) (hf : fits u x y pages = true) :
    ∃ t b, exec (.copy a h) s = .next t ∧ beamOf t x.key = some b ∧ Advanced x b ∧ Started u t (selCore x) e .filling ∧
      (handleAt t (selCore x) e).remain = cpTotal q ∧
      (∃ c, ⟨c, .copyComplete (selCore x) e (handleAt t (selCore x) e).inst⟩ ∈ t.agenda ∧ s.clk < c) ∧
      ∃ o ∈ (coreOf t (selCore x)).copies, o.handle = some e ∧ o.inst = (handleAt t (selCore x) e).inst ∧ o.instr = .copy a h ∧
        o.params = q ∧ o.pages = pages ∧ o.source = copySource bl q ∧ o.block = x.beam.block ∧ o.args.head? = some (selSup x).toNat ∧
        HasRead o (copyAll (copyReads u (selCore x) e h y bl q) o (selCore x)) := by
  obtain ⟨hsrc, n, hact⟩ := copyPlan_ok A.plan
  obtain ⟨hclk, -, hhandles⟩ := asks_settled A y.ranges
  have hact := hact (takeLocks u (selCore x) e h y.ranges) pages
  dsimp only at hact
  rw [← copyReads_eq (h := h) (y := y) (u := u)] at hact
  -- the state in which it reads: only the handle and its source have moved
  have hwalks : OnlyWalks (takeLocks u (selCore x) e h y.ranges) (copyReads u (selCore x) e h y bl q) :=
    OnlyWalks.trans (t := newInstance _ (selCore x) e _) rfl (readerBegin_onlyWalks _ _ _)
  have hat : handleAt (copyReads u (selCore x) e h y bl q) (selCore x) e =
      copyFill q (y.ranges.head?.map fun r => r.1) (renewed (handleAt (takeLocks u (selCore x) e h y.ranges) (selCore x) e)) := by
    rw [copyReads_eq, handleAt_readerBegin_other (fun z hz he => hsrc z hz (he ▸ A.free)), handleAt_newInstance]
  generalize copyReads u (selCore x) e h y bl q = r at hact hat hwalks ⊢
  generalize ho : copyOp x (.copy a h) e (handleAt r (selCore x) e).inst n q pages (copySource bl q) = o at hact
  obtain ⟨hstart, hsame, hmem, c, hend, hc⟩ := startEngine_spec r (selCore x) o (copyAll r o (selCore x))
  obtain ⟨t, b, hexec, hb, hadv, hcores, hagenda, -⟩ :=
    exec_starts (i := .copy a h) (plan := fun x => copyPlan x (.copy a h) h) A hf rfl rfl
      (by rw [hact, hstart.beams, hwalks.beams])
  rw [hact] at hcores hagenda
  have htat : handleAt t (selCore x) e = handleAt r (selCore x) e := by rw [(SameEngines.of_cores hcores).handleAt, hsame]
  refine ⟨t, b, hexec, hb, hadv, started_of_newInstance (hhandles _ _) (htat.trans hat) fun _ => ⟨rfl, rfl⟩, ?_, ⟨c, ?_, ?_⟩,
    opRead o (copyAll r o (selCore x)).1 (copyAll r o (selCore x)).2, ?_, ?_⟩
  · rw [htat, hat]
    rfl
  · rw [htat, hagenda]
    subst ho
    exact hend
  · rw [← hclk, ← hwalks.clk]
    exact hc
  · rw [(SameEngines.of_cores hcores).copies]
    exact hmem
  · have hread : HasRead (opRead o (copyAll r o (selCore x)).1 (copyAll r o (selCore x)).2) (copyAll r o (selCore x)) :=
      hasRead_opRead (by subst ho; rfl) (by subst ho; rfl) _
    rw [copyAll_opRead, htat]
    rw [opRead_captured] at hread ⊢
    subst ho
    exact ⟨rfl, rfl, rfl, rfl, rfl, rfl, rfl, rfl, hread⟩

/-- What a request that commands a flash queue pair starts. -/
theorem flash_starts {size : Nat} {p : Except Trap Plan}
    {plan : Sel → State → Block → Gang → Grid → Nat → List Byte → Except Trap Plan} {i : Instr} {f : Handle → Handle}
    {st : HState} {write : Bool} {d : Range}
    (A : Asks s u x a h size e bl g gr q p y pages) (hf : fits u x y pages = true)
    (hi : exec i s = issue 4 (fun x s => request a h size (plan x) x s) s) (hp : plan x u bl g gr e q = p)
    (hz : ∀ z, (f z).state = st ∧ (f z).inst = z.inst)
    (hact : ∀ s pages, y.act s pages = startFlash (newInstance s (selCore x) e f) (selCore x) e (flQp q) write q d
      (flashOp x i e (handleAt (newInstance s (selCore x) e f) (selCore x) e).inst q pages)) :
    ∃ t b, exec i s = .next t ∧ beamOf t x.key = some b ∧ Advanced x b ∧ Started u t (selCore x) e st ∧
      (∃ z, handleAt t (selCore x) e = f z) ∧
      ∃ o ∈ (coreOf t (selCore x)).copies, o.handle = some e ∧ o.instr = i ∧ o.params = q := by
  obtain ⟨-, -, hhandles⟩ := asks_settled A y.ranges
  have hact := hact (takeLocks u (selCore x) e h y.ranges) pages
  obtain ⟨hbeams, hsame, hmem⟩ := startFlash_spec (newInstance (takeLocks u (selCore x) e h y.ranges) (selCore x) e f) (selCore x) e
    (flQp q) write q d (flashOp x i e (handleAt (newInstance (takeLocks u (selCore x) e h y.ranges) (selCore x) e f) (selCore x) e).inst
      q pages)
  rw [← hact] at hbeams hsame hmem
  obtain ⟨t, b, hexec, hb, hadv, hcores, -, -⟩ := exec_starts A hf hi hp hbeams
  have hat : handleAt t (selCore x) e = f (renewed (handleAt (takeLocks u (selCore x) e h y.ranges) (selCore x) e)) := by
    rw [(SameEngines.of_cores hcores).handleAt, hsame, handleAt_newInstance]
  exact ⟨t, b, hexec, hb, hadv, started_of_newInstance (hhandles _ _) hat hz, ⟨_, hat⟩, _,
    (SameEngines.of_cores hcores).copies (selCore x) ▸ hmem, rfl, rfl, rfl⟩

/-- OFFL (R206). -/
theorem offl_starts (A : Asks s u x a h 32 e bl g gr q (offlPlan x (.offl a h) h u bl g gr e q) y pages) (hf : fits u x y pages = true) :
    ∃ t b, exec (.offl a h) s = .next t ∧ beamOf t x.key = some b ∧ Advanced x b ∧ Started u t (selCore x) e .draining ∧
      (handleAt t (selCore x) e).pf = true ∧
      ∃ o ∈ (coreOf t (selCore x)).copies, o.handle = some e ∧ o.instr = .offl a h ∧ o.params = q := by
  obtain ⟨r, hact⟩ := offlPlan_ok A.plan
  obtain ⟨t, b, hexec, hb, hadv, hstarted, ⟨z, hz⟩, hop⟩ :=
    flash_starts (f := offlDrain q r) (plan := fun x => offlPlan x (.offl a h) h) A hf rfl rfl (fun _ => ⟨rfl, rfl⟩) hact
  exact ⟨t, b, hexec, hb, hadv, hstarted, by rw [hz]; rfl, hop⟩

section Recall

variable (A : Asks s u x a h 48 e bl g gr q (recallPlan x (.recallCopy a h) h u bl g gr e q) y pages) (hf : fits u x y pages = true)

include A hf

/-- A RECALL from flash (R207). -/
theorem recall_starts_flash (hn : recallFrom u q = none) : ∃ t b, exec (.recallCopy a h) s = .next t ∧ beamOf t x.key = some b ∧
    Advanced x b ∧ Started u t (selCore x) e .filling ∧
      ∃ o ∈ (coreOf t (selCore x)).copies, o.handle = some e ∧ o.instr = .recallCopy a h ∧ o.params = q := by
  obtain ⟨d, hact⟩ := recallPlan_flash A.plan hn
  obtain ⟨t, b, hexec, hb, hadv, hstarted, -, hop⟩ :=
    flash_starts (f := recallFill q d) (plan := fun x => recallPlan x (.recallCopy a h) h) A hf rfl rfl (fun _ => ⟨rfl, rfl⟩) hact
  exact ⟨t, b, hexec, hb, hadv, hstarted, hop⟩

variable {oc oe : Nat} {r d : Range}

/-- A RECALL of the range of an OFFL that is under way (R207). -/
theorem recall_starts_own (ho : offlNamed u (flOffh q) = some (oc, oe)) (hr : (handleAt u oc oe).range = some d)
    (hd : requestRange u bl g gr (flLoc q) (flAddr q) (flLen q) = .ok d) : ∃ t b, exec (.recallCopy a h) s = .next t ∧
      beamOf t x.key = some b ∧ Advanced x b ∧ Started u t (selCore x) e .full ∧ (handleAt t (selCore x) e).err = 0 ∧
      (handleAt t (selCore x) e).range = some d ∧ (handleAt t oc oe).pf = false := by
  obtain ⟨-, -, hhandles⟩ := asks_settled A y.ranges
  have hact := recallPlan_own A.plan ho hr hd (takeLocks u (selCore x) e h y.ranges) pages
  have hne : ¬ (oc = selCore x ∧ oe = e) := fun ⟨hc, he⟩ => by
    have hdrain := offlNamed_draining ho
    rw [hc, he, A.free] at hdrain
    cases hdrain
  have hne' : ¬ (selCore x = oc ∧ e = oe) := fun ⟨hc, he⟩ => hne ⟨hc.symm, he.symm⟩
  obtain ⟨t, b, hexec, hb, hadv, hcores, -, -⟩ :=
    exec_starts (i := .recallCopy a h) (plan := fun x => recallPlan x (.recallCopy a h) h) A hf rfl rfl
      (by rw [hact, (handleMoved_onlyWalks _).beams]; rfl)
  rw [hact] at hcores
  have hat := (SameEngines.of_cores hcores).handleAt (selCore x) e
  rw [handleAt_handleMoved, handleAt_newInstance] at hat
  refine ⟨t, b, hexec, hb, hadv, started_of_newInstance (f := recallBack d) ((handleAt_setHandle_other hne' _ _).trans (hhandles _ _)) hat
    fun _ => ⟨rfl, rfl⟩, by rw [hat]; rfl, by rw [hat]; rfl, ?_⟩
  rw [(SameEngines.of_cores hcores).handleAt, handleAt_handleMoved, handleAt_newInstance_other hne, handleAt_setHandle_same]

/-- A RECALL of a part of the range of an OFFL that is under way (R207). -/
theorem recall_starts_copy (ho : offlNamed u (flOffh q) = some (oc, oe)) (hr : (handleAt u oc oe).range = some r)
    (hd : requestRange u bl g gr (flLoc q) (flAddr q) (flLen q) = .ok d) (hne : r ≠ d) : ∃ t b, exec (.recallCopy a h) s = .next t ∧
      beamOf t x.key = some b ∧ Advanced x b ∧ Started u t (selCore x) e .filling ∧
      (∃ c, ⟨c, .copyComplete (selCore x) e (handleAt t (selCore x) e).inst⟩ ∈ t.agenda ∧ s.clk < c) ∧
      ∃ o ∈ (coreOf t (selCore x)).copies, o.handle = some e ∧ o.instr = .recallCopy a h ∧ o.params = q := by
  obtain ⟨hclk, -, hhandles⟩ := asks_settled A y.ranges
  obtain ⟨f, hact⟩ := recallPlan_copy A.plan ho hr hd hne
  have hact := hact (takeLocks u (selCore x) e h y.ranges) pages
  dsimp only at hact
  have hat : handleAt (newInstance (takeLocks u (selCore x) e h y.ranges) (selCore x) e (recallFill q d)) (selCore x) e =
      recallFill q d (renewed (handleAt (takeLocks u (selCore x) e h y.ranges) (selCore x) e)) := handleAt_newInstance ..
  have hwalks : OnlyWalks (takeLocks u (selCore x) e h y.ranges)
      (newInstance (takeLocks u (selCore x) e h y.ranges) (selCore x) e (recallFill q d)) := rfl
  generalize newInstance (takeLocks u (selCore x) e h y.ranges) (selCore x) e (recallFill q d) = w at hact hat hwalks
  obtain ⟨hstart, hsame, hmem, c, hend, hc⟩ :=
    startEngine_spec w (selCore x) (flashOp x (.recallCopy a h) e (handleAt w (selCore x) e).inst q pages) (f w)
  obtain ⟨t, b, hexec, hb, hadv, hcores, hagenda, -⟩ :=
    exec_starts (i := .recallCopy a h) (plan := fun x => recallPlan x (.recallCopy a h) h) A hf rfl rfl
      (by rw [hact, hstart.beams, hwalks.beams])
  rw [hact] at hcores hagenda
  have htat : handleAt t (selCore x) e = handleAt w (selCore x) e := by rw [(SameEngines.of_cores hcores).handleAt, hsame]
  refine ⟨t, b, hexec, hb, hadv, started_of_newInstance (hhandles _ _) (htat.trans hat) fun _ => ⟨rfl, rfl⟩, ⟨c, ?_, ?_⟩,
    _, (SameEngines.of_cores hcores).copies (selCore x) ▸ hmem, ?_⟩
  · rw [htat, hagenda]
    exact hend
  · rw [← hclk, ← hwalks.clk]
    exact hc
  · rw [opRead_captured]
    exact ⟨rfl, rfl, rfl⟩

end Recall

/-- DECODE (R209). -/
theorem decode_starts (A : Asks s u x a h 64 e bl g gr q (decodePlan x (.decode a h) h u bl g gr e q) y pages)
    (hf : fits u x y pages = true) : ∃ t b, exec (.decode a h) s = .next t ∧ beamOf t x.key = some b ∧ Advanced x b ∧
      Started u t (selCore x) e .filling ∧ ⟨s.clk + 1, .decodeStart (selCore x / 12)⟩ ∈ t.agenda ∧
      ∃ o, lookD t.decodeQ (selCore x / 12) [] = lookD s.decodeQ (selCore x / 12) [] ++ [o] ∧ o.handle = some e ∧ o.params = q := by
  obtain ⟨hclk, hq, hhandles⟩ := asks_settled A y.ranges
  obtain ⟨d, hact⟩ := decodePlan_ok A.plan
  have hact := hact (takeLocks u (selCore x) e h y.ranges) pages
  obtain ⟨t, b, hexec, hb, hadv, hcores, hagenda, hqueue⟩ :=
    exec_starts (i := .decode a h) (plan := fun x => decodePlan x (.decode a h) h) A hf rfl rfl (by rw [hact]; rfl)
  rw [hact] at hcores hagenda hqueue
  have hat := (SameEngines.of_cores hcores).handleAt (selCore x) e
  refine ⟨t, b, hexec, hb, hadv, started_of_newInstance (hhandles _ _) (hat.trans (handleAt_newInstance _ _ _ (decodeFill d)))
    fun _ => ⟨rfl, rfl⟩, ?_,
    decodeOp x (.decode a h) e (handleAt (newInstance (takeLocks u (selCore x) e h y.ranges) (selCore x) e (decodeFill d))
      (selCore x) e).inst q pages, ?_, rfl, rfl⟩
  · rw [hagenda, ← hclk]
    exact List.mem_append_right _ (List.mem_singleton_self _)
  · rw [hqueue, ← hq]
    exact lookD_put_same ..

end Starts

/-- The instructions that make requests, with the size of the block and the plan of each. -/
theorem exec_request {i : Instr} {a : Src} {h : Nat} (hi : i = .copy a h ∨ i = .offl a h ∨ i = .recallCopy a h ∨ i = .decode a h) :
    ∃ (size : Nat) (plan : Sel → State → Block → Gang → Grid → Nat → List Byte → Except Trap Plan),
      ∀ s, exec i s = issue 4 (fun x s => request a h size (plan x) x s) s := by
  obtain rfl | rfl | rfl | rfl := hi
  · exact ⟨128, fun x => copyPlan x (.copy a h) h, fun _ => rfl⟩
  · exact ⟨32, fun x => offlPlan x (.offl a h) h, fun _ => rfl⟩
  · exact ⟨48, fun x => recallPlan x (.recallCopy a h) h, fun _ => rfl⟩
  · exact ⟨64, fun x => decodePlan x (.decode a h) h, fun _ => rfl⟩

section Waits

variable {s u : State} {x : Sel} {a : Src} {h size e : Nat} {bl : Block} {g : Gang} {gr : Grid} {q : List Byte} {p : Except Trap Plan}
  {y : Plan} {pages : NMap Nat} {plan : Sel → State → Block → Gang → Grid → Nat → List Byte → Except Trap Plan} {i : Instr}

/-- What a request that passes its checks waits for (R193, R197, R200). -/
theorem request_waits (hi : ∀ s, exec i s = issue 4 (fun x s => request a h size (plan x) x s) s) (hp : plan x u bl g gr e q = p)
    (A : Asks s u x a h size e bl g gr q p y pages) : (blocked u x y pages = true → exec i s = .next (waited u x)) ∧
      (blocked u x y pages = false → (sourceWait u x y).isSome = true →
        exec i s = .next (waited (engineAsk u (selCore x) (selSup x) (y.reads (settleCluster u (selCore x)))) x)) := by
  have hreq := request_of_asks A (plan := plan x) hp
  refine ⟨fun hb => exec_held A.turn (hi s) ?_, fun hb hw => exec_held A.turn (hi s) ?_⟩
  · rw [hreq, hb, if_pos rfl]
  · rw [hreq, hb, hw, if_neg Bool.false_ne_true, if_pos rfl]

end Waits

end Sys2Proof.Machine

namespace Sys2Proof.Certificates

open Sys2Proof Sys2Proof.Machine

/-- Settles O50, by what the plan of each kind of request starts once nothing keeps it, and by the waits and traps that the kinds share. -/
theorem requestsBegin : Obligations.RequestsBegin := by
  unfold Obligations.RequestsBegin
  intro s u x a h e bl g gr q y pages
  refine ⟨copy_starts, offl_starts, fun A hf => ⟨recall_starts_flash A hf, fun oc oe r d ho hr hd => ⟨?_, ?_⟩⟩, decode_starts,
    fun i size p hmem A => ?_, fun ht hh hfull hu i hi => ⟨fun hheld => ?_, fun hcalm he hstate => ?_⟩⟩
  · rintro rfl
    exact recall_starts_own A hf ho hr hd
  · exact recall_starts_copy A hf ho hr hd
  · simp only [List.mem_cons, Prod.mk.injEq, List.not_mem_nil, or_false] at hmem
    obtain ⟨rfl, rfl, rfl⟩ | ⟨rfl, rfl, rfl⟩ | ⟨rfl, rfl, rfl⟩ | ⟨rfl, rfl, rfl⟩ := hmem
    · exact request_waits (plan := fun x => copyPlan x (.copy a h) h) (fun _ => rfl) rfl A
    · exact request_waits (plan := fun x => offlPlan x (.offl a h) h) (fun _ => rfl) rfl A
    · exact request_waits (plan := fun x => recallPlan x (.recallCopy a h) h) (fun _ => rfl) rfl A
    · exact request_waits (plan := fun x => decodePlan x (.decode a h) h) (fun _ => rfl) rfl A
  · obtain ⟨size, plan, hexec⟩ := exec_request hi
    exact exec_held ht (hexec s) (request_of_held hfull hheld)
  · obtain ⟨size, plan, hexec⟩ := exec_request hi
    exact exec_trapped ht (hexec s) (request_of_busyHandle hfull hcalm hh hu he hstate)

end Sys2Proof.Certificates
end

section
/-!
PROOF of O51: the ends of copies and decodes (R195, R201, R208, R211).
-/
namespace Sys2Proof.Machine

open Sys2Proof

set_option Elab.async false

variable {s t : State} {core h e inst quarter : Nat} {o : EngineOp} {rest : List EngineOp}

/-! ## What an operation writes as it ends (R278) -/

theorem putRest_only (core : Nat) (pages : NMap Nat) (r : Range) (written : List Nat) : ∀ (fuel : Nat) (s : State) (off : Nat) (l : List Byte),
    OnlyMemory s (putRest core pages r written fuel s off l)
  | 0, s, _, _ => .refl s
  | fuel + 1, s, off, l => by
    unfold putRest
    dsimp only
    split
    · exact .refl s
    · refine OnlyMemory.trans ?_ (putRest_only core pages r written fuel _ _ _)
      split
      · refine .foldl _ (fun s i => ?_) _ s
        split
        · exact .refl s
        · exact rangePut_only ..
      · exact rangePut_only ..

theorem rangeFinish_only (s : State) (core : Nat) (pages : NMap Nat) (r : Range) (off : Nat) (written : List Nat) (l : List Byte) :
    OnlyMemory s (rangeFinish s core pages r off written l) := by
  unfold rangeFinish
  split
  · exact rangePut_only ..
  · exact putRest_only ..

theorem decodeFinish_only (s : State) (core : Nat) (o : EngineOp) (d : Range) : OnlyMemory s (decodeFinish s core o d) :=
  (rangeFinish_only ..).trans (rangePut_only ..)

/-! ## COPY_COMPLETE (R195, R200, R201) -/

theorem opOf_congr (h : (coreOf t core).copies = (coreOf s core).copies) (e inst : Nat) : opOf t core e inst = opOf s core e inst := by
  rw [opOf, opOf, h]

/-- The range that a copy has filled. -/
def copyWritten (s : State) (core h : Nat) (o : EngineOp) : State :=
  rangeFinish s core o.pages ((handleAt s core h).range.getD ⟨true, 0, 0⟩) 0 o.written o.data

/-- The state in which a copy has ended but for its handle: it has left its core, and its source has a reader less. -/
def copyLeft (s : State) (core h inst : Nat) (o : EngineOp) : State :=
  readerDone (dropOp (copyWritten s core h o) core h inst) core o.source (o.args.getD 1 0)

theorem exec_copyComplete_gone (ho : opOf s core h inst = none) : exec (.copyComplete core h inst) s = .next s := by
  show execCopyComplete core h inst s = _
  rw [execCopyComplete, ho]

theorem exec_copyComplete_shut (ho : opOf s core h inst = some o) (hp : pagesOpen s core o.pages = false) :
    exec (.copyComplete core h inst) s = .next (postFree s 0 (.copyComplete core h inst)) := by
  show execCopyComplete core h inst s = _
  simp only [execCopyComplete, ho, hp, Bool.not_false, if_true]

theorem exec_copyComplete_open (ho : opOf s core h inst = some o) (hp : pagesOpen s core o.pages = true) :
    ∃ eva, exec (.copyComplete core h inst) s =
      .next (fillDone (copyLeft s core h inst o) core h ((o.err.map fun e => e.1).getD 0) 0 eva) := by
  obtain herr | ⟨f, herr⟩ := Option.eq_none_or_eq_some o.err
  · refine ⟨0, ?_⟩
    show execCopyComplete core h inst s = _
    simp only [execCopyComplete, ho, hp, herr, Bool.not_true, Bool.false_eq_true, if_false]
    rfl
  · refine ⟨BitVec.ofNat 64 f.2, ?_⟩
    show execCopyComplete core h inst s = _
    simp only [execCopyComplete, ho, hp, herr, Bool.not_true, Bool.false_eq_true, if_false]
    rfl

theorem copyLeft_onlyWalks (s : State) (core h inst : Nat) (o : EngineOp) : OnlyWalks (copyWritten s core h o) (copyLeft s core h inst o) :=
  OnlyWalks.trans (t := dropOp (copyWritten s core h o) core h inst) rfl (readerDone_onlyWalks ..)

theorem opOf_copyLeft (s : State) (core h inst : Nat) (o : EngineOp) : opOf (copyLeft s core h inst o) core h inst = none := by
  exact (opOf_congr (part_readerDone Core.copies (fun _ _ _ => rfl) _ core o.source _ core) h inst).trans (opOf_dropOp ..)

/-- The end of a copy (R195, R200, R201). -/
theorem copyComplete_ends (ho : opOf s core h inst = some o) (hp : pagesOpen s core o.pages = true) :
    ∃ t, exec (.copyComplete core h inst) s = .next t ∧ t.mem = (copyWritten s core h o).mem ∧ t.beams = (copyWritten s core h o).beams ∧
      opOf t core h inst = none ∧ (handleAt t core h).state = .full ∧ (handleAt t core h).err = (o.err.map fun e => e.1).getD 0 ∧
      Unlocked t core h := by
  obtain ⟨eva, hexec⟩ := exec_copyComplete_open ho hp
  have hwalks : OnlyWalks (copyWritten s core h o) (fillDone (copyLeft s core h inst o) core h ((o.err.map fun e => e.1).getD 0) 0 eva) :=
    (copyLeft_onlyWalks s core h inst o).trans (fillDone_onlyWalks ..)
  refine ⟨_, hexec, hwalks.mem, hwalks.beams, ?_, ?_, ?_, unlocked_fillDone _ core h _ _ _⟩
  · rw [opOf_congr (copies_fillDone ..), opOf_copyLeft]
  · rw [handleAt_fillDone]
    rfl
  · rw [handleAt_fillDone]
    rfl

/-! ## DECODE_START (R208, R278) -/

/-- What the engine has of the quarter's oldest request once it has tried to read its source. -/
def decodeTaken (s : State) (o : EngineOp) : EngineOp :=
  opRead o (decodeRun s (o.args.getD 1 0) o).1 (decodeRun s (o.args.getD 1 0) o).2

theorem exec_decodeStart_idle (hs : lookD s.decoding quarter false = true ∨ lookD s.decodeQ quarter [] = []) :
    exec (.decodeStart quarter) s = .next s := by
  show execDecodeStart quarter s = _
  rw [execDecodeStart]
  split
  · rfl
  · next hidle =>
    rw [hs.resolve_left hidle]

section Start

variable (hd : lookD s.decoding quarter false = false) (hq : lookD s.decodeQ quarter [] = o :: rest)

include hd hq

/-- The decoder has what it needs of the source (R208). -/
theorem decodeStart_reads (hr : (decodeTaken s o).ready = true) : ∃ t, exec (.decodeStart quarter) s = .next t ∧
    lookD t.decoding quarter false = true ∧ (∀ a, memGet t.mem a = memGet s.mem a) ∧
    lookD t.decodeQ quarter [] = decodeTaken s o :: rest ∧ ∃ c, ⟨c, .decodeComplete quarter⟩ ∈ t.agenda ∧ s.clk < c := by
  obtain ⟨hw, -⟩ := engineAsk_keeps s (o.args.getD 1 0) (o.args.headD 0 == 1) (decodeRun s (o.args.getD 1 0) o).2
  have hexec : exec (.decodeStart quarter) s = execDecodeStart quarter s := rfl
  unfold decodeTaken at hr ⊢
  simp only [execDecodeStart, hd, hq, hr, Bool.false_eq_true, if_false, if_true] at hexec
  generalize engineAsk s (o.args.getD 1 0) (o.args.headD 0 == 1) (decodeRun s (o.args.getD 1 0) o).2 = w at hw hexec
  refine ⟨_, hexec, lookD_put_same .., fun a => congrArg (memGet · a) hw.mem, lookD_put_same .., ?_⟩
  rw [← hw.clk]
  exact mem_agenda_postFree { w with decodeQ := _, decoding := _ } 0 _

/-- The decoder needs a walk or a link first (R143, R321). -/
theorem decodeStart_waits (hr : (decodeTaken s o).ready = false) : ∃ t, exec (.decodeStart quarter) s = .next t ∧
    lookD t.decoding quarter false = false ∧ (∀ a, memGet t.mem a = memGet s.mem a) ∧ t.decodeQ = s.decodeQ ∧
    ∃ c, ⟨c, .decodeStart quarter⟩ ∈ t.agenda ∧ s.clk < c := by
  obtain ⟨hw, -⟩ := engineAsk_keeps s (o.args.getD 1 0) (o.args.headD 0 == 1) (decodeRun s (o.args.getD 1 0) o).2
  have hexec : exec (.decodeStart quarter) s = execDecodeStart quarter s := rfl
  unfold decodeTaken at hr
  simp only [execDecodeStart, hd, hq, hr, Bool.false_eq_true, if_false] at hexec
  generalize engineAsk s (o.args.getD 1 0) (o.args.headD 0 == 1) (decodeRun s (o.args.getD 1 0) o).2 = w at hw hexec
  refine ⟨_, hexec, ?_, fun a => congrArg (memGet · a) hw.mem, hw.field (·.decodeQ) fun _ _ _ _ _ => rfl, ?_⟩
  · exact (congrArg (lookD · quarter false) (hw.field (·.decoding) fun _ _ _ _ _ => rfl)).trans hd
  · rw [← hw.clk]
    exact mem_agenda_postFree w 0 _

end Start

/-! ## DECODE_COMPLETE (R211) -/

theorem exec_decodeComplete_empty (hq : lookD s.decodeQ quarter [] = []) :
    exec (.decodeComplete quarter) s = .next { s with decoding := put s.decoding quarter false } := by
  show execDecodeComplete quarter s = _
  rw [execDecodeComplete, hq]

theorem exec_decodeComplete_shut (hq : lookD s.decodeQ quarter [] = o :: rest) (hp : pagesOpen s (o.args.getD 1 0) o.pages = false) :
    exec (.decodeComplete quarter) s = .next (postFree s 0 (.decodeComplete quarter)) := by
  show execDecodeComplete quarter s = _
  simp only [execDecodeComplete, hq, hp, Bool.not_false, if_true]

/-- The state in which a quarter's oldest decode has left the queue, and what it has written once it has not failed. -/
def decodeLeft (s : State) (quarter : Nat) (rest : List EngineOp) : State :=
  { s with decodeQ := put s.decodeQ quarter rest, decoding := put s.decoding quarter false }

def decodeWritten (s : State) (quarter : Nat) (o : EngineOp) (rest : List EngineOp) : State :=
  decodeFinish (decodeLeft s quarter rest) (o.args.getD 1 0) o
    ((handleAt (decodeLeft s quarter rest) (o.args.getD 1 0) (o.handle.getD 0)).range.getD ⟨true, 0, 0⟩)

theorem exec_decodeComplete_open (hq : lookD s.decodeQ quarter [] = o :: rest) (hp : pagesOpen s (o.args.getD 1 0) o.pages = true) :
    ∃ eva, exec (.decodeComplete quarter) s = .next (post (fillDone
      (if o.err = none then decodeWritten s quarter o rest else decodeLeft s quarter rest) (o.args.getD 1 0) (o.handle.getD 0)
      ((o.err.map fun f => f.1).getD 0) 0 eva) 1 (.decodeStart quarter)) := by
  obtain herr | ⟨f, herr⟩ := Option.eq_none_or_eq_some o.err
  · refine ⟨0, ?_⟩
    show execDecodeComplete quarter s = _
    simp only [execDecodeComplete, hq, hp, herr, Bool.not_true, Bool.false_eq_true, if_false, if_true]
    rfl
  · refine ⟨BitVec.ofNat 64 f.2, ?_⟩
    show execDecodeComplete quarter s = _
    simp only [execDecodeComplete, hq, hp, herr, Bool.not_true, Bool.false_eq_true, reduceCtorEq, if_false]
    rfl

theorem decodeComplete_ends (hq : lookD s.decodeQ quarter [] = o :: rest) (hp : pagesOpen s (o.args.getD 1 0) o.pages = true) :
    ∃ t, exec (.decodeComplete quarter) s = .next t ∧ lookD t.decodeQ quarter [] = rest ∧ lookD t.decoding quarter false = false ∧
      t.mem = (if o.err = none then (decodeWritten s quarter o rest).mem else s.mem) ∧
      (handleAt t (o.args.getD 1 0) (o.handle.getD 0)).state = .full ∧
      (handleAt t (o.args.getD 1 0) (o.handle.getD 0)).err = (o.err.map fun f => f.1).getD 0 ∧
      Unlocked t (o.args.getD 1 0) (o.handle.getD 0) ∧ ⟨s.clk + 1, .decodeStart quarter⟩ ∈ t.agenda := by
  obtain ⟨eva, hexec⟩ := exec_decodeComplete_open hq hp
  have honly : OnlyMemory (decodeLeft s quarter rest)
      (if o.err = none then decodeWritten s quarter o rest else decodeLeft s quarter rest) := by
    split
    · exact decodeFinish_only ..
    · exact .refl _
  have hmem : (if o.err = none then decodeWritten s quarter o rest else decodeLeft s quarter rest).mem =
      if o.err = none then (decodeWritten s quarter o rest).mem else s.mem := by
    split <;> rfl
  generalize (if o.err = none then decodeWritten s quarter o rest else decodeLeft s quarter rest) = w at hexec honly hmem
  have hwalks := fillDone_onlyWalks w (o.args.getD 1 0) (o.handle.getD 0) ((o.err.map fun f => f.1).getD 0) 0 eva
  have hat := handleAt_fillDone w (o.args.getD 1 0) (o.handle.getD 0) ((o.err.map fun f => f.1).getD 0) 0 eva
  have hun := unlocked_fillDone w (o.args.getD 1 0) (o.handle.getD 0) ((o.err.map fun f => f.1).getD 0) 0 eva
  generalize fillDone w (o.args.getD 1 0) (o.handle.getD 0) ((o.err.map fun f => f.1).getD 0) 0 eva = v at hexec hwalks hat hun
  have hdecodeQ : v.decodeQ = put s.decodeQ quarter rest :=
    (hwalks.field (·.decodeQ) fun _ _ _ _ _ => rfl).trans (honly.field (·.decodeQ) fun _ _ _ _ _ _ _ => rfl)
  have hdecoding : v.decoding = put s.decoding quarter false :=
    (hwalks.field (·.decoding) fun _ _ _ _ _ => rfl).trans (honly.field (·.decoding) fun _ _ _ _ _ _ _ => rfl)
  have hclk : v.clk = s.clk := hwalks.clk.trans honly.clk
  refine ⟨_, hexec, ?_, ?_, hwalks.mem.trans hmem, congrArg Handle.state hat, congrArg Handle.err hat, hun, ?_⟩
  · exact (congrArg (lookD · quarter []) hdecodeQ).trans (lookD_put_same ..)
  · exact (congrArg (lookD · quarter false) hdecoding).trans (lookD_put_same ..)
  · rw [← hclk]
    exact List.mem_append_right _ (List.mem_singleton_self _)

end Sys2Proof.Machine
end

section
/-!
PROOF of O51, continued: what the completion of a flash command leaves (R203-R207).
-/
namespace Sys2Proof.Machine

open Sys2Proof

set_option Elab.async false

variable {s t u : State} {k : Nat} {c : FlashCmd} {l : List Byte}

/-! ## Submission (R204) -/

theorem fqPut_only (s : State) (k pa : Nat) (l : List Byte) : OnlyMemory s (fqPut s k pa l) := homePut_only ..

/-- Submissions after s leave this of it in t: the heads of the completion queues, what has been sent, and no command that s had not to
submit; and the engines of the cores as they were. -/
structure Submits (s t : State) : Prop where
  step : EngineStep s t
  engines : SameEngines s t
  head : ∀ j, (flashOf t j).head = (flashOf s j).head
  todo : ∀ j, (flashOf t j).todo ⊆ (flashOf s j).todo
  sent : s.sent <+: t.sent

namespace Submits

theorem refl (s : State) : Submits s s := ⟨.refl s, .refl s, fun _ => rfl, fun _ => List.Subset.refl _, List.prefix_refl _⟩

theorem trans (h : Submits s t) (g : Submits t u) : Submits s u :=
  ⟨h.step.trans g.step, h.engines.trans g.engines, fun j => (g.head j).trans (h.head j), fun j => List.Subset.trans (g.todo j) (h.todo j),
    h.sent.trans g.sent⟩

end Submits

theorem flashOf_put (s : State) (k : Nat) (f : FlashRun) (j : Nat) :
    flashOf { s with flash := put s.flash k f } j = if j = k then f else flashOf s j := by
  rw [flashOf, lookD, look_put]
  by_cases h : j = k
  · rw [if_pos h, if_pos h]
  · rw [if_neg h, if_neg h]
    rfl

/-- A submission writes memory, and then moves the tail of its queue. -/
theorem submit_eq (s : State) (k : Nat) (c : FlashCmd) : ∃ w f m, OnlyMemory s w ∧ f.head = (flashOf s k).head ∧
    f.todo = (flashOf s k).todo.drop 1 ∧ submit s k c = { w with flash := put w.flash k f, sent := w.sent ++ m } := by
  unfold submit
  dsimp only
  refine ⟨_, { flashOf s k with
      tail := ((flashOf s k).tail + 1) % (fqSize s k + 1), out := (flashOf s k).out ++ [{ c with cid := (flashOf s k).tail }],
      todo := (flashOf s k).todo.drop 1 }, _, ?_, rfl, rfl, rfl⟩
  refine OnlyMemory.trans ?_ (fqPut_only ..)
  split
  · exact fqPut_only ..
  · exact .refl s

theorem submit_submits (s : State) (k : Nat) (c : FlashCmd) : Submits s (submit s k c) := by
  obtain ⟨w, f, m, hw, hhead, htodo, heq⟩ := submit_eq s k c
  have hflash : ∀ j, flashOf (submit s k c) j = if j = k then f else flashOf s j := fun j => by
    rw [heq]
    refine (flashOf_put w k f j).trans ?_
    rw [flashOf, flashOf, hw.field (·.flash) fun _ _ _ _ _ _ _ => rfl]
  refine ⟨submit_step s k c, OnlyL1.sameEngines (OnlyL1.refl s).submit, fun j => ?_, fun j => ?_, ?_⟩
  · rw [hflash]
    split
    next hj => rw [hhead, hj]
    next => rfl
  · rw [hflash]
    split
    next hj =>
      rw [htodo, hj]
      exact List.drop_subset ..
    next => exact List.Subset.refl _
  · rw [heq, ← hw.sent]
    exact List.prefix_append ..

theorem pumpFlash_submits (k : Nat) : ∀ (fuel : Nat) (s : State), Submits s (pumpFlash k fuel s)
  | 0, s => .refl s
  | fuel + 1, s => by
    unfold pumpFlash
    dsimp only
    split
    · exact .refl s
    · split
      · exact (submit_submits s k _).trans (pumpFlash_submits k fuel _)
      · exact .refl s

theorem pumpFlash_of_nothing (h : (flashOf s k).todo = []) (fuel : Nat) : pumpFlash k (fuel + 1) s = s := by
  rw [pumpFlash, h]

/-! ## The command a completion entry names (R203, R204) -/

theorem head_popEntry (s : State) (k : Nat) (e : List Byte) :
    (flashOf (popEntry s k e) k).head = if (flashOf s k).head = fqSize s k then 0 else (flashOf s k).head + 1 := by
  have hpop : (flashOf (popEntry s k e) k).head = if ((flashOf s k).head == fqSize s k) = true then 0 else (flashOf s k).head + 1 := by
    rw [flashOf, popEntry]
    exact congrArg FlashRun.head (lookD_put_same ..)
  simpa only [beq_iff_eq] using hpop

theorem sent_popEntry (s : State) (k : Nat) (e : List Byte) : (popEntry s k e).sent =
    s.sent ++ [.pcie (fq64 s k 4 + 4 * 2 ^ fld (csrN s 0 (fq k 6)) 31 28)
      (bytesLE 4 (if (flashOf s k).head = fqSize s k then 0 else (flashOf s k).head + 1))] := by
  rw [popEntry]
  simp only [beq_iff_eq]

theorem todo_popEntry (s : State) (k : Nat) (e : List Byte) : (flashOf (popEntry s k e) k).todo = (flashOf s k).todo := by
  rw [flashOf, popEntry]
  exact (congrArg FlashRun.todo (lookD_put_same ..)).trans rfl

/-- What a command has moved is memory or flash contents, and no engine of a core has changed. -/
theorem flashMove_keeps (s : State) (k : Nat) (c : FlashCmd) :
    (flashMove s k c).flash = s.flash ∧ (flashMove s k c).sent = s.sent ∧ SameEngines s (flashMove s k c) := by
  unfold flashMove
  split
  · exact ⟨rfl, rfl, .of_cores rfl⟩
  · have hw := rangeFinish_only s c.core c.pages c.range c.off c.written ((upTo c.len).map fun i => flashGet s (flashPlace s k c.lba i))
    exact ⟨hw.field (·.flash) fun _ _ _ _ _ _ _ => rfl, hw.sent, (OnlyL1.refl s).rangeFinish.sameEngines⟩

/-! ## The operation of a completed command (R195, R206, R207) -/

/-- The operation's commands have still so much to bring. -/
def brought (s : State) (c : FlashCmd) : State := setHandle s c.core c.entry fun h => { h with remain := h.remain - c.len }

/-- Commands of a failed operation that were not submitted are dropped. -/
def unsubmitted (s : State) (c : FlashCmd) : State :=
  { s with flash := s.flash.map fun f =>
    (f.1, { f.2 with todo := f.2.todo.filter fun t => !(t.core == c.core && t.entry == c.entry && t.inst == c.inst) }) }

theorem flashOf_unsubmitted (s : State) (c : FlashCmd) (j : Nat) : flashOf (unsubmitted s c) j =
    { flashOf s j with todo := (flashOf s j).todo.filter fun t => !(t.core == c.core && t.entry == c.entry && t.inst == c.inst) } := by
  rw [flashOf, unsubmitted, lookD, flashOf, lookD, look_map_snd]
  cases look s.flash j <;> rfl

theorem flashStep_more (h : (handleAt s c.core c.entry).remain - c.len ≠ 0) : flashStep s c 0 = brought s c := by
  have hremain : (handleAt (brought s c) c.core c.entry).remain ≠ 0 := by rw [brought, handleAt_setHandle_same]; exact h
  exact if_pos hremain

theorem flashStep_last (h : (handleAt s c.core c.entry).remain - c.len = 0) : flashStep s c 0 =
    if c.write then settleDrain (dropLocks (dropOp (brought s c) c.core c.entry c.inst) c.core c.entry) c.core c.entry
    else fillDone (dropOp (brought s c) c.core c.entry c.inst) c.core c.entry 0 0 0 := by
  have hremain : ¬ (handleAt (brought s c) c.core c.entry).remain ≠ 0 := by rw [brought, handleAt_setHandle_same]; exact not_not.2 h
  exact if_neg hremain

/-- The handle of a failed OFFL. -/
def offlFailed (status : Nat) (eva : DWord) (h : Handle) : Handle :=
  { h with state := .full, pf := false, err := 0x0C, nvs := 2 * status, eva := eva }

theorem flashStep_failed {st : Nat} (h : st ≠ 0) : ∃ eva, flashStep s c st =
    if c.write then handleMoved (dropLocks (dropOp (setHandle (unsubmitted s c) c.core c.entry (offlFailed st eva)) c.core c.entry c.inst)
      c.core c.entry)
    else fillDone (dropOp (unsubmitted s c) c.core c.entry c.inst) c.core c.entry 0x0C (2 * st) eva :=
  ⟨_, if_neg h⟩

/-- Beside the cores, a completed command changes no more than the lists of the commands to submit, and only if it has failed. -/
theorem flashStep_onlyWalks (s : State) (c : FlashCmd) (st : Nat) :
    OnlyWalks (if st = 0 then s else unsubmitted s c) (flashStep s c st) := by
  by_cases hst : st = 0
  · subst hst
    rw [if_pos rfl]
    by_cases h : (handleAt s c.core c.entry).remain - c.len = 0
    · rw [flashStep_last h]
      split
      · exact OnlyWalks.trans (t := dropLocks (dropOp (brought s c) c.core c.entry c.inst) c.core c.entry) rfl (settleDrain_onlyWalks ..)
      · exact OnlyWalks.trans (t := dropOp (brought s c) c.core c.entry c.inst) rfl (fillDone_onlyWalks ..)
    · rw [flashStep_more h]
      exact setHandle_onlyWalks ..
  · rw [if_neg hst]
    obtain ⟨eva, heq⟩ := flashStep_failed (s := s) (c := c) hst
    rw [heq]
    split
    · exact OnlyWalks.trans (t := dropLocks (dropOp (setHandle (unsubmitted s c) c.core c.entry _) c.core c.entry c.inst) c.core c.entry)
        rfl (handleMoved_onlyWalks _)
    · exact OnlyWalks.trans (t := dropOp (unsubmitted s c) c.core c.entry c.inst) rfl (fillDone_onlyWalks ..)

/-- What the state of a handle's operation becomes with a command of it. -/
theorem flashStep_more_handle (h : (handleAt s c.core c.entry).remain - c.len ≠ 0) :
    (handleAt (flashStep s c 0) c.core c.entry).remain = (handleAt s c.core c.entry).remain - c.len ∧
      (handleAt (flashStep s c 0) c.core c.entry).state = (handleAt s c.core c.entry).state := by
  rw [flashStep_more h, brought, handleAt_setHandle_same]
  exact ⟨rfl, rfl⟩

section Last

variable (h : (handleAt s c.core c.entry).remain - c.len = 0)

include h

theorem flashStep_last_unlocked : Unlocked (flashStep s c 0) c.core c.entry := by
  rw [flashStep_last h]
  split
  · exact (unlocked_dropLocks _ _ _).of_locks (part_settleDrain Core.locks (fun _ _ _ => rfl) _ _ _)
  · exact unlocked_fillDone _ _ _ _ _ _

theorem flashStep_last_read (hw : c.write = false) : (handleAt (flashStep s c 0) c.core c.entry).state = .full ∧
    (handleAt (flashStep s c 0) c.core c.entry).err = 0 := by
  rw [flashStep_last h, hw, if_neg Bool.false_ne_true, handleAt_fillDone]
  exact ⟨rfl, rfl⟩

/-- The handle of an OFFL that nothing else keeps Draining leaves it (R206). -/
theorem flashStep_last_write (hw : c.write = true) (ho : offlActive (dropOp s c.core c.entry c.inst) c.core c.entry = false)
    (hd : (handleAt s c.core c.entry).state = .draining) (hn : (handleAt s c.core c.entry).drn = 0) :
    (handleAt (flashStep s c 0) c.core c.entry).state = if (handleAt s c.core c.entry).pf then .free else .full := by
  have hat : handleAt (dropLocks (dropOp (brought s c) c.core c.entry c.inst) c.core c.entry) c.core c.entry =
      { handleAt s c.core c.entry with remain := (handleAt s c.core c.entry).remain - c.len } := by
    rw [handleAt_dropLocks, handleAt_dropOp, brought, handleAt_setHandle_same]
  have hidle : offlActive (dropLocks (dropOp (brought s c) c.core c.entry c.inst) c.core c.entry) c.core c.entry = false := by
    rw [offlActive_congr (s := dropOp s c.core c.entry c.inst), ho]
    rw [copies_dropLocks, copies_dropOp, copies_dropOp, brought, copies_setHandle]
  rw [flashStep_last h, hw, if_pos rfl, settleDrain_of_idle (by rw [hat]; exact hd) (by rw [hat]; exact hn) hidle, handleAt_handleMoved,
    handleAt_setHandle_same, hat, settled]
  split <;> rfl

end Last

/-- An operation whose command has failed (R206). -/
theorem flashStep_failed_handle {st : Nat} (h : st ≠ 0) : Unlocked (flashStep s c st) c.core c.entry ∧
    (handleAt (flashStep s c st) c.core c.entry).err = 0x0C ∧ (handleAt (flashStep s c st) c.core c.entry).nvs = 2 * st ∧
      (handleAt (flashStep s c st) c.core c.entry).state = .full := by
  obtain ⟨eva, heq⟩ := flashStep_failed (s := s) (c := c) h
  rw [heq]
  split
  · refine ⟨(unlocked_dropLocks _ _ _).of_locks fun k => by rw [coreOf_handleMoved], ?_⟩
    rw [handleAt_handleMoved, handleAt_dropLocks, handleAt_dropOp, handleAt_setHandle_same]
    exact ⟨rfl, rfl, rfl⟩
  · refine ⟨unlocked_fillDone _ _ _ _ _ _, ?_⟩
    rw [handleAt_fillDone]
    exact ⟨rfl, rfl, rfl⟩

end Sys2Proof.Machine
end

section
/-!
PROOF of O51, concluded: the completion entry of a flash command from the controller's write to what it ends (R203, R204).
-/
namespace Sys2Proof.Machine

open Sys2Proof

set_option Elab.async false

variable {s : State} {k : Nat} {e : List Byte} {c : FlashCmd}

/-! ## An entry that is taken (R204) -/

/-- The controller has carried out the command of an entry, unless it has failed. -/
def carried (s : State) (k : Nat) (e : List Byte) (c : FlashCmd) : State :=
  if entryStatus c e = 0 then flashMove (popEntry s k e) k c else popEntry s k e

/-- The operation of the command, if it still goes on, has taken the completion. -/
def stepped (s : State) (k : Nat) (e : List Byte) (c : FlashCmd) : State :=
  if (opOf (carried s k e c) c.core c.entry c.inst).isSome then flashStep (carried s k e c) c (entryStatus c e) else carried s k e c

theorem takeCompletion_eq (hc : ((flashOf s k).out.find? fun c => c.cid == leAt e 12 2) = some c) :
    takeCompletion s k e = pumpFlash k (fqSize (stepped s k e c) k + 1) (stepped s k e c) := by
  rw [takeCompletion, hc]
  rfl

theorem carried_of_success (h : entryStatus c e = 0) : carried s k e c = flashMove (popEntry s k e) k c := if_pos h

theorem carried_keeps (s : State) (k : Nat) (e : List Byte) (c : FlashCmd) : (carried s k e c).flash = (popEntry s k e).flash ∧
    (carried s k e c).sent = (popEntry s k e).sent ∧ SameEngines s (carried s k e c) := by
  obtain ⟨hflash, hsent, hengines⟩ := flashMove_keeps (popEntry s k e) k c
  have hpop : SameEngines s (popEntry s k e) := .of_cores rfl
  unfold carried
  split
  · exact ⟨hflash, hsent, hpop.trans hengines⟩
  · exact ⟨rfl, rfl, hpop⟩

theorem stepped_of_mine (h : (opOf s c.core c.entry c.inst).isSome = true) :
    stepped s k e c = flashStep (carried s k e c) c (entryStatus c e) := by
  obtain ⟨-, -, hengines⟩ := carried_keeps s k e c
  exact if_pos (by rw [hengines.opOf]; exact h)

/-- Beside the cores, the operation's step changes no more than the lists of the commands to submit, and only if the command has failed. -/
theorem stepped_onlyWalks (s : State) (k : Nat) (e : List Byte) (c : FlashCmd) :
    OnlyWalks (carried s k e c) (stepped s k e c) ∨
      OnlyWalks (unsubmitted (carried s k e c) c) (stepped s k e c) ∧ entryStatus c e ≠ 0 := by
  unfold stepped
  split
  · have hstep := flashStep_onlyWalks (carried s k e c) c (entryStatus c e)
    by_cases hst : entryStatus c e = 0
    · rw [if_pos hst] at hstep
      exact .inl hstep
    · rw [if_neg hst] at hstep
      exact .inr ⟨hstep, hst⟩
  · exact .inl (.refl _)

theorem OnlyWalks.flashOf {s t : State} (h : OnlyWalks s t) (j : Nat) : flashOf t j = flashOf s j :=
  h.field (Machine.flashOf · j) fun _ _ _ _ _ => rfl

theorem OnlyWalks.sent {s t : State} (h : OnlyWalks s t) : t.sent = s.sent := by rw [h]

theorem stepped_queue (s : State) (k : Nat) (e : List Byte) (c : FlashCmd) :
    (flashOf (stepped s k e c) k).head = (flashOf (popEntry s k e) k).head ∧
      (flashOf (stepped s k e c) k).todo ⊆ (flashOf s k).todo ∧ (stepped s k e c).sent = (popEntry s k e).sent := by
  obtain ⟨hflash, hsent, -⟩ := carried_keeps s k e c
  have hpair : flashOf (carried s k e c) k = flashOf (popEntry s k e) k := congrArg (lookD · k _) hflash
  have htodo : (flashOf (carried s k e c) k).todo = (flashOf s k).todo := by rw [hpair, todo_popEntry]
  obtain h | ⟨h, -⟩ := stepped_onlyWalks s k e c
  · rw [h.flashOf, h.sent, hpair, hsent]
    exact ⟨rfl, by rw [← hpair, htodo]; exact List.Subset.refl _, rfl⟩
  · rw [h.flashOf, flashOf_unsubmitted, h.sent]
    exact ⟨by rw [hpair], by rw [htodo]; exact List.filter_subset_self _, hsent⟩

theorem stepped_of_success (h : entryStatus c e = 0) : OnlyWalks (flashMove (popEntry s k e) k c) (stepped s k e c) := by
  obtain hw | ⟨-, hst⟩ := stepped_onlyWalks s k e c
  · rwa [carried_of_success h] at hw
  · exact absurd h hst

/-! ## What the entry's operation becomes (R195, R206, R207) -/

/-- A failed operation has no command left to submit. -/
theorem unsubmitted_stepped (h : (opOf s c.core c.entry c.inst).isSome = true) (hst : entryStatus c e ≠ 0) (j : Nat) :
    ∀ d ∈ (flashOf (stepped s k e c) j).todo, ¬ (d.core = c.core ∧ d.entry = c.entry ∧ d.inst = c.inst) := by
  intro d hd
  have hw := flashStep_onlyWalks (carried s k e c) c (entryStatus c e)
  rw [if_neg hst] at hw
  rw [stepped_of_mine h, hw.flashOf, flashOf_unsubmitted] at hd
  have hne := (List.mem_filter.1 hd).2
  rintro ⟨hcore, hentry, hinst⟩
  rw [hcore, hentry, hinst] at hne
  simp at hne

section Mine

variable (s k e c)

/-- What the completion of a command leaves of the handle of its operation. -/
structure Completed (t : State) : Prop where
  more : entryStatus c e = 0 → (handleAt s c.core c.entry).remain - c.len ≠ 0 →
    (handleAt t c.core c.entry).remain = (handleAt s c.core c.entry).remain - c.len ∧
      (handleAt t c.core c.entry).state = (handleAt s c.core c.entry).state
  last : entryStatus c e = 0 → (handleAt s c.core c.entry).remain - c.len = 0 → Unlocked t c.core c.entry ∧
    (c.write = false → (handleAt t c.core c.entry).state = .full ∧ (handleAt t c.core c.entry).err = 0) ∧
    (c.write = true → offlActive (dropOp s c.core c.entry c.inst) c.core c.entry = false ∧ (handleAt s c.core c.entry).state = .draining ∧
      (handleAt s c.core c.entry).drn = 0 →
      (handleAt t c.core c.entry).state = if (handleAt s c.core c.entry).pf then .free else .full)
  failed : entryStatus c e ≠ 0 → Unlocked t c.core c.entry ∧ (handleAt t c.core c.entry).err = 0x0C ∧
    (handleAt t c.core c.entry).nvs = 2 * entryStatus c e ∧ (handleAt t c.core c.entry).state = .full

end Mine

theorem completed_stepped (h : (opOf s c.core c.entry c.inst).isSome = true) : Completed s e c (stepped s k e c) := by
  obtain ⟨-, -, hengines⟩ := carried_keeps s k e c
  have hactive : offlActive (dropOp (carried s k e c) c.core c.entry c.inst) c.core c.entry =
      offlActive (dropOp s c.core c.entry c.inst) c.core c.entry :=
    offlActive_congr (by rw [copies_dropOp, copies_dropOp, hengines.copies]) _
  rw [stepped_of_mine h]
  refine ⟨fun hst hmore => ?_, fun hst hlast => ?_, flashStep_failed_handle⟩
  · rw [hst, ← hengines.handleAt] at *
    exact flashStep_more_handle hmore
  · rw [hst]
    rw [← hactive, ← hengines.handleAt] at *
    exact ⟨flashStep_last_unlocked hlast, flashStep_last_read hlast, fun hw ⟨ho, hd, hn⟩ => flashStep_last_write hlast hw ho hd hn⟩

theorem Completed.of_engines {t u : State} (h : Completed s e c t) (g : SameEngines t u) : Completed s e c u := by
  refine ⟨fun hst hmore => ?_, fun hst hlast => ?_, fun hst => ?_⟩
  · rw [g.handleAt]
    exact h.more hst hmore
  · obtain ⟨hun, hread, hwrite⟩ := h.last hst hlast
    rw [g.handleAt]
    exact ⟨hun.of_locks g.locks, hread, hwrite⟩
  · obtain ⟨hun, hhandle⟩ := h.failed hst
    rw [g.handleAt]
    exact ⟨hun.of_locks g.locks, hhandle⟩

/-- What an entry that names a command leaves: the queue moved on, what the command has brought, and its operation's handle. -/
theorem takeCompletion_spec (hc : ((flashOf s k).out.find? fun c => c.cid == leAt e 12 2) = some c) :
    (flashOf (takeCompletion s k e) k).head = (flashOf (popEntry s k e) k).head ∧
      (popEntry s k e).sent <+: (takeCompletion s k e).sent ∧
      (entryStatus c e = 0 → (takeCompletion s k e).flashMem = (flashMove (popEntry s k e) k c).flashMem ∧
        ((flashOf s k).todo = [] → (takeCompletion s k e).mem = (flashMove (popEntry s k e) k c).mem)) ∧
      ((opOf s c.core c.entry c.inst).isSome = true → Completed s e c (takeCompletion s k e) ∧
        (entryStatus c e ≠ 0 → ∀ j, ∀ d ∈ (flashOf (takeCompletion s k e) j).todo,
          ¬ (d.core = c.core ∧ d.entry = c.entry ∧ d.inst = c.inst))) := by
  obtain ⟨hhead, htodo, hsent⟩ := stepped_queue s k e c
  have hsub := pumpFlash_submits k (fqSize (stepped s k e c) k + 1) (stepped s k e c)
  have hidle : (flashOf s k).todo = [] → pumpFlash k (fqSize (stepped s k e c) k + 1) (stepped s k e c) = stepped s k e c := fun hnone =>
    pumpFlash_of_nothing (List.subset_nil.1 (hnone ▸ htodo)) _
  rw [takeCompletion_eq hc]
  generalize pumpFlash k (fqSize (stepped s k e c) k + 1) (stepped s k e c) = t at hsub hidle
  refine ⟨(hsub.head k).trans hhead, hsent ▸ hsub.sent, fun hst => ⟨?_, fun hnone => ?_⟩, fun hmine => ⟨?_, fun hst j d hd => ?_⟩⟩
  · rw [hsub.step]
    exact (stepped_of_success hst).field (·.flashMem) fun _ _ _ _ _ => rfl
  · rw [hidle hnone]
    exact (stepped_of_success hst).mem
  · exact (completed_stepped hmine).of_engines hsub.engines
  · exact unsubmitted_stepped hmine hst j d (hsub.todo j hd)

/-! ## NVME_COMPLETION (R203, R204) -/

section Nvme

variable {qp cid sqhead status : Nat}

theorem exec_nvmeCompletion_stray (ho : ((flashOf s qp).out.any fun c => c.cid == cid) = false) :
    exec (.nvmeCompletion qp (cid, sqhead) status) s = .next s := by
  show execNvmeCompletion qp (cid, sqhead) status s = _
  simp only [execNvmeCompletion, ho, Bool.false_eq_true, if_false]

variable (ho : ((flashOf s qp).out.any fun c => c.cid == cid) = true)

include ho

theorem exec_nvmeCompletion_shut (hf : fqOpen s qp (cqPlace s qp) = false) :
    exec (.nvmeCompletion qp (cid, sqhead) status) s = .next (post s 40 (.nvmeCompletion qp (cid, sqhead) status)) := by
  show execNvmeCompletion qp (cid, sqhead) status s = _
  simp only [execNvmeCompletion, ho, hf, Bool.not_false, if_true]

/-- The controller has written its entry. -/
def entryWritten (s : State) (qp cid sqhead status : Nat) : State :=
  fqPut s qp (cqPlace s qp) (cqe s qp cid sqhead status (flashOf s qp).phase)

variable (hf : fqOpen s qp (cqPlace s qp) = true)

include hf

theorem exec_nvmeCompletion_bad
    (hb : fillBad (entryWritten s qp cid sqhead status) (fqPart (entryWritten s qp cid sqhead status) qp) 0 (cqPlace s qp) = true) :
    exec (.nvmeCompletion qp (cid, sqhead) status) s = .next (csrPut (entryWritten s qp cid sqhead status) 0 (fq qp 11)
      (csrGet (entryWritten s qp cid sqhead status) 0 (fq qp 11) ||| 4)) := by
  show execNvmeCompletion qp (cid, sqhead) status s = _
  unfold entryWritten at hb ⊢
  simp only [execNvmeCompletion, ho, hf, hb, Bool.not_true, Bool.false_eq_true, if_false, if_true]

theorem exec_nvmeCompletion_takes
    (hb : fillBad (entryWritten s qp cid sqhead status) (fqPart (entryWritten s qp cid sqhead status) qp) 0 (cqPlace s qp) = false)
    (he : homeRead (entryWritten s qp cid sqhead status) (fqPart (entryWritten s qp cid sqhead status) qp) (cqPlace s qp) 16 = e)
    (hp : bit (leAt e 12 4) 16 = (flashOf (entryWritten s qp cid sqhead status) qp).phase) :
    exec (.nvmeCompletion qp (cid, sqhead) status) s = .next (takeCompletion (entryWritten s qp cid sqhead status) qp e) := by
  show execNvmeCompletion qp (cid, sqhead) status s = _
  unfold entryWritten at hb he hp ⊢
  simp only [execNvmeCompletion, ho, hf, hb, he, hp, Bool.not_true, Bool.false_eq_true, if_false, if_true]

end Nvme

end Sys2Proof.Machine

namespace Sys2Proof.Certificates

open Sys2Proof Sys2Proof.Machine

/-- Settles O51, by what each completion leaves in each of its cases: for a copy and a decode by the engine's own equation, for a flash
command by the queue's move, the command's and its operation's. -/
theorem requestsEnd : Obligations.RequestsEnd := by
  unfold Obligations.RequestsEnd
  intro s
  refine ⟨fun core h inst => ⟨exec_copyComplete_gone, fun o ho => ?_⟩, fun qp cid sqhead status => ?_, fun quarter =>
    ⟨exec_decodeStart_idle, fun o rest hd hq => ?_, exec_decodeComplete_empty, fun o rest hq => ?_⟩⟩
  · exact ⟨fun hp => ⟨_, exec_copyComplete_shut ho hp, ho, rfl, mem_agenda_postFree s 0 _⟩, copyComplete_ends ho⟩
  · dsimp only
    refine ⟨exec_nvmeCompletion_stray, fun ho => ⟨exec_nvmeCompletion_shut ho, exec_nvmeCompletion_bad ho, fun hf hb hp c hc => ?_⟩⟩
    obtain ⟨hhead, hsent, hmoved, hmine⟩ := takeCompletion_spec hc
    rw [head_popEntry] at hhead
    refine ⟨_, exec_nvmeCompletion_takes ho hf hb rfl hp, hhead, ?_, hmoved, fun h => (hmine h).1.more, fun h => (hmine h).1.last,
      fun h hst => ?_⟩
    · rw [sent_popEntry] at hsent
      exact hsent
    · obtain ⟨hcompleted, htodo⟩ := hmine h
      obtain ⟨hun, herr, hnvs, hfull⟩ := hcompleted.failed hst
      exact ⟨hun, herr, hnvs, hfull, htodo hst⟩
  · exact ⟨decodeStart_reads hd hq, decodeStart_waits hd hq⟩
  · exact ⟨fun hp => ⟨_, exec_decodeComplete_shut hq hp, rfl, rfl, mem_agenda_postFree s 0 _⟩, decodeComplete_ends hq⟩

end Sys2Proof.Certificates
end

section
/-!
PROOF of O5. The state after reset (R324).
-/
namespace Sys2Proof.Certificates

open Sys2Proof Sys2Proof.Machine

/-- Settles O5: memory after reset lists nothing (`memWf_reset`), and neither does the table of beams. -/
theorem resetInvariant : Obligations.ResetInvariant := ⟨memWf_reset, rfl⟩

end Sys2Proof.Certificates
end

section
/-!
SUPPORT. Instructions that give an engine an operation and hold their beam for it (R228, R240, R251): what their issue comes to once their
block is found, and what the beam, the cores and the agenda are then.
-/
namespace Sys2Proof.Machine

open Sys2Proof

set_option Elab.async false

variable {s t u : State} {x : Sel} {a : Src} {i : Instr} {e : Effect} {sc : Scope} {size : Nat} {bl : Block} {g : Gang} {gr : Grid}
  {q : List Byte} {c : Beam}

/-! ## Issues that leave the lanes of their beam alone -/

/-- Such an issue ends with the run's advance; what holds the beam, the cores and the agenda are as the effect left them. -/
theorem exec_of_done (ht : Turn s x) (hi : exec i s = issue 4 e s) (he : e x s = .done u []) (hc : beamOf u x.key = some c)
    (hl : c.lanes = x.beam.lanes) :
    ∃ t b, exec i s = .next t ∧ beamOf t x.key = some b ∧ Advanced x b ∧ b.hold = c.hold ∧ t.cores = u.cores ∧ t.agenda = u.agenda :=
  ⟨_, _, exec_done_eq ht hi he hc (by rw [lanesIn, hl]; exact selected_runnable ht.1), beamOf_advanced u x c, advanced_finished ht hl, rfl,
    rfl, rfl⟩

/-- A beam that has released has the lanes it had. -/
theorem beamOf_releaseAt (ht : Turn s x) (sc : Scope) : ∃ c, beamOf (releaseAt s x.key sc) x.key = some c ∧ c.lanes = x.beam.lanes := by
  obtain ⟨c, hc, hcb, -⟩ := (releaseAt_performs s x.key sc).beam x.beam ht.2
  exact ⟨c, hc, by rw [hcb]⟩

/-- A release leaves every part of the cores beside their L1. -/
theorem releaseAt_onlyL1 (s : State) (k : Nat) (sc : Scope) : OnlyL1 s (releaseAt s k sc) := (OnlyL1.refl s).performAll.releaseCaches

theorem homeOf_released (h : homeOf s x.beam = some (bl, g, gr)) (hu : u = releaseAt s x.key sc) : homeOf u x.beam = some (bl, g, gr) := by
  rw [hu, homeOf_releaseAt, h]

/-- A property in which every lane of the run agrees with the first is uniform. -/
theorem uniform_of_first {α : Type} [DecidableEq α] {f : Lane → α} (h : ∀ j ∈ x.run, f (laneOf x.beam j) = f (laneOf x.beam (leastD 0 x.run))) :
    uniform x f = true := (uniform_iff f).2 fun j hj k hk => (h j hj).trans (h k hk).symm

/-! ## Locks (R197) -/

/-- Taking locks leaves every part of the cores beside their locks and their L1. -/
theorem part_takeLocks {α : Type} (f : Core → α) (h1 : ∀ c, f (besidesL1 c) = f c) (hl : ∀ (c : Core) (l : List Lock), f { c with locks := l } = f c)
    (s : State) (core id h : Nat) (rs : List (Range × Bool)) (d : Nat) : f (coreOf (takeLocks s core id h rs) d) = f (coreOf s d) := by
  refine Eq.trans ?_ ((OnlyL1.refl s).settleCluster (core := core) |>.part f h1 d)
  refine List.foldlRecOn (motive := fun t : State => f (coreOf t d) = f (coreOf (settleCluster s core) d)) _ _ rfl fun t ht r _ => ?_
  split
  · exact ht
  · exact (part_setCore f (hl _ _) d).trans ht

/-! ## The operation, and the beam that it holds -/

/-- The operation that such an instruction gives its engine, of number `id`. -/
def heldOp (x : Sel) (i : Instr) (id : Nat) (params : List Byte) (args : List Nat) : EngineOp :=
  { instr := i, beam := x.key, block := x.beam.block, handle := none, inst := id, params := params, args := (selSup x).toNat :: args,
    pages := [], source := none, ready := true, data := [], err := none, written := [] }

theorem heldOp_is (x : Sel) (i : Instr) (id : Nat) (params : List Byte) (args : List Nat) : OpIs (heldOp x i id params args) x i params args :=
  ⟨rfl, rfl, rfl, rfl, rfl⟩

/-- The state in which the locks of its operation, the next in number, have been taken and the beam waits for it. -/
def heldFor (x : Sel) (u : State) (rs : List (Range × Bool)) : State :=
  onBeam (takeLocks (draw (newKey u).2) (selCore x) (opOwner (newKey u).1) (drawn (newKey u).2 256) rs) x.key fun b =>
    { b with hold := .engine (newKey u).1 }

theorem beamOf_heldFor (hc : beamOf u x.key = some c) (rs : List (Range × Bool)) :
    ∃ d, beamOf (heldFor x u rs) x.key = some d ∧ d.lanes = c.lanes ∧ d.hold = .engine u.nextKey := by
  obtain ⟨d, hd, hdl⟩ := (takeLocks_settles (draw (newKey u).2) (selCore x) (opOwner (newKey u).1) (drawn (newKey u).2 256) rs).lanes x.key c hc
  exact ⟨{ d with hold := .engine u.nextKey }, by rw [heldFor, onBeam_some hd, beamOf_setBeam_same]; rfl, hdl, rfl⟩

theorem clk_heldFor (x : Sel) (u : State) (rs : List (Range × Bool)) : (heldFor x u rs).clk = u.clk := (takeLocks_settles ..).clk

theorem part_heldFor {α : Type} (f : Core → α) (h1 : ∀ c, f (besidesL1 c) = f c) (hl : ∀ (c : Core) (l : List Lock), f { c with locks := l } = f c)
    (x : Sel) (u : State) (rs : List (Range × Bool)) (d : Nat) : f (coreOf (heldFor x u rs) d) = f (coreOf u d) :=
  part_takeLocks f h1 hl (draw (newKey u).2) _ _ _ rs d

/-! ## The matrix queue (R215, R228) -/

theorem matrixQ_enterMatrix (s : State) (core : Nat) (l : List EngineOp) :
    (coreOf (enterMatrix s core l) core).matrixQ = (coreOf s core).matrixQ ++ l :=
  congrArg Core.matrixQ (coreOf_setCore_same s core fun c => { c with matrixQ := c.matrixQ ++ l })

theorem syncIssue_of_block {first : Sel → State → Block → Gang → Grid → Option Trap} {plan : Sel → State → Block → Gang → Grid → List Byte → SCheck}
    {p : SPlan} (B : BlockAt s u x a size bl g gr q) (hf : first x u bl g gr = none) (hp : plan x u bl g gr q = .ok p) :
    syncIssue i a size first plan x s = syncEnter x i u p := by
  obtain ⟨t, hplace, rfl⟩ := B.place
  unfold syncIssue
  rw [gated_ready B.full, released_of_calm B.calm, ← show u = _ from B.acts]
  simp only [homeOf_released B.home B.acts, hf, B.aligned, hplace, hp, ne_eq, not_true_eq_false, if_false]

theorem syncEnter_of_room {p : SPlan} (hr : matrixRoom u (selCore x) 1 = true) (hl : locksFree u (selCore x) p.ranges = true) :
    syncEnter x i u p = .done (enterMatrix (heldFor x u p.ranges) (selCore x) [heldOp x i u.nextKey p.params p.args]) [] := by
  rw [syncEnter, hr, hl]
  rfl

theorem syncIssue_of_held {first : Sel → State → Block → Gang → Grid → Option Trap} {plan : Sel → State → Block → Gang → Grid → List Byte → SCheck}
    (hr : ready x x.run [srcUse a 1] [] = true) (hc : heldBack s x .gang = true) :
    syncIssue i a size first plan x s = .hold (performAll s x.key) := by
  unfold syncIssue
  rw [gated_ready hr, released_of_held hc]

/-- An instruction that reaches the queue and finds room joins it, and holds its beam. -/
theorem exec_joinsMatrix {p : SPlan} (ht : Turn s x) (hu : u = releaseAt s x.key sc) (hi : exec i s = issue 4 e s)
    (he : e x s = syncEnter x i u p) (hr : matrixRoom u (selCore x) 1 = true) (hl : locksFree u (selCore x) p.ranges = true) :
    ∃ t b, exec i s = .next t ∧ beamOf t x.key = some b ∧ Advanced x b ∧ JoinsMatrix s t x b i p.params p.args := by
  obtain ⟨c, hc, hcl⟩ := beamOf_releaseAt ht sc
  rw [← hu] at hc
  obtain ⟨d, hd, hdl, hhold⟩ := beamOf_heldFor hc p.ranges
  obtain ⟨t, b, hexec, hb, hadv, hbh, hcores, hagenda⟩ := exec_of_done ht hi (he.trans (syncEnter_of_room hr hl)) hd (hdl.trans hcl)
  have hclk : u.clk = s.clk := by rw [hu]; exact (releaseAt_performs s x.key sc).clk
  have hq : (coreOf u (selCore x)).matrixQ = (coreOf s (selCore x)).matrixQ := by
    rw [hu]; exact (releaseAt_onlyL1 s x.key sc).part Core.matrixQ (fun _ => rfl) _
  refine ⟨t, b, hexec, hb, hadv, ?_, heldOp x i u.nextKey p.params p.args, ?_, heldOp_is .., hbh.trans hhold⟩
  · rw [hagenda, ← hclk, ← clk_heldFor x u p.ranges]
    exact mem_agenda_post _ _
  · rw [← hq, ← part_heldFor Core.matrixQ (fun _ => rfl) (fun _ _ => rfl) x u p.ranges (selCore x), coreOf, hcores]
    exact matrixQ_enterMatrix _ _ _

/-! ## The rule queue (R251) -/

theorem ruleIssue_of_block {plan : Sel → State → Block → Gang → Grid → List Byte → Except Trap (List (Range × Bool) × List Nat)}
    {p : List (Range × Bool) × List Nat} (B : BlockAt s u x a size bl g gr q) (hp : plan x u bl g gr q = .ok p) :
    ruleIssue i a size plan x s = ruleEnter x i u p.1 q p.2 := by
  obtain ⟨t, hplace, rfl⟩ := B.place
  unfold ruleIssue
  rw [gated_ready B.full, released_of_calm B.calm, ← show u = _ from B.acts]
  simp only [homeOf_released B.home B.acts, B.aligned, hplace, hp, ne_eq, not_true_eq_false, if_false]

/-- What a rule operation holds in its numbers beside PSW.SUP. -/
def ruleArgs (x : Sel) (places : List Nat) : List Nat := [places.getD 0 0, places.getD 1 0, maskOf x.run, (selPc x).toNat]

/-- A rule operation has joined the queue of its core. -/
def ruleQueued (x : Sel) (i : Instr) (u : State) (rs : List (Range × Bool)) (params : List Byte) (places : List Nat) : State :=
  setCore (heldFor x u rs) (selCore x) fun c => { c with ruleQ := c.ruleQ ++ [heldOp x i u.nextKey params (ruleArgs x places)] }

theorem ruleQ_ruleQueued (x : Sel) (i : Instr) (u : State) (rs : List (Range × Bool)) (params : List Byte) (places : List Nat) :
    (coreOf (ruleQueued x i u rs params places) (selCore x)).ruleQ =
      (coreOf (heldFor x u rs) (selCore x)).ruleQ ++ [heldOp x i u.nextKey params (ruleArgs x places)] :=
  congrArg Core.ruleQ (coreOf_setCore_same (heldFor x u rs) (selCore x) fun c =>
    { c with ruleQ := c.ruleQ ++ [heldOp x i u.nextKey params (ruleArgs x places)] })

theorem ruleEnter_of_room {rs : List (Range × Bool)} {params : List Byte} {places : List Nat} (hr : (coreOf u (selCore x)).ruleQ.length < 8)
    (hl : locksFree u (selCore x) rs = true) :
    ruleEnter x i u rs params places = .done (post (ruleQueued x i u rs params places) 0 (.ruleQueueDispatch (selCore x))) [] := by
  have hno : ¬ (8 ≤ (coreOf u (selCore x)).ruleQ.length ∨ locksFree u (selCore x) rs = false) := by
    rw [hl]
    exact fun h => h.elim (fun h => absurd hr (Nat.not_lt.2 h)) nofun
  rw [ruleEnter, if_neg hno]
  rfl

/-- The same of the rule queue. -/
theorem exec_joinsRules {rs : List (Range × Bool)} {params : List Byte} {places : List Nat} (ht : Turn s x) (hu : u = releaseAt s x.key sc)
    (hi : exec i s = issue 4 e s) (he : e x s = ruleEnter x i u rs params places) (hr : (coreOf u (selCore x)).ruleQ.length < 8)
    (hl : locksFree u (selCore x) rs = true) :
    ∃ t b, exec i s = .next t ∧ beamOf t x.key = some b ∧ Advanced x b ∧ JoinsRules s t x b i params places := by
  obtain ⟨c, hc, hcl⟩ := beamOf_releaseAt ht sc
  rw [← hu] at hc
  obtain ⟨d, hd, hdl, hhold⟩ := beamOf_heldFor hc rs
  obtain ⟨t, b, hexec, hb, hadv, hbh, hcores, hagenda⟩ := exec_of_done ht hi (he.trans (ruleEnter_of_room hr hl)) hd (hdl.trans hcl)
  have hclk : u.clk = s.clk := by rw [hu]; exact (releaseAt_performs s x.key sc).clk
  have hq : (coreOf u (selCore x)).ruleQ = (coreOf s (selCore x)).ruleQ := by
    rw [hu]; exact (releaseAt_onlyL1 s x.key sc).part Core.ruleQ (fun _ => rfl) _
  refine ⟨t, b, hexec, hb, hadv, ?_, heldOp x i u.nextKey params (ruleArgs x places), ?_, heldOp_is .., hbh.trans hhold⟩
  · rw [hagenda, ← hclk, ← clk_heldFor x u rs]
    exact mem_agenda_post _ _
  · rw [← hq, ← part_heldFor Core.ruleQ (fun _ => rfl) (fun _ _ => rfl) x u rs (selCore x), coreOf, hcores]
    exact ruleQ_ruleQueued x i u rs params places

end Sys2Proof.Machine
end

section
/-!
SUPPORT. How the operations of the matrix and rule engines end (R224, R228, R249, R251): what they write, and what the end of one sets free.
-/
namespace Sys2Proof.Machine

open Sys2Proof

set_option Elab.async false

variable {s t u : State} {core d k n : Nat} {o : EngineOp} {gr : Grid}

/-! ## Writes of local memory (R138) -/

/-- The state t differs from s in its memory alone. -/
def OnlyMem (s t : State) : Prop := t = { s with mem := t.mem }

namespace OnlyMem

theorem refl (s : State) : OnlyMem s s := rfl

theorem trans (h : OnlyMem s t) (g : OnlyMem t u) : OnlyMem s u := by
  unfold OnlyMem at *
  rw [g, h]

theorem foldl {α : Type} {f : State → α → State} (hf : ∀ s a, OnlyMem s (f s a)) : ∀ (l : List α) (s : State), OnlyMem s (l.foldl f s)
  | [], s => .refl s
  | a :: l, s => (hf s a).trans (foldl hf l (f s a))

theorem cores (h : OnlyMem s t) : t.cores = s.cores := by rw [h]
theorem beams (h : OnlyMem s t) : t.beams = s.beams := by rw [h]
theorem blocks (h : OnlyMem s t) : t.blocks = s.blocks := by rw [h]
theorem coreOf (h : OnlyMem s t) (core : Nat) : coreOf t core = coreOf s core := congrArg (lookD · core _) h.cores
theorem slotAt (h : OnlyMem s t) (core n : Nat) : slotAt t core n = slotAt s core n := by
  rw [Machine.slotAt, h.coreOf]
  rfl

end OnlyMem

theorem localPut_onlyMem (s : State) (at_ : Nat) (l : List Byte) : OnlyMem s (localPut s at_ l) := rfl

theorem landTile_onlyMem (y : Tile) (at_ : Nat) (s : State) (lines : List (List Byte)) : OnlyMem s (landTile y at_ s lines) :=
  .foldl (fun s _ => localPut_onlyMem s _ _) _ s

theorem putRow_onlyMem (d out pitch sc : Nat) (s : State) (r : Nat) (c : List Nat × List Nat) : OnlyMem s (putRow d out pitch sc s r c) := by
  unfold putRow
  dsimp only
  split
  · exact (localPut_onlyMem s _ _).trans (localPut_onlyMem _ _ _)
  · exact localPut_onlyMem s _ _

theorem convertSlot_onlyMem (gr : Grid) (q : List Byte) (out sc : Nat) (y : Slot) (s : State) : OnlyMem s (convertSlot gr q out sc y s) :=
  .foldl (fun s _ => putRow_onlyMem _ _ _ _ s _ _) _ s

theorem convertTile_onlyMem (gr : Grid) (d : Nat) (q : List Byte) (inp out sc : Nat) (s : State) :
    OnlyMem s (convertTile gr d q inp out sc s) :=
  .foldl (fun s _ => putRow_onlyMem _ _ _ _ s _ _) _ s

theorem performSig_onlyMem (s : State) (o : EngineOp) (gr : Grid) : OnlyMem s (performSig s o gr) :=
  OnlyMem.trans (.foldl (fun s _ => localPut_onlyMem s _ _) _ s) (localPut_onlyMem _ _ _)

theorem performSbwd_onlyMem (s : State) (o : EngineOp) : OnlyMem s (performSbwd s o) :=
  .foldl (fun s _ => localPut_onlyMem s _ _) _ s

theorem ruleGeneration_onlyMem (q : List Byte) (table : NMap Byte) (i t0 t1 : Nat) (s : State) :
    OnlyMem s (ruleGeneration q table i t0 t1 s) :=
  .foldl (fun s _ => localPut_onlyMem s _ _) _ s

/-! ## Accumulator slots (R213) -/

theorem slotAt_setSlot (s : State) (core i : Nat) (v : Slot) (n : Nat) :
    slotAt (setSlot s core i v) core n = if n = i then v else slotAt s core n := by
  rw [slotAt, setSlot, coreOf_setCore_same, lookD, look_put]
  by_cases h : n = i
  · rw [if_pos h, if_pos h]
  · rw [if_neg h, if_neg h]
    rfl

/-- Performing an MMA writes memory and slots, and no handle (R223). -/
theorem handleAt_performMma (s : State) (core : Nat) (o : EngineOp) (d e : Nat) :
    handleAt (performMma s core o) d e = handleAt s d e := by
  have hland := fun a la lines b lb lines' => ((landTile_onlyMem a la s lines).trans (landTile_onlyMem b lb _ lines')).coreOf d
  unfold performMma
  split
  · rfl
  · dsimp only
    rw [handleAt, setSlot, part_setCore Core.handles rfl]
    exact congrArg (fun c : Core => lookD c.handles e Handle.zero) (hland _ _ _ _ _ _)

/-! ## Engines that are set free -/

namespace OnlyAgenda

theorem coreOf (h : OnlyAgenda s t) (core : Nat) : coreOf t core = coreOf s core :=
  congrArg (lookD · core _) (show t.cores = s.cores by rw [h])
theorem beamOf (h : OnlyAgenda s t) (k : Nat) : beamOf t k = beamOf s k := by
  rw [h]
  rfl
theorem blocks (h : OnlyAgenda s t) : t.blocks = s.blocks := by rw [h]

end OnlyAgenda

theorem matrixFree_onlyAgenda (s : State) (core : Nat) :
    OnlyAgenda (setCore s core fun c => { c with matrixOp := none }) (matrixFree s core) :=
  OnlyAgenda.trans (t := post (setCore s core fun c => { c with matrixOp := none }) 0 (.matrixQueueDispatch core)) rfl (nudge_onlyAgenda _)

theorem ruleFree_onlyAgenda (s : State) (core : Nat) :
    OnlyAgenda (setCore s core fun c => { c with ruleOp := none }) (ruleFree s core) :=
  OnlyAgenda.trans (t := post (setCore s core fun c => { c with ruleOp := none }) 0 (.ruleQueueDispatch core)) rfl (nudge_onlyAgenda _)

theorem mem_matrixFree (s : State) (core : Nat) : (matrixFree s core).mem = s.mem := (matrixFree_onlyAgenda s core).mem
theorem mem_ruleFree (s : State) (core : Nat) : (ruleFree s core).mem = s.mem := (ruleFree_onlyAgenda s core).mem
theorem blocks_ruleFree (s : State) (core : Nat) : (ruleFree s core).blocks = s.blocks := (ruleFree_onlyAgenda s core).blocks
theorem beamOf_matrixFree (s : State) (core k : Nat) : beamOf (matrixFree s core) k = beamOf s k := (matrixFree_onlyAgenda s core).beamOf k
theorem beamOf_ruleFree (s : State) (core k : Nat) : beamOf (ruleFree s core) k = beamOf s k := (ruleFree_onlyAgenda s core).beamOf k

theorem matrixOp_matrixFree (s : State) (core : Nat) : (coreOf (matrixFree s core) core).matrixOp = none := by
  rw [(matrixFree_onlyAgenda s core).coreOf, coreOf_setCore_same]

theorem ruleOp_ruleFree (s : State) (core : Nat) : (coreOf (ruleFree s core) core).ruleOp = none := by
  rw [(ruleFree_onlyAgenda s core).coreOf, coreOf_setCore_same]

theorem part_matrixFree {α : Type} (f : Core → α) (hf : ∀ c : Core, f { c with matrixOp := none } = f c) (s : State) (core d : Nat) :
    f (coreOf (matrixFree s core) d) = f (coreOf s d) := by
  rw [(matrixFree_onlyAgenda s core).coreOf]
  exact part_setCore f (hf _) d

theorem part_ruleFree {α : Type} (f : Core → α) (hf : ∀ c : Core, f { c with ruleOp := none } = f c) (s : State) (core d : Nat) :
    f (coreOf (ruleFree s core) d) = f (coreOf s d) := by
  rw [(ruleFree_onlyAgenda s core).coreOf]
  exact part_setCore f (hf _) d

/-- The handle of an engine that is set free stands as it stood. -/
theorem handleAt_matrixFree (s : State) (core d e : Nat) : handleAt (matrixFree s core) d e = handleAt s d e :=
  congrArg (lookD · e _) (part_matrixFree Core.handles (fun _ => rfl) s core d)

/-! ## The end of an operation that holds its beam (R228, R251) -/

/-- The locks of an operation are gone, and its beam waits for it no more. -/
def opEnded (s : State) (core : Nat) (o : EngineOp) : State := freeBeam (dropLocks s core (opOwner o.inst)) o.beam o.inst

theorem unlocked_opEnded (s : State) (core : Nat) (o : EngineOp) : Unlocked (opEnded s core o) core (opOwner o.inst) :=
  unlocked_dropLocks s core (opOwner o.inst)

theorem part_opEnded {α : Type} (f : Core → α) (hf : ∀ (c : Core) (l : List Lock), f { c with locks := l } = f c) (s : State) (core : Nat)
    (o : EngineOp) (d : Nat) : f (coreOf (opEnded s core o) d) = f (coreOf s d) := by
  rw [show coreOf (opEnded s core o) d = coreOf (dropLocks s core (opOwner o.inst)) d from rfl, coreOf_dropLocks, hf]

theorem beamOf_opEnded {b : Beam} (h : beamOf s o.beam = some b) (core : Nat) :
    beamOf (opEnded s core o) o.beam = some { b with hold := endHold o.inst b.hold, under := b.under.map (endHold o.inst) } := by
  rw [opEnded, freeBeam, onBeam_some (show beamOf (dropLocks s core (opOwner o.inst)) o.beam = some b from h), beamOf_setBeam_same]

/-! ## Operations of the matrix engine that hold their beam (R230-R233, R240, R242) -/

/-- The state in which such an operation has been performed. -/
def syncPerformed (s : State) (core : Nat) (o : EngineOp) : State :=
  match homeOfBlock s o.block with
  | none => s
  | some (_, _, gr) =>
    match o.instr with
    | .sig _ => performSig s o gr
    | .sbwd _ => performSbwd s o
    | _ => performSync s core o gr

theorem performSync_frame (s : State) (core : Nat) (o : EngineOp) (gr : Grid) :
    (performSync s core o gr).beams = s.beams ∧ ∀ n, n ≠ opSlot o → slotAt (performSync s core o gr) core n = slotAt s core n := by
  have hslot : ∀ (v : Slot) n, n ≠ opSlot o → slotAt (setSlot s core (opSlot o) v) core n = slotAt s core n := fun v n hn => by
    rw [slotAt_setSlot, if_neg hn]
  unfold performSync
  dsimp only
  split
  · exact ⟨rfl, hslot _⟩
  · have hmem := convertSlot_onlyMem gr o.params (opPlace o 0) (opPlace o 1) (foldSlot (slotAt s core (opSlot o)))
      (setSlot s core (opSlot o) (foldSlot (slotAt s core (opSlot o))))
    exact ⟨hmem.beams, fun n hn => (hmem.slotAt core n).trans (hslot _ n hn)⟩
  · exact ⟨rfl, hslot _⟩
  · have hmem := convertTile_onlyMem gr (fslotOf gr ‹_›) o.params (opPlace o 0) (opPlace o 1) (opPlace o 2) s
    exact ⟨hmem.beams, fun n _ => hmem.slotAt core n⟩
  · exact ⟨rfl, fun _ _ => rfl⟩

/-- Such an operation changes no beam, and no slot but its own. -/
theorem syncPerformed_frame (s : State) (core : Nat) (o : EngineOp) :
    (syncPerformed s core o).beams = s.beams ∧ ∀ n, n ≠ opSlot o → slotAt (syncPerformed s core o) core n = slotAt s core n := by
  unfold syncPerformed
  split
  · exact ⟨rfl, fun _ _ => rfl⟩
  next gr _ =>
    split
    · exact ⟨(performSig_onlyMem s o gr).beams, fun n _ => (performSig_onlyMem s o gr).slotAt core n⟩
    · exact ⟨(performSbwd_onlyMem s o).beams, fun n _ => (performSbwd_onlyMem s o).slotAt core n⟩
    · exact performSync_frame s core o gr

section Performed

variable {bl : Block} {g : Gang} {a : Src} {sl fs : Nat} (hh : homeOfBlock s o.block = some (bl, g, gr))
include hh

theorem syncPerformed_aclr (hi : o.instr = .aclr sl) : syncPerformed s core o = setSlot s core (opSlot o) Slot.zero := by
  simp only [syncPerformed, hh, hi, performSync]

theorem syncPerformed_aload (hi : o.instr = .aload a sl) : syncPerformed s core o =
    setSlot s core (opSlot o) (loadSlot s (fslotOf gr (tdFsl o.params)) o.params (opPlace o 0)) := by
  simp only [syncPerformed, hh, hi, performSync]

theorem syncPerformed_acvt (hi : o.instr = .acvt a sl) : syncPerformed s core o =
    convertSlot gr o.params (opPlace o 0) (opPlace o 1) (foldSlot (slotAt s core (opSlot o)))
      (setSlot s core (opSlot o) (foldSlot (slotAt s core (opSlot o)))) := by
  simp only [syncPerformed, hh, hi, performSync]

theorem syncPerformed_qcvt (hi : o.instr = .qcvt a fs) : syncPerformed s core o =
    convertTile gr (fslotOf gr fs) o.params (opPlace o 0) (opPlace o 1) (opPlace o 2) s := by
  simp only [syncPerformed, hh, hi, performSync]

theorem syncPerformed_sig (hi : o.instr = .sig a) : syncPerformed s core o = performSig s o gr := by
  simp only [syncPerformed, hh, hi]

theorem syncPerformed_sbwd (hi : o.instr = .sbwd a) : syncPerformed s core o = performSbwd s o := by
  simp only [syncPerformed, hh, hi]

end Performed

end Sys2Proof.Machine
end

section
/-!
PROOF of O53. The queues of the matrix and rule engines (R215, R223-R225, R228, R249, R251, R252): what each event does while its engine is
idle and while it has an operation.
-/
namespace Sys2Proof.Machine

open Sys2Proof

set_option Elab.async false

variable {s t : State} {core e n : Nat} {o : EngineOp} {rest : List EngineOp} {a : Src} {bl : Block}

/-! ## The matrix engine (R215) -/

theorem exec_matrixQueueDispatch_empty (hi : (coreOf s core).matrixOp = none) (hq : (coreOf s core).matrixQ = []) :
    exec (.matrixQueueDispatch core) s = .next s := by
  show execMatrixQueueDispatch core s = _
  rw [execMatrixQueueDispatch, hi, hq]

theorem exec_matrixQueueDispatch_busy (ho : (coreOf s core).matrixOp = some o) : exec (.matrixQueueDispatch core) s = .next s := by
  show execMatrixQueueDispatch core s = _
  rw [execMatrixQueueDispatch, ho]

theorem exec_mmaOperationComplete_idle (hi : (coreOf s core).matrixOp = none) : exec (.mmaOperationComplete core) s = .next s := by
  show execMmaOperationComplete core s = _
  rw [execMmaOperationComplete, hi]

theorem exec_matrixSyncOpComplete_idle (hi : (coreOf s core).matrixOp = none) : exec (.matrixSyncOpComplete core) s = .next s := by
  show execMatrixSyncOpComplete core s = _
  rw [execMatrixSyncOpComplete, hi]

/-- What is put on the agenda from some clock on is due then or later. -/
theorem mem_agenda_postFrom (s : State) (least : Nat) (i : Instr) : ∃ c, s.clk + Nat.max 1 least ≤ c ∧ ⟨c, i⟩ ∈ (postFrom s least i).agenda :=
  ⟨s.clk + (Nat.max 1 least + drawn s 0), by omega, List.mem_append_right _ (List.mem_singleton_self _)⟩

/-- The matrix engine of a core has taken an operation, and others stand behind it. -/
def matrixTaken (s : State) (core : Nat) (o : EngineOp) (rest : List EngineOp) : State :=
  setCore s core fun c => { c with matrixOp := some o, matrixQ := rest }

theorem exec_matrixQueueDispatch_takes (hi : (coreOf s core).matrixOp = none) (hq : (coreOf s core).matrixQ = o :: rest) :
    ∃ i, (i = Instr.mmaOperationComplete core ∨ i = .matrixSyncOpComplete core) ∧
      exec (.matrixQueueDispatch core) s = .next (postFrom (matrixTaken s core o rest) (opTime s o) i) := by
  by_cases hm : ∃ a h, o.instr = .mma a h ∨ o.instr = .mmaSig a h
  · refine ⟨_, .inl rfl, ?_⟩
    show execMatrixQueueDispatch core s = _
    obtain ⟨a, h, hm | hm⟩ := hm <;> simp only [execMatrixQueueDispatch, hi, hq, hm] <;> rfl
  · refine ⟨_, .inr rfl, ?_⟩
    show execMatrixQueueDispatch core s = _
    simp only [execMatrixQueueDispatch, hi, hq]
    split
    next h => exact absurd ⟨_, _, .inl h⟩ hm
    next h => exact absurd ⟨_, _, .inr h⟩ hm
    next => rfl

/-- An idle engine takes the oldest operation of its queue, which ends no sooner than its rate allows (R215, R225). -/
theorem matrixQueueDispatch_takes (hi : (coreOf s core).matrixOp = none) (hq : (coreOf s core).matrixQ = o :: rest) :
    ∃ t, exec (.matrixQueueDispatch core) s = .next t ∧ (coreOf t core).matrixOp = some o ∧ (coreOf t core).matrixQ = rest ∧
      ∃ c, s.clk + Nat.max 1 (opTime s o) ≤ c ∧
        (⟨c, .mmaOperationComplete core⟩ ∈ t.agenda ∨ ⟨c, .matrixSyncOpComplete core⟩ ∈ t.agenda) := by
  obtain ⟨i, hi', hexec⟩ := exec_matrixQueueDispatch_takes hi hq
  obtain ⟨c, hle, hmem⟩ := mem_agenda_postFrom (matrixTaken s core o rest) (opTime s o) i
  have hcore : coreOf (matrixTaken s core o rest) core = { coreOf s core with matrixOp := some o, matrixQ := rest } :=
    coreOf_setCore_same s core _
  refine ⟨_, hexec, congrArg Core.matrixOp hcore, congrArg Core.matrixQ hcore, c, hle, ?_⟩
  obtain rfl | rfl := hi'
  · exact .inl hmem
  · exact .inr hmem

/-! ## The end of an MMA operation (R224) -/

/-- The handle of an MMA, of which one more operation has ended. -/
def mmCounted (o : EngineOp) (y : Handle) : Handle :=
  let y1 := { y with remain := y.remain - 1 }
  match o.err with
  | some x => if y.err = 0 then { y1 with err := x.1, eva := BitVec.ofNat 64 x.2 } else y1
  | none => y1

theorem mmCounted_remain (o : EngineOp) (y : Handle) : (mmCounted o y).remain = y.remain - 1 := by
  unfold mmCounted
  dsimp only
  split
  · split <;> rfl
  · rfl

theorem mmCounted_err (o : EngineOp) (y : Handle) : (mmCounted o y).err = if y.err = 0 then (o.err.map fun e => e.1).getD 0 else y.err := by
  unfold mmCounted
  dsimp only
  by_cases hy : y.err = 0
  · cases o.err <;> simp [hy]
  · cases o.err <;> simp [hy]

/-- The handle of an operation, once this has been counted. -/
def mmHandle (s : State) (core : Nat) (o : EngineOp) : Handle := mmCounted o (handleAt s core (o.handle.getD 0))

/-- The state in which an operation of an MMA has given up its locks and been counted. -/
def mmLeft (s : State) (core : Nat) (o : EngineOp) : State :=
  setHandle (dropLocks s core (opOwner o.inst)) core (o.handle.getD 0) (mmCounted o)

theorem handleAt_mmLeft (s : State) (core : Nat) (o : EngineOp) : handleAt (mmLeft s core o) core (o.handle.getD 0) = mmHandle s core o := by
  rw [mmLeft, handleAt_setHandle_same, handleAt_dropLocks]
  rfl

/-- The handle of an operation that ends goes Full after its last (R224). -/
theorem mmEnd_eq (s : State) (core : Nat) (o : EngineOp) : mmEnd s core o =
    if (mmHandle s core o).remain = 0 then
      fillDone (mmLeft s core o) core (o.handle.getD 0) (mmHandle s core o).err (mmHandle s core o).nvs (mmHandle s core o).eva
    else mmLeft s core o := by
  rw [← handleAt_mmLeft]
  rfl

theorem part_fillDone {α : Type} (f : Core → α) (hf : ∀ (c : Core) (h w : NMap Handle) (l : List Lock), f { c with handles := h, were := w, locks := l } = f c)
    (s : State) (core e err nvs : Nat) (eva : DWord) (d : Nat) : f (coreOf (fillDone s core e err nvs eva) d) = f (coreOf s d) := by
  rw [fillDone, coreOf_handleMoved, coreOf_dropLocks, hf _ _ _ _]
  exact part_setCore f (hf _ _ _ _) d

theorem part_mmEnd {α : Type} (f : Core → α) (hf : ∀ (c : Core) (h w : NMap Handle) (l : List Lock), f { c with handles := h, were := w, locks := l } = f c)
    (s : State) (core : Nat) (o : EngineOp) (d : Nat) : f (coreOf (mmEnd s core o) d) = f (coreOf s d) := by
  have hset : f (coreOf (mmLeft s core o) d) = f (coreOf s d) := by
    rw [mmLeft, setHandle, part_setCore f (hf _ _ _ _), coreOf_dropLocks]
    exact hf _ _ _ _
  rw [mmEnd_eq]
  split
  · rw [part_fillDone f hf, hset]
  · exact hset

theorem mem_mmEnd (s : State) (core : Nat) (o : EngineOp) : (mmEnd s core o).mem = s.mem := by
  rw [mmEnd_eq]
  split
  · exact (fillDone_onlyWalks ..).mem
  · rfl

theorem unlocked_mmEnd (s : State) (core : Nat) (o : EngineOp) : Unlocked (mmEnd s core o) core (opOwner o.inst) := by
  have hset : Unlocked (mmLeft s core o) core (opOwner o.inst) :=
    (unlocked_dropLocks s core (opOwner o.inst)).of_locks fun k => locks_setHandle _ core _ _ k
  rw [mmEnd_eq]
  split
  · intro k l hl
    rw [fillDone, coreOf_handleMoved, coreOf_dropLocks, locks_setHandle] at hl
    exact hset k l (List.mem_filter.1 hl).1
  · exact hset

theorem handleAt_mmEnd (s : State) (core : Nat) (o : EngineOp) : handleAt (mmEnd s core o) core (o.handle.getD 0) =
    if (mmHandle s core o).remain = 0 then filled (mmHandle s core o).err (mmHandle s core o).nvs (mmHandle s core o).eva (mmHandle s core o)
    else mmHandle s core o := by
  rw [mmEnd_eq]
  split
  · rw [handleAt_fillDone, handleAt_mmLeft]
  · exact handleAt_mmLeft s core o

theorem exec_mmaOperationComplete (ho : (coreOf s core).matrixOp = some o) (hm : ∃ a h, o.instr = .mma a h ∨ o.instr = .mmaSig a h) :
    exec (.mmaOperationComplete core) s = .next (matrixFree (mmEnd (performMma s core o) core o) core) ∧
      exec (.matrixSyncOpComplete core) s = .next s := by
  obtain ⟨a, h, hm⟩ := hm
  refine ⟨?_, ?_⟩
  · show execMmaOperationComplete core s = _
    obtain hm | hm := hm <;> simp only [execMmaOperationComplete, ho, hm]
  · show execMatrixSyncOpComplete core s = _
    obtain hm | hm := hm <;> simp only [execMatrixSyncOpComplete, ho, hm]

/-- The end of an operation of an MMA (R223, R224). -/
theorem mmaOperationComplete_ends (ho : (coreOf s core).matrixOp = some o) (hm : ∃ a h, o.instr = .mma a h ∨ o.instr = .mmaSig a h) :
    let r := performMma s core o
    let y := handleAt s core (o.handle.getD 0)
    ∃ t, exec (.mmaOperationComplete core) s = .next t ∧ t.mem = r.mem ∧ (coreOf t core).slots = (coreOf r core).slots ∧
      (coreOf t core).matrixOp = none ∧ (handleAt t core (o.handle.getD 0)).remain = y.remain - 1 ∧
      (y.remain - 1 = 0 → (handleAt t core (o.handle.getD 0)).state = .full) ∧
      (handleAt t core (o.handle.getD 0)).err = (if y.err = 0 then (o.err.map fun e => e.1).getD 0 else y.err) ∧
      ∀ c, ∀ l ∈ (coreOf t c).locks, ¬ (l.core = core ∧ l.entry = opOwner o.inst) := by
  intro r y
  have hy : mmHandle r core o = mmCounted o y := by rw [mmHandle, handleAt_performMma]
  have hat := handleAt_mmEnd r core o
  rw [hy] at hat
  have hlocks := fun k => part_matrixFree Core.locks (fun _ => rfl) (mmEnd r core o) core k
  refine ⟨_, (exec_mmaOperationComplete ho hm).1, (mem_matrixFree _ _).trans (mem_mmEnd ..), ?_, matrixOp_matrixFree .., ?_, fun h0 => ?_, ?_,
    (unlocked_mmEnd r core o).of_locks hlocks⟩
  · rw [part_matrixFree Core.slots fun _ => rfl]
    exact part_mmEnd Core.slots (fun _ _ _ _ => rfl) r core o core
  all_goals rw [handleAt_matrixFree, hat]
  · split
    next h => rw [mmCounted_remain] at h; exact h.symm
    next => rw [mmCounted_remain]
  · rw [if_pos (by rw [mmCounted_remain]; exact h0)]
    rfl
  · split
    all_goals exact mmCounted_err o y

/-! ## The end of an operation that holds its beam (R228, R240) -/

theorem exec_matrixSyncOpComplete (ho : (coreOf s core).matrixOp = some o) (hm : ¬ ∃ a h, o.instr = .mma a h ∨ o.instr = .mmaSig a h) :
    exec (.matrixSyncOpComplete core) s = .next (matrixFree (opEnded (syncPerformed s core o) core o) core) ∧
      exec (.mmaOperationComplete core) s = .next s := by
  refine ⟨?_, ?_⟩
  · show execMatrixSyncOpComplete core s = _
    simp only [execMatrixSyncOpComplete, ho]
    split
    next h => exact absurd ⟨_, _, .inl h⟩ hm
    next h => exact absurd ⟨_, _, .inr h⟩ hm
    next => rfl
  · show execMmaOperationComplete core s = _
    simp only [execMmaOperationComplete, ho]
    split
    next h => exact absurd ⟨_, _, .inl h⟩ hm
    next h => exact absurd ⟨_, _, .inr h⟩ hm
    next => rfl

/-- A beam for which an operation has ended. -/
theorem beam_opEnded {b : Beam} (h : beamOf s o.beam = some b) (ht : beamOf t o.beam = beamOf (opEnded s core o) o.beam) :
    ∃ c, beamOf t o.beam = some c ∧ c.hold = endHold o.inst b.hold ∧ c.under = b.under.map (endHold o.inst) ∧ c.lanes = b.lanes :=
  ⟨_, ht.trans (beamOf_opEnded h core), rfl, rfl, rfl⟩

/-- The end of such an operation: what it has performed stands, and the engine, the locks and the beam are free. -/
theorem matrixSyncOpComplete_frees (s : State) (core : Nat) (o : EngineOp) :
    let r := syncPerformed s core o
    let t := matrixFree (opEnded r core o) core
    (coreOf t core).matrixOp = none ∧ Unlocked t core (opOwner o.inst) ∧
      (∀ b, beamOf s o.beam = some b → ∃ c, beamOf t o.beam = some c ∧ c.hold = endHold o.inst b.hold ∧
        c.under = b.under.map (endHold o.inst) ∧ c.lanes = b.lanes) ∧
      t.mem = r.mem ∧ ∀ n, slotAt t core n = slotAt r core n := by
  intro r t
  refine ⟨matrixOp_matrixFree .., (unlocked_opEnded r core o).of_locks fun k => part_matrixFree Core.locks (fun _ => rfl) _ core k,
    fun b hb => beam_opEnded (s := r) (core := core) ?_ (beamOf_matrixFree ..), mem_matrixFree .., fun n => ?_⟩
  · rw [beamOf, (syncPerformed_frame s core o).1]
    exact hb
  · refine congrArg (lookD · n Slot.zero) ((part_matrixFree Core.slots (fun _ => rfl) _ core core).trans ?_)
    exact part_opEnded Core.slots (fun _ _ => rfl) r core o core

/-! ## The rule engine (R251, R252) -/

theorem exec_ruleQueueDispatch_empty (hi : (coreOf s core).ruleOp = none) (hq : (coreOf s core).ruleQ = []) :
    exec (.ruleQueueDispatch core) s = .next s := by
  show execRuleQueueDispatch core s = _
  rw [execRuleQueueDispatch, hi, hq]

theorem exec_ruleQueueDispatch_busy (ho : (coreOf s core).ruleOp = some o) : exec (.ruleQueueDispatch core) s = .next s := by
  show execRuleQueueDispatch core s = _
  rw [execRuleQueueDispatch, ho]

theorem exec_ruleGeneration_idle (hi : (coreOf s core).ruleOp = none) : exec (.ruleGeneration core) s = .next s := by
  show execRuleGeneration core s = _
  rw [execRuleGeneration, hi]

theorem exec_ruleOpComplete_idle (hi : (coreOf s core).ruleOp = none) : exec (.ruleOpComplete core) s = .next s := by
  show execRuleOpComplete core s = _
  rw [execRuleOpComplete, hi]

/-- The state t has an operation under way in the array of a core, and others behind it, with memory and beams as in s. -/
structure TakesRule (core : Nat) (o : EngineOp) (rest : List EngineOp) (s t : State) : Prop where
  op : (coreOf t core).ruleOp = some o
  queue : (coreOf t core).ruleQ = rest
  mem : t.mem = s.mem
  beams : t.beams = s.beams

theorem TakesRule.loadTable (h : TakesRule core o rest s t) (block at_ n : Nat) : TakesRule core o rest s (loadTable t core block at_ n) :=
  ⟨(part_setCore Core.ruleOp rfl core).trans h.op, (part_setCore Core.ruleQ rfl core).trans h.queue, h.mem, h.beams⟩

theorem TakesRule.postFrom (h : TakesRule core o rest s t) (least : Nat) (i : Instr) : TakesRule core o rest s (postFrom t least i) :=
  ⟨h.op, h.queue, h.mem, h.beams⟩

/-- An idle array takes the oldest operation of its queue. -/
theorem ruleQueueDispatch_takes (hi : (coreOf s core).ruleOp = none) (hq : (coreOf s core).ruleQ = o :: rest) :
    ∃ t, exec (.ruleQueueDispatch core) s = .next t ∧ TakesRule core o rest s t := by
  have h1 : TakesRule core o rest s (setCore s core fun c => { c with ruleOp := some o, ruleQ := rest }) :=
    ⟨by rw [coreOf_setCore_same], by rw [coreOf_setCore_same], rfl, rfl⟩
  refine ⟨_, rfl, ?_⟩
  simp only [hi, hq]
  split
  · have h2 : ∀ {u : State}, TakesRule core o rest s u → ∀ (p : Prop) [Decidable p] l1 l2 i1 i2,
        TakesRule core o rest s (if p then Machine.postFrom u l1 i1 else Machine.postFrom u l2 i2) := fun hu p _ l1 l2 i1 i2 => by
      split
      · exact hu.postFrom _ _
      · exact hu.postFrom _ _
    refine h2 ?_ _ _ _ _ _
    split
    · split
      · exact h1.loadTable ..
      · exact h1
    · exact h1
    · exact h1
  · exact h1.postFrom _ _
  · exact h1.postFrom _ _

/-! ## Generations (R249, R253) -/

theorem exec_ruleGeneration_over (ho : (coreOf s core).ruleOp = some o) (hi : o.instr = .rule a) (hm : ruleMore s o = false) :
    exec (.ruleGeneration core) s = .next s := by
  show execRuleGeneration core s = _
  simp only [execRuleGeneration, ho, hi, hm, Bool.not_false, if_true]

/-- The state in which a generation of a RULE has been performed. -/
def generated (s : State) (core : Nat) (o : EngineOp) : State :=
  let s1 := ruleGeneration o.params (coreOf s core).ruleTab (genDone s o) (o.args.getD 1 0) (o.args.getD 2 0) s
  { s1 with blocks := alter s1.blocks o.block fun b => { b with gen := b.gen + 1 } }

theorem look_blocks_generated (hb : look s.blocks o.block = some bl) (core : Nat) :
    look (generated s core o).blocks o.block = some { bl with gen := bl.gen + 1 } := by
  rw [generated, look_alter, if_pos rfl, (ruleGeneration_onlyMem ..).blocks, hb]
  rfl

/-- Whatever follows a generation, memory and the blocks stand as it left them. -/
theorem ruleGeneration_performs (ho : (coreOf s core).ruleOp = some o) (hi : o.instr = .rule a) (hm : ruleMore s o = true) :
    ∃ t, exec (.ruleGeneration core) s = .next t ∧ t.mem = (generated s core o).mem ∧ t.blocks = (generated s core o).blocks := by
  refine ⟨_, rfl, ?_⟩
  simp only [ho, hi, hm, Bool.not_true, Bool.false_eq_true, if_false]
  split
  · exact ⟨rfl, rfl⟩
  · split
    · exact ⟨mem_ruleFree _ core, blocks_ruleFree _ core⟩
    · exact ⟨rfl, rfl⟩

/-! ## The end of a rule operation (R251, R252, R254) -/

/-- The state in which a rule operation has taken its effect on its block. -/
def ruleEffect (s : State) (core : Nat) (o : EngineOp) : State :=
  let onBlock := fun (s : State) (f : Block → Block) => { s with blocks := alter s.blocks o.block f }
  match o.instr with
  | .rtab _ =>
    onBlock (loadTable s core o.block (o.args.getD 1 0) (rtNe o.params)) fun b =>
      { b with tab := some (BitVec.ofNat 32 (rtSrc o.params), rtNe o.params) }
  | .rgen _ => onBlock s fun b => { b with gen := BitVec.ofNat 32 (o.args.getD 1 0) }
  | _ => s

theorem exec_ruleOpComplete (ho : (coreOf s core).ruleOp = some o) :
    exec (.ruleOpComplete core) s = .next (ruleFree (opEnded (ruleEffect s core o) core o) core) := by
  show execRuleOpComplete core s = _
  simp only [execRuleOpComplete, ho]
  rfl

/-- The effect of a rule operation leaves memory and the beams, and keeps its block. -/
theorem ruleEffect_frame (hb : look s.blocks o.block = some bl) (core : Nat) :
    (ruleEffect s core o).mem = s.mem ∧ (ruleEffect s core o).beams = s.beams ∧ ∃ c, look (ruleEffect s core o).blocks o.block = some c := by
  have halter : ∀ f : Block → Block, ∃ c, look (alter s.blocks o.block f) o.block = some c := fun f =>
    ⟨_, by rw [look_alter, if_pos rfl, hb]; rfl⟩
  unfold ruleEffect
  dsimp only
  split
  · exact ⟨rfl, rfl, halter _⟩
  · exact ⟨rfl, rfl, halter _⟩
  · exact ⟨rfl, rfl, _, hb⟩

/-- A table as it is loaded reads each of its bytes. -/
theorem lookD_filterMap_bytes (f : Nat → Byte) (n : Nat) : ∀ l : List Nat,
    lookD (l.filterMap fun i => if f i = 0 then none else some (i, f i)) n 0 = if n ∈ l then f n else 0
  | [] => rfl
  | i :: l => by
    have ih := lookD_filterMap_bytes f n l
    by_cases hf : f i = 0
    · rw [List.filterMap_cons_none (by rw [if_pos hf]), ih]
      by_cases hn : n = i
      · simp [hn, hf]
      · simp [hn]
    · rw [List.filterMap_cons_some (by rw [if_neg hf]), lookD, look_cons]
      by_cases hn : i = n
      · simp [hn]
      · rw [if_neg hn]
        refine ih.trans ?_
        simp [Ne.symm hn]

theorem coreOf_loadTable (s : State) (core block at_ n : Nat) : coreOf (loadTable s core block at_ n) core =
    { coreOf s core with
      ruleTab := (upTo n).filterMap fun i => if (localBytes s at_ n).getD i 0 = 0 then none else some (i, (localBytes s at_ n).getD i 0)
      ruleOwner := some block } :=
  coreOf_setCore_same s core _

theorem lookD_loadTable {m : Nat} (s : State) (core block at_ : Nat) (h : n < m) :
    lookD (coreOf (loadTable s core block at_ m) core).ruleTab n 0 = (localBytes s at_ m).getD n 0 := by
  rw [coreOf_loadTable]
  exact (lookD_filterMap_bytes (fun i => (localBytes s at_ m).getD i 0) n (upTo m)).trans (if_pos (mem_upTo.2 h))

/-- What each rule operation leaves of its block and of the core's table. -/
theorem ruleEffect_block (hb : look s.blocks o.block = some bl) (core : Nat) :
    (∀ a, o.instr = .rgen a → look (ruleEffect s core o).blocks o.block = some { bl with gen := BitVec.ofNat 32 (o.args.getD 1 0) }) ∧
      (∀ a, o.instr = .rule a → ruleEffect s core o = s) ∧
      (∀ a, o.instr = .rtab a → look (ruleEffect s core o).blocks o.block =
          some { bl with tab := some (BitVec.ofNat 32 (rtSrc o.params), rtNe o.params) } ∧
        coreOf (ruleEffect s core o) core = coreOf (loadTable s core o.block (o.args.getD 1 0) (rtNe o.params)) core) := by
  refine ⟨fun a hi => ?_, fun a hi => ?_, fun a hi => ⟨?_, ?_⟩⟩
  · simp only [ruleEffect, hi, look_alter, if_true, hb, Option.map_some]
  · simp only [ruleEffect, hi]
  · simp only [ruleEffect, hi, look_alter, if_true, show (loadTable s core o.block (o.args.getD 1 0) (rtNe o.params)).blocks = s.blocks from rfl,
      hb, Option.map_some]
  · simp only [ruleEffect, hi]
    rfl

/-- What the end of a rule operation sets free, and what of its effect stands. -/
theorem ruleOpComplete_frees (r : State) (core : Nat) (o : EngineOp) :
    let t := ruleFree (opEnded r core o) core
    (coreOf t core).ruleOp = none ∧ t.mem = r.mem ∧ Unlocked t core (opOwner o.inst) ∧ t.blocks = r.blocks ∧
      beamOf t o.beam = beamOf (opEnded r core o) o.beam ∧ (coreOf t core).ruleTab = (coreOf r core).ruleTab ∧
      (coreOf t core).ruleOwner = (coreOf r core).ruleOwner := by
  intro t
  exact ⟨ruleOp_ruleFree .., mem_ruleFree .., (unlocked_opEnded r core o).of_locks fun k => part_ruleFree Core.locks (fun _ => rfl) _ core k,
    blocks_ruleFree .., beamOf_ruleFree .., (part_ruleFree Core.ruleTab (fun _ => rfl) _ core core).trans
      (part_opEnded Core.ruleTab (fun _ _ => rfl) r core o core), (part_ruleFree Core.ruleOwner (fun _ => rfl) _ core core).trans
      (part_opEnded Core.ruleOwner (fun _ _ => rfl) r core o core)⟩

/-! ## RGEN (R254) -/

section Rgen

variable {x : Sel} {u : State} (hr : ready x x.run [srcUse a 1] [] = true)
  (hu : ∀ i ∈ x.run, laneReg (laneOf x.beam i) a.r = laneReg (laneOf x.beam (leastD 0 x.run)) a.r)
include hr hu

theorem effRgen_of_held (hc : heldBack s x .gang = true) : effRgen a x s = .hold (performAll s x.key) := by
  rw [effRgen, gated_ready hr, uniform_of_first hu, released_of_held hc]
  rfl

theorem effRgen_of_calm (hc : heldBack s x .gang = false) : effRgen a x s =
    ruleEnter x (.rgen a) (releaseAt s x.key .gang) [] [] [(laneReg (laneOf x.beam (leastD 0 x.run)) a.r).toNat] := by
  rw [effRgen, gated_ready hr, uniform_of_first hu, released_of_calm hc]
  rfl

end Rgen

end Sys2Proof.Machine

namespace Sys2Proof.Certificates

open Sys2Proof Sys2Proof.Machine

/-- Settles O53, by what each event of the two engines does while its engine is idle and while it has an operation. -/
theorem enginesRunInOrder : Obligations.EnginesRunInOrder := by
  unfold Obligations.EnginesRunInOrder
  intro s
  refine ⟨fun u x a bl g gr q hroom => ⟨fun p B hp hl => ?_, fun p B hp hl => ?_, fun ht hu hr heq => ⟨fun hc => ?_, fun hc => ?_⟩⟩,
    fun core hi => ⟨exec_mmaOperationComplete_idle hi, exec_matrixSyncOpComplete_idle hi, exec_matrixQueueDispatch_empty hi,
      fun o rest hq => matrixQueueDispatch_takes hi hq⟩,
    fun core o ho => ⟨exec_matrixQueueDispatch_busy ho, fun hm => ⟨(exec_mmaOperationComplete ho hm).2, mmaOperationComplete_ends ho hm⟩,
      fun hm => ⟨(exec_matrixSyncOpComplete ho hm).2, _, (exec_matrixSyncOpComplete ho hm).1, ?_⟩⟩,
    fun core hi => ⟨exec_ruleGeneration_idle hi, exec_ruleOpComplete_idle hi, exec_ruleQueueDispatch_empty hi, fun o rest hq => ?_⟩,
    fun core o bl ho hb => ⟨exec_ruleQueueDispatch_busy ho, fun a hi => ⟨exec_ruleGeneration_over ho hi, fun hm => ?_⟩, _,
      exec_ruleOpComplete ho, ?_⟩⟩
  · exact exec_joinsRules B.turn B.acts rfl (ruleIssue_of_block B hp) hroom hl
  · exact exec_joinsRules B.turn B.acts rfl (ruleIssue_of_block B hp) hroom hl
  · exact exec_held ht rfl (effRgen_of_held hr heq hc)
  · exact exec_joinsRules ht hu rfl (hu ▸ effRgen_of_calm hr heq hc) hroom rfl
  · obtain ⟨hop, hlocks, hbeam, hmem, hslot⟩ := matrixSyncOpComplete_frees s core o
    refine ⟨hop, hlocks, hbeam, fun bl g gr hh => ⟨fun n hn => ?_, fun sl hi => ?_, fun a sl hi => ?_, fun a sl hi => ?_, fun a fs hi => ?_,
      fun a hi => ?_, fun a hi => ?_⟩⟩
    · rw [hslot, (syncPerformed_frame s core o).2 n hn]
    · rw [hslot, hmem, syncPerformed_aclr hh hi, slotAt_setSlot, if_pos rfl]
      exact ⟨rfl, rfl⟩
    · rw [hslot, hmem, syncPerformed_aload hh hi, slotAt_setSlot, if_pos rfl]
      exact ⟨rfl, rfl⟩
    · rw [hslot, hmem, syncPerformed_acvt hh hi, (convertSlot_onlyMem ..).slotAt, slotAt_setSlot, if_pos rfl]
      exact ⟨rfl, rfl⟩
    · rw [hslot, hmem, syncPerformed_qcvt hh hi, (convertTile_onlyMem ..).slotAt]
      exact ⟨rfl, rfl⟩
    · rw [hslot, hmem, syncPerformed_sig hh hi, (performSig_onlyMem ..).slotAt]
      exact ⟨rfl, rfl⟩
    · rw [hslot, hmem, syncPerformed_sbwd hh hi, (performSbwd_onlyMem ..).slotAt]
      exact ⟨rfl, rfl⟩
  · obtain ⟨t, hexec, ht⟩ := ruleQueueDispatch_takes hi hq
    exact ⟨t, hexec, ht.op, ht.queue, ht.mem, ht.beams⟩
  · obtain ⟨t, hexec, hmem, hblocks⟩ := ruleGeneration_performs ho hi hm
    exact ⟨t, hexec, hmem, _, hblocks ▸ look_blocks_generated hb core, rfl⟩
  · obtain ⟨hop, hmem, hlocks, hblocks, hbeam, htab, howner⟩ := ruleOpComplete_frees (ruleEffect s core o) core o
    obtain ⟨hemem, hebeams, c, hc⟩ := ruleEffect_frame hb core
    obtain ⟨hrgen, hrule, hrtab⟩ := ruleEffect_block hb core
    refine ⟨hop, hmem.trans hemem, hlocks, fun b hb => beam_opEnded (by rw [beamOf, hebeams]; exact hb) hbeam, c, hblocks ▸ hc, fun a hi => ?_,
      fun a hi => ?_, fun a hi => ?_⟩
    · rw [hrgen a hi] at hc
      cases hc
      exact ⟨rfl, rfl⟩
    · rw [hrule a hi, hb] at hc
      cases hc
      exact ⟨rfl, rfl⟩
    · obtain ⟨hblock, hcore⟩ := hrtab a hi
      rw [hblock] at hc
      cases hc
      refine ⟨rfl, rfl, ?_, fun n hn => ?_⟩
      · rw [howner, hcore, coreOf_loadTable]
      · rw [htab, hcore, lookD_loadTable s core o.block _ hn]

end Sys2Proof.Certificates
end


section
/-!
SUPPORT. The issue of an MMA (R222, R241): which lanes it checks, which of them it parks, and what entering the operations of the others
leaves of the core and of the beam.
-/
namespace Sys2Proof.Machine

open Sys2Proof

set_option Elab.async false

variable {s t u v : State} {x : Sel} {core h e : Nat} {i : Instr} {bl : Block} {g : Gang} {gr : Grid} {a : Src} {sig : Bool}
  {ms : List MLane} {l m : List EngineOp}

/-! ## The lanes of a run, each once (R88) -/

theorem lanesWith_pairwise (p : Lane → Bool) : ∀ (k : Nat) (l : List Lane), (lanesWith p k l).Pairwise (· < ·)
  | _, [] => .nil
  | k, y :: l => by
    have ih := lanesWith_pairwise p (k + 1) l
    rw [lanesWith]
    split
    · exact List.pairwise_cons.2 ⟨fun j hj => ((mem_lanesWith p (k + 1) l j).1 hj).1, ih⟩
    · exact ih

theorem run_nodup (hs : selected s = some x) : x.run.Nodup := by
  rw [(selected_spec hs).2.2]
  exact ((lanesWith_pairwise _ 0 x.beam.lanes).imp ne_of_lt).filter _

/-! ## The lanes that are checked (R215, R222) -/

/-- An earlier lane that may yet park makes a lane wait or walk, and passes no check of it. -/
theorem modeUnsure_ne_ok (slot : Nat) (y : MLane) : ∀ ahead : List MLane, modeUnsure slot ahead ≠ some (.ok y)
  | [] => nofun
  | z :: ahead => by
    have ih := modeUnsure_ne_ok slot y ahead
    rw [modeUnsure, firstSome]
    split
    next c hc =>
      split at hc
      · cases hc
      · split at hc <;> cases hc <;> exact nofun
    next => exact ih

/-- What a lane's checks answer is of that lane. -/
theorem lane_of_mmLane {ahead : List MLane} {j : Nat} {y : MLane} (h : mmLane x s bl g gr a sig ahead j = .ok y) : y.lane = j := by
  unfold mmLane at h
  dsimp only at h
  split at h
  · cases h
  split at h
  · cases h
  split at h
  · cases h
  · exfalso
    rw [Option.getD_eq_iff] at h
    obtain h | ⟨-, h⟩ := h
    · exact modeUnsure_ne_ok _ _ _ h
    · cases h
  · repeat' split at h
    all_goals cases h
    all_goals rfl

theorem lane_mmXlate (x : Sel) (s : State) (y : MLane) : (mmXlate x s y).lane = y.lane := by
  unfold mmXlate
  split <;> rfl

theorem lanes_of_mmLanes : ∀ {js : List Nat} {acc ms : List MLane}, mmLanes x s bl g gr a sig js acc = .ok ms →
    ms.map (fun y => y.lane) = acc.map (fun y => y.lane) ++ js
  | [], acc, ms, h => by
    cases h
    exact (List.append_nil _).symm
  | j :: js, acc, ms, h => by
    rw [mmLanes] at h
    split at h
    next y hy =>
      rw [lanes_of_mmLanes h, List.map_append, List.map_singleton, lane_mmXlate, lane_of_mmLane hy, List.append_assoc]
      rfl
    next => cases h

theorem mem_mmParked {p : Nat × QWord} (hp : p ∈ mmParked ms) : ∃ y ∈ ms, y.lane = p.1 ∧ y.stop ≠ none := by
  obtain ⟨y, hy, hyp⟩ := List.mem_filterMap.1 hp
  split at hyp
  next hstop => cases hyp; exact ⟨y, hy, rfl, by rw [hstop]; exact nofun⟩
  all_goals cases hyp

theorem mmParked_sublist : ∀ ms : List MLane, ((mmParked ms).map fun p => p.1).Sublist (ms.map fun y => y.lane)
  | [] => .slnil
  | y :: ms => by
    have ih := mmParked_sublist ms
    unfold mmParked at *
    rw [List.filterMap_cons]
    split
    · exact ih.cons _
    next p hp =>
      split at hp
      · cases hp
        exact ih.cons_cons _
      all_goals cases hp

/-- The record of one of some parked lanes, none of which is named twice. -/
theorem find_of_nodup {α : Type} : ∀ {l : List (Nat × α)} {p : Nat × α}, (l.map fun p => p.1).Nodup → p ∈ l →
    (l.find? fun q => q.1 == p.1) = some p
  | q :: l, p, hn, hp => by
    obtain ⟨hq, hl⟩ := List.nodup_cons.1 hn
    obtain rfl | hp := List.mem_cons.1 hp
    · rw [List.find?_cons_of_pos (by exact beq_self_eq_true _)]
    · have hne : ¬ (q.1 == p.1) = true := fun he => hq (List.mem_map.2 ⟨p, hp, (beq_iff_eq.1 he).symm⟩)
      rw [List.find?_cons_of_neg (p := fun q : Nat × α => q.1 == p.1) hne]
      exact find_of_nodup hl hp

/-! ## Operations that enter the queue (R218, R219, R222) -/

/-- The state t differs from s in the operations that have joined the matrix queue of a core, and otherwise in nothing that handles or the
lanes of a beam tell. -/
structure Queues (core : Nat) (l : List EngineOp) (s t : State) : Prop where
  handles : ∀ d e, handleAt t d e = handleAt s d e
  lanes : ∀ k b, beamOf s k = some b → ∃ c, beamOf t k = some c ∧ c.lanes = b.lanes
  queue : (coreOf t core).matrixQ = (coreOf s core).matrixQ ++ l

namespace Queues

theorem refl (core : Nat) (s : State) : Queues core [] s s := ⟨fun _ _ => rfl, fun _ b hb => ⟨b, hb, rfl⟩, (List.append_nil _).symm⟩

theorem trans (h : Queues core l s t) (k : Queues core m t u) : Queues core (l ++ m) s u := by
  refine ⟨fun d e => (k.handles d e).trans (h.handles d e), fun j b hb => ?_, by rw [k.queue, h.queue, List.append_assoc]⟩
  obtain ⟨c, hc, hcl⟩ := h.lanes j b hb
  obtain ⟨d, hd, hdl⟩ := k.lanes j c hc
  exact ⟨d, hd, hdl.trans hcl⟩

/-- Of operations that enter nothing to the queue. -/
theorem trans_nil (h : Queues core [] s t) (k : Queues core m t u) : Queues core m s u := h.trans k

theorem of_settles (h : Settles s t) (hq : (coreOf t core).matrixQ = (coreOf s core).matrixQ) : Queues core [] s t :=
  ⟨h.handles, h.lanes, hq.trans (List.append_nil _).symm⟩

/-- A change of a core beside its handles and its queue. -/
theorem setCore {d : Nat} {f : Core → Core} (h : Queues core [] s t) (hf : ∀ c, (f c).handles = c.handles ∧ (f c).matrixQ = c.matrixQ) :
    Queues core [] s (Machine.setCore t d f) := by
  refine h.trans_nil ⟨fun j e => ?_, fun _ b hb => ⟨b, hb, rfl⟩, ?_⟩
  · rw [handleAt, part_setCore Core.handles (hf _).1]
    rfl
  · rw [part_setCore Core.matrixQ (hf _).2, List.append_nil]

theorem draw (h : Queues core [] s t) : Queues core [] s (draw t) :=
  ⟨h.handles, h.lanes, h.queue⟩
theorem newKey (h : Queues core [] s t) : Queues core [] s (newKey t).2 := ⟨h.handles, h.lanes, h.queue⟩
theorem postFree (h : Queues core l s t) {n : Nat} {i : Instr} : Queues core l s (postFree t n i) := ⟨h.handles, h.lanes, h.queue⟩

theorem startWalksFor (h : Queues core [] s t) {d : Nat} {want : Want} {vas : List Nat} :
    Queues core [] s (startWalksFor t d want vas) :=
  List.foldlRecOn (motive := Queues core [] s) _ _ h fun u hu va _ => by
    dsimp only
    split
    · split
      · exact hu
      · exact hu.setCore fun _ => ⟨rfl, rfl⟩
    · split
      · exact (hu.newKey.setCore (f := fun c => { c with walks := c.walks ++ [⟨(Machine.newKey u).1, va, [want]⟩] }) fun _ => ⟨rfl, rfl⟩).postFree
      · exact hu

theorem engineAsk (h : Queues core [] s t) {d : Nat} {sup : Bool} {r : Option EngineStop} : Queues core [] s (engineAsk t d sup r) := by
  unfold Machine.engineAsk
  split
  · exact h.startWalksFor
  · exact h
  all_goals exact h.setCore fun _ => ⟨rfl, rfl⟩

theorem scaleByte (h : Queues core [] s t) {d : Nat} {sup : Bool} {va : Nat} : Queues core [] s (scaleByte t d sup va).2 := by
  unfold Machine.scaleByte
  split
  · exact h
  · dsimp only
    split
    · exact h
    · split
      · split
        · exact h
        · exact h.draw.setCore (f := fun c => { c with scaleCache := _ }) fun _ => ⟨rfl, rfl⟩
      · split <;> exact h

theorem scaleBytes {d : Nat} {sup : Bool} : ∀ {vas : List Nat} {t : State}, Queues core [] s t →
    Queues core [] s (scaleBytes d sup t vas).2
  | [], _, h => h
  | va :: vas, t, h => by
    have hbyte := h.scaleByte (d := d) (sup := sup) (va := va)
    unfold Machine.scaleBytes
    split
    next heq => rw [heq] at hbyte; exact hbyte
    next heq => rw [heq] at hbyte; exact scaleBytes hbyte

theorem fetchScales (h : Queues core [] s t) {d : Nat} {sup : Bool} {y : Tile} {p : DWord × Nat} :
    Queues core [] s (fetchScales d sup y p t).2 := by
  unfold Machine.fetchScales
  split
  · exact h.scaleBytes
  · exact h

theorem enterMatrix (s : State) (core : Nat) (l : List EngineOp) : Queues core l s (enterMatrix s core l) :=
  ⟨fun d e => congrArg (lookD · e _) (part_setCore (s := s) (core := core) (f := fun c => { c with matrixQ := c.matrixQ ++ l }) Core.handles rfl d),
    fun _ b hb => ⟨b, hb, rfl⟩, matrixQ_enterMatrix s core l⟩

end Queues

/-- What a checked lane's operation is, whatever it has read. -/
def MmOpOf (x : Sel) (i : Instr) (e : Nat) (y : MLane) (o : EngineOp) : Prop :=
  o.instr = i ∧ o.handle = some e ∧ o.beam = x.key ∧ o.block = x.beam.block ∧ o.params = y.p ++ y.rec_ ∧
    o.args.take 6 = [(selSup x).toNat, y.slot, modeCode (pairMode y.a), y.atA, y.atB, y.a.rows]

/-- The operation of a checked lane before it has read, of number `id`. -/
def mmOp (x : Sel) (i : Instr) (e id : Nat) (y : MLane) : EngineOp :=
  { instr := i, beam := x.key, block := x.beam.block, handle := some e, inst := id, params := y.p ++ y.rec_,
    args := [(selSup x).toNat, y.slot, modeCode (pairMode y.a), y.atA, y.atB, y.a.rows]
    pages := y.pages, source := none, ready := false, data := [], err := none, written := [] }

theorem mmRead_spec (x : Sel) (i : Instr) (e id : Nat) (y : MLane) (s : State) (ta tb : Tile) (pa pb : DWord × Nat) :
    let r := mmRead s core (selSup x) ta tb pa pb (mmOp x i e id y)
    MmOpOf x i e y r.1 ∧ Queues core [] s r.2 := by
  unfold mmRead
  dsimp only
  rw [opRead_captured]
  exact ⟨⟨rfl, rfl, rfl, rfl, rfl, rfl⟩, (Queues.refl core s).fetchScales.fetchScales.engineAsk⟩

/-- One operation enters. -/
theorem mmStart_queues (x : Sel) (i : Instr) (h e : Nat) (bl : Block) (s : State) (y : MLane) :
    ∃ o, MmOpOf x i e y o ∧ Queues (selCore x) [o] s (mmStart x i h e bl s y) := by
  have hlocks : Queues (selCore x) [] (newKey s).2 (takeLocks (newKey s).2 (selCore x) (opOwner (newKey s).1) h (mmLocks y)) :=
    .of_settles (takeLocks_settles (newKey s).2 _ _ _ _) (part_takeLocks Core.matrixQ (fun _ => rfl) (fun _ _ => rfl) (newKey s).2 _ _ _ _ _)
  obtain ⟨ho, hread⟩ := mmRead_spec (core := selCore x) x i e (newKey s).1 y
    (takeLocks (newKey s).2 (selCore x) (opOwner (newKey s).1) h (mmLocks y)) y.a y.b (pairOf bl y.a) (pairOf bl y.b)
  exact ⟨_, ho, (Queues.refl _ s).newKey.trans_nil (hlocks.trans_nil (hread.trans_nil (.enterMatrix _ _ _)))⟩

/-- Those of some lanes enter in their order. -/
theorem mmStarts_queues (x : Sel) (i : Instr) (h e : Nat) (bl : Block) : ∀ (good : List MLane) (s : State),
    ∃ l, List.Forall₂ (MmOpOf x i e) good l ∧ Queues (selCore x) l s (good.foldl (mmStart x i h e bl) s)
  | [], s => ⟨[], .nil, .refl _ s⟩
  | y :: good, s => by
    obtain ⟨o, ho, hq⟩ := mmStart_queues x i h e bl s y
    obtain ⟨l, hl, hqs⟩ := mmStarts_queues x i h e bl good (mmStart x i h e bl s y)
    exact ⟨o :: l, .cons ho hl, hq.trans hqs⟩

theorem forall₂_getElem? {α β : Type} {R : α → β → Prop} : ∀ {l : List α} {m : List β}, List.Forall₂ R l m → ∀ (n : Nat) y, l[n]? = some y →
    ∃ o, m[n]? = some o ∧ R y o
  | _, _, .cons h _, 0, _, rfl => ⟨_, rfl, h⟩
  | _, _, .cons _ hs, n + 1, y, hy => forall₂_getElem? hs n y hy

end Sys2Proof.Machine
end


section
/-!
PROOF of O52. MMA and MMA.sig (R222, R241), the operations that hold their beam (R228, R240) and SCBS (R227).
-/
namespace Sys2Proof.Machine

open Sys2Proof

set_option Elab.async false

variable {s t u : State} {x : Sel} {h e : Nat} {i : Instr} {bl : Block} {g : Gang} {gr : Grid} {a : Src} {sig : Bool} {ms : List MLane} {c : Beam}

/-! ## Lanes that are parked, and lanes that go on (R88, R90) -/

/-- A lane of the run that has been parked at its record, or has gone on. -/
def steppedLane (x : Sel) (bad : List (Nat × QWord)) (j : Nat) : Lane :=
  if j ∈ bad.map fun p => p.1 then
    { laneOf x.beam j with state := .parked, frec := ((bad.find? fun p => p.1 == j).map fun p => p.2).getD 0 }
  else if j ∈ x.run then nextPc 4 (laneOf x.beam j) else laneOf x.beam j

section Stepped

variable {bad : List (Nat × QWord)} (ht : Turn s x) (hbad : ∀ j ∈ bad.map (fun p => p.1), j ∈ x.run)
  (hc : c.lanes = (parkedBeam x.beam bad).lanes)
include ht hbad hc

theorem laneOf_parked (j : Nat) : laneOf c j = if j ∈ bad.map fun p => p.1 then
    { laneOf x.beam j with state := .parked, frec := ((bad.find? fun p => p.1 == j).map fun p => p.2).getD 0 } else laneOf x.beam j := by
  rw [show laneOf c j = laneOf (parkedBeam x.beam bad) j by rw [laneOf, hc]; rfl, parkedBeam,
    laneOf_beamLanes_of_lt fun i hi => run_lt ht.1 (hbad i hi)]

theorem laneOf_stepped (j : Nat) :
    laneOf (beamLanes c (x.run.filter fun i => !(bad.map fun p => p.1).contains i) fun _ l => nextPc 4 l) j = steppedLane x bad j := by
  have hlen : c.lanes.length = x.beam.lanes.length := by rw [hc]; exact mapLanes_length _ _ _ _
  rw [laneOf_beamLanes_of_lt fun i hi => hlen ▸ run_lt ht.1 (List.mem_of_mem_filter hi), laneOf_parked ht hbad hc, steppedLane]
  have hmem : j ∈ (x.run.filter fun i => !(bad.map fun p => p.1).contains i) ↔ j ∈ x.run ∧ j ∉ bad.map fun p => p.1 := by
    simp only [List.mem_filter, Bool.not_eq_true', List.contains_eq_mem, decide_eq_false_iff_not]
  by_cases hj : j ∈ bad.map fun p => p.1
  · rw [if_neg fun h => (hmem.1 h).2 hj, if_pos hj, if_pos hj]
  · rw [if_neg hj, if_neg hj]
    simp only [hmem, hj, not_false_eq_true, and_true]

/-- A beam of whose run a lane goes on has a lane that runs. -/
theorem parked_runnable (hgood : ∃ j ∈ x.run, j ∉ bad.map fun p => p.1) : lanesIn c .runnable ≠ [] := by
  obtain ⟨j, hj, hout⟩ := hgood
  refine lanesIn_ne_nil (i := j) ?_ ?_
  · rw [hc]
    exact (mapLanes_length _ _ _ _).symm ▸ run_lt ht.1 hj
  · rw [laneOf_parked ht hbad hc, if_neg hout]
    exact run_runnable ht.1 hj

end Stepped

theorem steppedLane_of_out {bad : List (Nat × QWord)} {j : Nat} (hj : ∀ p ∈ bad, p.1 ≠ j) :
    SameButRegs (laneOf x.beam j) (steppedLane x bad j) [] ∧ (steppedLane x bad j).preds = (laneOf x.beam j).preds ∧
      (steppedLane x bad j).pc = (laneOf x.beam j).pc + (if j ∈ x.run then 4 else 0) := by
  have hout : j ∉ bad.map fun p => p.1 := fun h => by
    obtain ⟨p, hp, hpj⟩ := List.mem_map.1 h
    exact hj p hp hpj
  rw [steppedLane, if_neg hout]
  split
  · exact ⟨⟨fun _ _ => rfl, rfl, rfl, rfl, rfl, rfl, rfl, rfl, rfl⟩, rfl, rfl⟩
  · exact ⟨Machine.SameButRegs.refl _, rfl, (BitVec.add_zero _).symm⟩

theorem steppedLane_of_parked {bad : List (Nat × QWord)} (hn : (bad.map fun p => p.1).Nodup) {p : Nat × QWord} (hp : p ∈ bad) :
    steppedLane x bad p.1 = { laneOf x.beam p.1 with state := .parked, frec := p.2 } := by
  rw [steppedLane, if_pos (List.mem_map_of_mem (f := fun p => p.1) hp), find_of_nodup hn hp]
  rfl

/-! ## MMA and MMA.sig (R222, R241) -/

/-- The lanes whose tiles translate. -/
def mmGood (ms : List MLane) : List MLane := ms.filter fun y => y.stop.isNone

/-- An MMA that passes every check finds room and no lock, and can read what it reads, in the state u in which its beam's earlier accesses
are performed. -/
structure MmGoes (s u : State) (x : Sel) (a : Src) (sig : Bool) (h e : Nat) (bl : Block) (g : Gang) (gr : Grid) (ms : List MLane) : Prop where
  turn : Turn s x
  acts : u = releaseAt s x.key .dev
  calm : heldBack s x .dev = false
  home : homeOf s x.beam = some (bl, g, gr)
  full : ready x x.run [srcUse a 1] [] = true
  entry : mmEntry x u bl h = .ok e
  lanes : mmLanes x u bl g gr a sig x.run [] = .ok ms
  apart : landingClash (mmLocals ms) [] (mmLandings ms) = none
  unstopped : mmStopped ms = none
  some : mmGood ms ≠ []
  few : tooManyLocks (selCore x) ((mmGood ms).flatMap mmLocks) = false
  room : matrixRoom u (selCore x) (mmGood ms).length = true
  unlocked : locksFree u (selCore x) ((mmGood ms).flatMap mmLocks) = true
  opens : ((mmGood ms).all fun y => pagesOpen u (selCore x) y.pages) = true
  settled : clusterOwes (settleCluster (parkLanes u x.key (mmParked ms)) (selCore x)) (selCore x) = false
  reads : firstSome (mmAwaits (settleCluster (parkLanes u x.key (mmParked ms)) (selCore x)) (selCore x) (selSup x) bl) (mmGood ms) = none

/-- The handle of an MMA as it starts to fill, for n operations. -/
def mmFill (n : Nat) (y : Handle) : Handle := { y with state := .filling, remain := n }

/-- The state in which the handle has started and the lanes that do not translate are parked, before any operation enters. -/
def mmBegun (u : State) (x : Sel) (e : Nat) (ms : List MLane) : State :=
  newInstance (parkLanes u x.key (mmParked ms)) (selCore x) e (mmFill (mmGood ms).length)

theorem effMmaOf_of_held (hr : ready x x.run [srcUse a 1] [] = true) (hc : heldBack s x .dev = true) :
    effMmaOf i sig a h x s = .hold (performAll s x.key) := by
  unfold effMmaOf
  rw [gated_ready hr, released_of_held hc]

section Goes

variable (G : MmGoes s u x a sig h e bl g gr ms)
include G

theorem mmIssue_of_goes : mmIssue x i h e bl u ms =
    .done ((mmGood ms).foldl (mmStart x i h e bl) (mmBegun u x e ms)) ((mmParked ms).map fun p => p.1) := by
  have hroom : matrixRoom (parkLanes u x.key (mmParked ms)) (selCore x) (mmGood ms).length = true := G.room
  have hfree : locksFree (parkLanes u x.key (mmParked ms)) (selCore x) ((mmGood ms).flatMap mmLocks) = true := G.unlocked
  have hopen : ((mmGood ms).all fun y => pagesOpen (parkLanes u x.key (mmParked ms)) (selCore x) y.pages) = true := G.opens
  have hgood : (mmGood ms).isEmpty = false := List.isEmpty_eq_false_iff.2 G.some
  have hfew := G.few
  have hreads := G.reads
  unfold mmGood at *
  unfold mmIssue
  simp only [G.apart, G.unstopped, hfew, hgood, hroom, hfree, hopen, G.settled, hreads, Bool.false_eq_true, if_false, Bool.not_true,
    Bool.or_false]
  rfl

theorem effMmaOf_of_goes : effMmaOf i sig a h x s =
    .done ((mmGood ms).foldl (mmStart x i h e bl) (mmBegun u x e ms)) ((mmParked ms).map fun p => p.1) := by
  unfold effMmaOf
  rw [gated_ready G.full, released_of_calm G.calm, ← show u = _ from G.acts]
  simp only [homeOf_released G.home G.acts, G.entry, G.lanes]
  exact mmIssue_of_goes G

theorem mmParked_run : (∀ j ∈ (mmParked ms).map (fun p => p.1), j ∈ x.run) ∧ ((mmParked ms).map fun p => p.1).Nodup := by
  have hlanes : ms.map (fun y => y.lane) = x.run := lanes_of_mmLanes G.lanes
  have hsub := mmParked_sublist ms
  rw [hlanes] at hsub
  exact ⟨fun j hj => hsub.subset hj, hsub.nodup (run_nodup G.turn.1)⟩

/-- A lane whose tiles translate goes on. -/
theorem mmGood_run : ∃ j ∈ x.run, j ∉ (mmParked ms).map fun p => p.1 := by
  have hlanes : ms.map (fun y => y.lane) = x.run := lanes_of_mmLanes G.lanes
  obtain ⟨y, hy⟩ := List.exists_mem_of_ne_nil _ G.some
  obtain ⟨hy, hstop⟩ := List.mem_filter.1 hy
  refine ⟨y.lane, hlanes ▸ List.mem_map_of_mem (f := fun y => y.lane) hy, fun hbad => ?_⟩
  obtain ⟨p, hp, hpy⟩ := List.mem_map.1 hbad
  obtain ⟨z, hz, hzp, hzs⟩ := mem_mmParked hp
  have hnodup : (ms.map fun y => y.lane).Nodup := hlanes ▸ run_nodup G.turn.1
  have hyz : z = y := List.inj_on_of_nodup_map hnodup hz hy (hzp.trans hpy)
  rw [hyz] at hzs
  exact hzs (Option.isNone_iff_eq_none.1 hstop)

/-- The issue: the handle fills, the operations of the lanes that translate have joined the queue in their order, and the other lanes are
parked. -/
theorem mma_issues (hi : exec i s = issue 4 (effMmaOf i sig a h) s) :
    ∃ t b, exec i s = .next t ∧ beamOf t x.key = some b ∧ Started u t (selCore x) e .filling ∧
      (handleAt t (selCore x) e).remain = (mmGood ms).length ∧ (∀ j, laneOf b j = steppedLane x (mmParked ms) j) ∧
      ∃ l, (coreOf t (selCore x)).matrixQ = (coreOf s (selCore x)).matrixQ ++ l ∧ List.Forall₂ (MmOpOf x i e) (mmGood ms) l := by
  obtain ⟨hbad, -⟩ := mmParked_run G
  obtain ⟨c, hc, hcl⟩ := beamOf_releaseAt G.turn .dev
  rw [← G.acts] at hc
  have hbegun : beamOf (mmBegun u x e ms) x.key = some (parkedBeam c (mmParked ms)) := by
    rw [mmBegun, parkLanes_eq hc]
    exact beamOf_setBeam_same u x.key _
  obtain ⟨l, hl, hq⟩ := mmStarts_queues x i h e bl (mmGood ms) (mmBegun u x e ms)
  obtain ⟨d, hd, hdl⟩ := hq.lanes x.key _ hbegun
  have hlanes : d.lanes = (parkedBeam x.beam (mmParked ms)).lanes := by
    rw [hdl, parkedBeam, parkedBeam, beamLanes, beamLanes, hcl]
  have hhandle := (hq.handles (selCore x) e).trans (handleAt_newInstance (parkLanes u x.key (mmParked ms)) (selCore x) e (mmFill (mmGood ms).length))
  have hqueue : (coreOf (mmBegun u x e ms) (selCore x)).matrixQ = (coreOf s (selCore x)).matrixQ := by
    rw [mmBegun, newInstance, setHandle, part_setCore Core.matrixQ rfl, G.acts]
    exact (releaseAt_onlyL1 s x.key .dev).part Core.matrixQ (fun _ => rfl) _
  refine ⟨_, _, exec_done_stay G.turn hi (effMmaOf_of_goes G) hd (parked_runnable G.turn hbad hlanes (mmGood_run G)),
    retire_beams (beamOf_setBeam_same _ x.key _), started_of_newInstance (w := parkLanes u x.key (mmParked ms)) rfl hhandle fun _ => ⟨rfl, rfl⟩,
    congrArg Handle.remain hhandle, laneOf_stepped G.turn hbad hlanes, l, ?_, hl⟩
  rw [← hqueue]
  exact hq.queue

end Goes

/-! ## Operations that hold their beam (R228, R231) -/

theorem slotCheck_of_lt {sl : Nat} (h : gr.accs > sl) : slotCheck sl x u bl g gr = none := if_neg (Nat.not_le.2 h)

theorem effAclr_of_held (sl : Nat) (hc : heldBack s x .gang = true) : effAclr sl x s = .hold (performAll s x.key) := released_of_held hc

theorem effAclr_of_calm {sl : Nat} (hc : heldBack s x .gang = false) (hu : u = releaseAt s x.key .gang)
    (hh : homeOf s x.beam = some (bl, g, gr)) (hsl : gr.accs > sl) :
    effAclr sl x s = syncEnter x (.aclr sl) u ⟨[], [], [bl.slots.getD sl 255, 0]⟩ := by
  rw [effAclr, released_of_calm hc, ← hu]
  simp only [homeOf_released hh hu, slotCheck_of_lt hsl]

/-! ## SCBS (R227) -/

/-- The state in which SCBS has bound its pair and emptied the scale cache. -/
def scbsBound (s : State) (x : Sel) (b a : Src) (k : Nat) : State :=
  let l := laneOf x.beam (leastD 0 x.run)
  setCore { s with blocks := alter s.blocks x.beam.block fun bl =>
    { bl with scales := put bl.scales k (lanePair l a.r, (laneReg l b.r).toNat % 64) } } (selCore x) fun c => { c with scaleCache := [] }

theorem effScbs_of_uniform {b : Src} (hr : ready x x.run [srcUse a 2, srcUse b 1] [] = true)
    (ha : ∀ j ∈ x.run, lanePair (laneOf x.beam j) a.r = lanePair (laneOf x.beam (leastD 0 x.run)) a.r)
    (hb : ∀ j ∈ x.run, laneReg (laneOf x.beam j) b.r = laneReg (laneOf x.beam (leastD 0 x.run)) b.r) (k : Nat) :
    effScbs b a k x s = .done (scbsBound s x b a k) [] := by
  rw [effScbs, gated_ready hr, uniform_of_first (f := fun l => lanePair l a.r) ha, uniform_of_first (f := fun l => laneReg l b.r) hb]
  rfl

/-- SCBS binds a pair of its block. -/
theorem exec_scbs {b : Src} (ht : Turn s x) (hl : look s.blocks x.beam.block = some bl)
    (hr : ready x x.run [srcUse a 2, srcUse b 1] [] = true)
    (ha : ∀ j ∈ x.run, lanePair (laneOf x.beam j) a.r = lanePair (laneOf x.beam (leastD 0 x.run)) a.r)
    (hb : ∀ j ∈ x.run, laneReg (laneOf x.beam j) b.r = laneReg (laneOf x.beam (leastD 0 x.run)) b.r) (k : Nat) :
    let l := laneOf x.beam (leastD 0 x.run)
    ∃ t c, exec (.scbs b a k) s = .next t ∧ beamOf t x.key = some c ∧ Advanced x c ∧ (coreOf t (selCore x)).scaleCache = [] ∧ t.mem = s.mem ∧
      ∃ bl', look t.blocks x.beam.block = some bl' ∧ look bl'.scales k = some (lanePair l a.r, (laneReg l b.r).toNat % 64) := by
  intro l
  have hexec := exec_done_eq ht (i := .scbs b a k) rfl (effScbs_of_uniform hr ha hb k) (c := x.beam) ht.2 (selected_runnable ht.1)
  rw [retire_setBeam _ _ (beamLanes x.beam x.run fun _ l => nextPc 4 l) rfl] at hexec
  refine ⟨_, _, hexec, beamOf_issuedBy _ _ _, advanced_finished ht rfl, ?_, rfl,
    { bl with scales := put bl.scales k (lanePair l a.r, (laneReg l b.r).toNat % 64), retired := Nat.min (bl.retired + 1) (2 ^ 32 - 1) }, ?_,
    look_put_same _ _ _⟩
  · exact congrArg Core.scaleCache (coreOf_setCore_same _ (selCore x) fun c => { c with scaleCache := [] })
  · show look (alter (alter s.blocks x.beam.block _) x.beam.block _) x.beam.block = _
    rw [look_alter, if_pos rfl, look_alter, if_pos rfl, hl]
    rfl

end Sys2Proof.Machine

namespace Sys2Proof.Certificates

open Sys2Proof Sys2Proof.Machine

/-- Settles O52, by the effect of each instruction once its checks have passed and what its entry leaves. -/
theorem matrixOperationsQueue : Obligations.MatrixOperationsQueue := by
  unfold Obligations.MatrixOperationsQueue
  intro s u x a bl g gr q
  refine ⟨fun i sig h e ms hi ht hu hc hh hr he hms hclash hstop => ?_, fun hroom => ⟨fun sl hsl => ⟨fun p B hp hl => ?_, fun p B hp hl => ?_,
      fun ht hu hc hh => ?_⟩, fun fs hfs p B hp hl => ?_, fun p B hp hl => ?_, fun p B hp hl => ?_⟩,
    fun ht hr i h sl fs hi => ?_, fun c k ht hl hr ha hb => exec_scbs ht hl hr ha hb k⟩
  · intro good hgood hfew hroom hfree hopen v hsettled hreads
    have G : MmGoes s u x a sig h e bl g gr ms :=
      ⟨ht, hu, hc, hh, hr, he, hms, hclash, hstop, hgood, hfew, hroom, hfree, hopen, hsettled, hreads⟩
    have hexec : exec i s = issue 4 (effMmaOf i sig a h) s := by
      obtain hi | hi := List.mem_cons.1 hi
      · cases hi; rfl
      · cases List.mem_singleton.1 hi; rfl
    obtain ⟨t, b, hexec, hb, hstart, hremain, hlane, l, hq, hops⟩ := mma_issues G hexec
    refine ⟨t, b, hexec, hb, hstart, hremain, fun j hj => ?_, fun p hp => ?_, l, hq, hops.length_eq.symm, forall₂_getElem? hops⟩
    · rw [hlane]
      exact steppedLane_of_out hj
    · rw [hlane, steppedLane_of_parked (mmParked_run G).2 hp]
      exact ⟨rfl, rfl, rfl, rfl⟩
  · exact exec_joinsMatrix B.turn B.acts rfl (syncIssue_of_block B (slotCheck_of_lt hsl) hp) hroom hl
  · exact exec_joinsMatrix B.turn B.acts rfl (syncIssue_of_block B (slotCheck_of_lt hsl) hp) hroom hl
  · exact exec_joinsMatrix ht hu rfl (effAclr_of_calm hc hu hh hsl) hroom rfl
  · exact exec_joinsMatrix B.turn B.acts rfl (syncIssue_of_block B hfs hp) hroom hl
  · exact exec_joinsMatrix B.turn B.acts rfl (syncIssue_of_block B rfl hp) hroom hl
  · exact exec_joinsMatrix B.turn B.acts rfl (syncIssue_of_block B rfl hp) hroom hl
  · obtain ⟨hi, hc⟩ | ⟨hi, hc⟩ := hi
    · simp only [List.mem_cons, List.not_mem_nil, or_false] at hi
      obtain rfl | rfl := hi <;> exact exec_held ht rfl (effMmaOf_of_held hr hc)
    · simp only [List.mem_cons, List.not_mem_nil, or_false] at hi
      obtain rfl | rfl | rfl | rfl | rfl | rfl := hi
      · exact exec_held ht rfl (syncIssue_of_held hr hc)
      · exact exec_held ht rfl (syncIssue_of_held hr hc)
      · exact exec_held ht rfl (effAclr_of_held sl hc)
      · exact exec_held ht rfl (syncIssue_of_held hr hc)
      · exact exec_held ht rfl (syncIssue_of_held hr hc)
      · exact exec_held ht rfl (syncIssue_of_held hr hc)

end Sys2Proof.Certificates
end

section
/-!
SUPPORT. What leaves the blocks, gangs and grids as they stand: performing and completing accesses, walks, bins that ship, withdrawn rule
operations, traps and the ends of commits.
-/
namespace Sys2Proof.Machine

open Sys2Proof

set_option Elab.async false

/-- The state t has the blocks, gangs, grids and clock of s. -/
structure SameResidents (s t : State) : Prop where
  blocks : t.blocks = s.blocks
  gangs : t.gangs = s.gangs
  grids : t.grids = s.grids
  clk : t.clk = s.clk

namespace SameResidents

variable {s t u : State}

theorem refl (s : State) : SameResidents s s := ⟨rfl, rfl, rfl, rfl⟩

theorem trans (h : SameResidents s t) (g : SameResidents t u) : SameResidents s u :=
  ⟨g.blocks.trans h.blocks, g.gangs.trans h.gangs, g.grids.trans h.grids, g.clk.trans h.clk⟩

theorem foldl {α : Type} {f : State → α → State} (hf : ∀ s a, SameResidents s (f s a)) :
    ∀ (l : List α) (s : State), SameResidents s (l.foldl f s)
  | [], s => .refl s
  | a :: l, s => (hf s a).trans (foldl hf l (f s a))

theorem ite {c : Prop} [Decidable c] (ht : SameResidents s t) (hu : SameResidents s u) : SameResidents s (if c then t else u) := by
  split
  · exact ht
  · exact hu

theorem of_only (h : OnlyMemory s t) : SameResidents s t := ⟨h.blocks, h.gangs, h.grids, h.clk⟩

theorem of_beam {k : Nat} (h : OnlyBeam k s t) : SameResidents s t := by
  rw [h.same]
  exact ⟨rfl, rfl, rfl, rfl⟩

theorem of_walks (h : OnlyWalks s t) : SameResidents s t := by
  rw [h]
  exact ⟨rfl, rfl, rfl, rfl⟩

theorem of_bins (h : OnlyBins s t) : SameResidents s t := by
  rw [h]
  exact ⟨rfl, rfl, rfl, rfl⟩

end SameResidents

open SameResidents

theorem post_sameResidents (s : State) (d : Nat) (i : Instr) : SameResidents s (post s d i) := ⟨rfl, rfl, rfl, rfl⟩

theorem onBeam_sameResidents (s : State) (k : Nat) (f : Beam → Beam) : SameResidents s (onBeam s k f) := .of_beam (onBeam_only s k f)

theorem setBeam_sameResidents (s : State) (k : Nat) (b : Beam) : SameResidents s (setBeam s k b) := .of_beam (setBeam_only s k b)

/-! ## Traps (R287, R288, R294) -/

theorem doubleRecord_sameResidents (s : State) (k code addr pc lvl : Nat) : SameResidents s (doubleRecord s k code addr pc lvl) := by
  rw [doubleRecord_only]
  exact ⟨rfl, rfl, rfl, rfl⟩

theorem doubleTrap_sameResidents (s : State) (k code addr pc lvl : Nat) : SameResidents s (doubleTrap s k code addr pc lvl) := by
  have h := doubleRecord_sameResidents s k code addr pc lvl
  unfold doubleTrap
  dsimp only
  split
  · exact h.trans ((onBeam_sameResidents _ k _).trans (post_sameResidents ..))
  · exact h

/-- A trap that is taken changes memory, the beam, and what a double trap records and posts. -/
theorem takeTrap_sameResidents (s : State) (k : Nat) (t : Trap) : SameResidents s (takeTrap s k t) := by
  unfold takeTrap
  split
  · exact .refl s
  · dsimp only
    have h := SameResidents.of_beam (settle_only s k)
    generalize settle s k = r at h
    refine .ite (doubleTrap_sameResidents ..) ?_
    split
    · exact h
    · split
      · refine .ite (h.trans (doubleTrap_sameResidents ..)) ?_
        split
        · exact h.trans (doubleTrap_sameResidents ..)
        next s2 h2 =>
          exact h.trans ((of_only (supWrite_only _ _ _ _ _ _ _ h2)).trans ((of_only (releaseCaches_only s2 _ _)).trans (setBeam_sameResidents ..)))
      · exact h.trans (doubleTrap_sameResidents ..)

theorem entryWalks_sameResidents (s : State) (k : Nat) : SameResidents s (entryWalks s k) := .of_walks (entryWalks_only s k)

theorem raiseTrap_sameResidents (s : State) (k : Nat) (t : Trap) : SameResidents s (raiseTrap s k t) :=
  .ite (takeTrap_sameResidents ..) ((entryWalks_sameResidents s k).trans (.of_beam (queueTrap_only _ k t)))

theorem completeDue_sameResidents (s : State) (k : Nat) : SameResidents s (completeDue s k) := by
  refine .foldl (fun s d => .ite (.refl s) ?_) _ s
  split
  · exact .ite (.of_beam (completePend_only s k _)) (.refl s)
  · exact .ite (.of_beam (drainWhere_only s k _)) (.refl s)
  · exact .refl s

theorem idleTrap_sameResidents (s : State) (k : Nat) (t : Trap) : SameResidents s (idleTrap s k t) := by
  have h := completeDue_sameResidents s k
  unfold idleTrap firstTrap
  dsimp only
  split
  · exact .ite (h.trans ((onBeam_sameResidents _ k _).trans (raiseTrap_sameResidents ..))) (h.trans (raiseTrap_sameResidents ..))
  · exact h.trans (raiseTrap_sameResidents ..)

theorem settleRun_sameResidents (s : State) (k : Nat) : SameResidents s (settleRun s k) := by
  unfold settleRun
  split
  · exact .refl s
  · exact .ite (.refl s) (.ite (idleTrap_sameResidents ..) (.ite (idleTrap_sameResidents ..) (.refl s)))

/-! ## Beams that stop, and what is withdrawn and shipped for them (R255, R304, R306) -/

theorem stopBeam_sameResidents (s : State) (k : Nat) : SameResidents s (stopBeam s k) := by
  unfold stopBeam
  split
  · exact .refl s
  · refine .ite (post_sameResidents ..) ?_
    split
    · exact .ite ((setBeam_sameResidents ..).trans ((takeTrap_sameResidents ..).trans (post_sameResidents ..)))
        ((SameResidents.ite (entryWalks_sameResidents s k) (.refl s)).trans (onBeam_sameResidents ..))
    · exact setBeam_sameResidents ..

theorem shipBlock_sameResidents (s : State) (b : Block) : SameResidents s (shipBlock s b) :=
  .foldl (f := fun s (x : Nat × Bin) => if (binOf s x.1).items.any (recordOf b.core b.bslot) then shipBin s x.1 else s)
    (fun s x => .ite (.of_bins (shipBin_onlyBins s x.1)) (.refl s)) _ s

theorem dropLocks_only (s : State) (core e : Nat) : OnlyMemory s (dropLocks s core e) := ⟨id, rfl⟩

theorem rewindBeam_only (s : State) (o : EngineOp) : OnlyBeam o.beam s (rewindBeam s o) :=
  ((dropLocks_only s _ _).beam o.beam).trans (onBeam_only _ o.beam _)

theorem withdrawWhere_sameResidents (s : State) (core : Nat) (p : EngineOp → Bool) : SameResidents s (withdrawWhere s core p) :=
  (SameResidents.of_only (.of_setCore s core fun c => { c with ruleQ := c.ruleQ.filter fun o => !p o })).trans
    (.foldl (fun s o => .of_beam (rewindBeam_only s o)) _ _)

/-! ## Beams that await commits (R189) -/

theorem commits_sameResidents (s : State) (m : NMap Commit) : SameResidents s { s with commits := m } := ⟨rfl, rfl, rfl, rfl⟩

theorem releaseCommit_sameResidents (s : State) (c k : Nat) (m : Commit) : SameResidents s (releaseCommit s c k m) := by
  unfold releaseCommit
  split
  · exact .refl s
  · split
    · exact (setBeam_sameResidents ..).trans (.of_beam (queueTrap_only _ k _))
    · exact setBeam_sameResidents ..

theorem takeTicket_sameResidents (k : Nat) (s : State) (c : Nat) : SameResidents s (takeTicket k s c) := by
  unfold takeTicket
  split
  · exact onBeam_sameResidents ..
  · exact .ite ((commits_sameResidents s _).trans (releaseCommit_sameResidents ..)) (commits_sameResidents s _)

theorem takeTickets_sameResidents (s : State) (k : Nat) : SameResidents s (takeTickets s k) := .foldl (takeTicket_sameResidents k) _ s

theorem keepTickets_sameResidents (s : State) (k : Nat) : SameResidents s (keepTickets s k) :=
  .foldl (f := keepTicket k) (fun s _ => commits_sameResidents s _) _ s

end Sys2Proof.Machine
end

section
/-!
PROOF of O59. Pre-emption (R301-R309, R319, R323): requests and modes, saves and their restoration, overdue requests, and what the end of a
rebinding and of a grid leaves.
-/
namespace Sys2Proof.Machine

open Sys2Proof

set_option Elab.async false

variable {s t u : State} {gk key k : Nat} {g : Gang} {gr : Grid} {b : Block}

theorem gangGrid_of_look (hg : look s.gangs gk = some g) (hgr : look s.grids g.grid = some gr) : gangGrid s gk = some gr := by
  rw [gangGrid, hg]
  exact hgr

/-! ## A block that leaves by a mode (R301-R306) -/

/-- The block key stands in t as the block c, and the gangs and the clock are those of s. -/
structure BlockBecomes (key : Nat) (c : Block) (s t : State) : Prop where
  block : look t.blocks key = some c
  gangs : t.gangs = s.gangs
  clk : t.clk = s.clk

theorem BlockBecomes.then {c : Block} (h : BlockBecomes key c s t) (g : SameResidents t u) : BlockBecomes key c s u :=
  ⟨by rw [g.blocks, h.block], g.gangs.trans h.gangs, g.clk.trans h.clk⟩

theorem setLeave_becomes (hb : look s.blocks key = some b) (gk : Nat) (l : Leave) :
    BlockBecomes key { b with leave := l } s (setLeave s gk key l) := by
  refine ⟨?_, rfl, rfl⟩
  show look (alter s.blocks key fun b => { b with leave := l }) key = _
  rw [look_alter, if_pos rfl, hb]
  rfl

/-- A block that begins to save stops its beams, ships its records and withdraws its rule operations (R304, R255). -/
theorem enterSave_becomes (hb : look s.blocks key = some b) (gk : Nat) :
    BlockBecomes key { b with leave := .save } s (enterSave s gk key) := by
  rw [enterSave, hb]
  exact (((setLeave_becomes hb gk .save).then (.foldl stopBeam_sameResidents _ _)).then (shipBlock_sameResidents _ b)).then
    (withdrawWhere_sameResidents ..)

/-- What a block's mode makes of it. -/
def leaveOfMode (e : Nat) : Mode → Leave
  | .drain => .drain e
  | .flush => .flush
  | .save => .save

theorem beginLeave_becomes (hb : look s.blocks key = some b) (gk : Nat) (g : Gang) (gr : Grid) :
    BlockBecomes key { b with leave := leaveOfMode (s.clk + watchdogTime s g gr) (modeOfBlock s b g gr) } s (beginLeave s gk key g gr) := by
  simp only [beginLeave, hb]
  cases modeOfBlock s b g gr with
  | drain => exact ((setLeave_becomes hb gk _).then (shipBlock_sameResidents _ b)).then (post_sameResidents ..)
  | flush =>
    exact (((setLeave_becomes hb gk .flush).then (.foldl (fun s k => onBeam_sameResidents s k _) _ _)).then (shipBlock_sameResidents _ b)).then
      (withdrawWhere_sameResidents ..)
  | save => exact enterSave_becomes hb gk

/-- What a request is, as it reaches a gang (R301, R309). -/
def requestOf (s : State) (g : Gang) (gr : Grid) : Preempt :=
  ⟨s.clk, (g.request.bind fun r => r.forGang), s.clk + csrN s gr.part 0x309⟩

/-- A gang with the request that has reached it. -/
def requested (s : State) (gk : Nat) (g : Gang) (gr : Grid) : State :=
  { s with gangs := put s.gangs gk { g with requested := true, request := some (requestOf s g gr) } }

theorem beginsPlaced_of_resident (hg : look s.gangs gk = some g) (hgr : look s.grids g.grid = some gr) (hs : g.state = .resident) :
    beginsPlaced s gk = s := by
  simp only [beginsPlaced, hg, gangGrid_of_look hg hgr, beginEarly, hs, ite_self]

/-- A request that reaches a resident gang of one block that does not leave yet. -/
theorem exec_preemptRequest (hg : look s.gangs gk = some g) (hgr : look s.grids g.grid = some gr) (hs : g.state = .resident)
    (hblocks : g.blocks = [key]) (hb : look s.blocks key = some b) (hl : b.leave = .none) :
    exec (.hgPreemptRequestDelivery [gk]) s =
      .next (post (beginLeave (requested s gk g gr) gk key g gr) (csrN s gr.part 0x309) (.preemptOverdue gk)) := by
  have hstay : ((gangBlocks s g).any fun b => b.leave != .none) = false := by
    rw [gangBlocks, hblocks, List.filterMap_cons, hb]
    simp only [List.filterMap_nil, List.any_cons, List.any_nil, Bool.or_false, hl]
    rfl
  have hstarting : (g.state == .starting) = false := by rw [hs]; rfl
  have hresident : (g.state != .resident) = false := by rw [hs]; rfl
  have hfold : g.blocks.foldl (fun t key => beginLeave t gk key g gr) (requested s gk g gr) =
      beginLeave (requested s gk g gr) gk key g gr := by
    rw [hblocks]
    rfl
  rw [← hfold]
  show Host.Outcome.next (deliverTo s gk) = _
  unfold deliverTo
  rw [beginsPlaced_of_resident hg hgr hs, hg, gangGrid_of_look hg hgr]
  dsimp only
  rw [hstarting, hresident, hstay]
  rfl

/-! ## The watchdog of a drain (R302) -/

theorem exec_drainWatchdogExpiry {d : Nat} (hb : look s.blocks key = some b) (hl : b.leave = .drain d) :
    exec (.drainWatchdogExpiry key) s = .next (if d ≤ s.clk ∧ drained s key b = false then saveDrained s b.gang key else s) := by
  show execDrainWatchdogExpiry key s = _
  simp only [execDrainWatchdogExpiry, hb, hl]

theorem saveDrained_becomes (hb : look s.blocks key = some b) (gk : Nat) : ∃ u,
    BlockBecomes key { b with doneByDrain := blockExited s b, leave := .save } u (saveDrained s gk key) := by
  refine ⟨{ s with blocks := alter s.blocks key fun b => { b with doneByDrain := blockExited s b } },
    enterSave_becomes (b := { b with doneByDrain := blockExited s b }) ?_ gk⟩
  show look (alter s.blocks key _) key = _
  rw [look_alter, if_pos rfl, hb]
  rfl

/-! ## The grace of a masked handler (R306, R255) -/

theorem ruleQ_rewindBeam (s : State) (o : EngineOp) (d : Nat) : (coreOf (rewindBeam s o) d).ruleQ = (coreOf s d).ruleQ := by
  show (coreOf (dropLocks s (o.beam / 64) (opOwner o.inst)) d).ruleQ = _
  rw [coreOf_dropLocks]

/-- A beam of which an operation is withdrawn stays stopped. -/
theorem stopped_rewindBeam {c : Beam} (hc : beamOf s k = some c) (hs : c.stopped = true) (o : EngineOp) :
    ∃ c, beamOf (rewindBeam s o) k = some c ∧ c.stopped = true := by
  by_cases hk : k = o.beam
  · subst hk
    refine ⟨_, by rw [rewindBeam, onBeam_some (show beamOf (dropLocks s _ _) o.beam = some c from hc), beamOf_setBeam_same], ?_⟩
    dsimp only
    split
    · exact hs
    · exact hs
  · exact ⟨c, by rw [(rewindBeam_only s o).others k hk, hc], hs⟩

/-- The state t is s with rule operations withdrawn: memory is as it was, the rule queues are, and the beam k stays stopped. -/
structure Withdraws (k : Nat) (s t : State) : Prop where
  mem : t.mem = s.mem
  ruleQ : ∀ d, (coreOf t d).ruleQ = (coreOf s d).ruleQ
  stopped : ∀ c, beamOf s k = some c → c.stopped = true → ∃ c, beamOf t k = some c ∧ c.stopped = true

theorem rewindBeams_withdraws (k : Nat) : ∀ (l : List EngineOp) (s : State), Withdraws k s (l.foldl rewindBeam s)
  | [], _ => ⟨rfl, fun _ => rfl, fun c hc hs => ⟨c, hc, hs⟩⟩
  | o :: l, s => by
    have h := rewindBeams_withdraws k l (rewindBeam s o)
    refine ⟨h.mem, fun d => (h.ruleQ d).trans (ruleQ_rewindBeam s o d), fun c hc hs => ?_⟩
    obtain ⟨c', hc', hs'⟩ := stopped_rewindBeam hc hs o
    exact h.stopped c' hc' hs'

theorem exec_pgraceExpiry {core n : Nat} {b : Beam} {bl : Block} (hb : beamOf s (64 * core + n) = some b)
    (hbl : look s.blocks b.block = some bl) (hl : bl.leave = .save) : exec (.pgraceExpiry core n) s =
      .next (post (withdrawWhere (setBeam s (64 * core + n) { b with stopped := true }) core fun o => o.beam == 64 * core + n) 0
        (.gangRetire bl.gang)) := by
  show execPgraceExpiry core n s = _
  simp only [execPgraceExpiry, hb, hbl, hl]

/-- What is left of a beam whose grace is over: it is stopped, and nothing of it is queued in the rule engine. -/
theorem exec_pgraceExpiry_spec {core n : Nat} {b : Beam} {bl : Block} (hb : beamOf s (64 * core + n) = some b)
    (hbl : look s.blocks b.block = some bl) (hl : bl.leave = .save) :
    ∃ t, exec (.pgraceExpiry core n) s = .next t ∧ (∃ c, beamOf t (64 * core + n) = some c ∧ c.stopped = true ∧
        ((∀ o ∈ (coreOf s core).ruleQ, o.beam ≠ 64 * core + n) → c = { b with stopped := true })) ∧
      (∀ o ∈ (coreOf t core).ruleQ, o.beam ≠ 64 * core + n) ∧ ⟨s.clk, .gangRetire bl.gang⟩ ∈ t.agenda ∧ t.mem = s.mem := by
  refine ⟨_, exec_pgraceExpiry hb hbl hl, ?_⟩
  generalize 64 * core + n = k
  let s1 := setBeam s k { b with stopped := true }
  let p : EngineOp → Bool := fun o => o.beam == k
  let s2 := setCore s1 core fun c => { c with ruleQ := c.ruleQ.filter fun o => !p o }
  have hdef : withdrawWhere s1 core p = ((coreOf s1 core).ruleQ.filter p).foldl rewindBeam s2 := rfl
  have hw := rewindBeams_withdraws k ((coreOf s1 core).ruleQ.filter p) s2
  have hbeam : beamOf s2 k = some { b with stopped := true } := beamOf_setBeam_same s k _
  refine ⟨?_, fun o ho => ?_, ?_, by rw [post_mem, hdef, hw.mem]; rfl⟩
  · obtain ⟨c, hc, hs⟩ := hw.stopped _ hbeam rfl
    refine ⟨c, hc, hs, fun hnone => ?_⟩
    have hout : (coreOf s1 core).ruleQ.filter p = [] := List.filter_eq_nil_iff.2 fun o ho hp => hnone o ho (beq_iff_eq.1 hp)
    rw [hout] at hc
    exact Option.some.inj (hc.symm.trans hbeam)
  · have hq : (coreOf (withdrawWhere s1 core p) core).ruleQ = (coreOf s1 core).ruleQ.filter fun o => !p o := by
      rw [hdef, hw.ruleQ, coreOf_setCore_same]
    rw [show coreOf (post _ 0 _) core = coreOf (withdrawWhere s1 core p) core from rfl, hq] at ho
    simpa [p] using (List.mem_filter.1 ho).2
  · have hclk := (withdrawWhere_sameResidents s1 core p).clk
    exact hclk ▸ mem_agenda_post (withdrawWhere s1 core p) (.gangRetire bl.gang)

end Sys2Proof.Machine
end

section
/-!
PROOF of O59. Saves (R305-R308): the area that a save takes, its writing, the gang that gives up its cores, and the restoration.
-/
namespace Sys2Proof.Machine

open Sys2Proof

set_option Elab.async false

variable {s t u : State} {gk key first n : Nat} {g : Gang} {gr : Grid} {b : Block}

/-! ## The area of a save (R307) -/

/-- A gang whose save has taken its area. -/
def tookArea (s : State) (gk : Nat) (g : Gang) (gr : Grid) (first : Nat) : State :=
  post { s with
    pool := put s.pool gr.part ((first, areaGranules gr) :: lookD s.pool gr.part [])
    gangs := put s.gangs gk { g with area := some (first, areaGranules gr) } } 0 (.gangRetire gk)

/-- A gang with a block that waits for room takes the first area that fits, or waits on. -/
theorem exec_savePoolAlloc (hg : look s.gangs gk = some g) (hgr : look s.grids g.grid = some gr) (ha : g.area = none)
    (hw : ∃ b ∈ gangBlocks s g, b.leave = .saveWait) : exec (.savePoolAlloc gk) s =
      .next (((freeSpan (poolSize s gr.part) (areaGranules gr) (lookD s.pool gr.part [])).map (tookArea s gk g gr)).getD s) := by
  have hwaits : ((gangBlocks s g).any fun b => b.leave == .saveWait) = true := by
    obtain ⟨b, hb, hl⟩ := hw
    exact List.any_eq_true.2 ⟨b, hb, beq_iff_eq.2 hl⟩
  show execSavePoolAlloc gk s = _
  simp only [execSavePoolAlloc, hg, gangGrid_of_look hg hgr, hwaits, ha, Option.isSome_none, Bool.not_true, Bool.or_self, Bool.false_eq_true,
    if_false]
  cases freeSpan (poolSize s gr.part) (areaGranules gr) (lookD s.pool gr.part []) <;> rfl

/-! ## A block's area is written (R305) -/

theorem writeBlock_only (s : State) (b : Block) (g : Gang) (gr : Grid) (first : Nat) : OnlyMemory s (writeBlock s b g gr first) :=
  (homePut_only ..).trans (homePut_only ..)

theorem keepTickets_mem (l : List Nat) (s : State) : (l.foldl keepTickets s).mem = s.mem :=
  List.foldlRecOn (motive := fun t : State => t.mem = s.mem) _ _ rfl fun t ht k _ =>
    (List.foldlRecOn (motive := fun u : State => u.mem = t.mem) _ (keepTicket k) rfl fun _ hu _ _ => hu).trans ht

theorem exec_saveWriteComplete (hb : look s.blocks key = some b) (hg : look s.gangs b.gang = some g) (hgr : look s.grids g.grid = some gr)
    (ha : g.area = some (first, n)) (hl : b.leave = .saveWrite) : exec (.saveWriteComplete key) s =
      .next (if !poolOpen s gr.part b.core g.area then post s 40 (.saveWriteComplete key)
        else setLeave ((blockBeams b).foldl keepTickets (writeBlock s b g gr first)) b.gang key .done) := by
  show execSaveWriteComplete key s = _
  simp only [execSaveWriteComplete, hb, hg, gangGrid_of_look hg hgr, ha, hl]

/-- A block that is written is done, and memory is as its writing leaves it. -/
theorem saveWritten_spec (hb : look s.blocks key = some b) (gk : Nat) (g : Gang) (gr : Grid) (first : Nat) :
    let t := setLeave ((blockBeams b).foldl keepTickets (writeBlock s b g gr first)) gk key .done
    t.mem = (writeBlock s b g gr first).mem ∧ ∃ c, look t.blocks key = some c ∧ c.leave = .done := by
  have hsame := (SameResidents.of_only (writeBlock_only s b g gr first)).trans (.foldl keepTickets_sameResidents (blockBeams b) _)
  have hlook : look ((blockBeams b).foldl keepTickets (writeBlock s b g gr first)).blocks key = some b := by rw [hsame.blocks, hb]
  exact ⟨keepTickets_mem (blockBeams b) (writeBlock s b g gr first), _, (setLeave_becomes hlook gk .done).block, rfl⟩

/-! ## A gang that gives up its cores (R79, R80, R301) -/

theorem keepNumber_only (s : State) (k : Nat) : OnlyMemory s (keepNumber s k) := by
  unfold keepNumber
  split
  · split
    · exact .refl s
    · exact .of_setCore ..
  · exact .refl s

theorem exec_gangPreempted_spec (hg : look s.gangs gk = some g) (hgr : look s.grids g.grid = some gr) (hs : g.state = .resident)
    (ha : gr.aborted = false) (hdone : ∀ b ∈ gangBlocks s g, b.leave = .done) :
    ∃ t, exec (.gangPreempted gk) s = .next t ∧ (∀ key ∈ g.blocks, look t.blocks key = none) ∧
      look t.grids g.grid = some { gr with returned := insertReturned s gk gr.returned, live := gr.live - 1 } ∧
      ∃ y, look t.gangs gk = some y ∧ y.state = .listed ∧ y.blocks = [] ∧ y.saved = g.area.isSome ∧ y.again = g.area.isNone ∧
        y.requested = false := by
  have hresident : (g.state != .resident) = false := by rw [hs]; rfl
  have hall : ((gangBlocks s g).all fun b => b.leave == .done) = true :=
    List.all_eq_true.2 fun b hb => beq_iff_eq.2 (hdone b hb)
  let s1 := if g.area.isSome then (gangBeams s g).foldl keepNumber s else s
  have h1 : OnlyMemory s s1 := by
    unfold s1
    split
    · exact .foldl _ keepNumber_only _ s
    · exact .refl s
  obtain ⟨hleave, hgone⟩ := leaveCluster_gangsLeave s1 gk g gr
  have hexec : exec (.gangPreempted gk) s = .next { leaveCluster s1 gk g gr with
      agenda := (leaveCluster s1 gk g gr).agenda.filter fun d =>
        match d.step with
        | .blockThreadStart k | .resumeRestoreComplete k => k != gk
        | _ => true
      gangs := put (leaveCluster s1 gk g gr).gangs gk
        { g with
          state := .listed, blocks := [], chans := [], request := none, requested := false, saved := g.area.isSome
          again := g.area.isNone, kept := if g.area.isSome then keptBeams s g else []
          left := (gangBlocks s g).foldl (fun m b => put m b.k (leftChannels s b)) g.left }
      grids := alter (leaveCluster s1 gk g gr).grids g.grid fun x =>
        { x with returned := insertReturned s gk x.returned, live := x.live - 1 } } := by
    show execGangPreempted gk s = _
    unfold execGangPreempted
    rw [hg, gangGrid_of_look hg hgr]
    dsimp only
    rw [hresident, ha, hall]
    rfl
  refine ⟨_, hexec, hgone, ?_, _, look_put_same _ _ _, rfl, rfl, rfl, rfl, rfl⟩
  show look (alter _ g.grid _) g.grid = _
  rw [look_alter, if_pos rfl, hleave.grids, h1.grids, hgr]
  rfl

/-! ## A restoration (R307, R308) -/

theorem handleFrom_sameResidents (s : State) (core e r : Nat) : SameResidents s (handleFrom s core e r) := by
  unfold handleFrom
  exact .ite ⟨rfl, rfl, rfl, rfl⟩ (.refl s)

theorem restoreBeam_sameResidents (key : Nat) (b : Block) (kept : NMap Kept) (a : Nat) (l t : List Byte) (regAt fullAt : Nat) (s : State)
    (i : Nat) : SameResidents s (restoreBeam key b kept a l t regAt fullAt s i) := by
  unfold restoreBeam
  extract_lets r k lanes s1 s2
  have h1 : SameResidents s s1 := setBeam_sameResidents ..
  have h2 : SameResidents s s2 :=
    h1.trans (SameResidents.trans (.ite (t := setHalt s1 k) ⟨rfl, rfl, rfl, rfl⟩ (.refl s1)) (takeTickets_sameResidents _ k))
  exact (h2.trans (.of_only (acquireCaches_only s2 b.core .dev))).trans (settleRun_sameResidents _ k)

/-- What a block has of its area changes no gang. -/
theorem restoreBlock_gangs (gr : Grid) (first : Nat) (kept : NMap Kept) (s : State) (key : Nat) :
    (restoreBlock gr first kept s key).gangs = s.gangs := by
  unfold restoreBlock
  split
  · rfl
  next b0 hb =>
    extract_lets s0 base l t a r b s1 fullAt slotAt_ s2 s3 s4
    have hready : s3.gangs = s.gangs := readyCore_gangs s key b0 gr
    have hhandles : s4.gangs = s3.gangs :=
      (SameResidents.foldl (fun s i => handleFrom_sameResidents s b.core (b.handles.getD i 0) (leAt l (0x380 + 16 * i) 16)) _ s3).gangs
    have hbeams := (SameResidents.foldl (restoreBeam_sameResidents key b kept a l t 4096 fullAt) (upTo b.beams.length) s4).gangs
    rw [hbeams, hhandles, hready]

theorem restoreBlocks_gangs (gr : Grid) (first : Nat) (kept : NMap Kept) (l : List Nat) (s : State) :
    (l.foldl (restoreBlock gr first kept) s).gangs = s.gangs :=
  List.foldlRecOn (motive := fun t : State => t.gangs = s.gangs) _ _ rfl fun t ht key _ => (restoreBlock_gangs gr first kept t key).trans ht

theorem exec_resumeRestoreComplete (hg : look s.gangs gk = some g) (hgr : look s.grids g.grid = some gr) (hs : g.state = .starting) :
    exec (.resumeRestoreComplete gk) s = .next (if !areaOpen s g gr then post s 40 (.resumeRestoreComplete gk)
      else { resumeGang s gk g gr with
        gangs := alter (resumeGang s gk g gr).gangs gk fun x => { x with saved := false, kept := [] } }) := by
  show execResumeRestoreComplete gk s = _
  simp only [execResumeRestoreComplete, hg, gangGrid_of_look hg hgr, hs]

/-- A gang that has its state again is resident with its channels, and its area is free. -/
theorem resumeGang_gangs (ha : g.area = some (first, n)) : (resumeGang s gk g gr).gangs =
    put s.gangs gk { g with state := .resident, started := s.clk, chans := restoreChans s gr first, area := none } := by
  rw [resumeGang, ha]
  dsimp only
  rw [(nudge_gangsLeave _).gangs, (freeArea_gangsLeave _ _ _).gangs, restoreBlocks_gangs]

end Sys2Proof.Machine
end

section
/-!
PROOF of O59. A pre-emption that is overdue (R309), quiescing and the end of a rebinding (R319, R323), and ABORT (R298).
-/
namespace Sys2Proof.Machine

open Sys2Proof

set_option Elab.async false

variable {s t u : State} {gk k : Nat} {g : Gang} {gr : Grid} {r : Preempt}

/-! ## Overdue (R309) -/

/-- Whether a request makes nothing yet, or no more: its time is not over, or its grid has been ended. -/
def notOverdue (s : State) (gk : Nat) (r : Preempt) : Bool :=
  decide (s.clk < r.overdueAt) || ((gangGrid s gk).map fun gr => gr.aborted).getD false

theorem notOverdue_of_late (hlate : r.overdueAt ≤ s.clk) (ha : ((gangGrid s gk).map fun gr => gr.aborted) ≠ some true) :
    notOverdue s gk r = false := by
  rw [notOverdue, decide_eq_false (Nat.not_lt.2 hlate), Bool.false_or]
  cases h : (gangGrid s gk).map fun gr => gr.aborted with
  | none => rfl
  | some a =>
    cases a with
    | false => rfl
    | true => exact absurd h ha

section Overdue

variable (hg : look s.gangs gk = some g) (hs : g.state = .resident) (hr : g.request = some r)
include hg hs hr

theorem exec_preemptOverdue_idle (h : notOverdue s gk r = true) : exec (.preemptOverdue gk) s = .next s := by
  show execPreemptOverdue gk s = _
  unfold notOverdue at h
  simp only [execPreemptOverdue, hg, hr, hs, h, if_true]

theorem exec_preemptOverdue_record (h : notOverdue s gk r = false) (hb : overdueBeam s g = none) (hgr : look s.grids g.grid = some gr) :
    exec (.preemptOverdue gk) s = .next (overdueRecord s gr.part (((gangBlocks s g).head?.map fun b => b.core).getD 0)) := by
  show execPreemptOverdue gk s = _
  unfold notOverdue at h
  simp only [execPreemptOverdue, hg, hr, hs, h, hb, Bool.false_eq_true, if_false]
  rw [gangGrid_of_look hg hgr]
  rfl

theorem exec_preemptOverdue_beam (h : notOverdue s gk r = false) {b : Beam} (hk : overdueBeam s g = some k) (hb : beamOf s k = some b) :
    let u := endEnded (giveUpSave s b.block) k
    let tr := overdueTrap ((beamOf u k).getD b) (s.clk - r.since)
    exec (.preemptOverdue gk) s = .next (if trapOpen u k tr then takeTrap u k tr else post (entryWalks s k) 1 (.preemptOverdue gk)) := by
  intro u tr
  show execPreemptOverdue gk s = _
  unfold notOverdue at h
  simp only [execPreemptOverdue, hg, hr, hs, h, hk, hb, Bool.false_eq_true, if_false, u, tr]

end Overdue

/-- DTRAP names the core of a pre-emption with no beam to tell, and the partition's vector is signalled. -/
theorem overdueRecord_fields {part : Nat} (h : bit (csrN s part 0x310) 31 = false) (core : Nat) :
    let t := overdueRecord s part core
    csrGet t part 0x310 = BitVec.ofNat 32 (2 ^ 31 + core * 2 ^ 10 + 0x18) ∧ (∀ i, 0 < i → i < 4 → csrGet t part (0x310 + i) = 0) ∧
      .msix part ∈ t.sent := by
  intro t
  let s1 := csrPut s part 0x310 (BitVec.ofNat 32 (2 ^ 31 + core * 2 ^ 10 + 0x18))
  have hdef : t = { csrClear s1 part 0x311 3 with sent := s1.sent ++ [.msix part] } := by
    show overdueRecord s part core = _
    rw [overdueRecord, if_neg (by rw [h]; decide)]
  rw [hdef]
  refine ⟨?_, fun i h0 h4 => ?_, List.mem_append_right _ (List.mem_singleton_self _)⟩
  · show csrGet (csrPut (csrPut (csrPut s1 part 0x311 0) part 0x312 0) part 0x313 0) part 0x310 = _
    have hkey := fun {m : Nat} (hm : 0x310 ≤ m ∧ m ≤ 0x313) (hne : 0x310 ≠ m) =>
      show csrKey part 0x310 ≠ csrKey part m by rw [csrKey_dtrap _ ⟨by omega, by omega⟩, csrKey_dtrap _ hm]; omega
    rw [csrGet_csrPut, if_neg (hkey (by omega) (by omega)), csrGet_csrPut, if_neg (hkey (by omega) (by omega)), csrGet_csrPut,
      if_neg (hkey (by omega) (by omega)), csrGet_csrPut_same]
  · have hclear := csrGet_csrClear s1 part 0x311 3 (i - 1) (by omega)
    rw [show 0x311 + (i - 1) = 0x310 + i by omega] at hclear
    exact hclear

theorem releaseCommit_mem (s : State) (c k : Nat) (m : Commit) : (releaseCommit s c k m).mem = s.mem := by
  unfold releaseCommit
  split
  · rfl
  · split <;> rfl

theorem takeTicket_mem (k : Nat) (s : State) (c : Nat) : (takeTicket k s c).mem = s.mem := by
  unfold takeTicket
  split
  · rfl
  · dsimp only
    split
    · exact releaseCommit_mem ..
    · rfl

theorem takeTickets_mem (s : State) (k : Nat) : (takeTickets s k).mem = s.mem :=
  List.foldlRecOn (motive := fun t : State => t.mem = s.mem) _ (takeTicket k) rfl fun t ht c _ => (takeTicket_mem k t c).trans ht

/-- A save that is given up has changed no memory. -/
theorem giveUpSave_mem (s : State) (key : Nat) : (giveUpSave s key).mem = s.mem := by
  unfold giveUpSave
  split
  · rfl
  · dsimp only
    split
    · rfl
    · rfl
    · split
      · rfl
      · exact List.foldlRecOn (motive := fun t : State => t.mem = s.mem) _ takeTickets rfl fun t ht k _ => (takeTickets_mem t k).trans ht
    all_goals rfl

/-! ## Quiescing and rebinding (R319, R323) -/

theorem exec_quiesceAck (q : Nat) : exec (.quiesceAck q) s =
    .next (if bit (csrN s 0 0x501) q then csrPut s 0 0x501 (csrGet s 0 0x501 ||| BitVec.ofNat 32 (2 ^ (4 + q))) else s) := rfl

theorem bit_csrPut_same (s : State) (p n : Nat) (v : Word) (i : Nat) : bit (csrN (csrPut s p n v) p n) i = v.getLsbD i := by
  rw [csrN, csrGet_csrPut_same, bit_toNat]

theorem getLsbD_two_pow {j : Nat} (hj : j < 32) (i : Nat) : (BitVec.ofNat 32 (2 ^ j)).getLsbD i = decide (i = j) := by
  rw [BitVec.getLsbD_ofNat, Nat.testBit_two_pow]
  by_cases h : i = j
  · subst h
    simp [hj]
  · simp [h, Ne.symm h]

/-- The bit that acknowledges is set, and no other changes. -/
theorem quiesceAck_bits {q : Nat} (hq : q < 4) (i : Nat) :
    bit (csrN (csrPut s 0 0x501 (csrGet s 0 0x501 ||| BitVec.ofNat 32 (2 ^ (4 + q)))) 0 0x501) i =
      (bit (csrN s 0 0x501) i || decide (i = 4 + q)) := by
  rw [bit_csrPut_same, BitVec.getLsbD_or, getLsbD_two_pow (by omega), csrN, bit_toNat]

/-- The broadcast words of a core as the end of a rebinding leaves them. -/
def reboundHw (s : State) (c : Nat) (hw : NMap Word) : NMap Word := (s.rebind.getD (quarterOf c) none).getD hw

theorem reboundHw_twice (s : State) (c : Nat) (hw : NMap Word) : reboundHw s c (reboundHw s c hw) = reboundHw s c hw := by
  unfold reboundHw
  cases s.rebind.getD (quarterOf c) none <;> rfl

/-- Every copy of a list takes what its partition's lowest quarter held (R323). -/
theorem hw_rebound (s : State) (c : Nat) : ∀ (l : List Nat) (t : State),
    (coreOf (l.foldl (fun t c => setCore t c fun x => { x with hw := reboundHw s c x.hw }) t) c).hw =
      if c ∈ l then reboundHw s c (coreOf t c).hw else (coreOf t c).hw
  | [], t => rfl
  | d :: l, t => by
    rw [List.foldl_cons, hw_rebound s c l, coreOf_setCore]
    by_cases hd : c = d
    · subst hd
      rw [if_pos rfl, if_pos List.mem_cons_self]
      split
      · exact reboundHw_twice ..
      · rfl
    · rw [if_neg hd]
      simp only [List.mem_cons, hd, false_or]

theorem exec_hgRebindComplete_spec (s : State) :
    ∃ t, exec .hgRebindComplete s = .next t ∧ bit (csrN t 0 0x501) 8 = false ∧ t.rebind = [] ∧
      ∀ c, c < 48 → (coreOf t c).hw = reboundHw s c (coreOf s c).hw := by
  let s1 := { csrPut s 0 0x501 (csrGet s 0 0x501 &&& ~~~ (0x100 : Word)) with rebind := [] }
  let step : State → Nat → State := fun t c => setCore t c fun x => { x with hw := reboundHw s c x.hw }
  have hsame : ((upTo 48).foldl step s1).csr = s1.csr ∧ ((upTo 48).foldl step s1).rebind = [] :=
    List.foldlRecOn (motive := fun t : State => t.csr = s1.csr ∧ t.rebind = []) _ step ⟨rfl, rfl⟩ fun _ ht _ _ => ht
  obtain ⟨hcsr, hrebind⟩ := hsame
  refine ⟨(upTo 48).foldl step s1, rfl, ?_, hrebind, fun c hc => ?_⟩
  · rw [csrN, csrGet, hcsr]
    show bit (csrN (csrPut s 0 0x501 (csrGet s 0 0x501 &&& ~~~ (0x100 : Word))) 0 0x501) 8 = false
    rw [bit_csrPut_same, BitVec.getLsbD_and]
    exact Bool.and_eq_false_imp.2 fun _ => by decide
  · exact (hw_rebound s c (upTo 48) s1).trans (if_pos (mem_upTo.2 hc))

/-! ## ABORT (R298) -/

/-- The grid k stands in t where it stands in s, and the clock is the same. -/
structure GridStands (k : Nat) (s t : State) : Prop where
  grid : (look s.grids k).isSome → (look t.grids k).isSome
  clk : t.clk = s.clk

namespace GridStands

theorem refl (k : Nat) (s : State) : GridStands k s s := ⟨id, rfl⟩

theorem trans (h : GridStands k s t) (g : GridStands k t u) : GridStands k s u := ⟨fun w => g.grid (h.grid w), g.clk.trans h.clk⟩

theorem foldl {α : Type} {f : State → α → State} (hf : ∀ s a, GridStands k s (f s a)) :
    ∀ (l : List α) (s : State), GridStands k s (l.foldl f s)
  | [], s => .refl k s
  | a :: l, s => (hf s a).trans (foldl hf l (f s a))

theorem of_grids (hg : t.grids = s.grids) (hc : t.clk = s.clk) : GridStands k s t := ⟨fun w => by rw [hg]; exact w, hc⟩

theorem of_gangs (h : GangsLeave s t) : GridStands k s t := .of_grids h.grids h.clk

theorem of_residents (h : SameResidents s t) : GridStands k s t := .of_grids h.grids h.clk

/-- A grid's entry changes. -/
theorem of_alter {j : Nat} {f : Grid → Grid} (hg : t.grids = alter s.grids j f) (hc : t.clk = s.clk) : GridStands k s t := by
  refine ⟨fun w => ?_, hc⟩
  rw [hg, look_alter]
  split
  next h => rw [Option.isSome_map, ← h]; exact w
  · exact w

end GridStands

theorem abortBlock_gridStands (s : State) (key : Nat) : GridStands k s (abortBlock s key) := by
  unfold abortBlock
  split
  · exact .refl k s
  next b hb =>
    extract_lets s1 s2
    have h1 : GridStands k s s1 := .of_grids rfl rfl
    have h2 : SameResidents s1 s2 := .foldl (fun s j => onBeam_sameResidents s j _) _ s1
    exact h1.trans (.of_residents ((h2.trans (shipBlock_sameResidents s2 b)).trans (withdrawWhere_sameResidents ..)))

theorem dropGang_gridStands (s : State) (gk : Nat) (g : Gang) : GridStands k s (dropGang s gk g) := by
  unfold dropGang
  extract_lets s1
  have h1 : GridStands k s s1 := .of_alter rfl rfl
  split
  · split
    · exact h1.trans (.of_grids rfl rfl)
    · exact h1
  · exact h1

theorem freeArea_gridStands (s : State) (part : Nat) (a : Option (Nat × Nat)) : GridStands k s (freeArea s part a) :=
  .of_gangs (freeArea_gangsLeave s part a)

/-- A gang that is stopped or discarded takes no grid with it. -/
theorem abortGang_gridStands (s : State) (gk : Nat) (g : Gang) (gr : Grid) : GridStands k s (abortGang s gk g gr) := by
  unfold abortGang
  split
  · have h1 : GridStands k s { s with gangs := put s.gangs gk { g with area := none } } := .of_grids rfl rfl
    exact ((h1.trans (.foldl abortBlock_gridStands g.blocks _)).trans (freeArea_gridStands ..)).trans (.of_grids rfl rfl)
  · exact (GridStands.of_gangs ((leaveCluster_gangsLeave s gk g gr).1.trans (freeArea_gangsLeave ..))).trans (dropGang_gridStands ..)
  · extract_lets s1
    have h1 : GridStands k s s1 := .of_grids rfl rfl
    exact ((h1.trans (freeArea_gridStands ..)).trans (dropGang_gridStands ..)).trans (.of_grids rfl rfl)
  · extract_lets s1 s2
    have h2 : GridStands k s s2 := by
      unfold s2
      split
      · exact .of_grids rfl rfl
      · exact .of_alter rfl rfl
    exact h2.trans (freeArea_gridStands ..)

theorem exec_abort {g : Grid} (hg : look s.grids k = some g) : exec (.abort k) s = .next (if g.aborted || g.ending.isSome then s
    else
      let s1 := (s.gangs.filter fun x => x.2.grid == k).foldl (fun s x => abortGang s x.1 x.2 g) s
      post { s1 with grids := alter s1.grids k fun x => { x with aborted := true, next := x.lim, returned := [] } } 0 (.gridEnd k)) := by
  show execAbort k s = _
  simp only [execAbort, hg]

/-- A grid that is ended has nothing more to deal, and its end is looked at in the same clock. -/
theorem exec_abort_ends {g : Grid} (hg : look s.grids k = some g) (ha : g.aborted = false) (he : g.ending = none) :
    ∃ t, exec (.abort k) s = .next t ∧ ⟨s.clk, .gridEnd k⟩ ∈ t.agenda ∧
      ∃ y, look t.grids k = some y ∧ y.aborted = true ∧ y.returned = [] ∧ y.next = y.lim := by
  refine ⟨_, (exec_abort hg).trans (congrArg _ (if_neg (by rw [ha, he]; decide))), ?_⟩
  extract_lets s1
  have h1 : GridStands k s s1 := .foldl (f := fun s (x : Nat × Gang) => abortGang s x.1 x.2 g) 
    (fun s x => abortGang_gridStands s x.1 x.2 g) _ s
  obtain ⟨y, hy⟩ := Option.isSome_iff_exists.1 (h1.grid (by rw [hg]; rfl))
  refine ⟨h1.clk ▸ mem_agenda_post { s1 with grids := _ } (.gridEnd k), { y with aborted := true, next := y.lim, returned := [] }, ?_,
    rfl, rfl, rfl⟩
  show look (alter s1.grids k _) k = _
  rw [look_alter, if_pos rfl, hy]
  rfl

end Sys2Proof.Machine

namespace Sys2Proof.Certificates

open Sys2Proof Sys2Proof.Machine

/-- Settles O59, by what each step of a pre-emption leaves of the block, the gang and the grid it is about. -/
theorem preemptionRuns : Obligations.PreemptionRuns := by
  unfold Obligations.PreemptionRuns
  intro s
  refine ⟨fun gk g gr key b hg hgr hs hblocks hb hl => ?_, fun key b d hb hl => ⟨fun h => ?_, fun hd hdrain => ?_⟩,
    fun core n b bl hb hbl hl => exec_pgraceExpiry_spec hb hbl hl, fun gk g gr hg hgr ha hw => ⟨fun hf => ?_, fun first hf => ?_⟩,
    fun key b g gr first n hb hg hgr ha hl => ⟨fun ho => ?_, fun ho => ?_⟩,
    fun gk g gr hg hgr hs ha hdone => exec_gangPreempted_spec hg hgr hs ha hdone,
    fun gk g r hg hs hr => ⟨fun ha => ?_, fun hearly => ?_, fun gr hlate hb hgr ha => ?_, fun k b hlate ha hk hb => ?_⟩,
    fun gk g gr first n hg hgr hs ha => ⟨fun ho => ?_, fun ho => ?_⟩, fun q hq => ⟨fun h => ?_, fun h => ?_⟩,
    exec_hgRebindComplete_spec s, fun k g hg => ⟨fun h => ?_, fun ha he => exec_abort_ends hg ha he⟩⟩
  · have hbecomes := beginLeave_becomes (s := requested s gk g gr) hb gk g gr
    refine ⟨_, exec_preemptRequest hg hgr hs hblocks hb hl, ⟨{ g with requested := true, request := some (requestOf s g gr) }, ?_, rfl⟩, ?_, _,
      hbecomes.block, rfl⟩
    · rw [post_gangs, hbecomes.gangs]
      exact look_put_same _ _ _
    · rw [post_agenda, hbecomes.clk]
      exact List.mem_append_right _ (List.mem_singleton_self _)
  · rw [exec_drainWatchdogExpiry hb hl, if_neg]
    rintro ⟨hd, hdrain⟩
    obtain h | h := h
    · exact absurd h (Nat.not_lt.2 hd)
    · exact absurd (hdrain.symm.trans h) (by decide)
  · obtain ⟨u, hu⟩ := saveDrained_becomes hb b.gang
    exact ⟨_, (exec_drainWatchdogExpiry hb hl).trans (congrArg _ (if_pos ⟨hd, hdrain⟩)), _, hu.block, rfl, rfl⟩
  · rw [exec_savePoolAlloc hg hgr ha hw, hf]
    rfl
  · refine ⟨tookArea s gk g gr first, ?_, look_put_same _ _ _, lookD_put_same _ _ _ _, mem_agenda_post _ _⟩
    rw [exec_savePoolAlloc hg hgr ha hw, hf]
    rfl
  · rw [exec_saveWriteComplete hb hg hgr ha hl, ho]
    rfl
  · obtain ⟨hmem, hdone⟩ := saveWritten_spec hb b.gang g gr first
    exact ⟨_, (exec_saveWriteComplete hb hg hgr ha hl).trans (congrArg _ (if_neg (by rw [ho]; decide))), hmem, hdone⟩
  · refine exec_preemptOverdue_idle hg hs hr ?_
    rw [notOverdue, ha]
    exact Bool.or_true _
  · refine exec_preemptOverdue_idle hg hs hr ?_
    rw [notOverdue, decide_eq_true hearly, Bool.true_or]
  · have hnow : notOverdue s gk r = false := notOverdue_of_late hlate (by rw [gangGrid_of_look hg hgr, Option.map_some, ha]; decide)
    have hexec := exec_preemptOverdue_record hg hs hr hnow hb hgr
    refine ⟨fun hbit => ?_, fun hbit => ⟨_, hexec, overdueRecord_fields hbit _⟩⟩
    rw [hexec, overdueRecord, if_pos hbit]
  · exact ⟨_, rfl, rfl, giveUpSave_mem s b.block, exec_preemptOverdue_beam hg hs hr (notOverdue_of_late hlate ha) hk hb⟩
  · rw [exec_resumeRestoreComplete hg hgr hs, ho]
    rfl
  · refine ⟨_, (exec_resumeRestoreComplete hg hgr hs).trans (congrArg _ (if_neg (by rw [ho]; decide))),
      { g with state := .resident, started := s.clk, chans := restoreChans s gr first, area := none, saved := false, kept := [] }, ?_,
      rfl, rfl, rfl, rfl, rfl⟩
    show look (alter (resumeGang s gk g gr).gangs gk _) gk = _
    rw [look_alter, if_pos rfl, resumeGang_gangs ha, look_put_same]
    rfl
  · refine ⟨_, (exec_quiesceAck q).trans (congrArg _ (if_pos h)), ?_, fun i hi => ?_⟩
    · rw [quiesceAck_bits hq, decide_eq_true rfl, Bool.or_true]
    · rw [quiesceAck_bits hq, decide_eq_false hi, Bool.or_false]
  · rw [exec_quiesceAck, h]
    rfl
  · rw [exec_abort hg, if_pos]
    obtain h | h := h
    · rw [h, Bool.true_or]
    · rw [Option.isSome_iff_ne_none.2 h, Bool.or_true]

end Sys2Proof.Certificates
end
